-- ==== Sys2Proof/Word.lean ====
section
/-! DEFINITION. The word types of the module and sparse tables keyed by number. -/

namespace Sys2Proof

/-- A 64-bit word: x registers, addresses, status registers (R197). -/
abbrev W64 := BitVec 64
/-- A 32-bit lane of a vector register, an accumulator element (R197, R296). -/
abbrev W32 := BitVec 32
/-- A byte of memory. -/
abbrev Byte := BitVec 8

/-- A table keyed by number: keys strictly rising, and no entry equal to the table's default value. The default is
given at each use. -/
abbrev Tbl (α : Type) := List (Nat × α)

end Sys2Proof
end

