-- ==== Sys2Proof/Machine/Bits.lean ====
section
/-! DEFINITION. Bit fields, sign extension and little-endian byte order (R1, R4). -/

namespace Sys2Proof.Bits

/-- The field of `len` bits at bit `lo`, as a number. -/
def fld {n : Nat} (w : BitVec n) (lo len : Nat) : Nat := (w.extractLsb' lo len).toNat

/-- Bit `i`. -/
def bit {n : Nat} (w : BitVec n) (i : Nat) : Bool := w.getLsbD i

/-- A word whose bits `lo` to `lo + len - 1` are ones. -/
def ones (lo len : Nat) : BitVec 64 := BitVec.ofNat 64 ((2 ^ len - 1) <<< lo)

/-- The word with the field of `len` bits at `lo` replaced by `v`. -/
def put {n : Nat} (w : BitVec n) (lo len v : Nat) : BitVec n :=
  (w &&& ~~~(BitVec.ofNat n ((2 ^ len - 1) <<< lo))) ||| BitVec.ofNat n ((v % 2 ^ len) <<< lo)

/-- A number read as a signed value of `n` bits. -/
def signed (n v : Nat) : Int := if v % 2 ^ n < 2 ^ (n - 1) then (v % 2 ^ n : Int) else (v % 2 ^ n : Int) - (2 ^ n : Int)

/-- An integer as an `n`-bit pattern (two's complement). -/
def wrap (n : Nat) (v : Int) : Nat := (v % (2 ^ n : Int)).toNat

/-- `n` bytes of a number, byte 0 first (R1). -/
def toBytes (n v : Nat) : List Byte := (List.range n).map fun i => BitVec.ofNat 8 (v >>> (8 * i))

/-- The number that a list of bytes spells, byte 0 first (R1). -/
def ofBytes : List Byte → Nat
  | [] => 0
  | b :: bs => b.toNat + 256 * ofBytes bs

/-- Cuts a list into pieces of `n`; `fuel` bounds the pieces. -/
def chunks {α : Type} (n : Nat) : Nat → List α → List (List α)
  | 0, _ => []
  | _ + 1, [] => []
  | fuel + 1, l => l.take n :: chunks n fuel (l.drop n)

/-- The position of the k-th one bit of a number, counting from bit 0; `n` bits are searched. -/
def nthOne (v : Nat) : (n k : Nat) → Option Nat
  | 0, _ => none
  | n + 1, k =>
    match nthOne v n k with
    | some i => some i
    | none => if v.testBit n && ((List.range n).filter (v.testBit ·)).length == k then some n else none

/-- The one bits of a number below bit `n`, in ascending order. -/
def onesOf (v n : Nat) : List Nat := (List.range n).filter fun i => v.testBit i

end Sys2Proof.Bits
end

