-- ==== Sys2Proof/Syntax.lean ====
section
/-! DEFINITION. The instructions of the module: one constructor for each row of spec/opcode_table.json, with the
operands of a thread instruction (07_encoding.md) or the data of one of the module's other steps. -/

namespace Sys2Proof

/-! ## Operands of thread instructions (R199, R203 to R209) -/

/-- A guard: the predicate named and whether it is inverted (R209). -/
structure Guard where
  inv  : Bool
  pred : BitVec 3
deriving DecidableEq, Repr

/-- A scalar register field (R199). -/
abbrev XReg := BitVec 7
/-- A predicate field (R199). -/
abbrev PReg := BitVec 3
/-- A mask register field (R199). -/
abbrev MReg := BitVec 3

/-- A vector register in a 7-bit field (R199). -/
structure VReg where
  row : BitVec 3
  col : BitVec 3
deriving DecidableEq, Repr

/-- The origin of an operand block in an F-V word (R201). -/
structure VOrg where
  row : BitVec 4
  col : BitVec 4
deriving DecidableEq, Repr

/-- The destination block of an F-V word; height and width are held minus 1 (R201, R206). -/
structure VBlock where
  row : BitVec 4
  col : BitVec 4
  hM1 : BitVec 4
  wM1 : BitVec 4
deriving DecidableEq, Repr

/-- The B operand of an F-V word: a block, or a broadcast scalar register (BS = 1, R205). -/
inductive VB where
  | blk (o : VOrg)
  | bcast (x : XReg)
deriving DecidableEq, Repr

/-- The integer types of R204, codes 0x00 to 0x07. -/
inductive IntTy where
  | i8 | i16 | i32 | i64 | w8 | w16 | w32 | w64
deriving DecidableEq, Repr

/-- The scalar float types of R268. -/
inductive FTy where
  | f32 | bf16 | f16
deriving DecidableEq, Repr

/-- The types `fcvt` and `vcvt` convert between (R270, R279). -/
inductive CTy where
  | int (t : IntTy)
  | flt (t : FTy)
  | e4m3 | e5m2
deriving DecidableEq, Repr

/-- Vector arithmetic types (R205, R275). -/
inductive VTy where
  | flt (t : FTy)
  | i32 | w32 | i16 | w16 | i8 | w8
deriving DecidableEq, Repr

/-- Packed block types of `vquant` and `vdeq` (R280). -/
inductive QTy where
  | mx8 | mx6 | mx4 | dx8 | dx4
deriving DecidableEq, Repr

/-- Rounding modes (R119). -/
inductive Rm where
  | rne | rz | ru | rd
deriving DecidableEq, Repr

/-- Conditions of `cmp` and `cmpi` (R233). -/
inductive Cond where
  | eq | ne | lt | ge | ltw | gew | tst | ntst
deriving DecidableEq, Repr

/-- Conditions of `fcmp` and of `vcmp` on floats (R234). -/
inductive FCond where
  | eq | ne | lt | le | gt | ge | un | ord
deriving DecidableEq, Repr

/-- Target windows of `spcast` (R239). -/
inductive CastTo where
  | priv | loc | shr | dev
deriving DecidableEq, Repr

/-- Order codes (R207). -/
inductive Ord4 where
  | plain | acq | rel | ar
deriving DecidableEq, Repr

/-- The SC and ORD fields of an F-M word (R207). -/
structure Order where
  ord : Ord4
  sc  : BitVec 3
deriving DecidableEq, Repr

/-- Access sizes of 1, 2, 4 and 8 bytes (R207). -/
inductive Size where
  | b1 | b2 | b4 | b8
deriving DecidableEq, Repr

/-- The address of an F-M word: base, index and the signed byte offset (R207). -/
structure MAddr where
  base : XReg
  idx  : XReg
  off  : BitVec 20
deriving DecidableEq, Repr

/-- Full-empty modes (R84). -/
inductive FeMode where
  | wff | wfe | wef | sf | se
deriving DecidableEq, Repr

/-- FP32 or INT32 keys of the sorting commands (R293, R297). -/
inductive KeyTy where
  | f32 | i32
deriving DecidableEq, Repr

/-- Targets of `mdrain` and `mdrainv` (R301). -/
inductive DrainTy where
  | none | bf16 | f16 | e4m3 | e5m2 | i8
deriving DecidableEq, Repr

/-! ## Data of the module's other steps -/

/-- A point of the networks (R6, R142): a router by physical column and row, a station, a port station, a service
tile. -/
inductive Node where
  | router (x y : Nat)
  | station (n : Nat)
  | port (p : Nat)
  | service (k : Nat)
deriving DecidableEq, Repr

/-- Integer atomics and `amofadd` (R257). -/
inductive AmoOp where
  | add | min | max | minw | maxw | and | or | xor | swap | fadd | cas
deriving DecidableEq, Repr

/-- What a memory access does at its home (R95, R84, R257). -/
inductive AccKind where
  | read
  | write
  | amo (op : AmoOp)
  | fe (mode : FeMode) (isLoad : Bool)
  | feTest
  | feSet (full : Bool)
deriving DecidableEq, Repr

/-- One element of an access: which piece of the instruction it is, the address that a fault reports, the location (a
generic address at issue, then a global virtual address, and a physical address once translated), its size in bytes,
the data and the comparand. -/
structure Elem where
  key  : Nat
  addr : W64
  loc  : W64
  size : Nat
  data : W64
  cmp  : W64
deriving DecidableEq, Repr

/-- Who made an access (R97, R344): the thread's tile, domain and number, its privilege, its pc, the sequence number
of the access in the thread and whether the thread waits for the reply. -/
structure Issuer where
  tile : Nat
  dom  : Nat
  hw   : Nat
  priv : Nat
  pc   : W64
  seq  : Nat
  wait : Bool
deriving DecidableEq, Repr

/-- A memory access on its way to its home. -/
structure Access where
  kind    : AccKind
  elems   : List Elem
  iss     : Issuer
  /-- The addresses are physical: translation is done, or the access is a device-window access (R71, R79). -/
  phys    : Bool
  /-- The cache policy bits CACHE of the leaf (R73). -/
  cache   : BitVec 2
  /-- The page has SHR = 1, or the access came through the device window (R80). -/
  shr     : Bool
  /-- The access came through the device window (R67). -/
  dev     : Bool
  /-- Marked as a retry after a redirect (R384). -/
  retried : Bool
  /-- The invalidations that the translating station had seen, and whether the leaf maps 512 MiB (R76). -/
  era     : Nat := 0
  big     : Bool := false
deriving DecidableEq, Repr

/-- The result of an access: a reply status of R384 or a cause of R345, the elements read, and who waits. -/
structure Reply where
  status : Nat
  cause  : Nat
  ea     : W64
  elems  : List Elem
  iss    : Issuer
deriving DecidableEq, Repr

/-- An engine command: the layout record, the auxiliary value and its issuer (R161, R307). -/
structure EngCmd where
  desc : BitVec 512
  aux  : W64
  iss  : Issuer
deriving DecidableEq, Repr

/-- What a control reduction (TYPE 0x11), an abort (0x12) or a scroll-control message (0x13) says: band, band row, tile, and
what belongs to it (R40, R41, R90, R91, R159, R360, R407). -/
inductive Ctrl where
  | ready (b row t : Nat)
  | marker (b row t stage wave step marker : Nat)
  | release (b row t slot : Nat)
  | start (b step : Nat)
  | overrun (b step : Nat)
  | done (b row stage wave min : Nat)
  | abort (group rseq : Nat) (timeout : Bool)
deriving DecidableEq, Repr

/-- The payload of a mesh message. -/
inductive Payload where
  | none
  | access (a : Access)
  | reply (r : Reply)
  | eng (c : EngCmd)
  | bytes (b : List Byte)
  /-- Bulk data or a saddle: the bytes, the first unit's position (an edge number for a feedback edge), the issuer of the
  record, and whether the copy is third-party (R44, R169, R170). -/
  | bulk (b : List Byte) (unit : Nat) (iss : Issuer) (third : Bool)
  /-- The answer to a refused or written bulk-data message: the unit, the record's issuer, and the stream of a message that
  belongs to one (R169, R439). -/
  | back (unit : Nat) (iss : Issuer) (stream : Option Nat)
  | words (d0 d1 : W64)
  | elems (ws : List W32)
  | launch (r : BitVec 512) (iss : Issuer)
  /-- A mailbox post: the two words, the address it was posted to, its sender (R261). -/
  | post (d0 d1 ea : W64) (iss : Issuer)
  /-- A configuration operation (R315): 1 `repart`, 2 `slotw`, 3 `jkill`, 4 `snap`, with two operands and its issuer. -/
  | config (op a b : Nat) (iss : Issuer)
  | ctrl (c : Ctrl)
  /-- A completion or a report for a mailbox: MKIND, STATUS, DATA0 and DATA1 (R135). -/
  | done (mkind status : Nat) (d0 d1 : W64)
deriving DecidableEq, Repr

/-- The link layer's prefix of a message between modules: source and destination module, and, once a block has chosen it, the
port by which it leaves this module and the next module behind that port (R188, R189). -/
structure Away where
  src  : Nat
  dst  : Nat
  port : Option (Nat × Nat)
deriving DecidableEq, Repr

/-- A mesh message (R134, R135). The length fields BYTES and FLITS_M1 follow from the payload. -/
structure Msg where
  typ     : BitVec 8
  pid     : BitVec 16
  src     : Node
  dst     : Node
  sdom    : BitVec 2
  ordered : Bool
  stream  : BitVec 8
  seq     : BitVec 16
  arg     : BitVec 32
  pay     : Payload
  away    : Option Away := none
deriving DecidableEq, Repr

/-- An occurrence of a timetable entry (R88, R90): the band, the band row, the stage, the wave of the run, the
entry's 256 bits and its address, the timetable's period, and the marker value M. -/
structure Occ where
  band   : Nat
  row    : Nat
  stage  : Nat
  wave   : Nat
  entry  : BitVec 256
  addr   : W64
  period : Nat
  m      : Nat
deriving DecidableEq, Repr

/-- A light frame (R156): the header's fields and the payload. `crcOk` says that the CRC-32C holds on arrival. -/
structure Frame where
  group    : BitVec 12
  slot     : BitVec 4
  fill     : BitVec 16
  fmt      : BitVec 4
  last     : Bool
  offset   : BitVec 17
  scaleOff : BitVec 17
  payload  : List Byte
  lambda   : Nat
  src      : Nat
  crcOk    : Bool
deriving DecidableEq, Repr

/-- A direction of a router's tile links: 1 W, 2 N, 3 E, 4 S (R394). -/
inductive Dir where
  | w | n | e | s
deriving DecidableEq, Repr

/-- Why a tile is fenced (R397). -/
inductive FenceReason where
  | silent | babbling | self
deriving DecidableEq, Repr

/-- What the boot ROM or a verification found of a flash copy (R332, R365). -/
inductive FlashState where
  | unreadable | badDigest | badSignature | valid
deriving DecidableEq, Repr

/-! ## The instructions -/

/-- Every row of spec/opcode_table.json. The first 198 are thread instructions; each carries its guard. The others
are the module's own steps and the requests of the outside world. -/
inductive Instr where
  -- control (R241 to R247)
  | ill (rest : BitVec 56)
  | nop (g : Guard)
  | br (g : Guard) (off : BitVec 45)
  | call (g : Guard) (d : XReg) (off : BitVec 45)
  | jr (g : Guard) (d a : XReg)
  | loop (g : Guard) (d : XReg) (off : BitVec 45)
  | waitc (g : Guard) (d a : XReg) (imm : BitVec 32)
  | yield (g : Guard)
  | exit (g : Guard)
  | brk (g : Guard) (imm : BitVec 32)
  | trap (g : Guard) (imm : BitVec 32)
  -- integer register ALU (R224 to R230)
  | add (g : Guard) (t : IntTy) (sat : Bool) (d a b : XReg)
  | sub (g : Guard) (t : IntTy) (sat : Bool) (d a b : XReg)
  | mul (g : Guard) (t : IntTy) (sat : Bool) (d a b : XReg)
  | mulh (g : Guard) (t : IntTy) (d a b : XReg)
  | mulhw (g : Guard) (t : IntTy) (d a b : XReg)
  | div (g : Guard) (t : IntTy) (d a b : XReg)
  | divw (g : Guard) (t : IntTy) (d a b : XReg)
  | rem (g : Guard) (t : IntTy) (d a b : XReg)
  | remw (g : Guard) (t : IntTy) (d a b : XReg)
  | and (g : Guard) (t : IntTy) (d a b : XReg)
  | or (g : Guard) (t : IntTy) (d a b : XReg)
  | xor (g : Guard) (t : IntTy) (d a b : XReg)
  | andn (g : Guard) (t : IntTy) (d a b : XReg)
  | orn (g : Guard) (t : IntTy) (d a b : XReg)
  | shl (g : Guard) (t : IntTy) (d a b : XReg)
  | shr (g : Guard) (t : IntTy) (d a b : XReg)
  | sra (g : Guard) (t : IntTy) (d a b : XReg)
  | rol (g : Guard) (t : IntTy) (d a b : XReg)
  | min (g : Guard) (t : IntTy) (d a b : XReg)
  | max (g : Guard) (t : IntTy) (d a b : XReg)
  | minw (g : Guard) (t : IntTy) (d a b : XReg)
  | maxw (g : Guard) (t : IntTy) (d a b : XReg)
  | clz (g : Guard) (t : IntTy) (d a : XReg)
  | ctz (g : Guard) (t : IntTy) (d a : XReg)
  | popc (g : Guard) (t : IntTy) (d a : XReg)
  | brev (g : Guard) (t : IntTy) (d a : XReg)
  | bswap (g : Guard) (t : IntTy) (d a : XReg)
  | bfx (g : Guard) (t : IntTy) (d a b c : XReg)
  | bfxw (g : Guard) (t : IntTy) (d a b c : XReg)
  | bfi (g : Guard) (t : IntTy) (d a b c : XReg)
  | sel (g : Guard) (t : IntTy) (d : XReg) (p : PReg) (a b : XReg)
  | abs (g : Guard) (t : IntTy) (sat : Bool) (d a : XReg)
  | neg (g : Guard) (t : IntTy) (sat : Bool) (d a : XReg)
  -- immediate forms (R231, R232)
  | addi (g : Guard) (d a : XReg) (imm : BitVec 32)
  | andi (g : Guard) (d a : XReg) (imm : BitVec 32)
  | ori (g : Guard) (d a : XReg) (imm : BitVec 32)
  | xori (g : Guard) (d a : XReg) (imm : BitVec 32)
  | shli (g : Guard) (d a : XReg) (sh : BitVec 6)
  | shri (g : Guard) (d a : XReg) (sh : BitVec 6)
  | srai (g : Guard) (d a : XReg) (sh : BitVec 6)
  | muli (g : Guard) (d a : XReg) (imm : BitVec 32)
  | movi (g : Guard) (d : XReg) (imm : BitVec 45)
  | movhi (g : Guard) (d : XReg) (imm : BitVec 45)
  -- compares and predicates (R233 to R236)
  | cmp (g : Guard) (t : IntTy) (p : PReg) (a b : XReg) (c : Cond)
  | cmpi (g : Guard) (p : PReg) (a : XReg) (imm : BitVec 32) (c : Cond)
  | fcmp (g : Guard) (t : FTy) (p : PReg) (a b : XReg) (c : FCond)
  | pand (g : Guard) (d a b : PReg)
  | por (g : Guard) (d a b : PReg)
  | pxor (g : Guard) (d a b : PReg)
  | pandn (g : Guard) (d a b : PReg)
  | pget (g : Guard) (d : XReg)
  | pput (g : Guard) (a b : XReg)
  -- generic addresses (R237 to R240)
  | lea (g : Guard) (d : XReg) (m : MAddr)
  | spctest (g : Guard) (d : XReg) (p : PReg) (a : XReg)
  | spcast (g : Guard) (d : XReg) (p : PReg) (a : XReg) (target : CastTo)
  | mkshr (g : Guard) (d a b : XReg)
  -- scalar floating point (R268 to R272)
  | fadd (g : Guard) (t : FTy) (rm : Rm) (sat : Bool) (d a b : XReg)
  | fsub (g : Guard) (t : FTy) (rm : Rm) (sat : Bool) (d a b : XReg)
  | fmul (g : Guard) (t : FTy) (rm : Rm) (sat : Bool) (d a b : XReg)
  | ffma (g : Guard) (t : FTy) (rm : Rm) (sat : Bool) (d a b c : XReg)
  | ffms (g : Guard) (t : FTy) (rm : Rm) (sat : Bool) (d a b c : XReg)
  | fdiv (g : Guard) (t : FTy) (rm : Rm) (sat : Bool) (d a b : XReg)
  | fsqrt (g : Guard) (t : FTy) (rm : Rm) (sat : Bool) (d a : XReg)
  | fmin (g : Guard) (t : FTy) (d a b : XReg)
  | fmax (g : Guard) (t : FTy) (d a b : XReg)
  | fabs (g : Guard) (t : FTy) (d a : XReg)
  | fneg (g : Guard) (t : FTy) (d a : XReg)
  | fsgn (g : Guard) (t : FTy) (d a b : XReg)
  | fcvt (g : Guard) (dt st : CTy) (rm : Rm) (sat : Bool) (d a : XReg)
  | fclass (g : Guard) (t : FTy) (d a : XReg)
  | frnd (g : Guard) (t : FTy) (rm : Rm) (d a : XReg)
  -- memory (R248 to R257)
  | ld (g : Guard) (sx : Bool) (sz : Size) (o : Order) (d : XReg) (m : MAddr)
  | st (g : Guard) (sz : Size) (o : Order) (d : XReg) (m : MAddr)
  | stWc (g : Guard) (sz : Size) (d : XReg) (m : MAddr)
  | ldfe (g : Guard) (fm : FeMode) (o : Order) (d : XReg) (m : MAddr)
  | stfe (g : Guard) (fm : FeMode) (o : Order) (d : XReg) (m : MAddr)
  | fetest (g : Guard) (o : Order) (d : XReg) (m : MAddr)
  | feset (g : Guard) (full : Bool) (o : Order) (m : MAddr)
  | pf (g : Guard) (llc : Bool) (m : MAddr)
  | fence (g : Guard) (o : Order)
  | amoadd (g : Guard) (sx : Bool) (sz : Size) (nr : Bool) (o : Order) (d : XReg) (m : MAddr)
  | amomin (g : Guard) (sx : Bool) (sz : Size) (nr : Bool) (o : Order) (d : XReg) (m : MAddr)
  | amomax (g : Guard) (sx : Bool) (sz : Size) (nr : Bool) (o : Order) (d : XReg) (m : MAddr)
  | amominw (g : Guard) (sx : Bool) (sz : Size) (nr : Bool) (o : Order) (d : XReg) (m : MAddr)
  | amomaxw (g : Guard) (sx : Bool) (sz : Size) (nr : Bool) (o : Order) (d : XReg) (m : MAddr)
  | amoand (g : Guard) (sx : Bool) (sz : Size) (nr : Bool) (o : Order) (d : XReg) (m : MAddr)
  | amoor (g : Guard) (sx : Bool) (sz : Size) (nr : Bool) (o : Order) (d : XReg) (m : MAddr)
  | amoxor (g : Guard) (sx : Bool) (sz : Size) (nr : Bool) (o : Order) (d : XReg) (m : MAddr)
  | amoswap (g : Guard) (sx : Bool) (sz : Size) (nr : Bool) (o : Order) (d : XReg) (m : MAddr)
  | amofadd (g : Guard) (nr : Bool) (o : Order) (d : XReg) (m : MAddr)
  | amocas (g : Guard) (sx : Bool) (sz : Size) (o : Order) (d : XReg) (m : MAddr)
  -- vector memory (R258 to R260)
  | vld (g : Guard) (n : Size) (o : Order) (d : VReg) (m : MAddr)
  | vst (g : Guard) (n : Size) (o : Order) (d : VReg) (m : MAddr)
  | vldg (g : Guard) (sx : Bool) (sz : Size) (mk : MReg) (o : Order) (d : VReg) (base : XReg) (vi : VReg) (off : BitVec 20)
  | vsts (g : Guard) (sz : Size) (mk : MReg) (o : Order) (d : VReg) (base : XReg) (vi : VReg) (off : BitVec 20)
  | vldb (g : Guard) (sx : Bool) (sz : Size) (mk : MReg) (o : Order) (d : VReg) (m : MAddr)
  | vldt (g : Guard) (sx : Bool) (sz : Size) (mk : MReg) (o : Order) (d : VReg) (m : MAddr)
  | vstt (g : Guard) (sz : Size) (mk : MReg) (o : Order) (d : VReg) (m : MAddr)
  -- vector arithmetic and logic (R277)
  | vadd (g : Guard) (t : VTy) (rm : Rm) (sat : Bool) (d : VBlock) (a : VOrg) (b : VB) (mk : MReg)
  | vsub (g : Guard) (t : VTy) (rm : Rm) (sat : Bool) (d : VBlock) (a : VOrg) (b : VB) (mk : MReg)
  | vmul (g : Guard) (t : VTy) (rm : Rm) (sat : Bool) (d : VBlock) (a : VOrg) (b : VB) (mk : MReg)
  | vfma (g : Guard) (t : FTy) (rm : Rm) (sat : Bool) (d : VBlock) (a : VOrg) (b : VB) (mk : MReg)
  | vfms (g : Guard) (t : FTy) (rm : Rm) (sat : Bool) (d : VBlock) (a : VOrg) (b : VB) (mk : MReg)
  | vmin (g : Guard) (t : VTy) (d : VBlock) (a : VOrg) (b : VB) (mk : MReg)
  | vmax (g : Guard) (t : VTy) (d : VBlock) (a : VOrg) (b : VB) (mk : MReg)
  | vabs (g : Guard) (t : VTy) (sat : Bool) (d : VBlock) (a : VOrg) (mk : MReg)
  | vneg (g : Guard) (t : VTy) (sat : Bool) (d : VBlock) (a : VOrg) (mk : MReg)
  | vand (g : Guard) (d : VBlock) (a : VOrg) (b : VB) (mk : MReg)
  | vor (g : Guard) (d : VBlock) (a : VOrg) (b : VB) (mk : MReg)
  | vxor (g : Guard) (d : VBlock) (a : VOrg) (b : VB) (mk : MReg)
  | vandn (g : Guard) (d : VBlock) (a : VOrg) (b : VB) (mk : MReg)
  | vshl (g : Guard) (t : VTy) (d : VBlock) (a : VOrg) (b : VB) (mk : MReg)
  | vshr (g : Guard) (t : VTy) (d : VBlock) (a : VOrg) (b : VB) (mk : MReg)
  | vsra (g : Guard) (t : VTy) (d : VBlock) (a : VOrg) (b : VB) (mk : MReg)
  | vcmp (g : Guard) (t : VTy) (c : FCond) (md : MReg) (a : VOrg) (b : VB) (mk : MReg)
  -- selection, movement, conversion (R278 to R282)
  | vsel (g : Guard) (d : VBlock) (a : VOrg) (b : VB) (mk : MReg)
  | vmov (g : Guard) (d : VBlock) (a : VOrg) (mk : MReg)
  | vbcast (g : Guard) (d : VBlock) (x : XReg) (mk : MReg)
  | vbcastLane (g : Guard) (d : VBlock) (a : VOrg) (lane : BitVec 6) (mk : MReg)
  | vcvt (g : Guard) (dt st : CTy) (rm : Rm) (sat : Bool) (d : VBlock) (a : VOrg) (mk : MReg)
  | vquant (g : Guard) (t : QTy) (rm : Rm) (d : VBlock) (a : VOrg)
  | vdeq (g : Guard) (t : QTy) (rm : Rm) (sat : Bool) (d : VBlock) (a : VOrg) (mk : MReg)
  | vexp2 (g : Guard) (rm : Rm) (d : VBlock) (a : VOrg) (mk : MReg)
  | vlog2 (g : Guard) (rm : Rm) (d : VBlock) (a : VOrg) (mk : MReg)
  | vrcp (g : Guard) (rm : Rm) (d : VBlock) (a : VOrg) (mk : MReg)
  | vrsqrt (g : Guard) (rm : Rm) (d : VBlock) (a : VOrg) (mk : MReg)
  | vtanh (g : Guard) (rm : Rm) (d : VBlock) (a : VOrg) (mk : MReg)
  | vsig (g : Guard) (rm : Rm) (d : VBlock) (a : VOrg) (mk : MReg)
  -- reductions, permutes, compress (R283 to R288)
  | vredsum (g : Guard) (t : VTy) (rm : Rm) (sat : Bool) (d : VBlock) (a : VOrg) (mk : MReg)
  | vredmax (g : Guard) (t : VTy) (d : VBlock) (a : VOrg) (mk : MReg)
  | vredmin (g : Guard) (t : VTy) (d : VBlock) (a : VOrg) (mk : MReg)
  | vscan (g : Guard) (t : VTy) (rm : Rm) (sat : Bool) (d : VBlock) (a : VOrg) (mk : MReg)
  | vperm (g : Guard) (d : VBlock) (a : VOrg) (b : VB) (mk : MReg)
  | vrot (g : Guard) (d : VBlock) (a : VOrg) (x : XReg) (mk : MReg)
  | vshuf (g : Guard) (d : VBlock) (a b : VOrg) (pat : BitVec 7) (mk : MReg)
  | vcompress (g : Guard) (d : VBlock) (a : VOrg) (mk : MReg)
  | vcompressMag (g : Guard) (d : VBlock) (a : VOrg) (lg : BitVec 3) (nM1 : BitVec 4)
  | vcompressTop (g : Guard) (t : KeyTy) (d : VBlock) (a : VOrg) (lg : BitVec 3) (nM1 : BitVec 4)
  | vargmax (g : Guard) (t : KeyTy) (d : VBlock) (a : VOrg) (mk : MReg)
  | vrescale (g : Guard) (d : VBlock) (a b : VOrg)
  -- mask logic (R289)
  | mand (g : Guard) (md ma mb : MReg)
  | mor (g : Guard) (md ma mb : MReg)
  | mxor (g : Guard) (md ma mb : MReg)
  | mnot (g : Guard) (md ma : MReg)
  | mpop (g : Guard) (d : XReg) (ma : MReg)
  -- matrix commands (R290 to R305)
  | mstep (g : Guard) (acc : BitVec 6) (slot : BitVec 4) (r : XReg) (cM1 : BitVec 12)
  | mstepSort (g : Guard) (t : KeyTy) (o r : XReg) (cM1 : BitVec 12)
  | mstepTopk (g : Guard) (t : KeyTy) (o r : XReg) (cM1 : BitVec 12)
  | mzero (g : Guard) (acc : BitVec 6) (cM1 : BitVec 12)
  | mload (g : Guard) (acc : BitVec 6) (r : XReg) (cM1 : BitVec 12)
  | mdrain (g : Guard) (t : DrainTy) (sat : Bool) (acc : BitVec 6) (r s : XReg) (cM1 : BitVec 12)
  | mdrainv (g : Guard) (t : DrainTy) (sat : Bool) (v : VReg) (acc : BitVec 6) (a : XReg) (cM1 : BitVec 12)
  | msort (g : Guard) (t : KeyTy) (lg : BitVec 4) (o k : XReg) (cM1 : BitVec 12)
  | mtopk (g : Guard) (t : KeyTy) (lg : BitVec 4) (kM1 : BitVec 6) (o k : XReg) (cM1 : BitVec 12)
  | mcfg (g : Guard) (r : XReg)
  | mcfgOff (g : Guard)
  | mwait (g : Guard) (n : BitVec 8)
  | wrel (g : Guard) (slot : BitVec 4)
  | wstat (g : Guard) (d : XReg) (slot : BitVec 4)
  | wstatWait (g : Guard) (d : XReg) (slot : BitVec 4)
  -- movement (R307 to R311)
  | xfer (g : Guard) (r a : XReg)
  | sbind (g : Guard) (port : BitVec 3) (r a : XReg)
  | swait (g : Guard) (port : BitVec 3)
  -- mailbox and barriers (R261 to R263)
  | post (g : Guard) (a b c : XReg) (tag : BitVec 16)
  | take (g : Guard) (d a : XReg) (imm : BitVec 32)
  | peek (g : Guard) (d a : XReg) (imm : BitVec 32)
  | await (g : Guard) (d a : XReg) (imm : BitVec 32)
  | barinit (g : Guard) (b : BitVec 4)
  | barexp (g : Guard) (a : XReg) (b : BitVec 4) (arm : Bool)
  | bararr (g : Guard) (a : XReg) (b : BitVec 4)
  | barwait (g : Guard) (b : BitVec 4)
  | bartest (g : Guard) (d : XReg) (b : BitVec 4)
  | redput (g : Guard) (r x : XReg)
  | coll (g : Guard) (r e : XReg)
  | mark (g : Guard) (a : XReg) (imm : BitVec 32)
  | sdone (g : Guard)
  -- system (R312 to R320)
  | csrr (g : Guard) (d : XReg) (n : BitVec 14)
  | csrw (g : Guard) (d a : XReg) (n : BitVec 14)
  | csrs (g : Guard) (d a : XReg) (n : BitVec 14)
  | csrc (g : Guard) (d a : XReg) (n : BitVec 14)
  | eret (g : Guard)
  | repart (g : Guard) (d a : XReg) (mode : BitVec 2)
  | ctxsave (g : Guard) (a : XReg) (k : Bool)
  | ctxload (g : Guard) (a : XReg) (k : Bool)
  | slotw (g : Guard) (d a : XReg) (dom : BitVec 2)
  | jkill (g : Guard) (d a : XReg)
  | snap (g : Guard) (d a : XReg) (herd : Bool)
  -- host requests (R56): service tile, privileged half of the window, the record
  | launch (sv : Nat) (priv : Bool) (r : BitVec 512)
  | drain (sv : Nat) (priv : Bool) (r : BitVec 512)
  | freeze (sv : Nat) (priv : Bool) (r : BitVec 512)
  | restore (sv : Nat) (priv : Bool) (r : BitVec 512)
  | attest (sv : Nat) (priv : Bool) (r : BitVec 512)
  | handler (sv : Nat) (priv : Bool) (r : BitVec 512)
  | copyIn (sv : Nat) (priv : Bool) (r : BitVec 512)
  | copyOut (sv : Nat) (priv : Bool) (r : BitVec 512)
  -- launch, scroll, drain and freeze (R34 to R49): launch, band, region, tile and domain numbers
  | launchEnd (l : Nat)
  | tileReady (t d : Nat)
  | stepStart (b : Nat)
  | stageEntry (t d : Nat)
  | stageDone (t d : Nat)
  | parkedSaddleDelivery (b : Nat)
  | initialSaddleDelivery (b stage : Nat)
  | waveCommit (b w : Nat)
  | bandFinish (b : Nat)
  | drainComplete (r : Nat)
  | freezeImageWrite (r : Nat)
  | freezeAbandon (r : Nat)
  | stepOverrun (b step : Nat)
  | overrunOrder (t d step : Nat)
  | stageDoneReport (b row stage wave min : Nat)
  | readyReduction (b row t : Nat)
  | markerReduction (b row t marker : Nat)
  | slotRelease (t slot : Nat)
  -- the timetable and light (R87 to R94, R155 to R160, R409)
  | kind1Prefetch (o : Occ)
  | kind2Emit (o : Occ)
  | kind3Writeback (o : Occ)
  | kind4Fetch (o : Occ)
  | kind5Assert (o : Occ)
  | residencyComplete (t d : Nat) (o : Occ)
  | lightFrame (t : Nat) (f : Frame)
  | frameRepairRequest (m : Msg)
  | lostFill (t slot : Nat)
  -- arriving messages (R135)
  | readRequest (m : Msg)
  | writeRequest (m : Msg)
  | atomicRequest (m : Msg)
  | engineCommand (m : Msg)
  | mailboxPost (m : Msg)
  | configurationWrite (m : Msg)
  | readReply (m : Msg)
  | writeAcknowledgement (m : Msg)
  | atomicReply (m : Msg)
  | orderedStreamAck (m : Msg)
  | engineCompletion (m : Msg)
  | bulkData (m : Msg)
  | saddleMessage (m : Msg)
  | reductionContribution (n : Node) (port : Nat) (m : Msg)
  | reductionAbort (n : Node) (group rseq : Nat) (timeout : Bool)
  | reductionContextTimeout (n : Node) (group rseq : Nat)
  | collectiveLaunchRecord (n : Node) (m : Msg)
  | collectiveChunkData (n : Node) (m : Msg)
  | collectiveChunkAck (n : Node) (m : Msg)
  | chunkOperationRun (n : Node) (slot op : Nat)
  | escalation (m : Msg)
  | guardReport (m : Msg)
  | wakeHint (p module : Nat)
  | xlatInvalMessage (station : Nat) (v : W64)
  | reservedTypeMessage (n : Node) (m : Msg)
  | meshRoute (at_ : Node) (m : Msg)
  | flitRetry (x y : Nat) (p : Dir) (failed : Nat)
  | tailKill (n : Node) (m : Msg)
  -- engines, ports and matrix commands (R162 to R175, R291)
  | blockTransferStart (station engine : Nat)
  | transferComplete (station engine : Nat)
  | streamPatternStart (t port : Nat)
  | patternComplete (t port : Nat)
  | matrixCommandComplete (t d : Nat)
  -- the tile's own events (R53, R244, R346, R356, R361, R385)
  | slotTableRotation
  | waitcExpiry (t hw : Nat)
  | handlerEntry (t hw : Nat)
  | feLimitExpiry (t hw since : Nat)
  | parkWatchdog (t d since : Nat)
  | mailboxRetry (t d : Nat)
  | waitWithdrawalAck (t hw : Nat)
  -- removal (R363)
  | killWrite (n : Node) (pid : BitVec 16)
  | killSweepEnd (n : Node) (pid : BitVec 16)
  | removalConfirmed (pid : BitVec 16)
  -- device registers (R75, R76, R181, R382, R418, R3)
  | xlatInvalWrite (station : Nat) (v : W64)
  | xlatInvalDone
  | collLoad (n : Node) (v : W64) (pid : BitVec 16) (free : Bool)
  | collStop (n : Node) (slot : Nat)
  | redHoldHold (x y : Nat) (group rseq : Nat)
  | redHoldRelease (x y : Nat) (group rseq : Nat)
  | redHoldAbandon (x y : Nat) (group rseq : Nat)
  | engResolveRetry (n : Node) (index : Nat)
  | engResolveAbandon (n : Node) (index : Nat)
  | remapEntryWrite (row col physX : Nat)
  | rowPwrWrite (row : Nat) (v : W64)
  | rowPowerSettled (row : Nat)
  | portLaserWrite (p : Nat) (v : W64)
  | portLanesDrain (p lane : Nat)
  | registerWrite (a : Nat) (v : W64)
  | rcRegisterRead (a : Nat)
  -- LLC buckets and DRAM lanes (R82, R375)
  | rebalanceEpoch
  | bucketFlushed
  | bucketActiveAtNew
  | laneSwapEnd (station channel : Nat) (ok : Bool)
  -- fencing, substitution and replay (R390 to R422)
  | heartbeatSend (x y : Nat)
  | heartbeat (x y : Nat) (p : Dir)
  | silenceAccusation (x y : Nat) (p : Dir)
  | babbleWindowEnd (x y : Nat) (p : Dir)
  | accusation (x y ax ay : Nat) (by_ : Node) (r : FenceReason)
  | accusationWithdrawal (x y ax ay : Nat) (by_ : Node)
  | accusationExpiry (x y ax ay : Nat) (by_ : Node)
  | quorumHoldEnd (x y ax ay : Nat)
  | selfFence (x y : Nat)
  | fenceNotice (n : Node) (fx fy : Nat) (r : FenceReason)
  | substitution (row col : Nat)
  | replayStep (b stage : Nat)
  | farrierTest (x y : Nat) (passed : Bool)
  | appeal (x y : Nat) (p : Dir)
  | probationEnd (x y : Nat) (p : Dir)
  | readmissionNotice (n : Node) (fx fy : Nat)
  -- herd links, ports and lasers (R188 to R191, R337 to R340, R423 to R426)
  | timeSyncSend (p : Nat)
  | timeSyncSymbol (p : Nat) (v : W64)
  | quiesce (p : Nat)
  | resume (p : Nat)
  | restripe (p : Nat) (lanes : BitVec 16)
  | fecReplay (p : Nat)
  | lockLoss (p lane : Nat)
  | relightTimeout (p : Nat)
  | laserLoadWindow (p : Nat)
  | portLocked (p : Nat)
  -- boot, power and management (R332 to R342, R364 to R366)
  | moduleReset
  | thermalSample (row : Nat)
  | thermalTrip
  | snapshotTrigger
  | measurementExtend (k i : Nat) (d : BitVec 512)
  | firmwareUpdate (k : Nat) (image : FlashState) (digest : BitVec 512)
  | managementReset
  | herdMembershipChange (members : BitVec 32)
  | pcieReadCompletion (k : Nat)
  | ageHorizonCrossed (p lane : Nat) (hours : BitVec 16)
deriving DecidableEq, Repr

end Sys2Proof
end

