-- ==== Sys2Proof/Decode.lean ====
section
/-! DEFINITION. Decoding of 64-bit instruction words and its inverse (07_encoding.md; the field tables of R226 to
R312). A word that is not an instruction is rejected by the name of its first failing check, in the order of R354. -/

namespace Sys2Proof

open Bits

/-- Why a word is not an instruction: the word checks of R354, in their order. -/
inductive DecodeError where
  /-- The opcode is reserved (cause 0x01). -/
  | illegal
  /-- A reserved bit is 1 (cause 0x02). -/
  | reserved
  /-- A type, mode, condition, order or scope that the instruction does not accept (cause 0x03). -/
  | unaccepted
deriving DecidableEq, Repr

/-! ## Fields (R201, R203, R207) -/

def fOp (w : W64) : Nat := fld w 56 8
def fG (w : W64) : Guard := ⟨bit w 55, w.extractLsb' 52 3⟩
def fD (w : W64) : XReg := w.extractLsb' 45 7
def fA (w : W64) : XReg := w.extractLsb' 38 7
def fB (w : W64) : XReg := w.extractLsb' 31 7
def fC (w : W64) : XReg := w.extractLsb' 24 7
def fPd (w : W64) : PReg := w.extractLsb' 16 3
def fSat (w : W64) : Bool := bit w 8
def fImm (w : W64) : BitVec 32 := w.extractLsb' 0 32
def fImm45 (w : W64) : BitVec 45 := w.extractLsb' 0 45
def fM (w : W64) : MAddr := ⟨fA w, fB w, w.extractLsb' 0 20⟩
def fVReg (w : W64) (lo : Nat) : VReg := ⟨w.extractLsb' (lo + 3) 3, w.extractLsb' lo 3⟩
def fBlk (w : W64) : VBlock :=
  ⟨w.extractLsb' 48 4, w.extractLsb' 44 4, w.extractLsb' 40 4, w.extractLsb' 36 4⟩
def fOrgA (w : W64) : VOrg := ⟨w.extractLsb' 32 4, w.extractLsb' 28 4⟩
def fOrgB (w : W64) : VOrg := ⟨w.extractLsb' 24 4, w.extractLsb' 20 4⟩
def fBs (w : W64) : Bool := bit w 8
def fVb (w : W64) : VB := if fBs w then .bcast (w.extractLsb' 0 7) else .blk (fOrgB w)
def fMk (w : W64) : MReg := w.extractLsb' 12 3
def fVSat (w : W64) : Bool := bit w 9
def fAcc (w : W64) : BitVec 6 := w.extractLsb' 32 6
def fSlot (w : W64) : BitVec 4 := w.extractLsb' 28 4
def fCnt (w : W64) : BitVec 12 := w.extractLsb' 16 12
def fMode8 (w : W64) : Nat := fld w 8 8
def fCsr (w : W64) : BitVec 14 := w.extractLsb' 24 14

/-! ## Codes -/

def intTyOf : Nat → Option IntTy
  | 0 => some .i8 | 1 => some .i16 | 2 => some .i32 | 3 => some .i64
  | 4 => some .w8 | 5 => some .w16 | 6 => some .w32 | 7 => some .w64
  | _ => none

def intTyCode : IntTy → Nat
  | .i8 => 0 | .i16 => 1 | .i32 => 2 | .i64 => 3 | .w8 => 4 | .w16 => 5 | .w32 => 6 | .w64 => 7

def fTyOf : Nat → Option FTy
  | 0x10 => some .f32 | 0x11 => some .bf16 | 0x12 => some .f16 | _ => none

def fTyCode : FTy → Nat
  | .f32 => 0x10 | .bf16 => 0x11 | .f16 => 0x12

/-- The types of `fcvt` by their 5-bit codes (R204, R270). -/
def cTyOf (c : Nat) : Option CTy :=
  match intTyOf c, fTyOf c with
  | some t, _ => some (.int t)
  | none, some t => some (.flt t)
  | none, none => if c = 0x13 then some .e4m3 else if c = 0x14 then some .e5m2 else none

def cTyCode : CTy → Nat
  | .int t => intTyCode t | .flt t => fTyCode t | .e4m3 => 0x13 | .e5m2 => 0x14

/-- Vector arithmetic types by their 4-bit codes (R205). -/
def vTyOf : Nat → Option VTy
  | 0 => some (.flt .f32) | 1 => some (.flt .bf16) | 2 => some (.flt .f16)
  | 3 => some .i32 | 4 => some .w32 | 5 => some .i16 | 6 => some .w16 | 7 => some .i8 | 8 => some .w8
  | _ => none

def vTyCode : VTy → Nat
  | .flt .f32 => 0 | .flt .bf16 => 1 | .flt .f16 => 2
  | .i32 => 3 | .w32 => 4 | .i16 => 5 | .w16 => 6 | .i8 => 7 | .w8 => 8

/-- The types of `vcvt` by their 4-bit codes (R205, R279). -/
def vcTyOf : Nat → Option CTy
  | 0 => some (.flt .f32) | 1 => some (.flt .bf16) | 2 => some (.flt .f16)
  | 3 => some (.int .i32) | 4 => some (.int .w32) | 5 => some (.int .i16) | 6 => some (.int .w16)
  | 7 => some (.int .i8) | 8 => some (.int .w8) | 9 => some .e4m3 | 10 => some .e5m2
  | _ => none

def vcTyCode : CTy → Nat
  | .flt .f32 => 0 | .flt .bf16 => 1 | .flt .f16 => 2
  | .int .i32 => 3 | .int .w32 => 4 | .int .i16 => 5 | .int .w16 => 6 | .int .i8 => 7 | .int .w8 => 8
  | .e4m3 => 9 | .e5m2 => 10 | .int .i64 => 15 | .int .w64 => 15

def qTyOf : Nat → Option QTy
  | 0xB => some .mx8 | 0xC => some .mx6 | 0xD => some .mx4 | 0xE => some .dx8 | 0xF => some .dx4 | _ => none

def qTyCode : QTy → Nat
  | .mx8 => 0xB | .mx6 => 0xC | .mx4 => 0xD | .dx8 => 0xE | .dx4 => 0xF

def rmOf (c : BitVec 2) : Rm :=
  if c = 0 then .rne else if c = 1 then .rz else if c = 2 then .ru else .rd

def rmCode : Rm → BitVec 2
  | .rne => 0 | .rz => 1 | .ru => 2 | .rd => 3

def condOf : Nat → Option Cond
  | 0 => some .eq | 1 => some .ne | 2 => some .lt | 3 => some .ge
  | 4 => some .ltw | 5 => some .gew | 6 => some .tst | 7 => some .ntst | _ => none

def condCode : Cond → Nat
  | .eq => 0 | .ne => 1 | .lt => 2 | .ge => 3 | .ltw => 4 | .gew => 5 | .tst => 6 | .ntst => 7

def fCondOf : Nat → Option FCond
  | 0 => some .eq | 1 => some .ne | 2 => some .lt | 3 => some .le
  | 4 => some .gt | 5 => some .ge | 6 => some .un | 7 => some .ord | _ => none

def fCondCode : FCond → Nat
  | .eq => 0 | .ne => 1 | .lt => 2 | .le => 3 | .gt => 4 | .ge => 5 | .un => 6 | .ord => 7

def castOf : Nat → Option CastTo
  | 1 => some .priv | 2 => some .loc | 3 => some .shr | 5 => some .dev | _ => none

def castCode : CastTo → Nat
  | .priv => 1 | .loc => 2 | .shr => 3 | .dev => 5

def ordOf (c : BitVec 2) : Ord4 :=
  if c = 0 then .plain else if c = 1 then .acq else if c = 2 then .rel else .ar

def ordCode : Ord4 → BitVec 2
  | .plain => 0 | .acq => 1 | .rel => 2 | .ar => 3

def sizeOf4 (c : BitVec 2) : Size :=
  if c = 0 then .b1 else if c = 1 then .b2 else if c = 2 then .b4 else .b8

def sizeCode : Size → BitVec 2
  | .b1 => 0 | .b2 => 1 | .b4 => 2 | .b8 => 3

def feOf : Nat → Option FeMode
  | 0 => some .wff | 1 => some .wfe | 2 => some .wef | 3 => some .sf | 5 => some .se | _ => none

def feCode : FeMode → Nat
  | .wff => 0 | .wfe => 1 | .wef => 2 | .sf => 3 | .se => 5

def drainOf : Nat → Option DrainTy
  | 0 => some .none | 1 => some .bf16 | 2 => some .f16 | 3 => some .e4m3 | 4 => some .e5m2 | 8 => some .i8
  | _ => Option.none

def drainCode : DrainTy → Nat
  | .none => 0 | .bf16 => 1 | .f16 => 2 | .e4m3 => 3 | .e5m2 => 4 | .i8 => 8

def keyOfBit (b : Bool) : KeyTy := if b then .i32 else .f32

/-- The status-register numbers of R317. -/
def csrKnown (n : Nat) : Bool :=
  n ∈ [0x000, 0x001, 0x002, 0x003, 0x004, 0x005, 0x010, 0x011, 0x012, 0x013, 0x020, 0x021, 0x022, 0x023,
       0x030, 0x031, 0x032, 0x033, 0x040, 0x041, 0x050] || (0x100 ≤ n && n ≤ 0x10F)

/-- The status registers that have an RW field (R313, R317). -/
def csrWritable (n : Nat) : Bool :=
  n ∈ [0x010, 0x011, 0x012, 0x013, 0x020, 0x021, 0x022, 0x023, 0x040, 0x041]

/-- Orders a load accepts (R248). -/
def loadOrd : Ord4 → Bool
  | .plain | .acq | .ar => true
  | .rel => false

/-- Orders a store accepts (R248). -/
def storeOrd : Ord4 → Bool
  | .plain | .rel | .ar => true
  | .acq => false

/-- The SC and ORD pair is accepted: SC is not 7, and it is 0 when ORD is plain (R207, R212). -/
def orderOk (o : Order) : Bool := o.sc != 7 && (o.ord != .plain || o.sc == 0)

def fOrder (w : W64) : Order := ⟨ordOf (w.extractLsb' 26 2), w.extractLsb' 28 3⟩

/-- The order field when the pair and the order are accepted. -/
def orderIf (ok : Ord4 → Bool) (w : W64) : Option Order :=
  let o := fOrder w
  if orderOk o && ok o.ord then some o else none

def anyOrd : Ord4 → Bool := fun _ => true

/-! ## Reserved fields (R202): masks of the bits that are zero -/

def zD : W64 := ones 45 7
def zA : W64 := ones 38 7
def zB : W64 := ones 31 7
def zC : W64 := ones 24 7
def zCond : W64 := ones 20 4
def z19 : W64 := ones 19 1
def zPd : W64 := ones 16 3
def zTy : W64 := ones 11 5
def zRm : W64 := ones 9 2
def zSat : W64 := ones 8 1
def zLow : W64 := ones 0 8
/-- AUX and TY of an F-A word that uses neither, and its low byte. -/
def zAux : W64 := ones 0 24
def zAuxI : W64 := ones 32 6
def zB47 : W64 := ones 36 8
/-- Fields that every F-V word keeps zero: bits 15 and 7. -/
def zV : W64 := ones 15 1 ||| ones 7 1
def zOrgA : W64 := ones 28 8
def zOrgB : W64 := ones 20 8
def zVTy : W64 := ones 16 4
def zMk : W64 := ones 12 3
def zVRm : W64 := ones 10 2
def zVSat : W64 := ones 9 1
def zBs : W64 := ones 8 1
def zScal : W64 := ones 0 7
def zAcc : W64 := ones 32 6
def zSlot : W64 := ones 28 4
def zCnt : W64 := ones 16 12
def zImm24 : W64 := ones 0 24
def zCsr : W64 := ones 24 14
/-- The B side of an F-V word with a B operand: with BS = 1 the origin is zero, with BS = 0 the scalar field. -/
def zVb (w : W64) : W64 := if fBs w then zOrgB else zScal

/-- What the rows of the opcode map give: the bits that must be zero, and the instruction when the other fields hold
accepted values. -/
abbrev Row := Option (W64 × Option Instr)

/-! ## The opcode map (R211) -/

def fRm (w : W64) : Rm := rmOf (w.extractLsb' 9 2)
def fVRm (w : W64) : Rm := rmOf (w.extractLsb' 10 2)
def fTy (w : W64) : Nat := fld w 11 5
def fVTy (w : W64) : Nat := fld w 16 4
def fCond (w : W64) : Nat := fld w 20 4
def fMMode (w : W64) : Nat := fld w 20 3
def fSx (w : W64) : Bool := bit w 25
def fSz (w : W64) : Size := sizeOf4 (w.extractLsb' 23 2)

/-- Control, opcodes 0x00 to 0x0A (R241 to R247). -/
def decodeControl (op : Nat) (w : W64) : Row :=
  let g := fG w; let d := fD w; let a := fA w
  match op with
  | 0x00 => some (0, some (.ill (w.extractLsb' 0 56)))
  | 0x01 => some (ones 0 52, some (.nop g))
  | 0x02 => some (zD, some (.br g (fImm45 w)))
  | 0x03 => some (0, some (.call g d (fImm45 w)))
  | 0x04 => some (zB ||| zC ||| zAux, some (.jr g d a))
  | 0x05 => some (0, some (.loop g d (fImm45 w)))
  | 0x06 => some (zAuxI, some (.waitc g d a (fImm w)))
  | 0x07 => some (ones 0 52, some (.yield g))
  | 0x08 => some (ones 0 52, some (.exit g))
  | 0x09 => some (zD ||| zA ||| zAuxI, some (.brk g (fImm w)))
  | 0x0A => some (zD ||| zA ||| zAuxI, some (.trap g (fImm w)))
  | _ => none

/-- Three-register ALU rows: c, COND, bit 19, PD and RM are zero. -/
def zAlu : W64 := zC ||| zCond ||| z19 ||| zPd ||| zRm ||| zLow

/-- Integer register ALU, opcodes 0x10 to 0x30 (R224 to R230). -/
def decodeAlu (op : Nat) (w : W64) : Row :=
  let g := fG w; let d := fD w; let a := fA w; let b := fB w; let c := fC w; let s := fSat w
  let ty := intTyOf (fTy w)
  let row3 (k : IntTy → Instr) : Row := some (zAlu ||| zSat, ty.map k)
  let row2 (k : IntTy → Instr) : Row := some (zAlu ||| zB ||| zSat, ty.map k)
  let row4 (k : IntTy → Instr) : Row := some (zCond ||| z19 ||| zPd ||| zRm ||| zSat ||| zLow, ty.map k)
  match op with
  | 0x10 => some (zAlu, ty.map fun t => .add g t s d a b)
  | 0x11 => some (zAlu, ty.map fun t => .sub g t s d a b)
  | 0x12 => some (zAlu, ty.map fun t => .mul g t s d a b)
  | 0x13 => row3 fun t => .mulh g t d a b
  | 0x14 => row3 fun t => .mulhw g t d a b
  | 0x15 => row3 fun t => .div g t d a b
  | 0x16 => row3 fun t => .divw g t d a b
  | 0x17 => row3 fun t => .rem g t d a b
  | 0x18 => row3 fun t => .remw g t d a b
  | 0x19 => row3 fun t => .and g t d a b
  | 0x1A => row3 fun t => .or g t d a b
  | 0x1B => row3 fun t => .xor g t d a b
  | 0x1C => row3 fun t => .andn g t d a b
  | 0x1D => row3 fun t => .orn g t d a b
  | 0x1E => row3 fun t => .shl g t d a b
  | 0x1F => row3 fun t => .shr g t d a b
  | 0x20 => row3 fun t => .sra g t d a b
  | 0x21 => row3 fun t => .rol g t d a b
  | 0x22 => row3 fun t => .min g t d a b
  | 0x23 => row3 fun t => .max g t d a b
  | 0x24 => row3 fun t => .minw g t d a b
  | 0x25 => row3 fun t => .maxw g t d a b
  | 0x26 => row2 fun t => .clz g t d a
  | 0x27 => row2 fun t => .ctz g t d a
  | 0x28 => row2 fun t => .popc g t d a
  | 0x29 => row2 fun t => .brev g t d a
  | 0x2A => row2 fun t => .bswap g t d a
  | 0x2B => row4 fun t => .bfx g t d a b c
  | 0x2C => row4 fun t => .bfxw g t d a b c
  | 0x2D => row4 fun t => .bfi g t d a b c
  | 0x2E => some (zC ||| zCond ||| z19 ||| zRm ||| zSat ||| zLow, ty.map fun t => .sel g t d (fPd w) a b)
  | 0x2F => some (zAlu ||| zB, ty.map fun t => .abs g t s d a)
  | 0x30 => some (zAlu ||| zB, ty.map fun t => .neg g t s d a)
  | _ => none

/-- Immediates, compares, predicates and addresses, opcodes 0x38 to 0x5B (R231 to R240). -/
def decodeImm (op : Nat) (w : W64) : Row :=
  let g := fG w; let d := fD w; let a := fA w; let b := fB w; let p := fPd w; let i := fImm w
  let sh : BitVec 6 := w.extractLsb' 0 6
  let pa : PReg := w.extractLsb' 38 3; let pb : PReg := w.extractLsb' 31 3
  let zP := zD ||| ones 41 4 ||| ones 34 4 ||| zC ||| zCond ||| z19 ||| zTy ||| zRm ||| zSat ||| zLow
  match op with
  | 0x38 => some (zAuxI, some (.addi g d a i))
  | 0x39 => some (zAuxI, some (.andi g d a i))
  | 0x3A => some (zAuxI, some (.ori g d a i))
  | 0x3B => some (zAuxI, some (.xori g d a i))
  | 0x3C => some (zAuxI ||| ones 6 26, some (.shli g d a sh))
  | 0x3D => some (zAuxI ||| ones 6 26, some (.shri g d a sh))
  | 0x3E => some (zAuxI ||| ones 6 26, some (.srai g d a sh))
  | 0x3F => some (zAuxI, some (.muli g d a i))
  | 0x40 => some (0, some (.movi g d (fImm45 w)))
  | 0x41 => some (0, some (.movhi g d (fImm45 w)))
  | 0x48 => some (zD ||| zC ||| z19 ||| zRm ||| zSat ||| zLow,
      do let t ← intTyOf (fTy w)
         guard (fTy w < 4)
         let c ← condOf (fCond w)
         pure (.cmp g t p a b c))
  | 0x49 => some (zD, (condOf (fld w 35 3)).map fun c => .cmpi g (w.extractLsb' 32 3) a i c)
  | 0x4A => some (zD ||| zC ||| z19 ||| zRm ||| zSat ||| zLow,
      do let t ← fTyOf (fTy w)
         let c ← fCondOf (fCond w)
         pure (.fcmp g t p a b c))
  | 0x4B => some (zP, some (.pand g p pa pb))
  | 0x4C => some (zP, some (.por g p pa pb))
  | 0x4D => some (zP, some (.pxor g p pa pb))
  | 0x4E => some (zP, some (.pandn g p pa pb))
  | 0x4F => some (zA ||| zB ||| zC ||| zAux, some (.pget g d))
  | 0x50 => some (zD ||| zC ||| zAux, some (.pput g a b))
  | 0x58 => some (ones 20 8, if fld w 28 3 = 0 then some (.lea g d (fM w)) else none)
  | 0x59 => some (zB ||| zC ||| zCond ||| z19 ||| zTy ||| zRm ||| zSat ||| zLow, some (.spctest g d p a))
  | 0x5A => some (zB ||| zC ||| z19 ||| zTy ||| zRm ||| zSat ||| zLow,
      (castOf (fCond w)).map fun c => .spcast g d p a c)
  | 0x5B => some (zC ||| zAux, some (.mkshr g d a b))
  | _ => none

/-- The pairs `fcvt` accepts: at least one floating type, and not equal (R270). -/
def cvtPairOk (dt st : CTy) : Bool :=
  dt != st && !(match dt, st with | .int _, .int _ => true | _, _ => false)

/-- Scalar float, opcodes 0x60 to 0x6E (R268 to R272). -/
def decodeFloat (op : Nat) (w : W64) : Row :=
  let g := fG w; let d := fD w; let a := fA w; let b := fB w; let c := fC w; let s := fSat w; let r := fRm w
  let ty := fTyOf (fTy w)
  let z := zCond ||| z19 ||| zPd ||| zLow
  match op with
  | 0x60 => some (z ||| zC, ty.map fun t => .fadd g t r s d a b)
  | 0x61 => some (z ||| zC, ty.map fun t => .fsub g t r s d a b)
  | 0x62 => some (z ||| zC, ty.map fun t => .fmul g t r s d a b)
  | 0x63 => some (z, ty.map fun t => .ffma g t r s d a b c)
  | 0x64 => some (z, ty.map fun t => .ffms g t r s d a b c)
  | 0x65 => some (z ||| zC, ty.map fun t => .fdiv g t r s d a b)
  | 0x66 => some (z ||| zB ||| zC, ty.map fun t => .fsqrt g t r s d a)
  | 0x67 => some (z ||| zC ||| zRm ||| zSat, ty.map fun t => .fmin g t d a b)
  | 0x68 => some (z ||| zC ||| zRm ||| zSat, ty.map fun t => .fmax g t d a b)
  | 0x69 => some (z ||| zB ||| zC ||| zRm ||| zSat, ty.map fun t => .fabs g t d a)
  | 0x6A => some (z ||| zB ||| zC ||| zRm ||| zSat, ty.map fun t => .fneg g t d a)
  | 0x6B => some (z ||| zC ||| zRm ||| zSat, ty.map fun t => .fsgn g t d a b)
  | 0x6C => some (z ||| zB ||| ones 29 2,
      do let dt ← cTyOf (fTy w)
         let st ← cTyOf (fld w 24 5)
         guard (cvtPairOk dt st)
         pure (.fcvt g dt st r s d a))
  | 0x6D => some (z ||| zB ||| zC ||| zRm ||| zSat, ty.map fun t => .fclass g t d a)
  | 0x6E => some (z ||| zB ||| zC ||| zSat, ty.map fun t => .frnd g t r d a)
  | _ => none

/-- Memory and atomics, opcodes 0x70 to 0x82 (R248 to R257). -/
def decodeMem (op : Nat) (w : W64) : Row :=
  let g := fG w; let d := fD w; let m := fM w; let sx := fSx w; let sz := fSz w; let mode := fMMode w
  let fe (ok : FeMode → Bool) (k : FeMode → Order → Instr) : Option Instr :=
    do guard (sz = .b8 ∧ sx = false)
       let o ← orderIf anyOrd w
       let f ← feOf mode
       guard (ok f)
       pure (k f o)
  let amo (k : Bool → Order → Instr) : Row := some (0,
    do guard ((sz = .b4 ∨ sz = .b8) ∧ mode < 2)
       let o ← orderIf anyOrd w
       pure (k (mode == 1) o))
  match op with
  | 0x70 => some (0, do guard (mode = 0); let o ← orderIf loadOrd w; pure (.ld g sx sz o d m))
  | 0x71 => some (ones 25 1,
      if mode = 4 then (do let o ← orderIf storeOrd w; guard (o.ord = .plain); pure (.stWc g sz d m))
      else (do guard (mode = 0); let o ← orderIf storeOrd w; pure (.st g sz o d m)))
  | 0x72 => some (0, fe (fun f => f != .wef) fun f o => .ldfe g f o d m)
  | 0x73 => some (0, fe (fun f => f != .wff && f != .wfe) fun f o => .stfe g f o d m)
  | 0x74 => some (0, fe (fun f => f == .wff) fun _ o => .fetest g o d m)
  | 0x75 => some (zD, fe (fun f => f == .sf || f == .se) fun f o => .feset g (f == .sf) o m)
  | 0x76 => some (zD,
      do guard (sz = .b1 ∧ sx = false ∧ mode < 2)
         let _ ← orderIf (· == .plain) w
         pure (.pf g (mode == 1) m))
  | 0x77 => some (zD ||| zA ||| zB ||| ones 0 20,
      do guard (sz = .b1 ∧ sx = false ∧ mode = 0); let o ← orderIf (· != .plain) w; pure (.fence g o))
  | 0x78 => amo fun nr o => .amoadd g sx sz nr o d m
  | 0x79 => amo fun nr o => .amomin g sx sz nr o d m
  | 0x7A => amo fun nr o => .amomax g sx sz nr o d m
  | 0x7B => amo fun nr o => .amominw g sx sz nr o d m
  | 0x7C => amo fun nr o => .amomaxw g sx sz nr o d m
  | 0x7D => amo fun nr o => .amoand g sx sz nr o d m
  | 0x7E => amo fun nr o => .amoor g sx sz nr o d m
  | 0x7F => amo fun nr o => .amoxor g sx sz nr o d m
  | 0x80 => amo fun nr o => .amoswap g sx sz nr o d m
  | 0x81 => some (0,
      do guard (sz = .b4 ∧ sx = false ∧ mode < 2)
         let o ← orderIf anyOrd w
         pure (.amofadd g (mode == 1) o d m))
  | 0x82 => some (0,
      do guard ((sz = .b4 ∨ sz = .b8) ∧ mode = 0)
         let o ← orderIf anyOrd w
         pure (.amocas g sx sz o d m))
  | _ => none

/-- Vector memory, opcodes 0x88 to 0x8E (R258 to R260). -/
def decodeVMem (op : Nat) (w : W64) : Row :=
  let g := fG w; let vd := fVReg w 45; let m := fM w; let sx := fSx w; let sz := fSz w
  let mk : MReg := w.extractLsb' 20 3
  let z := ones 51 1
  let st := ones 25 1
  let off : BitVec 20 := w.extractLsb' 0 20
  let elt (ok : Ord4 → Bool) (k : Order → Instr) : Option Instr :=
    do guard (sz ≠ .b8); let o ← orderIf ok w; pure (k o)
  match op with
  | 0x88 => some (z ||| st ||| ones 20 3, (orderIf loadOrd w).map fun o => .vld g sz o vd m)
  | 0x89 => some (z ||| st ||| ones 20 3, (orderIf storeOrd w).map fun o => .vst g sz o vd m)
  | 0x8A => some (z ||| ones 37 1, elt loadOrd fun o => .vldg g sx sz mk o vd (fA w) (fVReg w 31) off)
  | 0x8B => some (z ||| ones 37 1 ||| st, elt storeOrd fun o => .vsts g sz mk o vd (fA w) (fVReg w 31) off)
  | 0x8C => some (z, elt loadOrd fun o => .vldb g sx sz mk o vd m)
  | 0x8D => some (z, elt loadOrd fun o => .vldt g sx sz mk o vd m)
  | 0x8E => some (z ||| st, elt storeOrd fun o => .vstt g sz mk o vd m)
  | _ => none

def isFlt : VTy → Bool
  | .flt _ => true
  | _ => false

/-- The RM bits are reserved for an integer type (R275). -/
def zRmInt (w : W64) : W64 := match vTyOf (fVTy w) with | some (.flt _) => 0 | _ => zVRm
/-- The SAT bit is reserved for a floating type where `.sat` is accepted for integers only (R275). -/
def zSatFlt (w : W64) : W64 := match vTyOf (fVTy w) with | some (.flt _) => zVSat | _ => 0

/-- The float types of `vfma`; the 32-bit types of the reductions and of sorting (R275, R287). -/
def vFltOf (c : Nat) : Option FTy := match vTyOf c with | some (.flt t) => some t | _ => none
def vRedOf (c : Nat) : Option VTy := if c < 5 then vTyOf c else none
def vIntOf (c : Nat) : Option VTy := if c < 3 then none else vTyOf c
def vKeyOf (c : Nat) : Option KeyTy := if c = 0 then some .f32 else if c = 3 then some .i32 else none

/-- The condition of `vcmp`: the unordered ones only for floats (R277). -/
def vcmpCondOk (t : VTy) (c : FCond) : Bool := isFlt t || (c != .un && c != .ord)

/-- The pairs `vcvt` accepts (R279). -/
def vcvtPairOk (dt st : CTy) : Bool := cvtPairOk dt st

/-- Vector arithmetic, opcodes 0x90 to 0xA0 (R275, R277). -/
def decodeVArith (op : Nat) (w : W64) : Row :=
  let g := fG w; let d := fBlk w; let a := fOrgA w; let b := fVb w; let mk := fMk w
  let r := fVRm w; let s := fVSat w; let ty := vTyOf (fVTy w)
  let zb := zV ||| zVb w
  let z1 := zV ||| zOrgB ||| zBs ||| zScal
  match op with
  | 0x90 => some (zb ||| zRmInt w, ty.map fun t => .vadd g t r s d a b mk)
  | 0x91 => some (zb ||| zRmInt w, ty.map fun t => .vsub g t r s d a b mk)
  | 0x92 => some (zb ||| zRmInt w, ty.map fun t => .vmul g t r s d a b mk)
  | 0x93 => some (zb, (vFltOf (fVTy w)).map fun t => .vfma g t r s d a b mk)
  | 0x94 => some (zb, (vFltOf (fVTy w)).map fun t => .vfms g t r s d a b mk)
  | 0x95 => some (zb ||| zVRm ||| zVSat, ty.map fun t => .vmin g t d a b mk)
  | 0x96 => some (zb ||| zVRm ||| zVSat, ty.map fun t => .vmax g t d a b mk)
  | 0x97 => some (z1 ||| zVRm ||| zSatFlt w, ty.map fun t => .vabs g t s d a mk)
  | 0x98 => some (z1 ||| zVRm ||| zSatFlt w, ty.map fun t => .vneg g t s d a mk)
  | 0x99 => some (zb ||| zVRm ||| zVSat, if fVTy w = 4 then some (.vand g d a b mk) else none)
  | 0x9A => some (zb ||| zVRm ||| zVSat, if fVTy w = 4 then some (.vor g d a b mk) else none)
  | 0x9B => some (zb ||| zVRm ||| zVSat, if fVTy w = 4 then some (.vxor g d a b mk) else none)
  | 0x9C => some (zb ||| zVRm ||| zVSat, if fVTy w = 4 then some (.vandn g d a b mk) else none)
  | 0x9D => some (zb ||| zVRm ||| zVSat, (vIntOf (fVTy w)).map fun t => .vshl g t d a b mk)
  | 0x9E => some (zb ||| zVRm ||| zVSat, (vIntOf (fVTy w)).map fun t => .vshr g t d a b mk)
  | 0x9F => some (zb ||| zVRm ||| zVSat, (vIntOf (fVTy w)).map fun t => .vsra g t d a b mk)
  | 0xA0 => some (zb ||| zVRm ||| zVSat ||| ones 51 1 ||| ones 36 8,
      do let t ← ty
         let c ← fCondOf (fld w 44 4)
         guard (vcmpCondOk t c)
         pure (.vcmp g t c (w.extractLsb' 48 3) a b mk))
  | _ => none

/-- The other vector instructions, opcodes 0xA1 to 0xB6 (R275, R278 to R288). -/
def decodeVec (op : Nat) (w : W64) : Row :=
  let g := fG w; let d := fBlk w; let a := fOrgA w; let b := fVb w; let mk := fMk w
  let r := fVRm w; let s := fVSat w
  let noAux := zVRm ||| zVSat
  let z1 := zV ||| zOrgB ||| zBs
  let un (k : Instr) : Row := some (z1 ||| zVSat ||| zScal, if fVTy w = 0 then some k else none)
  match op with
  | 0xA1 => some (zV ||| zVb w ||| noAux ||| zVTy, some (.vsel g d a b mk))
  | 0xA2 => some (z1 ||| noAux ||| zVTy ||| zScal, some (.vmov g d a mk))
  | 0xA3 =>
    if fBs w then some (zV ||| zOrgA ||| zOrgB ||| noAux ||| zVTy, some (.vbcast g d (w.extractLsb' 0 7) mk))
    else some (zV ||| zOrgB ||| noAux ||| zVTy ||| ones 6 1, some (.vbcastLane g d a (w.extractLsb' 0 6) mk))
  | 0xA4 => some (zV ||| ones 20 4 ||| zBs ||| zScal,
      do let dt ← vcTyOf (fVTy w)
         let st ← vcTyOf (fld w 24 4)
         guard (vcvtPairOk dt st)
         pure (.vcvt g dt st r s d a mk))
  | 0xA5 => some (z1 ||| zVSat ||| zMk ||| zScal, (qTyOf (fVTy w)).map fun t => .vquant g t r d a)
  | 0xA6 => some (z1 ||| zScal, (qTyOf (fVTy w)).map fun t => .vdeq g t r s d a mk)
  | 0xA7 => un (.vexp2 g r d a mk)
  | 0xA8 => un (.vlog2 g r d a mk)
  | 0xA9 => un (.vrcp g r d a mk)
  | 0xAA => un (.vrsqrt g r d a mk)
  | 0xAB => un (.vtanh g r d a mk)
  | 0xAC => un (.vsig g r d a mk)
  | 0xAD => some (z1 ||| zScal ||| zRmInt w ||| zSatFlt w, (vRedOf (fVTy w)).map fun t => .vredsum g t r s d a mk)
  | 0xAE => some (z1 ||| zScal ||| noAux, (vRedOf (fVTy w)).map fun t => .vredmax g t d a mk)
  | 0xAF => some (z1 ||| zScal ||| noAux, (vRedOf (fVTy w)).map fun t => .vredmin g t d a mk)
  | 0xB0 => some (z1 ||| zScal ||| zRmInt w ||| zSatFlt w, (vRedOf (fVTy w)).map fun t => .vscan g t r s d a mk)
  | 0xB1 => some (zV ||| zVb w ||| noAux ||| zVTy, some (.vperm g d a b mk))
  | 0xB2 => some (z1 ||| noAux ||| zVTy, some (.vrot g d a (w.extractLsb' 0 7) mk))
  | 0xB3 => some (zV ||| zBs ||| noAux ||| zVTy,
      if fld w 0 7 < 5 then some (.vshuf g d a (fOrgB w) (w.extractLsb' 0 7) mk) else none)
  | 0xB4 =>
    let lg : BitVec 3 := w.extractLsb' 4 3
    let n : BitVec 4 := w.extractLsb' 0 4
    let ok := 1 ≤ lg.toNat ∧ lg.toNat ≤ 6 ∧ n.toNat < 2 ^ lg.toNat
    let z := zV ||| zOrgB ||| ones 8 2
    match fld w 10 2 with
    | 0 => some (z ||| zVTy ||| zScal, some (.vcompress g d a mk))
    | 1 => some (z ||| zMk, if fVTy w = 0 ∧ ok then some (.vcompressMag g d a lg n) else none)
    | 2 => some (z ||| zMk,
        do let t ← vKeyOf (fVTy w)
           guard ok
           pure (.vcompressTop g t d a lg n))
    | _ => some (z, none)
  | 0xB5 => some (z1 ||| noAux ||| zScal, (vKeyOf (fVTy w)).map fun t => .vargmax g t d a mk)
  | 0xB6 => some (zV ||| zBs ||| noAux ||| zMk ||| zScal,
      if fVTy w = 0 then some (.vrescale g d a (fOrgB w)) else none)
  | _ => none

/-- Mask logic, opcodes 0xB7 to 0xBB (R289). -/
def decodeMask (op : Nat) (w : W64) : Row :=
  let g := fG w
  let md : MReg := w.extractLsb' 48 3; let ma : MReg := w.extractLsb' 32 3; let mb : MReg := w.extractLsb' 24 3
  let z := zV ||| ones 36 12 ||| ones 51 1 ||| ones 35 1 ||| ones 28 4 ||| ones 27 1 ||| ones 20 4 ||| zVTy ||| zMk ||| ones 8 4
  match op with
  | 0xB7 => some (z ||| zScal, some (.mand g md ma mb))
  | 0xB8 => some (z ||| zScal, some (.mor g md ma mb))
  | 0xB9 => some (z ||| zScal, some (.mxor g md ma mb))
  | 0xBA => some (z ||| zScal ||| ones 24 3, some (.mnot g md ma))
  | 0xBB => some (z ||| ones 24 3 ||| ones 48 3, some (.mpop g (w.extractLsb' 0 7) ma))
  | _ => none

/-- The MODE byte of `mdrain` and `mdrainv`: SAT and the target (R293, R301). -/
def drainMode (w : W64) : Option (DrainTy × Bool) :=
  do guard (fld w 12 3 = 0)
     let t ← drainOf (fld w 8 4)
     guard (¬ (t = .none ∧ bit w 15))
     pure (t, bit w 15)

/-- Matrix and movement instructions, opcodes 0xC0 to 0xD1, 0xDC and 0xDD (R293). A MODE value that the table of
R293 does not list is unaccepted. -/
def decodeMatrix (op : Nat) (w : W64) : Row :=
  let g := fG w; let r := fD w; let x := fA w; let acc := fAcc w; let slot := fSlot w; let n := fCnt w
  let mode := fMode8 w
  let lg : BitVec 4 := w.extractLsb' 12 4
  let sortOk := fld w 9 3 = 0 ∧ lg.toNat ≤ 12
  let kt := keyOfBit (bit w 8)
  match op with
  | 0xC0 =>
    match mode with
    | 0 => some (zA ||| zLow, some (.mstep g acc slot r n))
    | 1 => some (zAcc ||| zSlot ||| zLow, some (.mstepSort g .f32 x r n))
    | 2 => some (zAcc ||| zSlot ||| zLow, some (.mstepSort g .i32 x r n))
    | 3 => some (zAcc ||| zSlot ||| zLow, some (.mstepTopk g .f32 x r n))
    | 4 => some (zAcc ||| zSlot ||| zLow, some (.mstepTopk g .i32 x r n))
    | _ => some (zLow, none)
  | 0xC1 => some (zD ||| zA ||| zSlot ||| zLow, if mode = 0 then some (.mzero g acc n) else none)
  | 0xC2 => some (zA ||| zSlot ||| zLow, if mode = 0 then some (.mload g acc r n) else none)
  | 0xC3 => some (zSlot ||| zLow, (drainMode w).map fun ts => .mdrain g ts.1 ts.2 acc r x n)
  | 0xC4 => some (ones 51 1 ||| zSlot ||| zLow,
      do let ts ← drainMode w
         guard (n.toNat < 64)
         pure (.mdrainv g ts.1 ts.2 (fVReg w 45) acc x n))
  | 0xC5 => some (zAcc ||| zSlot ||| zLow, if sortOk then some (.msort g kt lg x r n) else none)
  | 0xC6 => some (zSlot ||| zLow,
      if sortOk ∧ acc.toNat < 2 ^ lg.toNat then some (.mtopk g kt lg acc x r n) else none)
  | 0xC7 =>
    match mode with
    | 1 => some (zA ||| zAcc ||| zSlot ||| zCnt ||| zLow, some (.mcfg g r))
    | 0 => some (zD ||| zA ||| zAcc ||| zSlot ||| zCnt ||| zLow, some (.mcfgOff g))
    | _ => some (zA ||| zAcc ||| zSlot ||| zCnt ||| zLow, none)
  | 0xC8 => some (zD ||| zA ||| zAcc ||| zSlot ||| zCnt ||| zLow, some (.mwait g (w.extractLsb' 8 8)))
  | 0xC9 => some (zD ||| zA ||| zAcc ||| zCnt ||| zLow, if mode = 0 then some (.wrel g slot) else none)
  | 0xCA =>
    match mode with
    | 0 => some (zA ||| zAcc ||| zCnt ||| zLow, some (.wstat g r slot))
    | 1 => some (zA ||| zAcc ||| zCnt ||| zLow, some (.wstatWait g r slot))
    | _ => some (zA ||| zAcc ||| zCnt ||| zLow, none)
  | 0xD0 => some (zAcc ||| zSlot ||| zCnt ||| zLow, if mode = 0 then some (.xfer g r x) else none)
  | 0xD1 => some (zAcc ||| zSlot ||| zCnt ||| zLow, if mode < 8 then some (.sbind g (w.extractLsb' 8 3) r x) else none)
  | 0xDC => some (zAcc ||| zSlot ||| zCnt ||| zLow, if mode = 0 then some (.redput g r x) else none)
  | 0xDD => some (zAcc ||| zSlot ||| zCnt ||| zLow, if mode = 0 then some (.coll g r x) else none)
  | _ => none

/-- The destination of `take`, `peek` and `await`: a multiple of 4, at least 4 (R262). -/
def takeRegOk (d : XReg) : Bool := d.toNat % 4 == 0 && 4 ≤ d.toNat

/-- Mailbox, barrier, stream and marker instructions, opcodes 0xD2 to 0xDF (R261 to R265, R309). -/
def decodeSync (op : Nat) (w : W64) : Row :=
  let g := fG w; let d := fD w; let a := fA w; let i := fImm w
  let b : BitVec 4 := w.extractLsb' 0 4
  match op with
  | 0xD2 => some (zD ||| zA ||| zAuxI ||| ones 3 29, some (.swait g (w.extractLsb' 0 3)))
  | 0xD3 => some (zD ||| zLow, some (.post g a (fB w) (fC w) (w.extractLsb' 8 16)))
  | 0xD4 => some (zAuxI, if takeRegOk d then some (.take g d a i) else none)
  | 0xD5 => some (zAuxI, if takeRegOk d then some (.peek g d a i) else none)
  | 0xD6 => some (zAuxI, if takeRegOk d then some (.await g d a i) else none)
  | 0xD7 => some (zD ||| zA ||| zAuxI ||| ones 4 28, some (.barinit g b))
  | 0xD8 => some (zD ||| zAuxI ||| ones 5 27, some (.barexp g a b (bit w 4)))
  | 0xD9 => some (zD ||| zAuxI ||| ones 4 28, some (.bararr g a b))
  | 0xDA => some (zD ||| zA ||| zAuxI ||| ones 4 28, some (.barwait g b))
  | 0xDB => some (zA ||| zAuxI ||| ones 4 28, some (.bartest g d b))
  | 0xDE => some (zD ||| zAuxI, some (.mark g a i))
  | 0xDF => some (ones 0 52, some (.sdone g))
  | _ => none

/-- System instructions, opcodes 0xE8 to 0xF2 (R312). -/
def decodeSystem (op : Nat) (w : W64) : Row :=
  let g := fG w; let d := fD w; let a := fA w; let n := fCsr w
  match op with
  | 0xE8 => some (zA ||| zImm24, if csrKnown n.toNat then some (.csrr g d n) else none)
  | 0xE9 => some (zImm24, if csrWritable n.toNat then some (.csrw g d a n) else none)
  | 0xEA => some (zImm24, if csrWritable n.toNat then some (.csrs g d a n) else none)
  | 0xEB => some (zImm24, if csrWritable n.toNat then some (.csrc g d a n) else none)
  | 0xEC => some (zD ||| zA ||| zCsr ||| zImm24, some (.eret g))
  | 0xED => some (zCsr ||| ones 2 22, if fld w 0 2 = 3 then none else some (.repart g d a (w.extractLsb' 0 2)))
  | 0xEE => some (zD ||| zCsr ||| ones 1 23, some (.ctxsave g a (bit w 0)))
  | 0xEF => some (zD ||| zCsr ||| ones 1 23, some (.ctxload g a (bit w 0)))
  | 0xF0 => some (zCsr ||| ones 2 22, some (.slotw g d a (w.extractLsb' 0 2)))
  | 0xF1 => some (zCsr ||| zImm24, some (.jkill g d a))
  | 0xF2 => some (zCsr ||| ones 1 23, some (.snap g d a (bit w 0)))
  | _ => none

/-- The row of the opcode map that an opcode selects, by ranges of R211. -/
def decodeRow (op : Nat) (w : W64) : Row :=
  if op < 0x10 then decodeControl op w
  else if op < 0x38 then decodeAlu op w
  else if op < 0x60 then decodeImm op w
  else if op < 0x70 then decodeFloat op w
  else if op < 0x88 then decodeMem op w
  else if op < 0x90 then decodeVMem op w
  else if op < 0xA1 then decodeVArith op w
  else if op < 0xB7 then decodeVec op w
  else if op < 0xC0 then decodeMask op w
  else if op < 0xD2 || op == 0xDC || op == 0xDD then decodeMatrix op w
  else if op < 0xE0 then decodeSync op w
  else decodeSystem op w

/-- The instruction that a word holds, or the first word check that it fails (R212, R354). -/
def decode (w : W64) : Except DecodeError Instr :=
  match decodeRow (fOp w) w with
  | none => .error .illegal
  | some (z, i) =>
    if w &&& z ≠ 0 then .error .reserved
    else match i with
      | some i => .ok i
      | none => .error .unaccepted

/-- The decoder on a list of bytes: the first eight bytes are one word, byte 0 in bits [7:0] (R195); the rest is
returned. -/
def decodeBytes (bs : List Byte) : Option (Except DecodeError Instr × List Byte) :=
  if bs.length < 8 then none else some (decode (BitVec.ofNat 64 (ofBytes (bs.take 8))), bs.drop 8)

/-! ## The encoder -/

def encG (g : Guard) : BitVec 4 := BitVec.ofBool g.inv ++ g.pred

/-- F-A words (R201, R203). -/
def packA (op : Nat) (g : Guard) (d a b c : XReg) (cond : Nat) (pd : PReg) (ty : Nat) (rm : Rm) (sat : Bool) : W64 :=
  BitVec.ofNat 8 op ++ encG g ++ d ++ a ++ b ++ c ++ BitVec.ofNat 4 cond ++ 0#1 ++ pd ++ BitVec.ofNat 5 ty ++
    rmCode rm ++ BitVec.ofBool sat ++ 0#8

/-- F-I words (R201). -/
def packI (op : Nat) (g : Guard) (d a : XReg) (aux : BitVec 6) (imm : BitVec 32) : W64 :=
  BitVec.ofNat 8 op ++ encG g ++ d ++ a ++ aux ++ imm

/-- F-L and F-B words (R201). -/
def packL (op : Nat) (g : Guard) (d : XReg) (imm : BitVec 45) : W64 := BitVec.ofNat 8 op ++ encG g ++ d ++ imm

/-- F-M words (R201, R207). -/
def packM (op : Nat) (g : Guard) (d base idx : XReg) (o : Order) (sx : Bool) (sz : Size) (mode : BitVec 3)
    (off : BitVec 20) : W64 :=
  BitVec.ofNat 8 op ++ encG g ++ d ++ base ++ idx ++ o.sc ++ ordCode o.ord ++ BitVec.ofBool sx ++ sizeCode sz ++
    mode ++ off

/-- F-V words (R201, R205). -/
def packV (op : Nat) (g : Guard) (d : VBlock) (a b : VOrg) (ty : Nat) (mk : MReg) (rm : BitVec 2) (sat bs : Bool)
    (x : BitVec 7) : W64 :=
  BitVec.ofNat 8 op ++ encG g ++ d.row ++ d.col ++ d.hM1 ++ d.wM1 ++ a.row ++ a.col ++ b.row ++ b.col ++
    BitVec.ofNat 4 ty ++ 0#1 ++ mk ++ rm ++ BitVec.ofBool sat ++ BitVec.ofBool bs ++ 0#1 ++ x

/-- F-E words (R201). -/
def packE (op : Nat) (g : Guard) (r x : XReg) (acc : BitVec 6) (slot : BitVec 4) (n : BitVec 12) (mode : BitVec 8) :
    W64 :=
  BitVec.ofNat 8 op ++ encG g ++ r ++ x ++ acc ++ slot ++ n ++ mode ++ 0#8

/-- F-S words (R201). -/
def packS (op : Nat) (g : Guard) (d a : XReg) (n : BitVec 14) (imm : BitVec 24) : W64 :=
  BitVec.ofNat 8 op ++ encG g ++ d ++ a ++ n ++ imm

def org0 : VOrg := ⟨0, 0⟩

/-- An F-V word with a B operand, block or broadcast (R205). -/
def packVB (op : Nat) (g : Guard) (d : VBlock) (a : VOrg) (b : VB) (ty : Nat) (mk : MReg) (rm : Rm) (sat : Bool) : W64 :=
  match b with
  | .blk o => packV op g d a o ty mk (rmCode rm) sat false 0
  | .bcast x => packV op g d a org0 ty mk (rmCode rm) sat true x

/-- The block fields of `vcmp` and of the mask instructions, which name a mask register there. -/
def maskBlock (md : MReg) (cond : Nat) : VBlock := ⟨0#1 ++ md, BitVec.ofNat 4 cond, 0, 0⟩

def vregBits (v : VReg) : BitVec 7 := 0#1 ++ v.row ++ v.col

def drainBits (t : DrainTy) (sat : Bool) : BitVec 8 := BitVec.ofBool sat ++ 0#3 ++ BitVec.ofNat 4 (drainCode t)

def keyBit : KeyTy → Bool
  | .f32 => false | .i32 => true

def sortBits (t : KeyTy) (lg : BitVec 4) : BitVec 8 := lg ++ 0#3 ++ BitVec.ofBool (keyBit t)

def vKeyCode : KeyTy → Nat
  | .f32 => 0 | .i32 => 3

/-- The word of an ALU instruction with registers d, a and b. -/
def packAlu (op : Nat) (g : Guard) (t : IntTy) (sat : Bool) (d a b c : XReg) (pd : PReg) : W64 :=
  packA op g d a b c 0 pd (intTyCode t) .rne sat

/-- The word of an F-A instruction that uses registers only. -/
def packRegs (op : Nat) (g : Guard) (d a b c : XReg) (pd : PReg) : W64 := packA op g d a b c 0 pd 0 .rne false

def plainOrder : Order := ⟨.plain, 0⟩

/-- The word of a thread instruction, written from the encoding tables; 0 for the module's other steps, which have
no word. -/
def encode : Instr → W64
  | .ill r => 0#8 ++ r
  | .nop g => packI 0x01 g 0 0 0 0
  | .br g off => packL 0x02 g 0 off
  | .call g d off => packL 0x03 g d off
  | .jr g d a => packRegs 0x04 g d a 0 0 0
  | .loop g d off => packL 0x05 g d off
  | .waitc g d a i => packI 0x06 g d a 0 i
  | .yield g => packI 0x07 g 0 0 0 0
  | .exit g => packI 0x08 g 0 0 0 0
  | .brk g i => packI 0x09 g 0 0 0 i
  | .trap g i => packI 0x0A g 0 0 0 i
  | .add g t s d a b => packAlu 0x10 g t s d a b 0 0
  | .sub g t s d a b => packAlu 0x11 g t s d a b 0 0
  | .mul g t s d a b => packAlu 0x12 g t s d a b 0 0
  | .mulh g t d a b => packAlu 0x13 g t false d a b 0 0
  | .mulhw g t d a b => packAlu 0x14 g t false d a b 0 0
  | .div g t d a b => packAlu 0x15 g t false d a b 0 0
  | .divw g t d a b => packAlu 0x16 g t false d a b 0 0
  | .rem g t d a b => packAlu 0x17 g t false d a b 0 0
  | .remw g t d a b => packAlu 0x18 g t false d a b 0 0
  | .and g t d a b => packAlu 0x19 g t false d a b 0 0
  | .or g t d a b => packAlu 0x1A g t false d a b 0 0
  | .xor g t d a b => packAlu 0x1B g t false d a b 0 0
  | .andn g t d a b => packAlu 0x1C g t false d a b 0 0
  | .orn g t d a b => packAlu 0x1D g t false d a b 0 0
  | .shl g t d a b => packAlu 0x1E g t false d a b 0 0
  | .shr g t d a b => packAlu 0x1F g t false d a b 0 0
  | .sra g t d a b => packAlu 0x20 g t false d a b 0 0
  | .rol g t d a b => packAlu 0x21 g t false d a b 0 0
  | .min g t d a b => packAlu 0x22 g t false d a b 0 0
  | .max g t d a b => packAlu 0x23 g t false d a b 0 0
  | .minw g t d a b => packAlu 0x24 g t false d a b 0 0
  | .maxw g t d a b => packAlu 0x25 g t false d a b 0 0
  | .clz g t d a => packAlu 0x26 g t false d a 0 0 0
  | .ctz g t d a => packAlu 0x27 g t false d a 0 0 0
  | .popc g t d a => packAlu 0x28 g t false d a 0 0 0
  | .brev g t d a => packAlu 0x29 g t false d a 0 0 0
  | .bswap g t d a => packAlu 0x2A g t false d a 0 0 0
  | .bfx g t d a b c => packAlu 0x2B g t false d a b c 0
  | .bfxw g t d a b c => packAlu 0x2C g t false d a b c 0
  | .bfi g t d a b c => packAlu 0x2D g t false d a b c 0
  | .sel g t d p a b => packAlu 0x2E g t false d a b 0 p
  | .abs g t s d a => packAlu 0x2F g t s d a 0 0 0
  | .neg g t s d a => packAlu 0x30 g t s d a 0 0 0
  | .addi g d a i => packI 0x38 g d a 0 i
  | .andi g d a i => packI 0x39 g d a 0 i
  | .ori g d a i => packI 0x3A g d a 0 i
  | .xori g d a i => packI 0x3B g d a 0 i
  | .shli g d a sh => packI 0x3C g d a 0 (0#26 ++ sh)
  | .shri g d a sh => packI 0x3D g d a 0 (0#26 ++ sh)
  | .srai g d a sh => packI 0x3E g d a 0 (0#26 ++ sh)
  | .muli g d a i => packI 0x3F g d a 0 i
  | .movi g d i => packL 0x40 g d i
  | .movhi g d i => packL 0x41 g d i
  | .cmp g t p a b c => packA 0x48 g 0 a b 0 (condCode c) p (intTyCode t) .rne false
  | .cmpi g p a i c => packI 0x49 g 0 a (BitVec.ofNat 3 (condCode c) ++ p) i
  | .fcmp g t p a b c => packA 0x4A g 0 a b 0 (fCondCode c) p (fTyCode t) .rne false
  | .pand g d a b => packRegs 0x4B g 0 (0#4 ++ a) (0#4 ++ b) 0 d
  | .por g d a b => packRegs 0x4C g 0 (0#4 ++ a) (0#4 ++ b) 0 d
  | .pxor g d a b => packRegs 0x4D g 0 (0#4 ++ a) (0#4 ++ b) 0 d
  | .pandn g d a b => packRegs 0x4E g 0 (0#4 ++ a) (0#4 ++ b) 0 d
  | .pget g d => packRegs 0x4F g d 0 0 0 0
  | .pput g a b => packRegs 0x50 g 0 a b 0 0
  | .lea g d m => packM 0x58 g d m.base m.idx plainOrder false .b1 0 m.off
  | .spctest g d p a => packRegs 0x59 g d a 0 0 p
  | .spcast g d p a t => packA 0x5A g d a 0 0 (castCode t) p 0 .rne false
  | .mkshr g d a b => packRegs 0x5B g d a b 0 0
  | .fadd g t r s d a b => packA 0x60 g d a b 0 0 0 (fTyCode t) r s
  | .fsub g t r s d a b => packA 0x61 g d a b 0 0 0 (fTyCode t) r s
  | .fmul g t r s d a b => packA 0x62 g d a b 0 0 0 (fTyCode t) r s
  | .ffma g t r s d a b c => packA 0x63 g d a b c 0 0 (fTyCode t) r s
  | .ffms g t r s d a b c => packA 0x64 g d a b c 0 0 (fTyCode t) r s
  | .fdiv g t r s d a b => packA 0x65 g d a b 0 0 0 (fTyCode t) r s
  | .fsqrt g t r s d a => packA 0x66 g d a 0 0 0 0 (fTyCode t) r s
  | .fmin g t d a b => packA 0x67 g d a b 0 0 0 (fTyCode t) .rne false
  | .fmax g t d a b => packA 0x68 g d a b 0 0 0 (fTyCode t) .rne false
  | .fabs g t d a => packA 0x69 g d a 0 0 0 0 (fTyCode t) .rne false
  | .fneg g t d a => packA 0x6A g d a 0 0 0 0 (fTyCode t) .rne false
  | .fsgn g t d a b => packA 0x6B g d a b 0 0 0 (fTyCode t) .rne false
  | .fcvt g dt st r s d a => packA 0x6C g d a 0 (BitVec.ofNat 7 (cTyCode st)) 0 0 (cTyCode dt) r s
  | .fclass g t d a => packA 0x6D g d a 0 0 0 0 (fTyCode t) .rne false
  | .frnd g t r d a => packA 0x6E g d a 0 0 0 0 (fTyCode t) r false
  | .ld g sx sz o d m => packM 0x70 g d m.base m.idx o sx sz 0 m.off
  | .st g sz o d m => packM 0x71 g d m.base m.idx o false sz 0 m.off
  | .stWc g sz d m => packM 0x71 g d m.base m.idx plainOrder false sz 4 m.off
  | .ldfe g f o d m => packM 0x72 g d m.base m.idx o false .b8 (BitVec.ofNat 3 (feCode f)) m.off
  | .stfe g f o d m => packM 0x73 g d m.base m.idx o false .b8 (BitVec.ofNat 3 (feCode f)) m.off
  | .fetest g o d m => packM 0x74 g d m.base m.idx o false .b8 0 m.off
  | .feset g full o m => packM 0x75 g 0 m.base m.idx o false .b8 (if full then 3 else 5) m.off
  | .pf g llc m => packM 0x76 g 0 m.base m.idx plainOrder false .b1 (if llc then 1 else 0) m.off
  | .fence g o => packM 0x77 g 0 0 0 o false .b1 0 0
  | .amoadd g sx sz nr o d m => packM 0x78 g d m.base m.idx o sx sz (if nr then 1 else 0) m.off
  | .amomin g sx sz nr o d m => packM 0x79 g d m.base m.idx o sx sz (if nr then 1 else 0) m.off
  | .amomax g sx sz nr o d m => packM 0x7A g d m.base m.idx o sx sz (if nr then 1 else 0) m.off
  | .amominw g sx sz nr o d m => packM 0x7B g d m.base m.idx o sx sz (if nr then 1 else 0) m.off
  | .amomaxw g sx sz nr o d m => packM 0x7C g d m.base m.idx o sx sz (if nr then 1 else 0) m.off
  | .amoand g sx sz nr o d m => packM 0x7D g d m.base m.idx o sx sz (if nr then 1 else 0) m.off
  | .amoor g sx sz nr o d m => packM 0x7E g d m.base m.idx o sx sz (if nr then 1 else 0) m.off
  | .amoxor g sx sz nr o d m => packM 0x7F g d m.base m.idx o sx sz (if nr then 1 else 0) m.off
  | .amoswap g sx sz nr o d m => packM 0x80 g d m.base m.idx o sx sz (if nr then 1 else 0) m.off
  | .amofadd g nr o d m => packM 0x81 g d m.base m.idx o false .b4 (if nr then 1 else 0) m.off
  | .amocas g sx sz o d m => packM 0x82 g d m.base m.idx o sx sz 0 m.off
  | .vld g n o d m => packM 0x88 g (vregBits d) m.base m.idx o false n 0 m.off
  | .vst g n o d m => packM 0x89 g (vregBits d) m.base m.idx o false n 0 m.off
  | .vldg g sx sz mk o d b vi off => packM 0x8A g (vregBits d) b (vregBits vi) o sx sz mk off
  | .vsts g sz mk o d b vi off => packM 0x8B g (vregBits d) b (vregBits vi) o false sz mk off
  | .vldb g sx sz mk o d m => packM 0x8C g (vregBits d) m.base m.idx o sx sz mk m.off
  | .vldt g sx sz mk o d m => packM 0x8D g (vregBits d) m.base m.idx o sx sz mk m.off
  | .vstt g sz mk o d m => packM 0x8E g (vregBits d) m.base m.idx o false sz mk m.off
  | .vadd g t r s d a b mk => packVB 0x90 g d a b (vTyCode t) mk r s
  | .vsub g t r s d a b mk => packVB 0x91 g d a b (vTyCode t) mk r s
  | .vmul g t r s d a b mk => packVB 0x92 g d a b (vTyCode t) mk r s
  | .vfma g t r s d a b mk => packVB 0x93 g d a b (vTyCode (.flt t)) mk r s
  | .vfms g t r s d a b mk => packVB 0x94 g d a b (vTyCode (.flt t)) mk r s
  | .vmin g t d a b mk => packVB 0x95 g d a b (vTyCode t) mk .rne false
  | .vmax g t d a b mk => packVB 0x96 g d a b (vTyCode t) mk .rne false
  | .vabs g t s d a mk => packV 0x97 g d a org0 (vTyCode t) mk 0 s false 0
  | .vneg g t s d a mk => packV 0x98 g d a org0 (vTyCode t) mk 0 s false 0
  | .vand g d a b mk => packVB 0x99 g d a b 4 mk .rne false
  | .vor g d a b mk => packVB 0x9A g d a b 4 mk .rne false
  | .vxor g d a b mk => packVB 0x9B g d a b 4 mk .rne false
  | .vandn g d a b mk => packVB 0x9C g d a b 4 mk .rne false
  | .vshl g t d a b mk => packVB 0x9D g d a b (vTyCode t) mk .rne false
  | .vshr g t d a b mk => packVB 0x9E g d a b (vTyCode t) mk .rne false
  | .vsra g t d a b mk => packVB 0x9F g d a b (vTyCode t) mk .rne false
  | .vcmp g t c md a b mk => packVB 0xA0 g (maskBlock md (fCondCode c)) a b (vTyCode t) mk .rne false
  | .vsel g d a b mk => packVB 0xA1 g d a b 0 mk .rne false
  | .vmov g d a mk => packV 0xA2 g d a org0 0 mk 0 false false 0
  | .vbcast g d x mk => packV 0xA3 g d org0 org0 0 mk 0 false true x
  | .vbcastLane g d a l mk => packV 0xA3 g d a org0 0 mk 0 false false (0#1 ++ l)
  | .vcvt g dt st r s d a mk =>
    packV 0xA4 g d a ⟨BitVec.ofNat 4 (vcTyCode st), 0⟩ (vcTyCode dt) mk (rmCode r) s false 0
  | .vquant g t r d a => packV 0xA5 g d a org0 (qTyCode t) 0 (rmCode r) false false 0
  | .vdeq g t r s d a mk => packV 0xA6 g d a org0 (qTyCode t) mk (rmCode r) s false 0
  | .vexp2 g r d a mk => packV 0xA7 g d a org0 0 mk (rmCode r) false false 0
  | .vlog2 g r d a mk => packV 0xA8 g d a org0 0 mk (rmCode r) false false 0
  | .vrcp g r d a mk => packV 0xA9 g d a org0 0 mk (rmCode r) false false 0
  | .vrsqrt g r d a mk => packV 0xAA g d a org0 0 mk (rmCode r) false false 0
  | .vtanh g r d a mk => packV 0xAB g d a org0 0 mk (rmCode r) false false 0
  | .vsig g r d a mk => packV 0xAC g d a org0 0 mk (rmCode r) false false 0
  | .vredsum g t r s d a mk => packV 0xAD g d a org0 (vTyCode t) mk (rmCode r) s false 0
  | .vredmax g t d a mk => packV 0xAE g d a org0 (vTyCode t) mk 0 false false 0
  | .vredmin g t d a mk => packV 0xAF g d a org0 (vTyCode t) mk 0 false false 0
  | .vscan g t r s d a mk => packV 0xB0 g d a org0 (vTyCode t) mk (rmCode r) s false 0
  | .vperm g d a b mk => packVB 0xB1 g d a b 0 mk .rne false
  | .vrot g d a x mk => packV 0xB2 g d a org0 0 mk 0 false false x
  | .vshuf g d a b p mk => packV 0xB3 g d a b 0 mk 0 false false p
  | .vcompress g d a mk => packV 0xB4 g d a org0 0 mk 0 false false 0
  | .vcompressMag g d a lg n => packV 0xB4 g d a org0 0 0 1 false false (lg ++ n)
  | .vcompressTop g t d a lg n => packV 0xB4 g d a org0 (vKeyCode t) 0 2 false false (lg ++ n)
  | .vargmax g t d a mk => packV 0xB5 g d a org0 (vKeyCode t) mk 0 false false 0
  | .vrescale g d a b => packV 0xB6 g d a b 0 0 0 false false 0
  | .mand g md ma mb => packV 0xB7 g (maskBlock md 0) ⟨0#1 ++ ma, 0⟩ ⟨0#1 ++ mb, 0⟩ 0 0 0 false false 0
  | .mor g md ma mb => packV 0xB8 g (maskBlock md 0) ⟨0#1 ++ ma, 0⟩ ⟨0#1 ++ mb, 0⟩ 0 0 0 false false 0
  | .mxor g md ma mb => packV 0xB9 g (maskBlock md 0) ⟨0#1 ++ ma, 0⟩ ⟨0#1 ++ mb, 0⟩ 0 0 0 false false 0
  | .mnot g md ma => packV 0xBA g (maskBlock md 0) ⟨0#1 ++ ma, 0⟩ org0 0 0 0 false false 0
  | .mpop g d ma => packV 0xBB g (maskBlock 0 0) ⟨0#1 ++ ma, 0⟩ org0 0 0 0 false false d
  | .mstep g acc slot r n => packE 0xC0 g r 0 acc slot n 0
  | .mstepSort g t o r n => packE 0xC0 g r o 0 0 n (if keyBit t then 2 else 1)
  | .mstepTopk g t o r n => packE 0xC0 g r o 0 0 n (if keyBit t then 4 else 3)
  | .mzero g acc n => packE 0xC1 g 0 0 acc 0 n 0
  | .mload g acc r n => packE 0xC2 g r 0 acc 0 n 0
  | .mdrain g t s acc r x n => packE 0xC3 g r x acc 0 n (drainBits t s)
  | .mdrainv g t s v acc a n => packE 0xC4 g (vregBits v) a acc 0 n (drainBits t s)
  | .msort g t lg o k n => packE 0xC5 g k o 0 0 n (sortBits t lg)
  | .mtopk g t lg kM1 o k n => packE 0xC6 g k o kM1 0 n (sortBits t lg)
  | .mcfg g r => packE 0xC7 g r 0 0 0 0 1
  | .mcfgOff g => packE 0xC7 g 0 0 0 0 0 0
  | .mwait g n => packE 0xC8 g 0 0 0 0 0 n
  | .wrel g slot => packE 0xC9 g 0 0 0 slot 0 0
  | .wstat g d slot => packE 0xCA g d 0 0 slot 0 0
  | .wstatWait g d slot => packE 0xCA g d 0 0 slot 0 1
  | .xfer g r a => packE 0xD0 g r a 0 0 0 0
  | .sbind g p r a => packE 0xD1 g r a 0 0 0 (0#5 ++ p)
  | .swait g p => packI 0xD2 g 0 0 0 (0#29 ++ p)
  | .post g a b c tag => BitVec.ofNat 8 0xD3 ++ encG g ++ 0#7 ++ a ++ b ++ c ++ tag ++ 0#8
  | .take g d a i => packI 0xD4 g d a 0 i
  | .peek g d a i => packI 0xD5 g d a 0 i
  | .await g d a i => packI 0xD6 g d a 0 i
  | .barinit g b => packI 0xD7 g 0 0 0 (0#28 ++ b)
  | .barexp g a b arm => packI 0xD8 g 0 a 0 (0#27 ++ BitVec.ofBool arm ++ b)
  | .bararr g a b => packI 0xD9 g 0 a 0 (0#28 ++ b)
  | .barwait g b => packI 0xDA g 0 0 0 (0#28 ++ b)
  | .bartest g d b => packI 0xDB g d 0 0 (0#28 ++ b)
  | .redput g r x => packE 0xDC g r x 0 0 0 0
  | .coll g r e => packE 0xDD g r e 0 0 0 0
  | .mark g a i => packI 0xDE g 0 a 0 i
  | .sdone g => packI 0xDF g 0 0 0 0
  | .csrr g d n => packS 0xE8 g d 0 n 0
  | .csrw g d a n => packS 0xE9 g d a n 0
  | .csrs g d a n => packS 0xEA g d a n 0
  | .csrc g d a n => packS 0xEB g d a n 0
  | .eret g => packS 0xEC g 0 0 0 0
  | .repart g d a m => packS 0xED g d a 0 (0#22 ++ m)
  | .ctxsave g a k => packS 0xEE g 0 a 0 (0#23 ++ BitVec.ofBool k)
  | .ctxload g a k => packS 0xEF g 0 a 0 (0#23 ++ BitVec.ofBool k)
  | .slotw g d a m => packS 0xF0 g d a 0 (0#22 ++ m)
  | .jkill g d a => packS 0xF1 g d a 0 0
  | .snap g d a h => packS 0xF2 g d a 0 (0#23 ++ BitVec.ofBool h)
  | _ => 0

/-! ## Request records (R56) -/

/-- A decoded request of the host: the instruction of its CODE, or none when the CODE is not listed. -/
def decodeRequest (sv : Nat) (priv : Bool) (r : BitVec 512) : Option Instr :=
  match fld r 0 8 with
  | 0x01 => some (.launch sv priv r)
  | 0x02 => some (.drain sv priv r)
  | 0x03 => some (.freeze sv priv r)
  | 0x04 => some (.restore sv priv r)
  | 0x05 => some (.attest sv priv r)
  | 0x06 => some (.handler sv priv r)
  | 0x07 => some (.copyIn sv priv r)
  | 0x08 => some (.copyOut sv priv r)
  | _ => none

/-- The instruction the decoder reads from an instruction whose bits are `w`: a 64-bit word, or a 512-bit request
record at service tile 0 (bits above `nbits` are zero). -/
def decodeTableWord (nbits w : Nat) : Option Instr :=
  if nbits ≤ 64 then
    match decodeBytes (toBytes 8 w) with
    | some (.ok i, _) => some i
    | _ => none
  else decodeRequest 0 false (BitVec.ofNat 512 w)

end Sys2Proof
end

