-- ==== Sys2Proof/Config.lean ====
section
/-! DEFINITION. What the manual leaves open: constants with no body, so that no proof can see a value of theirs. -/

namespace Sys2Proof.Config

/-- A choice that the manual leaves open: the n-th choice among `count` candidates (log 13). -/
opaque choose (n count : Nat) : Nat

/-- The n-th free word: a value that the manual leaves undefined (log 11). -/
opaque freeWord (n : Nat) : W64

/-- The signature of an attestation report by the module's identity key, whose private half nothing reads (R334,
log 14). -/
opaque signature (b : List Byte) : List Byte

/-- The module's identity public key, made at manufacture (R334, log 14). -/
opaque publicKey : List Byte

/-- The module's serial number (R334, log 14). -/
opaque serial : BitVec 64

/-- The digest of a further firmware component, 1 to 3, of the image with a digest (R333, log 14). -/
opaque component (i : Nat) (image : BitVec 512) : BitVec 512

/-- A snapshot register whose contents the manual names without their places: offset and contents (R368, log 14). -/
opaque snapWord (off : Nat) (contents : List Nat) : W64

/-- A byte of the 64 KiB header of a tile in a freeze image: the manual names what it holds and gives no layout (R48,
log 16): image, tile, offset. -/
opaque headerByte (image tile off : Nat) : Byte

end Sys2Proof.Config
end

