-- ==== Sys2Proof/Machine/Table.lean ====
section
/-! DEFINITION. Sparse tables: a list of key and value pairs with keys strictly rising and no entry equal to the
table's default value, so that equal tables are equal data. -/

namespace Sys2Proof.Table

/-- The value at a key; `d` where the table lists none. -/
def get {α : Type} (d : α) : Tbl α → Nat → α
  | [], _ => d
  | (k', v) :: t, k => if k' = k then v else get d t k

/-- Removes a key. -/
def del {α : Type} : Tbl α → Nat → Tbl α
  | [], _ => []
  | (k', v) :: t, k => if k' = k then del t k else (k', v) :: del t k

/-- Puts an entry before the first greater key. -/
def put {α : Type} : Tbl α → Nat → α → Tbl α
  | [], k, v => [(k, v)]
  | (k', v') :: t, k, v => if k < k' then (k, v) :: (k', v') :: t else (k', v') :: put t k v

/-- Writes the value at a key; the default value removes the entry. -/
def set {α : Type} [DecidableEq α] (d : α) (t : Tbl α) (k : Nat) (v : α) : Tbl α :=
  if v = d then del t k else put (del t k) k v

/-- The keys listed, in ascending order. -/
def keys {α : Type} (t : Tbl α) : List Nat := t.map (·.1)

/-- The keys rise strictly from `n`, and no entry is the default. -/
def okFrom {α : Type} [DecidableEq α] (d : α) : Nat → Tbl α → Bool
  | _, [] => true
  | n, (k, v) :: t => decide (n ≤ k) && decide (v ≠ d) && okFrom d (k + 1) t

/-- The canonical form of a table. -/
def ok {α : Type} [DecidableEq α] (d : α) (t : Tbl α) : Bool := okFrom d 0 t

/-- Drops the entries of a table that satisfy a test. -/
def erase {α : Type} (f : Nat → α → Bool) (t : Tbl α) : Tbl α := t.filter fun e => !f e.1 e.2

end Sys2Proof.Table
end

