-- ==== Sys2Proof/Machine/State.lean ====
section
/-! DEFINITION. The state of one module as plain data: everything the spec gives the machine (INVENTORY.md lists each
piece with its rule and reset value), the outcomes of a step, and the state after reset. -/

namespace Sys2Proof.Machine

/-- Why the machine stops with a fault. No meaning of this model raises one: every failure that the manual describes
is a trap, a status, a notice or a discarded message, all of them next states. -/
inductive Fault where
  /-- Raised by nothing in this model; kept so that the type has a value. Safe. -/
  | none
deriving DecidableEq, Repr

/-- Why an instruction has no meaning. -/
inductive Refusal where
  /-- Raised by an arm of `exec` whose instruction has no meaning yet. Safe: no claim can be made about it. -/
  | notModelled (mnemonic : String)
deriving DecidableEq, Repr

/-! ## Events under way -/

/-- A step of the module that is not a thread's instruction and not a host request, waiting to take place: the same
rows and data as the constructors of `Instr` (a separate type, because compiled code cannot build the constructors of
a type beyond the 244th; Events.lean runs each as `exec` runs its row). The four that arrive as control messages name
also the station they reach, or the band row and the run they are of (R91, R90, R40, R159). -/
inductive Event where
  -- launch, scroll, drain and freeze (R34 to R49): launch, band, region, tile and domain numbers
  | launchEnd (l : Nat)
  | tileReady (t d : Nat)
  | stepStart (b : Nat)
  | stageEntry (t d : Nat)
  | stageDone (t d : Nat)
  | parkedSaddleDelivery (b : Nat)
  | initialSaddleDelivery (b stage : Nat)
  | waveCommit (b w : Nat)
  | bandFinish (b : Nat)
  | drainComplete (r : Nat)
  | freezeImageWrite (r : Nat)
  | freezeAbandon (r : Nat)
  | stepOverrun (b step : Nat)
  | overrunOrder (t d step : Nat)
  | stageDoneReport (k b row stage wave min : Nat)
  | readyReduction (k b row t : Nat)
  | markerReduction (k b row t stage wave step marker : Nat)
  | slotRelease (b row t slot : Nat)
  -- the timetable and light (R87 to R94, R155 to R160, R409)
  | kind1Prefetch (o : Occ)
  | kind2Emit (o : Occ)
  | kind3Writeback (o : Occ)
  | kind4Fetch (o : Occ)
  | kind5Assert (o : Occ)
  | residencyComplete (t d : Nat) (o : Occ)
  | lightFrame (t : Nat) (f : Frame)
  | frameRepairRequest (m : Msg)
  | lostFill (t slot : Nat)
  -- arriving messages (R135)
  | readRequest (m : Msg)
  | writeRequest (m : Msg)
  | atomicRequest (m : Msg)
  | engineCommand (m : Msg)
  | mailboxPost (m : Msg)
  | configurationWrite (m : Msg)
  | readReply (m : Msg)
  | writeAcknowledgement (m : Msg)
  | atomicReply (m : Msg)
  | orderedStreamAck (m : Msg)
  | engineCompletion (m : Msg)
  | bulkData (m : Msg)
  | saddleMessage (m : Msg)
  | reductionContribution (n : Node) (port : Nat) (m : Msg)
  | reductionAbort (n : Node) (group rseq : Nat) (timeout : Bool)
  | reductionContextTimeout (n : Node) (group rseq : Nat)
  | collectiveLaunchRecord (n : Node) (m : Msg)
  | collectiveChunkData (n : Node) (m : Msg)
  | collectiveChunkAck (n : Node) (m : Msg)
  | chunkOperationRun (n : Node) (slot op : Nat)
  | escalation (m : Msg)
  | guardReport (m : Msg)
  | wakeHint (p module : Nat)
  | xlatInvalMessage (station : Nat) (v : W64)
  | reservedTypeMessage (n : Node) (m : Msg)
  | meshRoute (at_ : Node) (m : Msg)
  | flitRetry (x y : Nat) (p : Dir) (failed : Nat)
  | tailKill (n : Node) (m : Msg)
  -- engines, ports and matrix commands (R162 to R175, R291)
  | blockTransferStart (station engine : Nat)
  | transferComplete (station engine : Nat)
  | streamPatternStart (t port : Nat)
  | patternComplete (t port : Nat)
  | matrixCommandComplete (t d : Nat)
  -- the tile's own events (R53, R244, R346, R356, R361, R385)
  | slotTableRotation
  | waitcExpiry (t hw : Nat)
  | handlerEntry (t hw : Nat)
  | feLimitExpiry (t hw since : Nat)
  | parkWatchdog (t d since : Nat)
  | mailboxRetry (t d : Nat)
  | waitWithdrawalAck (t hw : Nat)
  -- removal (R363)
  | killWrite (n : Node) (pid : BitVec 16)
  | killSweepEnd (n : Node) (pid : BitVec 16)
  | removalConfirmed (pid : BitVec 16)
  -- device registers (R75, R76, R181, R382, R418, R3)
  | xlatInvalWrite (station : Nat) (v : W64)
  | xlatInvalDone
  | collLoad (n : Node) (v : W64) (pid : BitVec 16) (free : Bool)
  | collStop (n : Node) (slot : Nat)
  | redHoldHold (x y : Nat) (group rseq : Nat)
  | redHoldRelease (x y : Nat) (group rseq : Nat)
  | redHoldAbandon (x y : Nat) (group rseq : Nat)
  | engResolveRetry (n : Node) (index : Nat)
  | engResolveAbandon (n : Node) (index : Nat)
  | remapEntryWrite (row col physX : Nat)
  | rowPwrWrite (row : Nat) (v : W64)
  | rowPowerSettled (row : Nat)
  | portLaserWrite (p : Nat) (v : W64)
  | portLanesDrain (p lane : Nat)
  | registerWrite (a : Nat) (v : W64)
  | rcRegisterRead (a : Nat)
  -- LLC buckets and DRAM lanes (R82, R375)
  | rebalanceEpoch
  | bucketFlushed
  | bucketActiveAtNew
  | laneSwapEnd (station channel : Nat) (ok : Bool)
  -- fencing, substitution and replay (R390 to R422)
  | heartbeatSend (x y : Nat)
  | heartbeat (x y : Nat) (p : Dir)
  | silenceAccusation (x y : Nat) (p : Dir)
  | babbleWindowEnd (x y : Nat) (p : Dir)
  | accusation (x y ax ay : Nat) (by_ : Node) (r : FenceReason)
  | accusationWithdrawal (x y ax ay : Nat) (by_ : Node)
  | accusationExpiry (x y ax ay : Nat) (by_ : Node)
  | quorumHoldEnd (x y ax ay : Nat)
  | selfFence (x y : Nat)
  | fenceNotice (n : Node) (fx fy : Nat) (r : FenceReason)
  | substitution (row col : Nat)
  | replayStep (b stage : Nat)
  | farrierTest (x y : Nat) (passed : Bool)
  | appeal (x y : Nat) (p : Dir)
  | probationEnd (x y : Nat) (p : Dir)
  | readmissionNotice (n : Node) (fx fy : Nat)
  -- herd links, ports and lasers (R188 to R191, R337 to R340, R423 to R426)
  | timeSyncSend (p : Nat)
  | timeSyncSymbol (p : Nat) (v : W64)
  | quiesce (p : Nat)
  | resume (p : Nat)
  | restripe (p : Nat) (lanes : BitVec 16)
  | fecReplay (p : Nat)
  | lockLoss (p lane : Nat)
  | relightTimeout (p : Nat)
  | laserLoadWindow (p : Nat)
  | portLocked (p : Nat)
  -- boot, power and management (R332 to R342, R364 to R366)
  | moduleReset
  | thermalSample (row : Nat)
  | thermalTrip
  | snapshotTrigger
  | measurementExtend (k i : Nat) (d : BitVec 512)
  | firmwareUpdate (k : Nat) (image : FlashState) (digest : BitVec 512)
  | managementReset
  | herdMembershipChange (members : BitVec 32)
  | pcieReadCompletion (k : Nat)
  | ageHorizonCrossed (p lane : Nat) (hours : BitVec 16)
deriving DecidableEq, Repr

/-! ## Threads -/

/-- What a parked thread waits for (R54, R356). -/
inductive Wait where
  /-- `await` for a message that matches the key (R262). -/
  | mbox (key : BitVec 32)
  /-- A full-empty wait at the word of this address (R253). -/
  | fe (ea : W64)
  /-- `barwait` on a barrier (R263). -/
  | bar (b : Nat)
  /-- `mwait n` or the wait of `mdrainv` (R301, R303): at most n of the thread's commands incomplete. -/
  | mat (n : Nat)
  /-- The matrix queue of the domain is full (R290). -/
  | mqueue
  /-- `waitc` until TIME reaches the target (R244). -/
  | waitc (target : W64)
  /-- `wstat.wait` on a slot (R305). -/
  | wslot (n : Nat)
  /-- `mdrainv` waits for its command with this ticket to complete (R301). -/
  | drainv (ticket : Nat)
  /-- The queue of a stream port is full (R308). -/
  | pqueue (p : Nat)
  /-- `swait`: the patterns of the domain at the port numbered below the ticket (R309). -/
  | port (p ticket : Nat)
  /-- Four refused mailbox messages are held (R355). -/
  | nic
  /-- Every earlier access of the thread has to perform first (R100). -/
  | prior
  /-- An earlier access to the same location has to perform first (R97). -/
  | same
  /-- Replies of the instruction's own access are on their way. -/
  | reply
  /-- A residency record has to become resident (R387). -/
  | resident
  /-- `ctxsave` waits for this hardware thread (R320). -/
  | ctx (h : Nat)
  /-- `fence.acq`: the thread's matrix commands have to read their operands (R100, R292). -/
  | loads
deriving DecidableEq, Repr

/-- The run state of a hardware thread (R54, R346, R350). -/
inductive Run where
  /-- Not started in this step. -/
  | idle
  | ready
  | parked (w : Wait) (since : Nat)
  /-- Spending its 8 cycles before the handler; a notice code of 0 leads into it, 0x31 or 0x32 stops the thread
  (R346, R350). -/
  | entering (notice : Nat)
  /-- Stopped by an escalation or by `ctxsave` (R320, R350). -/
  | stopped
  /-- Has executed `sdone` or `exit` (R246, R265). -/
  | done
deriving DecidableEq, Repr

/-- An access that a thread has issued and that has not performed (R97). -/
structure Outst where
  seq  : Nat
  addr : W64
  size : Nat
  /-- The instruction waits for the reply; otherwise it has retired (R97). -/
  wait : Bool
deriving DecidableEq, Repr

/-- A hardware thread (R197, R317, R319). -/
structure Thread where
  pc      : W64
  x       : Tbl W64
  /-- Bit i is predicate i; bit 0 reads as 1 through the accessor (R198). -/
  p       : BitVec 8
  /-- Masks m1 to m7; m0 reads as all ones through the accessor (R198). -/
  m       : Tbl W64
  /-- Vector registers by register number, lane i in bits [32i+31:32i] (R197). -/
  v       : Tbl (BitVec 2048)
  priv    : BitVec 2
  pprv    : BitVec 2
  cause   : BitVec 6
  trapPc  : BitVec 32
  trapVal : W64
  fmtA    : BitVec 4
  fmtB    : BitVec 4
  scaleA  : BitVec 24
  scaleB  : BitVec 24
  /-- The stage-thread index i (R34). -/
  idx     : Nat
  run     : Run
  /-- The tile cycle from which the thread may issue (R54). -/
  readyAt : Nat
  /-- The instruction in flight while the thread is parked. -/
  pend    : Option Instr
  /-- Accesses issued and not yet performed (R97). -/
  outst   : List Outst
  /-- The number of the next access. -/
  seq     : Nat
  /-- Elements that have returned for the instruction in flight, and the causes that replies have brought. -/
  got     : List Elem
  bad     : List (Nat × W64)
  /-- The pcs of the thread's failed matrix commands not yet reported (R344). -/
  mfail   : List W64
  /-- A step-overrun order is to be taken before the next issue (R360, R362). -/
  overrun : Bool
  /-- The thread stays out of the rotation until the next slot-table boundary (R245). -/
  yielded : Bool
  /-- Parts of the register files that fail their parity, 64 bits each: the number of a scalar register, or 64 + 32 n + k
  for lanes 2k and 2k + 1 of vector register n (R369, R371). -/
  parity  : List Nat
  /-- A stalled schedule-miss is being counted since this cycle (R387). -/
  missed  : Bool
  /-- An acquire that has retired holds later accesses until the thread's accesses have performed (R100). -/
  hold    : Bool
  /-- A `ctxsave` under way holds the thread out of its rotation (R320). -/
  saving  : Bool
  /-- The thread stands stopped by `trap` until its report is acknowledged (R351). -/
  owed    : Bool
  /-- A cause to take once a withdrawn full-empty request is acknowledged (R356). -/
  after   : Option (Nat × W64)
  /-- PCIe links with posted writes that no later read has flushed (R70, R100). -/
  unfl    : BitVec 4
deriving DecidableEq, Repr

def Thread.reset : Thread :=
  { pc := 0, x := [], p := 0, m := [], v := [], priv := 0, pprv := 0, cause := 0, trapPc := 0, trapVal := 0, fmtA := 0,
    fmtB := 0, scaleA := 0, scaleB := 0, idx := 0, run := .idle, readyAt := 0, pend := none, outst := [], seq := 0,
    got := [], bad := [], mfail := [], overrun := false, yielded := false, parity := [], missed := false, hold := false,
    saving := false, owed := false, after := none, unfl := 0 }

/-! ## Domains -/

/-- A matrix command in its domain's queue, with everything it read at issue (R290, R292). -/
structure MCmd where
  ins    : Instr
  hw     : Nat
  pc     : W64
  /-- The command's ticket in the domain's queue order. -/
  ticket : Nat
  /-- The thread's accesses with a number below this one were issued before the command (R292). -/
  prior  : Nat
  /-- The record, or the bytes of a rasterisation table (R302). -/
  bytes  : List Byte
  /-- Local-store offsets of the operands x[r] and x[o], or the first row of `mdrainv`. -/
  a      : Nat
  b      : Nat
  /-- The stride operand of `mdrain`. -/
  st     : Nat
  fa     : Nat
  fb     : Nat
  sa     : Nat
  sb     : Nat
  /-- Array cycles that the command still needs (R291). -/
  left   : Nat
  /-- The array has finished; completion is 70 tile cycles later (R291). -/
  fini   : Bool
  /-- Met lost data: the command fails (R344, R371). -/
  lost   : Bool
  /-- It missed its schedule and stalls since this cycle (R387). -/
  stall  : Option Nat
deriving DecidableEq, Repr

/-- A residency record (R94, R386). -/
structure Resid where
  lo    : Nat
  len   : Nat
  m     : Nat
  /-- 0 in progress, 1 resident, 2 lost. -/
  st    : Nat
  /-- The run it belongs to. -/
  stage : Nat
  wave  : Nat
deriving DecidableEq, Repr

/-- A refused mailbox message that the sender holds (R355). -/
structure Held where
  msg   : Msg
  dest  : W64
  since : Nat
deriving DecidableEq, Repr

/-- A domain of a tile: a job present there (R50). -/
structure Dom where
  present   : Bool
  pid       : Nat
  jobPriv   : Bool
  fdPolicy  : BitVec 4
  weight    : Nat
  /-- Numbers of the launch, region and band that placed the domain; the band is 0 outside every band and otherwise
  its number plus 1. -/
  launch    : Nat
  region    : Nat
  band      : Nat
  lsBase    : Nat
  lsSize    : Nat
  thrFirst  : Nat
  thrCount  : Nat
  codeSize  : Nat
  commitKib : Nat
  bucketFirst : Nat
  bucketCount : Nat
  accMask   : BitVec 64
  slotMask  : BitVec 16
  barMask   : BitVec 16
  /-- The fabric's corner and size (R26). -/
  frow0     : Nat
  fcol0     : Nat
  fheight   : Nat
  fwidth    : Nat
  /-- Band height B, band row j, column c of the band, first wave (R27, R28). -/
  bHeight   : Nat
  bRow      : Nat
  bCol      : Nat
  firstWave : Nat
  trapBase  : BitVec 32
  feLimit   : BitVec 32
  permMask  : BitVec 4
  stage     : BitVec 16
  wave      : BitVec 32
  step      : W64
  marker    : W64
  /-- The stage record in force (R31); 0 before the first entry. -/
  srec      : BitVec 2048
  /-- The saddle window addresses SBB (R34). -/
  sbb       : Bool
  /-- A run of a stage is in progress on the tile (R34, R36). -/
  running   : Bool
  /-- Bytes that have arrived: of the saddles for even and odd steps (keys 16 and 17) and of feedback edges (key
  32 + 4 * stage + edge), until the stage entry that uses them (R40, R44). -/
  due       : Tbl Nat
  /-- The tile has contributed ready for the next step (R40). -/
  isReady   : Bool
  /-- Entries in the commit halves H0 and H1 (R251). -/
  commit0   : Nat
  commit1   : Nat
  mq        : List MCmd
  mticket   : Nat
  /-- Rasterisation table: P and the permutation; empty when disabled (R187, R302). -/
  rasterP   : Nat
  raster    : List Nat
  /-- `wrel` signals waiting for queued commands: slot and the first ticket that does not hold them (R304). -/
  wrels     : List (Nat × Nat)
  resid     : List Resid
  mbox      : List (BitVec 256)
  held      : List Held
  /-- The thread that last issued (R54). -/
  lastIss   : Nat
  /-- Thread-context cache entries 2d and 2d + 1 (R320): backing offset and image. -/
  ctx0      : Option (Nat × List Byte)
  ctx1      : Option (Nat × List Byte)
  /-- Tile cycle since which every started thread is parked, stopped or done (R361). -/
  idleAt    : Option Nat
  /-- The unfinished vector instructions of the domain, oldest first: the thread, and the registers still to process
  (R276). -/
  vq        : List (Nat × Nat)
deriving DecidableEq, Repr

def Dom.reset : Dom :=
  { present := false, pid := 0, jobPriv := false, fdPolicy := 0, weight := 0, launch := 0, region := 0, band := 0,
    lsBase := 0, lsSize := 0, thrFirst := 0, thrCount := 0, codeSize := 0, commitKib := 0, bucketFirst := 0,
    bucketCount := 0, accMask := 0, slotMask := 0, barMask := 0, frow0 := 0, fcol0 := 0, fheight := 0, fwidth := 0,
    bHeight := 0, bRow := 0, bCol := 0, firstWave := 0, trapBase := 0, feLimit := 0, permMask := 0, stage := 0,
    wave := 0, step := 0, marker := 0, srec := 0, sbb := false, running := false, due := [], isReady := false,
    commit0 := 0, commit1 := 0, mq := [], mticket := 0, rasterP := 0, raster := [], wrels := [], resid := [],
    mbox := [], held := [], lastIss := 15, ctx0 := none, ctx1 := none, idleAt := none, vq := [] }

/-! ## Tiles -/

/-- A weight slot (R158, R305); its bytes are in `State.slotMem`. -/
structure Slot where
  full     : Bool
  fmt      : BitVec 4
  fill     : BitVec 16
  scaleOff : BitVec 17
  len      : Nat
  /-- The fill being taken: its group and number, the frame positions taken, bytes counted and the length that its LAST
  frame gives (R158, R409). -/
  cur      : Option (Nat × Nat)
  taken    : List Nat
  count    : Nat
  total    : Option Nat
  /-- The SLOT_DUE deadline and the stage and wave of the run it belongs to (R386). -/
  due      : Option (Nat × Nat × Nat)
  /-- The tile has been told that the coming fill is lost (R371). -/
  lost     : Bool
  /-- Repairs asked for, by frame position of the present fill (R409). -/
  repairs  : Tbl Nat
deriving DecidableEq, Repr

def Slot.reset : Slot :=
  { full := false, fmt := 0, fill := 0, scaleOff := 0, len := 0, cur := none, taken := [], count := 0, total := none,
    due := none, lost := false, repairs := [] }

/-- An arrival barrier (R179). -/
structure Barrier where
  done    : Bool
  armed   : Bool
  pending : BitVec 36
  /-- The domain that holds it, plus 1; 0 when none does. -/
  owner   : Nat
deriving DecidableEq, Repr

def Barrier.reset : Barrier := { done := false, armed := false, pending := 0, owner := 0 }

/-- A pattern bound to a stream port (R172). -/
structure Pattern where
  cmd    : EngCmd
  ticket : Nat
  /-- Units moved (R173), messages sent and acknowledged, the record tag, and the first failure: status and unit. -/
  pos    : Nat
  sent   : Nat
  acked  : Nat
  tag    : Nat
  fail   : Option (Nat × Nat)
deriving DecidableEq, Repr

/-- A stream port (R172). -/
structure SPort where
  cur    : Option Pattern
  queue  : List Pattern
  ticket : Nat
  /-- The unit position from which the first pattern that a domain binds in the step resumes, by domain (R173). -/
  resume : Tbl Nat
deriving DecidableEq, Repr

def SPort.reset : SPort := { cur := none, queue := [], ticket := 0, resume := [] }

/-- A full-empty access queued at a word (R84). -/
structure FeReq where
  off   : Nat
  mode  : FeMode
  load  : Bool
  elem  : Elem
  iss   : Issuer
  msg   : Option Msg
deriving DecidableEq, Repr

/-- A window of an ordered stream at its receiver (R145). -/
structure RxStream where
  src    : Node
  stream : Nat
  next   : Nat
  held   : List Msg
  unacked : Nat
deriving DecidableEq, Repr

/-- An ordered stream at its source (R145, R175). -/
structure TxStream where
  stream : Nat
  dst    : Node
  window : Nat
  next   : Nat
  acked  : Nat
  live   : Nat
  queue  : List Msg
deriving DecidableEq, Repr

/-- A tile, by logical number (R13). -/
structure Tile where
  mode     : BitVec 2
  threads  : Tbl Thread
  doms     : Tbl Dom
  /-- SLOT0 to SLOT15: 0 idle, 4 + d when assigned to domain d (R52). -/
  table    : Tbl (BitVec 3)
  slots    : Tbl Slot
  bars     : Tbl Barrier
  ports    : Tbl SPort
  /-- Receivers n: 64 * (group + 1) plus the RXLAM field it was tuned to, 0 when dark (R155). -/
  rx       : Tbl Nat
  feq      : List FeReq
  rxStreams : List RxStream
  txStreams : List TxStream
  /-- Words of which a record with its full flag set has written some bytes so far: source, the record's issuer, the word's
  number, and the bytes (R85). -/
  halves   : List (Node × Issuer × Nat × BitVec 8)
  /-- The L1 cache: way and line of each line that it holds (R77, R431). -/
  l1       : List (Nat × Nat)
  /-- The domain that owns each of the L1 cache's ways; empty before the first division (R431). -/
  ways     : List Nat
  /-- The tile has found an uncorrectable control error, or has been fenced (R396, R399). -/
  fenced   : Bool
  /-- Next record tag of the stream ports (R169). -/
  tag      : Nat
deriving DecidableEq, Repr

def Tile.reset : Tile :=
  { mode := 0, threads := [], doms := [], table := [], slots := [], bars := [], ports := [], rx := [], feq := [],
    rxStreams := [], txStreams := [], halves := [], l1 := [], ways := [], fenced := false, tag := 0 }

/-! ## Stations, port stations, routers, service tiles -/

/-- An accepted record that an engine runs, or a stream that the tier or collective engine runs (R162, R381). -/
structure EngRun where
  cmd   : EngCmd
  pid   : Nat
  /-- Destination lines owned since acceptance (R104). -/
  lines : List Nat
  pos   : Nat
  /-- Bytes read and not yet sent: receiver, offset, bytes, first unit (R165). -/
  dels  : List (Nat × Nat × List Byte × Nat)
  sent  : Nat
  acked : Nat
  tag   : Nat
  fail  : Option (Nat × Nat)
  /-- The fault record under which the stream is parked (R381). -/
  park  : Option Nat
deriving DecidableEq, Repr

/-- A cached translation (R74). -/
structure Xlat where
  pid  : Nat
  vpn  : Nat
  big  : Bool
  leaf : W64
  /-- The physical address of the entry, where A and D are set (R74). -/
  pte  : Nat
deriving DecidableEq, Repr

/-- An entry of the lost-line table (R372). -/
structure Lost where
  line    : Nat
  pid     : Nat
  written : BitVec 128
  buf     : BitVec 1024
deriving DecidableEq, Repr

/-- A transfer with another module's memory, asked for by an engine or the walker of a station (R78): a write or a read,
the job, the physical address and length, what it was translated by (era, virtual address, page size; R76), and its
outcome once it has come: `some none` for lost data. -/
structure Far where
  wr   : Bool
  pid  : Nat
  pa   : Nat
  len  : Nat
  era  : Nat
  va   : Nat
  big  : Bool
  got  : Option (Option (List Byte))
deriving DecidableEq, Repr

/-- A parked engine stream (R381). -/
structure EngFault where
  va     : W64
  engine : Nat
  unit   : Nat
  write  : Bool
  cause  : Nat
  pid    : Nat
  group  : Nat
  hold   : Bool
  rseq   : Nat
  id     : Nat
  tile   : Nat
  dom    : Nat
  /-- What resumes: the event that runs again after a retry. -/
  resume : Option Event
deriving DecidableEq, Repr

/-- A collective graph slot (R181 to R186). -/
structure Graph where
  loaded  : Bool
  header  : BitVec 256
  ops     : List (BitVec 256)
  /-- The running instance: launch record, counters, completed operations, arrived data by operation. -/
  launch  : Option (BitVec 512)
  iss     : Issuer
  count   : Tbl Nat
  done    : List Nat
  ran     : List Nat
  arrive  : List (Nat × Nat × List Byte)
  stopped : Bool
deriving DecidableEq, Repr

def Issuer.none : Issuer := { tile := 0, dom := 0, hw := 0, priv := 0, pc := 0, seq := 0, wait := false }

def Graph.reset : Graph :=
  { loaded := false, header := 0, ops := [], launch := none, iss := Issuer.none, count := [], done := [], ran := [],
    arrive := [], stopped := false }

/-- The tier engine's state for one band row and stage (R91, R322). -/
structure Cursor where
  band   : Nat
  row    : Nat
  stage  : Nat
  wave   : Nat
  mIn    : Nat
  /-- The row marker reached. -/
  mark   : Nat
  /-- The run has been entered; its final marker is fixed. -/
  entered : Bool
  final  : Option Nat
  /-- The timetable as read when the stage's entries began: its address, period, lookahead and entries (R87). -/
  base   : Nat
  period : Nat
  prime  : Nat
  entries : List (BitVec 256)
  /-- Occurrences started and complete, by entry index and M. -/
  begun  : List (Nat × Nat)
  done   : List (Nat × Nat)
  /-- Occurrences of earlier runs that had not started (R322). -/
  left   : List (Nat × Nat)
  /-- Occurrences that the stage's previous run has carried out beyond its final marker (R322). -/
  skip   : List (Nat × Nat)
  /-- The row has reported the stage done: nothing more starts (R322). -/
  shut   : Bool
deriving DecidableEq, Repr

/-- A station: 0 to 31 west, 32 to 63 east (R6). -/
structure Station where
  /-- Accepted records with their PID and the lines owned for them (R104, R162). -/
  queue   : List (EngCmd × Nat × List Nat)
  engines : Tbl (Option EngRun)
  xlat    : List Xlat
  lost    : Tbl (Option Lost)
  /-- Lines lost while the table was full, with the PIDs of their losses, until an entry frees (R372). -/
  excess  : List (Nat × Nat)
  faults  : Tbl (Option EngFault)
  graphs  : Tbl Graph
  /-- Data that arrived for instances not yet launched (R184). -/
  early   : List Msg
  cursors : List Cursor
  txStreams : List TxStream
  tag     : Nat
  /-- Lane swaps in progress, by channel: the lane + 128 * spare, the line's address * 2 + 1 for a write, and TIME of the
  first failure (R375). -/
  swaps   : Tbl (Option (Nat × Nat × Nat))
  /-- Outcomes of further attempts not yet used by the transfer that they belong to, by line * 2 + 1 for a write: lost,
  or passed with the errors that the bus checks did not find (R375). -/
  again   : Tbl (Option (Option (BitVec 1152)))
  /-- Invalidations that have reached the station (R76). -/
  era     : Nat
  far     : List Far
  /-- Requests held at the slice for a draining bucket, a closed channel or an owned line (R82, R104, R375). -/
  waiting : List Event
deriving DecidableEq, Repr

def Station.reset : Station :=
  { queue := [], engines := [], xlat := [], lost := [], excess := [], faults := [], graphs := [], early := [],
    cursors := [], txStreams := [], tag := 0, swaps := [], again := [], era := 0, far := [], waiting := [] }

/-- A change of the wavelengths that carry flits (R338, R425). -/
structure Stripe where
  /-- The ACTIVE set that a drain leaves; none for a change between L0 and L1. -/
  active : Option (BitVec 16)
  /-- Flits sent over the old set and not yet acknowledged. -/
  wait   : Nat
  /-- The restripe symbol has been sent, and the set that the peer's symbol has named. -/
  sent   : Bool
  heard  : Option (BitVec 16)
deriving DecidableEq, Repr

/-- A port station: its collective engine and its link (R190, R423 to R426). -/
structure PortSt where
  graphs   : Tbl Graph
  early    : List Msg
  /-- Flits in the replay buffer not yet acknowledged, and the number of the next flit (R423, R425). -/
  replay   : Nat
  flitNo   : Nat
  /-- Steps 1 to 4 of R190 are under way; the time-sync exchange of step 7 is. -/
  down     : Bool
  syncing  : Bool
  /-- A change of the lanes under way, and wavelengths whose drain waits for it (R338, R425). -/
  stripe   : Option Stripe
  todo     : List Nat
  quiesced : Bool
  peerQuiesced : Bool
  locked   : Bool
  /-- Relight attempts made (R426). -/
  attempts : Nat
  /-- Flits sent in the present load window, and consecutive windows under 25 % of L0 capacity and without a flit
  (R339). -/
  flits    : Nat
  low      : Nat
  idle     : Nat
deriving DecidableEq, Repr

def PortSt.reset : PortSt :=
  { graphs := [], early := [], replay := 0, flitNo := 0, down := false, syncing := false, stripe := none, todo := [],
    quiesced := false, peerQuiesced := false, locked := true, attempts := 0, flits := 0, low := 0, idle := 0 }

/-- A reduction context in use (R147): contributions by port of the fold order. -/
structure RedCtx where
  group  : Nat
  rseq   : Nat
  contrib : List (Nat × List W32)
  pid    : Nat
  since  : Nat
deriving DecidableEq, Repr

/-- An accusation that a block holds about a tile (R393). -/
structure Accuse where
  ax     : Nat
  ay     : Nat
  by_    : Node
  reason : FenceReason
  since  : Nat
deriving DecidableEq, Repr

/-- The physical router of a tile position, or the reduction unit of a station or port station. -/
structure Router where
  red      : Tbl (BitVec 64)
  /-- The parent of this node in a group's tree, as a logical node: a tile T, 3000 + a station, 4000 + a port station
  (R149, R406). -/
  up       : Tbl (Option Nat)
  ctxs     : List RedCtx
  waitRed  : List (Nat × Msg)
  /-- Sequences held by a parked stream (R381). -/
  holds    : List (Nat × Nat)
  /-- Sequences aborted, with the mesh cycle at which that ends, or abandoned, with 0: their later contributions are
  discarded (R382, R407). -/
  aborted  : List (Nat × Nat × Nat)
  /-- Groups whose tree has been recomputed after a fence (R406, R408). -/
  moved    : List Nat
  accuse   : List Accuse
  /-- Accusations of this router's own, by port, and how often one was repeated without support (R395). -/
  mine     : Tbl Nat
  repeats  : Tbl Nat
  /-- Mesh cycle of the last heartbeat of a port, plus 1, and heartbeats in the present interval (R391). -/
  beat     : Tbl Nat
  heard    : Tbl Nat
  /-- The fence set: tile position Y * 66 + X to the reason code plus 1 (R397). -/
  fences   : Tbl Nat
  /-- Kill sweeps in progress: PID and end in mesh cycles (R363). -/
  sweeps   : List (Nat × Nat)
  /-- Ports on probation (R421) and votes to re-admit. -/
  probation : List Nat
  votes    : List Nat
  /-- The heartbeat unit is silent, or the router corrupts its flits: physical faults (R390, R391). -/
  silent   : Bool
  sealed   : Bool
deriving DecidableEq, Repr

def Router.reset : Router :=
  { red := [], up := [], ctxs := [], waitRed := [], holds := [], aborted := [], moved := [], accuse := [], mine := [],
    repeats := [], beat := [], heard := [], fences := [],
    sweeps := [], probation := [], votes := [], silent := false, sealed := false }

/-- A firmware copy in flash and what a verification finds of it (R332, R342). -/
structure Flash where
  state  : FlashState
  digest : BitVec 512
deriving DecidableEq, Repr

/-- A host copy under way at a service tile (R60). -/
structure Copy where
  inbound : Bool
  dev     : Nat
  host    : Nat
  units   : Nat
  /-- Units issued and performed. -/
  next    : Nat
  done    : List Nat
  lost    : Option Nat
  /-- The unit under way goes to another module, and its answer has not come (R60, R78). -/
  away    : Bool
deriving DecidableEq, Repr

/-- A service tile (R6, R332, R192). -/
structure Service where
  booted  : Bool
  status  : BitVec 8
  meas    : Tbl (BitVec 512)
  queue   : List (Bool × BitVec 512)
  /-- The copy request in progress and the copy (R60). -/
  busy    : Option (BitVec 512)
  copy    : Option Copy
  /-- The LAUNCH at the head of the queue waits for regions to drain (R23). -/
  stalled : Bool
  flashA  : Flash
  flashB  : Flash
  /-- The copy that runs: 1 A, 2 B, 0 none. -/
  running : Nat
  /-- An accepted update stands in copy B, which the next boot tries first (R342). -/
  firstB  : Bool
  /-- PCIe reads issued and not completed: aperture loads and release flushes (R70). -/
  reads   : List Msg
  /-- Service tiles that still configure their quadrants for a launch (R7): tile and launch. -/
  waits   : List (Nat × Nat)
deriving DecidableEq, Repr

def Service.reset : Service :=
  { booted := false, status := 0, meas := [], queue := [], busy := none, copy := none, stalled := false,
    flashA := ⟨.valid, 0⟩, flashB := ⟨.valid, 0⟩, running := 0, firstB := false, reads := [], waits := [] }

/-! ## Jobs, regions, bands -/

/-- A node of the tree: address, parent's address, and effective RCB. -/
structure TreeNode where
  addr   : Nat
  parent : Nat
  eff    : BitVec 1024
deriving DecidableEq, Repr

/-- A band with its stage records and code image. -/
structure BandPlan where
  node : TreeNode
  recs : List (BitVec 2048)
  code : List Byte
deriving DecidableEq, Repr

/-- A region with its light-group and reduction-group descriptors, these with their node records. -/
structure RegionPlan where
  node   : TreeNode
  lights : List (BitVec 256)
  reds   : List (BitVec 256 × List (BitVec 64))
deriving DecidableEq, Repr

/-- What a valid tree asks for. -/
structure Plan0 where
  nodes   : List TreeNode
  bands   : List BandPlan
  regions : List RegionPlan
deriving DecidableEq, Repr

/-- A launch (R56 to R58): its request, the tree's RCBs with effective values by address, whether the start reply has
been written, notices sent, the end status, what the tree asks for, and the bands whose kept accumulators are still to be
loaded before any controller starts (R39, R58). -/
structure Launch where
  live    : Bool
  sv      : Nat
  req     : BitVec 512
  rcbs    : Tbl (BitVec 1024)
  started : Bool
  notices : Nat
  status  : Nat
  plan    : Plan0
  loads   : List Nat
deriving DecidableEq, Repr

/-- A placed region (R24): its launch, RCB address and effective RCB, and its drain or freeze. -/
structure Region where
  live    : Bool
  launch  : Nat
  addr    : Nat
  rcb     : BitVec 1024
  jobAddr : Nat
  /-- 0 running, 1 draining, 2 freezing, 3 being removed. -/
  phase   : Nat
  /-- The DRAIN or FREEZE request to answer, with its service tile. -/
  req     : Option (Nat × BitVec 512)
  /-- The mesh cycle at which a freeze is abandoned (R359). -/
  limit   : Nat
  groups  : List Nat
  reds    : List Nat
deriving DecidableEq, Repr

/-- A mesh feedback edge as the service tile derives it at launch (R32, R44): its consuming and producing stages, its
number in the consuming record, the wave distance, and its buffer. -/
structure Edge where
  to_   : Nat
  from_ : Nat
  idx   : Nat
  k     : Nat
  off   : Nat
  len   : Nat
deriving DecidableEq, Repr

/-- A replay in progress (R413): the band row, the waves still to rerun with the last stage of each, the stage of the
present replay step, its phase (0 saddles to deliver, 1 waiting for its priming, 2 running), and the columns whose
saddle of the interrupted step the history already holds. -/
structure Replay where
  row   : Nat
  todo  : List (Nat × Nat)
  stage : Nat
  phase : Nat
  kept  : List Nat
deriving DecidableEq, Repr

/-- A band and its scroll controller (R27 to R30, R40, R41). -/
structure Band where
  live    : Bool
  region  : Nat
  addr    : Nat
  rcb     : BitVec 1024
  /-- The history stride (R38) and the mesh feedback edges (R44), derived at launch. -/
  stride  : Nat
  edges   : List Edge
  step    : Nat
  /-- Step 0 has begun. -/
  started : Bool
  startAt : Nat
  /-- First wave that is not admitted, when a drain has fixed it (R46). -/
  stopWave : Option Nat
  /-- Ready contributions by (row, tile) (R40). -/
  readyT  : List (Nat × Nat)
  /-- Waves whose commit has performed, and the commit progress of the next one: column and entry (R45, R414). -/
  commits : Nat
  progress : Nat × Nat
  overrun : Bool
  /-- The controller holds the band: a freeze, a fence or a replay (R48, R411). -/
  holding : Bool
  finished : Bool
  replay  : Option Replay
  /-- Band rows that are to be replayed after that (R415). -/
  again   : List Nat
deriving DecidableEq, Repr

/-- A tile's part of a freeze image that its 64 KiB header holds (R48). -/
structure ImageTile where
  /-- The domain's number on its tile. -/
  no      : Nat
  dom     : Dom
  threads : List (Nat × Thread)
  slots   : List (Nat × Slot)
  bars    : List (Nat × Barrier)
  ports   : List (Nat × SPort)
deriving DecidableEq, Repr

/-- Release state of a slot in a row, at the station that SLOT_SIDE names (R92, R159): released, the group of the last
fill, the columns that have released it since, and those whose full bit has set. -/
structure Rel where
  free  : Bool
  group : Nat
  cols  : List Nat
  got   : List Nat
deriving DecidableEq, Repr

def Rel.reset : Rel := { free := false, group := 0, cols := [], got := [] }

/-- What the headers of a freeze image hold: the region's shape, its bands with the occurrences of their runs at the
stations (band, side, cursor) and the release state of their rows' slots (band, band row * 16 + slot), and its tiles in the image's order; bands by
position (R48). -/
structure Image where
  height  : Nat
  width   : Nat
  bands   : List Band
  cursors : List (Nat × Nat × Cursor)
  rels    : List (Nat × Nat × Rel)
  tiles   : List ImageTile
deriving DecidableEq, Repr

/-- A bucket move (R82): bucket, old and new slice, state 0 draining, 1 flushed, and how many copies of the table hold the
new entry: those of stations 0 to 63, then those of the tiles' network interfaces (R79). -/
structure Move where
  bucket : Nat
  old    : Nat
  new    : Nat
  state  : Nat
  told   : Nat
  /-- Copies that their own requesters have written after a redirect (R384). -/
  own    : List Nat
deriving DecidableEq, Repr

/-- A removal in progress (R363): the PID, the region when only one is removed, the launch, the status of the end
reply, and the blocks whose sweep has not ended. -/
structure Removal where
  pid    : Nat
  region : Option Nat
  launch : Nat
  status : Nat
  blocks : List Node
deriving DecidableEq, Repr

/-- An LLC line (R77, R78, R372): dirty, the PID of its last writer, and the bucket that gives its slice. Which L1 caches
hold it is what their `Tile.l1` say; the directory is a view of these. -/
structure Line where
  dirty  : Bool
  pid    : Nat
  bucket : Nat
deriving DecidableEq, Repr

/-- A physical fault that the outside world brings into memories, buses and register files (R369, R373 to R376). -/
inductive Flaw where
  /-- Bits of a line's 144 bytes in the DRAM array flip: codeword j in bits [288j+287:288j] (R373). -/
  | array (line : Nat) (pattern : BitVec 1152)
  /-- The coming transfer of a channel: the lanes that flip, beat by beat (R373, R374). -/
  | bus (station channel : Nat) (beats : List (BitVec 70))
  /-- From now on these lanes of a channel flip on every beat. -/
  | lanes (station channel : Nat) (lanes : BitVec 70)
  /-- Bits of a 64-bit word and its 8 check bits flip in an LLC slice, local store, slot or accumulator memory, by the
  word's number: a local physical address divided by 8, or its slot or accumulator key (R369). -/
  | word (key : Nat) (pattern : BitVec 72)
  /-- A bit of a tile's L1 copies of a line flips. -/
  | l1 (t line : Nat)
  /-- A bit of a register part flips. -/
  | part (t hw part : Nat)
deriving DecidableEq, Repr

/-- What the management port reads (R342). -/
inductive Query where
  | sensor (n : Node)
  | power
  | rowPwr (row : Nat)
  | laser (p : Nat)
  | health (p lane : Nat)
  | attest (nonce : List Byte)
deriving DecidableEq, Repr

/-- An input of the outside world: a request written to a window, bytes that the host puts into its memory at a link's
bus address, an 8-byte read of a window, another event (06 R192, 14 R342), or a physical fault (16 R369). -/
inductive Input where
  | request (sv : Nat) (priv : Bool) (r : BitVec 512)
  | host (link addr : Nat) (bytes : List Byte)
  | windowRead (sv off : Nat)
  /-- The peer of a port acknowledges the oldest flits (R423). -/
  | flitsAcked (p n : Nat)
  /-- A block's temperature sensor reads `temp` degrees Celsius from now on (R341, R364). -/
  | sensor (n : Node) (temp : Int)
  /-- A read on the management port (R342). -/
  | manage (q : Query)
  | event (e : Event)
  | flaw (f : Flaw)
deriving DecidableEq, Repr

/-! ## The module -/

/-- The clocks in which times are counted (R2). -/
inductive Clk where
  | tile
  | mesh
  | tick
deriving DecidableEq, Repr

/-- The module's state. -/
structure State where
  /-- TIME (R191). -/
  time     : W64
  /-- Cycle counts of the tile and mesh clocks, and the third of the cycle in which the next tick falls (R2). -/
  tcycle   : Nat
  mcycle   : Nat
  /-- Ticks of the time base since reset (R2). -/
  ticks    : Nat
  phase    : Nat
  /-- This module's number in the herd and the herd's members (R190, R317). -/
  module   : BitVec 5
  members  : BitVec 32
  snapTime : W64
  /-- DRAM and local stores by local physical address (R68). -/
  mem      : List Host.Cell
  /-- Full-empty bits, by the physical address of the word divided by 8 (R83). -/
  fe       : Tbl Bool
  /-- Slot bytes by (T * 16 + slot) * 2^17 + offset; accumulator words by ((T * 64 + n) * 64 + row) * 64 + col. -/
  slotMem  : List Host.Cell
  acc      : Tbl W32
  /-- Host memory, by link and bus address (R70). -/
  hostMem  : List Host.Cell
  /-- MSI-X vectors signalled, by link (R57). -/
  msix     : List (Nat × Nat)
  /-- Remap tables: PHYS_X of row * 64 + col where it differs from col + 1 (R14). -/
  remap    : Tbl Nat
  /-- The bucket table: the station of a bucket where it differs from the initial one (R79). -/
  buckets  : Tbl Nat
  move     : Option Move
  bcount   : Tbl Nat
  bmoved   : Tbl Nat
  epoch    : Nat
  lines    : Tbl (Option Line)
  /-- Lines owned by engines: line number to the line's bucket plus 1 (R104). -/
  owned    : Tbl Nat
  /-- Translated accesses of threads that have left for other modules, whose replies have not come (R76, R78). -/
  gone     : List Access
  inval    : Option (W64 × List Nat)
  invalQ   : List (Nat × W64)
  /-- Group-table entries (R151). -/
  groups   : Tbl (BitVec 256)
  /-- Device registers by address, where they differ from their reset values. -/
  regs     : Tbl W64
  /-- Slot release state by (band * 32 + band row) * 16 + slot (R92, R159), and fill numbers by group * 16 + slot (R156). -/
  released : Tbl Rel
  fillNo   : Tbl Nat
  /-- Frames behind another on their wavelength, with the tile they go to, in the order sent (R157). -/
  light    : List (Nat × Frame)
  tiles    : Tbl Tile
  stations : Tbl Station
  portSts  : Tbl PortSt
  /-- Routers by Y * 66 + X; 3000 + n for the reduction unit of station n, 4000 + p for port station p. -/
  routers  : Tbl Router
  services : Tbl Service
  launches : Tbl (Option Launch)
  regions  : Tbl (Option Region)
  bands    : Tbl (Option Band)
  nextId   : Nat
  /-- HANDLER offsets by RCB address (R348). -/
  handlers : Tbl (BitVec 32)
  removals : List Removal
  /-- Freeze images written; the bytes of their headers stand for these (R48). -/
  images   : List Image
  /-- Bits that stand wrong in the DRAM array, by line number (R373). -/
  arrErr   : Tbl (BitVec 1152)
  /-- Lanes that flip, beat by beat, in the coming transfers of a channel (station * 16 + channel), and those that flip on
  every beat (R374). -/
  busErr   : Tbl (List (List (BitVec 70)))
  laneErr  : Tbl (BitVec 70)
  /-- Words of LLC lines, local stores, slots and accumulators that fail their check: two bits wrong (R369). -/
  bad      : List Nat
  /-- Bits that stand wrong in these words and their check bits. -/
  flips    : Tbl (BitVec 72)
  /-- One-bit errors corrected in these words (R369). -/
  fixed    : Nat
  /-- What each block's temperature sensor reads, by the block's key, in degrees Celsius above 40 (R341, R364). -/
  temps    : Tbl Int
  /-- Rows that firmware drains, or has gated, for their temperature (R364). -/
  hot      : List Nat
  /-- Appeals that a tile position has made since power-up, plus 4 when its fence is permanent (R422). -/
  appeals  : Tbl Nat
  herdOut  : List (Nat × Msg)
  /-- Values that reads of the request windows have returned, by link (R192). -/
  pcieOut  : List (Nat × W64)
  /-- Logged entries of the management port: notices, losses and reports (R342). -/
  log      : List (Nat × W64)
  /-- What reads of the management port have returned (R342). -/
  mgmtOut  : List (Query × List Byte)
  flight   : List Event
  /-- Events due when a clock has reached a count (R2). -/
  timers   : List ((Clk × Nat) × Event)
  inputs   : List Input
  /-- The model's own: free-value counter, thread chosen by step, next tile of this cycle. -/
  free     : Nat
  cur      : Nat × Nat
  cursor   : Nat
deriving DecidableEq, Repr

/-- What a byte that memory does not list reads as (log 2). -/
def Memory.unlisted : Byte := 0

/-- The canonical form of memory: addresses rise strictly and no entry equals the unlisted byte. -/
def Memory.wf (m : List Host.Cell) : Bool := Table.ok Memory.unlisted m

/-- The module right after reset (R332; the registers without a reset value as INVENTORY.md lists them). The boot of
the service tiles is the first event (log 1). -/
def State.reset : State :=
  { time := 0, tcycle := 0, mcycle := 0, ticks := 0, phase := 0, module := 0, members := 1, snapTime := BitVec.allOnes 64, mem := [],
    fe := [], slotMem := [], acc := [], hostMem := [], msix := [], remap := [], buckets := [], move := none,
    bcount := [], bmoved := [], epoch := 0, lines := [], owned := [], gone := [], inval := none, invalQ := [], groups := [],
    regs := [], released := [], fillNo := [], light := [], tiles := [], stations := [], portSts := [], routers := [], services := [],
    launches := [], regions := [], bands := [], nextId := 0, handlers := [], removals := [], images := [], arrErr := [], busErr := [],
    laneErr := [], bad := [], flips := [], fixed := 0, temps := [], hot := [], appeals := [], herdOut := [], pcieOut := [], log := [], mgmtOut := [], flight := [], timers := [((.tile, 0), .moduleReset)], inputs := [],
    free := 0, cur := (0, 0), cursor := 0 }

end Sys2Proof.Machine
end

