-- ==== Sys2Proof/Machine/Ops.lean ====
section
/-! DEFINITION. The named operations over the state: tiles, domains, threads, registers, memory, messages, the mailbox,
retiring an instruction, taking a trap and returning from one. -/

namespace Sys2Proof.Machine

open Bits

/-! ## Tiles, domains, threads -/

def State.tile (s : State) (T : Nat) : Tile := Table.get Tile.reset s.tiles T
def State.setTile (s : State) (T : Nat) (t : Tile) : State := { s with tiles := Table.set Tile.reset s.tiles T t }
def State.modTile (s : State) (T : Nat) (f : Tile → Tile) : State := s.setTile T (f (s.tile T))

def State.thread (s : State) (T h : Nat) : Thread := Table.get Thread.reset (s.tile T).threads h
def State.setThread (s : State) (T h : Nat) (t : Thread) : State :=
  s.modTile T fun tl => { tl with threads := Table.set Thread.reset tl.threads h t }
def State.modThread (s : State) (T h : Nat) (f : Thread → Thread) : State := s.setThread T h (f (s.thread T h))

def State.dom (s : State) (T d : Nat) : Dom := Table.get Dom.reset (s.tile T).doms d
def State.setDom (s : State) (T d : Nat) (v : Dom) : State :=
  s.modTile T fun tl => { tl with doms := Table.set Dom.reset tl.doms d v }
def State.modDom (s : State) (T d : Nat) (f : Dom → Dom) : State := s.setDom T d (f (s.dom T d))

def State.slot (s : State) (T n : Nat) : Slot := Table.get Slot.reset (s.tile T).slots n
def State.setSlot (s : State) (T n : Nat) (v : Slot) : State :=
  s.modTile T fun tl => { tl with slots := Table.set Slot.reset tl.slots n v }
def State.bar (s : State) (T b : Nat) : Barrier := Table.get Barrier.reset (s.tile T).bars b
def State.setBar (s : State) (T b : Nat) (v : Barrier) : State :=
  s.modTile T fun tl => { tl with bars := Table.set Barrier.reset tl.bars b v }
def State.port (s : State) (T p : Nat) : SPort := Table.get SPort.reset (s.tile T).ports p
def State.setPort (s : State) (T p : Nat) (v : SPort) : State :=
  s.modTile T fun tl => { tl with ports := Table.set SPort.reset tl.ports p v }

def State.station (s : State) (n : Nat) : Station := Table.get Station.reset s.stations n
def State.setStation (s : State) (n : Nat) (v : Station) : State :=
  { s with stations := Table.set Station.reset s.stations n v }
def State.modStation (s : State) (n : Nat) (f : Station → Station) : State := s.setStation n (f (s.station n))
def State.portSt (s : State) (p : Nat) : PortSt := Table.get PortSt.reset s.portSts p
def State.setPortSt (s : State) (p : Nat) (v : PortSt) : State :=
  { s with portSts := Table.set PortSt.reset s.portSts p v }
def State.modPortSt (s : State) (p : Nat) (f : PortSt → PortSt) : State := s.setPortSt p (f (s.portSt p))
def State.router (s : State) (r : Nat) : Router := Table.get Router.reset s.routers r
def State.setRouter (s : State) (r : Nat) (v : Router) : State :=
  { s with routers := Table.set Router.reset s.routers r v }
def State.modRouter (s : State) (r : Nat) (f : Router → Router) : State := s.setRouter r (f (s.router r))
def State.service (s : State) (k : Nat) : Service := Table.get Service.reset s.services k
def State.setService (s : State) (k : Nat) (v : Service) : State :=
  { s with services := Table.set Service.reset s.services k v }
def State.modService (s : State) (k : Nat) (f : Service → Service) : State := s.setService k (f (s.service k))

def State.launchOf (s : State) (l : Nat) : Option Launch := Table.get none s.launches l
def State.setLaunch (s : State) (l : Nat) (v : Option Launch) : State :=
  { s with launches := Table.set none s.launches l v }
def State.regionOf (s : State) (r : Nat) : Option Region := Table.get none s.regions r
def State.setRegion (s : State) (r : Nat) (v : Option Region) : State :=
  { s with regions := Table.set none s.regions r v }
def State.bandOf (s : State) (b : Nat) : Option Band := Table.get none s.bands b
def State.setBand (s : State) (b : Nat) (v : Option Band) : State := { s with bands := Table.set none s.bands b v }
def State.modBand (s : State) (b : Nat) (f : Band → Band) : State := s.setBand b ((s.bandOf b).map f)

/-- The number of the domain to which a hardware thread is allotted (R20, R50); 4 when none. -/
def State.domNo (s : State) (T h : Nat) : Nat :=
  ((List.range 4).find? fun d =>
    let v := s.dom T d
    v.present && v.thrFirst ≤ h && h < v.thrFirst + v.thrCount).getD 4

/-- The issuing thread, its tile, number and domain. -/
def State.me (s : State) : Thread := s.thread s.cur.1 s.cur.2
def State.modMe (s : State) (f : Thread → Thread) : State := s.modThread s.cur.1 s.cur.2 f
def State.myDomNo (s : State) : Nat := s.domNo s.cur.1 s.cur.2
def State.myDom (s : State) : Dom := s.dom s.cur.1 s.myDomNo

/-- Takes the next free value of the manual's undefined results (log 11). -/
def State.bump (s : State) : State := { s with free := s.free + 1 }

/-! ## Sizes of the register files (R51, R197) -/

/-- Scalar registers of a thread in a THREAD_MODE; also the number of the first field value that names none. -/
def modeRegs (m : BitVec 2) : Nat := if m = 1 then 32 else if m = 2 then 128 else 64
def modeThreads (m : BitVec 2) : Nat := if m = 1 then 16 else if m = 2 then 4 else 8
def modeRows (m : BitVec 2) : Nat := if m = 1 then 4 else 8
def modeCols (m : BitVec 2) : Nat := if m = 2 then 8 else 4

def State.myMode (s : State) : BitVec 2 := (s.tile s.cur.1).mode

/-! ## Registers (R197, R198) -/

/-- x0 reads as zero (R198). -/
def Thread.rx (t : Thread) (r : Nat) : W64 := if r = 0 then 0 else Table.get 0 t.x r
/-- A write to x0 is discarded (R198); another register's part has a fresh check (R369). -/
def Thread.wx (t : Thread) (r : Nat) (v : W64) : Thread :=
  if r = 0 then t else { t with x := Table.set 0 t.x r v, parity := t.parity.filter fun k => k != r }
/-- p0 reads as true (R198). -/
def Thread.rp (t : Thread) (p : Nat) : Bool := p == 0 || t.p.getLsbD p
/-- A write to p0 is discarded (R198). -/
def Thread.wp (t : Thread) (p : Nat) (v : Bool) : Thread :=
  if p = 0 then t else { t with p := put t.p p 1 (if v then 1 else 0) }
/-- m0 reads as all ones (R198). -/
def Thread.rm (t : Thread) (m : Nat) : W64 := if m = 0 then BitVec.allOnes 64 else Table.get 0 t.m m
/-- A write to m0 is discarded (R198). -/
def Thread.wm (t : Thread) (m : Nat) (v : W64) : Thread := if m = 0 then t else { t with m := Table.set 0 t.m m v }
/-- A vector register by its number (R197). -/
def Thread.rv (t : Thread) (n : Nat) : BitVec 2048 := Table.get 0 t.v n
/-- A whole vector register is written: its parts have fresh checks (R369). -/
def Thread.wv (t : Thread) (n : Nat) (v : BitVec 2048) : Thread :=
  { t with v := Table.set 0 t.v n v, parity := t.parity.filter fun k => k / 32 != n + 2 }
/-- A vector register of which only some lanes are written: parts not written whole keep their checks (R369). -/
def Thread.wvLanes (t : Thread) (n : Nat) (v : BitVec 2048) (wrote : Nat → Bool) : Thread :=
  { t with v := Table.set 0 t.v n v
           parity := t.parity.filter fun k => k / 32 != n + 2 || !(wrote (2 * (k % 32)) && wrote (2 * (k % 32) + 1)) }

/-- The 256-byte vector register as 64 lanes of 32 bits, and back (R197). -/
def lanesOf (v : BitVec 2048) : List W32 := (List.range 64).map fun i => v.extractLsb' (32 * i) 32
def ofLanes (l : List W32) : BitVec 2048 :=
  BitVec.ofNat 2048 (ofBytes (l.flatMap fun w => toBytes 4 w.toNat))

def State.rx (s : State) (r : XReg) : W64 := s.me.rx r.toNat
def State.wx (s : State) (r : XReg) (v : W64) : State := s.modMe fun t => t.wx r.toNat v
def State.rp (s : State) (p : PReg) : Bool := s.me.rp p.toNat
def State.wp (s : State) (p : PReg) (v : Bool) : State := s.modMe fun t => t.wp p.toNat v

/-! ## Memory: bytes by local physical address (R68) -/

def Memory.get (m : List Host.Cell) (a : Nat) : Byte := Table.get Memory.unlisted m a
def Memory.set (m : List Host.Cell) (a : Nat) (v : Byte) : List Host.Cell := Table.set Memory.unlisted m a v
def Memory.read (m : List Host.Cell) (a n : Nat) : List Byte := (List.range n).map fun i => Memory.get m (a + i)
def Memory.write (m : List Host.Cell) (a : Nat) : List Byte → List Host.Cell
  | [] => m
  | b :: bs => Memory.write (Memory.set m a b) (a + 1) bs

/-- The byte at a local physical address. -/
def State.byte (s : State) (a : Nat) : Byte := Memory.get s.mem a
def State.readMem (s : State) (a n : Nat) : List Byte := Memory.read s.mem a n
def State.writeMem (s : State) (a : Nat) (b : List Byte) : State := { s with mem := Memory.write s.mem a b }

/-- The physical address of byte `off` of the local store of logical tile T (R68). -/
def lsAddr (T off : Nat) : Nat := 0x700000000000 + T * 0x1000000 + off
def State.lsRead (s : State) (T off n : Nat) : List Byte := s.readMem (lsAddr T off) n
def State.lsWrite (s : State) (T off : Nat) (b : List Byte) : State := s.writeMem (lsAddr T off) b

/-- The full-empty bit of a local-store word (R83). -/
def State.feBit (s : State) (T off : Nat) : Bool := Table.get false s.fe (lsAddr T off / 8)
def State.setFe (s : State) (T off : Nat) (v : Bool) : State :=
  { s with fe := Table.set false s.fe (lsAddr T off / 8) v }

/-- A range of local store cleared to zero with every full-empty bit empty (R83). -/
def State.lsClear (s : State) (T off n : Nat) : State :=
  let lo := lsAddr T off
  { s with mem := s.mem.filter fun c => !(lo ≤ c.1 && c.1 < lo + n)
           fe := s.fe.filter fun c => !(lo ≤ 8 * c.1 && 8 * c.1 < lo + n)
           bad := s.bad.filter fun w => !(lo ≤ 8 * w && 8 * w < lo + n)
           flips := Table.erase (fun w _ => lo ≤ 8 * w && 8 * w < lo + n) s.flips }

/-- Accumulator words and slot bytes (R296, R158). -/
def State.accAt (s : State) (T n row col : Nat) : W32 := Table.get 0 s.acc (((T * 64 + n) * 64 + row) * 64 + col)
def State.setAcc (s : State) (T n row col : Nat) (v : W32) : State :=
  { s with acc := Table.set 0 s.acc (((T * 64 + n) * 64 + row) * 64 + col) v }
def slotAddr (T n off : Nat) : Nat := (T * 16 + n) * 0x20000 + off

/-! ## Device registers -/

/-- The stored part of a device register; every register's own reset value is added by Registers.lean. -/
def State.regRaw (s : State) (a : Nat) : W64 := Table.get 0 s.regs a
def State.setRegRaw (s : State) (a : Nat) (v : W64) : State := { s with regs := Table.set 0 s.regs a v }

/-! ## Positions (R6, R7, R13, R18) -/

/-- PHYS_X of logical column `col` of a row (R14). -/
def State.physX (s : State) (row col : Nat) : Nat := Table.get (col + 1) s.remap (row * 64 + col)
/-- The one-byte remap entry of a logical column: SUBST and PHYS_X (R14). -/
def State.remapEntry (s : State) (row col : Nat) : Byte :=
  (if s.physX row col = col + 1 then 0#1 else 1#1) ++ BitVec.ofNat 7 (s.physX row col)
/-- The router of logical tile T. -/
def State.nodeOf (s : State) (T : Nat) : Node := .router (s.physX (T / 64) (T % 64)) (T / 64)
/-- The logical tile at a physical position, if an entry names it (R15, R17). -/
def State.logical (s : State) (x y : Nat) : Option Nat :=
  ((List.range 64).find? fun c => s.physX y c == x).map fun c => y * 64 + c
/-- The quadrant's service tile (R7). -/
def quadrant (x y : Nat) : Nat := (if y < 16 then 0 else 2) + (if x < 33 then 0 else 1)
/-- The row of a station (R6). -/
def stationRow (n : Nat) : Nat := n % 32
/-- The column of a port station's attachment router (R6). -/
def portCol (p : Nat) : Nat := 1 + 11 * (p % 24) / 4
def portRow (p : Nat) : Nat := if p < 24 then 0 else 31
/-- The service tile of a block (R7). -/
def quadrantOf : Node → Nat
  | .router x y => quadrant x y
  | .station n => quadrant (if n < 32 then 0 else 65) (stationRow n)
  | .port p => quadrant (portCol p) (portRow p)
  | .service k => k

/-! ## Events and messages -/

/-- Adds an event under way. -/
def State.post (s : State) (i : Event) : State := { s with flight := s.flight ++ [i] }
/-- The count of a clock (R2). -/
def State.clock (s : State) : Clk → Nat
  | .tile => s.tcycle
  | .mesh => s.mcycle
  | .tick => s.ticks

/-- Adds an event due in `n` mesh cycles. -/
def State.after (s : State) (n : Nat) (i : Event) : State := { s with timers := s.timers ++ [((.mesh, s.mcycle + n), i)] }
/-- Adds an event due in `n` tile cycles. -/
def State.afterTile (s : State) (n : Nat) (i : Event) : State := { s with timers := s.timers ++ [((.tile, s.tcycle + n), i)] }
/-- Adds an event due in `n` ticks of the time base. -/
def State.afterTicks (s : State) (n : Nat) (i : Event) : State := { s with timers := s.timers ++ [((.tick, s.ticks + n), i)] }

/-- Injects a message at its source (R140). -/
def State.send (s : State) (m : Msg) : State := s.post (.meshRoute m.src m)

/-- A message of type `typ` from a domain of a tile (R134). -/
def State.tileMsg (s : State) (T d : Nat) (typ : Nat) (dst : Node) (arg : Nat) (p : Payload) : Msg :=
  { typ := BitVec.ofNat 8 typ, pid := BitVec.ofNat 16 (s.dom T d).pid, src := s.nodeOf T, dst := dst,
    sdom := BitVec.ofNat 2 d, ordered := false, stream := 0, seq := 0, arg := BitVec.ofNat 32 arg, pay := p }

/-- A message of an edge block (R134). -/
def blockMsg (src dst : Node) (typ pid arg : Nat) (p : Payload) : Msg :=
  { typ := BitVec.ofNat 8 typ, pid := BitVec.ofNat 16 pid, src := src, dst := dst, sdom := 0, ordered := false,
    stream := 0, seq := 0, arg := BitVec.ofNat 32 arg, pay := p }

/-- SKIND, SX and SY of a block (R134). -/
def nodeKind : Node → Nat
  | .router _ _ => 0 | .station _ => 1 | .port _ => 2 | .service _ => 3
def nodeX : Node → Nat
  | .router x _ => x | .station n => n | .port p => p | .service k => k
def nodeY : Node → Nat
  | .router _ y => y | _ => 0

/-- A router's key: tiles, then the reduction units of stations and port stations. -/
def nodeKey : Node → Nat
  | .router x y => y * 66 + x | .station n => 3000 + n | .port p => 4000 + p | .service k => 5000 + k

/-! ## The mailbox (R176 to R178) -/

/-- A mailbox entry (R177). -/
def mboxEntry (mkind status tag skind sx sy sdom : Nat) (time d0 d1 : W64) : BitVec 256 :=
  d1 ++ d0 ++ time ++ BitVec.ofNat 16 tag ++ BitVec.ofNat 8 mkind ++ BitVec.ofNat 8 status ++ BitVec.ofNat 2 skind ++
    BitVec.ofNat 7 sx ++ BitVec.ofNat 5 sy ++ BitVec.ofNat 2 sdom ++ 0#16

/-- An entry matches a key: tag in [15:0], mask in [31:16] (R178, R262). -/
def mboxMatch (key : BitVec 32) (e : BitVec 256) : Bool :=
  (e.extractLsb' 48 16 ^^^ key.extractLsb' 0 16) &&& key.extractLsb' 16 16 == 0

/-- Writes an entry to x[d..d+3] (R262). -/
def Thread.wmsg (t : Thread) (d : Nat) (e : BitVec 256) : Thread :=
  (((t.wx d (e.extractLsb' 0 64)).wx (d + 1) (e.extractLsb' 64 64)).wx (d + 2) (e.extractLsb' 128 64)).wx (d + 3)
    (e.extractLsb' 192 64)

/-- The destination register of a waiting mailbox instruction. -/
def mboxDest : Option Instr → Nat
  | some (.await _ d _ _) => d.toNat
  | _ => 0

/-! ## Retiring (R54, R195) -/

/-- A thread's instruction retires: the pc moves on and the thread may issue when its pass has ended (R54). -/
def Thread.retire (t : Thread) (now : Nat) (pc : W64) : Thread :=
  { t with pc := pc, run := .ready, readyAt := Nat.max t.readyAt now, pend := none, got := [], bad := [],
           missed := false }

/-- The issuing thread's instruction has completed; the next is at `pc`, 8 tile cycles from now (R54). -/
def State.goto (s : State) (pc : W64) : State :=
  s.modMe fun t => ({ t with readyAt := s.tcycle + 8 } : Thread).retire s.tcycle pc

/-- The instruction has completed and pc advances by 8 (R195). -/
def State.advance (s : State) : State := s.goto (s.me.pc + 8)

/-- The issuing thread parks with its instruction (R54). -/
def State.park (s : State) (i : Instr) (w : Wait) : State :=
  s.modMe fun t => { t with run := .parked w s.tcycle, readyAt := s.tcycle + 8, pend := some i }

/-- A parked thread's instruction completes from outside (an arrival, a reply). -/
def State.finish (s : State) (T h : Nat) (f : Thread → Thread) : State :=
  s.modThread T h fun t => (f t).retire s.tcycle (t.pc + 8)

/-! ## Mailbox delivery -/

/-- Threads of a domain parked on `await` for a key that matches, the one parked longest first (R262). -/
def State.mboxWaiter (s : State) (T d : Nat) (e : BitVec 256) : Option Nat :=
  let dm := s.dom T d
  let cand := (List.range dm.thrCount).filterMap fun i =>
    match (s.thread T (dm.thrFirst + i)).run with
    | .parked (.mbox k) since => if mboxMatch k e then some (since, dm.thrFirst + i) else none
    | _ => none
  (cand.foldl (fun best c => match best with
    | none => some c
    | some b => if c.1 < b.1 then some c else some b) none).map (·.2)

/-- A message enters a partition (R176); none when the partition is full, whoever waits (R261). A waiting `await` that it
matches takes it from there (R262). -/
def State.enterMbox (s : State) (T d : Nat) (e : BitVec 256) : Option State :=
  if 16 ≤ (s.dom T d).mbox.length then none
  else match s.mboxWaiter T d e with
    | some h => some (s.finish T h fun t => t.wmsg (mboxDest t.pend) e)
    | none => some (s.modDom T d fun v => { v with mbox := v.mbox ++ [e] })

/-- A fault report, MKIND 0x05, in the issuing domain's partition (R344). When the partition is full the sender holds
it (R176). -/
def State.faultReport (s : State) (T d cause : Nat) (addr d1 : W64) (src : Node) : State :=
  let e := mboxEntry 5 cause (0xFF00 ||| cause) (nodeKind src) (nodeX src) (nodeY src)
    (match src with | .router _ _ => d | _ => 0) s.time addr d1
  match s.enterMbox T d e with
  | some s' => s'
  | none =>
    let m : Msg := { s.tileMsg T d 0x0C (s.nodeOf T) (0xFF00 ||| cause) (.done 5 cause addr d1) with src := src }
    (s.modDom T d fun v => { v with held := v.held ++ [⟨m, addr, s.mcycle⟩] }).after 64 (.mailboxRetry T d)

/-! ## Escalation and notices (R350 to R352) -/

/-- An escalation message from a thread to the service tile of its quadrant (R350): the code, the request of R351, VAL
and PC. -/
def State.escalate (s : State) (T d h code req : Nat) (val : W64) (pc : BitVec 32) : State :=
  let src := s.nodeOf T
  s.send (s.tileMsg T d 0x21 (.service (quadrantOf src)) code
    (.words val (BitVec.ofNat 2 req ++ BitVec.ofNat 12 T ++ BitVec.ofNat 2 d ++ BitVec.ofNat 4 h ++ 0#12 ++ pc)))

/-- A notice of a block that is not a thread, to the launch of the job `pid` (R344, R352, R371, R388). -/
def State.notice (s : State) (src : Node) (pid code : Nat) (val : W64) : State :=
  s.send (blockMsg src (.service (quadrantOf src)) 0x21 pid code (.words val 0))

/-! ## Taking a trap and returning from one (R343 to R347) -/

/-- TRAP_PC: the raising instruction's pc, or the next one for a software trap (R345). -/
def trapPcOf (cause : Nat) (pc : W64) : BitVec 32 := (if cause = 0x15 then pc + 8 else pc).setWidth 32

/-- Taking a trap: cause `c` with value `val`, raised by thread h of tile T (R346). The saved registers are written
and the pc goes to the handler; the thread is out of the rotation until `handlerEntry`, 8 tile cycles after the
raising instruction's pass. Without a handler, or with one in progress, the thread stops (R350). -/
def State.trap (s : State) (T h c : Nat) (val : W64) : State :=
  let t := s.thread T h
  let dm := s.dom T (s.domNo T h)
  let at_ := Nat.max t.readyAt s.tcycle + 8
  let t' : Thread := { t with readyAt := at_, pend := none, got := [], bad := [] }
  let tp := trapPcOf c t.pc
  let s' :=
    if dm.trapBase = 0 ∨ t.cause ≠ 0 then
      (s.setThread T h { t' with run := .entering (if dm.trapBase = 0 then 0x32 else 0x31), missed := false }).escalate
        T (s.domNo T h) h (if dm.trapBase = 0 then 0x32 else 0x31) (if c = 0x13 then 2 else 1) val tp
    else
      s.setThread T h { t' with run := .entering 0, pprv := t.priv, cause := BitVec.ofNat 6 c, trapPc := tp,
                                trapVal := val, priv := if t.priv = 0 then 1 else t.priv,
                                pc := dm.trapBase.setWidth 64, missed := false }
  { s' with timers := s'.timers ++ [((.tile, at_), .handlerEntry T h)] }

/-- The issuing instruction raises a cause: it completes its pass with no effect (R346). -/
def State.raise (s : State) (c : Nat) (val : W64) : State :=
  (s.modMe fun t => { t with readyAt := s.tcycle + 8 }).trap s.cur.1 s.cur.2 c val

/-- `eret`: PRIV and pc are restored and CAUSE is cleared (R314, R347). -/
def State.trapReturn (s : State) : State :=
  (s.modMe fun t => { t with priv := t.pprv, cause := 0 }).goto (s.me.trapPc.setWidth 64)

end Sys2Proof.Machine
end

