-- ==== Sys2Proof/Machine/Reads.lean ====
section
/-! DEFINITION. The parts of the register files that an instruction reads (R369, R371). -/

namespace Sys2Proof.Machine

/-- The parts of h rows by w columns of vector registers from (row, col) on, in a grid of `cols` columns: 32 parts of 64
bits each, numbered from 64 on (R197, R369). -/
def vregParts (cols row col h w : Nat) : List Nat :=
  (List.range h).flatMap fun r => (List.range w).flatMap fun c =>
    (List.range 32).map fun k => 64 + 32 * ((row + r) * cols + col + c) + k

/-- The parts of an operand block of the shape of block d (R206). -/
def orgParts (cols : Nat) (d : VBlock) (o : VOrg) : List Nat :=
  vregParts cols o.row.toNat o.col.toNat (d.hM1.toNat + 1) (d.wM1.toNat + 1)

def vbParts (cols : Nat) (d : VBlock) : VB → List Nat
  | .blk o => orgParts cols d o
  | .bcast x => [x.toNat]

/-- The parts of a single-register B operand (R277). -/
def vb1Parts (cols : Nat) : VB → List Nat
  | .blk o => vregParts cols o.row.toNat o.col.toNat 1 1
  | .bcast x => [x.toNat]

/-- Registers that `vst` stores (R259). -/
def sizeCount : Size → Nat
  | .b1 => 1 | .b2 => 2 | .b4 => 4 | .b8 => 8

/-- The register parts that an instruction reads, in a grid of `cols` columns: its scalar and vector source operands, and
a destination that is a source too (R369). -/
def readParts (cols : Nat) (i : Instr) : List Nat :=
  match i with
  | .jr _ _ a => [a.toNat]
  | .loop _ d _ => [d.toNat]
  | .waitc _ _ a _ => [a.toNat]
  | .add _ _ _ _ a b => [a.toNat, b.toNat]
  | .sub _ _ _ _ a b => [a.toNat, b.toNat]
  | .mul _ _ _ _ a b => [a.toNat, b.toNat]
  | .mulh _ _ _ a b => [a.toNat, b.toNat]
  | .mulhw _ _ _ a b => [a.toNat, b.toNat]
  | .div _ _ _ a b => [a.toNat, b.toNat]
  | .divw _ _ _ a b => [a.toNat, b.toNat]
  | .rem _ _ _ a b => [a.toNat, b.toNat]
  | .remw _ _ _ a b => [a.toNat, b.toNat]
  | .and _ _ _ a b => [a.toNat, b.toNat]
  | .or _ _ _ a b => [a.toNat, b.toNat]
  | .xor _ _ _ a b => [a.toNat, b.toNat]
  | .andn _ _ _ a b => [a.toNat, b.toNat]
  | .orn _ _ _ a b => [a.toNat, b.toNat]
  | .shl _ _ _ a b => [a.toNat, b.toNat]
  | .shr _ _ _ a b => [a.toNat, b.toNat]
  | .sra _ _ _ a b => [a.toNat, b.toNat]
  | .rol _ _ _ a b => [a.toNat, b.toNat]
  | .min _ _ _ a b => [a.toNat, b.toNat]
  | .max _ _ _ a b => [a.toNat, b.toNat]
  | .minw _ _ _ a b => [a.toNat, b.toNat]
  | .maxw _ _ _ a b => [a.toNat, b.toNat]
  | .clz _ _ _ a => [a.toNat]
  | .ctz _ _ _ a => [a.toNat]
  | .popc _ _ _ a => [a.toNat]
  | .brev _ _ _ a => [a.toNat]
  | .bswap _ _ _ a => [a.toNat]
  | .bfx _ _ _ a b c => [a.toNat, b.toNat, c.toNat]
  | .bfxw _ _ _ a b c => [a.toNat, b.toNat, c.toNat]
  | .bfi _ _ d a b c => [d.toNat, a.toNat, b.toNat, c.toNat]
  | .sel _ _ _ _ a b => [a.toNat, b.toNat]
  | .abs _ _ _ _ a => [a.toNat]
  | .neg _ _ _ _ a => [a.toNat]
  | .addi _ _ a _ => [a.toNat]
  | .andi _ _ a _ => [a.toNat]
  | .ori _ _ a _ => [a.toNat]
  | .xori _ _ a _ => [a.toNat]
  | .shli _ _ a _ => [a.toNat]
  | .shri _ _ a _ => [a.toNat]
  | .srai _ _ a _ => [a.toNat]
  | .muli _ _ a _ => [a.toNat]
  | .movhi _ d _ => [d.toNat]
  | .cmp _ _ _ a b _ => [a.toNat, b.toNat]
  | .cmpi _ _ a _ _ => [a.toNat]
  | .fcmp _ _ _ a b _ => [a.toNat, b.toNat]
  | .pput _ a b => [a.toNat, b.toNat]
  | .lea _ _ m => [m.base.toNat, m.idx.toNat]
  | .spctest _ _ _ a => [a.toNat]
  | .spcast _ _ _ a _ => [a.toNat]
  | .mkshr _ _ a b => [a.toNat, b.toNat]
  | .fadd _ _ _ _ _ a b => [a.toNat, b.toNat]
  | .fsub _ _ _ _ _ a b => [a.toNat, b.toNat]
  | .fmul _ _ _ _ _ a b => [a.toNat, b.toNat]
  | .ffma _ _ _ _ _ a b c => [a.toNat, b.toNat, c.toNat]
  | .ffms _ _ _ _ _ a b c => [a.toNat, b.toNat, c.toNat]
  | .fdiv _ _ _ _ _ a b => [a.toNat, b.toNat]
  | .fsqrt _ _ _ _ _ a => [a.toNat]
  | .fmin _ _ _ a b => [a.toNat, b.toNat]
  | .fmax _ _ _ a b => [a.toNat, b.toNat]
  | .fabs _ _ _ a => [a.toNat]
  | .fneg _ _ _ a => [a.toNat]
  | .fsgn _ _ _ a b => [a.toNat, b.toNat]
  | .fcvt _ _ _ _ _ _ a => [a.toNat]
  | .fclass _ _ _ a => [a.toNat]
  | .frnd _ _ _ _ a => [a.toNat]
  | .ld _ _ _ _ _ m => [m.base.toNat, m.idx.toNat]
  | .st _ _ _ d m => [d.toNat, m.base.toNat, m.idx.toNat]
  | .stWc _ _ d m => [d.toNat, m.base.toNat, m.idx.toNat]
  | .ldfe _ _ _ _ m => [m.base.toNat, m.idx.toNat]
  | .stfe _ _ _ d m => [d.toNat, m.base.toNat, m.idx.toNat]
  | .fetest _ _ _ m => [m.base.toNat, m.idx.toNat]
  | .feset _ _ _ m => [m.base.toNat, m.idx.toNat]
  | .pf _ _ m => [m.base.toNat, m.idx.toNat]
  | .amoadd _ _ _ _ _ d m => [d.toNat, m.base.toNat, m.idx.toNat]
  | .amomin _ _ _ _ _ d m => [d.toNat, m.base.toNat, m.idx.toNat]
  | .amomax _ _ _ _ _ d m => [d.toNat, m.base.toNat, m.idx.toNat]
  | .amominw _ _ _ _ _ d m => [d.toNat, m.base.toNat, m.idx.toNat]
  | .amomaxw _ _ _ _ _ d m => [d.toNat, m.base.toNat, m.idx.toNat]
  | .amoand _ _ _ _ _ d m => [d.toNat, m.base.toNat, m.idx.toNat]
  | .amoor _ _ _ _ _ d m => [d.toNat, m.base.toNat, m.idx.toNat]
  | .amoxor _ _ _ _ _ d m => [d.toNat, m.base.toNat, m.idx.toNat]
  | .amoswap _ _ _ _ _ d m => [d.toNat, m.base.toNat, m.idx.toNat]
  | .amofadd _ _ _ d m => [d.toNat, m.base.toNat, m.idx.toNat]
  | .amocas _ _ _ _ d m => [d.toNat, m.base.toNat, m.idx.toNat]
  | .vld _ _ _ _ m => [m.base.toNat, m.idx.toNat]
  | .vst _ n _ d m => [m.base.toNat, m.idx.toNat] ++ vregParts cols d.row.toNat d.col.toNat 1 (sizeCount n)
  | .vldg _ _ _ _ _ _ base vi _ => [base.toNat] ++ vregParts cols vi.row.toNat vi.col.toNat 1 (1)
  | .vsts _ _ _ _ d base vi _ => [base.toNat] ++ vregParts cols d.row.toNat d.col.toNat 1 (1) ++ vregParts cols vi.row.toNat vi.col.toNat 1 (1)
  | .vldb _ _ _ _ _ _ m => [m.base.toNat, m.idx.toNat]
  | .vldt _ _ _ _ _ _ m => [m.base.toNat, m.idx.toNat]
  | .vstt _ _ _ _ d m => [m.base.toNat, m.idx.toNat] ++ vregParts cols d.row.toNat d.col.toNat 1 (1)
  | .vadd _ _ _ _ d a b _ => orgParts cols d a ++ vbParts cols d b
  | .vsub _ _ _ _ d a b _ => orgParts cols d a ++ vbParts cols d b
  | .vmul _ _ _ _ d a b _ => orgParts cols d a ++ vbParts cols d b
  | .vfma _ _ _ _ d a b _ => orgParts cols d ⟨d.row, d.col⟩ ++ orgParts cols d a ++ vbParts cols d b
  | .vfms _ _ _ _ d a b _ => orgParts cols d ⟨d.row, d.col⟩ ++ orgParts cols d a ++ vbParts cols d b
  | .vmin _ _ d a b _ => orgParts cols d a ++ vbParts cols d b
  | .vmax _ _ d a b _ => orgParts cols d a ++ vbParts cols d b
  | .vabs _ _ _ d a _ => orgParts cols d a
  | .vneg _ _ _ d a _ => orgParts cols d a
  | .vand _ d a b _ => orgParts cols d a ++ vbParts cols d b
  | .vor _ d a b _ => orgParts cols d a ++ vbParts cols d b
  | .vxor _ d a b _ => orgParts cols d a ++ vbParts cols d b
  | .vandn _ d a b _ => orgParts cols d a ++ vbParts cols d b
  | .vshl _ _ d a b _ => orgParts cols d a ++ vbParts cols d b
  | .vshr _ _ d a b _ => orgParts cols d a ++ vbParts cols d b
  | .vsra _ _ d a b _ => orgParts cols d a ++ vbParts cols d b
  | .vcmp _ _ _ _ a b _ => vregParts cols a.row.toNat a.col.toNat 1 1 ++ vb1Parts cols b
  | .vsel _ d a b _ => orgParts cols d a ++ vbParts cols d b
  | .vmov _ d a _ => orgParts cols d a
  | .vbcast _ _ x _ => [x.toNat]
  | .vbcastLane _ d a _ _ => orgParts cols d a
  | .vcvt _ _ _ _ _ d a _ => orgParts cols d a
  | .vquant _ _ _ d a => orgParts cols d a
  | .vdeq _ _ _ _ d a _ => orgParts cols d a
  | .vexp2 _ _ d a _ => orgParts cols d a
  | .vlog2 _ _ d a _ => orgParts cols d a
  | .vrcp _ _ d a _ => orgParts cols d a
  | .vrsqrt _ _ d a _ => orgParts cols d a
  | .vtanh _ _ d a _ => orgParts cols d a
  | .vsig _ _ d a _ => orgParts cols d a
  | .vredsum _ _ _ _ d a _ => orgParts cols d a
  | .vredmax _ _ d a _ => orgParts cols d a
  | .vredmin _ _ d a _ => orgParts cols d a
  | .vscan _ _ _ _ d a _ => orgParts cols d a
  | .vperm _ d a b _ => orgParts cols d a ++ vbParts cols d b
  | .vrot _ d a x _ => [x.toNat] ++ orgParts cols d a
  | .vshuf _ d a b _ _ => orgParts cols d a ++ orgParts cols d b
  | .vcompress _ d a _ => orgParts cols d a
  | .vcompressMag _ d a _ _ => orgParts cols d a
  | .vcompressTop _ _ d a _ _ => orgParts cols d a
  | .vargmax _ _ d a _ => orgParts cols d a
  | .vrescale _ d a b => orgParts cols d a ++ orgParts cols d b
  | .mstep _ _ _ r _ => [r.toNat]
  | .mstepSort _ _ o r _ => [o.toNat, r.toNat]
  | .mstepTopk _ _ o r _ => [o.toNat, r.toNat]
  | .mload _ _ r _ => [r.toNat]
  | .mdrain _ _ _ _ r s _ => [r.toNat, s.toNat]
  | .mdrainv _ _ _ _ _ a _ => [a.toNat]
  | .msort _ _ _ o k _ => [o.toNat, k.toNat]
  | .mtopk _ _ _ _ o k _ => [o.toNat, k.toNat]
  | .mcfg _ r => [r.toNat]
  | .xfer _ r a => [r.toNat, a.toNat]
  | .sbind _ _ r a => [r.toNat, a.toNat]
  | .post _ a b c _ => [a.toNat, b.toNat, c.toNat]
  | .take _ _ a _ => [a.toNat]
  | .peek _ _ a _ => [a.toNat]
  | .await _ _ a _ => [a.toNat]
  | .barexp _ a _ _ => [a.toNat]
  | .bararr _ a _ => [a.toNat]
  | .redput _ r x => [r.toNat, x.toNat]
  | .coll _ r e => [r.toNat, e.toNat]
  | .mark _ a _ => [a.toNat]
  | .csrw _ _ a _ => [a.toNat]
  | .csrs _ _ a _ => [a.toNat]
  | .csrc _ _ a _ => [a.toNat]
  | .repart _ _ a _ => [a.toNat]
  | .ctxsave _ a _ => [a.toNat]
  | .ctxload _ a _ => [a.toNat]
  | .slotw _ _ a _ => [a.toNat]
  | .jkill _ _ a => [a.toNat]
  | .snap _ _ a _ => [a.toNat]
  | _ => []

end Sys2Proof.Machine
end

