-- ==== Sys2Proof/Machine/Operands.lean ====
section
/-! DEFINITION. Issuing an instruction: the checks that every instruction makes first (R354), the guard (R209, R210),
the code-range check, and the operand forms: integer types, addresses and the windows they select (R61 to R67). -/

namespace Sys2Proof.Machine

open Bits

/-! ## The common checks -/

/-- The guard holds (R209, R210). -/
def State.guardHolds (s : State) (g : Guard) : Bool := s.rp g.pred != g.inv

/-- Every scalar register field names a register of the thread (R199, R212). -/
def State.regsOk (s : State) (rs : List XReg) : Bool := rs.all fun r => r.toNat < modeRegs s.myMode

/-- A vector register lies in the thread's grid (R197, R199). -/
def State.vregOk (s : State) (v : VReg) : Bool := v.row.toNat < modeRows s.myMode && v.col.toNat < modeCols s.myMode

/-- The number of a vector register (R197). -/
def State.vnum (s : State) (row col : Nat) : Nat := row * modeCols s.myMode + col

/-- A block of height h and width w at (row, col) lies in the grid (R206). -/
def State.blockOk (s : State) (row col h w : Nat) : Bool :=
  row + h ≤ modeRows s.myMode && col + w ≤ modeCols s.myMode

/-- The instruction reads a register part that fails its parity (R369). -/
def State.parityHit (s : State) (i : Instr) : Bool :=
  !s.me.parity.isEmpty && (readParts (modeCols s.myMode) i).any s.me.parity.contains

/-- Issues a thread instruction: unaccepted register fields, blocks outside the grid and privilege are checked whether
or not the guard holds; a false guard advances the pc; otherwise `body` runs (R210, R354). A register part that fails
its parity gives data lost at the instruction that reads it (R369, R371). -/
def State.issue (i : Instr) (g : Guard) (regs : List XReg) (grid : Bool) (priv : Nat) (body : State → State)
    (s : State) : State :=
  if !s.regsOk regs then s.raise 0x03 (encode i)
  else if !grid then s.raise 0x0D (encode i)
  else if s.me.priv.toNat < priv then s.raise 0x04 (encode i)
  else if !s.guardHolds g then s.advance
  else if s.parityHit i then s.raise 0x13 s.me.pc
  else body s

/-- The next pc of an instruction that does not transfer control lies in the code image (R354). -/
def State.nextOk (s : State) : Bool := (s.me.pc + 8).toNat < s.myDom.codeSize

/-- The code-range check and then the effect and the next pc: the body of an instruction that has no other cause. -/
def State.complete (s : State) (f : State → State) : State :=
  if s.nextOk then (f s).advance else s.raise 0x17 (s.me.pc + 8)

/-- The code-range check before an effect that retires on its own terms. -/
def State.ranged (s : State) (f : State → State) : State :=
  if s.nextOk then f s else s.raise 0x17 (s.me.pc + 8)

/-- A thread instruction that only writes registers: issue it, check the code range, write, advance. -/
def regInstr (i : Instr) (g : Guard) (regs : List XReg) (f : State → State) (s : State) :
    Host.Outcome State Fault Refusal :=
  .next (s.issue i g regs true 0 fun s => s.complete f)

/-! ## Integer types (R204, R224) -/

def intWidth : IntTy → Nat
  | .i8 | .w8 => 8 | .i16 | .w16 => 16 | .i32 | .w32 => 32 | .i64 | .w64 => 64

def intSigned : IntTy → Bool
  | .i8 | .i16 | .i32 | .i64 => true
  | .w8 | .w16 | .w32 | .w64 => false

/-- The data operand of a type: the low n bits (R224). -/
def dataOf (t : IntTy) (x : W64) : Nat := x.toNat % 2 ^ intWidth t

/-- A number read by its sign at a width. -/
def sOf (n v : Nat) : Int := signed n v

/-- The result of a type, extended to 64 bits by its signedness (R224). -/
def extend (t : IntTy) (res : Nat) : W64 :=
  if intSigned t then BitVec.ofInt 64 (signed (intWidth t) res) else BitVec.ofNat 64 (res % 2 ^ intWidth t)

/-- An exact result as n bits, clamped by `.sat` or modulo 2^n (R225). -/
def narrow (t : IntTy) (sat : Bool) (v : Int) : Nat :=
  let n := intWidth t
  if sat then
    let lo : Int := if intSigned t then -(2 ^ (n - 1) : Nat) else 0
    let hi : Int := if intSigned t then (2 ^ (n - 1) : Nat) - 1 else (2 ^ n : Nat) - 1
    wrap n (max lo (min hi v))
  else wrap n v

/-- A data operand read by the type's signedness (R225). -/
def valueOf (t : IntTy) (x : W64) : Int := if intSigned t then signed (intWidth t) (dataOf t x) else (dataOf t x : Int)

/-! ## Addresses (R61, R207) -/

/-- The effective address of an F-M word: base + index + signed offset (R207). -/
def State.ea (s : State) (m : MAddr) : W64 := s.rx m.base + s.rx m.idx + m.off.signExtend 64

/-- The windows of R61; `none` for an address that selects no window. -/
inductive Window where
  | global | priv | loc | shr | saddle | dev | none
deriving DecidableEq, Repr

def windowOf (a : W64) : Window :=
  match fld a 56 8 with
  | 0x00 => if bit a 55 then .none else .global
  | 0xE0 => .priv
  | 0xE1 => .loc
  | 0xE2 => .shr
  | 0xE3 => .saddle
  | 0xFF => .dev
  | _ => .none

/-- Byte offset in a local-store window, tile field of a local address, fabric-relative tile of a shared one,
physical address of a device address (R61). -/
def offOf (a : W64) : Nat := fld a 0 24
def tileOf (a : W64) : Nat := fld a 44 12
def fabOf (a : W64) : Nat := fld a 36 12
def saddleOff (a : W64) : Nat := fld a 0 12
def physOf (a : W64) : Nat := fld a 0 52

/-! ## Fields of the stage record in force (R31) -/

def Dom.privBase (d : Dom) : Nat := fld d.srec 256 24
def Dom.privSize (d : Dom) : Nat := fld d.srec 280 24
def Dom.saddleSize (d : Dom) : Nat := fld d.srec 40 13
def Dom.nThreads (d : Dom) : Nat := fld d.srec 0 5
def Dom.spCarry (d : Dom) : Nat := fld d.srec 53 8

/-- Local-store offsets of the saddle buffers, the code area and the commit buffer (R33). -/
def Dom.sba (d : Dom) : Nat := d.lsBase + d.lsSize - 0x2000
def Dom.sbbOff (d : Dom) : Nat := d.lsBase + d.lsSize - 0x1000
def Dom.saddleActive (d : Dom) : Nat := if d.sbb then d.sbbOff else d.sba
def Dom.saddleIdle (d : Dom) : Nat := if d.sbb then d.sba else d.sbbOff
def Dom.codeBase (d : Dom) : Nat := d.sba - d.codeSize
def Dom.commitBase (d : Dom) : Nat := d.codeBase - d.commitKib * 1024

/-- The offset lies in the domain's local-store allotment (R64, R65). -/
def Dom.holds (d : Dom) (off size : Nat) : Bool := d.lsBase ≤ off && off + size ≤ d.lsBase + d.lsSize

/-- The private area of stage thread i starts at this local-store offset (R63). -/
def Dom.privAt (d : Dom) (i : Nat) : Nat := d.privBase + i * d.privSize

/-- F lies in the fabric, and the logical tile it names; the fabric-relative number of a tile (R26, R239). -/
def Dom.inFabric (d : Dom) (f : Nat) : Bool := f / 64 < d.fheight && f % 64 < d.fwidth
def Dom.tileOfF (d : Dom) (f : Nat) : Nat := (d.frow0 + f / 64) * 64 + d.fcol0 + f % 64
def Dom.fOfTile (d : Dom) (t : Nat) : Nat := (t / 64 - d.frow0) * 64 + (t % 64 - d.fcol0)
def Dom.tileInFabric (d : Dom) (t : Nat) : Bool :=
  d.frow0 ≤ t / 64 && t / 64 < d.frow0 + d.fheight && d.fcol0 ≤ t % 64 && t % 64 < d.fcol0 + d.fwidth

/-! ## The physical map (R68) -/

/-- The kind of location that a local physical address reaches. -/
inductive Place where
  | dram (a : Nat)
  | store (t off : Nat)
  | host (k a : Nat)
  | regs (a : Nat)
  | none
deriving DecidableEq, Repr

def placeOf (pa : Nat) : Place :=
  let a := pa % 2 ^ 47
  if a < 0x030000000000 then .dram a
  else if 0x700000000000 ≤ a && a < 0x700800000000 then
    let o := a - 0x700000000000
    if o % 0x1000000 < 0xC00000 then .store (o / 0x1000000) (o % 0x1000000) else .none
  else if 0x780000000000 ≤ a && a < 0x7C0000000000 then
    .host ((a - 0x780000000000) / 0x10000000000) ((a - 0x780000000000) % 0x10000000000)
  else if 0x7F0000000000 ≤ a then .regs a
  else .none

/-- The module number in a physical address (R68). -/
def moduleOf (pa : Nat) : Nat := pa / 2 ^ 47 % 32

/-- The stack of a DRAM address (R69). -/
def stackOf (a : Nat) : Nat :=
  let g := a / 4096
  (g % 64) ^^^ (g / 64 % 64) ^^^ (g / 4096 % 64) ^^^ (g / 262144 % 64) ^^^ (g / 16777216 % 64)

/-- The address within the stack (R69). -/
def stackAddr (a : Nat) : Nat := a / 4096 / 64 * 4096 + a % 4096

end Sys2Proof.Machine
end

