-- ==== Sys2Proof/Machine/Address.lean ====
section
/-! DEFINITION. Building, testing and converting generic addresses (R237 to R240). -/

namespace Sys2Proof.Machine

open Bits

def execLea (g : Guard) (d : XReg) (m : MAddr) (s : State) :=
  regInstr (.lea g d m) g [d, m.base, m.idx] (fun s => s.wx d (s.ea m)) s

/-- The window code and the reachability of an address (R238). -/
def State.classify (s : State) (a : W64) : Nat × Bool :=
  let d := s.myDom
  match windowOf a with
  | .global => (0, true)
  | .priv => (1, offOf a < d.privSize)
  | .loc => (2, tileOf a == s.cur.1 && d.holds (offOf a) 1)
  | .shr => (3, d.inFabric (fabOf a) && offOf a < 0xC00000)
  | .saddle => (4, saddleOff a < d.saddleSize)
  | .dev => (5, s.me.priv.toNat ≥ 1)
  | .none => (7, false)

def execSpctest (g : Guard) (d : XReg) (p : PReg) (a : XReg) (s : State) :=
  regInstr (.spctest g d p a) g [d, a] (fun s =>
    let r := s.classify (s.rx a)
    (s.wx d (BitVec.ofNat 64 r.1)).wp p r.2) s

/-- The local equivalent of an address: tile and local-store offset. A shared address gives the tile that its F names, as the
table of R239 says; that R64 speaks of the issuing tile is read of private addresses (R239; log 153). -/
def State.localOf (s : State) (a : W64) : Option (Nat × Nat) :=
  let d := s.myDom
  match windowOf a with
  | .priv => some (s.cur.1, d.privAt s.me.idx + offOf a)
  | .loc => some (tileOf a, offOf a)
  | .shr => if d.inFabric (fabOf a) then some (d.tileOfF (fabOf a), offOf a) else none
  | .saddle => some (s.cur.1, d.saddleActive + saddleOff a)
  | _ => none

/-- A local equivalent written in the target window (R239). -/
def State.castTo (s : State) (t : CastTo) (l : Nat × Nat) : Option W64 :=
  let d := s.myDom
  let base := d.privAt s.me.idx
  match t with
  | .priv =>
    if l.1 = s.cur.1 ∧ base ≤ l.2 ∧ l.2 < base + d.privSize then
      some (BitVec.ofNat 64 (0xE0 * 2 ^ 56 + (l.2 - base) % 2 ^ 24)) else none
  | .loc => some (BitVec.ofNat 64 (0xE1 * 2 ^ 56 + l.1 % 2 ^ 12 * 2 ^ 44 + l.2 % 2 ^ 24))
  | .shr =>
    if d.tileInFabric l.1 then
      some (BitVec.ofNat 64 (0xE2 * 2 ^ 56 + d.fOfTile l.1 % 2 ^ 12 * 2 ^ 36 + l.2 % 2 ^ 24)) else none
  | .dev => some (BitVec.ofNat 64 (0xFF * 2 ^ 56 + s.module.toNat * 2 ^ 47 + lsAddr l.1 l.2 % 2 ^ 47))

/-- A conversion that does not succeed gives 0 and false (R239). -/
def execSpcast (g : Guard) (d : XReg) (p : PReg) (a : XReg) (t : CastTo) (s : State) :=
  regInstr (.spcast g d p a t) g [d, a] (fun s =>
    match (s.localOf (s.rx a)).bind (s.castTo t) with
    | some v => (s.wx d v).wp p true
    | none => (s.wx d 0).wp p false) s

def execMkshr (g : Guard) (d a b : XReg) (s : State) :=
  regInstr (.mkshr g d a b) g [d, a, b] (fun s =>
    s.wx d (0xE2#8 ++ 0#8 ++ (s.rx a).extractLsb' 0 12 ++ 0#12 ++ (s.rx b).extractLsb' 0 24)) s

end Sys2Proof.Machine
end

