-- ==== Sys2Proof/Machine/Flags.lean ====
section
/-! DEFINITION. Conditions: the predicate that a compare writes (R233, R234). -/

namespace Sys2Proof.Machine

open Bits

/-- The condition of `cmp` and `cmpi` on two values of n bits (R233). -/
def intCond (n : Nat) (c : Cond) (a b : Nat) : Bool :=
  match c with
  | .eq => a == b
  | .ne => a != b
  | .lt => signed n a < signed n b
  | .ge => !(signed n a < signed n b)
  | .ltw => a < b
  | .gew => !(a < b)
  | .tst => a &&& b != 0
  | .ntst => a &&& b == 0

/-- The condition of `fcmp` and of `vcmp` on floats: `ord` says whether A is below, equal to or above B, none when
unordered (R234). -/
def floatCond (c : FCond) (o : Option Ordering) : Bool :=
  match c with
  | .eq => o == some .eq
  | .ne => o != some .eq
  | .lt => o == some .lt
  | .le => o == some .lt || o == some .eq
  | .gt => o == some .gt
  | .ge => o == some .gt || o == some .eq
  | .un => o == none
  | .ord => o != none

end Sys2Proof.Machine
end

