-- ==== Sys2Proof/Machine/Alu.lean ====
section
/-! DEFINITION. The integer register ALU (R224 to R230). -/

namespace Sys2Proof.Machine

open Bits

/-! ## Values -/

/-- Quotient and remainder of R227: signed or unsigned, with the results for a zero divisor and the overflowing
quotient. -/
def divRem (n : Nat) (sgn : Bool) (a b : Nat) : Nat × Nat :=
  if b = 0 then (2 ^ n - 1, a)
  else if sgn then
    if signed n a = -(2 ^ (n - 1) : Nat) ∧ signed n b = -1 then (a, 0)
    else (wrap n ((signed n a).tdiv (signed n b)), wrap n ((signed n a).tmod (signed n b)))
  else (a / b, a % b)

def shlOf (n a k : Nat) : Nat := a <<< (k % n) % 2 ^ n
def shrOf (n a k : Nat) : Nat := a >>> (k % n)
def sraOf (n a k : Nat) : Nat := wrap n (signed n a / (2 ^ (k % n) : Nat))
def rolOf (n a k : Nat) : Nat := (a <<< (k % n) ||| a >>> (n - k % n)) % 2 ^ n

/-- Leading and trailing zero bits, one bits, the bits and the bytes reversed (R228). -/
def clzOf (n a : Nat) : Nat := if a = 0 then n else n - 1 - Nat.log2 a
def ctzOf (n a : Nat) : Nat := ((List.range n).find? fun i => a.testBit i).getD n
def popcOf (n a : Nat) : Nat := ((List.range n).filter fun i => a.testBit i).length
def brevOf (n a : Nat) : Nat := (List.range n).foldl (fun r i => 2 * r + if a.testBit i then 1 else 0) 0
def bswapOf (n a : Nat) : Nat := ofBytes (toBytes (n / 8) a).reverse

/-- The bits of a field that lie in the value (R229). -/
def fieldLen (n pos len : Nat) : Nat := if pos ≥ n then 0 else min (min len n) (n - pos)

def bfxOf (n : Nat) (sgn : Bool) (a pos len : Nat) : Nat :=
  let ln := fieldLen n pos len
  let f := a >>> pos % 2 ^ ln
  if ln = 0 then 0 else if sgn then wrap n (signed ln f) else f

def bfiOf (n d a pos len : Nat) : Nat :=
  let ln := fieldLen n pos len
  if ln = 0 then d
  else d - (d >>> pos % 2 ^ ln) <<< pos + (a % 2 ^ ln) <<< pos

/-! ## The meanings -/

/-- A two-operand instruction: the result from the two data operands (R224). -/
def alu2 (i : Instr) (g : Guard) (t : IntTy) (d a b : XReg) (f : Nat → Nat → Nat) (s : State) :
    Host.Outcome State Fault Refusal :=
  regInstr i g [d, a, b] (fun s => s.wx d (extend t (f (dataOf t (s.rx a)) (dataOf t (s.rx b))))) s

/-- An arithmetic instruction that accepts `.sat`: the exact result of the operands' values (R225). -/
def aluSat (i : Instr) (g : Guard) (t : IntTy) (sat : Bool) (d a b : XReg) (f : Int → Int → Int) (s : State) :
    Host.Outcome State Fault Refusal :=
  regInstr i g [d, a, b] (fun s => s.wx d (extend t (narrow t sat (f (valueOf t (s.rx a)) (valueOf t (s.rx b)))))) s

/-- An instruction whose second operand is a count read as 64 bits (R224). -/
def aluCount (i : Instr) (g : Guard) (t : IntTy) (d a b : XReg) (f : Nat → Nat → Nat) (s : State) :
    Host.Outcome State Fault Refusal :=
  regInstr i g [d, a, b] (fun s => s.wx d (extend t (f (dataOf t (s.rx a)) (s.rx b).toNat))) s

/-- A one-operand instruction (R228). -/
def alu1 (i : Instr) (g : Guard) (t : IntTy) (d a : XReg) (f : Nat → Nat) (s : State) :
    Host.Outcome State Fault Refusal :=
  regInstr i g [d, a] (fun s => s.wx d (extend t (f (dataOf t (s.rx a))))) s

def execAdd (g : Guard) (t : IntTy) (sat : Bool) (d a b : XReg) (s : State) :=
  aluSat (.add g t sat d a b) g t sat d a b (· + ·) s
def execSub (g : Guard) (t : IntTy) (sat : Bool) (d a b : XReg) (s : State) :=
  aluSat (.sub g t sat d a b) g t sat d a b (· - ·) s
def execMul (g : Guard) (t : IntTy) (sat : Bool) (d a b : XReg) (s : State) :=
  aluSat (.mul g t sat d a b) g t sat d a b (· * ·) s

/-- The high half of the exact signed product (R226). -/
def execMulh (g : Guard) (t : IntTy) (d a b : XReg) (s : State) :=
  let n := intWidth t
  alu2 (.mulh g t d a b) g t d a b (fun a b => wrap n (signed n a * signed n b / (2 ^ n : Nat))) s
/-- The high half of the exact unsigned product (R226). -/
def execMulhw (g : Guard) (t : IntTy) (d a b : XReg) (s : State) :=
  let n := intWidth t
  alu2 (.mulhw g t d a b) g t d a b (fun a b => a * b / 2 ^ n) s

def execDiv (g : Guard) (t : IntTy) (d a b : XReg) (s : State) :=
  alu2 (.div g t d a b) g t d a b (fun a b => (divRem (intWidth t) true a b).1) s
def execDivw (g : Guard) (t : IntTy) (d a b : XReg) (s : State) :=
  alu2 (.divw g t d a b) g t d a b (fun a b => (divRem (intWidth t) false a b).1) s
def execRem (g : Guard) (t : IntTy) (d a b : XReg) (s : State) :=
  alu2 (.rem g t d a b) g t d a b (fun a b => (divRem (intWidth t) true a b).2) s
def execRemw (g : Guard) (t : IntTy) (d a b : XReg) (s : State) :=
  alu2 (.remw g t d a b) g t d a b (fun a b => (divRem (intWidth t) false a b).2) s

def execAnd (g : Guard) (t : IntTy) (d a b : XReg) (s : State) :=
  alu2 (.and g t d a b) g t d a b (fun a b => a &&& b) s
def execOr (g : Guard) (t : IntTy) (d a b : XReg) (s : State) :=
  alu2 (.or g t d a b) g t d a b (fun a b => a ||| b) s
def execXor (g : Guard) (t : IntTy) (d a b : XReg) (s : State) :=
  alu2 (.xor g t d a b) g t d a b (fun a b => a ^^^ b) s
def execAndn (g : Guard) (t : IntTy) (d a b : XReg) (s : State) :=
  alu2 (.andn g t d a b) g t d a b (fun a b => a &&& (2 ^ intWidth t - 1 - b)) s
def execOrn (g : Guard) (t : IntTy) (d a b : XReg) (s : State) :=
  alu2 (.orn g t d a b) g t d a b (fun a b => a ||| (2 ^ intWidth t - 1 - b)) s

def execShl (g : Guard) (t : IntTy) (d a b : XReg) (s : State) :=
  aluCount (.shl g t d a b) g t d a b (shlOf (intWidth t)) s
def execShr (g : Guard) (t : IntTy) (d a b : XReg) (s : State) :=
  aluCount (.shr g t d a b) g t d a b (shrOf (intWidth t)) s
def execSra (g : Guard) (t : IntTy) (d a b : XReg) (s : State) :=
  aluCount (.sra g t d a b) g t d a b (sraOf (intWidth t)) s
def execRol (g : Guard) (t : IntTy) (d a b : XReg) (s : State) :=
  aluCount (.rol g t d a b) g t d a b (rolOf (intWidth t)) s

def execMin (g : Guard) (t : IntTy) (d a b : XReg) (s : State) :=
  let n := intWidth t
  alu2 (.min g t d a b) g t d a b (fun a b => if signed n a ≤ signed n b then a else b) s
def execMax (g : Guard) (t : IntTy) (d a b : XReg) (s : State) :=
  let n := intWidth t
  alu2 (.max g t d a b) g t d a b (fun a b => if signed n a ≥ signed n b then a else b) s
def execMinw (g : Guard) (t : IntTy) (d a b : XReg) (s : State) := alu2 (.minw g t d a b) g t d a b Nat.min s
def execMaxw (g : Guard) (t : IntTy) (d a b : XReg) (s : State) := alu2 (.maxw g t d a b) g t d a b Nat.max s

def execClz (g : Guard) (t : IntTy) (d a : XReg) (s : State) := alu1 (.clz g t d a) g t d a (clzOf (intWidth t)) s
def execCtz (g : Guard) (t : IntTy) (d a : XReg) (s : State) := alu1 (.ctz g t d a) g t d a (ctzOf (intWidth t)) s
def execPopc (g : Guard) (t : IntTy) (d a : XReg) (s : State) := alu1 (.popc g t d a) g t d a (popcOf (intWidth t)) s
def execBrev (g : Guard) (t : IntTy) (d a : XReg) (s : State) := alu1 (.brev g t d a) g t d a (brevOf (intWidth t)) s
def execBswap (g : Guard) (t : IntTy) (d a : XReg) (s : State) :=
  alu1 (.bswap g t d a) g t d a (bswapOf (intWidth t)) s

def execBfx (g : Guard) (t : IntTy) (d a b c : XReg) (s : State) :=
  regInstr (.bfx g t d a b c) g [d, a, b, c] (fun s =>
    s.wx d (extend t (bfxOf (intWidth t) true (dataOf t (s.rx a)) (s.rx b).toNat (s.rx c).toNat))) s
def execBfxw (g : Guard) (t : IntTy) (d a b c : XReg) (s : State) :=
  regInstr (.bfxw g t d a b c) g [d, a, b, c] (fun s =>
    s.wx d (extend t (bfxOf (intWidth t) false (dataOf t (s.rx a)) (s.rx b).toNat (s.rx c).toNat))) s
/-- `bfi` also reads x[d] as held at issue (R229). -/
def execBfi (g : Guard) (t : IntTy) (d a b c : XReg) (s : State) :=
  regInstr (.bfi g t d a b c) g [d, a, b, c] (fun s =>
    s.wx d (extend t (bfiOf (intWidth t) (dataOf t (s.rx d)) (dataOf t (s.rx a)) (s.rx b).toNat (s.rx c).toNat))) s

def execSel (g : Guard) (t : IntTy) (d : XReg) (p : PReg) (a b : XReg) (s : State) :=
  regInstr (.sel g t d p a b) g [d, a, b] (fun s =>
    s.wx d (extend t (dataOf t (if s.rp p then s.rx a else s.rx b)))) s

/-- The magnitude by the type's signedness (R228). -/
def execAbs (g : Guard) (t : IntTy) (sat : Bool) (d a : XReg) (s : State) :=
  regInstr (.abs g t sat d a) g [d, a] (fun s => s.wx d (extend t (narrow t sat ((valueOf t (s.rx a)).natAbs : Int)))) s
def execNeg (g : Guard) (t : IntTy) (sat : Bool) (d a : XReg) (s : State) :=
  regInstr (.neg g t sat d a) g [d, a] (fun s => s.wx d (extend t (narrow t sat (-(valueOf t (s.rx a)))))) s

/-! ## Immediate forms (R231, R232) -/

/-- An immediate instruction on 64 bits (R231). -/
def aluImm (i : Instr) (g : Guard) (d a : XReg) (f : W64 → W64) (s : State) : Host.Outcome State Fault Refusal :=
  regInstr i g [d, a] (fun s => s.wx d (f (s.rx a))) s

def execAddi (g : Guard) (d a : XReg) (imm : BitVec 32) (s : State) :=
  aluImm (.addi g d a imm) g d a (· + imm.signExtend 64) s
def execAndi (g : Guard) (d a : XReg) (imm : BitVec 32) (s : State) :=
  aluImm (.andi g d a imm) g d a (· &&& imm.signExtend 64) s
def execOri (g : Guard) (d a : XReg) (imm : BitVec 32) (s : State) :=
  aluImm (.ori g d a imm) g d a (· ||| imm.setWidth 64) s
def execXori (g : Guard) (d a : XReg) (imm : BitVec 32) (s : State) :=
  aluImm (.xori g d a imm) g d a (· ^^^ imm.setWidth 64) s
def execShli (g : Guard) (d a : XReg) (sh : BitVec 6) (s : State) :=
  aluImm (.shli g d a sh) g d a (· <<< sh.toNat) s
def execShri (g : Guard) (d a : XReg) (sh : BitVec 6) (s : State) :=
  aluImm (.shri g d a sh) g d a (· >>> sh.toNat) s
def execSrai (g : Guard) (d a : XReg) (sh : BitVec 6) (s : State) :=
  aluImm (.srai g d a sh) g d a (fun x => x.sshiftRight sh.toNat) s
def execMuli (g : Guard) (d a : XReg) (imm : BitVec 32) (s : State) :=
  aluImm (.muli g d a imm) g d a (· * imm.signExtend 64) s
def execMovi (g : Guard) (d : XReg) (imm : BitVec 45) (s : State) :=
  regInstr (.movi g d imm) g [d] (fun s => s.wx d (imm.signExtend 64)) s
/-- The immediate over bits [63:19]; the low 19 bits are kept (R232). -/
def execMovhi (g : Guard) (d : XReg) (imm : BitVec 45) (s : State) :=
  regInstr (.movhi g d imm) g [d] (fun s => s.wx d (imm ++ (s.rx d).extractLsb' 0 19)) s

end Sys2Proof.Machine
end

