-- ==== Sys2Proof/Machine/Registers.lean ====
section
/-! DEFINITION. The device registers (R3): where each block's registers lie, their reset values, which bits a write
changes at which privilege, and reading and writing one of them. -/

namespace Sys2Proof.Machine

open Bits

/-! ## Blocks (R68, R181, R336, R361, R363, R151) -/

/-- The block that a register address names. -/
inductive Block where
  | station (n : Nat)
  | port (p : Nat)
  | control
  | tile (t : Nat)
  | router (x y : Nat)
  | groups (i : Nat)
  | none
deriving DecidableEq, Repr

def regBase : Nat := 0x7F0000000000

/-- The block and the offset in it of a local physical address in the register range. -/
def blockOf (a : Nat) : Block × Nat :=
  let o := a - regBase
  if o < 0x400000 then (.station (o / 0x10000), o % 0x10000)
  else if o < 0x700000 then (.port ((o - 0x400000) / 0x10000), o % 0x10000)
  else if 0x800000 ≤ o ∧ o < 0x810000 then (.control, o % 0x10000)
  else if 0x10000000 ≤ o ∧ o < 0x18000000 then (.tile ((o - 0x10000000) / 0x10000), o % 0x10000)
  else if 0x20000000 ≤ o ∧ o < 0x20000000 + 2112 * 0x10000 then
    let r := (o - 0x20000000) / 0x10000
    (.router (r % 66) (r / 66), o % 0x10000)
  else if 0x8000000000 ≤ o ∧ o < 0x8000000000 + 4096 * 32 then (.groups ((o - 0x8000000000) / 32), o % 32)
  else (.none, o)

def stationReg (n off : Nat) : Nat := regBase + n * 0x10000 + off
def portReg (p off : Nat) : Nat := regBase + 0x400000 + p * 0x10000 + off
def controlReg (off : Nat) : Nat := regBase + 0x800000 + off
def tileReg (t off : Nat) : Nat := regBase + 0x10000000 + t * 0x10000 + off
def routerReg (x y off : Nat) : Nat := regBase + 0x20000000 + (y * 66 + x) * 0x10000 + off

/-- The register address of offset `off` in the block of a node; service tiles have none that a rule places. -/
def nodeReg (n : Node) (off : Nat) : Nat :=
  match n with
  | .router x y => routerReg x y off
  | .station k => stationReg k off
  | .port p => portReg p off
  | .service k => regBase + 0x900000 + k * 0x10000 + off

/-- The block that answers for a register: the module control block and the group table answer at service tile 0
(log 20). -/
def State.regNode (s : State) (a : Nat) : Node :=
  match (blockOf a).1 with
  | .station n => .station n
  | .port p => .port p
  | .tile t => s.nodeOf t
  | .router x y => .router x y
  | .control | .groups _ | .none => .service 0

/-! ## Fields (the register tables) -/

/-- A register: its reset value, the bits a write at runtime privilege and at service privilege sets, the bits that a
1 clears, and the bits that a read clears. -/
structure RegInfo where
  reset : W64
  rw    : W64
  sv    : W64
  w1c   : W64
  rc    : W64

def RegInfo.ro (reset : W64) : RegInfo := { reset := reset, rw := 0, sv := 0, w1c := 0, rc := 0 }
def RegInfo.both (reset rw : W64) : RegInfo := { reset := reset, rw := rw, sv := rw, w1c := 0, rc := 0 }
def RegInfo.svc (reset sv : W64) : RegInfo := { reset := reset, rw := 0, sv := sv, w1c := 0, rc := 0 }

/-- Registers that every block with links holds: LINK_PIDS and LINK_TDM (R432). -/
def linkInfo (off : Nat) : Option RegInfo :=
  if off = 0x300 then some (.svc 0 (ones 0 64))
  else if 0x308 ≤ off ∧ off < 0x330 then some (.svc 0 0xBBBBBBBBBBBBBBBB)
  else none

/-- Registers of a collective engine and a herd route table (R181, R186, R189, R418 to R420). -/
def collInfo (off : Nat) : Option RegInfo :=
  if off = 0x200 then some (.both 0 (ones 59 4 ||| ones 0 52))
  else if 0x2000 ≤ off ∧ off < 0x4000 then some (.ro 0)
  else if 0x4000 ≤ off ∧ off < 0x4100 then
    some { reset := 0, rw := ones 58 5 ||| ones 0 48, sv := ones 58 6 ||| ones 0 48, w1c := 0, rc := 0 }
  else if 0x8000 ≤ off ∧ off < 0xA000 then some (.both 0 (ones 0 64))
  else none

def stationInfo (off : Nat) : RegInfo :=
  if off = 0x100 then .both 0 (ones 19 33)                                  -- PT_BASE (R75)
  else if off = 0x108 then .both 0 (ones 62 1 ||| ones 16 39 ||| ones 0 16) -- XLAT_INVAL (R75)
  else if off = 0xF00 then { RegInfo.ro 0 with rc := ones 24 40 }           -- DRAM_ERR_STAT (R378)
  else if off = 0xF28 then { RegInfo.ro 0 with rc := ones 0 32 }            -- SM_MISS (R388)
  else if 0xF40 ≤ off ∧ off < 0xFC0 then .svc 0 (ones 0 16)                 -- LANE_MAP (R378)
  else ((linkInfo off).or (collInfo off)).getD (.ro 0)

def portInfo (off : Nat) : RegInfo :=
  if off = 0x400 then                                                       -- PORT_LASER (R337)
    { reset := 0x22, rw := 0, sv := ones 16 6 ||| ones 0 2, w1c := 0, rc := ones 8 8 }
  else if off = 0x500 then .svc (ones 16 16) (ones 0 16)                    -- PORT_LANES (R425)
  else if off = 0x508 then .svc 2000 (ones 0 16)                            -- AGE_HORIZON (R424)
  else if 0x5000 ≤ off ∧ off < 0x5100 then                                  -- WL_HEALTH (R424)
    if off % 16 = 0 then { RegInfo.ro 0 with w1c := ones 3 1 } else .ro (ones 0 16)
  else ((linkInfo off).or (collInfo off)).getD (.ro 0)

def controlInfo (off : Nat) : RegInfo :=
  if 0x100 ≤ off ∧ off < 0x200 then .svc (ones 63 1 ||| 1) 1                -- ROW_PWR (R336)
  else if off = 0x200 then .svc 0 1                                         -- SNAP_CTL (R366)
  else if off = 0x280 then .svc (BitVec.ofNat 64 (64 * 0x10000 + 4032)) (ones 16 13 ||| ones 0 12)  -- SHR_BUCKETS
  else .ro 0

def tileInfo (off : Nat) : RegInfo :=
  if 0x100 ≤ off ∧ off < 0x120 then { RegInfo.both 0 (ones 0 32) with w1c := ones 63 1 }   -- PARK_WD (R361)
  else if 0x140 ≤ off ∧ off < 0x160 then { RegInfo.ro 0 with rc := ones 0 64 }             -- SM_STAT (R387)
  else .ro 0

def routerInfo (off : Nat) : RegInfo :=
  if off = 0x200 then .svc 16 (ones 0 16)                                                  -- FENCE_CFG (R394)
  else if 0x210 ≤ off ∧ off < 0x230 then { RegInfo.ro 0 with rc := ones 48 16 }            -- LINK_STAT (R394)
  else if off = 0x240 then { RegInfo.ro 0 with rc := ones 0 64 }                           -- GUARD_DROP (R440)
  else (linkInfo off).getD (.ro 0)

/-- Bits of a group-table entry, word by word (R151). -/
def groupInfo (w : Nat) : RegInfo :=
  match w with
  | 0 => .both 0 (ones 56 8)
  | 1 => .both 0 (ones 0 32 ||| ones 40 24)
  | 2 => .both 0 (ones 0 42 ||| ones 48 16)
  | _ => { reset := 0, rw := ones 0 32 ||| ones 34 26, sv := ones 0 32 ||| ones 34 26 ||| ones 63 1, w1c := 0, rc := 0 }

def regInfo (a : Nat) : RegInfo :=
  match blockOf a with
  | (.station _, off) => stationInfo off
  | (.port _, off) => portInfo off
  | (.control, off) => controlInfo off
  | (.tile _, off) => tileInfo off
  | (.router _ _, off) => routerInfo off
  | (.groups _, off) => groupInfo (off / 8)
  | (.none, _) => .ro 0

/-! ## Stored values -/

/-- The value that a register holds; the table keeps the difference from its reset value. -/
def State.reg (s : State) (a : Nat) : W64 := s.regRaw a ^^^ (regInfo a).reset
def State.setReg (s : State) (a : Nat) (v : W64) : State := s.setRegRaw a (v ^^^ (regInfo a).reset)
def State.modReg (s : State) (a : Nat) (f : W64 → W64) : State := s.setReg a (f (s.reg a))

/-- Adds to a saturating field (R378, R387, R440). -/
def satAdd (w : W64) (lo len n : Nat) : W64 := put w lo len (Nat.min (fld w lo len + n) (2 ^ len - 1))

/-! ## Registers that show other state -/

/-- The fence entries of a block, in ascending position: position, reason, and the appeals and permanence of the
tile (R397, R422). -/
def State.fenceEnt (s : State) (r : Router) (i : Nat) : W64 :=
  match r.fences[i]? with
  | none => 0
  | some (pos, v) =>
    let ap := Table.get 0 s.appeals pos
    BitVec.ofNat 64 (2 ^ 63 + (if ap ≥ 4 then 2 ^ 62 else 0) + ap % 4 * 2 ^ 60 + (v - 1) % 4 * 2 ^ 12 +
      pos % 66 * 32 + pos / 66)

/-- The two words of ENG_FAULT (R381). -/
def engFaultWord (f : Option EngFault) (hi : Bool) : W64 :=
  match f with
  | none => 0
  | some f =>
    if hi then f.va
    else BitVec.ofNat 64 (2 ^ 63 + (if f.hold then 2 ^ 62 else 0) + f.engine % 4 * 2 ^ 60 + f.unit % 4 * 2 ^ 58 +
      (if f.write then 2 ^ 57 else 0) + f.cause % 2 * 2 ^ 56 + f.pid % 2 ^ 16 * 2 ^ 40 + f.group % 64 * 2 ^ 34 +
      f.rseq % 2 ^ 16 * 2 ^ 16 + f.id % 2 ^ 16)

/-- What a read of an aligned register returns (R3). -/
def State.regValue (s : State) (a : Nat) : W64 :=
  match blockOf a with
  | (.station n, off) =>
    if 0x1400 ≤ off ∧ off < 0x1600 then
      match Table.get none (s.station n).lost ((off - 0x1400) / 8) with
      | some l => BitVec.ofNat 64 (2 ^ 63 + s.module.toNat * 2 ^ 47 + l.line % 2 ^ 40 * 128)
      | none => 0
    else if 0x1600 ≤ off ∧ off < 0x1700 then
      engFaultWord (Table.get none (s.station n).faults ((off - 0x1600) / 16)) (off % 16 ≥ 8)
    else if 0x1800 ≤ off ∧ off < 0x1C00 then
      match Table.get none (s.station n).lost ((off - 0x1800) / 16) with
      | some l => if off % 16 ≥ 8 then l.written.extractLsb' 64 64 else l.written.extractLsb' 0 64
      | none => 0
    else if off = 0x108 then (s.reg a) ||| (if s.inval.isSome then ones 63 1 else 0)
    else s.reg a
  | (.router x y, off) =>
    if 0x400 ≤ off ∧ off < 0x600 then s.fenceEnt (s.router (y * 66 + x)) ((off - 0x400) / 8)
    else if 0x210 ≤ off ∧ off < 0x230 then
      let b := Table.get 0 (s.router (y * 66 + x)).beat ((off - 0x208) / 8)
      put (s.reg a) 24 2 (if b = 0 then 0 else Nat.min 3 ((s.mcycle + 1 - b) / 4096))
    else s.reg a
  | (.groups i, off) => (Table.get 0 s.groups i).extractLsb' (8 * (off / 8 * 8)) 64
  | (.none, _) => 0
  | _ => s.reg a

/-- A read clears the RC bits (R3). -/
def State.clearRc (s : State) (a : Nat) : State :=
  let rc := (regInfo a).rc
  if rc = 0 then s else s.modReg a fun v => v &&& ~~~rc

/-- A write of the bits of `mask` at privilege `priv`: RW fields are set, W1C bits written as 1 are cleared, the rest
stays (R3). -/
def regMerge (i : RegInfo) (priv : Nat) (old v mask : W64) : W64 :=
  let m := (if priv ≥ 2 then i.sv else i.rw) &&& mask
  ((old &&& ~~~m) ||| (v &&& m)) &&& ~~~(v &&& i.w1c &&& mask)

/-- A write to an aligned register that has no effect but on itself (R3, row REGISTER_WRITE). -/
def State.regStore (s : State) (a : Nat) (priv : Nat) (v mask : W64) : State :=
  match blockOf a with
  | (.groups i, off) =>
    let old := Table.get 0 s.groups i
    let w := off / 8
    let nv := regMerge (groupInfo w) priv (old.extractLsb' (64 * w) 64) v mask
    { s with groups := Table.set 0 s.groups i (put old (64 * w) 64 nv.toNat) }
  | (.none, _) => s
  | _ => s.setReg a (regMerge (regInfo a) priv (s.reg a) v mask)

end Sys2Proof.Machine
end

