-- ==== Sys2Proof/Machine/Routes.lean ====
section
/-! DEFINITION. Routes over the grid (R141, R404): the hops of a message under the routers' fence sets, and the port by
which a route arrives. -/

namespace Sys2Proof.Machine

open Bits

/-- The link from a position to an adjacent one. -/
def linkTo (x y ax ay : Nat) : Nat := if ax < x then 1 else if x < ax then 3 else if ay < y then 2 else 4

def linkStat (x y p : Nat) : Nat := routerReg x y (0x208 + 8 * p)
/-- STATE of a link: 0 up, 1 accusing, 2 sealed, 3 probation, 4 dead (R394). -/
def State.linkState (s : State) (x y p : Nat) : Nat := fld (s.reg (linkStat x y p)) 16 3

/-- The fence set of a router names a position. -/
def State.knowsFenced (s : State) (x y fx fy : Nat) : Bool :=
  Table.get 0 (s.router (y * 66 + x)).fences (fy * 66 + fx) != 0

/-- A block's fence set names a tile position (R397). -/
def State.isFenced (s : State) (x y : Nat) : Bool := s.routers.any fun e => Table.get 0 e.2.fences (y * 66 + x) != 0

/-- One step from `a` towards `b`. -/
def toward (a b : Nat) : Nat := if a < b then a + 1 else if b < a then a - 1 else a

/-- The port by which a step to (x', y') arrives from (x, y): 1 W, 2 N, 3 E, 4 S. -/
def stepPort (x y x' y' : Nat) : Nat := if x < x' then 1 else if x' < x then 3 else if y < y' then 2 else 4

/-- The next point of a route over the grid from (x, y) to (dx, dy) and the port by which the route arrives there: XY,
with the detours around positions that the router's fence set names (R141, R404); a detour is taken as one hop. `none`
when there is no route. -/
def State.gridVia (s : State) (x y dx dy : Nat) : Option (Nat × Nat × Nat) :=
  let f (a b : Nat) : Bool := s.knowsFenced x y a b
  let clear (l : List (Nat × Nat)) : Bool := l.all fun q => q.1 < 66 && q.2 < 32 && !f q.1 q.2
  let dead (a b : Nat) : Bool := s.linkState x y (linkTo x y a b) == 4
  let bad (a b : Nat) : Bool := (f a b && (a, b) != (dx, dy)) || dead a b
  if x ≠ dx then
    let nx := toward x dx
    if !bad nx y then some (nx, y, stepPort x y nx y)
    else if nx = dx then
      let ny := toward y dy
      if ny ≠ y ∧ clear [(x, ny), (nx, ny)] then some (nx, ny, stepPort x ny nx ny) else none
    else
      let fx := toward nx dx
      if 0 < y ∧ clear [(x, y - 1), (nx, y - 1), (fx, y - 1)] ∧ !bad fx y then some (fx, y, 2)
      else if clear [(x, y + 1), (nx, y + 1), (fx, y + 1)] ∧ !bad fx y then some (fx, y, 4)
      else none
  else
    let ny := toward y dy
    if !bad x ny then some (x, ny, stepPort x y x ny)
    else if ny = dy then
      if 0 < x ∧ clear [(x - 1, y), (x - 1, ny)] then some (x, ny, 1)
      else if clear [(x + 1, y), (x + 1, ny)] then some (x, ny, 3)
      else none
    else
      let fy := toward ny dy
      if 0 < x ∧ clear [(x - 1, y), (x - 1, ny), (x - 1, fy)] ∧ !bad x fy then some (x, fy, 1)
      else if clear [(x + 1, y), (x + 1, ny), (x + 1, fy)] ∧ !bad x fy then some (x, fy, 3)
      else none

/-- The next point of a route over the grid. -/
def State.gridHop (s : State) (x y dx dy : Nat) : Option (Nat × Nat) :=
  (s.gridVia x y dx dy).map fun q => (q.1, q.2.1)

/-- The port by which the route from (x, y) arrives at (dx, dy); 0 when there is no route. -/
def State.arrivalPort (s : State) (dx dy : Nat) : Nat → Nat → Nat → Nat
  | 0, _, _ => 0
  | fuel + 1, x, y =>
    match s.gridVia x y dx dy with
    | none => 0
    | some (a, b, p) => if a = dx ∧ b = dy then p else s.arrivalPort dx dy fuel a b

/-- The row nearest to `y` whose attachment router in column `c` is live (R404). -/
def State.liveRow (s : State) (c y : Nat) : Nat :=
  ((List.range 32).findSome? fun k =>
    if k ≤ y ∧ !s.isFenced c (y - k) then some (y - k) else if y + k < 32 ∧ !s.isFenced c (y + k) then some (y + k) else none).getD y

/-- A block sweeps messages of a job (R363, item 3). -/
def State.sweeping (s : State) (n : Node) (pid : Nat) : Bool := (s.router (nodeKey n)).sweeps.any fun x => x.1 == pid

/-! ## Control messages on class G (R10, R135) -/

/-- Release state of a slot in row j of band n, at the station that SLOT_SIDE names (R92, R159). -/
def relKey (n j slot : Nat) : Nat := (n * 32 + j) * 16 + slot
def State.rel (s : State) (n j slot : Nat) : Rel := Table.get Rel.reset s.released (relKey n j slot)
def State.setRel (s : State) (n j slot : Nat) (r : Rel) : State :=
  { s with released := Table.set Rel.reset s.released (relKey n j slot) r }

/-- The band and band row whose tile T holds a slot. -/
def State.slotRow (s : State) (T slot : Nat) : Option (Nat × Nat) :=
  ((List.range 4).find? fun d => (s.dom T d).present && (s.dom T d).band != 0 && bit (s.dom T d).slotMask slot).map fun d =>
    ((s.dom T d).band - 1, (s.dom T d).bRow)

/-- A domain of a tile sends a control message to a block. -/
def State.signal (s : State) (T d typ : Nat) (dst : Node) (arg : Nat) (c : Ctrl) : State :=
  s.send (s.tileMsg T d typ dst arg (.ctrl c))

/-- A station's control message about a band (TYPE 0x11 or 0x13). -/
def ctrlMsg (k : Nat) (dst : Node) (typ pid arg : Nat) (c : Ctrl) : Msg := blockMsg (.station k) dst typ pid arg (.ctrl c)

/-- A tile contributes its MARKER to the row's marker reduction, towards both stations of the row (R90). -/
def State.signalMarker (s : State) (T d : Nat) : State :=
  let v := s.dom T d
  if v.band = 0 then s
  else
    let c : Ctrl := .marker (v.band - 1) v.bRow T v.stage.toNat ((v.wave.toNat + 2 ^ 32 - v.firstWave) % 2 ^ 32) v.step.toNat v.marker.toNat
    (s.signal T d 0x11 (.station (T / 64)) (2 ^ 30) c).signal T d 0x11 (.station (32 + T / 64)) (2 ^ 30) c

/-- A tile contributes to a slot's release, towards the station that SLOT_SIDE names (R159). -/
def State.signalRelease (s : State) (T slot : Nat) : State :=
  match (List.range 4).find? fun d => (s.dom T d).present && (s.dom T d).band != 0 && bit (s.dom T d).slotMask slot with
  | none => s
  | some d =>
    let v := s.dom T d
    let g := Table.get (0 : BitVec 256) s.groups (s.rel (v.band - 1) v.bRow slot).group
    s.signal T d 0x11 (.station (T / 64 + 32 * fld g (56 + slot) 1)) (2 * 2 ^ 30 + slot * 2 ^ 26)
      (.release (v.band - 1) v.bRow T slot)

end Sys2Proof.Machine
end

