-- ==== Sys2Proof/Machine/Float.lean ====
section
/-! DEFINITION. Number formats and arithmetic (04_numbers.md): exact dyadic values, one rounding per result (R119),
NaN rules (R118), conversions (R120), the transcendental functions (R129) and the orders for sorting (R132, R133). -/

namespace Sys2Proof.Machine

open Bits

/-! ## Values and formats -/

/-- A decoded value. A NaN keeps its sign and its fraction, aligned to the 23 bits of FP32; a finite value is
(-1)^neg * m * 2^e. -/
inductive FVal where
  | nan (neg : Bool) (frac : Nat)
  | inf (neg : Bool)
  | fin (neg : Bool) (m : Nat) (e : Int)
deriving DecidableEq, Repr

/-- The floating formats (R112, R113). -/
inductive Fmt where
  | f32 | bf16 | f16 | e4m3 | e5m2 | e2m3 | e2m1
deriving DecidableEq, Repr

def Fmt.ofF : FTy → Fmt
  | .f32 => .f32 | .bf16 => .bf16 | .f16 => .f16

/-- Exponent bits, fraction bits, bias (R112, R113). -/
def Fmt.eb : Fmt → Nat
  | .f32 | .bf16 => 8 | .f16 | .e5m2 => 5 | .e4m3 => 4 | .e2m3 | .e2m1 => 2
def Fmt.mb : Fmt → Nat
  | .f32 => 23 | .bf16 => 7 | .f16 => 10 | .e5m2 => 2 | .e4m3 | .e2m3 => 3 | .e2m1 => 1
def Fmt.bias : Fmt → Nat
  | .f32 | .bf16 => 127 | .f16 | .e5m2 => 15 | .e4m3 => 7 | .e2m3 | .e2m1 => 1
def Fmt.bits (f : Fmt) : Nat := 1 + f.eb + f.mb
/-- Bytes of a value of the format. -/
def Fmt.bytes (f : Fmt) : Nat := f.bits / 8

/-- The format has infinities and NaNs with IEEE meaning. -/
def Fmt.ieee : Fmt → Bool
  | .f32 | .bf16 | .f16 | .e5m2 => true
  | .e4m3 | .e2m3 | .e2m1 => false

/-- The code of the largest finite magnitude (R113). -/
def Fmt.maxCode (f : Fmt) : Nat :=
  if f.ieee then (2 ^ f.eb - 1) * 2 ^ f.mb - 1 else if f = .e4m3 then 0x7E else 2 ^ (f.eb + f.mb) - 1

/-- The code of +infinity. -/
def Fmt.infCode (f : Fmt) : Nat := (2 ^ f.eb - 1) * 2 ^ f.mb

/-- The canonical NaN (R113, R118). -/
def Fmt.nanCode (f : Fmt) : Nat := if f = .e4m3 then 0x7F else f.infCode + 2 ^ (f.mb - 1)

def Fmt.signBit (f : Fmt) : Nat := 2 ^ (f.eb + f.mb)
def Fmt.signed (f : Fmt) (neg : Bool) (code : Nat) : Nat := if neg then f.signBit + code else code

/-- The canonical NaN as a value. -/
def FVal.qnan : FVal := .nan false (2 ^ 22)

/-- Decodes a code of a format (R112, R113). -/
def Fmt.decode (f : Fmt) (code : Nat) : FVal :=
  let neg := code.testBit (f.eb + f.mb)
  let mag := code % f.signBit
  let e := mag / 2 ^ f.mb
  let m := mag % 2 ^ f.mb
  if f.ieee && e == 2 ^ f.eb - 1 then (if m = 0 then .inf neg else .nan neg (m * 2 ^ (23 - f.mb)))
  else if f == .e4m3 && mag == 0x7F then .qnan
  else if e = 0 then .fin neg m (1 - (f.bias : Int) - f.mb)
  else .fin neg (m + 2 ^ f.mb) ((e : Int) - f.bias - f.mb)

/-- Whether a magnitude with this remainder is rounded up (R119): `odd` is the kept part's last bit, `half` compares
the remainder with half a unit, `inexact` says that it is not zero. -/
def roundUp (rm : Rm) (neg odd : Bool) (half : Ordering) (inexact : Bool) : Bool :=
  match rm with
  | .rne => half == .gt || (half == .eq && odd)
  | .rz => false
  | .ru => inexact && !neg
  | .rd => inexact && neg

/-- Rounds m * 2^e, plus something below one unit of 2^e when `sticky`, to an integer multiple of 2^q (R119). -/
def roundAt (rm : Rm) (neg : Bool) (m : Nat) (e : Int) (sticky : Bool) (q : Int) : Nat :=
  if q ≤ e then
    let k := m <<< (e - q).toNat
    if roundUp rm neg (k % 2 == 1) .lt sticky then k + 1 else k
  else
    let sh := (q - e).toNat
    let k := m >>> sh
    let r := m % 2 ^ sh
    let h := 2 ^ (sh - 1)
    let half := if r < h then .lt else if r = h then (if sticky then .gt else .eq) else .gt
    if roundUp rm neg (k % 2 == 1) half (r != 0 || sticky) then k + 1 else k

/-- A value beyond the format's range (R119, R120). -/
def Fmt.overflow (f : Fmt) (rm : Rm) (sat neg : Bool) : Nat :=
  if sat || !f.ieee then f.maxCode
  else match rm with
    | .rne => f.infCode
    | .rz => f.maxCode
    | .ru => if neg then f.maxCode else f.infCode
    | .rd => if neg then f.infCode else f.maxCode

/-- The code of (-1)^neg * m * 2^e, rounded once (R119, R120). -/
def Fmt.round (f : Fmt) (rm : Rm) (sat neg : Bool) (m : Nat) (e : Int) (sticky : Bool) : Nat :=
  let emin : Int := 1 - (f.bias : Int) - f.mb
  if m = 0 && !sticky then f.signed neg 0
  else
    let q := max ((Nat.log2 m : Int) + e - f.mb) emin
    let k := roundAt rm neg m e sticky q
    let code := (q - emin).toNat * 2 ^ f.mb + k
    f.signed neg (if code > f.maxCode then f.overflow rm sat neg else code)

/-- Encodes a value in a format: NaNs by R118, infinities by R120. -/
def Fmt.encode (f : Fmt) (rm : Rm) (sat : Bool) : FVal → Nat
  | .nan neg frac =>
    match f with
    | .e4m3 | .e5m2 => f.nanCode
    | .e2m3 | .e2m1 => 0
    | _ => f.signed neg (f.infCode + ((frac / 2 ^ (23 - f.mb)) ||| 2 ^ (f.mb - 1)))
  | .inf neg => f.signed neg (if sat || !f.ieee then f.maxCode else f.infCode)
  | .fin neg m e => f.round rm sat neg m e false

/-! ## Arithmetic on values -/

def FVal.isNan : FVal → Bool
  | .nan _ _ => true | _ => false
def FVal.neg? : FVal → Bool
  | .nan s _ => s | .inf s => s | .fin s _ _ => s
def FVal.negate : FVal → FVal
  | .nan s f => .nan s f | .inf s => .inf !s | .fin s m e => .fin (!s) m e
def FVal.isZero : FVal → Bool
  | .fin _ m _ => m == 0 | _ => false

/-- The first NaN in operand order (R118). -/
def firstNan (l : List FVal) : Option FVal := l.find? FVal.isNan

/-- The exact sum of two finite values as a signed multiple of a power of two. -/
def addExact (n1 : Bool) (m1 : Nat) (e1 : Int) (n2 : Bool) (m2 : Nat) (e2 : Int) : Int × Int :=
  let e := min e1 e2
  let a : Int := (m1 <<< (e1 - e).toNat : Nat)
  let b : Int := (m2 <<< (e2 - e).toNat : Nat)
  ((if n1 then -a else a) + (if n2 then -b else b), e)

/-- The sum of two values before rounding; an exact zero takes its sign by R268. -/
def FVal.add (rm : Rm) (a b : FVal) : FVal :=
  match firstNan [a, b] with
  | some n => n
  | none =>
    match a, b with
    | .inf s, .inf t => if s = t then .inf s else .qnan
    | .inf s, _ => .inf s
    | _, .inf t => .inf t
    | .fin s m e, .fin t n f =>
      let r := addExact s m e t n f
      if r.1 = 0 then .fin (if m = 0 ∧ n = 0 ∧ s = t then s else rm == .rd) 0 0
      else .fin (r.1 < 0) r.1.natAbs r.2
    | _, _ => .qnan

def FVal.mul (a b : FVal) : FVal :=
  match firstNan [a, b] with
  | some n => n
  | none =>
    match a, b with
    | .inf s, .inf t => .inf (s != t)
    | .inf s, .fin t n _ => if n = 0 then .qnan else .inf (s != t)
    | .fin s m _, .inf t => if m = 0 then .qnan else .inf (s != t)
    | .fin s m e, .fin t n f => .fin (s != t) (m * n) (e + f)
    | _, _ => .qnan

/-- A × B + C with one rounding to come (R268). -/
def FVal.fma (rm : Rm) (a b c : FVal) : FVal :=
  match firstNan [a, b, c] with
  | some n => n
  | none => (a.mul b).add rm c

/-- A / B in a format: the quotient with its remainder as a sticky bit (R268). -/
def divCode (f : Fmt) (rm : Rm) (sat : Bool) (a b : FVal) : Nat :=
  match firstNan [a, b] with
  | some n => f.encode rm sat n
  | none =>
    match a, b with
    | .inf _, .inf _ => f.encode rm sat .qnan
    | .inf s, .fin t _ _ => f.encode rm sat (.inf (s != t))
    | .fin s _ _, .inf t => f.signed (s != t) 0
    | .fin s m e, .fin t n g =>
      if n = 0 then f.encode rm sat (if m = 0 then .qnan else .inf (s != t))
      else
        let num := m <<< 80
        f.round rm sat (s != t) (num / n) (e - g - 80) (num % n != 0)
    | _, _ => f.encode rm sat .qnan

/-- The integer square root, bit by bit from the top. -/
def isqrt (n : Nat) : Nat :=
  (List.range (Nat.log2 n / 2 + 1)).reverse.foldl (fun r i => if (r + 2 ^ i) ^ 2 ≤ n then r + 2 ^ i else r) 0

/-- √A in a format (R268). -/
def sqrtCode (f : Fmt) (rm : Rm) (sat : Bool) (a : FVal) : Nat :=
  match a with
  | .nan _ _ => f.encode rm sat a
  | .inf s => f.encode rm sat (if s then .qnan else a)
  | .fin s m e =>
    if m = 0 then f.signed s 0
    else if s then f.encode rm sat .qnan
    else
      let odd : Nat := (e % 2).toNat
      let n := m <<< (80 + odd)
      f.round rm sat false (isqrt n) ((e - odd) / 2 - 40) (isqrt n ^ 2 != n)

/-! ## Compare, minimum, maximum, class -/

/-- The numeric order of two codes; none when unordered (R234). -/
def Fmt.compare (f : Fmt) (a b : Nat) : Option Ordering :=
  if (f.decode a).isNan || (f.decode b).isNan then none
  else
    let v (c : Nat) : Int := if c.testBit (f.eb + f.mb) then -((c % f.signBit : Nat) : Int) else ((c % f.signBit : Nat) : Int)
    some (if v a < v b then .lt else if v a = v b then .eq else .gt)

/-- minimumNumber and maximumNumber, with -0 below +0 (R128). -/
def Fmt.minmax (f : Fmt) (isMax : Bool) (a b : Nat) : Nat :=
  match (f.decode a).isNan, (f.decode b).isNan with
  | true, true => f.nanCode
  | true, false => b
  | false, true => a
  | false, false =>
    let v (c : Nat) : Int := if c.testBit (f.eb + f.mb) then -1 - ((c % f.signBit : Nat) : Int) else ((c % f.signBit : Nat) : Int)
    if isMax then (if v a < v b then b else a) else (if v b < v a then b else a)

/-- The class bit of R271. -/
def Fmt.classBit (f : Fmt) (a : Nat) : Nat :=
  let mag := a % f.signBit
  match f.decode a with
  | .nan _ _ => if mag.testBit (f.mb - 1) then 1 else 0
  | .inf s => if s then 2 else 9
  | .fin s m _ =>
    if m = 0 then (if s then 5 else 6)
    else if mag < 2 ^ f.mb then (if s then 4 else 7)
    else (if s then 3 else 8)

/-! ## Conversions (R120, R270, R272) -/

/-- A finite value rounded to an integer in a mode. -/
def toInt (rm : Rm) (neg : Bool) (m : Nat) (e : Int) : Int :=
  let k : Int := roundAt rm neg m e false 0
  if neg then -k else k

/-- A float value converted to an integer type: clamped to its range; a NaN gives 0 (R120). -/
def toIntTy (rm : Rm) (t : IntTy) (v : FVal) : Nat :=
  let n := intWidth t
  let lo : Int := if intSigned t then -(2 ^ (n - 1) : Nat) else 0
  let hi : Int := if intSigned t then (2 ^ (n - 1) : Nat) - 1 else (2 ^ n : Nat) - 1
  match v with
  | .nan _ _ => 0
  | .inf s => wrap n (if s then lo else hi)
  | .fin s m e => wrap n (max lo (min hi (toInt rm s m e)))

/-- An integer as an exact value. -/
def ofIntVal (v : Int) : FVal := .fin (v < 0) v.natAbs 0

/-- A value rounded to an integral value of the same format (R272). -/
def Fmt.rnd (f : Fmt) (rm : Rm) (a : Nat) : Nat :=
  match f.decode a with
  | .fin s m e => if e ≥ 0 then a else f.signed s (f.round .rne false false (roundAt rm s m e false 0) 0 false)
  | v => f.encode rm false v

/-- The format of a conversion type that is floating. -/
def cFmt : CTy → Option Fmt
  | .int _ => none | .flt t => some (Fmt.ofF t) | .e4m3 => some .e4m3 | .e5m2 => some .e5m2

/-- A conversion between two types (R120): the source code to the destination code. -/
def convert (dt st : CTy) (rm : Rm) (sat : Bool) (x : Nat) : Nat :=
  let v : FVal := match st with
    | .int t => ofIntVal (if intSigned t then signed (intWidth t) x else (x % 2 ^ intWidth t : Nat))
    | _ => match cFmt st with | some f => f.decode (x % 2 ^ f.bits) | none => .qnan
  match dt with
  | .int t => toIntTy rm t v
  | _ => match cFmt dt with | some f => f.encode rm sat v | none => 0

/-! ## The transcendental functions (R129): fixed point with 640 fraction bits, far beyond what a correct rounding of
an FP32 result needs -/

/-- Fraction bits. -/
def prec : Nat := 640

/-- Σ z^(2k+1) / (2k+1) for z = num / den: the inverse hyperbolic tangent, in fixed point. -/
def atanhFix (num den : Nat) : Nat :=
  let z := (num <<< prec) / den
  let z2 := (z * z) >>> prec
  ((List.range 330).foldl (fun (acc : Nat × Nat) k => (acc.1 + acc.2 / (2 * k + 1), (acc.2 * z2) >>> prec)) (0, z)).1

/-- ln 2 = 2 atanh (1/3). -/
def ln2Fix : Nat := 2 * atanhFix 1 3

/-- e^t for 0 ≤ t < 1 in fixed point: its power series. -/
def expFix (t : Nat) : Nat :=
  ((List.range 130).foldl (fun (acc : Nat × Nat) k => (acc.1 + acc.2, ((acc.2 * t) >>> prec) / (k + 1))) (0, 1 <<< prec)).1

/-- A finite magnitude in fixed point; exact for FP32 values. -/
def fixOf (m : Nat) (e : Int) : Nat := if e ≥ 0 then (m <<< e.toNat) <<< prec else (m <<< prec) >>> (-e).toNat

/-- 2^x for a finite FP32 value: mantissa, exponent and sticky bit. -/
def exp2Fix (neg : Bool) (m : Nat) (e : Int) : Nat × Int × Bool :=
  if m = 0 then (1, 0, false)
  else if Nat.log2 m + e > 12 then (1, if neg then -10000 else 10000, true)
  else
    let x : Int := if neg then -(fixOf m e : Int) else fixOf m e
    let n := x / ((1 <<< prec : Nat) : Int)
    let f := (x % ((1 <<< prec : Nat) : Int)).toNat
    if f = 0 then (1, n, false) else (expFix ((f * ln2Fix) >>> prec), n - prec, true)

/-- log2 x for a finite positive FP32 value: sign, mantissa, exponent, sticky. -/
def log2Fix (m : Nat) (e : Int) : Bool × Nat × Int × Bool :=
  let k := Nat.log2 m
  let ex : Int := e + k
  if m = 2 ^ k then (ex < 0, ex.natAbs, 0, false)
  else
    let frac := ((2 * atanhFix (m - 2 ^ k) (m + 2 ^ k)) <<< prec) / ln2Fix
    let v : Int := ex * ((1 <<< prec : Nat) : Int) + frac
    -- a result below zero is held by its magnitude; the sticky part lies below the last fraction bit either way
    (v < 0, v.natAbs, -(prec : Int), true)

/-- e^a for a finite magnitude below 2^8: mantissa in fixed point and a power of two. -/
def expMag (m : Nat) (e : Int) : Nat × Nat :=
  let a := fixOf m e
  let n := a / ln2Fix
  (expFix (a - n * ln2Fix), n)

/-- The functions of R129. -/
inductive TFun where
  | exp2 | log2 | rcp | rsqrt | tanh | sig
deriving DecidableEq, Repr

/-- A finite FP32 argument that is not a special input of R129. -/
def tfunFin (fn : TFun) (rm : Rm) (neg : Bool) (m : Nat) (e : Int) : Nat :=
  let F := Fmt.f32
  match fn with
  | .exp2 => let r := exp2Fix neg m e; F.round rm false false r.1 r.2.1 r.2.2
  | .log2 => let r := log2Fix m e; F.round rm false r.1 r.2.1 r.2.2.1 r.2.2.2
  | .rcp => divCode F rm false (.fin false 1 0) (.fin neg m e)
  | .rsqrt =>
    let odd : Nat := (e % 2).toNat
    let d := m <<< odd
    let q := (1 <<< 400) / d
    let r := isqrt q
    F.round rm false false r (-200 - (e - odd) / 2) (r * r * d != 1 <<< 400)
  | .tanh =>
    if Nat.log2 m + e ≥ 6 then F.round rm false neg (2 ^ 300 - 1) (-300) true
    else
      let E := expMag m (e + 1)
      let big := E.1 <<< E.2
      let one := 1 <<< prec
      F.round rm false neg (((big - one) <<< prec) / (big + one)) (-(prec : Int)) true
  | .sig =>
    if Nat.log2 m + e ≥ 8 then
      (if neg then F.round rm false false 1 (-400) true else F.round rm false false (2 ^ 300 - 1) (-300) true)
    else
      let E := expMag m e
      let big := E.1 <<< E.2
      let one := 1 <<< prec
      F.round rm false false (((if neg then one else big) <<< prec) / (big + one)) (-(prec : Int)) true

/-- A transcendental function on an FP32 code (R129, R282). -/
def tfun (fn : TFun) (rm : Rm) (a : Nat) : Nat :=
  let F := Fmt.f32
  let one := 0x3F800000
  match F.decode a with
  | .nan s f => F.encode rm false (.nan s f)
  | .inf s =>
    match fn with
    | .exp2 => if s then 0 else F.infCode
    | .log2 => if s then F.nanCode else F.infCode
    | .rcp => F.signed s 0
    | .rsqrt => if s then F.nanCode else 0
    | .tanh => F.signed s one
    | .sig => if s then 0 else one
  | .fin s m e =>
    if m = 0 then
      match fn with
      | .exp2 => one
      | .log2 => F.signed true F.infCode
      | .rcp => F.signed s F.infCode
      | .rsqrt => F.signed s F.infCode
      | .tanh => F.signed s 0
      | .sig => 0x3F000000
    else if s && (fn == .log2 || fn == .rsqrt) then F.nanCode
    else tfunFin fn rm s m e

/-! ## FP32 helpers and the orders for sorting -/

def f32 : Fmt := .f32
/-- rne(a + b) in FP32. -/
def addF32 (a b : Nat) : Nat := f32.encode .rne false ((f32.decode a).add .rne (f32.decode b))
/-- An FP32 result whose NaNs are canonical (R118: the array and the router units). -/
def canon (a : Nat) : Nat := if (f32.decode a).isNan then f32.nanCode else a

/-- The rank of an FP32 key as an unsigned number (R132). -/
def rankF32 (u : Nat) : Nat := if u.testBit 31 then 2 ^ 32 - 1 - u else u + 2 ^ 31
/-- The rank of a key of either type (R132). -/
def rankKey (t : KeyTy) (u : Nat) : Nat :=
  match t with | .f32 => rankF32 u | .i32 => (u + 2 ^ 31) % 2 ^ 32
/-- The rank by magnitude: NaNs equal and above infinity (R133). -/
def rankMag (u : Nat) : Nat := min (u % 2 ^ 31) (f32.infCode + 1)

/-- INT32 keys and FP32 keys rank with the lower index first among equals: a stable insertion in ascending order. -/
def insertAsc (k : Nat) (x : Nat × Nat) : List ((Nat × Nat) × Nat) → List ((Nat × Nat) × Nat)
  | [] => [(x, k)]
  | y :: ys => if k < y.2 then (x, k) :: y :: ys else y :: insertAsc k x ys

/-- Pairs of key and index sorted in ascending rank, equal ranks by index (R297). -/
def sortAsc (rank : Nat → Nat) (l : List (Nat × Nat)) : List (Nat × Nat) :=
  (l.foldl (fun acc x => insertAsc (rank x.1) x acc) []).map (·.1)

/-- In descending rank, equal ranks by index. -/
def sortDesc (rank : Nat → Nat) (l : List (Nat × Nat)) : List (Nat × Nat) :=
  sortAsc (fun u => 2 ^ 33 - rank u) l

end Sys2Proof.Machine
end

