-- ==== Sys2Proof/Machine/Quant.lean ====
section
/-! DEFINITION. Block formats: decoding MX and DX elements (R114 to R117), packing (R110), quantisation (R121 to R123),
and the rescaling triple (R131). -/

namespace Sys2Proof.Machine

open Bits

/-! ## Elements and blocks -/

/-- An MX element with its E8M0 scale (R114, R116). -/
def mxDecode (f : Fmt) (code sc : Nat) : FVal :=
  if sc = 0xFF then .qnan
  else match f.decode code with
    | .fin s m e => .fin s m (e + (sc : Int) - 127)
    | v => v

/-- Bits of a DX element, its magnitude bits and its bias (R117). -/
def dxBits (dx8 : Bool) : Nat := if dx8 then 8 else 4
def dxMag (dx8 : Bool) : Nat := if dx8 then 6 else 2
def dxBias (dx8 : Bool) : Int := if dx8 then 133 else 128
def dxMax (dx8 : Bool) : Nat := 2 ^ dxMag dx8 - 1

/-- A DX element with the block's EA and EB (R117). -/
def dxDecode (dx8 : Bool) (code ea eb : Nat) : FVal :=
  if ea = 0xFF ∨ eb = 0xFF then .qnan
  else
    let m := code % 2 ^ dxMag dx8
    let e := if code.testBit (dxMag dx8) then eb else ea
    if m = 0 then .fin false 0 0 else .fin (code.testBit (dxMag dx8 + 1)) m ((e : Int) - dxBias dx8)

/-- Elements of `n` bits packed from bit 0 up (R110). -/
def packElems (n : Nat) : List Nat → Nat
  | [] => 0
  | c :: cs => c % 2 ^ n + packElems n cs * 2 ^ n

/-- Element k of a packed value. -/
def unpackElem (n v k : Nat) : Nat := v >>> (n * k) % 2 ^ n

/-! ## Quantisation -/

/-- The FP32 codes of a block are all finite; all are zero. -/
def blockFinite (l : List Nat) : Bool := l.all fun c => match f32.decode c with | .fin _ _ _ => true | _ => false
def blockZero (l : List Nat) : Bool := l.all fun c => c % 2 ^ 31 == 0

/-- The magnitude m * 2^e rounded to the precision of a format, in units of its smallest subnormal, without a limit on
the exponent (R122). -/
def rndUnits (f : Fmt) (rm : Rm) (neg : Bool) (m : Nat) (e : Int) : Nat :=
  let emin : Int := 1 - (f.bias : Int) - f.mb
  if m = 0 then 0
  else
    let q := max ((Nat.log2 m : Int) + e - f.mb) emin
    roundAt rm neg m e false q <<< (q - emin).toNat

/-- The largest finite value of a format in the same units. -/
def maxUnits (f : Fmt) : Nat :=
  match f.decode f.maxCode with
  | .fin _ m e => m <<< (e - (1 - (f.bias : Int) - f.mb)).toNat
  | _ => 0

/-- Sign, significand and exponent of a finite FP32 code. -/
def partsOf (c : Nat) : Bool × Nat × Int :=
  match f32.decode c with
  | .fin s m e => (s, m, e)
  | _ => (false, 0, 0)

/-- The scale byte and the 32 element codes of an MX block (R121, R122). -/
def mxQuant (f : Fmt) (rm : Rm) (l : List Nat) : Nat × List Nat :=
  if !blockFinite l then (0xFF, l.map fun _ => 0)
  else if blockZero l then (0x7F, l.map fun _ => 0)
  else
    let emax : Int := if f = .e4m3 then 8 else 2
    let top := (l.map fun c => let p := partsOf c; if p.2.1 = 0 then (-1000 : Int) else (Nat.log2 p.2.1 : Int) + p.2.2)
    let e0 := top.foldl max (-1000) - emax
    let tooBig := l.any fun c => let p := partsOf c; maxUnits f < rndUnits f rm p.1 p.2.1 (p.2.2 - e0)
    let e1 := if tooBig then e0 + 1 else e0
    let sc := (max 0 (min (e1 + 127) 254)).toNat
    (sc, l.map fun c =>
      let p := partsOf c
      let q := f.round rm true p.1 p.2.1 (p.2.2 - ((sc : Int) - 127)) false
      if q % f.signBit = 0 then 0 else q)

/-- The rounded magnitude of an element at exponent E of a DX block. -/
def dxRnd (dx8 : Bool) (rm : Rm) (c : Nat) (e : Nat) : Nat :=
  let p := partsOf c
  if p.2.1 = 0 then 0 else roundAt rm p.1 p.2.1 (p.2.2 + dxBias dx8 - e) false 0

/-- The required exponent r(x) (R123). -/
def dxNeed (dx8 : Bool) (rm : Rm) (c : Nat) : Nat :=
  ((List.range 255).find? fun e => dxRnd dx8 rm c e ≤ dxMax dx8).getD 254

/-- The element's code at the better of two exponents, ties to EA (R123). -/
def dxCode (dx8 : Bool) (rm : Rm) (ea eb c : Nat) : Nat :=
  let p := partsOf c
  let lo : Int := min p.2.2 (min ((ea : Int) - dxBias dx8) ((eb : Int) - dxBias dx8))
  let x : Int := (p.2.1 <<< (p.2.2 - lo).toNat : Nat)
  let mag (e : Nat) : Nat := min (dxRnd dx8 rm c e) (dxMax dx8)
  let err (e : Nat) : Nat := (x - (mag e <<< ((e : Int) - dxBias dx8 - lo).toNat : Nat)).natAbs
  let selB := decide (err eb < err ea)
  let m := if selB then mag eb else mag ea
  (if p.1 && m != 0 then 2 ^ (dxMag dx8 + 1) else 0) + (if selB then 2 ^ dxMag dx8 else 0) + m

/-- EA, EB and the 32 element codes of a DX block (R121, R123). -/
def dxQuant (dx8 : Bool) (rm : Rm) (l : List Nat) : Nat × Nat × List Nat :=
  if !blockFinite l then (0xFF, 0xFF, l.map fun _ => 0)
  else if blockZero l then (0x7F, 0x7F, l.map fun _ => 0)
  else
    let rs := (l.filter fun c => c % 2 ^ 31 != 0).map (dxNeed dx8 rm)
    let ea := rs.foldl max 0
    let below := rs.filter (· < ea)
    let eb := if below = [] then ea else below.foldl max 0
    (ea, eb, l.map (dxCode dx8 rm ea eb))

/-- The register that `vquant` writes from 64 FP32 lanes (R280). -/
def quantReg (t : QTy) (rm : Rm) (l : List Nat) : Nat :=
  let a := l.take 32
  let b := l.drop 32
  let mx (f : Fmt) : Nat :=
    let qa := mxQuant f rm a
    let qb := mxQuant f rm b
    packElems f.bits qa.2 + packElems f.bits qb.2 * 2 ^ (32 * f.bits) + qa.1 * 2 ^ 1024 + qb.1 * 2 ^ 1032
  let dx (dx8 : Bool) : Nat :=
    let blk (l : List Nat) : Nat :=
      let q := dxQuant dx8 rm l
      q.1 + q.2.1 * 2 ^ 8 + packElems (dxBits dx8) q.2.2 * 2 ^ 16
    blk a + blk b * 2 ^ (16 + 32 * dxBits dx8)
  match t with
  | .mx8 => mx .e4m3
  | .mx6 => mx .e2m3
  | .mx4 => mx .e2m1
  | .dx8 => dx true
  | .dx4 => dx false

/-- Lane i of what `vdeq` writes from a register in the layout of R280, before rounding (R281). -/
def dequant (t : QTy) (v i : Nat) : FVal :=
  let mx (f : Fmt) : FVal :=
    mxDecode f (unpackElem f.bits v i) (v >>> (1024 + 8 * (i / 32)) % 256)
  let dx (dx8 : Bool) : FVal :=
    let b := v >>> ((16 + 32 * dxBits dx8) * (i / 32))
    dxDecode dx8 (unpackElem (dxBits dx8) (b >>> 16) (i % 32)) (b % 256) (b >>> 8 % 256)
  match t with
  | .mx8 => mx .e4m3
  | .mx6 => mx .e2m3
  | .mx4 => mx .e2m1
  | .dx8 => dx true
  | .dx4 => dx false

/-! ## The rescaling triple (R131): a list m, s, v... of FP32 codes -/

def negF32 (a : Nat) : Nat := a ^^^ 2 ^ 31
def mulF32 (a b : Nat) : Nat := f32.encode .rne false ((f32.decode a).mul (f32.decode b))
def negInf : Nat := 0xFF800000

/-- The weight of a term; none when its m is -infinity. -/
def tripleWeight (m mi : Nat) : Option (Option Nat) :=
  if mi = negInf then none
  else if f32.compare mi m = some .eq then some none
  else some (some (tfun .exp2 .rne (addF32 mi (negF32 m))))

/-- A weighted element: `none` stands for weight 1. -/
def weighted (w : Option Nat) (x : Nat) : Nat := match w with | none => x | some k => mulF32 x k

/-- The combination of two triples of one length, left then right (R131). -/
def rescale (l r : List Nat) : List Nat :=
  let m1 := l.headD 0
  let m2 := r.headD 0
  if (f32.decode m1).isNan || (f32.decode m2).isNan then l.map fun _ => f32.nanCode
  else
    let m := f32.minmax true m1 m2
    match tripleWeight m m1, tripleWeight m m2 with
    | none, none => negInf :: (l.drop 1).map fun _ => 0
    | some _, none => l
    | none, some _ => r
    | some w1, some w2 => m :: List.zipWith (fun a b => canon (addF32 (weighted w1 a) (weighted w2 b))) (l.drop 1) (r.drop 1)

/-- A reduction operator on two elements (R130). -/
def foldElem (op a b : Nat) : Nat :=
  match op with
  | 0 => canon (addF32 a b)
  | 1 => f32.minmax true a b
  | 2 => f32.minmax false a b
  | _ => (a + b) % 2 ^ 32

/-- A reduction of two contributions, left then right (R130). -/
def foldPair (op : Nat) (l r : List W32) : List W32 :=
  if op = 4 then (rescale (l.map (·.toNat)) (r.map (·.toNat))).map (BitVec.ofNat 32 ·)
  else List.zipWith (fun a b => BitVec.ofNat 32 (foldElem op a.toNat b.toNat)) l r

end Sys2Proof.Machine
end

