-- ==== Sys2Proof/Machine/Control.lean ====
section
/-! DEFINITION. Control instructions (R241 to R247), the wait for a thread's prior accesses (R100, R265), and when a
parked thread's wait is over (R54). -/

namespace Sys2Proof.Machine

open Bits

/-! ## Waiting for prior accesses -/

/-- Matrix commands of a hardware thread that are not complete (R303). -/
def Dom.matOf (d : Dom) (h : Nat) : Nat := (d.mq.filter fun c => c.hw == h).length

/-- Every prior access of the thread has performed, its matrix commands' accesses included (R100, R292). -/
def State.priorDone (s : State) (T h : Nat) : Bool :=
  (s.thread T h).outst.isEmpty && (s.dom T (s.domNo T h)).matOf h == 0

/-- The thread's matrix commands have read their operands (R291, R292). -/
def Dom.readsDone (d : Dom) (h : Nat) : Bool := d.mq.all fun c => c.hw != h || c.fini

/-- Runs `f` once every prior access of the issuing thread has performed; parks until then (R100, R265). -/
def State.afterPrior (s : State) (i : Instr) (f : State → State) : State :=
  if s.priorDone s.cur.1 s.cur.2 then f s else s.park i .prior

/-- The first failed matrix command of the thread, if any, raises data lost (R344). -/
def State.matFail (s : State) (f : State → State) : State :=
  match s.me.mfail with
  | [] => f s
  | pc :: _ => (s.modMe fun t => { t with mfail := t.mfail.drop 1 }).raise 0x13 pc

/-! ## Transfers of control -/

/-- A transfer to `t`: its code-range check comes last (R354). -/
def State.jump (s : State) (t : W64) (f : State → State) : State :=
  if t.toNat < s.myDom.codeSize then (f s).goto t else s.raise 0x17 t

/-- The target of a word offset (R242). -/
def State.target (s : State) (off : BitVec 45) : W64 := s.me.pc + off.signExtend 64 * 8

/-- A word with OP 0 is never an instruction: illegal opcode, whatever its guard field holds (R241, R345). -/
def execIll (rest : BitVec 56) (s : State) : Host.Outcome State Fault Refusal :=
  .next (s.raise 0x01 (encode (.ill rest)))

def execNop (g : Guard) (s : State) := regInstr (.nop g) g [] id s

def execBr (g : Guard) (off : BitVec 45) (s : State) : Host.Outcome State Fault Refusal :=
  .next (s.issue (.br g off) g [] true 0 fun s => s.jump (s.target off) id)

def execCall (g : Guard) (d : XReg) (off : BitVec 45) (s : State) : Host.Outcome State Fault Refusal :=
  .next (s.issue (.call g d off) g [d] true 0 fun s =>
    s.jump (s.target off) fun s => s.wx d (s.me.pc + 8))

/-- `jr`: the target is x[a] as held at issue; unaligned comes before code range (R242, R354). -/
def execJr (g : Guard) (d a : XReg) (s : State) : Host.Outcome State Fault Refusal :=
  .next (s.issue (.jr g d a) g [d, a] true 0 fun s =>
    let t := s.rx a
    if t.toNat % 8 ≠ 0 then s.raise 0x05 t else s.jump t fun s => s.wx d (s.me.pc + 8))

/-- `loop`: branches while the decremented counter is nonzero; with x0 it always branches (R243). -/
def execLoop (g : Guard) (d : XReg) (off : BitVec 45) (s : State) : Host.Outcome State Fault Refusal :=
  .next (s.issue (.loop g d off) g [d] true 0 fun s =>
    let c := s.rx d - 1
    s.jump (if c = 0 then s.me.pc + 8 else s.target off) fun s => s.wx d c)

/-- `waitc`: completes at once when TIME has reached the target, and parks otherwise (R244). -/
def execWaitc (g : Guard) (d a : XReg) (imm : BitVec 32) (s : State) : Host.Outcome State Fault Refusal :=
  .next (s.issue (.waitc g d a imm) g [d, a] true 0 fun s =>
    s.ranged fun s =>
      let t := s.rx a + imm.setWidth 64
      if t.toNat ≤ s.time.toNat then (s.wx d s.time).advance else s.park (.waitc g d a imm) (.waitc t))

/-- `yield`: retires, and the thread stays out until the next rotation boundary (R245). -/
def execYield (g : Guard) (s : State) : Host.Outcome State Fault Refusal :=
  .next (s.issue (.yield g) g [] true 0 fun s =>
    s.ranged fun s => s.advance.modMe fun t => { t with yielded := true })

/-- Every started thread of the domain has executed `sdone` or `exit` (R36). -/
def State.threadsDone (s : State) (T d : Nat) : Bool :=
  let dm := s.dom T d
  (List.range dm.nThreads).all fun i => (s.thread T (dm.thrFirst + i)).run == .done

/-- The thread is done for this step; when it is the last, the tile's stage-done event follows (R36, R246, R265). -/
def State.threadDone (s : State) : State :=
  let s' := s.advance.modMe fun t => { t with run := .done }
  if s'.threadsDone s.cur.1 s.myDomNo then s'.post (.stageDone s.cur.1 s.myDomNo) else s'

/-- `exit` and `sdone` (R246, R265): a failed matrix command is reported before the code range is checked (R354); then they
wait for prior accesses, after which a command that has failed meanwhile is found, and end the step. -/
def State.endStep (s : State) (i : Instr) : State :=
  s.matFail fun s => s.ranged fun s => s.afterPrior i fun s => s.threadDone

def execExit (g : Guard) (s : State) : Host.Outcome State Fault Refusal :=
  .next (s.issue (.exit g) g [] true 0 fun s => s.endStep (.exit g))

def execSdone (g : Guard) (s : State) : Host.Outcome State Fault Refusal :=
  .next (s.issue (.sdone g) g [] true 0 fun s => s.endStep (.sdone g))

/-- A breakpoint traps at every privilege (R247, R351). -/
def execBrk (g : Guard) (imm : BitVec 32) (s : State) : Host.Outcome State Fault Refusal :=
  .next (s.issue (.brk g imm) g [] true 0 fun s => s.raise 0x14 (imm.setWidth 64))

/-- `trap`: a software trap at user privilege (R247); above it the thread stops and escalates, and after request 0 it is
owed an acknowledgement, which resumes it (R351). -/
def execTrap (g : Guard) (imm : BitVec 32) (s : State) : Host.Outcome State Fault Refusal :=
  .next (s.issue (.trap g imm) g [] true 0 fun s =>
    if s.me.priv = 0 then s.raise 0x15 (imm.setWidth 64)
    else s.ranged fun s =>
      let s' := s.escalate s.cur.1 s.myDomNo s.cur.2 0x33 (fld imm 0 2) (imm.extractLsb' 2 30 |>.setWidth 64)
        (s.me.pc.setWidth 32)
      s'.modMe fun t => { t with run := .stopped, readyAt := s.tcycle + 8, owed := fld imm 0 2 == 0 })

/-! ## When a parked thread may issue again (R54) -/

/-- Waits that end at the tile alone, without an answer from elsewhere (R356). A full-empty wait is withdrawn at its
word. -/
def Wait.withdrawable : Wait → Bool
  | .reply | .ctx _ | .fe _ => false
  | _ => true

/-- A thread that `ctxsave` waits for: no instruction in flight, every access performed (R320). -/
def State.quiet (s : State) (T h : Nat) : Bool :=
  s.priorDone T h && !(s.dom T (s.domNo T h)).vq.any (·.1 == h) &&
    match (s.thread T h).run with
    | .parked _ _ | .entering _ => false
    | _ => true

/-- Whether a wait that is tested at each cycle is over; the others end with an event. -/
def State.waitOver (s : State) (T h : Nat) (w : Wait) : Bool :=
  let d := s.domNo T h
  let dm := s.dom T d
  match w with
  | .mat n => dm.matOf h ≤ n
  | .mqueue => dm.mq.length < 16
  | .pqueue p => (s.port T p).queue.length < 4
  | .port p k =>
    let q := s.port T p
    (q.queue ++ q.cur.toList).all fun x => x.cmd.iss.dom != d || k ≤ x.ticket
  | .nic => (s.priorDone T h && dm.held.length < 4) || dm.held.any fun x => x.since + 0x10000 ≤ s.mcycle
  | .loads => dm.readsDone h
  | .prior => s.priorDone T h
  | .same => (s.thread T h).outst.isEmpty
  | .ctx k => s.quiet T k
  | .wslot n => (s.slot T n).full || (s.slot T n).lost
  | _ => false

/-- The thread may issue in the present tile cycle (R54). -/
def State.canIssue (s : State) (T h : Nat) : Bool :=
  let t := s.thread T h
  t.readyAt ≤ s.tcycle && !t.yielded && !t.saving && !(s.dom T (s.domNo T h)).vq.any (·.1 == h) &&
    match t.run with
    | .ready => true
    | .parked w _ => s.waitOver T h w || (t.overrun && w.withdrawable)
    | _ => false

end Sys2Proof.Machine
end

