-- ==== Sys2Proof/Machine/Access.lean ====
section
/-! DEFINITION. A thread's memory access, from issue to retirement: where each element goes (R61 to R67, R438), the
checks made at issue (R354), order (R97 to R100), the accesses performed at the issuing tile, and the requests sent to
other homes (R135). -/

namespace Sys2Proof.Machine

open Bits

/-! ## Homes of physical addresses -/

/-- The bucket of a shared line (R80, R81). -/
def State.sharedBucket (s : State) (a : Nat) : Nat :=
  let r := s.reg (controlReg 0x280)
  let h := (a >>> 7 % 4096) ^^^ (a >>> 19 % 4096) ^^^ (a >>> 31 % 4096) ^^^ (a >>> 43 % 16)
  fld r 0 12 + h % Nat.max 1 (fld r 16 13)

/-- The bucket of a line of a job's own pages (R80). -/
def jobBucket (first count a : Nat) : Nat :=
  let h := (a >>> 7 % 4096) ^^^ (a >>> 19 % 4096) ^^^ (a >>> 31 % 4096) ^^^ (a >>> 43 % 16)
  first + h % Nat.max 1 count

/-- The station whose slice serves a bucket: that of its entry, or the new one once a move has flushed it (R79, R82). -/
def State.bucketStation (s : State) (b : Nat) : Nat :=
  let old := Table.get (b % 64) s.buckets b
  match s.move with
  | some m => if m.bucket = b ∧ m.state = 1 then m.new else old
  | none => old

/-- The station that a copy of the bucket table names: copy n is station n's, copy 64 + T that of tile T's network
interface (R79, R82). -/
def State.bucketCopy (s : State) (copy b : Nat) : Nat :=
  let old := Table.get (b % 64) s.buckets b
  match s.move with
  | some m => if m.bucket = b ∧ m.state = 1 ∧ (copy < m.told ∨ m.own.contains copy) then m.new else old
  | none => old

/-- The translation station of a page (R71). -/
def xlatStation (pid va : Nat) : Nat :=
  (pid % 64) ^^^ (va >>> 16 % 64) ^^^ (va >>> 22 % 64) ^^^ (va >>> 28 % 64) ^^^ (va >>> 34 % 64) ^^^
    (va >>> 40 % 64) ^^^ (va >>> 46 % 64) ^^^ (va >>> 52 % 8)

/-- The block at which a device-window access of this module is carried out, by a copy of the bucket table (R67, R70,
R79). -/
def State.physNode (s : State) (copy pa : Nat) : Node :=
  match placeOf pa with
  | .dram a => .station (s.bucketCopy copy (s.sharedBucket a))
  | .store t _ => s.nodeOf t
  | .host k _ => .service k
  | .regs a => s.regNode a
  | .none => .service 0

/-! ## What an instruction asks of memory -/

/-- An access as its instruction gives it: whether the thread waits for a value, and the windows accepted besides
private, local and shared (R248). -/
structure Plan where
  kind  : AccKind
  load  : Bool
  elems : List Elem
  glob  : Bool
  sad   : Bool
  dev   : Bool
  o     : Order

/-- Atomics and full-empty operations need PERM_MASK bit 2 (R65). -/
def isAtomic : AccKind → Bool
  | .read | .write => false
  | _ => true

/-- Where an element's access goes; `deny` makes no access and gives the cause. -/
inductive Route where
  | own (off : Nat)
  | shared (t off : Nat)
  | glob (va : Nat)
  | phys (pa : Nat)
  | deny (c : Nat)
deriving DecidableEq, Repr

/-- The registers that a thread of a job with JOB_PRIV = 0 reaches (R438); `v` is the value written, or read. -/
def State.regReach (s : State) (d : Dom) (dn : Nat) (a : Nat) (v : W64) : Bool :=
  match blockOf a with
  | (.tile t, off) =>
    d.tileInFabric t && (off / 8 * 8 == 0x100 + 8 * dn || off / 8 * 8 == 0x140 + 8 * dn)
  | (.station n, off) => reach (s.station n).graphs (s.station n).faults off
  | (.port p, off) => reach (s.portSt p).graphs [] off
  | _ => false
where
  /-- Offsets of a station's or a port station's block. -/
  reach (gs : Tbl Graph) (fs : Tbl (Option EngFault)) (off : Nat) : Bool :=
    let mine (k : Nat) : Bool :=
      let g := Table.get Graph.reset gs k
      g.loaded && fld g.header 16 16 == d.pid
    if off / 8 * 8 = 0xF20 then
      match Table.get none fs (fld v 0 4) with
      | some f => f.pid == d.pid
      | none => false
    else if off / 8 * 8 = 0x200 then
      let k := fld v 59 4
      !(Table.get Graph.reset gs k).loaded || mine k
    else if off / 8 * 8 = 0x208 then mine (fld v 0 4)
    else if 0x2000 ≤ off ∧ off < 0x4000 then mine ((off - 0x2000) / 0x200)
    else if 0x6000 ≤ off ∧ off < 0x8000 then mine ((off - 0x6000) / 0x200)
    else if 0x8000 ≤ off ∧ off < 0xA000 then mine ((off - 0x8000) / 0x200)
    else false

/-- What a thread of domain `dn` of a tile reaches through the device window at a privilege (R67, R438). -/
def State.devReachAs (s : State) (d : Dom) (dn priv : Nat) (pa : Nat) (isWrite : Bool) (v : W64) : Bool :=
  d.jobPriv || priv ≥ 2 ||
    (moduleOf pa == s.module.toNat &&
      match placeOf pa with
      | .store t _ => d.tileInFabric t
      | .regs a => s.regReach d dn a (if isWrite then v else s.regValue (a / 8 * 8))
      | _ => false)

/-- What the issuing thread may reach through the device window. -/
def State.devReach (s : State) (pa : Nat) (isWrite : Bool) (v : W64) : Bool :=
  s.devReachAs s.myDom s.myDomNo s.me.priv.toNat pa isWrite v

/-- A device-window element (R67, R354, R438). -/
def State.devRoute (s : State) (p : Plan) (e : Elem) : Except Nat Route :=
  let pa := physOf e.loc
  match placeOf pa with
  | .none => if p.load then .error 0x06 else .ok (.deny 0x06)
  | pl =>
    let host := match pl with | .host _ _ => true | _ => false
    let regs := match pl with | .regs _ => true | _ => false
    if regs && isAtomic p.kind then .error 0x06
    else if s.me.priv = 0 then .error 0x04
    else if (host && isAtomic p.kind) || !s.devReach pa (p.kind == .write) e.data then .ok (.deny 0x0B)
    else .ok (.phys pa)

/-- Where an element goes, or the issue-time cause that it raises (R62 to R67, R354). -/
def State.routeOf (s : State) (p : Plan) (e : Elem) : Except Nat Route :=
  let d := s.myDom
  let a := e.loc
  let n := e.size
  if a.toNat % n ≠ 0 then .error 0x05
  else match windowOf a with
    | .none => .error 0x06
    | .global => if p.glob then .ok (.glob (fld a 0 55)) else .error 0x06
    | .priv =>
      let b := d.privAt s.me.idx + offOf a
      if offOf a + n ≤ d.privSize ∧ b + n ≤ 0xC00000 then .ok (.own b) else .error 0x09
    | .saddle =>
      if !p.sad then .error 0x06
      else if saddleOff a + n ≤ d.saddleSize then .ok (.own (d.saddleActive + saddleOff a)) else .error 0x09
    | .loc =>
      if tileOf a ≠ s.cur.1 then .error 0x07
      else if d.holds (offOf a) n then .ok (.own (offOf a)) else .error 0x09
    | .shr =>
      if 0xC00000 < offOf a + n then .error 0x09
      else if d.inFabric (fabOf a) then .ok (.shared (d.tileOfF (fabOf a)) (offOf a)) else .error 0x08
    | .dev => if p.dev then s.devRoute p e else .error 0x06

def causeOf : Except Nat Route → Nat
  | .error c => c
  | .ok _ => 0

/-- The first issue-time cause in the order of R354, with its TRAP_VAL: the element of lowest number that meets it. -/
def State.issueCause (s : State) (p : Plan) : Option (Nat × W64) :=
  [0x05, 0x06, 0x04, 0x07, 0x09, 0x08].findSome? fun c =>
    (p.elems.find? fun e => causeOf (s.routeOf p e) == c).map fun e => (c, e.addr)

/-! ## Order within the thread (R97, R100) -/

/-- The number under which a location is compared with others of the thread: a virtual address, or 2^55 plus a physical
address. -/
def State.locNo (s : State) (r : Route) : Nat :=
  match r with
  | .own off => 2 ^ 55 + lsAddr s.cur.1 off
  | .shared t off => 2 ^ 55 + lsAddr t off
  | .glob va => va
  | .phys pa => 2 ^ 55 + (if moduleOf pa = s.module.toNat then pa % 2 ^ 47 else pa)
  | .deny _ => 2 ^ 60

/-- Two accesses may reach a common byte: by their physical addresses, or, when one of them is still to be translated,
by their offsets within 64 KiB (R72, R97). -/
def mayMeet (a n b m : Nat) : Bool :=
  if 2 ^ 55 ≤ a ∧ 2 ^ 55 ≤ b then a < b + m && b < a + n
  else
    let isStore (x : Nat) : Bool := 2 ^ 55 + 0x700000000000 ≤ x && x < 2 ^ 55 + 0x700800000000
    !isStore a && !isStore b && a % 65536 < b % 65536 + m && b % 65536 < a % 65536 + n

/-- An earlier access of the thread to a common location has not performed (R97). -/
def State.clash (s : State) (rs : List (Elem × Route)) : Bool :=
  s.me.outst.any fun x => rs.any fun r => mayMeet x.addr.toNat x.size (s.locNo r.2) r.1.size

/-- Adds an access that has not performed; gives its number. -/
def Thread.addOut (t : Thread) (addr size : Nat) (wait : Bool) : Thread :=
  { t with outst := t.outst ++ [⟨t.seq, BitVec.ofNat 64 addr, size, wait⟩], seq := t.seq + 1 }

/-- The issuer data of the issuing thread's next access. -/
def State.issuer (s : State) (wait : Bool) : Issuer :=
  { tile := s.cur.1, dom := s.myDomNo, hw := s.cur.2, priv := s.me.priv.toNat, pc := s.me.pc, seq := s.me.seq,
    wait := wait }

def noAccess (k : AccKind) (es : List Elem) (i : Issuer) : Access :=
  { kind := k, elems := es, iss := i, phys := true, cache := 0, shr := true, dev := true, retried := false }

/-- Reads on every PCIe link with posted writes of the thread not yet flushed (R70, R100). -/
def State.sendFlushes (s : State) : State :=
  let f (s : State) (k : Nat) : State :=
    if bit s.me.unfl k then
      let m := s.tileMsg s.cur.1 s.myDomNo 0x01 (.service k) s.me.seq (.access (noAccess .read [] (s.issuer false)))
      (s.modMe fun t => { t.addOut (2 ^ 61) 0 false with unfl := put t.unfl k 1 0 }).send m
    else s
  [0, 1, 2, 3].foldl f s

/-- Holds an access until what its order, or an earlier acquire, waits for has performed (R100). -/
def State.gate (s : State) (i : Instr) (o : Order) (f : State → State) : State :=
  let rel := o.ord = .rel ∨ o.ord = .ar
  if (rel ∨ s.me.hold) ∧ ¬ s.priorDone s.cur.1 s.cur.2 then s.park i .prior
  else if rel ∧ o.sc = 6 ∧ s.me.unfl ≠ 0 then s.sendFlushes.park i .prior
  else f s

/-! ## At the local store (R84, R86, R369) -/

/-- The new value of an atomic (R257). -/
def amoNew (op : AmoOp) (n old v cmp : Nat) : Nat :=
  let w := 8 * n
  match op with
  | .add => (old + v) % 2 ^ w
  | .min => if sOf w v < sOf w old then v else old
  | .max => if sOf w old < sOf w v then v else old
  | .minw => if v < old then v else old
  | .maxw => if old < v then v else old
  | .and => old &&& v
  | .or => old ||| v
  | .xor => old ^^^ v
  | .swap => v
  | .fadd => addF32 old v
  | .cas => if old = cmp then v else old

/-! ## Words under SEC-DED (R369) -/

def onesIn (p : BitVec 72) : Nat := ((List.range 72).filter fun i => bit p i).length

/-- Bits of a word flip: two wrong bits fail its check. -/
def State.flipWord (s : State) (key : Nat) (p : BitVec 72) : State :=
  let q := Table.get 0 s.flips key ^^^ p
  let rest := s.bad.filter fun w => w != key
  { s with flips := Table.set 0 s.flips key q, bad := if 2 ≤ onesIn q then rest ++ [key] else rest }

/-- The words that `f` picks are written whole or gone: they have fresh checks. -/
def State.freshWords (s : State) (f : Nat → Bool) : State :=
  if s.bad.isEmpty && s.flips.isEmpty then s
  else { s with bad := s.bad.filter fun w => !f w, flips := Table.erase (fun k _ => f k) s.flips }

/-- The words that `f` picks are read: one-bit errors among them are corrected and counted; `rewrite` puts the corrected
words back (R369, R376). -/
def State.scrub (s : State) (f : Nat → Bool) (rewrite : Bool) : State :=
  if s.flips.isEmpty then s
  else
    let hit (k : Nat) : Bool := f k && !s.bad.contains k
    let n := (s.flips.filter fun e => hit e.1).length
    { s with fixed := s.fixed + n, flips := if rewrite then Table.erase (fun k _ => hit k) s.flips else s.flips }

/-- A word touches a range of local store. -/
def inStore (T off n : Nat) (w : Nat) : Bool := lsAddr T off / 8 ≤ w && w ≤ (lsAddr T off + n - 1) / 8

/-- A range of local store holds a word that has failed its check (R369). -/
def State.lsBad (s : State) (T off n : Nat) : Bool :=
  s.bad.any (inStore T off n)

/-- A write of local store; a word written whole has a fresh check (log 21). -/
def State.lsStore (s : State) (T off : Nat) (b : List Byte) : State :=
  let lo := lsAddr T off
  (s.lsWrite T off b).freshWords fun w => lo ≤ 8 * w && 8 * w + 8 ≤ lo + b.length

/-- The number that a range of local store spells. -/
def State.lsNum (s : State) (T off n : Nat) : Nat := ofBytes (s.lsRead T off n)

/-- A read, a write or an atomic at a tile's local store; `none` when the data are lost (R371). -/
def State.lsAct (s : State) (T off : Nat) (k : AccKind) (e : Elem) : State × Option W64 :=
  match k with
  | .write => (s.lsStore T off (toBytes e.size e.data.toNat), some 0)
  | .amo op =>
    if s.lsBad T off e.size then (s, none)
    else
      let s := s.scrub (inStore T off e.size) false
      let old := s.lsNum T off e.size
      let v := e.data.toNat % 2 ^ (8 * e.size)
      let c := e.cmp.toNat % 2 ^ (8 * e.size)
      (s.lsStore T off (toBytes e.size (amoNew op e.size old v c)), some (BitVec.ofNat 64 old))
  | .feTest => (s, some (if s.feBit T off then 1 else 0))
  | .feSet full => (s.setFe T off full, some 0)
  | _ =>
    if s.lsBad T off e.size then (s, none)
    else (s.scrub (inStore T off e.size) false, some (BitVec.ofNat 64 (s.lsNum T off e.size)))

/-! ## Results (R250, R253, R257 to R260) -/

/-- A value of `n` bytes extended to 64 bits. -/
def extBytes (sx : Bool) (n : Nat) (v : W64) : W64 :=
  if sx then BitVec.ofInt 64 (signed (8 * n) v.toNat) else BitVec.ofNat 64 (v.toNat % 2 ^ (8 * n))

def sizeBytes : Size → Nat
  | .b1 => 1 | .b2 => 2 | .b4 => 4 | .b8 => 8

/-- Registers moved by `vld` and `vst` (R259). -/
def sizeRegs : Size → Nat
  | .b1 => 1 | .b2 => 2 | .b4 => 4 | .b8 => 8

/-- Lane `i` of a vector register replaced. -/
def setLane (v : BitVec 2048) (i : Nat) (w : W32) : BitVec 2048 := put v (32 * i) 32 w.toNat

/-- The first element's value. -/
def firstVal (got : List Elem) : W64 := match got with | [] => 0 | e :: _ => e.data

/-- What a load, a full-empty instruction or a returning atomic writes when its elements have returned; `cols` is the
width of the thread's grid. -/
def loadWrite (cols : Nat) (i : Instr) (got : List Elem) (t : Thread) : Thread :=
  let x (d : XReg) (sx : Bool) (n : Nat) : Thread := t.wx d.toNat (extBytes sx n (firstVal got))
  let lanes (d : VReg) (sx : Bool) (n : Nat) (es : List (Nat × W64)) : Thread :=
    let r := d.row.toNat * cols + d.col.toNat
    t.wvLanes r (es.foldl (fun v e => setLane v e.1 ((extBytes sx n e.2).setWidth 32)) (t.rv r))
      fun i => es.any fun e => e.1 == i
  match i with
  | .ld _ sx sz _ d _ => x d sx (sizeBytes sz)
  | .ldfe _ _ _ d _ => x d false 8
  | .fetest _ _ d _ => x d false 8
  | .amoadd _ sx sz _ _ d _ => x d sx (sizeBytes sz)
  | .amomin _ sx sz _ _ d _ => x d sx (sizeBytes sz)
  | .amomax _ sx sz _ _ d _ => x d sx (sizeBytes sz)
  | .amominw _ sx sz _ _ d _ => x d sx (sizeBytes sz)
  | .amomaxw _ sx sz _ _ d _ => x d sx (sizeBytes sz)
  | .amoand _ sx sz _ _ d _ => x d sx (sizeBytes sz)
  | .amoor _ sx sz _ _ d _ => x d sx (sizeBytes sz)
  | .amoxor _ sx sz _ _ d _ => x d sx (sizeBytes sz)
  | .amoswap _ sx sz _ _ d _ => x d sx (sizeBytes sz)
  | .amofadd _ _ _ d _ => x d false 4
  | .amocas _ sx sz _ d _ => x d sx (sizeBytes sz)
  | .repart _ d _ _ => x d false 8
  | .slotw _ d _ _ => x d false 8
  | .jkill _ d _ => x d false 8
  | .vld _ _ _ d _ =>
    got.foldl (fun t e =>
      let r := d.row.toNat * cols + d.col.toNat + e.key / 32
      t.wvLanes r (put (t.rv r) (64 * (e.key % 32)) 64 e.data.toNat) fun i => i / 2 == e.key % 32) t
  | .vldg _ sx sz _ _ d _ _ _ => lanes d sx (sizeBytes sz) (got.map fun e => (e.key, e.data))
  | .vldt _ sx sz _ _ d _ => lanes d sx (sizeBytes sz) (got.map fun e => (e.key, e.data))
  | .vldb _ sx sz mk _ d _ =>
    lanes d sx (sizeBytes sz) (((List.range 64).filter fun i => bit (t.rm mk.toNat) i).map fun i => (i, firstVal got))
  | _ => t

/-- The order in which causes found at the same time are taken (R354). -/
def causeOrder : List Nat := [0x05, 0x06, 0x04, 0x07, 0x09, 0x08, 0x18, 0x0C, 0x0A, 0x0B, 0x10, 0x13]

/-- The cause taken of those found. -/
def firstBad (bad : List (Nat × W64)) : Nat × W64 :=
  (causeOrder.findSome? fun c => bad.find? fun b => b.1 == c).getD (0x13, 0)

/-! ## Requests to other homes -/

/-- The next block of an element that leaves the tile, the module it is for, and its location there (R65, R67, R71). -/
def State.hopOf (s : State) (e : Elem) (r : Route) : Option (Node × Nat × Bool × Elem) :=
  let own := s.module.toNat
  match r with
  | .shared t off => some (s.nodeOf t, own, false, { e with loc := BitVec.ofNat 64 (lsAddr t off) })
  | .glob va => some (.station (xlatStation s.myDom.pid va), own, false, { e with loc := BitVec.ofNat 64 va })
  | .phys pa => some (s.physNode (64 + s.cur.1) pa, moduleOf pa, true, { e with loc := BitVec.ofNat 64 pa })
  | _ => none

/-- A request under construction: where it goes and its elements, all of one 128-byte line. -/
structure Req where
  dst   : Node
  mod   : Nat
  dev   : Bool
  line  : Nat
  elems : List Elem

/-- Adds an element to the request for its line. -/
def addReq (rs : List Req) (h : Node × Nat × Bool × Elem) : List Req :=
  let e := h.2.2.2
  let l := e.loc.toNat / 128
  match rs with
  | [] => [⟨h.1, h.2.1, h.2.2.1, l, [e]⟩]
  | r :: rest =>
    if r.line = l ∧ r.dst = h.1 ∧ r.mod = h.2.1 then { r with elems := r.elems ++ [e] } :: rest else r :: addReq rest h

/-- Message types of requests (R135); a device-window store to a register is a configuration write. -/
def reqType (k : AccKind) : Nat :=
  match k with
  | .read => 0x01
  | .write => 0x02
  | _ => 0x03

/-- The prefix of an answer to a message. -/
def backAway (m : Msg) : Option Away := m.away.map fun a => ⟨a.dst, a.src, none⟩

/-- A reply message to a request (R135, R384): TYPE plus 7, the status in ARG[31:24]. -/
def replyTo (m : Msg) (src : Node) (status cause : Nat) (ea : W64) (elems : List Elem) (iss : Issuer) : Msg :=
  { m with typ := if m.typ = 0x05 ∨ m.typ = 0x06 then 0x09 else m.typ + 7, src := src, dst := m.src,
           arg := BitVec.ofNat 32 (m.arg.toNat % 2 ^ 16 + status * 2 ^ 24), away := backAway m,
           pay := .reply ⟨status, cause, ea, elems, iss⟩ }

/-- The port that a block numbered n uses for a set of ports: the k-th of them, k = n mod their number (R189). -/
def portFor (n ports : Nat) : Nat :=
  let l := onesOf ports 48
  (l[n % Nat.max 1 l.length]?).getD 0

/-- Payload bytes of a message, where a rule gives its payload; of a request or reply its elements' data, or 8 bytes of
address each (R134, log 140). -/
def paySize : Payload → Nat
  | .none | .back _ _ _ | .ctrl (.ready _ _ _) | .ctrl (.release _ _ _ _) | .ctrl (.start _ _) | .ctrl (.overrun _ _) | .ctrl (.abort _ _ _) => 0
  | .ctrl (.marker _ _ _ _ _ _ _) | .ctrl (.done _ _ _ _ _) | .config _ _ _ _ => 8
  | .access a => match a.kind with | .read => 8 * a.elems.length | _ => 16 * a.elems.length
  | .reply r => 8 * r.elems.length
  | .eng _ | .launch _ _ => 64
  | .bytes b => b.length
  | .bulk b _ _ _ => b.length
  | .words _ _ | .post _ _ _ _ => 16
  | .elems w => 4 * w.length
  | .done _ _ _ _ => 18

/-- BYTES of a message, at most 1,008, and its flits: the smallest count that holds them behind the 16-byte header (R134). -/
def msgBytes (m : Msg) : Nat := Nat.min (paySize m.pay) 1008
def msgFlits (m : Msg) : Nat := if msgBytes m ≤ 48 then 1 else 1 + (msgBytes m + 15) / 64

/-- A message class: 0 Q, 1 P, 2 G, 3 S (R135). -/
def classOf (typ : Nat) : Nat :=
  if typ < 8 ∨ 0x20 ≤ typ then 0 else if typ < 0x10 then 1 else if typ < 0x18 then 2 else 3

/-- The 16-byte header of a message, as the sending block writes it (R134). -/
def msgHeader (m : Msg) : BitVec 128 :=
  m.seq ++ m.stream ++ m.pid ++ m.typ ++ BitVec.ofNat 10 (msgBytes m) ++ BitVec.ofNat 4 (msgFlits m - 1) ++
    BitVec.ofNat 2 (classOf m.typ.toNat) ++ BitVec.ofNat 2 (nodeKind m.dst) ++ BitVec.ofNat 7 (nodeX m.dst) ++
    BitVec.ofNat 5 (nodeY m.dst) ++ BitVec.ofNat 2 (nodeKind m.src) ++ BitVec.ofNat 7 (nodeX m.src) ++
    BitVec.ofNat 5 (nodeY m.src) ++ m.sdom ++ BitVec.ofBool m.ordered ++ 0#1 ++ m.arg

/-- A message for a block of another module (R188, R189). -/
def State.abroad (s : State) (md : Nat) (m : Msg) : Msg := { m with away := some ⟨s.module.toNat, md, none⟩ }

/-- Sends one request of the issuing thread; it stands among the accesses not yet performed. -/
def State.sendReq (k : AccKind) (wait : Bool) (s : State) (r : Req) : State :=
  let a : Access := { kind := k, elems := r.elems, iss := s.issuer wait, phys := r.dev, cache := 0, shr := r.dev,
                      dev := r.dev, retried := false }
  let m := s.tileMsg s.cur.1 s.myDomNo (reqType k) r.dst (s.me.seq % 2 ^ 16) (.access a)
  let e := r.elems.headD ⟨0, 0, 0, 1, 0, 0⟩
  let lo := match r.dst with
    | .station _ => if r.dev then 2 ^ 55 + e.loc.toNat else e.loc.toNat
    | _ => 2 ^ 55 + e.loc.toNat
  let s := s.modMe fun t => t.addOut (lo / 128 * 128) 128 wait
  if r.mod = s.module.toNat then s.send m
  else s.send (s.abroad r.mod { m with dst := .station (s.cur.1 / 64) })

/-! ## Schedule-miss (R387) -/

/-- Residency records that a range of the issuing tile's local store touches and that a use of it misses: those in
progress whose M is reached (R387), and lost ones (R371). -/
def Dom.misses (d : Dom) (off n : Nat) : List Resid :=
  d.resid.filter fun r => (r.st == 2 || (r.st == 0 && r.m ≤ d.marker.toNat)) && r.lo < off + n && off < r.lo + r.len

/-- The element whose byte is not there, in progress (state 0) or lost (state 2). -/
def State.missing (s : State) (rs : List (Elem × Route)) (st : Nat) : Option Elem :=
  (rs.find? fun r =>
    match r.2 with
    | .own off => (s.myDom.misses off r.1.size).any fun x => x.st == st
    | _ => false).map (·.1)

/-- A use that misses is counted once in SM_STAT.STALLS (R387). -/
def State.countMiss (s : State) : State :=
  if s.me.missed then s
  else (s.modReg (tileReg s.cur.1 (0x140 + 8 * s.myDomNo)) fun v => satAdd v 32 32 1).modMe
    fun t => { t with missed := true }

/-! ## The access -/

/-- Performs the elements at the issuing tile and notes the denied ones; gives the values and the failures. -/
def State.performOwn (s : State) (k : AccKind) :
    List (Elem × Route) → List Elem → List (Nat × W64) → State × List Elem × List (Nat × W64)
  | [], got, bad => (s, got, bad)
  | (e, .own off) :: rest, got, bad =>
    match s.lsAct s.cur.1 off k e with
    | (s', some v) => s'.performOwn k rest (got ++ [{ e with data := v }]) bad
    | (s', none) => s'.performOwn k rest got (bad ++ [(0x13, e.addr)])
  | (e, .deny c) :: rest, got, bad => s.performOwn k rest got (bad ++ [(c, e.addr)])
  | _ :: rest, got, bad => s.performOwn k rest got bad

/-- Failures of an instruction that has retired: fault reports (R344). -/
def State.reportAll (s : State) (bad : List (Nat × W64)) : State :=
  bad.foldl (fun s b => s.faultReport s.cur.1 s.myDomNo b.1 b.2 s.me.pc (s.nodeOf s.cur.1)) s

/-- Carries out an access that has passed its checks: a load retires when every value has returned, a store when it is
accepted (R97). -/
def State.perform (s : State) (i : Instr) (p : Plan) (rs : List (Elem × Route)) : State :=
  let (s1, got, bad) := s.performOwn p.kind rs [] []
  let reqs := (rs.filterMap fun r => s.hopOf r.1 r.2).foldl addReq []
  if p.load then
    match reqs with
    | [] =>
      match bad with
      | [] => (s1.modMe (loadWrite (modeCols s.myMode) i got)).advance
      | _ :: _ => s1.raise (firstBad bad).1 (firstBad bad).2
    | _ :: _ => ((reqs.foldl (State.sendReq p.kind true) s1).park i .reply).modMe fun t => { t with got := got, bad := bad }
  else
    let s2 := (reqs.foldl (State.sendReq p.kind false) s1).reportAll bad
    (s2.modMe fun t => { t with hold := t.hold || (p.o.ord = .acq ∨ p.o.ord = .ar) }).advance

/-- Runs `f` for a use of bytes that are there. One that misses its schedule raises 0x10 with SM_TRAP, or runs `stall`;
one of a lost record raises 0x13 (R371, R387). -/
def State.whenResident (s : State) (rs : List (Elem × Route)) (stall f : State → State) : State :=
  match s.missing rs 0, s.missing rs 2 with
  | some e, l =>
    if bit s.myDom.fdPolicy 3 then s.raise 0x10 e.addr
    else match l with
      | some e' => s.raise 0x13 e'.addr
      | none => stall s
  | none, some e => s.raise 0x13 e.addr
  | none, none => f s

/-- The access of an instruction, after the common checks: the causes of R354 in their order, the code range, order,
a stall on a residency record, and the access itself. -/
def State.access (s : State) (i : Instr) (p : Plan) : State :=
  match s.issueCause p with
  | some (c, v) => s.raise c v
  | none =>
    let rs := p.elems.filterMap fun e => match s.routeOf p e with | .ok r => some (e, r) | .error _ => none
    s.whenResident (if p.load then rs else [])
      (fun s => s.ranged fun s => s.gate i p.o fun s => s.countMiss.park i .resident) fun s =>
      s.ranged fun s => s.gate i p.o fun s =>
        if s.clash rs then s.park i .same else s.perform i p rs

/-! ## Full-empty waits (R84, R253, R385) -/

/-- The bit lets the access proceed (R84). -/
def feReady (m : FeMode) (full : Bool) : Bool :=
  match m with
  | .wff | .wfe => full
  | .wef => !full
  | .sf | .se => true

/-- The bit afterwards (R84). -/
def feAfter : FeMode → Bool
  | .wff | .wef | .sf => true
  | .wfe | .se => false

/-- Tries a full-empty access at its word: `none` when it has to wait; otherwise the state and the word read, or the
loss of it. -/
def State.feTry (s : State) (T off : Nat) (m : FeMode) (isLoad : Bool) (data : W64) : Option (State × Option W64) :=
  if !feReady m (s.feBit T off) then none
  else if isLoad then
    if s.lsBad T off 8 then some (s, none)
    else some ((s.scrub (inStore T off 8) false).setFe T off (feAfter m), some (BitVec.ofNat 64 (s.lsNum T off 8)))
  else some ((s.lsStore T off (toBytes 8 data.toNat)).setFe T off (feAfter m), some 0)

/-- A queued request proceeds or is lost: the thread of the tile, or the requester, is answered (R84, R253). -/
def State.feAnswer (s : State) (T : Nat) (q : FeReq) (v : Option W64) : State :=
  match q.msg with
  | some m =>
    s.send (match v with
      | some w => replyTo m (s.nodeOf T) 0 0 0 [{ q.elem with data := w }] q.iss
      | none => replyTo m (s.nodeOf T) 0 0x13 q.elem.addr [] q.iss)
  | none =>
    match v with
    | some w =>
      s.finish T q.iss.hw fun t =>
        match t.pend with
        | some i => loadWrite (modeCols (s.tile T).mode) i [{ q.elem with data := w }] t
        | none => t
    | none => s.trap T q.iss.hw 0x13 q.elem.addr

/-- One pass over the requests queued at a word, in arrival order; says whether one proceeded. -/
def State.fePass (s : State) (T off : Nat) : List FeReq → State × Bool
  | [] => (s, false)
  | q :: rest =>
    if q.off ≠ off then s.fePass T off rest
    else
      match s.feTry T off q.mode q.load q.elem.data with
      | none => s.fePass T off rest
      | some (s', v) =>
        let s2 := s'.modTile T fun t => { t with feq := t.feq.erase q }
        (((s2.feAnswer T q v).fePass T off rest).1, true)

/-- The bit of a word has changed: the queued accesses are retried in arrival order until none proceeds (R84). -/
def State.feWake (s : State) (T off : Nat) : Nat → State
  | 0 => s
  | fuel + 1 =>
    match s.fePass T off (s.tile T).feq with
    | (s', true) => s'.feWake T off fuel
    | (s', false) => s'

/-- Sets a bit and retries what is queued at the word. -/
def State.feChange (s : State) (T off : Nat) (full : Bool) : State :=
  (s.setFe T off full).feWake T off ((s.tile T).feq.length + 1)

/-- FE_LIMIT is read when the thread parks (R385). -/
def State.feTimer (s : State) : State :=
  if s.myDom.feLimit = 0 then s
  else { s with timers := s.timers ++ [((.tile, s.tcycle + s.myDom.feLimit.toNat), .feLimitExpiry s.cur.1 s.cur.2 s.tcycle)] }

/-- `ldfe`, `stfe`, `fetest` and `feset`: at the issuing tile, or by a request to the tile that owns the word. -/
def State.feAccess (s : State) (i : Instr) (p : Plan) : State :=
  match s.issueCause p, p.elems with
  | some (c, v), _ => s.raise c v
  | none, [] => s
  | none, e :: _ =>
    s.ranged fun s => s.gate i p.o fun s =>
      match s.routeOf p e with
      | .error c => s.raise c e.addr
      | .ok r =>
        if s.clash [(e, r)] then s.park i .same
        else match r with
          | .own off =>
            let T := s.cur.1
            let n := (s.tile T).feq.length + 1
            match p.kind with
            | .fe m ld =>
              match s.feTry T off m ld e.data with
              | none =>
                let q : FeReq := ⟨off, m, ld, e, s.issuer true, none⟩
                (s.modTile T fun t => { t with feq := t.feq ++ [q] }).feTimer.park i (.fe e.addr)
              | some (_, none) => s.raise 0x13 e.addr
              | some (s', some v) =>
                ((s'.modMe (loadWrite (modeCols s.myMode) i [{ e with data := v }])).advance).feWake T off n
            | .feSet full => (s.advance).feChange T off full
            | _ =>
              let v : W64 := if s.feBit T off then 1 else 0
              (s.modMe (loadWrite (modeCols s.myMode) i [{ e with data := v }])).advance
          | _ =>
            let reqs := ((s.hopOf e r).toList).foldl addReq []
            let s' := reqs.foldl (State.sendReq p.kind true) s
            match p.kind with
            | .fe _ _ => s'.feTimer.park i (.fe e.addr)
            | _ => s'.park i .reply

end Sys2Proof.Machine
end

