-- ==== Sys2Proof/Machine/Memory.lean ====
section
/-! DEFINITION. Loads, stores, wave-commit stores, full-empty instructions, prefetch, fence and atomics (R248 to
R257). -/

namespace Sys2Proof.Machine

open Bits

/-- A scalar element at a generic address. -/
def elemAt (a : W64) (n : Nat) (data cmp : W64) : Elem := ⟨0, a, a, n, data, cmp⟩

/-- An access accepted in every window (R248). -/
def anyWindow (k : AccKind) (load : Bool) (es : List Elem) (o : Order) : Plan :=
  { kind := k, load := load, elems := es, glob := true, sad := true, dev := true, o := o }

/-- An access accepted in the private, local and shared windows only (R248). -/
def storeWindow (k : AccKind) (load : Bool) (es : List Elem) (o : Order) : Plan :=
  { kind := k, load := load, elems := es, glob := false, sad := false, dev := false, o := o }

/-- `ld` (R250). -/
def execLd (g : Guard) (sx : Bool) (sz : Size) (o : Order) (d : XReg) (m : MAddr) (s : State) :
    Host.Outcome State Fault Refusal :=
  .next (s.issue (.ld g sx sz o d m) g [d, m.base, m.idx] true 0 fun s =>
    s.access (.ld g sx sz o d m) (anyWindow .read true [elemAt (s.ea m) (sizeBytes sz) 0 0] o))

/-- `st` (R250). -/
def execSt (g : Guard) (sz : Size) (o : Order) (d : XReg) (m : MAddr) (s : State) :
    Host.Outcome State Fault Refusal :=
  .next (s.issue (.st g sz o d m) g [d, m.base, m.idx] true 0 fun s =>
    s.access (.st g sz o d m) (anyWindow .write false [elemAt (s.ea m) (sizeBytes sz) (s.rx d) 0] o))

/-- The half of the commit buffer that a run of the domain's stage fills, and entries per half (R251). -/
def Dom.half (d : Dom) : Nat := (d.wave.toNat - d.firstWave) / d.bHeight % 2
def Dom.halfCap (d : Dom) : Nat := d.commitKib * 32
def Dom.halfCount (d : Dom) (h : Nat) : Nat := if h = 0 then d.commit0 else d.commit1
def Dom.setHalf (d : Dom) (h n : Nat) : Dom := if h = 0 then { d with commit0 := n } else { d with commit1 := n }

/-- The local-store offset of entry k of half h (R33, R251). -/
def Dom.commitAt (d : Dom) (h k : Nat) : Nat := d.commitBase + h * d.commitKib * 512 + 16 * k

/-- Appends an entry to the current commit half (R251). -/
def State.appendCommit (s : State) (T d : Nat) (data : W64) (size win addr : Nat) : State :=
  let dm := s.dom T d
  let h := dm.half
  let e : BitVec 128 := data ++ BitVec.ofNat 64 (size * 2 ^ 62 + win * 2 ^ 60 + addr % 2 ^ 55)
  (s.lsStore T (dm.commitAt h (dm.halfCount h)) (toBytes 16 e.toNat)).modDom T d fun v =>
    v.setHalf h (v.halfCount h + 1)

/-- The window checks of a wave-commit store: the WIN code and ADDR field, or a cause (R248, R251, R354). -/
def State.wcTarget (s : State) (a : W64) (n : Nat) : Except Nat (Nat × Nat) :=
  if a.toNat % n ≠ 0 then .error 0x05
  else match windowOf a with
    | .global => .ok (0, fld a 0 55)
    | .loc =>
      if tileOf a ≠ s.cur.1 then .error 0x07
      else if s.myDom.holds (offOf a) n then .ok (1, tileOf a * 2 ^ 24 + offOf a) else .error 0x09
    | .shr => if 0xC00000 < offOf a + n then .error 0x09 else .ok (2, fabOf a * 2 ^ 24 + offOf a)
    | _ => .error 0x06

/-- `st.wc` (R251). -/
def execStWc (g : Guard) (sz : Size) (d : XReg) (m : MAddr) (s : State) : Host.Outcome State Fault Refusal :=
  .next (s.issue (.stWc g sz d m) g [d, m.base, m.idx] true 0 fun s =>
    match s.wcTarget (s.ea m) (sizeBytes sz) with
    | .error c => s.raise c (s.ea m)
    | .ok w =>
      if s.myDom.halfCap ≤ s.myDom.halfCount s.myDom.half then s.raise 0x1A (s.ea m)
      else s.complete fun s => s.appendCommit s.cur.1 s.myDomNo (s.rx d) (sizeCode sz).toNat w.1 w.2)

/-- `ldfe` (R253). -/
def execLdfe (g : Guard) (fm : FeMode) (o : Order) (d : XReg) (m : MAddr) (s : State) :
    Host.Outcome State Fault Refusal :=
  .next (s.issue (.ldfe g fm o d m) g [d, m.base, m.idx] true 0 fun s =>
    s.feAccess (.ldfe g fm o d m) (storeWindow (.fe fm true) true [elemAt (s.ea m) 8 0 0] o))

/-- `stfe` (R253). -/
def execStfe (g : Guard) (fm : FeMode) (o : Order) (d : XReg) (m : MAddr) (s : State) :
    Host.Outcome State Fault Refusal :=
  .next (s.issue (.stfe g fm o d m) g [d, m.base, m.idx] true 0 fun s =>
    s.feAccess (.stfe g fm o d m) (storeWindow (.fe fm false) true [elemAt (s.ea m) 8 (s.rx d) 0] o))

/-- `fetest` (R253). -/
def execFetest (g : Guard) (o : Order) (d : XReg) (m : MAddr) (s : State) : Host.Outcome State Fault Refusal :=
  .next (s.issue (.fetest g o d m) g [d, m.base, m.idx] true 0 fun s =>
    s.feAccess (.fetest g o d m) (storeWindow .feTest true [elemAt (s.ea m) 8 0 0] o))

/-- `feset` (R253). -/
def execFeset (g : Guard) (full : Bool) (o : Order) (m : MAddr) (s : State) : Host.Outcome State Fault Refusal :=
  .next (s.issue (.feset g full o m) g [m.base, m.idx] true 0 fun s =>
    s.feAccess (.feset g full o m) (storeWindow (.feSet full) true [elemAt (s.ea m) 8 0 0] o))

/-- The issuer number of a prefetch: no thread waits for it; 17 asks for the LLC only (R255). -/
def prefetcher (llc : Bool) : Nat := if llc then 17 else 16

/-- `pf`: for a global address a request goes to the translation station; any other window does nothing (R255). -/
def execPf (g : Guard) (llc : Bool) (m : MAddr) (s : State) : Host.Outcome State Fault Refusal :=
  .next (s.issue (.pf g llc m) g [m.base, m.idx] true 0 fun s =>
    s.complete fun s =>
      let a := s.ea m
      match windowOf a with
      | .global =>
        let va := fld a 0 55 / 128 * 128
        let acc : Access := { kind := .read, elems := [⟨0, a, BitVec.ofNat 64 va, 128, 0, 0⟩],
                              iss := { s.issuer false with hw := prefetcher llc }, phys := false, cache := 0,
                              shr := false, dev := false, retried := false }
        s.send (s.tileMsg s.cur.1 s.myDomNo 0x01 (.station (xlatStation s.myDom.pid va)) 0 (.access acc))
      | _ => s)

/-- `fence`: a release waits for every prior access. An acquire finds every prior load of an instruction performed, and
waits for the reads of the thread's matrix commands (R100, R256, R292). -/
def execFence (g : Guard) (o : Order) (s : State) : Host.Outcome State Fault Refusal :=
  .next (s.issue (.fence g o) g [] true 0 fun s =>
    s.ranged fun s =>
      if o.ord = .acq then (if s.myDom.readsDone s.cur.2 then s.advance else s.park (.fence g o) .loads)
      else s.gate (.fence g o) o State.advance)

/-- The plan of an atomic: a no-return atomic retires as a store does (R257). -/
def amoPlan (op : AmoOp) (nr : Bool) (n : Nat) (a v c : W64) (o : Order) : Plan :=
  anyWindow (.amo op) (!nr) [elemAt a n v c] o

/-- `amoadd` (R257). -/
def execAmoadd (g : Guard) (sx : Bool) (sz : Size) (nr : Bool) (o : Order) (d : XReg) (m : MAddr) (s : State) :
    Host.Outcome State Fault Refusal :=
  .next (s.issue (.amoadd g sx sz nr o d m) g [d, m.base, m.idx] true 0 fun s =>
    s.access (.amoadd g sx sz nr o d m) (amoPlan .add nr (sizeBytes sz) (s.ea m) (s.rx d) 0 o))

/-- `amomin` (R257). -/
def execAmomin (g : Guard) (sx : Bool) (sz : Size) (nr : Bool) (o : Order) (d : XReg) (m : MAddr) (s : State) :
    Host.Outcome State Fault Refusal :=
  .next (s.issue (.amomin g sx sz nr o d m) g [d, m.base, m.idx] true 0 fun s =>
    s.access (.amomin g sx sz nr o d m) (amoPlan .min nr (sizeBytes sz) (s.ea m) (s.rx d) 0 o))

/-- `amomax` (R257). -/
def execAmomax (g : Guard) (sx : Bool) (sz : Size) (nr : Bool) (o : Order) (d : XReg) (m : MAddr) (s : State) :
    Host.Outcome State Fault Refusal :=
  .next (s.issue (.amomax g sx sz nr o d m) g [d, m.base, m.idx] true 0 fun s =>
    s.access (.amomax g sx sz nr o d m) (amoPlan .max nr (sizeBytes sz) (s.ea m) (s.rx d) 0 o))

/-- `amominw` (R257). -/
def execAmominw (g : Guard) (sx : Bool) (sz : Size) (nr : Bool) (o : Order) (d : XReg) (m : MAddr) (s : State) :
    Host.Outcome State Fault Refusal :=
  .next (s.issue (.amominw g sx sz nr o d m) g [d, m.base, m.idx] true 0 fun s =>
    s.access (.amominw g sx sz nr o d m) (amoPlan .minw nr (sizeBytes sz) (s.ea m) (s.rx d) 0 o))

/-- `amomaxw` (R257). -/
def execAmomaxw (g : Guard) (sx : Bool) (sz : Size) (nr : Bool) (o : Order) (d : XReg) (m : MAddr) (s : State) :
    Host.Outcome State Fault Refusal :=
  .next (s.issue (.amomaxw g sx sz nr o d m) g [d, m.base, m.idx] true 0 fun s =>
    s.access (.amomaxw g sx sz nr o d m) (amoPlan .maxw nr (sizeBytes sz) (s.ea m) (s.rx d) 0 o))

/-- `amoand` (R257). -/
def execAmoand (g : Guard) (sx : Bool) (sz : Size) (nr : Bool) (o : Order) (d : XReg) (m : MAddr) (s : State) :
    Host.Outcome State Fault Refusal :=
  .next (s.issue (.amoand g sx sz nr o d m) g [d, m.base, m.idx] true 0 fun s =>
    s.access (.amoand g sx sz nr o d m) (amoPlan .and nr (sizeBytes sz) (s.ea m) (s.rx d) 0 o))

/-- `amoor` (R257). -/
def execAmoor (g : Guard) (sx : Bool) (sz : Size) (nr : Bool) (o : Order) (d : XReg) (m : MAddr) (s : State) :
    Host.Outcome State Fault Refusal :=
  .next (s.issue (.amoor g sx sz nr o d m) g [d, m.base, m.idx] true 0 fun s =>
    s.access (.amoor g sx sz nr o d m) (amoPlan .or nr (sizeBytes sz) (s.ea m) (s.rx d) 0 o))

/-- `amoxor` (R257). -/
def execAmoxor (g : Guard) (sx : Bool) (sz : Size) (nr : Bool) (o : Order) (d : XReg) (m : MAddr) (s : State) :
    Host.Outcome State Fault Refusal :=
  .next (s.issue (.amoxor g sx sz nr o d m) g [d, m.base, m.idx] true 0 fun s =>
    s.access (.amoxor g sx sz nr o d m) (amoPlan .xor nr (sizeBytes sz) (s.ea m) (s.rx d) 0 o))

/-- `amoswap` (R257). -/
def execAmoswap (g : Guard) (sx : Bool) (sz : Size) (nr : Bool) (o : Order) (d : XReg) (m : MAddr) (s : State) :
    Host.Outcome State Fault Refusal :=
  .next (s.issue (.amoswap g sx sz nr o d m) g [d, m.base, m.idx] true 0 fun s =>
    s.access (.amoswap g sx sz nr o d m) (amoPlan .swap nr (sizeBytes sz) (s.ea m) (s.rx d) 0 o))

/-- `amofadd`: an FP32 addition at the home (R86, R257). -/
def execAmofadd (g : Guard) (nr : Bool) (o : Order) (d : XReg) (m : MAddr) (s : State) :
    Host.Outcome State Fault Refusal :=
  .next (s.issue (.amofadd g nr o d m) g [d, m.base, m.idx] true 0 fun s =>
    s.access (.amofadd g nr o d m) (amoPlan .fadd nr 4 (s.ea m) (s.rx d) 0 o))

/-- `amocas`: the index field names the comparand and takes no part in the address (R257). -/
def execAmocas (g : Guard) (sx : Bool) (sz : Size) (o : Order) (d : XReg) (m : MAddr) (s : State) :
    Host.Outcome State Fault Refusal :=
  .next (s.issue (.amocas g sx sz o d m) g [d, m.base, m.idx] true 0 fun s =>
    s.access (.amocas g sx sz o d m)
      (amoPlan .cas false (sizeBytes sz) (s.rx m.base + m.off.signExtend 64) (s.rx d) (s.rx m.idx) o))

end Sys2Proof.Machine
end

