-- ==== Sys2Proof/Machine/VectorMemory.lean ====
section
/-! DEFINITION. Vector loads and stores (R258 to R260). -/

namespace Sys2Proof.Machine

open Bits

/-- The number of a vector register of the issuing thread. -/
def State.vreg (s : State) (v : VReg) : Nat := s.vnum v.row.toNat v.col.toNat

/-- The group of n registers of one grid row that `vld` and `vst` move lies in the grid (R259). -/
def State.groupOk (s : State) (v : VReg) (n : Nat) : Bool := s.vregOk v && v.col.toNat + n ≤ modeCols s.myMode

/-- The 64-bit words of a group of registers; a fault reports the instruction's address (R259). -/
def State.groupElems (s : State) (v : VReg) (n : Nat) (a : W64) : List Elem :=
  (List.range (32 * n)).map fun k =>
    ⟨k, a, a + BitVec.ofNat 64 (8 * k), 8, (s.me.rv (s.vreg v + k / 32)).extractLsb' (64 * (k % 32)) 64, 0⟩

/-- The alignment of a group is 8 whatever the words (R259): the address itself is the first word's. -/
def execVld (g : Guard) (n : Size) (o : Order) (d : VReg) (m : MAddr) (s : State) : Host.Outcome State Fault Refusal :=
  .next (s.issue (.vld g n o d m) g [m.base, m.idx] (s.groupOk d (sizeRegs n)) 0 fun s =>
    s.access (.vld g n o d m) (anyWindow .read true (s.groupElems d (sizeRegs n) (s.ea m)) o))

def execVst (g : Guard) (n : Size) (o : Order) (d : VReg) (m : MAddr) (s : State) : Host.Outcome State Fault Refusal :=
  .next (s.issue (.vst g n o d m) g [m.base, m.idx] (s.groupOk d (sizeRegs n)) 0 fun s =>
    s.access (.vst g n o d m) (anyWindow .write false (s.groupElems d (sizeRegs n) (s.ea m)) o))

/-- Lanes whose mask bit is 1. -/
def State.lanesOn (s : State) (mk : MReg) : List Nat := (List.range 64).filter fun i => bit (s.me.rm mk.toNat) i

/-- Lane i of a vector register. -/
def State.lane (s : State) (v : VReg) (i : Nat) : W32 := (s.me.rv (s.vreg v)).extractLsb' (32 * i) 32

/-- The elements of the masked lanes at the addresses of `f` (R260). -/
def State.laneElems (s : State) (mk : MReg) (d : VReg) (n : Nat) (f : Nat → W64) : List Elem :=
  (s.lanesOn mk).map fun i => ⟨i, f i, f i, n, (s.lane d i).setWidth 64, 0⟩

/-- Gathered addresses: base, offset and the lane's signed byte offset (R260). -/
def State.gatherAt (s : State) (base : XReg) (vi : VReg) (off : BitVec 20) (i : Nat) : W64 :=
  s.rx base + off.signExtend 64 + (s.lane vi i).signExtend 64

/-- Strided addresses (R260). -/
def State.strideAt (s : State) (m : MAddr) (i : Nat) : W64 :=
  s.rx m.base + m.off.signExtend 64 + BitVec.ofNat 64 i * s.rx m.idx

def execVldg (g : Guard) (sx : Bool) (sz : Size) (mk : MReg) (o : Order) (d : VReg) (base : XReg) (vi : VReg)
    (off : BitVec 20) (s : State) : Host.Outcome State Fault Refusal :=
  .next (s.issue (.vldg g sx sz mk o d base vi off) g [base] (s.vregOk d && s.vregOk vi) 0 fun s =>
    s.access (.vldg g sx sz mk o d base vi off)
      (anyWindow .read true (s.laneElems mk d (sizeBytes sz) (s.gatherAt base vi off)) o))

def execVsts (g : Guard) (sz : Size) (mk : MReg) (o : Order) (d : VReg) (base : XReg) (vi : VReg) (off : BitVec 20)
    (s : State) : Host.Outcome State Fault Refusal :=
  .next (s.issue (.vsts g sz mk o d base vi off) g [base] (s.vregOk d && s.vregOk vi) 0 fun s =>
    s.access (.vsts g sz mk o d base vi off)
      (anyWindow .write false (s.laneElems mk d (sizeBytes sz) (s.gatherAt base vi off)) o))

/-- `vldb` reads one element for every masked lane, and none when no lane is masked (R260). -/
def execVldb (g : Guard) (sx : Bool) (sz : Size) (mk : MReg) (o : Order) (d : VReg) (m : MAddr) (s : State) :
    Host.Outcome State Fault Refusal :=
  .next (s.issue (.vldb g sx sz mk o d m) g [m.base, m.idx] (s.vregOk d) 0 fun s =>
    s.access (.vldb g sx sz mk o d m)
      (anyWindow .read true (if s.lanesOn mk = [] then [] else [elemAt (s.ea m) (sizeBytes sz) 0 0]) o))

def execVldt (g : Guard) (sx : Bool) (sz : Size) (mk : MReg) (o : Order) (d : VReg) (m : MAddr) (s : State) :
    Host.Outcome State Fault Refusal :=
  .next (s.issue (.vldt g sx sz mk o d m) g [m.base, m.idx] (s.vregOk d) 0 fun s =>
    s.access (.vldt g sx sz mk o d m) (anyWindow .read true (s.laneElems mk d (sizeBytes sz) (s.strideAt m)) o))

def execVstt (g : Guard) (sz : Size) (mk : MReg) (o : Order) (d : VReg) (m : MAddr) (s : State) :
    Host.Outcome State Fault Refusal :=
  .next (s.issue (.vstt g sz mk o d m) g [m.base, m.idx] (s.vregOk d) 0 fun s =>
    s.access (.vstt g sz mk o d m) (anyWindow .write false (s.laneElems mk d (sizeBytes sz) (s.strideAt m)) o))

end Sys2Proof.Machine
end

