-- ==== Sys2Proof/Machine/Vector.lean ====
section
/-! DEFINITION. Vector arithmetic, selection, conversion, quantisation, reductions, permutes, compress and mask logic
(R273 to R289). -/

namespace Sys2Proof.Machine

open Bits

/-! ## Lanes (R273) -/

/-- The integer type of an integer lane type; floats are read as 32 bits where it is used. -/
def laneInt : VTy → IntTy
  | .i32 => .i32 | .w32 => .w32 | .i16 => .i16 | .w16 => .w16 | .i8 => .i8 | .w8 => .w8 | .flt _ => .w32

/-- The low n bits of a lane. -/
def laneBits (n : Nat) (w : W32) : Nat := w.toNat % 2 ^ n

/-- An integer result in a lane, extended by its signedness. -/
def laneOfInt (t : IntTy) (v : Nat) : W32 := (extend t v).setWidth 32

/-- A float code in a lane, zero above. -/
def laneOfFlt (v : Nat) : W32 := BitVec.ofNat 32 v

/-- A conversion's code in a lane. -/
def laneOfC (t : CTy) (v : Nat) : W32 :=
  match t with
  | .int i => laneOfInt i v
  | _ => laneOfFlt v

/-- The bits of a lane that hold a conversion's source. -/
def cBits (t : CTy) : Nat :=
  match t with
  | .int i => intWidth i
  | _ => match cFmt t with | some f => f.bits | none => 32

/-! ## Blocks -/

def blkH (d : VBlock) : Nat := d.hM1.toNat + 1
def blkW (d : VBlock) : Nat := d.wM1.toNat + 1

/-- The registers of a block, by row and column offsets. -/
def blkCells (d : VBlock) : List (Nat × Nat) :=
  (List.range (blkH d)).flatMap fun r => (List.range (blkW d)).map fun c => (r, c)

/-- Block checks of R206: destination, A and B of one shape, each within the grid. -/
def State.dstOk (s : State) (d : VBlock) : Bool := s.blockOk d.row.toNat d.col.toNat (blkH d) (blkW d)
def State.orgOk (s : State) (d : VBlock) (o : VOrg) : Bool := s.blockOk o.row.toNat o.col.toNat (blkH d) (blkW d)
def State.vbOk (s : State) (d : VBlock) (b : VB) : Bool :=
  match b with
  | .blk o => s.orgOk d o
  | .bcast _ => true

def vbRegs : VB → List XReg
  | .blk _ => []
  | .bcast x => [x]

/-- The lanes of a source register at a block offset. -/
def State.srcLanes (s : State) (o : VOrg) (p : Nat × Nat) : List W32 :=
  lanesOf (s.me.rv (s.vnum (o.row.toNat + p.1) (o.col.toNat + p.2)))

def State.vbLanes (s : State) (b : VB) (p : Nat × Nat) : List W32 :=
  match b with
  | .blk o => s.srcLanes o p
  | .bcast x => List.replicate 64 ((s.rx x).setWidth 32)

/-- New lanes under a mask (R274). -/
def maskLanes (m : W64) (old new : List W32) : List W32 :=
  (List.range 64).map fun i => if bit m i then new.getD i 0 else old.getD i 0

/-- Writes a block: every register from its old lanes, all sources read first (R274). A lane that keeps its old bits, as
its value for other old bits shows, keeps its check (R369). -/
def State.writeBlock (s : State) (d : VBlock) (f : Nat × Nat → List W32 → List W32) : State :=
  let ws := (blkCells d).map fun p =>
    let n := s.vnum (d.row.toNat + p.1) (d.col.toNat + p.2)
    let old := lanesOf (s.me.rv n)
    let new := f p old
    (n, ofLanes new, fun i => s.me.parity.isEmpty || (f p (old.map fun w => ~~~w))[i]? == new[i]?)
  s.modMe fun t => ws.foldl (fun t w => t.wvLanes w.1 w.2.1 w.2.2) t

/-! ## The vector unit's time (R276) -/

/-- A vector instruction of n registers joins its domain's queue at the vector unit; its registers are written at once, and
the thread may issue again when the unit has processed them (R54, R276; log 27). -/
def State.vecRetire (n : Nat) (s : State) : State :=
  (s.modDom s.cur.1 s.myDomNo fun d => { d with vq := d.vq ++ [(s.cur.2, n)] }).advance

/-- A vector instruction: common checks, grid, code range, effect, retirement. -/
def vecInstr (i : Instr) (g : Guard) (regs : List XReg) (grid : Bool) (n : Nat) (f : State → State) (s : State) :
    Host.Outcome State Fault Refusal :=
  .next (s.issue i g regs grid 0 fun s => s.ranged fun s => (f s).vecRetire n)

/-- A lane-wise instruction on two operands under a mask. -/
def vec2 (i : Instr) (g : Guard) (d : VBlock) (a : VOrg) (b : VB) (mk : MReg) (f : W32 → W32 → W32) (s : State) :
    Host.Outcome State Fault Refusal :=
  vecInstr i g (vbRegs b) (s.dstOk d && s.orgOk d a && s.vbOk d b) (blkH d * blkW d) (fun s =>
    s.writeBlock d fun p old => maskLanes (s.me.rm mk.toNat) old (List.zipWith f (s.srcLanes a p) (s.vbLanes b p))) s

/-- A lane-wise instruction on two operands and the destination lane. -/
def vec3 (i : Instr) (g : Guard) (d : VBlock) (a : VOrg) (b : VB) (mk : MReg) (f : W32 → W32 → W32 → W32) (s : State) :
    Host.Outcome State Fault Refusal :=
  vecInstr i g (vbRegs b) (s.dstOk d && s.orgOk d a && s.vbOk d b) (blkH d * blkW d) (fun s =>
    s.writeBlock d fun p old =>
      maskLanes (s.me.rm mk.toNat) old
        (List.zipWith (fun ab c => f ab.1 ab.2 c) (List.zip (s.srcLanes a p) (s.vbLanes b p)) old)) s

/-- An instruction whose registers come from the A register and the old lanes; it applies its own mask. -/
def vecA (i : Instr) (g : Guard) (regs : List XReg) (d : VBlock) (a : VOrg) (f : State → List W32 → List W32 → List W32)
    (s : State) : Host.Outcome State Fault Refusal :=
  vecInstr i g regs (s.dstOk d && s.orgOk d a) (blkH d * blkW d) (fun s =>
    s.writeBlock d fun p old => f s (s.srcLanes a p) old) s

/-- A lane-wise instruction on one operand under a mask. -/
def vec1 (i : Instr) (g : Guard) (d : VBlock) (a : VOrg) (mk : MReg) (f : W32 → W32) (s : State) :
    Host.Outcome State Fault Refusal :=
  vecA i g [] d a (fun s la old => maskLanes (s.me.rm mk.toNat) old (la.map f)) s

/-! ## Arithmetic (R277) -/

/-- A two-operand operation by type: on float values, or exact on integers. -/
def arith (t : VTy) (rm : Rm) (sat : Bool) (ff : FVal → FVal → FVal) (fi : Int → Int → Int) (a b : W32) : W32 :=
  match t with
  | .flt f =>
    let F := Fmt.ofF f
    laneOfFlt (F.encode rm sat (ff (F.decode (laneBits F.bits a)) (F.decode (laneBits F.bits b))))
  | _ =>
    let k := laneInt t
    laneOfInt k (narrow k sat (fi (valueOf k (a.setWidth 64)) (valueOf k (b.setWidth 64))))

def execVadd (g : Guard) (t : VTy) (rm : Rm) (sat : Bool) (d : VBlock) (a : VOrg) (b : VB) (mk : MReg) (s : State) :=
  vec2 (.vadd g t rm sat d a b mk) g d a b mk (arith t rm sat (FVal.add rm) (· + ·)) s
def execVsub (g : Guard) (t : VTy) (rm : Rm) (sat : Bool) (d : VBlock) (a : VOrg) (b : VB) (mk : MReg) (s : State) :=
  vec2 (.vsub g t rm sat d a b mk) g d a b mk (arith t rm sat (fun x y => x.add rm y.negate) (· - ·)) s
def execVmul (g : Guard) (t : VTy) (rm : Rm) (sat : Bool) (d : VBlock) (a : VOrg) (b : VB) (mk : MReg) (s : State) :=
  vec2 (.vmul g t rm sat d a b mk) g d a b mk (arith t rm sat FVal.mul (· * ·)) s

/-- A × B ± D with one rounding (R277). -/
def fmaLane (t : FTy) (rm : Rm) (sat neg : Bool) (a b c : W32) : W32 :=
  let F := Fmt.ofF t
  let v := F.decode (laneBits F.bits c)
  laneOfFlt (F.encode rm sat (FVal.fma rm (F.decode (laneBits F.bits a)) (F.decode (laneBits F.bits b))
    (if neg then v.negate else v)))

def execVfma (g : Guard) (t : FTy) (rm : Rm) (sat : Bool) (d : VBlock) (a : VOrg) (b : VB) (mk : MReg) (s : State) :=
  vec3 (.vfma g t rm sat d a b mk) g d a b mk (fmaLane t rm sat false) s
def execVfms (g : Guard) (t : FTy) (rm : Rm) (sat : Bool) (d : VBlock) (a : VOrg) (b : VB) (mk : MReg) (s : State) :=
  vec3 (.vfms g t rm sat d a b mk) g d a b mk (fmaLane t rm sat true) s

/-- Minimum or maximum by type (R128, R277). -/
def minmaxLane (t : VTy) (isMax : Bool) (a b : W32) : W32 :=
  match t with
  | .flt f =>
    let F := Fmt.ofF f
    laneOfFlt (F.minmax isMax (laneBits F.bits a) (laneBits F.bits b))
  | _ =>
    let k := laneInt t
    let x := valueOf k (a.setWidth 64)
    let y := valueOf k (b.setWidth 64)
    laneOfInt k (wrap (intWidth k) (if isMax then max x y else min x y))

def execVmin (g : Guard) (t : VTy) (d : VBlock) (a : VOrg) (b : VB) (mk : MReg) (s : State) :=
  vec2 (.vmin g t d a b mk) g d a b mk (minmaxLane t false) s
def execVmax (g : Guard) (t : VTy) (d : VBlock) (a : VOrg) (b : VB) (mk : MReg) (s : State) :=
  vec2 (.vmax g t d a b mk) g d a b mk (minmaxLane t true) s

/-- Sign operations: the sign bit cleared or inverted, a NaN neither quietened nor changed in its payload (R269); integers
as `abs` and `neg`. -/
def signLane (t : VTy) (sat : Bool) (isNeg : Bool) (a : W32) : W32 :=
  match t with
  | .flt f =>
    let F := Fmt.ofF f
    let x := laneBits F.bits a
    laneOfFlt (if isNeg then x ^^^ F.signBit else x % F.signBit)
  | _ =>
    let k := laneInt t
    let x := valueOf k (a.setWidth 64)
    laneOfInt k (narrow k sat (if isNeg then -x else x.natAbs))

def execVabs (g : Guard) (t : VTy) (sat : Bool) (d : VBlock) (a : VOrg) (mk : MReg) (s : State) :=
  vec1 (.vabs g t sat d a mk) g d a mk (signLane t sat false) s
def execVneg (g : Guard) (t : VTy) (sat : Bool) (d : VBlock) (a : VOrg) (mk : MReg) (s : State) :=
  vec1 (.vneg g t sat d a mk) g d a mk (signLane t sat true) s

def execVand (g : Guard) (d : VBlock) (a : VOrg) (b : VB) (mk : MReg) (s : State) :=
  vec2 (.vand g d a b mk) g d a b mk (fun x y => x &&& y) s
def execVor (g : Guard) (d : VBlock) (a : VOrg) (b : VB) (mk : MReg) (s : State) :=
  vec2 (.vor g d a b mk) g d a b mk (fun x y => x ||| y) s
def execVxor (g : Guard) (d : VBlock) (a : VOrg) (b : VB) (mk : MReg) (s : State) :=
  vec2 (.vxor g d a b mk) g d a b mk (fun x y => x ^^^ y) s
def execVandn (g : Guard) (d : VBlock) (a : VOrg) (b : VB) (mk : MReg) (s : State) :=
  vec2 (.vandn g d a b mk) g d a b mk (fun x y => x &&& ~~~y) s

/-- A shift by the lane of B as an unsigned number modulo the width (R277). -/
def shiftLane (t : VTy) (f : Nat → Nat → Nat → Nat) (a b : W32) : W32 :=
  let k := laneInt t
  laneOfInt k (f (intWidth k) (laneBits (intWidth k) a) b.toNat)

def execVshl (g : Guard) (t : VTy) (d : VBlock) (a : VOrg) (b : VB) (mk : MReg) (s : State) :=
  vec2 (.vshl g t d a b mk) g d a b mk (shiftLane t shlOf) s
def execVshr (g : Guard) (t : VTy) (d : VBlock) (a : VOrg) (b : VB) (mk : MReg) (s : State) :=
  vec2 (.vshr g t d a b mk) g d a b mk (shiftLane t shrOf) s
def execVsra (g : Guard) (t : VTy) (d : VBlock) (a : VOrg) (b : VB) (mk : MReg) (s : State) :=
  vec2 (.vsra g t d a b mk) g d a b mk (shiftLane t sraOf) s

/-- The condition of `vcmp` on two lanes (R234, R277). -/
def cmpLane (t : VTy) (c : FCond) (a b : W32) : Bool :=
  match t with
  | .flt f =>
    let F := Fmt.ofF f
    floatCond c (F.compare (laneBits F.bits a) (laneBits F.bits b))
  | _ =>
    let k := laneInt t
    floatCond c (some (compare (valueOf k (a.setWidth 64)) (valueOf k (b.setWidth 64))))

/-- A 1 × 1 block at the origin. -/
def oneBlock : VBlock := ⟨0, 0, 0, 0⟩

/-- A mask from lane conditions, the lanes outside `m` from the old mask. -/
def maskOf (m old : W64) (f : Nat → Bool) : W64 :=
  BitVec.ofNat 64 (packElems 1 ((List.range 64).map fun i => if (if bit m i then f i else bit old i) then 1 else 0))

def execVcmp (g : Guard) (t : VTy) (c : FCond) (md : MReg) (a : VOrg) (b : VB) (mk : MReg) (s : State) :=
  vecInstr (.vcmp g t c md a b mk) g (vbRegs b) (s.orgOk oneBlock a && s.vbOk oneBlock b) 1 (fun s =>
    let la := s.srcLanes a (0, 0)
    let lb := s.vbLanes b (0, 0)
    s.modMe fun th => th.wm md.toNat (maskOf (s.me.rm mk.toNat) (s.me.rm md.toNat)
      fun i => cmpLane t c (la.getD i 0) (lb.getD i 0))) s

/-! ## Selection and movement (R278) -/

/-- `vsel` writes every lane: the mask selects between A and B. -/
def execVsel (g : Guard) (d : VBlock) (a : VOrg) (b : VB) (mk : MReg) (s : State) :=
  vecInstr (.vsel g d a b mk) g (vbRegs b) (s.dstOk d && s.orgOk d a && s.vbOk d b) (blkH d * blkW d) (fun s =>
    s.writeBlock d fun p _ => maskLanes (s.me.rm mk.toNat) (s.vbLanes b p) (s.srcLanes a p)) s

def execVmov (g : Guard) (d : VBlock) (a : VOrg) (mk : MReg) (s : State) :=
  vec1 (.vmov g d a mk) g d a mk (fun x => x) s

def execVbcast (g : Guard) (d : VBlock) (x : XReg) (mk : MReg) (s : State) :=
  vecInstr (.vbcast g d x mk) g [x] (s.dstOk d) (blkH d * blkW d) (fun s =>
    s.writeBlock d fun _ old => maskLanes (s.me.rm mk.toNat) old (List.replicate 64 ((s.rx x).setWidth 32))) s

def execVbcastLane (g : Guard) (d : VBlock) (a : VOrg) (lane : BitVec 6) (mk : MReg) (s : State) :=
  vecA (.vbcastLane g d a lane mk) g [] d a (fun s la old =>
    maskLanes (s.me.rm mk.toNat) old (List.replicate 64 (la.getD lane.toNat 0))) s

/-! ## Conversion and quantisation (R279 to R282) -/

def execVcvt (g : Guard) (dt st : CTy) (rm : Rm) (sat : Bool) (d : VBlock) (a : VOrg) (mk : MReg) (s : State) :=
  vec1 (.vcvt g dt st rm sat d a mk) g d a mk (fun x => laneOfC dt (convert dt st rm sat (laneBits (cBits st) x))) s

def execVquant (g : Guard) (t : QTy) (rm : Rm) (d : VBlock) (a : VOrg) (s : State) :=
  vecA (.vquant g t rm d a) g [] d a (fun _ la _ =>
    lanesOf (BitVec.ofNat 2048 (quantReg t rm (la.map (·.toNat))))) s

/-- A dequantised lane: NaNs are canonical (R281). -/
def dequantLane (t : QTy) (rm : Rm) (sat : Bool) (v i : Nat) : W32 :=
  laneOfFlt (match dequant t v i with
    | .nan _ _ => f32.nanCode
    | x => f32.encode rm sat x)

def execVdeq (g : Guard) (t : QTy) (rm : Rm) (sat : Bool) (d : VBlock) (a : VOrg) (mk : MReg) (s : State) :=
  vecA (.vdeq g t rm sat d a mk) g [] d a (fun s la old =>
    maskLanes (s.me.rm mk.toNat) old ((List.range 64).map (dequantLane t rm sat (ofLanes la).toNat))) s

/-- A transcendental instruction (R129, R282). -/
def trans (fn : TFun) (rm : Rm) (x : W32) : W32 := laneOfFlt (tfun fn rm x.toNat)

def execVexp2 (g : Guard) (rm : Rm) (d : VBlock) (a : VOrg) (mk : MReg) (s : State) :=
  vec1 (.vexp2 g rm d a mk) g d a mk (trans .exp2 rm) s
def execVlog2 (g : Guard) (rm : Rm) (d : VBlock) (a : VOrg) (mk : MReg) (s : State) :=
  vec1 (.vlog2 g rm d a mk) g d a mk (trans .log2 rm) s
def execVrcp (g : Guard) (rm : Rm) (d : VBlock) (a : VOrg) (mk : MReg) (s : State) :=
  vec1 (.vrcp g rm d a mk) g d a mk (trans .rcp rm) s
def execVrsqrt (g : Guard) (rm : Rm) (d : VBlock) (a : VOrg) (mk : MReg) (s : State) :=
  vec1 (.vrsqrt g rm d a mk) g d a mk (trans .rsqrt rm) s
def execVtanh (g : Guard) (rm : Rm) (d : VBlock) (a : VOrg) (mk : MReg) (s : State) :=
  vec1 (.vtanh g rm d a mk) g d a mk (trans .tanh rm) s
def execVsig (g : Guard) (rm : Rm) (d : VBlock) (a : VOrg) (mk : MReg) (s : State) :=
  vec1 (.vsig g rm d a mk) g d a mk (trans .sig rm) s

/-! ## Reductions and scans (R283, R284) -/

/-- One level of the fixed tree: neighbours are combined, an absent one passes the other. -/
def treeLevel {α : Type} (op : α → α → α) : List (Option α) → List (Option α)
  | some a :: some b :: rest => some (op a b) :: treeLevel op rest
  | some a :: none :: rest => some a :: treeLevel op rest
  | none :: b :: rest => b :: treeLevel op rest
  | l => l

/-- The fixed tree over 64 lanes. -/
def tree {α : Type} (op : α → α → α) (l : List (Option α)) : Option α :=
  (treeLevel op (treeLevel op (treeLevel op (treeLevel op (treeLevel op (treeLevel op l)))))).headD none

/-- The masked lanes, the others absent. -/
def present (m : W64) (l : List W32) : List (Option W32) :=
  (List.range 64).map fun i => if bit m i then some (l.getD i 0) else none

/-- The element of a lane with the bits above a float's width zero. -/
def trimLane (t : VTy) (w : W32) : W32 :=
  match t with
  | .flt f => laneOfFlt (laneBits (Fmt.ofF f).bits w)
  | _ => w

/-- A reduction writes lane 0, whatever its mask bit, and keeps the others (R283). -/
def reduce (i : Instr) (g : Guard) (t : VTy) (d : VBlock) (a : VOrg) (mk : MReg) (f : List (Option W32) → W32) (s : State) :
    Host.Outcome State Fault Refusal :=
  vecA i g [] d a (fun s la old =>
    f ((present (s.me.rm mk.toNat) la).map fun x => x.map (trimLane t)) :: old.drop 1) s

/-- The sum of the masked lanes: a float tree, or the exact integer total (R283). -/
def sumLanes (t : VTy) (rm : Rm) (sat : Bool) (l : List (Option W32)) : W32 :=
  match t with
  | .flt _ => (tree (arith t rm false (FVal.add rm) (· + ·)) l).getD 0
  | _ =>
    let k := laneInt t
    laneOfInt k (narrow k sat (l.foldl (fun acc x => match x with
      | some w => acc + valueOf k (w.setWidth 64)
      | none => acc) 0))

/-- The identity of a minimum or maximum (R283). -/
def redIdentity (t : VTy) (isMax : Bool) : W32 :=
  match t with
  | .flt f => laneOfFlt ((Fmt.ofF f).signed isMax (Fmt.ofF f).infCode)
  | .i32 => if isMax then 0x80000000 else 0x7FFFFFFF
  | _ => if isMax then 0 else 0xFFFFFFFF

def execVredsum (g : Guard) (t : VTy) (rm : Rm) (sat : Bool) (d : VBlock) (a : VOrg) (mk : MReg) (s : State) :=
  reduce (.vredsum g t rm sat d a mk) g t d a mk (sumLanes t rm sat) s
def execVredmax (g : Guard) (t : VTy) (d : VBlock) (a : VOrg) (mk : MReg) (s : State) :=
  reduce (.vredmax g t d a mk) g t d a mk (fun l => (tree (minmaxLane t true) l).getD (redIdentity t true)) s
def execVredmin (g : Guard) (t : VTy) (d : VBlock) (a : VOrg) (mk : MReg) (s : State) :=
  reduce (.vredmin g t d a mk) g t d a mk (fun l => (tree (minmaxLane t false) l).getD (redIdentity t false)) s

/-- The float prefix sums of the masked lanes; the others keep their old value. -/
def scanFlt (op : W32 → W32 → W32) : Option W32 → List (Option W32 × W32) → List W32
  | _, [] => []
  | acc, (none, old) :: rest => old :: scanFlt op acc rest
  | acc, (some x, _) :: rest =>
    let v := match acc with | none => x | some a => op a x
    v :: scanFlt op (some v) rest

/-- The exact integer prefix sums, narrowed lane by lane. -/
def scanInt (k : IntTy) (sat : Bool) : Int → List (Option W32 × W32) → List W32
  | _, [] => []
  | acc, (none, old) :: rest => old :: scanInt k sat acc rest
  | acc, (some x, _) :: rest =>
    let v := acc + valueOf k (x.setWidth 64)
    laneOfInt k (narrow k sat v) :: scanInt k sat v rest

def execVscan (g : Guard) (t : VTy) (rm : Rm) (sat : Bool) (d : VBlock) (a : VOrg) (mk : MReg) (s : State) :=
  vecA (.vscan g t rm sat d a mk) g [] d a (fun s la old =>
    let l := List.zip (present (s.me.rm mk.toNat) la) old
    match t with
    | .flt f => scanFlt (arith t rm false (FVal.add rm) (· + ·)) none
        (l.map fun x => (x.1.map (trimLane (.flt f)), x.2))
    | _ => scanInt (laneInt t) sat 0 l) s

/-! ## Permutes (R285) -/

def execVperm (g : Guard) (d : VBlock) (a : VOrg) (b : VB) (mk : MReg) (s : State) :=
  vecInstr (.vperm g d a b mk) g (vbRegs b) (s.dstOk d && s.orgOk d a && s.vbOk d b) (blkH d * blkW d) (fun s =>
    s.writeBlock d fun p old =>
      let la := s.srcLanes a p
      maskLanes (s.me.rm mk.toNat) old ((s.vbLanes b p).map fun k => la.getD (k.toNat % 64) 0)) s

def execVrot (g : Guard) (d : VBlock) (a : VOrg) (x : XReg) (mk : MReg) (s : State) :=
  vecA (.vrot g d a x mk) g [x] d a (fun s la old =>
    maskLanes (s.me.rm mk.toNat) old ((List.range 64).map fun i => la.getD ((i + (s.rx x).toNat % 64) % 64) 0)) s

/-- The lane that pattern `pat` puts at lane i: from A or from B (R285). -/
def shufLane (pat i : Nat) : Bool × Nat :=
  match pat with
  | 0 => (i % 2 == 1, i / 2)
  | 1 => (i % 2 == 1, 32 + i / 2)
  | 2 => (32 ≤ i, 2 * (i % 32))
  | 3 => (32 ≤ i, 2 * (i % 32) + 1)
  | _ => (32 ≤ i, i % 32)

def execVshuf (g : Guard) (d : VBlock) (a b : VOrg) (pat : BitVec 7) (mk : MReg) (s : State) :=
  vecInstr (.vshuf g d a b pat mk) g [] (s.dstOk d && s.orgOk d a && s.orgOk d b) (blkH d * blkW d) (fun s =>
    s.writeBlock d fun p old =>
      let la := s.srcLanes a p
      let lb := s.srcLanes b p
      maskLanes (s.me.rm mk.toNat) old ((List.range 64).map fun i =>
        let k := shufLane pat.toNat i
        if k.1 then lb.getD k.2 0 else la.getD k.2 0)) s

/-! ## Compress, argmax, rescale (R286 to R288) -/

def execVcompress (g : Guard) (d : VBlock) (a : VOrg) (mk : MReg) (s : State) :=
  vecA (.vcompress g d a mk) g [] d a (fun s la _ =>
    let k := (present (s.me.rm mk.toNat) la).filterMap id
    k ++ List.replicate (64 - k.length) 0) s

/-- In each group of g lanes the n of largest rank keep their lane; ties go to the lower lane (R286). -/
def keepTop (rank : Nat → Nat) (n g : Nat) (l : List W32) : List W32 :=
  (chunks g 64 l).flatMap fun c =>
    let keyed := (List.range c.length).map fun i => ((c.getD i 0).toNat, i)
    let keep := ((sortDesc rank keyed).take n).map (·.2)
    (List.range c.length).map fun i => if keep.contains i then c.getD i 0 else 0

def execVcompressMag (g : Guard) (d : VBlock) (a : VOrg) (lg : BitVec 3) (nM1 : BitVec 4) (s : State) :=
  vecA (.vcompressMag g d a lg nM1) g [] d a (fun _ la _ => keepTop rankMag (nM1.toNat + 1) (2 ^ lg.toNat) la) s
def execVcompressTop (g : Guard) (t : KeyTy) (d : VBlock) (a : VOrg) (lg : BitVec 3) (nM1 : BitVec 4) (s : State) :=
  vecA (.vcompressTop g t d a lg nM1) g [] d a (fun _ la _ => keepTop (rankKey t) (nM1.toNat + 1) (2 ^ lg.toNat) la) s

/-- The largest masked lane and its index, or the values for no lane (R287). -/
def argmax (t : KeyTy) (l : List (Option W32)) : W32 × W32 :=
  let keyed := (List.range 64).filterMap fun i => match l.getD i none with
    | some w => some (w.toNat, i)
    | none => none
  match sortDesc (rankKey t) keyed with
  | (k, i) :: _ => (BitVec.ofNat 32 k, BitVec.ofNat 32 i)
  | [] => (match t with | .f32 => 0xFFFFFFFF | .i32 => 0x80000000, 64)

def execVargmax (g : Guard) (t : KeyTy) (d : VBlock) (a : VOrg) (mk : MReg) (s : State) :=
  vecA (.vargmax g t d a mk) g [] d a (fun s la old =>
    let r := argmax t (present (s.me.rm mk.toNat) la)
    r.1 :: r.2 :: old.drop 2) s

/-- The lanes of a block row, one after another: a rescaling triple (R288). -/
def State.rowLanes (s : State) (o : VOrg) (w r : Nat) : List Nat :=
  (List.range w).flatMap fun c => (s.srcLanes o (r, c)).map (·.toNat)

def execVrescale (g : Guard) (d : VBlock) (a b : VOrg) (s : State) :=
  vecInstr (.vrescale g d a b) g [] (s.dstOk d && s.orgOk d a && s.orgOk d b) (blkH d * blkW d) (fun s =>
    let rows := (List.range (blkH d)).map fun r => (rescale (s.rowLanes a (blkW d) r) (s.rowLanes b (blkW d) r)).map (BitVec.ofNat 32 ·)
    s.writeBlock d fun p _ => ((rows.getD p.1 []).drop (64 * p.2)).take 64) s

/-! ## Mask logic (R289) -/

/-- A mask instruction: the vector unit takes one position (R276). -/
def maskInstr (i : Instr) (g : Guard) (md ma mb : MReg) (f : W64 → W64 → W64) (s : State) :
    Host.Outcome State Fault Refusal :=
  vecInstr i g [] true 1 (fun s => s.modMe fun t => t.wm md.toNat (f (t.rm ma.toNat) (t.rm mb.toNat))) s

def execMand (g : Guard) (md ma mb : MReg) (s : State) := maskInstr (.mand g md ma mb) g md ma mb (fun a b => a &&& b) s
def execMor (g : Guard) (md ma mb : MReg) (s : State) := maskInstr (.mor g md ma mb) g md ma mb (fun a b => a ||| b) s
def execMxor (g : Guard) (md ma mb : MReg) (s : State) := maskInstr (.mxor g md ma mb) g md ma mb (fun a b => a ^^^ b) s
def execMnot (g : Guard) (md ma : MReg) (s : State) := maskInstr (.mnot g md ma) g md ma 0 (fun a _ => ~~~a) s
def execMpop (g : Guard) (d : XReg) (ma : MReg) (s : State) :=
  vecInstr (.mpop g d ma) g [d] true 1 (fun s => s.wx d (BitVec.ofNat 64 (popcOf 64 (s.me.rm ma.toNat).toNat))) s

end Sys2Proof.Machine
end

