-- ==== Sys2Proof/Machine/Matrix.lean ====
section
/-! DEFINITION. Matrix commands (R290 to R305): what a command reads at issue, its place in the domain's queue, the
array's cycles, its effect, and the instructions that wait for commands and weight slots. -/

namespace Sys2Proof.Machine

open Bits

/-! ## Formats of operands (R109, R125) -/

/-- Bits of an element by format code. -/
def elemBits (f : Nat) : Nat :=
  match f with
  | 0 => 32 | 1 | 2 => 16 | 6 => 6 | 7 | 10 => 4 | _ => 8

/-- MX codes, DX codes, and those whose elements come in blocks of 32. -/
def isMx (f : Nat) : Bool := 5 ≤ f && f ≤ 7
def isDx (f : Nat) : Bool := f == 9 || f == 10
def isBlock (f : Nat) : Bool := isMx f || isDx f

/-- Bytes that 32 dense elements take (R110, R116, R117), and 32 elements stored 2:4 sparse (R124). -/
def blockBytes (f : Nat) : Nat := 4 * elemBits f + if isDx f then 2 else 0
def sparseBytes (f : Nat) : Nat := 4 + 2 * elemBits f + if isDx f then 2 else 0

/-- Bytes that K elements of a row take. -/
def rowBytes (f k : Nat) : Nat := if isBlock f then k / 32 * blockBytes f else k * elemBits f / 8

/-- The rate of a pair: quarters of a MAC per cell per cycle, and the chunk length c; `none` when not valid (R125). -/
def pairRate (fa fb : Nat) : Option (Nat × Nat) :=
  let q (f : Nat) : Bool := f == 6 || f == 7 || f == 10
  let w (f : Nat) : Bool := f == 1 || f == 2
  if 10 < fa ∨ 10 < fb then none
  else if fa = 8 ∨ fb = 8 then (if fa = fb then some (8, 8) else none)
  else if fa = 0 ∨ fb = 0 then some (1, 1)
  else if q fa && q fb then some (16, 16)
  else if !q fa && !w fa && !q fb && !w fb then some (8, 8)
  else some (4, 4)

/-- The element format of a code that is not DX or INT8. -/
def fmtCode (f : Nat) : Fmt :=
  match f with
  | 0 => .f32 | 1 => .bf16 | 2 => .f16 | 4 => .e5m2 | 6 => .e2m3 | 7 => .e2m1 | _ => .e4m3

/-- The 32 codes of a group stored 2:4 sparse: index word, then 16 kept elements; the later placement stands (R124). -/
def sparseCodes (w v : Nat) : List Nat :=
  (List.range 8).flatMap fun g =>
    (List.range 4).map fun i =>
      if v >>> (4 * g + 2) % 4 = i then unpackElem w (v >>> 32) (2 * g + 1)
      else if v >>> (4 * g) % 4 = i then unpackElem w (v >>> 32) (2 * g)
      else 0

/-- The K values of one row of A or column of B: `v` spells its stored bytes, `scale n` is the scale byte of block n
(R110, R113 to R117, R124). -/
def operand (f k : Nat) (sparse : Bool) (v : Nat) (scale : Nat → Nat) : List FVal :=
  let w := elemBits f
  let codes (b : Nat) : List Nat := if sparse then sparseCodes w b else (List.range 32).map (unpackElem w b)
  let unit := 8 * (if sparse then sparseBytes f else blockBytes f)
  if isDx f then
    (List.range (k / 32)).flatMap fun n =>
      let b := v >>> (unit * n)
      (codes (b >>> 16)).map fun c => dxDecode (f == 9) c (b % 256) (b >>> 8 % 256)
  else if isMx f then
    (List.range (k / 32)).flatMap fun n => (codes (v >>> (unit * n))).map fun c => mxDecode (fmtCode f) c (scale n)
  else
    let value (c : Nat) : FVal := if f = 8 then ofIntVal (signed 8 c) else (fmtCode f).decode c
    if sparse then (List.range (k / 32)).flatMap fun n => (codes (v >>> (unit * n))).map value
    else (List.range k).map fun i => value (unpackElem w v i)

/-! ## The sum order (R126, R127) -/

/-- The exact sum of finite values as a multiple of a power of two. -/
def sumExact (l : List FVal) : Int × Int :=
  l.foldl (fun acc v => match v with
    | .fin s m e =>
      let r := addExact (acc.1 < 0) acc.1.natAbs acc.2 s m e
      if m = 0 then acc else r
    | _ => acc) (0, 0)

/-- One chunk: the exact sum of the products, rounded once (R126). -/
def chunkOf (ps : List FVal) : Nat :=
  let inf (n : Bool) : Bool := ps.any fun v => v == .inf n
  if ps.any FVal.isNan || (inf true && inf false) then f32.nanCode
  else if inf true then f32.signed true f32.infCode
  else if inf false then f32.infCode
  else
    let r := sumExact ps
    if r.1 = 0 then f32.signed (ps.all fun v => v.isZero && v.neg?) 0
    else f32.round .rne false (r.1 < 0) r.1.natAbs r.2 false

/-- The integer that a finite value holds. -/
def intOf (v : FVal) : Int :=
  match v with
  | .fin s m _ => if s then -(m : Int) else m
  | _ => 0

/-- The pass over the chunks of one output element (R126, R127). -/
def accumulate (int sat : Bool) : List (List FVal) → Nat → Nat
  | [], acc => acc
  | ps :: rest, acc =>
    if int then
      accumulate int sat rest (narrow .i32 sat (sOf 32 acc + (ps.map intOf).foldl (· + ·) 0))
    else accumulate int sat rest (canon (addF32 acc (chunkOf ps)))

/-- An output element: the chunked sum of A[k] * B[k] into the accumulator. -/
def dot (int sat : Bool) (c : Nat) (a b : List FVal) (acc : Nat) : Nat :=
  accumulate int sat (chunks c a.length (List.zipWith FVal.mul a b)) acc

/-! ## The tile-step row (R294, R295, R298) -/

/-- The fields of a tile-step row. -/
structure TileStep where
  aBase   : Nat
  aStride : Nat
  aStep   : Int
  wOff    : Nat
  wStride : Nat
  wStep   : Int
  k       : Nat
  rows    : Nat
  cols    : Nat
  fa      : Nat
  fb      : Nat
  accStep : Nat
  zero    : Bool
  transA  : Bool
  sparse  : Bool
  sat     : Bool
  resv    : Nat

def tileStep (b : List Byte) : TileStep :=
  let r : BitVec 256 := BitVec.ofNat 256 (ofBytes b)
  { aBase := fld r 232 24, aStride := fld r 208 24, aStep := signed 24 (fld r 184 24), wOff := fld r 167 17,
    wStride := fld r 150 17, wStep := signed 18 (fld r 132 18), k := fld r 120 12 + 1, rows := fld r 114 6 + 1,
    cols := fld r 108 6 + 1, fa := fld r 104 4, fb := fld r 100 4, accStep := fld r 94 6, zero := bit r 93,
    transA := bit r 92, sparse := bit r 91, sat := bit r 90, resv := fld r 0 90 }

/-- A multiply-mode record is valid with resolved formats (R295). -/
def TileStep.okMul (r : TileStep) (fa fb : Nat) : Bool :=
  (pairRate fa fb).isSome && (r.k % 32 == 0 || !(isBlock fa || isBlock fb || r.sparse)) &&
    !(r.transA && isBlock fa) && !(r.sparse && fb == 0) && (!r.sat || fa == 8) && !(isMx fa && r.aStep < 0) &&
    r.resv == 0

/-- A record of the sort and top-k modes is valid (R298). -/
def TileStep.okSort (r : TileStep) (top : Bool) : Bool :=
  r.wOff == 0 && r.wStride == 0 && r.wStep == 0 && r.rows == 1 && r.fa == 0 && r.fb == 0 && r.accStep == 0 &&
    !r.zero && !r.transA && !r.sparse && !r.sat && r.resv == 0 && r.aStride % 4 == 0 &&
    (if top then r.cols ≤ r.k else r.cols == 1)

/-! ## Addresses of a command (R292, R354) -/

/-- The local-store offset of an operand range in the private, local or saddle window of the issuing tile. -/
def State.lsOf (s : State) (a : W64) (n : Nat) : Option Nat :=
  let d := s.myDom
  match windowOf a with
  | .priv =>
    let b := d.privAt s.me.idx + offOf a
    if offOf a + n ≤ d.privSize ∧ d.holds b n then some b else none
  | .saddle =>
    let b := d.saddleActive + saddleOff a
    if saddleOff a + n ≤ d.saddleSize ∧ d.holds b n then some b else none
  | .loc => if d.holds (offOf a) n then some (offOf a) else none
  | _ => none

/-- The address causes 0x05, 0x06 and 0x07 of addresses with their alignments (R354). -/
def State.addrCause (s : State) (as : List (W64 × Nat)) : Option (Nat × W64) :=
  let win (a : W64) : Bool := match windowOf a with | .priv | .saddle | .loc => true | _ => false
  let far (a : W64) : Bool := match windowOf a with | .loc => tileOf a != s.cur.1 | _ => false
  ((as.find? fun a => a.1.toNat % a.2 != 0).map fun a => (0x05, a.1)).or
    (((as.find? fun a => !win a.1).map fun a => (0x06, a.1)).or
      ((as.find? fun a => far a.1).map fun a => (0x07, a.1)))

/-- The accumulator tiles n, n + step, ... of a command, modulo 64. -/
def accTiles (n step count : Nat) : List Nat := (List.range count).map fun j => (n + j * step) % 64

/-- A slot or accumulator tile that the domain does not hold: cause 0x0F (R200, R345). -/
def State.unowned (s : State) (slots tiles : List Nat) : Option (Nat × W64) :=
  let d := s.myDom
  ((slots.find? fun n => !bit d.slotMask n).map fun n => (0x0F, BitVec.ofNat 64 n)).or
    ((tiles.find? fun n => !bit d.accMask n).map fun n => (0x0F, BitVec.ofNat 64 (256 + n)))

/-- Ranges of local store given by offset and length: each lies in the allotment, or 0x09 with this value. -/
def State.rangesOk (s : State) (rs : List (Int × Int)) : Bool :=
  rs.all fun r => 0 ≤ r.1 && s.myDom.holds r.1.toNat (r.2 - r.1).toNat

/-- A residency record in progress whose range a command touches after its deadline, or a slot that is not full after
its own (R387): the command misses its schedule. -/
def State.matMiss (s : State) (slot : Option Nat) (rs : List (Int × Int)) (ea : W64) : Option W64 :=
  let d := s.myDom
  match slot.bind fun n =>
      let x := s.slot s.cur.1 n
      match x.due with
      | some m => if !x.full && m.1 ≤ d.marker.toNat then some (BitVec.ofNat 64 n) else none
      | none => none with
  | some v => some v
  | none =>
    if rs.any fun r => (d.misses r.1.toNat (r.2 - r.1).toNat).any fun x => x.st == 0 then some ea else none

/-- Bytes of a drained element (R301). -/
def drainBytes : DrainTy → Nat
  | .none => 4 | .bf16 | .f16 => 2 | .e4m3 | .e5m2 | .i8 => 1

/-! ## Operand bytes -/

/-- Little-endian halfwords of a list of bytes. -/
def halves (b : List Byte) : List Nat := (chunks 2 b.length b).map ofBytes

/-- Damaged words of slots and accumulator tiles stand above those of memory (R369). -/
def slotBadKey (T n off : Nat) : Nat := 2 ^ 50 + slotAddr T n off / 8
def accBadKey (T n row col : Nat) : Nat := 2 ^ 51 + (((T * 64 + n) * 64 + row) * 64 + col) / 2

/-- A slot byte that the command reads: zero at or above the fill length (R296); below offset 0 the manual gives no
byte, and it is free (log 11). -/
def State.slotByte (s : State) (T n : Nat) (off : Int) : Byte :=
  if off < 0 then (Config.freeWord (s.free * 2 ^ 32 + off.natAbs)).setWidth 8
  else if off.toNat < (s.slot T n).len then Memory.get s.slotMem (slotAddr T n off.toNat)
  else 0

/-- The number that slot bytes spell. -/
def State.slotNum (s : State) (T n : Nat) (off : Int) (len : Nat) : Nat :=
  ofBytes ((List.range len).map fun (i : Nat) => s.slotByte T n (off + i))

/-- A word belongs to a slot, or to an accumulator tile. -/
def inSlot (T n w : Nat) : Bool := slotBadKey T n 0 ≤ w && w ≤ slotBadKey T n 0x1FFFF
def inAcc (T n w : Nat) : Bool := accBadKey T n 0 0 ≤ w && w ≤ accBadKey T n 63 63

/-- A word of the slot, or of an accumulator tile, has failed its check (R369). -/
def State.slotBad (s : State) (T n : Nat) : Bool := s.bad.any (inSlot T n)
def State.accBad (s : State) (T n : Nat) : Bool := s.bad.any (inAcc T n)

/-! ## Effects -/

/-- The repeats of an `mstep` in their order (R187). -/
def repeatOrder (p : Nat) (table : List Nat) (n : Nat) : List Nat :=
  if table ≠ [] ∧ n = table.length * p then table.flatMap fun o => (List.range p).map fun k => o * p + k
  else List.range n

/-- The rows of A at a repeat. The scale of a block whose address is not a whole number of blocks from A_BASE is that of the
next lower one: R296 divides and says nothing of a remainder (DESIGN CHOICE, log 133). -/
def State.rowsA (s : State) (T : Nat) (c : MCmd) (t : TileStep) (j : Nat) : List (List FVal) :=
  let a0 := (t.aBase + t.aStep * j).toNat
  (List.range t.rows).map fun row =>
    if t.transA then
      let e := elemBits c.fa / 8
      (List.range t.k).flatMap fun k => operand c.fa 1 false (s.lsNum T (a0 + k * t.aStride + row * e) e) fun _ => 0
    else
      let o := a0 + row * t.aStride
      let u := blockBytes c.fa
      operand c.fa t.k false (s.lsNum T o (rowBytes c.fa t.k)) fun n =>
        s.lsNum T ((c.sa : Int) + (((o + n * u : Nat) : Int) - t.aBase) / (u : Int)).toNat 1

/-- The columns of B at a repeat, with the scales of the next lower block as for A (R296; DESIGN CHOICE, log 133). -/
def State.colsB (s : State) (T slot : Nat) (c : MCmd) (t : TileStep) (j : Nat) : List (List FVal) :=
  let w0 : Int := t.wOff + t.wStep * j
  (List.range t.cols).map fun (col : Nat) =>
    let o : Int := w0 + col * t.wStride
    let u := if t.sparse then sparseBytes c.fb else blockBytes c.fb
    let len := if t.sparse then t.k / 32 * u else rowBytes c.fb t.k
    operand c.fb t.k t.sparse (s.slotNum T slot o len) fun n =>
      s.slotNum T slot (c.sb + (o + (n * u : Nat) - t.wOff) / (u : Int)) 1

/-- Element (row, col) of an accumulator tile becomes a function of its old value, for rows and columns below the
bounds. -/
def State.mapAcc (s : State) (T n rows cols : Nat) (f : Nat → Nat → W32 → W32) : State :=
  (List.range rows).foldl (fun s row => (List.range cols).foldl (fun s col =>
    s.setAcc T n row col (f row col (s.accAt T n row col))) s) s

/-- One repeat of an `mstep` (R296). -/
def State.repeatStep (s : State) (T slot n : Nat) (c : MCmd) (t : TileStep) (st : State × List Nat) (j : Nat) :
    State × List Nat :=
  let tile := (n + j * t.accStep) % 64
  let s1 := if t.zero && !st.2.contains tile then st.1.mapAcc T tile t.rows t.cols fun _ _ _ => 0 else st.1
  let a := s.rowsA T c t j
  let b := s.colsB T slot c t j
  let ch := ((pairRate c.fa c.fb).getD (4, 4)).2
  (s1.mapAcc T tile t.rows t.cols fun row col v =>
    BitVec.ofNat 32 (dot (c.fa == 8) t.sat ch (a.getD row []) (b.getD col []) v.toNat), tile :: st.2)

/-- `mstep` in multiply mode: every repeat in its order. -/
def State.runStep (s : State) (T d slot n count : Nat) (c : MCmd) : State :=
  let dm := s.dom T d
  let t := tileStep c.bytes
  ((repeatOrder dm.rasterP dm.raster count).foldl (s.repeatStep T slot n c t) (s.bump, [])).1

/-- The tokens of one group (R297). -/
def tokens (t : KeyTy) (top : Bool) (k : Nat) (keys : List Nat) : List Byte :=
  let keyed := (List.range keys.length).map fun i => (keys.getD i 0, i)
  let l := if top then (sortDesc (rankKey t) keyed).take k else sortAsc (rankKey t) keyed
  l.flatMap fun x => toBytes 8 (x.1 + x.2 * 2 ^ 32)

/-- A sorting command: each group's tokens go to the output. -/
def State.runSort (s : State) (T : Nat) (t : KeyTy) (top : Bool) (base : Nat) (step : Int) (stride g k count out : Nat) : State :=
  (List.range count).foldl (fun s' (j : Nat) =>
    let o := (base + step * j).toNat
    s'.lsStore T (out + 8 * k * j) (tokens t top k ((List.range g).map fun i => s.lsNum T (o + i * stride) 4))) s

/-- A drained element (R120, R301). -/
def drainElem (t : DrainTy) (sat : Bool) (v : W32) : Nat :=
  match t with
  | .none => v.toNat
  | .i8 => narrow .i8 sat (sOf 32 v.toNat)
  | .bf16 => convert (.flt .bf16) (.flt .f32) .rne sat v.toNat
  | .f16 => convert (.flt .f16) (.flt .f32) .rne sat v.toNat
  | .e4m3 => convert .e4m3 (.flt .f32) .rne sat v.toNat
  | .e5m2 => convert .e5m2 (.flt .f32) .rne sat v.toNat

/-- The lane that `mdrainv` writes (R273, R301). -/
def drainLane (t : DrainTy) (sat : Bool) (v : W32) : W32 :=
  match t with
  | .i8 => laneOfInt .i8 (drainElem t sat v)
  | _ => laneOfFlt (drainElem t sat v)

/-- The effect of a command on memory and accumulators (R296 to R302); `mdrainv` writes its registers on completion. -/
def State.runCmd (s : State) (T d : Nat) (c : MCmd) : State :=
  match c.ins with
  | .mstep _ acc slot _ cM1 => s.runStep T d slot.toNat acc.toNat (cM1.toNat + 1) c
  | .mstepSort _ t _ _ cM1 =>
    let r := tileStep c.bytes
    s.runSort T t false c.a r.aStep r.aStride r.k r.k (cM1.toNat + 1) c.b
  | .mstepTopk _ t _ _ cM1 =>
    let r := tileStep c.bytes
    s.runSort T t true c.a r.aStep r.aStride r.k r.cols (cM1.toNat + 1) c.b
  | .msort _ t lg _ _ cM1 => s.runSort T t false c.a (4 * 2 ^ lg.toNat) 4 (2 ^ lg.toNat) (2 ^ lg.toNat) (cM1.toNat + 1) c.b
  | .mtopk _ t lg kM1 _ _ cM1 =>
    s.runSort T t true c.a (4 * 2 ^ lg.toNat) 4 (2 ^ lg.toNat) (kM1.toNat + 1) (cM1.toNat + 1) c.b
  | .mzero _ acc cM1 => (accTiles acc.toNat 1 (cM1.toNat + 1)).foldl (fun s n => s.mapAcc T n 64 64 fun _ _ _ => 0) s
  | .mload _ acc _ cM1 =>
    (List.range (cM1.toNat + 1)).foldl (fun s i => s.mapAcc T ((acc.toNat + i) % 64) 64 64 fun row col _ =>
      BitVec.ofNat 32 (s.lsNum T (c.a + 16384 * i + 256 * row + 4 * col) 4)) s
  | .mdrain _ t sat acc _ _ cM1 =>
    (List.range (cM1.toNat + 1)).foldl (fun s i => (List.range 64).foldl (fun s row =>
      s.lsStore T (c.a + 64 * c.st * i + c.st * row) ((List.range 64).flatMap fun col =>
        toBytes (drainBytes t) (drainElem t sat (s.accAt T ((acc.toNat + i) % 64) row col)))) s) s
  | .mcfg _ _ => s.modDom T d fun v => { v with rasterP := (halves c.bytes).headD 0, raster := (halves c.bytes).drop 2 }
  | .mcfgOff _ => s.modDom T d fun v => { v with rasterP := 0, raster := [] }
  | _ => s

/-- The states that a command's repeats pass through, from before the first to after the last (R296). -/
def State.stepStates (s : State) (T d slot n count : Nat) (c : MCmd) : List State :=
  let dm := s.dom T d
  let t := tileStep c.bytes
  ((repeatOrder dm.rasterP dm.raster count).foldl (fun (l : List (State × List Nat)) j =>
    match l with
    | [] => []
    | st :: _ => s.repeatStep T slot n c t st j :: l) [(s.bump, [])]).map (·.1)

/-- Each element of accumulator tiles takes what it holds in one of some states, by free choice (R344, log 86). -/
def State.mixAcc (s : State) (T : Nat) (tiles : List Nat) (l : List State) : State :=
  tiles.foldl (fun s n => (List.range 64).foldl (fun s row => (List.range 64).foldl (fun s col =>
    match l[Config.choose s.free l.length % l.length]? with
    | some t => s.bump.setAcc T n row col (t.accAt T n row col)
    | none => s) s) s) s

/-- What a command that fails has written before the point of failure: elements of its accumulator tiles hold their value
from before or one that the command computed, and of its output in local store a free number of groups or rows is written
(R344, log 86). -/
def State.failCmd (s : State) (T d : Nat) (c : MCmd) : State :=
  let part (n : Nat) : Nat := Config.choose s.free (n + 1) % (n + 1)
  match c.ins with
  | .mstep _ acc slot _ cM1 =>
    let tiles := (accTiles acc.toNat (tileStep c.bytes).accStep (cM1.toNat + 1)).eraseDups
    s.mixAcc T tiles (s.stepStates T d slot.toNat acc.toNat (cM1.toNat + 1) c)
  | .mload _ acc _ cM1 => s.mixAcc T (accTiles acc.toNat 1 (cM1.toNat + 1)) [s, s.runCmd T d c]
  | .mstepSort _ t _ _ cM1 =>
    let r := tileStep c.bytes
    s.bump.runSort T t false c.a r.aStep r.aStride r.k r.k (part (cM1.toNat + 1)) c.b
  | .mstepTopk _ t _ _ cM1 =>
    let r := tileStep c.bytes
    s.bump.runSort T t true c.a r.aStep r.aStride r.k r.cols (part (cM1.toNat + 1)) c.b
  | .msort _ t lg _ _ cM1 =>
    s.bump.runSort T t false c.a (4 * 2 ^ lg.toNat) 4 (2 ^ lg.toNat) (2 ^ lg.toNat) (part (cM1.toNat + 1)) c.b
  | .mtopk _ t lg kM1 _ _ cM1 =>
    s.bump.runSort T t true c.a (4 * 2 ^ lg.toNat) 4 (2 ^ lg.toNat) (kM1.toNat + 1) (part (cM1.toNat + 1)) c.b
  | .mdrain _ t sat acc _ _ cM1 =>
    (List.range (part (64 * (cM1.toNat + 1)))).foldl (fun s k =>
      s.lsStore T (c.a + 64 * c.st * (k / 64) + c.st * (k % 64)) ((List.range 64).flatMap fun col =>
        toBytes (drainBytes t) (drainElem t sat (s.accAt T ((acc.toNat + k / 64) % 64) (k % 64) col)))) s.bump
  | _ => s

/-- Ranges of local store that a command reads, by offset and length. -/
def readsOf (c : MCmd) : List (Nat × Nat) :=
  let groups (base : Nat) (step : Int) (stride g count : Nat) : List (Nat × Nat) :=
    (List.range count).flatMap fun (j : Nat) => (List.range g).map fun (i : Nat) => ((base + step * j).toNat + i * stride, 4)
  match c.ins with
  | .mstep _ _ _ _ cM1 =>
    let t := tileStep c.bytes
    let u := blockBytes c.fa
    (List.range (cM1.toNat + 1)).flatMap fun (j : Nat) =>
      let a0 := (t.aBase + t.aStep * j).toNat
      if t.transA then (List.range t.k).map fun k => (a0 + k * t.aStride, t.rows * (elemBits c.fa / 8))
      else (List.range t.rows).flatMap fun row =>
        let o := a0 + row * t.aStride
        if isMx c.fa then [(o, rowBytes c.fa t.k), (((c.sa : Int) + ((o : Int) - t.aBase) / (u : Int)).toNat, t.k / 32)] else [(o, rowBytes c.fa t.k)]
  | .mstepSort _ _ _ _ cM1 => let r := tileStep c.bytes; groups c.a r.aStep r.aStride r.k (cM1.toNat + 1)
  | .mstepTopk _ _ _ _ cM1 => let r := tileStep c.bytes; groups c.a r.aStep r.aStride r.k (cM1.toNat + 1)
  | .msort _ _ lg _ _ cM1 => [(c.a, 4 * 2 ^ lg.toNat * (cM1.toNat + 1))]
  | .mtopk _ _ lg _ _ _ cM1 => [(c.a, 4 * 2 ^ lg.toNat * (cM1.toNat + 1))]
  | .mload _ _ _ cM1 => [(c.a, 16384 * (cM1.toNat + 1))]
  | _ => []

/-- The slot that a command reads, and the accumulator tiles whose words it reads. -/
def slotRead : Instr → Option Nat
  | .mstep _ _ slot _ _ => some slot.toNat
  | _ => none

def accReads (c : MCmd) : List Nat :=
  match c.ins with
  | .mstep _ acc _ _ cM1 =>
    let t := tileStep c.bytes
    if t.zero then [] else accTiles acc.toNat t.accStep (cM1.toNat + 1)
  | .mdrain _ _ _ acc _ _ cM1 => accTiles acc.toNat 1 (cM1.toNat + 1)
  | .mdrainv _ _ _ _ acc _ _ => [acc.toNat]
  | _ => []

/-- A command reads a word (R369). -/
def cmdReads (T : Nat) (c : MCmd) (w : Nat) : Bool :=
  ((readsOf c).any fun r => inStore T r.1 r.2 w) || ((accReads c).any fun n => inAcc T n w) ||
    match slotRead c.ins with
    | some n => inSlot T n w
    | none => false

/-- A command meets lost data: the fill of its slot, a residency record, or a word that fails its check (R371). -/
def State.cmdLost (s : State) (T d : Nat) (c : MCmd) : Bool :=
  c.lost ||
    (match slotRead c.ins with
     | some n => (s.slot T n).lost || s.slotBad T n
     | none => false) ||
    (!(s.dom T d).resid.isEmpty && (readsOf c).any fun r => ((s.dom T d).misses r.1 r.2).any fun x => x.st == 2) ||
    (!s.bad.isEmpty && ((readsOf c).any (fun r => s.lsBad T r.1 r.2) || (accReads c).any (s.accBad T)))

/-- A command may begin in the array: the thread's earlier accesses have performed, its slot is full and its ranges
are resident (R292, R296, R387). A command that meets lost data does not wait for them. -/
def State.cmdReady (s : State) (T d : Nat) (c : MCmd) : Bool :=
  ((s.thread T c.hw).outst.all fun x => c.prior ≤ x.seq) &&
    (s.cmdLost T d c ||
      ((match slotRead c.ins with
        | some n => (s.slot T n).full
        | none => true) &&
       ((s.dom T d).resid.isEmpty ||
         (readsOf c).all fun r => ((s.dom T d).misses r.1 r.2).all fun x => x.st != 0)))

/-! ## The array (R291) -/

/-- Changes the command with a ticket. -/
def Dom.modCmd (d : Dom) (ticket : Nat) (f : MCmd → MCmd) : Dom :=
  { d with mq := d.mq.map fun c => if c.ticket = ticket then f c else c }

/-- A tile's full bit for a slot clears and the tile contributes to the slot's release (R159, R160). -/
def State.releaseSlot (s : State) (T n : Nat) : State :=
  let x := s.slot T n
  if x.full then (s.setSlot T n { x with full := false }).signalRelease T n else s

/-- Releases that wait for commands which have now finished reading their slot take effect (R304). -/
def State.runWrels (s : State) (T d : Nat) : State :=
  let dm := s.dom T d
  let held (w : Nat × Nat) : Bool := dm.mq.any fun c => !c.fini && c.ticket < w.2 && slotRead c.ins == some w.1
  let go := dm.wrels.filter fun w => !held w
  go.foldl (fun s w => s.releaseSlot T w.1) (s.modDom T d fun v => { v with wrels := v.wrels.filter held })

/-- Tile cycles that a missed use has stalled (R387). -/
def State.countStall (s : State) (T d : Nat) (since : Option Nat) : State :=
  match since with
  | some c => s.modReg (tileReg T (0x140 + 8 * d)) fun v => satAdd v 0 32 (s.tcycle - c)
  | none => s

/-- The rows that `mdrainv` takes from its accumulator tile in the command's last array cycle, converted: 256 bytes each
(R290, R291, R301). -/
def State.drainRows (s : State) (T : Nat) (c : MCmd) : List Byte :=
  match c.ins with
  | .mdrainv _ ty sat _ acc _ cM1 =>
    (List.range (cM1.toNat + 1)).flatMap fun i => (List.range 64).flatMap fun col =>
      toBytes 4 (drainLane ty sat (s.accAt T acc.toNat ((c.a + i) % 64) col)).toNat
  | _ => c.bytes

/-- The tile cycles from a command's last array cycle to its completion (R291). -/
def arrayTail : Nat := 70

/-- The array gives one cycle to the oldest unfinished command of a domain; with its last one the command has read
and computed, and it completes 70 tile cycles later. -/
def State.arrayCycle (s : State) (T d : Nat) : State :=
  match (s.dom T d).mq.find? fun c => !c.fini with
  | none => s
  | some c =>
    if c.left = 0 ∨ !s.cmdReady T d c then s
    else
      let s1 := (s.countStall T d c.stall).modDom T d fun v => v.modCmd c.ticket fun c => { c with stall := none }
      if s.cmdLost T d c then
        (((if c.lost then s1 else s1.failCmd T d c).modDom T d fun v => v.modCmd c.ticket fun c => { c with fini := true, lost := true }).runWrels T d).afterTile
          arrayTail (.matrixCommandComplete T d)
      else if c.left = 1 then
        ((((s1.scrub (cmdReads T c) false).runCmd T d c).modDom T d fun v => v.modCmd c.ticket fun c => { c with fini := true, left := 0, bytes := s1.drainRows T c }).runWrels
          T d).afterTile arrayTail (.matrixCommandComplete T d)
      else s1.modDom T d fun v => v.modCmd c.ticket fun c => { c with left := c.left - 1 }

/-- `mcfg` completes in the cycle in which it reaches the head of the queue; one whose table was lost fails there
(R291, R371). `fuel` bounds the commands. -/
def State.runHead (s : State) (T d : Nat) : Nat → State
  | 0 => s
  | fuel + 1 =>
    match (s.dom T d).mq with
    | c :: rest =>
      if c.fini then s
      else if c.left = 0 then
        ((s.runCmd T d c).modDom T d fun v => { v with mq := rest }).runHead T d fuel
      else s
    | [] => s

/-! ## Entering the queue (R290, R292, R354) -/

/-- A command before it enters the queue. -/
def State.newCmd (s : State) (i : Instr) : MCmd :=
  { ins := i, hw := s.cur.2, pc := s.me.pc, ticket := 0, prior := s.me.seq, bytes := [], a := 0, b := 0, st := 0,
    fa := 0, fb := 0, sa := s.me.scaleA.toNat, sb := s.me.scaleB.toNat, left := 0, fini := false, lost := false,
    stall := none }

/-- A command that misses its schedule counts in SM_STAT and stalls, or traps with SM_TRAP (R387). -/
def State.missOr (s : State) (miss : Option W64) (f : State → State) : State :=
  match miss with
  | some v => if bit s.myDom.fdPolicy 3 then s.raise 0x10 v else f s
  | none => f s

/-- The command enters its domain's queue, and the instruction retires or, for `mdrainv`, parks; a full queue parks the
thread. -/
def State.queueCmd (s : State) (c : MCmd) (miss : Option W64) : State :=
  s.missOr miss fun s => s.ranged fun s =>
    let d := s.myDom
    if 16 ≤ d.mq.length then s.park c.ins .mqueue
    else
      let s := if miss.isSome then s.modReg (tileReg s.cur.1 (0x140 + 8 * s.myDomNo)) fun v => satAdd v 32 32 1 else s
      let c := { c with ticket := d.mticket, stall := if miss.isSome then some s.tcycle else none }
      let s := s.modDom s.cur.1 s.myDomNo fun d => { d with mq := d.mq ++ [c], mticket := d.mticket + 1 }
      match c.ins with
      | .mdrainv _ _ _ _ _ _ _ => s.park c.ins (.drainv c.ticket)
      | _ => (s.runHead s.cur.1 s.myDomNo 17).advance

/-- Runs `f` unless one of the causes found so far is raised. -/
def State.unless (s : State) (c : Option (Nat × W64)) (f : State → State) : State :=
  match c with
  | some (c, v) => s.raise c v
  | none => f s

/-- Runs `f` with the bytes at an address, read once every earlier access of the thread to them, and an acquire that holds
later accesses, has performed (R97, R100); out of range is 0x09. The bytes are `none` when they have failed their check or
their fetch was lost; a record that is not yet resident is missed as a load misses it (R371, R387; log 150). -/
def State.withRecord (s : State) (i : Instr) (a : W64) (n : Nat) (f : Option (List Byte) → State → State) : State :=
  match s.lsOf a n with
  | none => s.raise 0x09 a
  | some off =>
    if s.me.hold ∧ !s.priorDone s.cur.1 s.cur.2 then s.ranged fun s => s.park i .prior
    else if s.clash [(⟨0, a, a, n, 0, 0⟩, .own off)] then s.ranged fun s => s.park i .same
    else
    let ms := s.myDom.misses off n
    if s.lsBad s.cur.1 off n || ms.any (·.st == 2) then f none s
    else if !ms.isEmpty then
      (if bit s.myDom.fdPolicy 3 then s.raise 0x10 a else s.ranged fun s => s.countMiss.park i .resident)
    else f (some (s.lsRead s.cur.1 off n)) (s.scrub (inStore s.cur.1 off n) false)

/-- Half-open range that a base moving by `step` over `count` repeats covers, each time for `len` bytes. -/
def spanOf (base step : Int) (count len : Nat) : Int × Int :=
  let last := base + step * (count - 1 : Nat)
  (min base last, max base last + len)

/-- Array cycles of a sort or top-k command (R291). -/
def sortCycles (g count : Nat) : Nat := count * (4 * ((g + 63) / 64) + 64)

/-- A sorting command: keys of `count` groups of g at a base, a step and a stride; k tokens of each group go to the
output (R297 to R299). `ea` is what an out-of-range key reports. -/
def State.sortCmd (s : State) (i : Instr) (ea o : W64) (base : Nat) (step : Int) (stride g k count : Nat) (bytes : List Byte) :
    State :=
  let keys := spanOf base step count ((g - 1) * stride + 4)
  match s.rangesOk [keys], s.lsOf o (8 * k * count) with
  | false, _ => s.raise 0x09 ea
  | true, none => s.raise 0x09 o
  | true, some out =>
    s.queueCmd { s.newCmd i with bytes := bytes, a := base, b := out, left := sortCycles g count } (s.matMiss none [keys] ea)

/-- A command whose record has failed its check enters the queue and fails there (R371). -/
def State.lostRecord (s : State) (i : Instr) : State := s.queueCmd { s.newCmd i with left := 1, lost := true } none

/-- `mstep` in multiply mode (R294 to R296). -/
def execMstep (g : Guard) (acc : BitVec 6) (slot : BitVec 4) (r : XReg) (cM1 : BitVec 12) (s : State) :
    Host.Outcome State Fault Refusal :=
  .next (s.issue (.mstep g acc slot r cM1) g [r] true 0 fun s =>
    let i : Instr := .mstep g acc slot r cM1
    let ea := s.rx r
    let n := cM1.toNat + 1
    s.unless (s.addrCause [(ea, 32)]) fun s => s.withRecord i ea 32 fun b s =>
      match b with
      | none => s.unless (s.unowned [slot.toNat] [acc.toNat]) fun s => s.lostRecord i
      | some b =>
        let t := tileStep b
        let fa := if t.fa = 15 then s.me.fmtA.toNat else t.fa
        let fb := if t.fb = 15 then s.me.fmtB.toNat else t.fb
        s.unless (s.unowned [slot.toNat] (accTiles acc.toNat t.accStep n)) fun s =>
          if !t.okMul fa fb then s.raise 0x0E ea
          else
            let u := blockBytes fa
            let len := if t.transA then (t.k - 1) * t.aStride + t.rows * (elemBits fa / 8)
              else (t.rows - 1) * t.aStride + rowBytes fa t.k
            let ra := spanOf t.aBase t.aStep n len
            let sc := s.me.scaleA.toNat
            let rs := if isMx fa then [ra, (sc + (ra.1 - t.aBase) / u, sc + (ra.2 - 1 - t.aBase) / u + 1)] else [ra]
            if !s.rangesOk rs then s.raise 0x09 ea
            else
              let q := ((pairRate fa fb).getD (4, 4)).1
              s.queueCmd { s.newCmd i with bytes := b, fa := fa, fb := fb, left := n * ((4 * t.k + q - 1) / q) }
                (s.matMiss (some slot.toNat) rs ea))

/-- The sort and top-k forms of `mstep` (R298). -/
def State.stepSort (s : State) (i : Instr) (top : Bool) (ea o : W64) (count : Nat) : State :=
  s.unless (s.addrCause [(ea, 32), (o, 8)]) fun s => s.withRecord i ea 32 fun b s =>
    match b with
    | none => s.lostRecord i
    | some b =>
      let t := tileStep b
      if !t.okSort top then s.raise 0x0E ea
      else s.sortCmd i ea o t.aBase t.aStep t.aStride t.k (if top then t.cols else t.k) count b

def execMstepSort (g : Guard) (t : KeyTy) (o r : XReg) (cM1 : BitVec 12) (s : State) :
    Host.Outcome State Fault Refusal :=
  .next (s.issue (.mstepSort g t o r cM1) g [o, r] true 0 fun s =>
    s.stepSort (.mstepSort g t o r cM1) false (s.rx r) (s.rx o) (cM1.toNat + 1))

def execMstepTopk (g : Guard) (t : KeyTy) (o r : XReg) (cM1 : BitVec 12) (s : State) :
    Host.Outcome State Fault Refusal :=
  .next (s.issue (.mstepTopk g t o r cM1) g [o, r] true 0 fun s =>
    s.stepSort (.mstepTopk g t o r cM1) true (s.rx r) (s.rx o) (cM1.toNat + 1))

/-- The record-free forms: keys without gaps (R299). -/
def State.plainSort (s : State) (i : Instr) (o ea : W64) (lg k count : Nat) : State :=
  let g := 2 ^ lg
  s.unless (s.addrCause [(ea, 4), (o, 8)]) fun s =>
    match s.lsOf ea (4 * g * count) with
    | none => s.raise 0x09 ea
    | some base => s.sortCmd i ea o base (4 * g) 4 g k count []

def execMsort (g : Guard) (t : KeyTy) (lg : BitVec 4) (o k : XReg) (cM1 : BitVec 12) (s : State) :
    Host.Outcome State Fault Refusal :=
  .next (s.issue (.msort g t lg o k cM1) g [o, k] true 0 fun s =>
    s.plainSort (.msort g t lg o k cM1) (s.rx o) (s.rx k) lg.toNat (2 ^ lg.toNat) (cM1.toNat + 1))

def execMtopk (g : Guard) (t : KeyTy) (lg : BitVec 4) (kM1 : BitVec 6) (o k : XReg) (cM1 : BitVec 12) (s : State) :
    Host.Outcome State Fault Refusal :=
  .next (s.issue (.mtopk g t lg kM1 o k cM1) g [o, k] true 0 fun s =>
    s.plainSort (.mtopk g t lg kM1 o k cM1) (s.rx o) (s.rx k) lg.toNat (kM1.toNat + 1) (cM1.toNat + 1))

/-- `mzero` (R300). -/
def execMzero (g : Guard) (acc : BitVec 6) (cM1 : BitVec 12) (s : State) : Host.Outcome State Fault Refusal :=
  .next (s.issue (.mzero g acc cM1) g [] true 0 fun s =>
    let n := cM1.toNat + 1
    s.unless (s.unowned [] (accTiles acc.toNat 1 n)) fun s =>
      s.queueCmd { s.newCmd (.mzero g acc cM1) with left := 64 * n } none)

/-- `mload` (R300). -/
def execMload (g : Guard) (acc : BitVec 6) (r : XReg) (cM1 : BitVec 12) (s : State) :
    Host.Outcome State Fault Refusal :=
  .next (s.issue (.mload g acc r cM1) g [r] true 0 fun s =>
    let n := cM1.toNat + 1
    let ea := s.rx r
    s.unless (s.addrCause [(ea, 64)]) fun s => s.unless (s.unowned [] (accTiles acc.toNat 1 n)) fun s =>
      match s.lsOf ea (16384 * n) with
      | none => s.raise 0x09 ea
      | some off =>
        s.queueCmd { s.newCmd (.mload g acc r cM1) with a := off, left := 64 * n }
          (s.matMiss none [((off : Int), (off + 16384 * n : Int))] ea))

/-- The bytes that `mdrain` spans: tile i, row and column (R301). -/
def drainSpan (e st n : Nat) : Nat := 64 * st * (n - 1) + 63 * st + 64 * e

/-- `mdrain` (R301). -/
def execMdrain (g : Guard) (t : DrainTy) (sat : Bool) (acc : BitVec 6) (r x : XReg) (cM1 : BitVec 12) (s : State) :
    Host.Outcome State Fault Refusal :=
  .next (s.issue (.mdrain g t sat acc r x cM1) g [r, x] true 0 fun s =>
    let n := cM1.toNat + 1
    let ea := s.rx r
    let e := drainBytes t
    let st := if s.rx x = 0 then 64 * e else (s.rx x).toNat
    s.unless (s.addrCause [(ea, e)]) fun s => s.unless (s.unowned [] (accTiles acc.toNat 1 n)) fun s =>
      match s.lsOf ea (drainSpan e st n) with
      | none => s.raise 0x09 ea
      | some off => s.queueCmd { s.newCmd (.mdrain g t sat acc r x cM1) with a := off, st := st, left := 64 * n } none)

/-- The rows of registers that `mdrainv` writes lie in the grid (R301). -/
def State.drainGrid (s : State) (v : VReg) (n : Nat) : Bool :=
  s.vregOk v && s.vnum v.row.toNat v.col.toNat + n ≤ modeRows s.myMode * modeCols s.myMode

/-- `mdrainv`: the thread parks until the command completes (R290, R301). -/
def execMdrainv (g : Guard) (t : DrainTy) (sat : Bool) (v : VReg) (acc : BitVec 6) (a : XReg) (cM1 : BitVec 12)
    (s : State) : Host.Outcome State Fault Refusal :=
  .next (s.issue (.mdrainv g t sat v acc a cM1) g [a] (s.drainGrid v (cM1.toNat + 1)) 0 fun s =>
    s.unless (s.unowned [] [acc.toNat]) fun s =>
      s.queueCmd { s.newCmd (.mdrainv g t sat v acc a cM1) with a := fld (s.rx a) 0 6, left := cM1.toNat + 1 } none)

/-- A rasterisation table is valid: P and n in range and a permutation (R302). -/
def rasterOk (p : Nat) (es : List Nat) : Bool :=
  let n := es.length
  1 ≤ n && n ≤ 4096 && 1 ≤ p && p ≤ 4096 && (List.range n).all fun k => es.contains k

/-- `mcfg xr`: the table is read at issue (R302). -/
def execMcfg (g : Guard) (r : XReg) (s : State) : Host.Outcome State Fault Refusal :=
  .next (s.issue (.mcfg g r) g [r] true 0 fun s =>
    let i : Instr := .mcfg g r
    let ea := s.rx r
    s.unless (s.addrCause [(ea, 2)]) fun s => s.withRecord i ea 4 fun b s =>
      match b with
      | none => s.lostRecord i
      | some b =>
        let n := (halves b).getD 1 0
        if n = 0 ∨ 4096 < n then s.raise 0x0E ea
        else s.withRecord i ea (4 + 2 * n) fun b s =>
          match b with
          | none => s.lostRecord i
          | some b =>
            let h := halves b
            if rasterOk (h.headD 0) (h.drop 2) then s.queueCmd { s.newCmd i with bytes := b } none
            else s.raise 0x0E ea)

def execMcfgOff (g : Guard) (s : State) : Host.Outcome State Fault Refusal :=
  .next (s.issue (.mcfgOff g) g [] true 0 fun s => s.queueCmd (s.newCmd (.mcfgOff g)) none)

/-! ## Completion (R291, R301, R344) -/

/-- The registers that `mdrainv` writes, from the rows that the array took (R301). -/
def State.drainRegs (s : State) (T : Nat) (c : MCmd) (t : Thread) : Thread :=
  match c.ins with
  | .mdrainv _ _ _ v _ _ cM1 =>
    let r0 := v.row.toNat * modeCols (s.tile T).mode + v.col.toNat
    (List.range (cM1.toNat + 1)).foldl (fun t i =>
      t.wv (r0 + i) (BitVec.ofNat 2048 (ofBytes ((c.bytes.drop (256 * i)).take 256)))) t
  | _ => t

/-- A thread waits for the command with this ticket. -/
def State.awaits (s : State) (T : Nat) (c : MCmd) : Bool :=
  match (s.thread T c.hw).run with
  | .parked (.drainv k) _ => k == c.ticket
  | _ => false

/-- A matrix command completes: the oldest one whose array work is done leaves the queue. A failed one is kept for the
thread's next `mwait`, `sdone` or `exit`; a waiting `mdrainv` retires or takes data lost (R291, R301, R344). -/
def execMatrixCommandComplete (T d : Nat) (s : State) : Host.Outcome State Fault Refusal :=
  .next (match (s.dom T d).mq with
    | c :: rest =>
      if !c.fini then s
      else
        let s1 := s.modDom T d fun v => { v with mq := rest }
        let s2 :=
          if s.awaits T c then
            (if c.lost then s1.trap T c.hw 0x13 c.pc else s1.finish T c.hw (s.drainRegs T c))
          else if c.lost then s1.modThread T c.hw fun t => { t with mfail := t.mfail ++ [c.pc] }
          else s1
        (s2.runWrels T d).runHead T d 17
    | [] => s)

/-! ## Waiting (R303) and weight slots (R304, R305) -/

def execMwait (g : Guard) (n : BitVec 8) (s : State) : Host.Outcome State Fault Refusal :=
  .next (s.issue (.mwait g n) g [] true 0 fun s =>
    if s.myDom.matOf s.cur.2 ≤ n.toNat then s.matFail fun s => s.ranged State.advance
    else s.ranged fun s => s.park (.mwait g n) (.mat n.toNat))

/-- `wrel`: retires; the release follows the commands queued before it that read the slot (R159, R304). -/
def execWrel (g : Guard) (slot : BitVec 4) (s : State) : Host.Outcome State Fault Refusal :=
  .next (s.issue (.wrel g slot) g [] true 0 fun s =>
    s.unless (s.unowned [slot.toNat] []) fun s => s.complete fun s =>
      let T := s.cur.1
      let d := s.myDomNo
      if (s.slot T slot.toNat).full then
        (s.modDom T d fun v => { v with wrels := v.wrels ++ [(slot.toNat, v.mticket)] }).runWrels T d
      else s)

/-- The header that `wstat` reads (R305); a lost fill shows FULL 0 and LEN 0 (R371). -/
def slotHeader (x : Slot) : W64 :=
  BitVec.ofNat 64 ((if x.full then 2 ^ 63 else 0) + x.fmt.toNat * 2 ^ 59 + x.fill.toNat * 2 ^ 43 +
    x.scaleOff.toNat * 2 ^ 26 + (if x.lost then 0 else x.len) * 2 ^ 8)

/-- `wstat` of a slot: 0x0F, 0x10, and the miss that it counts once (R354, R387). -/
def State.slotUse (s : State) (slot : Nat) (f : State → State) : State :=
  s.unless (s.unowned [slot] []) fun s =>
    let miss := s.matMiss (some slot) [] 0
    s.missOr miss fun s => s.ranged fun s => f (if miss.isSome then s.countMiss else s)

def execWstat (g : Guard) (d : XReg) (slot : BitVec 4) (s : State) : Host.Outcome State Fault Refusal :=
  .next (s.issue (.wstat g d slot) g [d] true 0 fun s =>
    s.slotUse slot.toNat fun s => (s.wx d (slotHeader (s.slot s.cur.1 slot.toNat))).advance)

/-- The tile cycle since which the issuing thread has been parked. -/
def Thread.since (t : Thread) : Option Nat :=
  match t.run with
  | .parked _ c => if t.missed then some c else none
  | _ => none

def execWstatWait (g : Guard) (d : XReg) (slot : BitVec 4) (s : State) : Host.Outcome State Fault Refusal :=
  .next (s.issue (.wstatWait g d slot) g [d] true 0 fun s =>
    s.slotUse slot.toNat fun s =>
      let x := s.slot s.cur.1 slot.toNat
      if x.full || x.lost then
        ((s.countStall s.cur.1 s.myDomNo s.me.since).wx d (slotHeader x)).advance
      else s.park (.wstatWait g d slot) (.wslot slot.toNat))

end Sys2Proof.Machine
end

