-- ==== Sys2Proof/Machine/Sync.lean ====
section
/-! DEFINITION. The mailbox instructions, arrival barriers and markers (R90, R176 to R180, R261 to R264). -/

namespace Sys2Proof.Machine

open Bits

/-! ## Mailbox (R261, R262) -/

/-- The oldest held message has been refused for 2^16 mesh cycles (R355). -/
def State.stuckPost (s : State) : Option W64 :=
  match s.myDom.held.find? fun x => x.since + 0x10000 ≤ s.mcycle with
  | some _ => (s.myDom.held.head?).map (·.dest)
  | none => none

/-- `post`: the causes of R354, the wait for prior accesses and for a place, then the message. -/
def execPost (g : Guard) (a b c : XReg) (tag : BitVec 16) (s : State) : Host.Outcome State Fault Refusal :=
  .next (s.issue (.post g a b c tag) g [a, b, c] true 0 fun s =>
    let i : Instr := .post g a b c tag
    let ea := s.rx a
    match windowOf ea with
    | .shr =>
      if !s.myDom.inFabric (fabOf ea) then s.raise 0x08 ea
      else match s.stuckPost with
        | some v => s.raise 0x12 v
        | none => s.ranged fun s =>
          if !s.priorDone s.cur.1 s.cur.2 ∨ 4 ≤ s.myDom.held.length then s.park i .nic
          else
            let iss := s.issuer false
            let m := s.tileMsg s.cur.1 s.myDomNo 0x05 (s.nodeOf (s.myDom.tileOfF (fabOf ea))) tag.toNat
              (.post (s.rx b) (s.rx c) ea iss)
            ((s.modMe fun t => t.addOut (2 ^ 61) 0 false).send m).advance
    | _ => s.raise 0x06 ea)

/-- The match key of `take`, `peek` and `await` (R262). -/
def State.mboxKey (s : State) (a : XReg) (imm : BitVec 32) : BitVec 32 := imm ||| (s.rx a).setWidth 32

/-- The oldest matching entry of the thread's partition (R178). -/
def State.mboxFind (s : State) (k : BitVec 32) : Option (BitVec 256) := s.myDom.mbox.find? (mboxMatch k)

/-- The partition without its oldest matching entry. -/
def State.mboxDrop (s : State) (k : BitVec 32) : State :=
  s.modDom s.cur.1 s.myDomNo fun d => { d with mbox := d.mbox.eraseP (mboxMatch k) }

/-- The registers x[d] to x[d + 3] of a mailbox instruction exist (R262). -/
def mboxRegs (d a : XReg) : List XReg := [d + 3, a]

def execTake (g : Guard) (d a : XReg) (imm : BitVec 32) (s : State) : Host.Outcome State Fault Refusal :=
  .next (s.issue (.take g d a imm) g (mboxRegs d a) true 0 fun s =>
    s.complete fun s =>
      let k := s.mboxKey a imm
      match s.mboxFind k with
      | some e => (s.mboxDrop k).modMe fun t => t.wmsg d.toNat e
      | none => s.modMe fun t => t.wmsg d.toNat 0)

def execPeek (g : Guard) (d a : XReg) (imm : BitVec 32) (s : State) : Host.Outcome State Fault Refusal :=
  .next (s.issue (.peek g d a imm) g (mboxRegs d a) true 0 fun s =>
    s.complete fun s =>
      let e := (s.mboxFind (s.mboxKey a imm)).getD 0
      s.modMe fun t => t.wmsg d.toNat e)

def execAwait (g : Guard) (d a : XReg) (imm : BitVec 32) (s : State) : Host.Outcome State Fault Refusal :=
  .next (s.issue (.await g d a imm) g (mboxRegs d a) true 0 fun s =>
    s.ranged fun s =>
      let k := s.mboxKey a imm
      match s.mboxFind k with
      | some e => ((s.mboxDrop k).modMe fun t => t.wmsg d.toNat e).advance
      | none => s.park (.await g d a imm) (.mbox k))

/-! ## Arrival barriers (R179, R180, R263) -/

/-- The state of a barrier as `bartest` reads it (R179). -/
def barWord (b : Barrier) : W64 :=
  (if b.done then (1 : BitVec 1) else 0) ++ (if b.armed then (1 : BitVec 1) else 0) ++ 0#26 ++ b.pending

/-- PENDING is negative while ARMED = 1 (R355). -/
def Barrier.overcount (b : Barrier) : Bool := b.armed && bit b.pending 35

/-- The completion rule of R180. -/
def Barrier.settle (b : Barrier) : Barrier :=
  if b.armed && b.pending == 0 then { b with done := true } else b

/-- Hardware threads of a tile parked on a barrier. -/
def State.barWaiters (s : State) (T n : Nat) : List Nat :=
  (List.range 16).filter fun h => match (s.thread T h).run with
    | .parked (.bar k) _ => k == n
    | _ => false

/-- A barrier changes: when it is done its waiters wake; when it is overcounted they take 0x11 (R180, R355). -/
def State.changeBar (s : State) (T n : Nat) (b : Barrier) : State :=
  let b := b.settle
  let s1 := s.setBar T n b
  if b.done then (s.barWaiters T n).foldl (fun s h => s.finish T h id) s1
  else if b.overcount then (s.barWaiters T n).foldl (fun s h => s.trap T h 0x11 (barWord b)) s1
  else s1

/-- Bytes that have performed are counted into a barrier (R180). -/
def State.barArrive (s : State) (T n count : Nat) : State :=
  let b := s.bar T n
  s.changeBar T n { b with pending := b.pending - BitVec.ofNat 36 count }

/-- A barrier instruction: 0x0F when the domain does not hold it, 0x11 where the barrier is overcounted (R354, R355). -/
def State.barUse (s : State) (b : BitVec 4) (over11 : Bool) (f : Barrier → State → State) : State :=
  let x := s.bar s.cur.1 b.toNat
  if x.owner ≠ s.myDomNo + 1 then s.raise 0x0F (BitVec.ofNat 64 (512 + b.toNat))
  else if over11 && x.overcount then s.raise 0x11 (barWord x)
  else f x s

def execBarinit (g : Guard) (b : BitVec 4) (s : State) : Host.Outcome State Fault Refusal :=
  .next (s.issue (.barinit g b) g [] true 0 fun s =>
    s.barUse b false fun x s => s.complete fun s =>
      s.setBar s.cur.1 b.toNat { x with done := false, armed := false, pending := 0 })

def execBarexp (g : Guard) (a : XReg) (b : BitVec 4) (arm : Bool) (s : State) : Host.Outcome State Fault Refusal :=
  .next (s.issue (.barexp g a b arm) g [a] true 0 fun s =>
    s.barUse b true fun x s => s.complete fun s =>
      s.changeBar s.cur.1 b.toNat { x with pending := x.pending + (s.rx a).setWidth 36, armed := x.armed || arm })

/-- `bararr`: a subtraction that would overcount is not made (R355). -/
def execBararr (g : Guard) (a : XReg) (b : BitVec 4) (s : State) : Host.Outcome State Fault Refusal :=
  .next (s.issue (.bararr g a b) g [a] true 0 fun s =>
    s.barUse b false fun x s =>
      let x' := { x with pending := x.pending - (s.rx a).setWidth 36 }
      if x'.overcount then s.raise 0x11 (barWord x)
      else s.ranged fun s => s.afterPrior (.bararr g a b) fun s => (s.changeBar s.cur.1 b.toNat x').advance)

def execBarwait (g : Guard) (b : BitVec 4) (s : State) : Host.Outcome State Fault Refusal :=
  .next (s.issue (.barwait g b) g [] true 0 fun s =>
    s.barUse b true fun x s => s.ranged fun s =>
      if x.done then s.advance else s.park (.barwait g b) (.bar b.toNat))

def execBartest (g : Guard) (d : XReg) (b : BitVec 4) (s : State) : Host.Outcome State Fault Refusal :=
  .next (s.issue (.bartest g d b) g [d] true 0 fun s =>
    s.barUse b true fun x s => s.complete fun s => s.wx d (barWord x))

/-! ## Markers (R90, R264) -/

/-- The tile's MARKER rises to at least m; a rise is contributed to the row's marker reduction (R90, R264). -/
def State.raiseMarker (s : State) (T d : Nat) (m : W64) : State :=
  let v := s.dom T d
  if v.marker.toNat < m.toNat then
    (s.modDom T d fun v => { v with marker := m }).signalMarker T d
  else s

def execMark (g : Guard) (a : XReg) (imm : BitVec 32) (s : State) : Host.Outcome State Fault Refusal :=
  .next (s.issue (.mark g a imm) g [a] true 0 fun s =>
    s.ranged fun s => s.afterPrior (.mark g a imm) fun s =>
      (s.raiseMarker s.cur.1 s.myDomNo (s.rx a + imm.setWidth 64)).advance)

end Sys2Proof.Machine
end

