-- ==== Sys2Proof/Machine/Movement.lean ====
section
/-! DEFINITION. Layout records (R161 to R166, R383) and the movement instructions: `xfer`, `sbind`, `swait`, `redput`
and `coll` (R307 to R311). -/

namespace Sys2Proof.Machine

open Bits

/-! ## The layout record (R163 to R165) -/

/-- The fields of a layout record. -/
structure Layout where
  src     : W64
  dst     : W64
  strides : List Int
  exts    : List Nat
  mcast   : Nat
  tag     : Nat
  stream  : Nat
  win     : Nat
  station : Nat
  bar     : Nat
  fmt     : Nat
  scatter : Bool
  barEn   : Bool
  mboxEn  : Bool
  full    : Bool
  ordered : Bool
  resv    : Bool

/-- The used dimensions' extents and strides (R164). -/
def layoutOf (d : BitVec 512) : Layout :=
  let n := fld d 159 2
  { src := d.extractLsb' 448 64, dst := d.extractLsb' 384 64,
    strides := [signed 32 (fld d 288 32), signed 32 (fld d 320 32), signed 32 (fld d 352 32)].take n,
    exts := [fld d 224 16, fld d 240 16, fld d 256 16, fld d 272 16].take (n + 1),
    mcast := fld d 208 16, tag := fld d 192 16, stream := fld d 184 8, win := fld d 179 5 + 1, station := fld d 169 7,
    bar := fld d 165 4, fmt := fld d 161 4, scatter := bit d 158, barEn := bit d 157, mboxEn := bit d 156,
    full := bit d 155, ordered := bit d 154, resv := fld d 176 3 != 0 || fld d 0 154 != 0 }

/-- Unit bytes and alignment of a format code (R164). -/
def unitBytes (f : Nat) : Nat :=
  match f with
  | 0 => 4 | 1 | 2 => 2 | 5 => 32 | 6 => 24 | 7 => 16 | 9 => 34 | 10 => 18 | _ => 1
def unitAlign (f : Nat) : Nat :=
  match f with
  | 0 => 4 | 1 | 2 => 2 | 5 => 32 | 6 => 8 | 7 => 16 | 9 | 10 => 2 | _ => 1

/-- Units of the box. -/
def Layout.units (l : Layout) : Nat := l.exts.foldl (· * ·) 1

/-- The strided byte offset of unit n (R165). -/
def strideOff (u : Nat) : List Nat → List Int → Nat → Int
  | [], _, _ => 0
  | e0 :: es, strides, n =>
    let rec go : List Nat → List Int → Nat → Int
      | e :: es, st :: sts, n => st * (n % e : Nat) + go es sts (n / e)
      | _, _, _ => 0
    (u * (n % e0) : Nat) + go es strides (n / e0)

/-- Offsets from SRC and from DST of unit n (R165). -/
def Layout.offsets (l : Layout) (n : Nat) : Int × Int :=
  let u := unitBytes l.fmt
  let s := strideOff u l.exts l.strides n
  let p : Int := (n * u : Nat)
  if l.scatter then (p, s) else (s, p)

/-- The bytes that the strided side covers, as offsets from its address. -/
def Layout.span (l : Layout) : Int × Int :=
  let u := unitBytes l.fmt
  let e0 := l.exts.headD 1
  (List.zip (l.exts.drop 1) l.strides).foldl (fun acc x =>
    let r : Int := x.2 * (x.1 - 1 : Nat)
    (acc.1 + min 0 r, acc.2 + max 0 r)) ((0 : Int), (u * e0 : Nat))

/-- The bytes that the source and the destination cover. -/
def Layout.srcSpan (l : Layout) : Int × Int := if l.scatter then (0, (l.units * unitBytes l.fmt : Nat)) else l.span
def Layout.dstSpan (l : Layout) : Int × Int := if l.scatter then l.span else (0, (l.units * unitBytes l.fmt : Nat))

/-- The address of a byte offset from a base (R62). -/
def addrAt (a : W64) (o : Int) : W64 := a + BitVec.ofInt 64 o

/-- A private or saddle address becomes the local address of the same byte of the issuing tile; one whose range passes
its limit stays as it is, and the record is rejected for it (R166, R383). -/
def State.toLocal (s : State) (a : W64) (span : Int × Int) : W64 :=
  let d := s.myDom
  let mk (off : Nat) : W64 := BitVec.ofNat 64 (0xE1 * 2 ^ 56 + s.cur.1 * 2 ^ 44 + off)
  let fits (o limit : Nat) : Bool := 0 ≤ (o : Int) + span.1 && (o : Int) + span.2 ≤ limit
  match windowOf a with
  | .priv =>
    if fits (offOf a) d.privSize then mk (d.privAt s.me.idx + offOf a) else a
  | .saddle => if fits (saddleOff a) d.saddleSize then mk (d.saddleActive + saddleOff a) else a
  | _ => a

/-- The record as the network interface sends it (R166). -/
def State.sendRecord (s : State) (r : BitVec 512) : BitVec 512 :=
  let l := layoutOf r
  put (put r 448 64 (s.toLocal l.src l.srcSpan).toNat) 384 64 (s.toLocal l.dst l.dstSpan).toNat

/-- The station of a record (R161); the reserved values 0x41 to 0x7F go where the record is rejected (R383). -/
def State.recordStation (s : State) (r : BitVec 512) : Nat :=
  let l := layoutOf r
  if l.station < 64 then l.station
  else
    match windowOf l.src, windowOf l.dst with
    | .global, _ => xlatStation s.myDom.pid (fld l.src 0 55)
    | _, .global => xlatStation s.myDom.pid (fld l.dst 0 55)
    | _, _ => s.cur.1 / 64

/-! ## Reading a record or a payload (R307, R310, R311) -/

/-- The bytes that have come back for the instruction in flight, in order. -/
def gotBytes (got : List Elem) (n : Nat) : List Byte :=
  (List.range n).flatMap fun k =>
    match got.find? fun e => e.key == k with
    | some e => toBytes e.size e.data.toNat
    | none => []

/-- Reads `n` elements of `size` bytes at `ea` as a load of the thread, once its earlier accesses have performed, and
goes on with the bytes. `late` is a cause found after those of the address. -/
def State.loadThen (s : State) (i : Instr) (ea : W64) (align n size : Nat) (late : Bool) (f : List Byte → State → State) :
    State :=
  if !s.me.got.isEmpty then f (gotBytes s.me.got n) s
  else if ea.toNat % align ≠ 0 then s.raise 0x05 ea
  else
    let es : List Elem := (List.range n).map fun k => ⟨k, ea, ea + BitVec.ofNat 64 (size * k), size, 0, 0⟩
    let p := anyWindow .read true es ⟨.plain, 0⟩
    match s.issueCause p with
    | some (c, v) => s.raise c v
    | none =>
      let rs := es.filterMap fun e => match s.routeOf p e with | .ok r => some (e, r) | .error _ => none
      if late then s.raise 0x0E ea
      else s.whenResident rs (fun s => s.ranged fun s => s.afterPrior i fun s => s.countMiss.park i .resident) fun s =>
       s.ranged fun s => s.afterPrior i fun s =>
        let (s1, got, bad) := s.performOwn .read rs [] []
        let reqs := (rs.filterMap fun r => s.hopOf r.1 r.2).foldl addReq []
        match reqs, bad with
        | [], [] => f (gotBytes got n) s1
        | [], _ :: _ => s1.raise (firstBad bad).1 (firstBad bad).2
        | _ :: _, _ =>
          ((reqs.foldl (State.sendReq .read true) s1).park i .reply).modMe fun t => { t with got := got, bad := bad }

/-- Injects a message that counts among the thread's accesses until it is accepted or acknowledged (R246, R256). -/
def State.inject (s : State) (m : Msg) : State := (s.modMe fun t => t.addOut (2 ^ 61) 0 false).send m

/-! ## The instructions -/

/-- `xfer` (R307). -/
def execXfer (g : Guard) (r a : XReg) (s : State) : Host.Outcome State Fault Refusal :=
  .next (s.issue (.xfer g r a) g [r, a] true 0 fun s =>
    s.loadThen (.xfer g r a) (s.rx r) 64 8 8 false fun b s =>
      let d := s.sendRecord (BitVec.ofNat 512 (ofBytes b))
      let c : EngCmd := { desc := d, aux := s.rx a, iss := s.issuer false }
      (s.inject (s.tileMsg s.cur.1 s.myDomNo 0x04 (.station (s.recordStation d)) (layoutOf d).tag (.eng c))).advance)

/-- The elements of a record that has been read: the snapshot that an instruction keeps while it is parked (R172, R308). -/
def recordElems (b : List Byte) : List Elem :=
  (List.range 8).map fun k => ⟨k, 0, 0, 8, BitVec.ofNat 64 (ofBytes ((b.drop (8 * k)).take 8)), 0⟩

/-- `sbind` (R308). -/
def execSbind (g : Guard) (port : BitVec 3) (r a : XReg) (s : State) : Host.Outcome State Fault Refusal :=
  .next (s.issue (.sbind g port r a) g [r, a] true 0 fun s =>
    s.loadThen (.sbind g port r a) (s.rx r) 64 8 8 false fun b s =>
      let p := port.toNat
      let q := s.port s.cur.1 p
      if 4 ≤ q.queue.length then (s.park (.sbind g port r a) (.pqueue p)).modMe fun t => { t with got := recordElems b }
      else
        let c : EngCmd := { desc := s.sendRecord (BitVec.ofNat 512 (ofBytes b)), aux := s.rx a, iss := s.issuer false }
        let pat : Pattern := { cmd := c, ticket := q.ticket, pos := 0, sent := 0, acked := 0, tag := 0, fail := none }
        ((s.setPort s.cur.1 p { q with queue := q.queue ++ [pat], ticket := q.ticket + 1 }).post
          (.streamPatternStart s.cur.1 p)).advance)

/-- `swait`: the patterns bound before it issued are those below the port's ticket (R309). -/
def execSwait (g : Guard) (port : BitVec 3) (s : State) : Host.Outcome State Fault Refusal :=
  .next (s.issue (.swait g port) g [] true 0 fun s =>
    s.ranged fun s =>
      let w : Wait := match s.me.run with
        | .parked (.port p k) _ => .port p k
        | _ => .port port.toNat (s.port s.cur.1 port.toNat).ticket
      if s.waitOver s.cur.1 s.cur.2 w then s.advance else s.park (.swait g port) w)

/-- The reduction-table entry of a tile's own router (R146). -/
def State.redEntry (s : State) (n : Node) (group : Nat) : BitVec 64 := Table.get 0 (s.router (nodeKey n)).red group

/-- `redput` (R310). -/
def execRedput (g : Guard) (r x : XReg) (s : State) : Host.Outcome State Fault Refusal :=
  .next (s.issue (.redput g r x) g [r, x] true 0 fun s =>
    let group := fld (s.rx x) 16 6
    let node := s.nodeOf s.cur.1
    let e := s.redEntry node group
    let n := Nat.max 1 (fld e 43 8)
    s.loadThen (.redput g r x) (s.rx r) 4 n 4 (!(bit e 63 && bit e 62)) fun b s =>
      let ws := (chunks 4 n b).map fun c => BitVec.ofNat 32 (ofBytes c)
      let m := s.tileMsg s.cur.1 s.myDomNo 0x10 node (group * 2 ^ 26 + fld (s.rx x) 0 16 * 2 ^ 10) (.elems ws)
      (s.send m).advance)

/-- The collective engine that x[e] names, and its graph slots (R311). -/
def State.engineOf (s : State) (e : W64) : Option (Node × Tbl Graph) :=
  let n := fld e 0 6
  if bit e 6 then (if n < 48 then some (.port n, (s.portSt n).graphs) else none)
  else some (.station n, (s.station n).graphs)

/-- The slot holds a graph of the job (R185). -/
def holdsGraph (gs : Tbl Graph) (slot pid : Nat) : Bool :=
  let g := Table.get Graph.reset gs slot
  g.loaded && fld g.header 16 16 == pid

/-- `coll` (R311). -/
def execColl (g : Guard) (r e : XReg) (s : State) : Host.Outcome State Fault Refusal :=
  .next (s.issue (.coll g r e) g [r, e] true 0 fun s =>
    let eng := s.engineOf (s.rx e)
    s.loadThen (.coll g r e) (s.rx r) 64 8 8 eng.isNone fun b s =>
      let d := BitVec.ofNat 512 (ofBytes b)
      match eng with
      | none => s.raise 0x0E (s.rx r)
      | some (n, gs) =>
        if holdsGraph gs (fld d 108 4) s.myDom.pid then
          (s.inject (s.tileMsg s.cur.1 s.myDomNo 0x20 n 0 (.launch d (s.issuer false)))).advance
        else s.raise 0x0E (s.rx r))

end Sys2Proof.Machine
end

