-- ==== Sys2Proof/Machine/System.lean ====
section
/-! DEFINITION. System instructions: status registers, return from a trap, configuration of other tiles, thread contexts
and the snapshot trigger (R312 to R320). -/

namespace Sys2Proof.Machine

open Bits

/-! ## Status registers (R313, R317, R318) -/

/-- TRAP_CAUSE (R318). -/
def Thread.trapCause (t : Thread) : W64 := 0#56 ++ t.pprv ++ t.cause

/-- The value of a status register (R317). STAGE, WAVE, STEP and MARKER, which the table gives per tile, are those of the
thread's domain, since co-resident regions run stages of their own (DEDUCED, log 149). -/
def State.csrValue (s : State) (n : Nat) : W64 :=
  let t := s.me
  let d := s.myDom
  match n with
  | 0x000 => s.time
  | 0x001 => BitVec.ofNat 64 s.cur.1
  | 0x002 => BitVec.ofNat 64 (t.idx % 32 * 2 ^ 16 + s.cur.2)
  | 0x003 => BitVec.ofNat 64 s.myDomNo
  | 0x004 => t.priv.setWidth 64
  | 0x005 => s.module.setWidth 64
  | 0x010 => d.trapBase.setWidth 64
  | 0x011 => t.trapCause
  | 0x012 => t.trapPc.setWidth 64
  | 0x013 => t.trapVal
  | 0x020 => t.fmtA.setWidth 64
  | 0x021 => t.fmtB.setWidth 64
  | 0x022 => t.scaleA.setWidth 64
  | 0x023 => t.scaleB.setWidth 64
  | 0x030 => d.stage.setWidth 64
  | 0x031 => d.wave.setWidth 64
  | 0x032 => d.step
  | 0x033 => d.marker
  | 0x040 => d.feLimit.setWidth 64
  | 0x041 => d.permMask.setWidth 64
  | 0x050 => s.snapTime
  | _ => if 0x100 ≤ n ∧ n < 0x110 then (Table.get 0 (s.tile s.cur.1).table (n - 0x100)).setWidth 64 else 0

/-- A write changes the RW fields (R313, R317); PPRIV 0b11 is written as 0b01 (R318). -/
def State.csrWrite (s : State) (n : Nat) (v : W64) : State :=
  let me (f : Thread → Thread) : State := s.modMe f
  let dom (f : Dom → Dom) : State := s.modDom s.cur.1 s.myDomNo f
  match n with
  | 0x010 => dom fun d => { d with trapBase := v.setWidth 32 }
  | 0x011 => me fun t => { t with pprv := if fld v 6 2 = 3 then 1 else v.extractLsb' 6 2, cause := v.extractLsb' 0 6 }
  | 0x012 => me fun t => { t with trapPc := v.setWidth 32 }
  | 0x013 => me fun t => { t with trapVal := v }
  | 0x020 => me fun t => { t with fmtA := v.setWidth 4 }
  | 0x021 => me fun t => { t with fmtB := v.setWidth 4 }
  | 0x022 => me fun t => { t with scaleA := v.setWidth 24 }
  | 0x023 => me fun t => { t with scaleB := v.setWidth 24 }
  | 0x040 => dom fun d => { d with feLimit := v.setWidth 32 }
  | 0x041 => dom fun d => { d with permMask := v.setWidth 4 }
  | _ => s

/-- The least privilege that reads, and that writes, a status register (R317). -/
def csrRead (n : Nat) : Nat := if 0x010 ≤ n ∧ n ≤ 0x013 then 1 else 0
def csrWritePriv (n : Nat) : Nat := if (0x010 ≤ n ∧ n ≤ 0x013) ∨ n = 0x040 ∨ n = 0x041 then 1 else 0

def execCsrr (g : Guard) (d : XReg) (n : BitVec 14) (s : State) : Host.Outcome State Fault Refusal :=
  .next (s.issue (.csrr g d n) g [d] true (csrRead n.toNat) fun s =>
    s.complete fun s => s.wx d (s.csrValue n.toNat))

/-- A read-modify-write of a status register, as one step (R313). -/
def State.csrChange (s : State) (d : XReg) (n : Nat) (f : W64 → W64) : State :=
  s.complete fun s =>
    let old := s.csrValue n
    (s.csrWrite n (f old)).wx d old

def execCsrw (g : Guard) (d a : XReg) (n : BitVec 14) (s : State) : Host.Outcome State Fault Refusal :=
  .next (s.issue (.csrw g d a n) g [d, a] true (csrWritePriv n.toNat) fun s =>
    s.csrChange d n.toNat fun _ => s.rx a)

def execCsrs (g : Guard) (d a : XReg) (n : BitVec 14) (s : State) : Host.Outcome State Fault Refusal :=
  .next (s.issue (.csrs g d a n) g [d, a] true (csrWritePriv n.toNat) fun s =>
    s.csrChange d n.toNat fun v => v ||| s.rx a)

def execCsrc (g : Guard) (d a : XReg) (n : BitVec 14) (s : State) : Host.Outcome State Fault Refusal :=
  .next (s.issue (.csrc g d a n) g [d, a] true (csrWritePriv n.toNat) fun s =>
    s.csrChange d n.toNat fun v => v &&& ~~~(s.rx a))

/-- `eret` (R314, R347, R354). -/
def execEret (g : Guard) (s : State) : Host.Outcome State Fault Refusal :=
  .next (s.issue (.eret g) g [] true 1 fun s =>
    let t : W64 := s.me.trapPc.setWidth 64
    if t.toNat % 8 ≠ 0 then s.raise 0x05 t
    else if s.myDom.codeSize ≤ t.toNat then s.raise 0x17 t
    else s.trapReturn)

/-! ## Configuration of other tiles (R315) -/

/-- Sends a configuration operation and waits for its acknowledgement. -/
def State.configure (s : State) (i : Instr) (dst : Node) (op a b : Nat) : State :=
  let m := { s.tileMsg s.cur.1 s.myDomNo 0x06 dst 0 (.config op a b (s.issuer true)) with pid := 0 }
  ((s.modMe fun t => t.addOut (2 ^ 61) 0 true).send m).park i .reply

/-- The tile that x[a] names, when there is one; beyond the module's tiles the manual gives no status, and x[d] takes a
free value (log 11). -/
def State.onTile (s : State) (d : XReg) (T : Nat) (f : State → State) : State :=
  if T < 2048 then f s else ((s.bump).wx d (Config.freeWord s.free)).advance

def execRepart (g : Guard) (d a : XReg) (mode : BitVec 2) (s : State) : Host.Outcome State Fault Refusal :=
  .next (s.issue (.repart g d a mode) g [d, a] true 2 fun s =>
    s.ranged fun s =>
      let T := fld (s.rx a) 0 12
      s.onTile d T fun s => s.configure (.repart g d a mode) (s.nodeOf T) 1 T mode.toNat)

def execSlotw (g : Guard) (d a : XReg) (dom : BitVec 2) (s : State) : Host.Outcome State Fault Refusal :=
  .next (s.issue (.slotw g d a dom) g [d, a] true 2 fun s =>
    s.ranged fun s =>
      let T := fld (s.rx a) 0 12
      s.onTile d T fun s =>
        s.configure (.slotw g d a dom) (s.nodeOf T) 2 T (fld (s.rx a) 16 8 * 4 + dom.toNat))

/-- The service tile that took a job's launch, else the quadrant's (R363). -/
def State.launchTile (s : State) (pid : Nat) (n : Node) : Nat :=
  match s.launches.find? fun e => match e.2 with
      | some l => l.live && l.rcbs.any fun r => fld r.2 0 2 == 1 && fld r.2 24 16 == pid
      | none => false with
  | some (_, some l) => l.sv
  | _ => quadrantOf n

/-- `jkill`: at runtime privilege a job ends only itself (R315, R363). -/
def execJkill (g : Guard) (d a : XReg) (s : State) : Host.Outcome State Fault Refusal :=
  .next (s.issue (.jkill g d a) g [d, a] true 1 fun s =>
    s.ranged fun s =>
      let pid := fld (s.rx a) 0 16
      if s.me.priv.toNat < 2 ∧ pid ≠ s.myDom.pid then (s.wx d 2).advance
      else s.configure (.jkill g d a) (.service (s.launchTile pid (s.nodeOf s.cur.1))) 3 pid 0)

/-! ## The snapshot trigger (R316) -/

/-- The value goes to every other module of the herd. -/
def State.snapHerd (s : State) (v : W64) : State :=
  let ms := (List.range 32).filter fun m => bit s.members m && m != s.module.toNat
  ms.foldl (fun s m =>
    s.send (s.abroad m (s.tileMsg s.cur.1 s.myDomNo 0x06 (.service 0) 0 (.config 4 v.toNat 0 (s.issuer false))))) s

def execSnap (g : Guard) (d a : XReg) (herd : Bool) (s : State) : Host.Outcome State Fault Refusal :=
  .next (s.issue (.snap g d a herd) g [d, a] true 1 fun s =>
    s.complete fun s =>
      let v := s.rx a
      let s1 := if herd then s.snapHerd v else s
      ({ s1 with snapTime := v } : State).wx d s.snapTime)

/-! ## Thread contexts (R319, R320, R356) -/

/-- The image of a context (R319). -/
def contextImage (m : BitVec 2) (t : Thread) : List Byte :=
  toBytes 8 t.pc.toNat ++ [BitVec.ofNat 8 (t.p.toNat ||| 1), t.fmtB ++ t.fmtA] ++ List.replicate 6 0 ++
    toBytes 4 t.scaleA.toNat ++ toBytes 4 t.scaleB.toNat ++ List.replicate 40 0 ++
    ((List.range 8).flatMap fun i => toBytes 8 (t.rm i).toNat) ++
    ((List.range (modeRegs m)).flatMap fun i => toBytes 8 (t.rx i).toNat) ++
    ((List.range (modeRows m * modeCols m)).flatMap fun i => toBytes 256 (t.rv i).toNat)

/-- Bytes of a context in a mode (R319). -/
def contextSize (m : BitVec 2) : Nat := 128 + 8 * modeRegs m + 256 * (modeRows m * modeCols m)

/-- The number at an offset of an image. -/
def imageNum (b : List Byte) (off n : Nat) : Nat := ofBytes ((b.drop off).take n)

/-- A thread with the registers of an image. -/
def loadImage (m : BitVec 2) (b : List Byte) (t : Thread) : Thread :=
  let t1 : Thread := { t with pc := BitVec.ofNat 64 (imageNum b 0 8), p := BitVec.ofNat 8 (imageNum b 8 1 / 2 * 2),
                              fmtA := BitVec.ofNat 4 (imageNum b 9 1), fmtB := BitVec.ofNat 4 (imageNum b 9 1 / 16),
                              scaleA := BitVec.ofNat 24 (imageNum b 16 4), scaleB := BitVec.ofNat 24 (imageNum b 20 4) }
  let t2 := (List.range 8).foldl (fun t i => t.wm i (BitVec.ofNat 64 (imageNum b (64 + 8 * i) 8))) t1
  let t3 := (List.range (modeRegs m)).foldl (fun t i => t.wx i (BitVec.ofNat 64 (imageNum b (128 + 8 * i) 8))) t2
  (List.range (modeRows m * modeCols m)).foldl (fun t i =>
    t.wv i (BitVec.ofNat 2048 (imageNum b (128 + 8 * modeRegs m + 256 * i) 256))) t3

/-- The thread and the backing offset that x[a] names, or cause 0x19 (R320, R355). -/
def State.ctxOperand (s : State) (v : W64) : Option (Nat × Nat) :=
  let h := fld v 0 4
  let d := s.myDom
  if fld v 4 4 ≠ 0 ∨ fld v 24 40 ≠ 0 ∨ h = s.cur.2 ∨ h < d.thrFirst ∨ d.thrFirst + d.thrCount ≤ h then none
  else some (h, fld v 8 16 * 256)

/-- An event that carries a full-empty request of a thread. -/
def feRequestOf (T h : Nat) : Event → Bool
  | .meshRoute _ m | .atomicRequest m =>
    match m.pay with
    | .access a => a.iss.tile == T && a.iss.hw == h && (a.kind matches .fe _ _)
    | _ => false
  | _ => false

/-- Withdraws what a thread waits for, before it is saved, stopped or enters a handler (R356). A wait for a reply or an
acknowledgement goes on until it comes; a full-empty request at another tile is withdrawn there, and the withdrawal is
acknowledged. -/
def State.withdraw (s : State) (T h : Nat) : State :=
  let back (s : State) : State :=
    s.modThread T h fun t => { t with run := .ready, pend := none, got := [], bad := [], missed := false }
  let away (q : FeReq) : Bool := q.msg.isSome && q.iss.tile == T && q.iss.hw == h
  match (s.thread T h).run with
  | .parked (.fe _) _ =>
    match (s.tile T).feq.find? fun q => q.iss.hw == h && q.msg.isNone with
    | some q => back (s.modTile T fun tl => { tl with feq := tl.feq.erase q })
    | none =>
      match s.tiles.find? fun e => e.2.feq.any away with
      | some (T', _) =>
        (s.modTile T' fun tl => { tl with feq := tl.feq.filter fun q => !away q }).post (.waitWithdrawalAck T h)
      | none =>
        if s.flight.any (feRequestOf T h) then
          ({ s with flight := s.flight.filter fun e => !feRequestOf T h e } : State).post (.waitWithdrawalAck T h)
        else s
  | .parked w _ => if w.withdrawable then back s else s
  | _ => s

/-- The two context-cache entries of a domain. -/
def Dom.ctxEntry (d : Dom) (k : Bool) : Option (Nat × List Byte) := if k then d.ctx1 else d.ctx0
def Dom.setCtx (d : Dom) (k : Bool) (e : Option (Nat × List Byte)) : Dom :=
  if k then { d with ctx1 := e } else { d with ctx0 := e }

/-- The image of h goes into the entry and is written behind to local store; h stays stopped, though it was done
(R320). -/
def State.saveContext (s : State) (k : Bool) (h off : Nat) : State :=
  let T := s.cur.1
  let t := s.thread T h
  let img := contextImage s.myMode t
  let s1 := s.modThread T h fun t => { t with saving := false, run := .stopped }
  (s1.modDom T s.myDomNo fun d => d.setCtx k (some (off, img))).lsStore T off img

/-- `ctxsave` (R320, R355). -/
def execCtxsave (g : Guard) (a : XReg) (k : Bool) (s : State) : Host.Outcome State Fault Refusal :=
  .next (s.issue (.ctxsave g a k) g [a] true 1 fun s =>
    let v := s.rx a
    match s.ctxOperand v with
    | none => s.raise 0x19 v
    | some (h, off) =>
      if !s.myDom.holds off (contextSize s.myMode) then s.raise 0x09 v
      else s.ranged fun s =>
        let T := s.cur.1
        if s.quiet T h then
          let t := s.thread T h
          if t.priv ≠ 0 ∨ t.cause ≠ 0 then (s.modThread T h fun t => { t with saving := false }).raise 0x19 v
          else if !t.parity.isEmpty then (s.modThread T h fun t => { t with saving := false }).raise 0x13 s.me.pc
          else (s.saveContext k h off).advance
        else ((s.withdraw T h).modThread T h fun t => { t with saving := true }).park (.ctxsave g a k) (.ctx h))

/-- `ctxload` (R320, R355); a backing image with words that fail their check is lost data (R371). -/
def execCtxload (g : Guard) (a : XReg) (k : Bool) (s : State) : Host.Outcome State Fault Refusal :=
  .next (s.issue (.ctxload g a k) g [a] true 1 fun s =>
    let v := s.rx a
    let T := s.cur.1
    match s.ctxOperand v with
    | none => s.raise 0x19 v
    | some (h, off) =>
      let n := contextSize s.myMode
      let hit := match s.myDom.ctxEntry k with | some e => e.1 == off | none => false
      if (s.thread T h).run ≠ .stopped then s.raise 0x19 v
      else if !s.myDom.holds off n then s.raise 0x09 v
      else if !hit && s.lsBad T off n then s.raise 0x13 v
      else s.complete fun s =>
        let img := match s.myDom.ctxEntry k with
          | some e => if e.1 = off then e.2 else s.lsRead T off n
          | none => s.lsRead T off n
        let s := if hit then s else s.scrub (inStore T off n) false
        (s.modThread T h fun t =>
          { loadImage s.myMode img t with run := .ready, readyAt := s.tcycle + 8, pend := none, parity := [], owed := false }).modDom T
            s.myDomNo fun d => d.setCtx k (some (off, img)))

end Sys2Proof.Machine
end

