-- ==== Sys2Proof/Machine/Home.lean ====
section
/-! DEFINITION. The homes of global data: DRAM transfers and their retries (R373 to R378), lost lines (R372), the LLC
slices (R77 to R82), translation (R71 to R76, R380), and the accesses that requests and engines make there. -/

namespace Sys2Proof.Machine

open Bits

/-! ## Jobs by PID (R19, R20) -/

/-- RCB fields (R20). -/
def rcbKind (r : BitVec 1024) : Nat := fld r 0 2
def rcbPid (r : BitVec 1024) : Nat := fld r 24 16

/-- The live launch that holds a job, with the job's effective RCB. -/
def State.jobOf (s : State) (pid : Nat) : Option (Nat × BitVec 1024) :=
  s.launches.findSome? fun e => match e.2 with
    | some l =>
      if l.live then
        (l.rcbs.find? fun r => rcbKind r.2 == 1 && rcbPid r.2 == pid).map fun r => (e.1, r.2)
      else none
    | none => none

/-- The bucket range of a job: its RCB's, or that of a domain of its own. -/
def State.jobBuckets (s : State) (pid : Nat) : Nat × Nat :=
  match s.jobOf pid with
  | some (_, r) => (fld r 416 12, fld r 428 13)
  | none =>
    (s.tiles.findSome? fun e => (e.2.doms.find? fun d => d.2.present && d.2.pid == pid).map
      fun d => (d.2.bucketFirst, d.2.bucketCount)).getD (0, 1)

/-! ## Waiting at a station -/

/-- Holds a step at a station until what it waits for has changed (R82, R104, R375). -/
def State.holdAt (s : State) (n : Nat) (e : Event) : State :=
  s.modStation n fun t => { t with waiting := t.waiting ++ [e] }

/-- The steps held at stations, and requests that wait at service tiles, are tried again. -/
def State.wake (s : State) : State :=
  let s1 := (Table.keys s.stations).foldl (fun s n =>
    let w := (s.station n).waiting
    { s.modStation n fun t => { t with waiting := [] } with flight := s.flight ++ w }) s
  [0, 1, 2, 3].foldl (fun s k => if (s.service k).stalled then s.modService k fun v => { v with stalled := false } else s) s1

/-! ## Removal begins (R363) -/

/-- Stations and port stations of the module. -/
def edgeBlocks : List Node := (List.range 64).map Node.station ++ (List.range 48).map Node.port

/-- The router positions of a rectangle of logical tiles (R18). -/
def State.rectNodes (s : State) (row0 col0 h w : Nat) : List Node :=
  (List.range h).flatMap fun i => (List.range w).map fun j => s.nodeOf ((row0 + i) * 64 + col0 + j)

/-- Rectangle fields of an RCB: first row, first column, height, width (R20). -/
def rcbRect (r : BitVec 1024) : Nat × Nat × Nat × Nat := (fld r 256 5, fld r 261 6, fld r 267 5 + 1, fld r 272 6 + 1)

/-- Regions that a removal takes away: all of the job, or one. -/
def State.removedRegions (s : State) (pid : Nat) (region : Option Nat) : List (Nat × Region) :=
  s.regions.filterMap fun e => match e.2 with
    | some r => if r.live && rcbPid r.rcb == pid && (region.isNone || region == some e.1) then some (e.1, r) else none
    | none => none

/-- Starts the removal of a job, or of one of its regions: its PID is written to KILL of every block concerned. A
removal under way is not started again. -/
def State.startRemoval (s : State) (pid : Nat) (region : Option Nat) (status : Nat) : State :=
  if s.removals.any fun r => r.pid == pid && (r.region.isNone || r.region == region) then s
  else
    let regs := s.removedRegions pid region
    let tiles := regs.flatMap fun e =>
      let q := rcbRect e.2.rcb
      s.rectNodes q.1 q.2.1 q.2.2.1 q.2.2.2
    let blocks := tiles ++ edgeBlocks
    let l := match s.jobOf pid with | some (l, _) => l | none => 0
    let s1 := regs.foldl (fun s e => s.setRegion e.1 (some { e.2 with phase := 3 })) s
    let s2 : State := { s1 with removals := s1.removals ++ [⟨pid, region, l, status, blocks⟩] }
    blocks.foldl (fun s n => s.post (.killWrite n (BitVec.ofNat 16 pid))) s2

/-! ## DRAM transfers (R373 to R378) -/

/-- How a use of a line ends. -/
inductive Use where
  | ok
  | lost
  | wait
deriving DecidableEq, Repr

/-- A local physical address of a line. -/
def lineAddr (line : Nat) : Nat := line * 128
def chanOf (a : Nat) : Nat := stackAddr a / 128 % 16
def chanKey (a : Nat) : Nat := stackOf a * 16 + chanOf a

/-- One entry of the array error log (R377, R378). -/
def State.arrLog (s : State) (a : Nat) (uncorr : Bool) (sym pat : Nat) : State :=
  let n := stackOf a
  let st := s.reg (stationReg n 0xF00)
  let h := fld st 10 5
  let w := 2 ^ 63 + (if uncorr then 2 ^ 62 else 0) + sym % 64 * 2 ^ 56 + pat % 256 * 2 ^ 48 + chanOf a * 2 ^ 44 +
    stackAddr a / 128 % 2 ^ 29 * 128
  ((s.setReg (stationReg n (0x1000 + 16 * h)) (BitVec.ofNat 64 w)).setReg (stationReg n (0x1008 + 16 * h)) s.time).setReg
    (stationReg n 0xF00) (put (if uncorr then satAdd st 24 8 1 else satAdd st 48 16 1) 10 5 (h + 1))

/-- One entry of the bus error log (R377, R378): the spare taken when the transfer caused a swap. -/
def State.busLog (s : State) (n ch line time tries lane : Nat) (swap : Option Nat) (isLost : Bool) : State :=
  let st := s.reg (stationReg n 0xF00)
  let h := fld st 5 5
  let w := 2 ^ 63 + (if swap.isSome then 2 ^ 62 else 0) + (if isLost then 2 ^ 61 else 0) + tries * 2 ^ 56 +
    ch * 2 ^ 52 + lane % 128 * 2 ^ 45 + swap.getD 0 % 2 * 2 ^ 44 + line / 128 % 2 ^ 29 * 128
  ((s.setReg (stationReg n (0x1200 + 16 * h)) (BitVec.ofNat 64 w)).setReg (stationReg n (0x1208 + 16 * h))
    (BitVec.ofNat 64 time)).setReg (stationReg n 0xF00) (put (satAdd st 32 16 1) 5 5 (h + 1))

/-- The lane of a channel that carries data or group-parity lane `l`: a spare where LANE_MAP says so (R375, R378). -/
def laneOf (map : W64) (l : Nat) : Nat :=
  if bit map 7 && fld map 0 7 == l then 68 else if bit map 15 && fld map 8 7 == l then 69 else l

/-- The errors of a beat by the lanes of R373: what a lane's wire, or its spare's, has flipped. -/
def mapLanes (map : W64) (e : BitVec 70) : BitVec 70 :=
  BitVec.ofNat 70 ((List.range 68).foldl (fun n l => if bit e (laneOf map l) then n + 2 ^ l else n) 0)

/-- Odd parity of the bits of a beat from `lo` on. -/
def oddBits (e : BitVec 70) (lo n : Nat) : Bool := (List.range n).foldl (fun p i => p != bit e (lo + i)) false

/-- How the checks of a transfer end: passed, with the errors that they did not find in the line's 144 bytes, or failed
at a located lane, 127 when it is not located (R374). -/
inductive Beats where
  | pass (err : BitVec 1152)
  | fail (lane : Nat)
deriving DecidableEq, Repr

/-- The checks of the 19 beats of a transfer from the bits that arrived wrong (R374): group parity on every beat, lane
parity on beat 18. Both are even parities, so that a check fails where the errors under it are odd in number. -/
def judgeBeats (es : List (BitVec 70)) : Beats :=
  let e (b : Nat) : BitVec 70 := (es[b]?).getD 0
  let lanes := (List.range 64).filter fun l => (List.range 19).foldl (fun p b => p != bit (e b) l) false
  let groupBad (b k : Nat) : Bool := oddBits (e b) (16 * k) 16 != bit (e b) (64 + k)
  let groups := (List.range 18).flatMap fun b => (List.range 4).filter (groupBad b)
  if lanes.isEmpty && groups.isEmpty && !(List.range 4).any (groupBad 18) then
    .pass (BitVec.ofNat 1152 ((List.range 18).foldl (fun n b => n + fld (e b) 0 64 * 2 ^ (64 * b)) 0))
  else match lanes with
    | [l] => .fail (if groups.all fun k => k == l / 16 then l else 127)
    | _ => .fail 127

/-- One attempt to carry a line over its channel. -/
def State.attempt (s : State) (a : Nat) : State × Beats :=
  let key := chanKey a
  let map := s.reg (stationReg (stackOf a) (0xF40 + 8 * chanOf a))
  let hard := Table.get 0 s.laneErr key
  let run (es : List (BitVec 70)) : Beats :=
    judgeBeats ((List.range 19).map fun b => mapLanes map ((es[b]?).getD 0 ^^^ hard))
  match Table.get [] s.busErr key with
  | [] => (s, if hard = 0 then .pass 0 else run [])
  | es :: rest => ({ s with busErr := Table.set [] s.busErr key rest }, run es)

/-- At most `k` attempts: what the one that passed brings, and the lanes of the failures before it. -/
def State.attempts (s : State) (a : Nat) : Nat → List Nat → State × Option (BitVec 1152) × List Nat
  | 0, ls => (s, none, ls)
  | k + 1, ls =>
    match s.attempt a with
    | (s1, .pass e) => (s1, some e, ls)
    | (s1, .fail l) => s1.attempts a k (ls ++ [l])

/-- The lane at which all failures were located, or 127. -/
def sameLane (ls : List Nat) : Nat := match ls with | [] => 127 | l :: rest => if rest.all (· == l) then l else 127

/-- The lower-numbered free spare of a channel (R375, R378). -/
def freeSpare (v : W64) : Option Nat := if !bit v 7 then some 0 else if !bit v 15 then some 1 else none

/-- A line and the direction of its transfer. -/
def wayKey (a : Nat) (wr : Bool) : Nat := a / 128 * 2 + (if wr then 1 else 0)

/-- The swap of a lane for a spare begins; the channel takes no transfers for 4,096 mesh cycles (R375). -/
def State.startSwap (s : State) (a : Nat) (wr : Bool) (lane spare : Nat) : State :=
  let n := stackOf a
  let ch := chanOf a
  let s1 := s.modReg (stationReg n (0xF40 + 8 * ch)) fun v => put v (8 * spare) 8 (128 + lane)
  let s2 := s1.modReg (stationReg n 0xF00) fun v => put v 16 8 (Nat.min 255 (fld v 16 8 + 1))
  (s2.modStation n fun t =>
    { t with swaps := Table.set none t.swaps ch (some (lane + 128 * spare, wayKey a wr, s.time.toNat)) }).after 4096
      (.laneSwapEnd n ch true)

/-- One transfer of a line over the stack's bus, retried up to 3 times, and once more after a lane swap (R375); with the
errors that the bus checks did not find. A write carries the same checks in the other direction (R374). -/
def State.transfer (s : State) (a : Nat) (wr : Bool) : State × Use × BitVec 1152 :=
  let n := stackOf a
  let ch := chanOf a
  match Table.get none (s.station n).again (wayKey a wr) with
  | some o =>
    let s1 := s.modStation n fun t => { t with again := Table.set none t.again (wayKey a wr) none }
    (s1, if o.isSome then .ok else .lost, o.getD 0)
  | none =>
    if (Table.get none (s.station n).swaps ch).isSome then (s, .wait, 0)
    else match s.attempts a 4 [] with
      | (s1, some e, []) => (s1, .ok, e)
      | (s1, some e, ls) => (s1.busLog n ch (stackAddr a) s.time.toNat ls.length (sameLane ls) none false, .ok, e)
      | (s1, none, ls) =>
        match decide (sameLane ls < 68), freeSpare (s.reg (stationReg n (0xF40 + 8 * ch))) with
        | true, some sp => (s1.startSwap a wr (sameLane ls) sp, .wait, 0)
        | _, _ => (s1.busLog n ch (stackAddr a) s.time.toNat 3 (sameLane ls) none true, .lost, 0)

/-! ## The array check (R369, R376) -/

/-- Symbols of codeword j of a line that stand wrong, with their patterns (R373). -/
def badSymbols (p : BitVec 1152) (j : Nat) : List (Nat × Nat) :=
  (List.range 36).filterMap fun k =>
    let b := fld p (288 * j + 8 * k) 8
    if b = 0 then none else some (k, b)

/-- The array check of a line: each codeword with an error makes its log entry; says whether every codeword could be
corrected, which one wrong symbol allows (R369, R377; log 135). -/
def State.checkArray (s : State) (a : Nat) (p : BitVec 1152) : State × Bool :=
  (List.range 4).foldl (fun (acc : State × Bool) j =>
    match badSymbols p j with
    | [] => acc
    | [(k, b)] => (acc.1.arrLog a false k b, acc.2)
    | _ => (acc.1.arrLog a true 63 0, false)) (s, true)

/-- Words of a line. -/
def ofLine (line : Nat) (w : Nat) : Bool := w / 16 == line

/-! ## L1 copies (R77, R431) -/

/-- A copy of a line that belongs to domain d of the tile. -/
def Tile.ownsCopy (t : Tile) (d : Nat) (c : Nat × Nat) : Bool := (t.ways[c.1]?) == some d

/-- Domain d of a tile holds a copy of a line in its ways. -/
def State.l1Hit (s : State) (T d line : Nat) : Bool :=
  let t := s.tile T
  t.l1.any fun c => c.2 == line && t.ownsCopy d c

/-- The directory invalidates every L1 copy of a line but that of one domain, the writer's (R77). -/
def State.recallL1 (s : State) (line : Nat) (keep : Option (Nat × Nat)) : State :=
  s.tiles.foldl (fun s e =>
    if e.2.l1.any fun c => c.2 == line then
      s.modTile e.1 fun t => { t with l1 := t.l1.filter fun c =>
        c.2 != line || (match keep with | some (T, d) => T == e.1 && t.ownsCopy d c | none => false) }
    else s) s

/-- A domain's ways of its tile's L1 cache allocate a line; of a full set one line, by free choice, goes (R77, R431). -/
def State.fillL1 (s : State) (line T d : Nat) : State :=
  let t := s.tile T
  let ways := (List.range 10).filter fun w => (t.ways[w]?) == some d
  let used := t.l1.filter fun c => ways.contains c.1 && c.2 % 512 == line % 512
  if ways.isEmpty || used.any fun c => c.2 == line then s
  else match ways.find? fun w => !used.any fun c => c.1 == w with
    | some w => s.modTile T fun t => { t with l1 := t.l1 ++ [(w, line)] }
    | none =>
      let w := (ways[Config.choose s.free ways.length % ways.length]?).getD 0
      s.bump.modTile T fun t => { t with l1 := (t.l1.filter fun c => !(c.1 == w && c.2 % 512 == line % 512)) ++ [(w, line)] }

/-! ## Lost lines (R371, R372) -/

/-- The entry of a line in its stack's lost-line table. -/
def State.lostAt (s : State) (line : Nat) : Option (Nat × Lost) :=
  (s.station (stackOf (lineAddr line))).lost.findSome? fun e => match e.2 with
    | some l => if l.line = line then some (e.1, l) else none
    | none => none

/-- The line is lost but waits for an entry of the table. -/
def State.lostOver (s : State) (line : Nat) : Bool :=
  (s.station (stackOf (lineAddr line))).excess.any fun x => x.1 == line

/-- Enters a line in entry i of the table; the slice holds no copy of it any more. -/
def State.putLost (s : State) (i line pid : Nat) : State :=
  ({ s.modStation (stackOf (lineAddr line)) fun x => { x with lost := Table.set none x.lost i (some ⟨line, pid, 0, 0⟩) } with
     lines := Table.del s.lines line } : State).freshWords (ofLine line)

/-- A line is lost: it enters the table. With a full table the job of `pid` is removed, a loss of no job is logged on the
management port, and the line is entered as soon as an entry frees (R372). -/
def State.enterLost (s : State) (line pid : Nat) : State :=
  let n := stackOf (lineAddr line)
  let t := (s.station n).lost
  if (s.lostAt line).isSome || s.lostOver line then s
  else match (List.range 64).find? fun i => (Table.get none t i).isNone with
    | some i => s.putLost i line pid
    | none =>
      let s1 := s.modStation n fun x => { x with excess := x.excess ++ [(line, pid)] }
      if pid = 0 then { s1 with log := s1.log ++ [(0x13, BitVec.ofNat 64 (lineAddr line))] }
      else s1.startRemoval pid none 0x21

/-- An entry frees: a line that waits for one is entered, and held requests are tried again (R372). -/
def State.freeLost (s : State) (n i : Nat) : State :=
  let s1 := s.modStation n fun x => { x with lost := Table.del x.lost i }
  (match (s1.station n).excess with
    | [] => s1
    | (line, pid) :: rest => (s1.modStation n fun x => { x with excess := rest }).putLost i line pid).wake

/-- Stores perform in the restoration buffer, each a range of the line; when every byte has been rewritten the line is
whole again and goes to DRAM with fresh check symbols (R372, R376). Other L1 copies are invalidated, and the writer's is
updated (R77, R97). -/
def State.restore (s : State) (line i : Nat) (l : Lost) (ws : List (Nat × List Byte)) (keep : Option (Nat × Nat)) :
    State × Use :=
  let n := stackOf (lineAddr line)
  let l1 : Lost := ws.foldl (fun l w =>
    { l with buf := put l.buf (8 * (w.1 % 128)) (8 * w.2.length) (ofBytes w.2)
             written := put l.written (w.1 % 128) w.2.length (2 ^ w.2.length - 1) }) l
  let seen (s : State) : State :=
    let s1 := s.recallL1 line keep
    match keep with
    | some (T, d) => if s1.l1Hit T d line then ws.foldl (fun s w => s.writeMem w.1 w.2) s1 else s1
    | none => s1
  if l1.written = BitVec.allOnes 128 then
    match s.transfer (lineAddr line) true with
    | (s1, .wait, _) => (s1, .wait)
    | (s1, .lost, _) =>
      (((seen s1).modStation n fun x => { x with lost := Table.set none x.lost i (some { l1 with written := 0, buf := 0 }) }), .ok)
    | (s1, .ok, e) =>
      let s2 := (seen s1).writeMem (lineAddr line) (toBytes 128 l1.buf.toNat)
      (({ s2 with arrErr := Table.set 0 s2.arrErr line e } : State).freeLost n i, .ok)
  else ((seen s).modStation n fun x => { x with lost := Table.set none x.lost i (some l1) }, .ok)

/-- The notice of a station that finds lost data, to the launch of the job that owns the request (R371). -/
def State.noticeLost (s : State) (n pid a : Nat) : State := s.notice (.station n) pid 0x13 (BitVec.ofNat 64 (a / 128 * 128))

/-! ## Lines at their slices (R76 to R79) -/

/-- The slice writes a dirty line to DRAM: the array's bits of it are then right (R369, R375). -/
def State.writeBack (s : State) (line : Nat) : State × Use :=
  match s.transfer (lineAddr line) true with
  | (s1, .ok, e) => ({ s1 with arrErr := Table.set 0 s1.arrErr line e }, .ok)
  | (s1, u, _) => (s1, u)

/-- A slice drops a line, written back when it is dirty; a dirty copy that fails its check, or a write-back that is lost,
makes the line lost (R372, R375). `false` while the channel takes no transfers. -/
def State.dropLine (s : State) (line : Nat) : State × Bool :=
  match Table.get none s.lines line with
  | none => (s, true)
  | some l =>
    let gone (s : State) : State := ({ s with lines := Table.del s.lines line } : State).freshWords (ofLine line)
    if !l.dirty then (gone s, true)
    else if s.bad.any (ofLine line) then (s.enterLost line l.pid, true)
    else match s.writeBack line with
      | (s1, .ok) => (gone s1, true)
      | (s1, .lost) => ((gone s1).enterLost line l.pid, true)
      | (s1, .wait) => (s1, false)

/-- A slice of 2^21 lines takes one more: when it is full, one of its lines that no engine owns goes, by free choice (R78).
-/
def State.makeRoom (s : State) (n : Nat) : State × Bool :=
  if s.lines.length < 2 ^ 21 then (s, true)
  else
    let ls := (s.lines.filter fun e => match e.2 with | some l => s.bucketStation l.bucket == n | none => false).map (·.1)
    let ls' := ls.filter fun l => Table.get 0 s.owned l == 0
    if ls.length < 2 ^ 21 then (s, true)
    else match ls'[Config.choose s.free ls'.length % ls'.length]? with
      | some l => s.bump.dropLine l
      | none => (s, false)

/-- Brings a line to its slice for a use by `pid` through bucket `b`: from the slice, or from DRAM through the bus and
array checks; it stays in the slice when `alloc` (R73, R369, R372, R376). -/
def State.lineIn (s : State) (pid line b : Nat) (alloc : Bool) : State × Use :=
  let a := lineAddr line
  let keep (s : State) : State :=
    if alloc then { s with lines := Table.set none s.lines line (some ⟨false, pid, b⟩) } else s
  let fetch (s : State) : State × Use :=
    match if alloc then s.makeRoom (s.bucketStation b) else (s, true) with
    | (s0, false) => (s0, .wait)
    | (s0, true) =>
      match s0.transfer a false with
      | (s1, .ok, e) =>
        let p := Table.get 0 s1.arrErr line ^^^ e
        if p = 0 then (keep s1, .ok)
        else match s1.checkArray a p with
          | (s2, true) => (keep { s2 with arrErr := Table.del s2.arrErr line }, .ok)
          | (s2, false) => (s2.enterLost line pid, .lost)
      | (s1, u, _) => (s1, u)
  if (s.lostAt line).isSome || s.lostOver line then (s, .lost)
  else match Table.get none s.lines line with
    | some l =>
      if s.bad.any (ofLine line) then
        if l.dirty then (s.enterLost line l.pid, .lost)
        else fetch (({ s with lines := Table.del s.lines line } : State).freshWords (ofLine line))
      else (s.scrub (ofLine line) true, .ok)
    | none => fetch s

/-- A line is to be written: it is dirty in its slice, or goes to DRAM at once; a write whose transfer is lost enters the
line in the table (R73, R375). -/
def State.lineOut (s : State) (pid line b : Nat) (alloc : Bool) : State × Use :=
  match Table.get none s.lines line with
  | some l => ({ s with lines := Table.set none s.lines line (some { l with dirty := true, pid := pid }) }, .ok)
  | none =>
    if alloc then
      match s.makeRoom (s.bucketStation b) with
      | (s1, true) => ({ s1 with lines := Table.set none s1.lines line (some ⟨true, pid, b⟩) }, .ok)
      | (s1, false) => (s1, .wait)
    else match s.writeBack line with
      | (s1, .lost) => (s1.enterLost line pid, .lost)
      | r => r

/-! ## Reads and writes at a slice (R95) -/

/-- An engine owns the line (R104). -/
def State.isOwned (s : State) (line : Nat) : Bool := Table.get 0 s.owned line != 0

/-- Reads `n` bytes of one line. -/
def State.physRead (s : State) (pid a n b : Nat) (alloc : Bool) : State × Use × List Byte :=
  match s.lineIn pid (a / 128) b alloc with
  | (s1, .ok) => (s1, .ok, s1.readMem a n)
  | (s1, u) => (s1, u, [])

/-- Writes ranges of one line as one access, into the restoration buffer when the line is lost (R95, R372); `keep` is the
writer, whose L1 copy stays. A store to a line that waits for an entry of the table waits too. -/
def State.lineWrite (s : State) (pid line b : Nat) (ws : List (Nat × List Byte)) (alloc : Bool) (keep : Option (Nat × Nat)) :
    State × Use :=
  let lostLine (s : State) : State × Use :=
    match s.lostAt line with
    | some (i, l) => s.restore line i l ws keep
    | none => (s, if s.lostOver line then .wait else .lost)
  let whole := ws.foldl (fun n w => n + w.2.length) 0 == 128
  if (s.lostAt line).isSome || s.lostOver line then lostLine s
  else
    match if whole then (s, .ok) else s.lineIn pid line b alloc with
    | (s1, .lost) => lostLine s1
    | (s1, .wait) => (s1, .wait)
    | (s1, .ok) =>
      match s1.lineOut pid line b alloc with
      | (s2, .lost) => lostLine s2
      | (s2, .wait) => (s2, .wait)
      | (s2, .ok) =>
        let s3 := if whole then s2.freshWords (ofLine line) else s2
        (ws.foldl (fun s w => s.writeMem w.1 w.2) (s3.recallL1 line keep), .ok)

/-- Writes bytes of one line, by no thread. -/
def State.physWrite (s : State) (pid a b : Nat) (bs : List Byte) (alloc : Bool) : State × Use :=
  s.lineWrite pid (a / 128) b [(a, bs)] alloc none

/-! ## Translation (R71 to R74, R380) -/

/-- How a walk ends. -/
inductive Walk where
  | ok (x : Xlat)
  | fault
  | lost (a : Nat)
  | wait
deriving DecidableEq, Repr

/-- A table of `size` bytes lies in the DRAM of a module of the herd (R380). -/
def State.tableOk (s : State) (pa size : Nat) : Bool :=
  bit s.members (moduleOf pa) && pa % 2 ^ 47 + size ≤ 0x030000000000

/-- The bucket of a line of DRAM (R80). -/
def State.bucketOf (s : State) (pid : Nat) (shr : Bool) (a : Nat) : Nat :=
  if shr then s.sharedBucket a else jobBucket (s.jobBuckets pid).1 (s.jobBuckets pid).2 a

/-- Counts an access of a bucket (R82). -/
def State.countBucket (s : State) (b : Nat) : State :=
  { s with bcount := Table.set 0 s.bcount b (Table.get 0 s.bcount b + 1) }

/-- The bucket is draining: newly arriving requests are queued at the old slice (R82). -/
def State.bucketShut (s : State) (b : Nat) : Bool :=
  match s.move with | some m => m.bucket == b && m.state == 0 | none => false

/-- The elements of a range, of at most 8 bytes each. -/
def rangeElems (pa : Nat) (len : Nat) (b : List Byte) : List Elem :=
  (List.range ((len + 7) / 8)).map fun i =>
    let n := Nat.min 8 (len - 8 * i)
    ⟨i, BitVec.ofNat 64 (pa + 8 * i), BitVec.ofNat 64 (pa + 8 * i), n, BitVec.ofNat 64 (ofBytes ((b.drop (8 * i)).take n)), 0⟩

/-- Memory of another module, for an engine or the walker of station n: the request leaves through the ports (R78), what
it is for waits, and its outcome is used once it has come; it stays noted until `State.farDone`. -/
def State.far (s : State) (n : Nat) (f : Far) (data : List Byte) (shr : Bool) (cache : Nat) : State × Use × List Byte :=
  match (s.station n).far.find? fun g => g.wr == f.wr && g.pid == f.pid && g.pa == f.pa && g.len == f.len with
  | some g =>
    match g.got with
    | some (some b) => (s, .ok, b)
    | some none => (s, .lost, [])
    | none => (s, .wait, [])
  | none =>
    let iss : Issuer := { Issuer.none with hw := 18, seq := n }
    let a : Access := { noAccess (if f.wr then .write else .read) (rangeElems f.pa f.len data) iss with
                        shr := shr, dev := false, cache := BitVec.ofNat 2 cache }
    let m := blockMsg (.station n) (.station n) (if f.wr then 0x02 else 0x01) f.pid 0 (.access a)
    ((s.modStation n fun t => { t with far := t.far ++ [{ f with got := none }] }).send (s.abroad (moduleOf f.pa) m), .wait, [])

/-- The outcomes of a job's transfers that `f` picks have been used. -/
def State.farDone (s : State) (n : Nat) (f : Far → Bool) : State :=
  if (s.station n).far.isEmpty then s
  else s.modStation n fun t => { t with far := t.far.filter fun g => !(f g && g.got.isSome) }

/-- The walker reads a table entry, through the LLC, by the shared range (R74; log 136). -/
def State.walkRead (s : State) (n pid pa : Nat) : State × Use × W64 :=
  if moduleOf pa ≠ s.module.toNat then
    match s.far n ⟨false, pid, pa, 8, 0, 2 ^ 55, false, none⟩ [] true 0 with
    | (s1, .ok, b) => (s1.farDone n fun g => !g.wr && g.pid == pid && g.pa == pa, .ok, BitVec.ofNat 64 (ofBytes b))
    | (s1, .lost, _) => (s1.farDone n fun g => !g.wr && g.pid == pid && g.pa == pa, .lost, 0)
    | (s1, .wait, _) => (s1, .wait, 0)
  else
    let a := pa % 2 ^ 47
    let b := s.sharedBucket a
    if s.isOwned (a / 128) || s.bucketShut b then (s, .wait, 0)
    else
      let r := s.physRead pid a 8 b true
      (r.1, r.2.1, BitVec.ofNat 64 (ofBytes r.2.2))

def pteAddr (e : W64) : Nat := fld e 16 36 * 2 ^ 16
def pteV (e : W64) : Bool := bit e 0
def pteLeaf (e : W64) : Bool := bit e 1
def pteCache (e : W64) : Nat := fld e 6 2
/-- Reserved bits of a leaf (R73). -/
def pteResv (e : W64) : Bool := fld e 60 4 != 0 || fld e 52 4 != 0 || fld e 10 6 != 0

/-- The physical address that a translation gives (R72). -/
def Xlat.phys (x : Xlat) (va : Nat) : Nat :=
  if x.big then pteAddr x.leaf / 2 ^ 29 * 2 ^ 29 + va % 2 ^ 29 else pteAddr x.leaf + va % 2 ^ 16

/-- The address that a leaf gives is a DRAM location or a host aperture that the leaf may map (R380). -/
def Xlat.okAddr (x : Xlat) (va : Nat) : Bool :=
  match placeOf (x.phys va) with
  | .dram _ => true
  | .host _ _ => pteCache x.leaf == 2
  | _ => false

/-- A leaf found by a walk (R380). -/
def leafWalk (pid va : Nat) (big : Bool) (e : W64) (at_ : Nat) : Walk :=
  let x : Xlat := ⟨pid, if big then va / 2 ^ 29 else va / 2 ^ 16, big, e, at_⟩
  if pteResv e || (big && fld e 16 13 != 0) || !x.okAddr va then .fault else .ok x

/-- One level of a walk: the table at `base`, the entry at index `i`; the levels below it follow in `rest`. -/
def State.walkLevels (s : State) (n pid va : Nat) : Nat → Nat → State × Walk
  | 0, _ => (s, .fault)
  | k + 1, base =>
    let level := 3 - k
    let i := if level = 1 then va / 2 ^ 42 % 8192 else if level = 2 then va / 2 ^ 29 % 8192 else va / 2 ^ 16 % 8192
    if !s.tableOk base 0x10000 then (s, .fault)
    else
      match s.walkRead n pid (base + 8 * i) with
      | (s1, .wait, _) => (s1, .wait)
      | (s1, .lost, _) => (s1, .lost (base + 8 * i))
      | (s1, .ok, e) =>
        if !pteV e then (s1, .fault)
        else if level = 1 then (if pteLeaf e then (s1, .fault) else s1.walkLevels n pid va k (pteAddr e))
        else if level = 2 then
          (if pteLeaf e then (s1, leafWalk pid va true e (base + 8 * i)) else s1.walkLevels n pid va k (pteAddr e))
        else if pteLeaf e then (s1, leafWalk pid va false e (base + 8 * i))
        else (s1, .fault)

/-- A walk from the PID table (R72, R380). -/
def State.walk (s : State) (n pid va : Nat) : State × Walk :=
  let base := fld (s.reg (stationReg n 0x100)) 19 33 * 2 ^ 19
  if !s.tableOk base 0x80000 then (s, .fault)
  else
    match s.walkRead n pid (base + 8 * pid) with
    | (s1, .wait, _) => (s1, .wait)
    | (s1, .lost, _) => (s1, .lost (base + 8 * pid))
    | (s1, .ok, e) =>
      if !bit e 0 || fld e 1 15 != 0 || fld e 52 12 != 0 then (s1, .fault) else s1.walkLevels n pid va 3 (pteAddr e)

/-- Translates at a station: a cached translation, or a walk whose result is cached (R74). Of 65,536 cached translations
the oldest makes room for another (DESIGN CHOICE: R71 names none; log 137). -/
def State.translate (s : State) (n pid va : Nat) : State × Walk :=
  match (s.station n).xlat.find? fun x => x.pid == pid && x.vpn == (if x.big then va / 2 ^ 29 else va / 2 ^ 16) with
  | some x => (s, .ok x)
  | none =>
    match s.walk n pid va with
    | (s1, .ok x) =>
      (s1.modStation n fun t => { t with xlat := (if t.xlat.length < 65536 then t.xlat else t.xlat.drop 1) ++ [x] }, .ok x)
    | r => r

/-- The permission check (R380). -/
def Xlat.allows (x : Xlat) (rd wr user atomic : Bool) : Bool :=
  (!rd || bit x.leaf 2) && (!wr || bit x.leaf 3) && !(user && bit x.leaf 8) &&
    !(atomic && match placeOf (x.phys 0) with | .host _ _ => true | _ => false)

/-- Sets A, and D for a write, by an atomic OR at the slice of the entry, and in the cached translation (R73, R74);
`false` while the entry's line is held. -/
def State.setAD (s : State) (n : Nat) (x : Xlat) (wr : Bool) : State × Bool :=
  let m : W64 := if wr then 0x30 else 0x10
  if x.leaf &&& m = m then (s, true)
  else
    let mark (s : State) : State := s.modStation n fun t =>
      { t with xlat := t.xlat.map fun y => if y = x then { y with leaf := y.leaf ||| m } else y }
    if moduleOf x.pte ≠ s.module.toNat then
      let e : Elem := ⟨0, BitVec.ofNat 64 x.pte, BitVec.ofNat 64 x.pte, 8, m, 0⟩
      let iss : Issuer := { Issuer.none with hw := 18, seq := n }
      let a : Access := { noAccess (.amo .or) [e] iss with dev := false }
      ((mark s).send (s.abroad (moduleOf x.pte) (blockMsg (.station n) (.station n) 0x03 x.pid 0 (.access a))), true)
    else
      let a := x.pte % 2 ^ 47
      let b := s.sharedBucket a
      if s.isOwned (a / 128) || s.bucketShut b then (s, false)
      else
        match s.lineIn x.pid (a / 128) b true with
        | (s1, .ok) =>
          let e := BitVec.ofNat 64 (ofBytes (s1.readMem a 8)) ||| m
          match s1.physWrite x.pid a b (toBytes 8 e.toNat) true with
          | (s2, .wait) => (s2, false)
          | (s2, _) => (mark s2, true)
        | (s1, .wait) => (s1, false)
        | (s1, .lost) => (s1, true)

/-! ## Accesses of a station's engines to global memory (R71, R103 to R106) -/

/-- How an engine's access ends: bytes, a cause (0x0A, 0x0B), lost data at a physical address, or a wait. -/
inductive GRes where
  | ok (b : List Byte)
  | fault (c : Nat) (va : Nat)
  | lost (a : Nat)
  | wait
deriving DecidableEq, Repr

/-- The place that an engine of station n reaches at a virtual address, with the leaf. -/
def State.engPlace (s : State) (n pid va : Nat) (user wr : Bool) : State × (Except GRes (Nat × Xlat)) :=
  match s.translate n pid va with
  | (s1, .fault) => (s1, .error (.fault 0x0A va))
  | (s1, .wait) => (s1, .error .wait)
  | (s1, .lost a) => (s1.noticeLost n pid a, .error (.lost a))
  | (s1, .ok x) =>
    if !x.okAddr va then (s1, .error (.fault 0x0A va))
    else if !x.allows (!wr) wr user false then (s1, .error (.fault 0x0B va))
    else match s1.setAD n x wr with
      | (s2, true) => (s2, .ok (x.phys va, x))
      | (s2, false) => (s2, .error .wait)

/-- A piece of an engine's access, inside one line, by an engine that owns the lines `mine` (R104). -/
def State.engPiece (s : State) (n pid va len : Nat) (user : Bool) (w : Option (List Byte)) (mine : List Nat) : State × GRes :=
  match s.engPlace n pid va user w.isSome with
  | (s1, .error r) => (s1, r)
  | (s1, .ok (pa, x)) =>
    if moduleOf pa ≠ s.module.toNat then
      match s1.far n ⟨w.isSome, pid, pa, len, (s1.station n).era, va, x.big, none⟩ (w.getD []) (bit x.leaf 9) (pteCache x.leaf) with
      | (s2, .ok, b) => (s2, .ok b)
      | (s2, .lost, _) => (s2, .lost pa)
      | (s2, .wait, _) => (s2, .wait)
    else match placeOf pa with
      | .dram a =>
        let b := s1.bucketOf pid (bit x.leaf 9) a
        if !mine.contains (a / 128) && (s1.isOwned (a / 128) || s1.bucketShut b) then (s1, .wait)
        else
          let alloc := pteCache x.leaf < 2
          match w with
          | some bs =>
            match s1.physWrite pid a b bs alloc with
            | (s2, .ok) => (s2.countBucket b, .ok [])
            | (s2, .lost) => (s2, .lost a)
            | (s2, .wait) => (s2, .wait)
          | none =>
            match s1.physRead pid a len b alloc with
            | (s2, .ok, bs) => (s2.countBucket b, .ok bs)
            | (s2, .lost, _) => (s2.noticeLost n pid a, .lost a)
            | (s2, .wait, _) => (s2, .wait)
      | .host k a =>
        match w with
        | some b => ({ s1 with hostMem := Memory.write s1.hostMem (k * 2 ^ 64 + a) b }, .ok [])
        | none => (s1, .ok (Memory.read s1.hostMem (k * 2 ^ 64 + a) len))
      | _ => (s1, .fault 0x0A va)

/-- The pieces of a range, one for each 128-byte line it touches. -/
def linePieces (va len : Nat) : List (Nat × Nat) :=
  (List.range ((va % 128 + len + 127) / 128)).map fun k =>
    let lo := Nat.max va ((va / 128 + k) * 128)
    let hi := Nat.min (va + len) ((va / 128 + k + 1) * 128)
    (lo, hi - lo)

/-- The pieces of a range that lie in another module's memory are asked for first; `false` while one has not come. -/
def State.farFirst (s : State) (n pid : Nat) (user : Bool) (va : Nat) (w : Option (List Byte)) (ps : List (Nat × Nat)) :
    State × Bool :=
  ps.foldl (fun (acc : State × Bool) p =>
    match acc.1.engPlace n pid p.1 user w.isSome with
    | (s1, .ok (pa, x)) =>
      if moduleOf pa = s.module.toNat then acc
      else
        let bs := (w.getD []).drop (p.1 - va) |>.take p.2
        match s1.far n ⟨w.isSome, pid, pa, p.2, (s1.station n).era, p.1, x.big, none⟩ bs (bit x.leaf 9) (pteCache x.leaf) with
        | (s2, .wait, _) => (s2, false)
        | (s2, _, _) => (s2, acc.2)
    | _ => acc) (s, true)

/-- The outcomes that a range has used are forgotten. -/
def State.farUsed (s : State) (n pid va len : Nat) (wr : Bool) : State :=
  s.farDone n fun g => g.wr == wr && g.pid == pid && va ≤ g.va && g.va < va + len

/-- A range of global memory, piece by piece. -/
def State.grange (s : State) (n pid : Nat) (user : Bool) (va len : Nat) (w : Option (List Byte)) (mine : List Nat) :
    State × GRes :=
  let ps := linePieces va len
  match s.farFirst n pid user va w ps with
  | (s1, false) => (s1, .wait)
  | (s1, true) =>
    let r := ps.foldl (fun (acc : State × GRes) p =>
      match acc.2 with
      | .ok b =>
        match acc.1.engPiece n pid p.1 p.2 user (w.map fun bs => (bs.drop (p.1 - va)).take p.2) mine with
        | (s1, .ok b') => (s1, .ok (b ++ b'))
        | r => r
      | _ => acc) (s1, .ok [])
    match r.2 with
    | .wait => r
    | _ => (r.1.farUsed n pid va len w.isSome, r.2)

/-- Reads a range of global memory for an engine of station n that owns the lines `mine`. -/
def State.greadAs (s : State) (n pid : Nat) (user : Bool) (mine : List Nat) (va len : Nat) : State × GRes :=
  s.grange n pid user va len none mine

/-- Reads a range of global memory for an engine of station n. -/
def State.gread (s : State) (n pid : Nat) (user : Bool) (va len : Nat) : State × GRes := s.greadAs n pid user [] va len

/-- Writes bytes to global memory for an engine of station n, or for a commit or a saddle; `mine` are the lines that the
engine owns (R104). -/
def State.gwrite (s : State) (n pid : Nat) (user : Bool) (mine : List Nat) (va : Nat) (b : List Byte) : State × GRes :=
  s.grange n pid user va b.length (some b) mine

/-- Accesses of the service tile and of firmware to local physical memory, with no translation and no job (R60): DRAM,
local stores, registers' bytes as stored. -/
def State.devRead (s : State) (pa n : Nat) : State × Use × List Byte :=
  match placeOf pa with
  | .dram a =>
    let b := s.sharedBucket a
    if s.isOwned (a / 128) || s.bucketShut b then (s, .wait, []) else s.physRead 0 a n b true
  | .store T off => if s.lsBad T off n then (s, .lost, []) else (s.scrub (inStore T off n) false, .ok, s.lsRead T off n)
  | .regs a =>
    (s, .ok, ((List.range ((n + 7) / 8)).flatMap fun i => toBytes 8 (s.regValue (a / 8 * 8 + 8 * i)).toNat).take n)
  | _ => (s, .ok, List.replicate n 0)

/-- Bytes of physical memory of the herd, for an engine of station n: this module's, line by line, or another's, asked for
by lines and used once all of them have come (R78). -/
def State.physAll (s : State) (n pid pa len : Nat) : State × Use × List Byte :=
  let here := moduleOf pa == s.module.toNat
  let r := (linePieces pa len).foldl (fun (acc : State × Use × List Byte) p =>
    let x := if here then acc.1.devRead p.1 p.2 else acc.1.far n ⟨false, pid, p.1, p.2, 0, 2 ^ 55, false, none⟩ [] true 0
    (x.1, (match acc.2.1, x.2.1 with | .lost, _ | _, .lost => Use.lost | .wait, _ | _, .wait => .wait | .ok, .ok => .ok),
      acc.2.2 ++ x.2.2)) (s, .ok, [])
  match r.2.1 with
  | .wait => r
  | _ => (r.1.farDone n fun g => !g.wr && g.pid == pid && pa ≤ g.pa && g.pa < pa + len, r.2)

/-- The bytes of a range as controllers and firmware know them; `none` when a line of it is lost, or held by an engine or a
bucket move. A transfer that has to be made again does not keep them waiting (log 127). -/
def State.fwRead (s : State) (pa len : Nat) : Option (List Byte) :=
  (linePieces pa len).foldl (fun acc p =>
    match acc, s.devRead p.1 p.2 with
    | some b, (_, .ok, b') => some (b ++ b')
    | some b, (_, .wait, _) =>
      match placeOf p.1 with
      | .dram a => if s.isOwned (a / 128) || s.bucketShut (s.sharedBucket a) then none else some (b ++ s.readMem a p.2)
      | _ => none
    | _, _ => none) (some [])

end Sys2Proof.Machine
end

