-- ==== Sys2Proof/Machine/Engines.lean ====
section
/-! DEFINITION. Block-transfer engines and stream ports (R161 to R175, R381 to R383): acceptance, the units moved, bulk
data at its receivers, ordered streams, parked streams and completion. -/

namespace Sys2Proof.Machine

open Bits

/-! ## Completion messages (R135, R168) -/

/-- A completion message: MKIND, STATUS and the two doublewords are its payload (R135, R168). -/
def completion (src dst : Node) (pid mkind status tag : Nat) (d0 d1 : W64) : Msg :=
  blockMsg src dst 0x0C pid tag (.done mkind status d0 d1)

/-- The domain that a job holds on a tile (R50, R65, R176). -/
def State.domOf (s : State) (T pid : Nat) : Option Nat :=
  (List.range 4).find? fun d => (s.dom T d).present && (s.dom T d).pid == pid

/-! ## Acceptance checks (R383) -/

/-- A unit of u bytes at a physical address lies whole in one location of R68. -/
def unitPlace (pa u : Nat) : Bool :=
  match placeOf pa, placeOf (pa + u - 1) with
  | .dram _, .dram _ | .regs _, .regs _ => true
  | .store t _, .store t' _ => t == t'
  | .host k _, .host k' _ => k == k'
  | _, _ => false

/-- Window conditions of one side of a record: status 0x05. -/
def State.badSide (s : State) (l : Layout) (c : EngCmd) (isPort : Bool) (src : Bool) : Bool :=
  let d := s.dom c.iss.tile c.iss.dom
  let a := if src then l.src else l.dst
  let units (ok : W64 → Bool) : Bool :=
    (List.range l.units).all fun n => ok (addrAt a (if src then (l.offsets n).1 else (l.offsets n).2))
  match windowOf a with
  | .none | .priv | .saddle => true
  | .global => isPort
  | .loc => !units fun a => windowOf a == .loc && tileOf a == c.iss.tile
  | .shr => false
  | .dev =>
    isPort || c.iss.priv == 0 ||
      !units fun a =>
        let pa := physOf a
        let u := unitBytes l.fmt
        unitPlace pa u && s.devReachAs d c.iss.dom c.iss.priv pa (!src) 0 &&
          s.devReachAs d c.iss.dom c.iss.priv (pa + u - 1) (!src) 0

/-- Contradictory strides on the strided side: status 0x08. -/
def stridesBad : Nat → List Nat → List Int → Bool
  | sPrev, e :: es, st :: sts => (e > 1 && st.natAbs < sPrev) || stridesBad (Nat.max sPrev (st.natAbs * e)) es sts
  | _, _, _ => false

/-- The receivers of a record at a local or shared DST (R171). -/
def State.receivers (s : State) (l : Layout) (c : EngCmd) : List Nat :=
  let d := s.dom c.iss.tile c.iss.dom
  let base := match windowOf l.dst with
    | .loc => tileOf l.dst
    | _ => d.tileOfF (fabOf l.dst)
  if l.mcast = 0 then [base] else (onesOf l.mcast 16).map fun i => base + i

/-- MCAST that cannot be carried out: status 0x09. -/
def State.mcastBad (s : State) (l : Layout) (c : EngCmd) : Bool :=
  let d := s.dom c.iss.tile c.iss.dom
  l.mcast != 0 &&
    match windowOf l.dst with
    | .loc | .shr =>
      (windowOf l.dst == .shr && !d.inFabric (fabOf l.dst)) ||
        (s.receivers l c).any fun T => T / 64 != (s.receivers { l with mcast := 0 } c).headD 0 / 64 || !d.tileInFabric T
    | _ => true

/-- Windows of the ordered streams of every source towards a tile (R144). -/
def State.windowSum (s : State) (n : Node) : Nat :=
  let f (l : List TxStream) : Nat := (l.filter fun t => t.dst == n).foldl (fun a t => a + t.window) 0
  (s.stations.foldl (fun a e => a + f e.2.txStreams) 0) + s.tiles.foldl (fun a e => a + f e.2.txStreams) 0

/-- An ordered record whose windows do not fit at a receiver: status 0x0A (R175). -/
def State.streamBad (s : State) (l : Layout) (c : EngCmd) (tx : List TxStream) : Bool :=
  l.ordered &&
    match windowOf l.dst with
    | .loc | .shr =>
      (s.receivers l c).any fun T =>
        !(tx.any fun t => t.stream == l.stream && t.dst == s.nodeOf T) && s.windowSum (s.nodeOf T) + l.win > 32
    | _ => false

/-- The acceptance code of a record: 0, or the first check of R383 that fails. -/
def State.recordCode (s : State) (c : EngCmd) (isPort : Bool) (tx : List TxStream) : Nat :=
  let l := layoutOf c.desc
  let al := unitAlign l.fmt
  if l.resv then 0x01
  else if !isPort && l.station > 0x40 then 0x02
  else if 0xB ≤ l.fmt && l.fmt ≤ 0xE then 0x03
  else if l.exts.contains 0 then 0x04
  else if s.badSide l c isPort true || s.badSide l c isPort false then 0x05
  else if l.src.toNat % al != 0 || l.dst.toNat % al != 0 || l.strides.any fun x => x.natAbs % al != 0 then 0x06
  else if 2 ^ 35 ≤ l.units * unitBytes l.fmt then 0x07
  else if stridesBad (l.exts.headD 1 * unitBytes l.fmt) (l.exts.drop 1) l.strides then 0x08
  else if s.mcastBad l c then 0x09
  else if s.streamBad l c tx then 0x0A
  else 0

/-! ## Where a unit lies (R166, R170) -/

/-- The place of a unit's side. -/
inductive Side where
  | glob (va : Nat)
  | tile (t off : Nat) (shr : Bool)
  | phys (pa : Nat)
  /-- A tile outside the job's fabric (R170, R439). -/
  | beyond (t off : Nat)
  | outside
deriving DecidableEq, Repr

def State.sideOf (s : State) (c : EngCmd) (a : W64) : Side :=
  let d := s.dom c.iss.tile c.iss.dom
  match windowOf a with
  | .global => .glob (fld a 0 55)
  | .loc => .tile (tileOf a) (offOf a) false
  | .shr =>
    let F := fabOf a
    if d.inFabric F then .tile (d.tileOfF F) (offOf a) true
    else if d.frow0 + F / 64 < 32 ∧ d.fcol0 + F % 64 < 64 then .beyond (d.tileOfF F) (offOf a)
    else .outside
  | .dev => .phys (physOf a)
  | _ => .outside

/-- The copy is third-party (R170). -/
def State.thirdParty (s : State) (l : Layout) (c : EngCmd) : Bool :=
  let tileSide (x : Side) : Option Nat := match x with | .tile t _ _ => some t | _ => none
  let a := tileSide (s.sideOf c l.src)
  let b := tileSide (s.sideOf c l.dst)
  let rs := match b with | some _ => s.receivers l c | none => []
  a != some c.iss.tile && !rs.contains c.iss.tile && (a.isSome || !rs.isEmpty)

/-- PERM_MASK lets another tile's engine or thread in: bit 0 reads, 1 writes, 2 atomics, 3 third-party (R65, R170). -/
def permits (d : Dom) (bits : List Nat) : Bool := bits.all fun b => bit d.permMask b

/-- A range touches the domain's code area (R33, R196). -/
def Dom.touchesCode (d : Dom) (off n : Nat) : Bool :=
  d.codeSize != 0 && off < d.codeBase + d.codeSize && d.codeBase < off + n

/-- Why units stop. -/
inductive Stop where
  | none
  | fail (status : Nat)
  | fault (cause va : Nat) (write : Bool)
  | wait
deriving DecidableEq, Repr

/-- The source bytes of a unit, for an engine that owns the lines `mine`. -/
def State.unitRead (s : State) (n pid : Nat) (c : EngCmd) (third : Bool) (mine : List Nat) (a : W64) (u : Nat) :
    State × Stop × List Byte :=
  match s.sideOf c a with
  | .outside | .beyond _ _ => (s, .fail 0x21, [])
  | .glob va =>
    match s.greadAs n pid (c.iss.priv == 0) mine va u with
    | (s1, .ok b) => (s1, .none, b)
    | (s1, .fault cause v) => (s1, .fault cause v false, [])
    | (s1, .lost _) => (s1, .fail 0x20, [])
    | (s1, .wait) => (s1, .wait, [])
  | .tile T off shr =>
    if (s.tile T).fenced then (s, .fail 0x24, [])
    else match s.domOf T pid with
      | none => (s, .fail 0x21, [])
      | some dn =>
        let d := s.dom T dn
        if shr && T != c.iss.tile && !permits d (if third then [0, 3] else [0]) then (s, .fail 0x21, [])
        else if !d.holds off u then (s, .fail 0x25, [])
        else if s.lsBad T off u then (s, .fail 0x20, [])
        else (s.scrub (inStore T off u) false, .none, s.lsRead T off u)
  | .phys pa =>
    if moduleOf pa ≠ s.module.toNat then
      match s.far n ⟨false, pid, pa, u, 0, 2 ^ 55, false, none⟩ [] true 0 with
      | (s1, .ok, b) => (s1.farDone n fun g => !g.wr && g.pid == pid && g.pa == pa, .none, b)
      | (s1, .lost, _) => (s1.farDone n fun g => !g.wr && g.pid == pid && g.pa == pa, .fail 0x20, [])
      | (s1, .wait, _) => (s1, .wait, [])
    else match placeOf pa with
      | .host k a' => (s, .none, Memory.read s.hostMem (k * 2 ^ 64 + a') u)
      | _ =>
        match s.devRead pa u with
        | (s1, .ok, b) => (s1, .none, b)
        | (s1, .lost, _) => (s1, .fail 0x20, [])
        | (s1, .wait, _) => (s1, .wait, [])

/-- A write request of a station's engine to a device-window location, which answers to the record by its tag; `unit` is
the unit that it carries (R168). -/
def State.devRequest (s : State) (n pid tag unit : Nat) (dst : Node) (pa : Nat) (b : List Byte) (iss : Issuer) : State :=
  let m := blockMsg (.station n) dst 0x02 pid tag
    (.access { noAccess .write (rangeElems pa b.length b) { iss with hw := 19, seq := unit } with phys := true, dev := true })
  s.send (if moduleOf pa = s.module.toNat then m else s.abroad (moduleOf pa) { m with dst := .station n })

/-- What a unit's write leaves to do: deliveries to local stores, and requests sent whose answers are to come. -/
structure Put where
  dels : List (Nat × Nat × List Byte × Nat)
  sent : Nat

/-- Writes a unit, or notes it for delivery to a local store, for the record with a tag of an engine that owns the lines
`mine`. An engine does not send a unit for a tile outside the fabric; a stream port does, and a boundary guard drops it
(R170, R439). -/
def State.unitWrite (s : State) (n pid tag : Nat) (c : EngCmd) (port : Bool) (mine : List Nat) (a : W64) (b : List Byte)
    (unit : Nat) : State × Stop × Put :=
  match s.sideOf c a with
  | .outside => (s, .fail (if port then 0x26 else 0x21), ⟨[], 0⟩)
  | .beyond T off => if port then (s, .none, ⟨[(T, off, b, unit)], 0⟩) else (s, .fail 0x21, ⟨[], 0⟩)
  | .glob va =>
    match s.gwrite n pid (c.iss.priv == 0) mine va b with
    | (s1, .ok _) => (s1, .none, ⟨[], 0⟩)
    | (s1, .fault cause v) => (s1, .fault cause v true, ⟨[], 0⟩)
    | (s1, .lost _) => (s1, .fail 0x20, ⟨[], 0⟩)
    | (s1, .wait) => (s1, .wait, ⟨[], 0⟩)
  | .tile T off _ =>
    if 0xC00000 < off + b.length then (s, .fail 0x25, ⟨[], 0⟩) else (s, .none, ⟨[(T, off, b, unit)], 0⟩)
  | .phys pa =>
    if moduleOf pa ≠ s.module.toNat then (s.devRequest n pid tag unit (.station n) pa b c.iss, .none, ⟨[], 1⟩)
    else match placeOf pa with
      | .dram x =>
        let k := s.sharedBucket x
        if s.isOwned (x / 128) || s.bucketShut k then (s, .wait, ⟨[], 0⟩)
        else
          match s.physWrite pid x k b true with
          | (s1, .ok) => (s1.countBucket k, .none, ⟨[], 0⟩)
          | (s1, .lost) => (s1, .fail 0x20, ⟨[], 0⟩)
          | (s1, .wait) => (s1, .wait, ⟨[], 0⟩)
      | .store T off => (s.lsStore T off b, .none, ⟨[], 0⟩)
      | .host k x => ({ s with hostMem := Memory.write s.hostMem (k * 2 ^ 64 + x) b }, .none, ⟨[], 0⟩)
      | .regs _ => (s.devRequest n pid tag unit (s.regNode (pa % 2 ^ 47)) pa b c.iss, .none, ⟨[], 1⟩)
      | .none => (s, .fail 0x25, ⟨[], 0⟩)

/-- Progress of a run of units: the state, the next unit, why it stopped, the deliveries noted, the requests sent. -/
structure Moving where
  st   : State
  pos  : Nat
  stop : Stop
  dels : List (Nat × Nat × List Byte × Nat)
  sent : Nat

/-- Moves at most `count` units from a position on until one stops (R165). -/
def State.moveUnits (s : State) (n pid tag : Nat) (c : EngCmd) (port : Bool) (mine : List Nat) (from_ count : Nat) : Moving :=
  let l := layoutOf c.desc
  let third := s.thirdParty l c
  (List.range (Nat.min count (l.units - from_))).foldl (fun m k =>
    match m.stop with
    | .none =>
      let i := from_ + k
      let o := l.offsets i
      match m.st.unitRead n pid c third mine (addrAt l.src o.1) (unitBytes l.fmt) with
      | (s1, .none, b) =>
        match s1.unitWrite n pid tag c port mine (addrAt l.dst o.2) b i with
        | (s2, .none, ds) => ⟨s2, i + 1, .none, m.dels ++ ds.dels, m.sent + ds.sent⟩
        | (s2, st, _) => ⟨s2, i, st, m.dels, m.sent⟩
      | (s1, st, _) => ⟨s1, i, st, m.dels, m.sent⟩
    | _ => m) ⟨s, from_, .none, [], 0⟩

/-- Deliveries that follow one another at one receiver joined. -/
def joinDels (ds : List (Nat × Nat × List Byte × Nat)) : List (Nat × Nat × List Byte × Nat) :=
  (ds.foldl (fun acc d =>
    match acc with
    | p :: rest =>
      if p.1 = d.1 ∧ p.2.1 + p.2.2.1.length = d.2.1 then (p.1, p.2.1, p.2.2.1 ++ d.2.2.1, p.2.2.2) :: rest
      else d :: p :: rest
    | [] => [d]) []).reverse

/-- Joined deliveries cut into messages of at most 1,008 bytes (R134, R180); each names the unit, of u bytes, that its
first byte belongs to. -/
def cutDels (u : Nat) (ds : List (Nat × Nat × List Byte × Nat)) : List (Nat × Nat × List Byte × Nat) :=
  ds.flatMap fun d =>
    ((chunks 1008 (d.2.2.1.length / 1008 + 1) d.2.2.1).zipIdx).map fun x =>
      (d.1, d.2.1 + 1008 * x.2, x.1, d.2.2.2 + 1008 * x.2 / u)

/-- Of joined deliveries of u-byte units, those to send now and those kept until more follow: a last one of less than 1,008
bytes. -/
def holdTail (u : Nat) (ds : List (Nat × Nat × List Byte × Nat)) :
    List (Nat × Nat × List Byte × Nat) × List (Nat × Nat × List Byte × Nat) :=
  match ds.getLast? with
  | some d =>
    let n := d.2.2.1.length % 1008
    let k := d.2.2.1.length - n
    if n = 0 then (ds, [])
    else (ds.dropLast ++ (if k = 0 then [] else [(d.1, d.2.1, d.2.2.1.take k, d.2.2.2)]), [(d.1, d.2.1 + k, d.2.2.1.drop k, d.2.2.2 + k / u)])
  | none => ([], [])

/-! ## Bulk data at a receiver (R85, R167, R169, R170) -/

/-- A record has written the bytes `m` of word w of a tile: the word's full-empty bit sets once the record has written all
of it (R85). -/
def State.coverWord (s : State) (T : Nat) (src : Node) (iss : Issuer) (w : Nat) (m : BitVec 8) : State :=
  let same (h : Node × Issuer × Nat × BitVec 8) : Bool := h.1 == src && h.2.1 == iss && h.2.2.1 == w
  let hs := (s.tile T).halves
  let now := ((hs.find? same).map (·.2.2.2)).getD 0 ||| m
  let rest := hs.filter fun h => !same h
  if now = 255 then (s.modTile T fun t => { t with halves := rest }).feChange T (8 * w) true
  else s.modTile T fun t => { t with halves := rest ++ [(src, iss, w, now)] }

/-- The words of a write of a record with its full flag set (R85). -/
def State.fillWords (s : State) (T : Nat) (src : Node) (iss : Issuer) (off n : Nat) : State :=
  (List.range ((off + n + 7) / 8 - off / 8)).foldl (fun s k =>
    let w := off / 8 + k
    let m := (List.range 8).foldl (fun m b => if off ≤ 8 * w + b ∧ 8 * w + b < off + n then m + 2 ^ b else m) 0
    s.coverWord T src iss w (BitVec.ofNat 8 m)) s

/-- The words that a record has written in part keep their bits; it writes no more (R85). -/
def State.dropHalves (s : State) (src : Node) (iss : Issuer) : State :=
  s.tiles.foldl (fun s e =>
    if e.2.halves.isEmpty then s
    else s.modTile e.1 fun t => { t with halves := t.halves.filter fun h => !(h.1 == src && h.2.1 == iss) }) s

/-- Bytes of a record perform in a tile's local store: the write, the full bits, the barrier (R85, R180). -/
def State.deliver (s : State) (T : Nat) (src : Node) (iss : Issuer) (off : Nat) (b : List Byte) (full : Bool)
    (bar : Option Nat) : State :=
  let s1 := s.lsStore T off b
  let s2 := if full then s1.fillWords T src iss off b.length else s1
  match bar with
  | some n => s2.barArrive T n b.length
  | none => s2

/-- The reply status with which a tile refuses bulk data of a job; 0 when it takes them (R170, R196, R384). A range in
the code area has the status of a range outside the allotment. -/
def State.bulkCode (s : State) (T pid off n : Nat) (iss : Issuer) (third : Bool) : Nat :=
  match s.domOf T pid with
  | none => 0x05
  | some dn =>
    let d := s.dom T dn
    if T ≠ iss.tile ∧ !permits d (if third then [1, 3] else [1]) then 0x05
    else if !d.holds off n || d.touchesCode off n then 0x06
    else 0

/-! ## Ordered streams at their source (R145, R175) -/

/-- Sends what a stream's window admits. -/
def pumpStream (t : TxStream) : TxStream × List Msg :=
  let n := Nat.min t.queue.length (t.window - (t.next - t.acked))
  let out := (t.queue.take n).zipIdx.map fun x => { x.1 with seq := BitVec.ofNat 16 (t.next + x.2) }
  ({ t with next := t.next + n, queue := t.queue.drop n }, out)

/-- Puts a message into the stream of a source towards its destination, opening it with the window at need. -/
def queueStream (tx : List TxStream) (stream window : Nat) (m : Msg) : List TxStream :=
  if tx.any fun t => t.stream == stream && t.dst == m.dst then
    tx.map fun t => if t.stream = stream ∧ t.dst = m.dst then { t with queue := t.queue ++ [m] } else t
  else tx ++ [⟨stream, m.dst, window, 0, 0, 1, [m]⟩]

/-- Declares a stream of a source towards each receiver, with its window (R144, R175). -/
def openStreams (tx : List TxStream) (stream window : Nat) (dsts : List Node) : List TxStream :=
  dsts.foldl (fun tx d =>
    if tx.any fun t => t.stream == stream && t.dst == d then tx else tx ++ [⟨stream, d, window, 0, 0, 1, []⟩]) tx

/-- Pumps every stream of a source. -/
def pumpAll (tx : List TxStream) : List TxStream × List Msg :=
  tx.foldl (fun acc t => let r := pumpStream t; (acc.1 ++ [r.1], acc.2 ++ r.2)) ([], [])

/-! ## Sending a record's deliveries -/

/-- The bulk-data messages of deliveries, for every receiver (R166, R171). -/
def State.bulkMsgs (s : State) (src : Node) (pid tag : Nat) (c : EngCmd) (ds : List (Nat × Nat × List Byte × Nat)) :
    List (Nat × Msg) :=
  let l := layoutOf c.desc
  let third := s.thirdParty l c
  let arg (off : Nat) : Nat := l.bar * 2 ^ 28 + (if l.barEn then 2 ^ 27 else 0) + (if l.full then 2 ^ 26 else 0) + off
  (cutDels (unitBytes l.fmt) (joinDels ds)).flatMap fun d =>
    let ts := if l.mcast = 0 then [d.1] else (onesOf l.mcast 16).map fun i => d.1 + i
    ts.map fun T =>
      (T, { blockMsg src (s.nodeOf T) 0x18 pid (arg d.2.1) (.bulk d.2.2.1 d.2.2.2 c.iss third) with
              ordered := l.ordered, stream := BitVec.ofNat 8 l.stream, seq := BitVec.ofNat 16 tag })

/-! ## Parked streams (R381, R382) -/

/-- Parks a faulting stream: a fault record, the report to the issuing domain and the notice. With 16 records in use the
stream is held at its unit until one frees. -/
def State.parkStream (s : State) (n : Nat) (f : EngFault) : State :=
  let fs := (s.station n).faults
  match (List.range 16).find? fun i => (Table.get none fs i).isNone with
  | none => match f.resume with | some e => s.holdAt n e | none => s
  | some i =>
    let s1 := s.modStation n fun t => { t with faults := Table.set none fs i (some f) }
    let cause := 0x0A + f.cause
    let s2 := s1.send (completion (.station n) (s.nodeOf f.tile) f.pid 0x05 cause (0xFF00 + cause) f.va (BitVec.ofNat 64 i))
    let s3 := s2.notice (.station n) f.pid cause f.va
    if f.hold then
      (s.routers.filter fun e => bit (Table.get 0 e.2.red f.group) 63 && e.1 < 2112).foldl (fun s e =>
        s.post (.redHoldHold (e.1 % 66) (e.1 / 66) f.group f.rseq)) s3
    else s3

/-! ## Engines -/

def State.engine (s : State) (n e : Nat) : Option EngRun := Table.get none (s.station n).engines e
def State.setEngine (s : State) (n e : Nat) (r : Option EngRun) : State :=
  s.modStation n fun t => { t with engines := Table.set none t.engines e r }

/-- Lines released by an engine (R104); held accesses are tried again. -/
def State.releaseLines (s : State) (ls : List Nat) : State :=
  match ls with
  | [] => s
  | _ :: _ => ({ s with owned := ls.foldl (fun o l => Table.del o l) s.owned } : State).wake

/-- An engine takes exclusive ownership of lines, with their buckets; a directory recall holds the accesses of threads
(R104). -/
def State.ownLines (s : State) (ls : List (Nat × Nat)) : State :=
  { s with owned := ls.foldl (fun o l => Table.set 0 o l.1 (l.2 + 1)) s.owned }

/-- The destination lines of a record, with their buckets, by translation at the station (R104, R167). -/
def State.destLines (s : State) (n pid : Nat) (c : EngCmd) : List (Nat × Nat) :=
  let l := layoutOf c.desc
  match windowOf l.dst with
  | .global =>
    ((List.range l.units).flatMap fun i =>
      let va := fld (addrAt l.dst (l.offsets i).2) 0 55
      (linePieces va (unitBytes l.fmt)).filterMap fun p =>
        match (s.engPlace n pid p.1 (c.iss.priv == 0) true).2 with
        | .ok (pa, x) =>
          if moduleOf pa ≠ s.module.toNat then none
          else (match placeOf pa with | .dram a => some (a / 128, s.bucketOf pid (bit x.leaf 9) a) | _ => none)
        | .error _ => none).eraseDups
  | _ => []

/-- An engine that may start a record of the job: no record of the same job runs on it (R162, R436). -/
def State.freeEngine (s : State) (n pid : Nat) : Option Nat :=
  let es := (s.station n).engines
  match (List.range 4).find? fun e => !(es.any fun x => x.1 % 4 == e && match x.2 with | some r => r.pid == pid | none => false) with
  | some e => (List.range 256).findSome? fun k => if (Table.get none es (e + 4 * k)).isNone then some (e + 4 * k) else none
  | none => none

/-- A finished record whose deliveries and requests have all been answered completes (R168). -/
def State.checkEngine (s : State) (n e : Nat) : State :=
  match s.engine n e with
  | some r =>
    let l := layoutOf r.cmd.desc
    if (r.pos = l.units ∨ r.fail.isSome) ∧ r.sent ≤ r.acked then s.post (.transferComplete n e) else s
  | none => s

/-- A failure of a run: the lowest unit position stays (R383). -/
def noteFail (old : Option (Nat × Nat)) (status unit : Nat) : Option (Nat × Nat) :=
  match old with
  | some (st, u) => if unit < u then some (status, unit) else some (st, u)
  | none => some (status, unit)

/-- Sends deliveries of an engine's record, through its ordered stream when it declares one; gives the number of messages
(R166, R175). -/
def State.sendDels (s : State) (n : Nat) (r : EngRun) (ds : List (Nat × Nat × List Byte × Nat)) : State × Nat :=
  let l := layoutOf r.cmd.desc
  let ms := s.bulkMsgs (.station n) r.pid r.tag r.cmd ds
  if l.ordered then
    let tx := ms.foldl (fun tx x => queueStream tx l.stream l.win x.2) (s.station n).txStreams
    let p := pumpAll tx
    (p.2.foldl State.send (s.modStation n fun t => { t with txStreams := p.1 }), ms.length)
  else (ms.foldl (fun s x => s.send x.2) s, ms.length)

/-- An engine moves up to 64 bytes of its record, or one unit, and goes on a mesh cycle later (R162, R165, R381). Lines that
could not be translated at acceptance become its own once their fault has been resolved (R104, R382). -/
def State.runEngine (s : State) (n e : Nat) : State :=
  match s.engine n e with
  | none => s
  | some r0 =>
    let c := r0.cmd
    let l := layoutOf c.desc
    let more := if r0.park.isSome then (s.destLines n r0.pid c).filter fun x => !s.isOwned x.1 else []
    let r : EngRun := { r0 with lines := r0.lines ++ more.map (·.1) }
    let m := (s.ownLines more).moveUnits n r.pid r.tag c false r.lines r.pos (Nat.max 1 (64 / unitBytes l.fmt))
    let ds := joinDels (r.dels ++ m.dels)
    let x := if m.stop = .none ∧ m.pos < l.units then holdTail (unitBytes l.fmt) ds else (ds, [])
    let y := m.st.sendDels n r x.1
    let r1 : EngRun := { r with pos := m.pos, dels := x.2, sent := r.sent + m.sent + y.2, park := none }
    let s1 := y.1
    match m.stop with
    | .none =>
      let s2 := s1.setEngine n e (some r1)
      if m.pos < l.units then s2.after 1 (.blockTransferStart n e) else s2.checkEngine n e
    | .fail st => (s1.setEngine n e (some { r1 with fail := noteFail r1.fail st m.pos })).checkEngine n e
    | .wait => (s1.setEngine n e (some r1)).holdAt n (.blockTransferStart n e)
    | .fault cause va wr =>
      (s1.setEngine n e (some { r1 with park := some 0 })).parkStream n
        { va := BitVec.ofNat 64 va, engine := 0, unit := e % 4, write := wr, cause := cause - 0x0A, pid := r.pid, group := 0,
          hold := false, rseq := 0, id := l.tag, tile := c.iss.tile, dom := c.iss.dom,
          resume := some (.blockTransferStart n e) }

/-- An engine takes an accepted record. -/
def State.takeRecord (s : State) (n e : Nat) (q : EngCmd × Nat × List Nat) : State :=
  let tag := (s.station n).tag
  let s1 := s.modStation n fun t => { t with queue := t.queue.erase q, tag := (t.tag + 1) % 65535 }
  s1.setEngine n e (some { cmd := q.1, pid := q.2.1, lines := q.2.2, pos := 0, dels := [], sent := 0, acked := 0, tag := tag,
                           fail := none, park := none })

/-- `blockTransferStart`: the engine takes the oldest accepted record that may start on it, or goes on with its own
(R162). -/
def execBlockTransferStart (n e : Nat) (s : State) : Host.Outcome State Fault Refusal :=
  .next (match s.engine n e with
    | some r => if r.pos < (layoutOf r.cmd.desc).units ∧ r.fail.isNone then s.runEngine n e else s
    | none =>
      match (s.station n).queue.find? fun q => s.freeEngine n q.2.1 == some e with
      | none => s
      | some q => ((s.takeRecord n e q).runEngine n e).wake)

/-- Starts what records may start at a station, each on an engine of its own, in acceptance order (R162, R436). -/
def State.kickQueue (s : State) (n : Nat) : List (EngCmd × Nat × List Nat) → State
  | [] => s
  | q :: rest =>
    match s.freeEngine n q.2.1 with
    | some e => ((s.takeRecord n e q).post (.blockTransferStart n e)).kickQueue n rest
    | none => s.kickQueue n rest

def State.kickEngines (s : State) (n : Nat) : State := s.kickQueue n (s.station n).queue

/-- A stream with nothing queued and nothing unacknowledged (R175). -/
def TxStream.spent (t : TxStream) (stream : Nat) : Bool := t.stream == stream && t.queue.isEmpty && t.next == t.acked

/-- The receivers forget streams of a source: the next message that names one carries SEQ 0 (R144). -/
def State.forgetRx (s : State) (src : Node) (tx : List TxStream) : State :=
  tx.foldl (fun s t =>
    match t.dst with
    | .router x y =>
      match s.logical x y with
      | some T => s.modTile T fun tl =>
          { tl with rxStreams := tl.rxStreams.filter fun r => !(r.src == src && r.stream == t.stream) }
      | none => s
    | _ => s) s

/-- The receivers forget a source's stream where it is released. -/
def State.closeRx (s : State) (src : Node) (tx : List TxStream) (stream : Nat) : State :=
  s.forgetRx src (tx.filter fun t => t.spent stream)

/-- A running record names an ordered stream. -/
def namesStream (c : EngCmd) (stream : Nat) : Bool := (layoutOf c.desc).ordered && (layoutOf c.desc).stream == stream

/-- Streams of a station that no record names any more, because its records have been discarded, are forgotten on both sides
(R363, R400). -/
def State.pruneTx (s : State) (n : Nat) : State :=
  let st := s.station n
  let used (x : TxStream) : Bool := (st.queue.any fun q => namesStream q.1 x.stream) ||
    st.engines.any fun e => match e.2 with | some r => namesStream r.cmd x.stream | none => false
  (s.modStation n fun t => { t with txStreams := t.txStreams.filter used }).forgetRx (.station n)
    (st.txStreams.filter fun x => !used x)

/-- A station's stream with no record in progress and every message acknowledged is released (R175). -/
def State.releaseTx (s : State) (n stream : Nat) : State :=
  let st := s.station n
  if (st.engines.any fun e => match e.2 with | some r => namesStream r.cmd stream | none => false) ||
      st.queue.any fun q => namesStream q.1 stream then s
  else (s.closeRx (.station n) st.txStreams stream).modStation n fun t =>
    { t with txStreams := t.txStreams.filter fun x => !x.spent stream }

/-- The same for a stream of a tile's ports. -/
def State.releasePortTx (s : State) (T stream : Nat) : State :=
  let tl := s.tile T
  if tl.ports.any fun e => match e.2.cur with | some x => namesStream x.cmd stream | none => false then s
  else (s.closeRx (s.nodeOf T) tl.txStreams stream).modTile T fun t =>
    { t with txStreams := t.txStreams.filter fun x => !x.spent stream }

/-- `transferComplete` (R104, R168, R383). -/
def execTransferComplete (n e : Nat) (s : State) : Host.Outcome State Fault Refusal :=
  .next (match s.engine n e with
    | none => s
    | some r =>
      let l := layoutOf r.cmd.desc
      if (r.pos ≠ l.units ∧ r.fail.isNone) ∨ r.acked < r.sent then s
      else
        let s0 := (s.setEngine n e none).dropHalves (.station n) r.cmd.iss
        let s1 := if l.ordered then s0.releaseTx n l.stream else s0
        let s2 := s1.releaseLines r.lines
        let s3 :=
          if l.mboxEn || r.fail.isSome then
            let d0 := match r.fail with | some (_, u) => u | none => l.units * unitBytes l.fmt
            let st := match r.fail with | some (x, _) => x | none => 0
            s2.send (completion (.station n) (s2.nodeOf r.cmd.iss.tile) r.pid 0x02 st l.tag (BitVec.ofNat 64 d0) r.cmd.aux)
          else s2
        s3.kickEngines n)

/-- The thread's command has been accepted: it counts no longer among its accesses (R246, R256). -/
def State.settle (s : State) (iss : Issuer) : State :=
  s.modThread iss.tile iss.hw fun t =>
    let o := t.outst.filter fun x => x.seq != iss.seq
    { t with outst := o, hold := t.hold && !o.isEmpty }

/-- Queue entries of one job at a station (R436). -/
def State.queueShare (s : State) : Nat :=
  let jobs := (s.launches.flatMap fun e => match e.2 with
    | some l => if l.live then l.rcbs.filter fun r => rcbKind r.2 == 1 && fld r.2 360 8 != 0 else []
    | none => []).length
  64 / Nat.max 1 jobs

/-- `engineCommand`: the record is checked and enters the queue, or is rejected with its completion message; at a full
queue it waits (R162, R383). -/
def execEngineCommand (m : Msg) (s : State) : Host.Outcome State Fault Refusal :=
  .next (match m.dst, m.pay with
    | .station n, .eng c =>
      let pid := m.pid.toNat
      let q := (s.station n).queue
      if 64 ≤ q.length ∨ s.queueShare ≤ (q.filter fun x => x.2.1 == pid).length then s.holdAt n (.engineCommand m)
      else
        let code := s.recordCode c false (s.station n).txStreams
        let ls := if code = 0 then s.destLines n pid c else []
        let l := layoutOf c.desc
        if ls.any fun x => s.isOwned x.1 || s.bucketShut x.2 then s.holdAt n (.engineCommand m)
        else
          let s1 := s.settle c.iss
          if code ≠ 0 then
            s1.send (completion (.station n) (s1.nodeOf c.iss.tile) pid 0x02 code l.tag 0 c.aux)
          else
            let dsts := if l.ordered ∧ (windowOf l.dst = .loc ∨ windowOf l.dst = .shr) then (s1.receivers l c).map s1.nodeOf else []
            ((ls.foldl (fun s x => s.recallL1 x.1 none) (s1.ownLines ls)).modStation n fun t =>
              { t with queue := t.queue ++ [(c, pid, ls.map (·.1))]
                       txStreams := openStreams t.txStreams l.stream l.win dsts }).kickEngines n
    | _, _ => s)

/-- An acknowledgement of bulk data reaches the engine that runs the record with this tag (R169, R402, R384). -/
def ackStatus (st : Nat) : Option Nat :=
  match st with
  | 0 => none | 0x04 | 0x05 => some 0x21 | 0x06 => some 0x25 | _ => some 0x24

/-- The record that answers to `mine` gets an answer, which counts when it is not a stream's (R145, R169). -/
def State.engineAnswer (s : State) (n : Nat) (mine : EngRun → Bool) (count : Bool) (status : Option Nat) (unit : Nat) : State :=
  match (s.station n).engines.find? fun x => match x.2 with | some r => mine r | none => false with
  | some (e, some r) =>
    let f := match status with | some x => noteFail r.fail x unit | none => r.fail
    (s.setEngine n e (some { r with acked := if count then r.acked + 1 else r.acked, fail := f })).checkEngine n e
  | _ => s

/-- The answer to a bulk-data message: by the record's tag, or, for a message of an ordered stream, by its issuer (R169,
R439; log 138). -/
def State.engineAck (s : State) (n tag status unit : Nat) (iss : Issuer) (ordered : Bool) : State :=
  s.engineAnswer n (fun r => if ordered then r.cmd.iss == iss else r.tag == tag) (!ordered) (ackStatus status) unit

/-- The answer to a unit written through the device window (R168, R384). -/
def State.engineReply (s : State) (n tag : Nat) (r : Reply) : State :=
  s.engineAnswer n (fun x => x.tag == tag) true
    (if r.cause = 0x13 then some 0x20 else if r.cause ≠ 0 then some 0x21 else ackStatus r.status) r.iss.seq

/-! ## Stream ports (R172 to R174) -/

/-- A failure that ends a pattern at once; a unit dropped at a boundary guard does not (R383, R439). -/
def endsPattern (f : Option (Nat × Nat)) : Bool := match f with | some (st, _) => st != 0x26 | none => false

/-- A pattern whose units have moved, or that a failure has ended, and whose messages are acknowledged completes (R174). -/
def State.checkPort (s : State) (T p : Nat) : State :=
  match (s.port T p).cur with
  | some x =>
    if ((layoutOf x.cmd.desc).units ≤ x.pos ∨ endsPattern x.fail) ∧ x.sent ≤ x.acked then s.post (.patternComplete T p) else s
  | none => s

/-- The messages of an ordered pattern can be injected now: each stream's window admits its own (R145, R173). -/
def windowsAdmit (tx : List TxStream) (stream window : Nat) (away : List (Nat × Msg)) : Bool :=
  away.all fun y =>
    let n := (away.filter fun z => z.2.dst == y.2.dst).length
    match tx.find? fun t => t.stream == stream && t.dst == y.2.dst with
    | some t => t.queue.isEmpty && n + (t.next - t.acked) ≤ t.window
    | none => n ≤ window

/-- At most `k` units of a port's pattern, read, with the bulk-data messages that they make. -/
def State.portUnits (s : State) (T : Nat) (x : Pattern) (k : Nat) : Moving × List (Nat × Msg) :=
  let pid := (s.dom T x.cmd.iss.dom).pid
  let m := s.moveUnits (T / 64) pid x.tag x.cmd true [] x.pos k
  (m, m.st.bulkMsgs (m.st.nodeOf T) pid x.tag x.cmd m.dels)

/-- What a port moves next: the units of 64 bytes, or one, or none while the windows of an ordered pattern admit no more, so
that a unit counts as moved only when its messages are injected (R172, R173). -/
def State.portNext (s : State) (T : Nat) (x : Pattern) : Option (Moving × List (Nat × Msg)) :=
  let l := layoutOf x.cmd.desc
  let fits (v : Moving × List (Nat × Msg)) : Bool :=
    !l.ordered || windowsAdmit (s.tile T).txStreams l.stream l.win (v.2.filter fun y => y.1 != T)
  let v := s.portUnits T x (64 / unitBytes l.fmt)
  if fits v then some v
  else
    let v := s.portUnits T x 1
    if fits v then some v else none

/-- A port moves 64 bytes of its pattern in a tile cycle; bytes for its own tile are written directly (R172). -/
def State.runPort (s : State) (T p : Nat) : State :=
  match (s.port T p).cur with
  | none => s
  | some x => match s.portNext T x with
  | none => s.afterTile 1 (.streamPatternStart T p)
  | some (m, ms) =>
    let c := x.cmd
    let l := layoutOf c.desc
    let pid := (s.dom T c.iss.dom).pid
    let mine := ms.filter fun y => y.1 == T
    let away := ms.filter fun y => y.1 != T
    let w := mine.foldl (fun (acc : State × Option (Nat × Nat)) y =>
      match y.2.pay with
      | .bulk b unit iss third =>
        let code := acc.1.bulkCode T pid (fld y.2.arg 0 24) b.length iss third
        match ackStatus code with
        | some st => (acc.1, noteFail acc.2 st unit)
        | none =>
          (acc.1.deliver T (acc.1.nodeOf T) iss (fld y.2.arg 0 24) b l.full (if l.barEn then some l.bar else none), acc.2)
      | _ => acc) (m.st, x.fail)
    let s1 :=
      if l.ordered then
        let tx := away.foldl (fun tx y => queueStream tx l.stream l.win y.2) (w.1.tile T).txStreams
        let q := pumpAll tx
        q.2.foldl State.send (w.1.modTile T fun t => { t with txStreams := q.1 })
      else away.foldl (fun s y => s.send y.2) w.1
    let f : Option (Nat × Nat) := match m.stop with | .fail st => noteFail w.2 st m.pos | _ => w.2
    let x1 := { x with pos := m.pos, sent := x.sent + away.length, fail := f }
    let s2 := s1.setPort T p { s1.port T p with cur := some x1 }
    if decide (m.pos < l.units) && !endsPattern f then s2.afterTile 1 (.streamPatternStart T p) else s2.checkPort T p

/-- `streamPatternStart`: the port's next pattern starts, or the one under way goes on (R172, R173, R383). -/
def execStreamPatternStart (T p : Nat) (s : State) : Host.Outcome State Fault Refusal :=
  .next (
    let q := s.port T p
    match q.cur, q.queue with
    | some x, _ =>
      if x.pos < (layoutOf x.cmd.desc).units ∧ !endsPattern x.fail ∧ !(s.timers.any fun t => t.2 == .streamPatternStart T p) then
        s.runPort T p
      else s
    | none, x :: rest =>
      let s : State := { s with timers := s.timers.filter fun t => t.2 != .streamPatternStart T p }
      let l := layoutOf x.cmd.desc
      let code := s.recordCode x.cmd true (s.tile T).txStreams
      let tg := (s.tile T).tag
      let dsts := if code = 0 ∧ l.ordered then ((s.receivers l x.cmd).filter fun R => R != T).map s.nodeOf else []
      let s0 := s.modTile T fun t =>
        { t with tag := (t.tag + 1) % 65535, txStreams := openStreams t.txStreams l.stream l.win dsts }
      let n := l.units
      let x1 : Pattern := { x with tag := tg, pos := Nat.min (Table.get 0 q.resume x.cmd.iss.dom) n, fail := if code = 0 then none else some (code, 0) }
      let s1 := s0.setPort T p { q with cur := some x1, queue := rest, resume := Table.erase (fun k _ => k == x.cmd.iss.dom) q.resume }
      if code = 0 then s1.runPort T p else s1.checkPort T p
    | none, [] => s)

/-- `patternComplete`: the completion message goes to the domain that bound the pattern, and the port takes its next
one (R172, R174). -/
def execPatternComplete (T p : Nat) (s : State) : Host.Outcome State Fault Refusal :=
  .next (
    let q := s.port T p
    match q.cur with
    | none => s
    | some x =>
      let l := layoutOf x.cmd.desc
      if (x.pos < l.units ∧ !endsPattern x.fail) ∨ x.acked < x.sent then s
      else
        let s1 := (s.setPort T p { q with cur := none }).dropHalves (s.nodeOf T) x.cmd.iss
        let s2 := if l.ordered then s1.releasePortTx T l.stream else s1
        let s3 :=
          if l.mboxEn || x.fail.isSome then
            let d0 := match x.fail with | some (_, u) => u | none => l.units * unitBytes l.fmt
            let st := match x.fail with | some (a, _) => a | none => 0
            let m := completion (s2.nodeOf T) (s2.nodeOf T) (s2.dom T x.cmd.iss.dom).pid 0x02 st l.tag (BitVec.ofNat 64 d0)
              x.cmd.aux
            s2.send { m with sdom := BitVec.ofNat 2 x.cmd.iss.dom }
          else s2
        if q.queue.isEmpty then s3 else s3.post (.streamPatternStart T p))

/-- The status with which a refused unit ends a port's pattern (R439, R384). -/
def portStatus (st : Nat) : Option Nat := if st = 0x04 then some 0x26 else ackStatus st

/-- The answer to a bulk-data message of a port: by the record's tag, or, for a message of an ordered stream, by its issuer
(R169, R439; log 138). -/
def State.portAck (s : State) (T tag status unit : Nat) (iss : Issuer) (ordered : Bool) : State :=
  match (s.tile T).ports.find? fun y => match y.2.cur with
      | some x => if ordered then x.cmd.iss == iss else x.tag == tag | none => false with
  | some (p, q) =>
    match q.cur with
    | some x =>
      let f := match portStatus status with | some st => noteFail x.fail st unit | none => x.fail
      (s.setPort T p { q with cur := some { x with acked := if ordered then x.acked else x.acked + 1, fail := f } }).checkPort T p
    | none => s
  | none => s

/-! ## Bulk data and its acknowledgements -/

/-- An acknowledgement of bulk data: the record tag in ARG[15:0], the status in ARG[31:24] (R169). -/
def bulkAck (m : Msg) (status unit : Nat) (iss : Issuer) : Msg :=
  { m with typ := 0x09, src := m.dst, dst := m.src, ordered := false, stream := 0, seq := 0, sdom := 0
           arg := BitVec.ofNat 32 (status * 2 ^ 24 + m.seq.toNat)
           pay := .back unit iss (if m.ordered then some m.stream.toNat else none) }

/-- The event of a bulk-data message takes effect: the barrier counts its bytes (R145, R180). -/
def State.bulkEvent (s : State) (T : Nat) (m : Msg) (n : Nat) : State :=
  if bit m.arg 27 then s.barArrive T (fld m.arg 28 4) n else s

/-- The receiver of a stream message: releases what has come in order, and acknowledges (R145). -/
def State.releaseStream (s : State) (T : Nat) (r : RxStream) : Nat → State × RxStream
  | 0 => (s, r)
  | fuel + 1 =>
    match r.held.find? fun m => m.seq.toNat == r.next % 65536 with
    | none => (s, r)
    | some m =>
      (s.bulkEvent T m (match m.pay with | .bulk b _ _ _ => b.length | _ => 0)).releaseStream T
        { r with held := r.held.erase m, next := r.next + 1, unacked := r.unacked + 1 } fuel

/-- A stream message arrives whole and written; `rel` says that its event takes effect. -/
def State.rxStream (s : State) (T : Nat) (m : Msg) : State :=
  let rs := (s.tile T).rxStreams
  let r := (rs.find? fun r => r.src == m.src && r.stream == m.stream.toNat).getD ⟨m.src, m.stream.toNat, 0, [], 0⟩
  let x := s.releaseStream T { r with held := r.held ++ [m] } 33
  let ack := x.2.unacked ≥ 8 || (x.2.held.isEmpty && x.2.unacked > 0)
  let r2 := if ack then { x.2 with unacked := 0 } else x.2
  let s1 := x.1.modTile T fun t =>
    { t with rxStreams := (t.rxStreams.filter fun q => !(q.src == m.src && q.stream == m.stream.toNat)) ++ [r2] }
  if ack then
    s1.send { m with typ := 0x0B, src := m.dst, dst := m.src, ordered := false, seq := 0, sdom := 0, pay := .none
                     arg := BitVec.ofNat 32 ((x.2.next + 65535) % 65536 * 65536 + m.stream.toNat) }
  else s1

/-- `bulkData`: the payload is written on arrival, full-empty bits and barrier follow, and the sender is acknowledged; a
feedback edge counts into its own barrier and is not acknowledged (R44, R169, R170). -/
def execBulkData (m : Msg) (s : State) : Host.Outcome State Fault Refusal :=
  .next (match m.dst, m.pay with
    | .router x y, .bulk b unit iss third =>
      match s.logical x y with
      | none => s.send (bulkAck m 0x02 unit iss)
      | some T =>
        let off := fld m.arg 0 24
        let pid := m.pid.toNat
        if !m.ordered && m.seq == 0xFFFF#16 then
          match s.domOf T pid with
          | none => s
          | some d =>
            let s1 := (s.lsStore T off b).modDom T d fun v =>
              { v with due := Table.set 0 v.due unit (Table.get 0 v.due unit + b.length) }
            s1.post (.tileReady T d)
        else
          let code := s.bulkCode T pid off b.length iss third
          if code ≠ 0 then
            let s1 := s.send (bulkAck m code unit iss)
            if m.ordered then s1.rxStream T { m with arg := m.arg &&& 0xF7FFFFFF#32 } else s1
          else
            let s1 := s.deliver T m.src iss off b (bit m.arg 26) none
            if m.ordered then s1.rxStream T m
            else (s1.bulkEvent T m b.length).send (bulkAck m 0 unit iss)
    | _, _ => s)

/-- The distance of two sequence numbers (R145). -/
def seqDist (a b : Nat) : Nat := (a + 65536 - b % 65536) % 65536

/-- An acknowledgement reaches a source's streams: what the window now admits goes out (R145). -/
def ackStreams (tx : List TxStream) (stream : Nat) (dst : Node) (last : Nat) : List TxStream :=
  tx.map fun t =>
    if t.stream = stream ∧ t.dst = dst then
      let n := seqDist (last + 1) t.acked
      if n ≤ t.next - t.acked then { t with acked := t.acked + n } else t
    else t

/-- Everything that a source has sent on a stream has been acknowledged. -/
def drained (tx : List TxStream) (stream : Nat) : Bool :=
  tx.all fun t => t.stream != stream || (t.queue.isEmpty && t.next == t.acked)

/-- The messages of a source's stream up to SEQ `last` towards a receiver are answered for: what the window now admits goes
out; once everything is, the records that name the stream have been acknowledged, and a stream without one is released
(R145, R175). -/
def State.streamAck (s : State) (src dst : Node) (stream last : Nat) : State :=
  match src with
  | .station n =>
    let p := pumpAll (ackStreams (s.station n).txStreams stream dst last)
    let s1 := p.2.foldl State.send (s.modStation n fun t => { t with txStreams := p.1 })
    if drained p.1 stream then
      ((s1.station n).engines.foldl (fun s e => match e.2 with
        | some r =>
          if namesStream r.cmd stream then (s.setEngine n e.1 (some { r with acked := r.sent })).checkEngine n e.1 else s
        | none => s) s1).releaseTx n stream
    else s1
  | .router x y =>
    match s.logical x y with
    | none => s
    | some T =>
      let p := pumpAll (ackStreams (s.tile T).txStreams stream dst last)
      let s1 := p.2.foldl State.send (s.modTile T fun t => { t with txStreams := p.1 })
      if drained p.1 stream then
        ((s1.tile T).ports.foldl (fun s e => match e.2.cur with
          | some r =>
            if namesStream r.cmd stream then (s.setPort T e.1 { e.2 with cur := some { r with acked := r.sent } }).checkPort T e.1
            else s
          | none => s) s1).releasePortTx T stream
      else s1
  | _ => s

/-- `orderedStreamAck` (R145, R169). -/
def execOrderedStreamAck (m : Msg) (s : State) : Host.Outcome State Fault Refusal :=
  .next (s.streamAck m.dst m.src (fld m.arg 0 8) (fld m.arg 16 16))

/-- The answer to a bulk-data message that was written or refused. A message of an ordered stream that was refused on its
way has reached no receiver that acknowledges it: the answer stands for that too (R169, R439; log 138). -/
def State.bulkAnswer (s : State) (m : Msg) (unit : Nat) (iss : Issuer) (stream : Option Nat) : State :=
  let tag := fld m.arg 0 16
  let st := fld m.arg 24 8
  let s1 := match m.dst with
    | .station n => s.engineAck n tag st unit iss stream.isSome
    | .router x y => match s.logical x y with | some T => s.portAck T tag st unit iss stream.isSome | none => s
    | _ => s
  match stream with
  | some k => if 2 ≤ st ∧ st ≤ 4 then s1.streamAck m.dst m.src k tag else s1
  | none => s1

/-- An engine completion, stream-port completion, reduction delivery or collective message enters the mailbox of its
job's partition; at a full partition the sender tries again 64 mesh cycles later (R168, R176). -/
def execEngineCompletion (m : Msg) (s : State) : Host.Outcome State Fault Refusal :=
  .next (match m.dst, m.pay with
    | .router x y, .done mkind status d0 d1 =>
      match s.logical x y with
      | none => s
      | some T =>
        match s.domOf T m.pid.toNat with
        | none => s
        | some d =>
          let e := mboxEntry mkind status (fld m.arg 0 16) (nodeKind m.src) (nodeX m.src) (nodeY m.src)
            m.sdom.toNat s.time d0 d1
          match s.enterMbox T d e with
          | some s1 => s1
          | none => s.after 64 (.engineCompletion m)
    | _, _ => s)

end Sys2Proof.Machine
end

