-- ==== Sys2Proof/Machine/Collective.lean ====
section
/-! DEFINITION. In-router reduction (R130, R131, R146 to R149, R381, R382, R406 to R408) and the collective engines (R181
to R186, R418 to R420, R447). -/

namespace Sys2Proof.Machine

open Bits

/-! ## Reduction tables and trees (R146 to R149) -/

/-- Fields of a reduction-table entry (R146). -/
def redValid (e : BitVec 64) : Bool := bit e 63
def redChild (e : BitVec 64) (p : Nat) : Bool := bit e (62 - p)
def redParent (e : BitVec 64) : Nat := fld e 55 3
def redOpOf (e : BitVec 64) : Nat := fld e 51 4
def redCtxs (e : BitVec 64) : Nat := fld e 41 2 + 1
def redTag (e : BitVec 64) : Nat := fld e 33 8
def redCommit (e : BitVec 64) : Bool := bit e 32
def redDest (e : BitVec 64) : Nat := fld e 0 24

/-- The order in which a node folds its ports: 0 local, 1 W, 2 N, 3 E, 4 S at a router (R147); the row or attachment
port first at a station or port station (R148). -/
def foldOrder : Node → List Nat
  | .router _ _ => [0, 1, 2, 3, 4]
  | .station n => if n < 32 then [3, 2, 4, 1, 0] else [1, 2, 4, 3, 0]
  | .port p => if p < 24 then [4, 3, 1, 2, 0] else [2, 1, 3, 4, 0]
  | .service _ => []

/-- The neighbour of a node through a port: a router or the station or port station beyond the grid's edge. -/
def neighbour : Node → Nat → Option Node
  | .router x y, 1 => some (if x = 0 then .station y else .router (x - 1) y)
  | .router x y, 3 => some (if x = 65 then .station (32 + y) else .router (x + 1) y)
  | .router x y, 2 =>
    if y = 0 then ((List.range 24).find? fun p => portCol p == x).map Node.port else some (.router x (y - 1))
  | .router x y, 4 =>
    if y = 31 then ((List.range 24).find? fun p => portCol (p + 24) == x).map fun p => .port (p + 24)
    else some (.router x (y + 1))
  | .station n, 2 => if n % 32 = 0 then none else some (.station (n - 1))
  | .station n, 4 => if n % 32 = 31 then none else some (.station (n + 1))
  | .station n, 3 => if n < 32 then some (.router 0 n) else none
  | .station n, 1 => if n < 32 then none else some (.router 65 (n - 32))
  | .port p, 4 => if p < 24 then some (.router (portCol p) 0) else none
  | .port p, 2 => if p < 24 then none else some (.router (portCol p) 31)
  | _, _ => none

/-- The port by which a message that left through `p` arrives. -/
def opposite (p : Nat) : Nat := if p = 1 then 3 else if p = 3 then 1 else if p = 2 then 4 else if p = 4 then 2 else 0

/-- A node of a tree by its logical number: a tile, 3000 + a station, 4000 + a port station. -/
def State.logicalNode (s : State) (k : Nat) : Node :=
  if k < 2048 then s.nodeOf k else if k < 4000 then .station (k - 3000) else .port (k - 4000)
def State.logicalKey (s : State) : Node → Option Nat
  | .router x y => s.logical x y
  | .station n => some (3000 + n)
  | .port p => some (4000 + p)
  | .service _ => none

/-- The port by which the route from a node to its parent leaves (R149). -/
def portOut : Node → Node → Nat
  | .router x y, .router x' y' => if x < x' then 3 else if x' < x then 1 else if y < y' then 4 else 2
  | .router _ _, .station k => if k < 32 then 1 else 3
  | .router _ _, .port p => if p < 24 then 2 else 4
  | .station a, .station b => if a < b then 4 else 2
  | .port a, .port b => if a < b then 3 else 1
  | _, _ => 0

/-- The port by which the route from a node enters its parent (R149, R406). -/
def State.portIn (s : State) : Node → Node → Nat
  | .router x y, .router x' y' => s.arrivalPort x' y' 100 x y
  | .router _ _, .station k =>
    let r := s.liveRow (if k < 32 then 0 else 65) (k % 32)
    if r = k % 32 then (if k < 32 then 3 else 1) else if r < k % 32 then 2 else 4
  | .router _ _, .port p => if p < 24 then 4 else 2
  | .station a, .station b => if a < b then 2 else 4
  | .port a, .port b => if a < b then 1 else 3
  | _, _ => 0

/-- The parent of a node in a group's tree, and the port by which its result arrives there. -/
def State.parentOf (s : State) (n : Node) (group : Nat) : Option (Node × Nat) :=
  (Table.get none (s.router (nodeKey n)).up group).map fun k => (s.logicalNode k, s.portIn n (s.logicalNode k))

/-- The node of a router's key. -/
def nodeOfKey (k : Nat) : Node :=
  if k < 3000 then .router (k % 66) (k / 66) else if k < 4000 then .station (k - 3000) else .port (k - 4000)

/-- The port of a port station that its optical link is (R148). -/
def opticalPort : Node → Option Nat
  | .port p => some (if p < 24 then 2 else 4)
  | _ => none

/-- Contributions expected on a port: the tile's own, that of an optical link, or one for each child whose route enters
there (R146, R148, R406). -/
def State.expected (s : State) (n : Node) (group : Nat) (e : BitVec 64) (p : Nat) : Nat :=
  if p = 0 ∨ opticalPort n = some p then (if redChild e p then 1 else 0)
  else
    (s.routers.filter fun r =>
      match Table.get none r.2.up group with
      | some k => s.logicalKey n == some k && s.portIn (nodeOfKey r.1) n == p
      | none => false).length

/-- The sequence has been aborted lately, or abandoned (R382, R407). -/
def State.isRedAborted (s : State) (n : Node) (group rseq : Nat) : Bool :=
  (s.router (nodeKey n)).aborted.any fun a => a.1 == group && a.2.1 == rseq && (a.2.2 == 0 || s.mcycle < a.2.2)

def State.nodeFenced (s : State) : Node → Bool
  | .router x y => s.isFenced x y
  | _ => false

/-! ## Graph slots and instances (R181 to R186, R418) -/

/-- The graph slots of a collective engine (R181). -/
def graphsOf (s : State) (n : Node) : Tbl Graph :=
  match n with
  | .station k => (s.station k).graphs
  | .port p => (s.portSt p).graphs
  | _ => []

def State.graph (s : State) (n : Node) (slot : Nat) : Graph := Table.get Graph.reset (graphsOf s n) slot
def State.setGraph (s : State) (n : Node) (slot : Nat) (g : Graph) : State :=
  match n with
  | .station k => s.modStation k fun t => { t with graphs := Table.set Graph.reset t.graphs slot g }
  | .port p => s.modPortSt p fun t => { t with graphs := Table.set Graph.reset t.graphs slot g }
  | _ => s

def launchInst (r : BitVec 512) : Nat := fld r 112 16
def launchSlot (r : BitVec 512) : Nat := fld r 108 4
/-- Base i of a launch record (R185). -/
def launchBase (r : BitVec 512) (i : Nat) : Nat := fld r (256 + 64 * i) 64

/-- A stopped collective instance: no operation of it runs further, and the domain that launched it is told (R418). -/
def State.stopInstance (s : State) (n : Node) (slot cause : Nat) : State :=
  let g := s.graph n slot
  match g.launch with
  | some r =>
    if g.stopped || g.done.length == g.ops.length then s
    else
      let s1 := s.setGraph n slot { g with stopped := true, arrive := [] }
      s1.send (completion n (s1.nodeOf g.iss.tile) (fld g.header 16 16) 0x04 0x40 (launchInst r) (BitVec.ofNat 64 slot)
        (BitVec.ofNat 64 cause))
  | none => s

/-- Fields of a chunk operation (R183). -/
def opSucc (o : BitVec 256) (i : Nat) : Nat := fld o (224 + 16 * i) 16
def opPeerOp (o : BitVec 256) : Nat := fld o 208 16
def opPeer (o : BitVec 256) : Nat := fld o 192 16
def opChunk (o : BitVec 256) : Nat := fld o 180 12
def opDeps (o : BitVec 256) : Nat := fld o 172 8
def opKind (o : BitVec 256) : Nat := fld o 168 4
def opRed (o : BitVec 256) : Nat := fld o 164 4
def opSbuf (o : BitVec 256) : Nat := fld o 162 2
def opDbuf (o : BitVec 256) : Nat := fld o 160 2
def opLen (o : BitVec 256) : Nat := fld o 128 32
def opSoff (o : BitVec 256) : Nat := fld o 64 64
def opDoff (o : BitVec 256) : Nat := fld o 0 64
def hdrNops (h : BitVec 256) : Nat := fld h 64 16
def hdrChunks (h : BitVec 256) : Nat := fld h 52 12 + 1
def hdrPid (h : BitVec 256) : Nat := fld h 16 16

/-- Vectors of one bit a chunk: progress, COLL_SKIP, CHUNK_ALT (R186, R419, R420). -/
def State.chunkBit (s : State) (n : Node) (base slot c : Nat) : Bool :=
  bit (s.reg (nodeReg n (base + slot * 0x200 + c / 64 * 8))) (c % 64)
def State.setChunkBit (s : State) (n : Node) (base slot c : Nat) : State :=
  s.modReg (nodeReg n (base + slot * 0x200 + c / 64 * 8)) fun v => put v (c % 64) 1 1
def State.clearVector (s : State) (n : Node) (base slot chunks : Nat) : State :=
  (List.range ((chunks + 63) / 64)).foldl (fun s i => s.setReg (nodeReg n (base + slot * 0x200 + 8 * i)) 0) s

/-- The data held for instances not yet launched (R184). -/
def earlyOf (s : State) (n : Node) : List Msg :=
  match n with
  | .station k => (s.station k).early
  | .port p => (s.portSt p).early
  | _ => []
def State.setEarly (s : State) (n : Node) (l : List Msg) : State :=
  match n with
  | .station k => s.modStation k fun t => { t with early := l }
  | .port p => s.modPortSt p fun t => { t with early := l }
  | _ => s

/-- The bits of a launch that end in CHUNK_ALT (R420). -/
def State.markAlt (s : State) (n : Node) (slot c : Nat) (restart : Bool) : State :=
  if restart then s.setChunkBit n 0x6000 slot c else s

/-- The bytes that have arrived for an operation. -/
def Graph.arrived (g : Graph) (op : Nat) : List (Nat × List Byte) :=
  (g.arrive.filter fun a => a.1 == op).map fun a => a.2

/-- The slot and graph of a job's running instance that satisfies `f`. -/
def State.instanceOf (s : State) (n : Node) (pid inst : Nat) (f : Graph → Bool) : Option (Nat × Graph) :=
  (graphsOf s n).find? fun e => e.2.loaded && hdrPid e.2.header == pid && f e.2 &&
    match e.2.launch with | some r => launchInst r == inst | none => false

/-- A dependency of an operation is met. -/
def State.meetDep (s : State) (n : Node) (slot op : Nat) : State :=
  let g := s.graph n slot
  let c := Table.get 0 g.count op
  let s1 := s.setGraph n slot { g with count := Table.set 0 g.count op (c - 1) }
  if c = 1 then s1.post (.chunkOperationRun n slot op) else s1

/-- Bytes of data in a message. -/
def dataBytes (m : Msg) : Nat := match m.pay with | .bytes b => b.length - 8 | .elems w => 4 * w.length | _ => 0

/-- Bytes in an engine's arrival buffer: data of instances not yet launched (R184), and reduction results whose operations
wait for other dependencies (R328). -/
def State.buffered (s : State) (n : Node) : Nat :=
  (earlyOf s n).foldl (fun a m => a + dataBytes m) 0 +
    (graphsOf s n).foldl (fun a e => e.2.arrive.foldl (fun a x =>
      if ((e.2.ops[x.1]?).map opKind) == some 3 && !e.2.ran.contains x.1 then a + x.2.2.length else a) a) 0

/-- The operations of a graph that take a group's result and have not. -/
def Graph.takers (g : Graph) (group : Nat) : List (BitVec 256 × Nat) :=
  (g.ops.zipIdx).filter fun x => opKind x.1 == 3 && opPeer x.1 % 64 == group && !g.done.contains x.2 &&
    !(g.arrive.any fun a => a.1 == x.2)

/-- Data arrive at a collective engine: the result of a reduction group, or bytes for a receive operation. The last of them
meets the operation's dependency; bytes are acknowledged once all have come. Data of an instance not yet launched, and
results that their operations cannot take yet, need room in the arrival buffer; `none` when there is none (R184, R328, R408,
R420). -/
def State.chunkArrive (s : State) (n : Node) (m : Msg) : Option State :=
  let room := s.buffered n + dataBytes m ≤ 0x40000
  let hold : Option State := if room then some (s.setEarly n (earlyOf s n ++ [m])) else none
  match m.pay with
  | .elems ws =>
    let grp := fld m.arg 26 6
    match s.instanceOf n m.pid.toNat (fld m.arg 10 16) fun g => g.ops.any fun o => opKind o == 3 && opPeer o % 64 == grp with
    | none => hold
    | some (slot, g) =>
      if g.stopped then some s
      else if !room && (g.takers grp).any fun x => Table.get 0 g.count x.2 != 1 then none
      else
        let b := ws.flatMap fun w => toBytes 4 w.toNat
        some ((g.takers grp).foldl (fun s x =>
          let g' := s.graph n slot
          ((s.setGraph n slot { g' with arrive := g'.arrive ++ [(x.2, 0, b)] }).markAlt n slot (opChunk x.1)
            (m.stream == 1)).meetDep n slot x.2) s)
  | .bytes b =>
    let op := fld m.arg 16 16
    match s.instanceOf n m.pid.toNat (fld m.arg 0 16) fun g =>
        !g.done.contains op && match g.ops[op]? with | some o => opKind o == 1 || opKind o == 2 | none => false with
    | none => hold
    | some (slot, g) =>
      if g.stopped then some s
      else
        let g1 := { g with arrive := g.arrive ++ [(op, ofBytes (b.take 8), b.drop 8)] }
        let s1 := s.setGraph n slot g1
        if ((g1.arrived op).foldl (fun a p => a + p.2.length) 0) < ((g.ops[op]?).map opLen).getD 0 then some s1
        else some ((s1.send { m with typ := 0x0D, src := n, dst := m.src, seq := 0, away := backAway m, pay := .none }).meetDep n slot op)
  | _ => some s

/-! ## Contributions (R147, R148) -/

/-- A tile's part of a delivery: the result at DEST_OFF, but nothing in the code area (R196), or entries in the current
commit half, of which those beyond its end are dropped (R251; log 139). -/
def State.redWrite (s : State) (T pid : Nat) (e : BitVec 64) (bytes : List Byte) : State :=
  match s.domOf T pid with
  | none => s
  | some d =>
    if redCommit e then
      ((chunks 8 (bytes.length / 8 + 1) bytes).zipIdx).foldl (fun s c =>
        let v := s.dom T d
        if v.halfCap ≤ v.halfCount v.half then s
        else s.appendCommit T d (BitVec.ofNat 64 (ofBytes c.1)) 3 1 (T * 2 ^ 24 + redDest e + 8 * c.2)) s
    else if (s.dom T d).touchesCode (redDest e) bytes.length then s
    else s.lsStore T (redDest e) bytes

/-- A delivery at the root (R147, R251, R408); `none` while the collective engine there has no room for it (R328). -/
def State.redDeliver (s : State) (n : Node) (e : BitVec 64) (group rseq pid : Nat) (r : List W32) : Option State :=
  let moved := (s.router (nodeKey n)).moved.contains group
  let d0 : W64 := BitVec.ofNat 64 (rseq + if moved then 65536 else 0)
  match n with
  | .router x y =>
    match s.logical x y with
    | none => some s
    | some T =>
      some ((s.redWrite T pid e (r.flatMap fun w => toBytes 4 w.toNat)).post
        (.engineCompletion (completion n n pid 0x03 0 (redTag e) d0 (BitVec.ofNat 64 (redDest e)))))
  | .station _ | .port _ =>
    s.chunkArrive n { blockMsg n n 0x10 pid (group * 2 ^ 26 + rseq * 2 ^ 10) (.elems r) with
                        stream := if moved then 1 else 0 }
  | .service _ => some s

/-- Folds the contributions of a context in the node's order (R147). -/
def foldRed (op : Nat) (order : List Nat) (cs : List (Nat × List W32)) : List W32 :=
  match order.flatMap fun p => (cs.filter fun c => c.1 == p).map (·.2) with
  | [] => []
  | a :: rest => rest.foldl (fun r c => foldPair op r c) a

/-- Every expected contribution of a context has come. -/
def State.redFull (s : State) (n : Node) (e : BitVec 64) (c : RedCtx) : Bool :=
  [0, 1, 2, 3, 4].all fun p => s.expected n c.group e p ≤ (c.contrib.filter fun x => x.1 == p).length

/-- RSEQ a precedes RSEQ b in the ascending order of 16-bit sequence numbers. -/
def rseqBefore (a b : Nat) : Bool := a != b && (b + 65536 - a) % 65536 < 32768

/-- The contributions of a group that wait at a node's ports try again. -/
def State.retryRed (s : State) (n : Node) (group : Nat) : State :=
  let r := s.router (nodeKey n)
  (r.waitRed.filter fun w => fld w.2.arg 26 6 == group).foldl (fun s w => s.post (.reductionContribution n w.1 w.2))
    (s.setRouter (nodeKey n) { r with waitRed := r.waitRed.filter fun w => fld w.2.arg 26 6 != group })

/-- The complete context of a group that goes next: none of the group's other contexts precedes it (R147). -/
def State.redNext (s : State) (n : Node) (e : BitVec 64) (group : Nat) : Option RedCtx :=
  let cs := (s.router (nodeKey n)).ctxs.filter fun c => c.group == group
  cs.find? fun c => s.redFull n e c && !(cs.any fun d => rseqBefore d.rseq c.rseq)

/-- A node sends the complete sequences of a group in ascending RSEQ order, each to its parent or, at the root, to where
it is delivered; a result for which an arrival buffer has no room keeps its context and is tried again (R147, R328). -/
def State.sendReds (s : State) (n : Node) (group : Nat) : Nat → State
  | 0 => s
  | k + 1 =>
    let e := Table.get 0 (s.router (nodeKey n)).red group
    match s.redNext n e group with
    | none => s
    | some c =>
      let res := foldRed (redOpOf e) (foldOrder n) c.contrib
      let out : Option State :=
        if redParent e = 0 then s.redDeliver n e group c.rseq c.pid res
        else match s.parentOf n group with
          | some (m, _) => some (s.send (blockMsg n m 0x10 c.pid (group * 2 ^ 26 + c.rseq * 2 ^ 10) (.elems res)))
          | none => some s
      match out with
      | none => s.after 64 (.reductionContextTimeout n group c.rseq)
      | some s1 =>
        let s2 := s1.modRouter (nodeKey n) fun r =>
          { r with ctxs := r.ctxs.filter fun d => !(d.group == group && d.rseq == c.rseq) }
        (s2.sendReds n group k).retryRed n group

/-- A contribution enters a context of its group (R147). -/
def State.takeContribution (s : State) (n : Node) (port group rseq pid : Nat) (ws : List W32) : State :=
  let key := nodeKey n
  let r := s.router key
  let fresh := !(r.ctxs.any fun c => c.group == group && c.rseq == rseq)
  let ctxs := if fresh then r.ctxs ++ [{ group := group, rseq := rseq, contrib := [(port, ws)], pid := pid, since := s.mcycle }]
    else r.ctxs.map fun c => if c.group = group ∧ c.rseq = rseq then { c with contrib := c.contrib ++ [(port, ws)] } else c
  let s1 := s.setRouter key { r with ctxs := ctxs }
  ((if fresh then s1.after (2 ^ 24) (.reductionContextTimeout n group rseq) else s1).sendReds n group 16).retryRed n group

/-- Of the same sender, receiver and group, a contribution precedes another. -/
def redBefore (x m : Msg) : Bool :=
  x.typ == 0x10 && x.src == m.src && x.dst == m.dst && fld x.arg 26 6 == fld m.arg 26 6 &&
    rseqBefore (fld x.arg 10 16) (fld m.arg 10 16)

/-- A contribution that precedes this one is on its way: class G keeps their order (R147). -/
def State.redComing (s : State) (n : Node) (m : Msg) : Bool :=
  s.flight.any fun f => match f with
    | .meshRoute _ x => redBefore x m
    | .reductionContribution k _ x => k == n && redBefore x m
    | _ => false

/-- `reductionContribution` (R147, R382, R407). -/
def execReductionContribution (n : Node) (port : Nat) (m : Msg) (s : State) : Host.Outcome State Fault Refusal :=
  .next (
    let group := fld m.arg 26 6
    let rseq := fld m.arg 10 16
    let key := nodeKey n
    let r := s.router key
    let e := Table.get 0 r.red group
    match m.pay with
    | .elems ws =>
      if s.sweeping n m.pid.toNat || !redValid e || s.isRedAborted n group rseq then s.retryRed n group
      else if s.nodeFenced m.src then s.post (.reductionAbort n group rseq false)
      else if s.redComing n m then s.post (.reductionContribution n port m)
      else if r.waitRed.any fun w => redBefore w.2 m then s.setRouter key { r with waitRed := r.waitRed ++ [(port, m)] }
      else if (r.ctxs.any fun c => c.group == group && c.rseq == rseq) ||
          (r.ctxs.filter fun c => c.group == group).length < redCtxs e then
        s.takeContribution n port group rseq m.pid.toNat ws
      else s.setRouter key { r with waitRed := r.waitRed ++ [(port, m)] }
    | _ => s)

/-! ## Aborts (R407) -/

/-- The graph slots of an engine whose instance waits for a reduction sequence. -/
def State.waitsFor (s : State) (n : Node) (group rseq : Nat) : List Nat :=
  (graphsOf s n).filterMap fun e =>
    match e.2.launch with
    | some r =>
      if launchInst r == rseq && e.2.ops.any fun o => fld o 168 4 == 3 && fld o 192 6 == group then some e.1 else none
    | none => none

/-- The other nodes that hold a context of a sequence. -/
def State.redHolders (s : State) (n : Node) (group rseq : Nat) : List Node :=
  (s.routers.filter fun e => nodeOfKey e.1 != n && e.2.ctxs.any fun c => c.group == group && c.rseq == rseq).map fun e =>
    nodeOfKey e.1

/-- `reductionAbort`: the context goes, later contributions are discarded for 2^15 mesh cycles, the parent is told, and
the delivering node writes nothing and posts STATUS 0x30 or 0x31 (R407). -/
def execReductionAbort (n : Node) (group rseq : Nat) (timeout : Bool) (s : State) :
    Host.Outcome State Fault Refusal :=
  .next (
    let key := nodeKey n
    let r := s.router key
    let e := Table.get 0 r.red group
    if s.isRedAborted n group rseq then s
    else
      let pid := match r.ctxs.find? fun c => c.group == group && c.rseq == rseq with | some c => c.pid | none => 0
      let s1 := s.setRouter key
        { r with ctxs := r.ctxs.filter fun c => !(c.group == group && c.rseq == rseq)
                 waitRed := r.waitRed.filter fun w => !(fld w.2.arg 26 6 == group && fld w.2.arg 10 16 == rseq)
                 aborted := r.aborted ++ [(group, rseq, s.mcycle + 2 ^ 15)] }
      let st := if timeout then 0x31 else 0x30
      let tell (s : State) (x : Node) : State := s.send (blockMsg n x 0x12 pid (group * 2 ^ 26 + rseq * 2 ^ 10)
        (.ctrl (.abort group rseq timeout)))
      let s1' := ((s1.redHolders n group rseq).foldl tell s1).sendReds n group 16 |>.retryRed n group
      let s2 := (s1'.waitsFor n group rseq).foldl (fun s k => s.stopInstance n k st) s1'
      if !redValid e then s2
      else if redParent e ≠ 0 then
        match s2.parentOf n group with
        | some (m, _) => tell s2 m
        | none => s2
      else match n with
        | .router _ _ =>
          s2.post (.engineCompletion (completion n n pid 0x03 st (redTag e) (BitVec.ofNat 64 rseq)
            (BitVec.ofNat 64 (redDest e))))
        | _ => s2)

/-- `reductionContextTimeout`: a context that has waited 2^24 mesh cycles without completing aborts, unless it is held; a
complete one is sent as soon as it can be (R328, R381, R407). -/
def execReductionContextTimeout (n : Node) (group rseq : Nat) (s : State) : Host.Outcome State Fault Refusal :=
  .next (
    let s1 := s.sendReds n group 16
    let r := s1.router (nodeKey n)
    let e := Table.get 0 r.red group
    if r.holds.contains (group, rseq) then s1
    else if r.ctxs.any fun c => c.group == group && c.rseq == rseq && c.since + 2 ^ 24 ≤ s.mcycle && !s1.redFull n e c then
      s1.post (.reductionAbort n group rseq true)
    else s1)

/-- RED_HOLD with HOLD (R381, R382). -/
def execRedHoldHold (x y group rseq : Nat) (s : State) : Host.Outcome State Fault Refusal :=
  .next (s.modRouter (y * 66 + x) fun r =>
    { r with holds := if r.holds.contains (group, rseq) then r.holds else r.holds ++ [(group, rseq)] })

/-- RED_HOLD with RELEASE: the router context time-out runs again from here (R382). -/
def execRedHoldRelease (x y group rseq : Nat) (s : State) : Host.Outcome State Fault Refusal :=
  .next ((s.modRouter (y * 66 + x) fun r =>
    { r with holds := r.holds.filter fun h => h != (group, rseq)
             ctxs := r.ctxs.map fun c => if c.group = group ∧ c.rseq = rseq then { c with since := s.mcycle } else c }).after
      (2 ^ 24) (.reductionContextTimeout (.router x y) group rseq))

/-- RED_HOLD with ABANDON: a held router discards the sequence (R382). -/
def execRedHoldAbandon (x y group rseq : Nat) (s : State) : Host.Outcome State Fault Refusal :=
  .next (
    let s1 := s.modRouter (y * 66 + x) fun r =>
      if r.holds.contains (group, rseq) then
        { r with holds := r.holds.filter fun h => h != (group, rseq)
                 ctxs := r.ctxs.filter fun c => !(c.group == group && c.rseq == rseq)
                 waitRed := r.waitRed.filter fun w => !(fld w.2.arg 26 6 == group && fld w.2.arg 10 16 == rseq)
                 aborted := r.aborted ++ [(group, rseq, 0)] }
      else r
    (s1.sendReds (.router x y) group 16).retryRed (.router x y) group)

/-! ## Graphs (R181 to R183, R447) -/

/-- An operation that R447 refuses. PEER[13] and PEER[7], to which R183 gives no meaning, are no reserved bits: R447 is
taken to refuse only the bits that the table calls reserved, and an operation has none (DESIGN CHOICE, log 142). -/
def opBad (h o : BitVec 256) : Bool :=
  let k := opKind o
  let succBad (x : Nat) : Bool := x != 0xFFFF && hdrNops h ≤ x
  6 ≤ k || (k == 2 && (5 ≤ opRed o || opLen o % 4 != 0)) || succBad (opSucc o 0) || succBad (opSucc o 1) ||
    hdrChunks h ≤ opChunk o || (k == 0 && (opPeer o / 2 ^ 14 == 3 ||
      ((opPeer o / 2 ^ 14 == 2 || (opPeer o / 2 ^ 14 == 0 && opPeer o / 64 % 2 == 1)) && 48 ≤ opPeer o % 64)))

/-- The image passes the checks of R447; `other` counts the operations of the engine's other slots. -/
def graphOk (h : BitVec 256) (ops : List (BitVec 256)) (other pid : Nat) (free : Bool) : Bool :=
  fld h 80 176 == 0 && fld h 48 4 == 0 && fld h 0 16 == 0 && 1 ≤ hdrNops h && hdrNops h ≤ 4096 &&
    hdrNops h + other ≤ 4096 && !(ops.any (opBad h)) && (free || hdrPid h == pid)

/-- `collLoad`: the image is checked and replaces the slot's graph, or is refused and leaves it (R181, R447). `pid` is
the writer's job when `free` is false. An image that cannot be read is refused (log 45). One that is not 32-byte aligned is
read where IMAGE says (DESIGN CHOICE, log 143). -/
def execCollLoad (n : Node) (v : W64) (pid : BitVec 16) (free : Bool) (s : State) :
    Host.Outcome State Fault Refusal :=
  .next (
    let slot := fld v 59 4
    let img := fld v 0 52
    let k := match n with | .station k => k | _ => xlatStation pid.toNat img
    let other := ((graphsOf s n).filter fun e => e.1 != slot).foldl (fun a e => a + e.2.ops.length) 0
    let reg := nodeReg n 0x200
    let refuse (s : State) : State := s.modReg reg fun w => put (put w 63 1 0) 52 1 1
    match s.physAll k pid.toNat img 32 with
    | (s1, .wait, _) => s1.holdAt k (.collLoad n v pid free)
    | (s1, .lost, _) => refuse s1
    | (s1, .ok, hb) =>
      let h := BitVec.ofNat 256 (ofBytes hb)
      let nops := Nat.min (hdrNops h) 4096
      match s1.physAll k pid.toNat img (32 + 32 * nops) with
      | (s2, .wait, _) => s2.holdAt k (.collLoad n v pid free)
      | (s2, .lost, _) => refuse s2
      | (s2, .ok, ob) =>
        let ops := (chunks 32 nops (ob.drop 32)).map fun c => BitVec.ofNat 256 (ofBytes c)
        if graphOk h ops other pid.toNat free then
          (s2.setGraph n slot { Graph.reset with loaded := true, header := h, ops := ops }).modReg reg fun w =>
            put (put w 63 1 0) 52 1 0
        else refuse s2)

/-- `collStop` (R418). -/
def execCollStop (n : Node) (slot : Nat) (s : State) : Host.Outcome State Fault Refusal :=
  .next (s.stopInstance n slot 0x40)

/-! ## Instances (R184 to R186, R419, R420) -/

/-- An operation completes: its successors' counters fall, and the chunk's progress bit sets with its last operation. -/
def State.finishOp (s : State) (n : Node) (slot op : Nat) : State :=
  let g := s.graph n slot
  match g.ops[op]? with
  | none => s
  | some o =>
    if g.done.contains op then s
    else
      let succ := [opSucc o 0, opSucc o 1].filter fun x => x != 0xFFFF
      let count := succ.foldl (fun t x => Table.set 0 t x (Table.get 0 t x - 1)) g.count
      let done := g.done ++ [op]
      let s1 := s.setGraph n slot { g with count := count, done := done }
      let all := (g.ops.zipIdx).all fun x => opChunk x.1 != opChunk o || done.contains x.2
      let s2 := if all then s1.setChunkBit n 0x2000 slot (opChunk o) else s1
      (succ.filter fun x => Table.get 0 count x == 0 && !g.ran.contains x).foldl (fun s x =>
        s.post (.chunkOperationRun n slot x)) s2

/-- The engine that a send names (R183); `none` for an engine of another module. -/
def peerNode (p : Nat) : Option Node :=
  if p / 2 ^ 14 = 1 then some (.station (p % 64))
  else if p / 2 ^ 14 = 2 then some (.port (p % 64))
  else none

/-- The station at which an engine's addresses are translated (R71). -/
def engStation (n : Node) (pid va : Nat) : Nat :=
  match n with
  | .station k => k
  | _ => xlatStation pid va

/-- Arrived pieces in place. -/
def assemble (len : Nat) (ps : List (Nat × List Byte)) : List Byte :=
  ps.foldl (fun acc p => acc.take p.1 ++ p.2 ++ acc.drop (p.1 + p.2.length)) (List.replicate len 0)

/-- The pieces of a chunk message: offset and at most 1,000 bytes (R134, R135). -/
def chunkPieces (b : List Byte) : List (Nat × List Byte) :=
  match b with
  | [] => [(0, [])]
  | _ :: _ => (chunks 1000 (b.length / 1000 + 1) b).zipIdx.map fun x => (1000 * x.2, x.1)

/-- A fault of a collective engine's access: the stream parks, and a group that it takes is held (R381). -/
def State.parkOp (s : State) (n : Node) (slot op : Nat) (cause va : Nat) (write : Bool) : State :=
  let g := s.graph n slot
  let inst := match g.launch with | some r => launchInst r | none => 0
  let grp := g.ops.find? fun o => opKind o == 3
  let s1 := s.setGraph n slot { g with ran := g.ran.filter fun x => x != op }
  s1.parkStream (match n with | .station k => k | _ => xlatStation (hdrPid g.header) va)
    { va := BitVec.ofNat 64 va, engine := 2, unit := 0, write := write, cause := cause - 0x0A, pid := hdrPid g.header,
      group := (grp.map fun o => opPeer o % 64).getD 0, hold := grp.isSome, rseq := inst, id := inst, tile := g.iss.tile,
      dom := g.iss.dom, resume := some (.chunkOperationRun n slot op) }

/-- What an operation does with the result of an engine access. -/
def opAccess (n : Node) (slot op : Nat) (write : Bool) (r : State × GRes) (f : List Byte → State → State) : State :=
  match r with
  | (s1, .ok b) => f b s1
  | (s1, .fault c va) => s1.parkOp n slot op c va write
  | (s1, .lost _) => s1.stopInstance n slot 0x13
  | (s1, .wait) =>
    let g := s1.graph n slot
    (s1.setGraph n slot { g with ran := g.ran.filter fun x => x != op }).holdAt
      (match n with | .station k => k | _ => 0) (.chunkOperationRun n slot op)

/-- The ports that are parked with a circuit to a module (R337). -/
def State.parkedPorts (s : State) (md : Nat) : List Nat :=
  (List.range 48).filter fun p => bit (s.reg (portReg p 0x400)) 21 && fld (s.reg (portReg p 0x400)) 16 5 == md

/-- The module of a send to an engine of another module (R183). -/
def sendModule (o : BitVec 256) : Option Nat :=
  if opKind o = 0 ∧ opPeer o / 2 ^ 14 = 0 then some (opPeer o / 256 % 32) else none

/-- The engine sends wake hints to every parked port of a module that its graph sends to and that no other port reaches
(R340). -/
def State.hintPorts (s : State) (n : Node) (hdr : BitVec 256) (ops : List (BitVec 256)) : State :=
  ((ops.filterMap sendModule).eraseDups.filter fun md => fld (s.reg (nodeReg n (0x4000 + 8 * md))) 0 48 == 0).foldl
    (fun s md => (s.parkedPorts md).foldl (fun s p => s.send (blockMsg n (.port p) 0x23 (hdrPid hdr) md .none)) s) s

/-- `chunkOperationRun`; a send to a parked module waits for its port (R184, R186, R340, R418 to R420). A base and offset
add modulo 2^55, and FLAG is its low 55 bits: the spec gives no outcome for a sum or a FLAG that names no global window
(DESIGN CHOICE, log 144). -/
def execChunkOperationRun (n : Node) (slot op : Nat) (s : State) : Host.Outcome State Fault Refusal :=
  .next (
    let g := s.graph n slot
    match g.launch, g.ops[op]? with
    | some r, some o =>
      if g.stopped || g.ran.contains op || Table.get 0 g.count op != 0 then s
      else
        let pid := hdrPid g.header
        let s0 := s.setGraph n slot { g with ran := g.ran ++ [op] }
        let src := (launchBase r (opSbuf o) + opSoff o) % 2 ^ 55
        let dst := (launchBase r (opDbuf o) + opDoff o) % 2 ^ 55
        let st (va : Nat) : Nat := engStation n pid va
        let user := g.iss.priv == 0
        let data := assemble (opLen o) (g.arrived op)
        match opKind o with
          | 0 =>
            opAccess n slot op false (s0.gread (st src) pid user src (opLen o)) fun b s1 =>
              let ms (d : Node) : List Msg := (chunkPieces b).map fun p =>
                blockMsg n d 0x1A pid (opPeerOp o * 65536 + launchInst r) (.bytes (toBytes 8 p.1 ++ p.2))
              match peerNode (opPeer o) with
              | some d => (ms d).foldl State.send s1
              | none =>
                let md := opPeer o / 256 % 32
                let d : Node := if opPeer o / 64 % 2 = 1 then .port (opPeer o % 64) else .station (opPeer o % 64)
                let rt := s1.reg (nodeReg n (0x4000 + 8 * md))
                if bit rt 63 && fld rt 0 48 != 0 then
                  (ms d).foldl (fun s m => s.send (s.abroad md m)) s1
                else if bit rt 63 && !(s1.parkedPorts md).isEmpty then s.after 64 (.chunkOperationRun n slot op)
                else s1.stopInstance n slot 0x03
          | 1 =>
            opAccess n slot op true (s0.gwrite (st dst) pid user [] dst data) fun _ s1 => s1.finishOp n slot op
          | 2 =>
            opAccess n slot op false (s0.gread (st src) pid user src (opLen o)) fun b s1 =>
              let ws (l : List Byte) : List W32 := (chunks 4 (l.length / 4) l).map fun c => BitVec.ofNat 32 (ofBytes c)
              let res := (foldPair (opRed o) (ws b) (ws data)).flatMap fun w => toBytes 4 w.toNat
              opAccess n slot op true (s1.gwrite (st dst) pid user [] dst res) fun _ s2 => s2.finishOp n slot op
          | 3 =>
            opAccess n slot op true
              (s0.gwrite (st dst) pid user [] dst ((g.arrived op).flatMap fun p => p.2)) fun _ s1 => s1.finishOp n slot op
          | 4 =>
            let fl := fld r 192 55
            opAccess n slot op true (s0.gwrite (st fl) pid user [] fl (toBytes 8 (fld r 128 64))) fun _ s1 =>
              s1.finishOp n slot op
          | _ => s0.finishOp n slot op
    | _, _ => s)

/-- Every engine of the module whose slot holds a graph of the job, but one (R185). -/
def State.otherEngines (s : State) (n : Node) (slot pid : Nat) : List Node :=
  edgeBlocks.filter fun m => m != n && holdsGraph (graphsOf s m) slot pid

/-- `collectiveLaunchRecord`: counters, progress and the restart mask are set up, operations without dependencies run,
and the first engine forwards the record to the module's others (R184 to R186, R419, R420). -/
def execCollectiveLaunchRecord (n : Node) (m : Msg) (s : State) : Host.Outcome State Fault Refusal :=
  .next (match m.pay with
    | .launch r iss =>
      let slot := launchSlot r
      let first := match m.src with | .router _ _ => true | _ => false
      let s0 := if first then s.settle iss else s
      let g := s0.graph n slot
      let fwd := if first then s0.otherEngines n slot m.pid.toNat else []
      let s1 := fwd.foldl (fun s x => s.send { m with src := n, dst := x }) s0
      if !g.loaded || hdrPid g.header != m.pid.toNat then s1
      else
        let k := hdrChunks g.header
        let skip := (List.range k).filter fun c => s1.chunkBit n 0x8000 slot c
        let count := (g.ops.zipIdx).foldl (fun t x => Table.set 0 t x.2 (opDeps x.1)) ([] : Tbl Nat)
        let g1 : Graph := { g with launch := some r, iss := iss, count := count, done := [], ran := [], arrive := [],
                                   stopped := false }
        let s2 := (((s1.setGraph n slot g1).clearVector n 0x2000 slot k).clearVector n 0x6000 slot k).clearVector n 0x8000
          slot k
        let skipped := ((g.ops.zipIdx).filter fun x => skip.contains (opChunk x.1)).map (·.2)
        let s3 := skipped.foldl (fun s x =>
          (s.setGraph n slot { s.graph n slot with ran := (s.graph n slot).ran ++ [x] })) s2
        let s4 := skipped.foldl (fun s x => s.finishOp n slot x) s3
        let s5 := if skip.isEmpty then s4 else
          (List.range k).foldl (fun s c => s.markAlt n slot c (!skip.contains c)) s4
        let s6 := ((g.ops.zipIdx).filter fun x => opDeps x.1 == 0 && !skip.contains (opChunk x.1)).foldl (fun s x =>
          s.post (.chunkOperationRun n slot x.2)) (s5.hintPorts n g.header g.ops)
        let held := earlyOf s6 n
        let mine := held.filter fun e => e.pid == m.pid &&
          (if e.typ = 0x10 then fld e.arg 10 16 else fld e.arg 0 16) == launchInst r
        mine.foldl (fun s e => (s.chunkArrive n e).getD (s.after 64 (.collectiveChunkData n e)))
          (s6.setEarly n (held.filter fun e => !mine.contains e))
    | _ => s)

/-- `collectiveChunkData`: while the arrival buffer has no room for data, the link's credit is withheld and they wait (R184,
R328). -/
def execCollectiveChunkData (n : Node) (m : Msg) (s : State) : Host.Outcome State Fault Refusal :=
  .next (if s.sweeping n m.pid.toNat then s else (s.chunkArrive n m).getD (s.after 64 (.collectiveChunkData n m)))

/-- An operation is the send that an answer names: to the engine that the answer comes from, of this module or another. -/
def sendTo (o : BitVec 256) (m : Msg) : Bool :=
  opKind o == 0 && opPeerOp o == fld m.arg 16 16 &&
    match peerNode (opPeer o), m.away with
    | some d, none => d == m.src
    | none, some a => a.src == opPeer o / 256 % 32 &&
        m.src == (if opPeer o / 64 % 2 = 1 then Node.port (opPeer o % 64) else .station (opPeer o % 64))
    | _, _ => false

/-- `collectiveChunkAck`: the send that it answers completes, or, by a status, stops the instance (R184, R418). -/
def execCollectiveChunkAck (n : Node) (m : Msg) (s : State) : Host.Outcome State Fault Refusal :=
  .next (
    let mine (g : Graph) (x : BitVec 256 × Nat) : Bool := sendTo x.1 m && g.ran.contains x.2 && !g.done.contains x.2
    match s.instanceOf n m.pid.toNat (fld m.arg 0 16) fun g => (g.ops.zipIdx).any (mine g) with
    | none => s
    | some (slot, g) =>
      if g.stopped then s
      else match m.pay with
        | .words st _ => s.stopInstance n slot st.toNat
        | _ =>
          match (g.ops.zipIdx).find? (mine g) with
          | some x => s.finishOp n slot x.2
          | none => s)

/-! ## Resolving parked streams (R382) -/

/-- RELEASE or ABANDON goes to every router of the group that a record holds. -/
def State.endHold (s : State) (f : EngFault) (abandon : Bool) : State :=
  if f.hold then
    (s.routers.filter fun e => e.2.holds.contains (f.group, f.rseq) && e.1 < 2112).foldl (fun s e =>
      s.post (if abandon then .redHoldAbandon (e.1 % 66) (e.1 / 66) f.group f.rseq
        else .redHoldRelease (e.1 % 66) (e.1 / 66) f.group f.rseq)) s
  else s

/-- `engResolveRetry`: the engine walks again from the faulting unit (R382). -/
def execEngResolveRetry (n : Node) (index : Nat) (s : State) : Host.Outcome State Fault Refusal :=
  .next (match n with
    | .station k =>
      match Table.get none (s.station k).faults index with
      | none => s
      | some f =>
        let s1 := s.modStation k fun t => { t with faults := Table.set none t.faults index none }
        let s2 := (s1.endHold f false).wake
        match f.resume with | some e => s2.post e | none => s2
    | _ => s)

/-- `engResolveAbandon`: the stream ends: a block transfer with STATUS 0x22 or 0x23, an instance by stopping (R382,
R383, R418). -/
def execEngResolveAbandon (n : Node) (index : Nat) (s : State) : Host.Outcome State Fault Refusal :=
  .next (match n with
    | .station k =>
      match Table.get none (s.station k).faults index with
      | none => s
      | some f =>
        let s1 := ((s.modStation k fun t => { t with faults := Table.set none t.faults index none }).endHold f true).wake
        match f.resume with
        | some (.blockTransferStart n' e) =>
          match s1.engine n' e with
          | some r => (s1.setEngine n' e (some { r with fail := noteFail r.fail (0x22 + f.cause) r.pos })).checkEngine n' e
          | none => s1
        | some (.chunkOperationRun n' slot _) => s1.stopInstance n' slot (0x22 + f.cause)
        | some e => { s1 with flight := s1.flight.filter fun x => x != e }
        | none => s1
    | _ => s)

end Sys2Proof.Machine
end

