-- ==== Sys2Proof/Machine/Ports.lean ====
section
/-! DEFINITION. Optical ports, laser states, time synchronisation and row power (R190, R191, R336 to R340, R423 to
R426). -/

namespace Sys2Proof.Machine

open Bits

/-! ## The port's registers -/

/-- CUR and TARGET of PORT_LASER (R337). -/
def State.laserCur (s : State) (p : Nat) : Nat := fld (s.reg (portReg p 0x400)) 4 2
def State.laserTarget (s : State) (p : Nat) : Nat := fld (s.reg (portReg p 0x400)) 0 2
def State.setCur (s : State) (p v : Nat) : State := s.modReg (portReg p 0x400) fun w => put w 4 2 v
def State.setTarget (s : State) (p v : Nat) : State := s.modReg (portReg p 0x400) fun w => put w 0 2 v
/-- ACTIVE of PORT_LANES (R425). -/
def State.lanes (s : State) (p : Nat) : Nat := fld (s.reg (portReg p 0x500)) 16 16
/-- The low word of WL_HEALTH of a wavelength (R424). -/
def wlReg (p lane : Nat) : Nat := portReg p (0x5000 + 16 * lane)

/-- Every herd route table entry of the module (R189). -/
def routeRegs : List Nat :=
  (List.range 32).flatMap fun m =>
    (List.range 64).map (fun n => stationReg n (0x4000 + 8 * m)) ++ (List.range 48).map fun p => portReg p (0x4000 + 8 * m)

/-- Changes every route table entry. -/
def State.modRoutes (s : State) (f : W64 → W64) : State := routeRegs.foldl (fun s a => s.modReg a f) s

/-- The port leaves every PORTS mask (R190, step 1). -/
def State.dropPort (s : State) (p : Nat) : State := s.modRoutes fun w => put w p 1 0

/-- The port joins PORTS of every entry that goes by module `via` (R190, step 8). -/
def State.joinPort (s : State) (p via : Nat) : State :=
  s.modRoutes fun w => if bit w 63 && fld w 58 5 == via then put w p 1 1 else w

/-- A symbol on a port's link; the model's number of a link is 32 plus the port. -/
def State.symbol (s : State) (p code : Nat) (v : W64) : State :=
  { s with herdOut := s.herdOut ++ [(32 + p, blockMsg (.port p) (.port p) 0 0 code (.words v 0))] }

/-- The port is parked: PARKED, and in PARK_VIA the module to which it has a circuit, when an entry names one (R337,
R339). -/
def State.parkPort (s : State) (p : Nat) : State :=
  let w := (routeRegs.map s.reg).find? fun w => bit w 63 && bit w p
  s.modReg (portReg p 0x400) fun v => put (put v 21 1 1) 16 5 ((w.map fun w => fld w 58 5).getD (fld v 16 5))

/-- The wavelengths lit in a laser state (R337). -/
def litLanes (cur : Nat) : BitVec 16 := match cur with | 0 => 0xFFFF | 1 => 0xFF | 2 => 1 | _ => 0

/-- The wavelengths that carry flits: those of ACTIVE that are lit, in L0 and L1 (R337, R425). -/
def carrying (active : BitVec 16) (cur : Nat) : BitVec 16 := if cur ≤ 1 then active &&& litLanes cur else 0

/-- The port takes flits: it is in L0 or L1 and has not sent QUIESCE (R190, R338). -/
def State.takesFlits (s : State) (p : Nat) : Bool := s.laserCur p ≤ 1 && !(s.portSt p).quiesced

/-- CUR becomes `v`; the counts of windows in a state begin again (R338, R339). -/
def State.enterLaser (s : State) (p v : Nat) : State :=
  (s.setCur p v).modPortSt p fun t => { t with low := 0, idle := 0 }

/-! ### Descent (R190, steps 1 to 4) -/

/-- Both QUIESCE symbols have passed: the lasers go to L2, or to L3 where that is the target (step 4). -/
def State.endDescent (s : State) (p : Nat) : State :=
  if (s.portSt p).quiesced && (s.portSt p).peerQuiesced then
    (s.enterLaser p (if s.laserTarget p = 3 then 3 else 2)).modPortSt p fun t =>
      { t with down := false, quiesced := false, peerQuiesced := false }
  else s

/-- QUIESCE goes once every flit in the replay buffer has been acknowledged (steps 2 and 3). -/
def State.sendQuiesce (s : State) (p : Nat) : State :=
  let t := s.portSt p
  if t.down && !t.quiesced && t.replay == 0 then
    ((s.modPortSt p fun t => { t with quiesced := true }).symbol p 1 0).endDescent p
  else s

/-- The descent begins: the port leaves every PORTS mask (step 1). -/
def State.descend (s : State) (p : Nat) : State :=
  ((s.dropPort p).modPortSt p fun t => { t with down := true }).sendQuiesce p

/-- Step 6 of R190: relighting begins; it is given 50 µs (R426). -/
def State.relight (s : State) (p : Nat) : State :=
  (s.modPortSt p fun t => { t with attempts := 1, locked := false }).afterTicks 50000 (.relightTimeout p)

/-! ### Changes of the lanes (R338, R425) -/

/-- The restripe symbol: the new lane set, and the number of the first flit over it. -/
def State.sendRestripe (s : State) (p : Nat) (lanes : BitVec 16) : State :=
  s.symbol p 4 (BitVec.ofNat 32 (s.portSt p).flitNo ++ 0#16 ++ lanes)

/-- The lane set that a change leads to. -/
def State.stripeTo (s : State) (p : Nat) (st : Stripe) : BitVec 16 :=
  match st.active with
  | some a => carrying a (s.laserCur p)
  | none => carrying (BitVec.ofNat 16 (s.lanes p)) (s.laserTarget p)

/-- ACTIVE shrinks to a set: the wavelengths that leave it are down. -/
def State.setLanes (s : State) (p : Nat) (a : BitVec 16) : State :=
  let gone := (List.range 16).filter fun i => (s.lanes p).testBit i && !bit a i
  gone.foldl (fun s i => s.modReg (wlReg p i) fun w => put w 1 1 1) (s.modReg (portReg p 0x500) fun w => put w 16 16 a.toNat)

/-- The lanes that the peer's set leaves of this port's; in L1 the upper half is only unlit. -/
def peerLanes (lanes : BitVec 16) : BitVec 16 := if lanes.toNat ≤ 0xFF then lanes ||| 0xFF00 else lanes

/-- A change begins: the flits sent before it have to be acknowledged before a lane leaves the set. -/
def State.startStripe (s : State) (p : Nat) (active : Option (BitVec 16)) : State :=
  let wait := if active.isSome || s.laserTarget p == 1 then (s.portSt p).replay else 0
  s.modPortSt p fun t => { t with stripe := some ⟨active, wait, false, none⟩ }

/-- The lanes that are to leave ACTIVE next; when fewer than 4 would stay active, the port leaves every PORTS mask
instead. -/
def State.beginDrain (s : State) (p lane : Nat) : State :=
  let a := s.lanes p
  if !a.testBit lane then s
  else if (onesOf a 16).length ≤ 4 then (if (s.portSt p).down ∨ 2 ≤ s.laserCur p then s else ((s.setTarget p 2).parkPort p).descend p)
  else if (s.portSt p).stripe.isSome then s.modPortSt p fun t => { t with todo := t.todo ++ [lane] }
  else s.startStripe p (some (BitVec.ofNat 16 (a - 2 ^ lane)))

/-- A change moves on: with the old flits acknowledged the symbol goes; with the peer's received the new set holds, and the
next change begins. `fuel` bounds the changes of one step. -/
def State.moveStripe (s : State) (p : Nat) : Nat → State
  | 0 => s
  | fuel + 1 =>
    match (s.portSt p).stripe with
    | none => s
    | some st =>
      if st.wait ≠ 0 then s
      else
        let s1 := if st.sent then s
          else (s.sendRestripe p (s.stripeTo p st)).modPortSt p fun t => { t with stripe := some { st with sent := true } }
        match st.heard with
        | none => s1
        | some h =>
          let s2 := s1.modPortSt p fun t => { t with stripe := none, todo := t.todo.drop 1 }
          let s3 := match st.active with
            | some a => s2.setLanes p (a &&& peerLanes h)
            | none => if s2.laserCur p ≤ 1 ∧ s2.laserTarget p ≤ 1 then s2.enterLaser p (s2.laserTarget p) else s2
          match (s.portSt p).todo with
          | lane :: _ => (s3.beginDrain p lane).moveStripe p fuel
          | [] =>
            if s3.laserCur p ≤ 1 ∧ s3.laserTarget p ≤ 1 ∧ s3.laserCur p ≠ s3.laserTarget p then
              (s3.startStripe p none).moveStripe p fuel
            else s3

/-- `fuel` of `moveStripe`: more than the wavelengths. -/
def stripeFuel : Nat := 20

/-- The peer has acknowledged the oldest `n` flits; what waited for them moves on (R190, R338, R423, R425). -/
def State.flitsAcked (s : State) (p n : Nat) : State :=
  let s1 := s.modPortSt p fun t =>
    { t with replay := t.replay - n, stripe := t.stripe.map fun st => { st with wait := st.wait - n } }
  (s1.moveStripe p stripeFuel).sendQuiesce p

/-! ## Laser states (R337 to R340) -/

/-- TARGET has been written: the port moves towards it (R338). -/
def State.moveLaser (s : State) (p : Nat) : State :=
  let c := s.laserCur p
  let t := s.laserTarget p
  let st := s.portSt p
  if t = c then s
  else if c ≤ 1 ∧ t ≤ 1 then (if st.stripe.isSome then s else (s.startStripe p none).moveStripe p stripeFuel)
  else if c ≤ 1 then (if st.down then s else (s.parkPort p).descend p)
  else if t ≤ 1 then (if st.attempts ≠ 0 then s else s.relight p)
  else s.enterLaser p t

/-- A write of PORT_LASER at a privilege. -/
def State.writeLaser (s : State) (p priv : Nat) (v mask : W64) : State :=
  (s.regStore (portReg p 0x400) priv v mask).moveLaser p

/-- `portLaserWrite`, by service firmware (R338). -/
def execPortLaserWrite (p : Nat) (v : W64) (s : State) : Host.Outcome State Fault Refusal :=
  .next (s.writeLaser p 2 v (BitVec.allOnes 64))

/-- `wakeHint` for the module that the port is parked for: TARGET goes to L0 and HINTS counts; a descent under way stops where it is, and the port returns to L0 by
steps 6 to 8 (R340, R362). -/
def execWakeHint (p _module : Nat) (s : State) : Host.Outcome State Fault Refusal :=
  .next (
    let s1 := s.modReg (portReg p 0x400) fun w => satAdd (put w 0 2 0) 8 8 1
    if (s.portSt p).down then
      (s1.modPortSt p fun t => { t with down := false, quiesced := false, peerQuiesced := false }).relight p
    else s1.moveLaser p)

/-- `quiesce`: the peer's QUIESCE arrives; with both sent, the lasers go to L2 or L3 (R190, steps 3 and 4). -/
def execQuiesce (p : Nat) (s : State) : Host.Outcome State Fault Refusal :=
  .next ((s.modPortSt p fun t => { t with peerQuiesced := true }).endDescent p)

/-- `portLocked`: a relit port reaches lock and retrains: LINK_DELAY is measured, a free value, and the time-sync exchange
begins (R190, steps 6 and 7; R191). -/
def execPortLocked (p : Nat) (s : State) : Host.Outcome State Fault Refusal :=
  .next (
    if (s.portSt p).attempts = 0 ∨ s.laserTarget p ≥ 2 then s
    else
      let d := fld (Config.freeWord s.free) 0 16
      let s1 := (s.bump.enterLaser p (s.laserTarget p)).modPortSt p fun t =>
        { t with locked := true, attempts := 0, syncing := true }
      (s1.modReg (portReg p 0x340) fun w => put w 0 16 d).post (.timeSyncSend p))

/-- The port joins PORTS for its peer, parked no longer (R190, step 8). -/
def State.rejoin (s : State) (p : Nat) : State :=
  (s.joinPort p (fld (s.reg (portReg p 0x400)) 16 5)).modReg (portReg p 0x400) fun w => put w 21 1 0

/-- The time-sync exchange is over: RESUME is sent, and the port joins PORTS (R190, steps 7 and 8). -/
def State.endSync (s : State) (p : Nat) : State :=
  if (s.portSt p).syncing then ((s.modPortSt p fun t => { t with syncing := false }).symbol p 2 0).rejoin p else s

/-- `resume`: the peer's RESUME; a port in L0 or L1 carries flits again and is in PORTS for its peer, once its own time-sync
exchange is over (R190, step 8). -/
def execResume (p : Nat) (s : State) : Host.Outcome State Fault Refusal :=
  .next (
    if s.laserCur p ≤ 1 ∧ !(s.portSt p).syncing ∧ !(s.portSt p).down then
      (s.modPortSt p fun t => { t with quiesced := false, peerQuiesced := false }).rejoin p
    else s)

/-- Route entries that no port serves are cleared (R426). -/
def State.clearDead (s : State) : State := s.modRoutes fun w => if bit w 63 && fld w 0 48 == 0 then 0 else w

/-- `relightTimeout`: relighting is repeated up to 3 times; after that the port is parked in L2 (R426). -/
def execRelightTimeout (p : Nat) (s : State) : Host.Outcome State Fault Refusal :=
  .next (
    let n := (s.portSt p).attempts
    if n = 0 ∨ s.laserTarget p ≥ 2 then s
    else if n ≤ 3 then (s.modPortSt p fun t => { t with attempts := n + 1 }).afterTicks 50000 (.relightTimeout p)
    else
      (((((s.modPortSt p fun t => { t with attempts := 0 }).setTarget p 2).enterLaser p 2).parkPort p).dropPort p).clearDead)

/-- Flits of a window of 2^20 ticks at the full rate of L0 (R337, R339). -/
def l0Flits : Nat := 6553600

/-- `laserLoadWindow`: the end of a load window; windows count in the state that they bear on (R339). -/
def execLaserLoadWindow (p : Nat) (s : State) : Host.Outcome State Fault Refusal :=
  .next (
    let t := s.portSt p
    let c := s.laserCur p
    let low := if c = 0 ∧ t.flits * 4 < l0Flits then t.low + 1 else 0
    let idle := if c = 1 ∧ t.flits = 0 then t.idle + 1 else 0
    let s1 := (s.modPortSt p fun t => { t with flits := 0, low := low, idle := idle }).afterTicks (2 ^ 20) (.laserLoadWindow p)
    if s.laserTarget p ≠ c then s1
    else if c = 0 ∧ 8 ≤ low then (s1.setTarget p 1).moveLaser p
    else if c = 1 ∧ l0Flits * 2 < t.flits * 5 then (s1.setTarget p 0).moveLaser p
    else if c = 1 ∧ 64 ≤ idle then (s1.setTarget p 2).moveLaser p
    else s1)

/-! ## Lanes (R423 to R425) -/

/-- Takes a wavelength out of use, or, when fewer than 4 would stay active, takes the port out of every PORTS mask. -/
def State.drainLane (s : State) (p lane : Nat) : State := (s.beginDrain p lane).moveStripe p stripeFuel

/-- `portLanesDrain` (R425). -/
def execPortLanesDrain (p lane : Nat) (s : State) : Host.Outcome State Fault Refusal := .next (s.drainLane p lane)

/-- `restripe`: the peer's restripe symbol arrives. It completes the change that this port has under way; otherwise the peer
narrows the link, and this port answers with its own set (R338, R425). -/
def execRestripe (p : Nat) (lanes : BitVec 16) (s : State) : Host.Outcome State Fault Refusal :=
  .next (match (s.portSt p).stripe with
    | some st => (s.modPortSt p fun t => { t with stripe := some { st with heard := some lanes } }).moveStripe p stripeFuel
    | none =>
      let s1 := s.setLanes p (BitVec.ofNat 16 (s.lanes p) &&& peerLanes lanes)
      s1.sendRestripe p (carrying (BitVec.ofNat 16 (s1.lanes p)) (s1.laserCur p)))

/-- `fecReplay`: a codeword that the peer cannot correct is sent again from the replay buffer, where every flit stays until it
is acknowledged: nothing is lost, and nothing but time passes (R423). -/
def execFecReplay (_ : Nat) (s : State) : Host.Outcome State Fault Refusal := .next s

/-- `lockLoss`: the port drains the wavelength itself (R425). -/
def execLockLoss (p lane : Nat) (s : State) : Host.Outcome State Fault Refusal :=
  .next ((s.modReg (wlReg p lane) fun w => put w 2 1 0).drainLane p lane)

/-- AGE_INT sets: the quadrant's service tile is interrupted, reports on the management port and signals vector 0 of its
link (R424). -/
def State.ageInt (s : State) (p lane : Nat) : State :=
  let k := quadrantOf (.port p)
  let s1 := s.modReg (wlReg p lane) fun w => put w 3 1 1
  { s1 with msix := s1.msix ++ [(k, 0)], log := s1.log ++ [(0x40 + p, BitVec.ofNat 64 lane)] }

/-- Predicted hours until end of life (R424). -/
def State.eolHours (s : State) (p lane : Nat) : Nat := fld (s.reg (wlReg p lane + 8)) 0 16

/-- `ageHorizonCrossed` (R424). -/
def execAgeHorizonCrossed (p lane : Nat) (hours : BitVec 16) (s : State) : Host.Outcome State Fault Refusal :=
  .next (
    let s1 := s.modReg (wlReg p lane + 8) fun w => put w 0 16 hours.toNat
    if hours.toNat < fld (s.reg (portReg p 0x508)) 0 16 then s1.ageInt p lane else s1)

/-- AGE_HORIZON has been written: wavelengths now below it interrupt (R424). -/
def State.checkAges (s : State) (p : Nat) : State :=
  (List.range 16).foldl (fun s i =>
    if s.eolHours p i < fld (s.reg (portReg p 0x508)) 0 16 && !bit (s.reg (wlReg p i)) 3 then s.ageInt p i else s) s

/-! ## Time synchronisation (R191, R423) -/

/-- `timeSyncSend`: an idle symbol with the port's TIME, and the next within 1,024 ticks; L3 carries nothing (R337). -/
def execTimeSyncSend (p : Nat) (s : State) : Host.Outcome State Fault Refusal :=
  .next (
    let s1 : State :=
      if s.timers.any fun t => t.2 == .timeSyncSend p then s else s.afterTicks 1024 (.timeSyncSend p)
    if s.laserCur p = 3 then s1 else s1.symbol p 3 s.time)

/-- `timeSyncSymbol`: a value that differs by more than 2^16 ticks is ignored and counted; otherwise the counter rises
to the value plus LINK_DELAY when that exceeds it, and an exchange under way is over. L3 carries nothing (R190, R191, R337,
R423). -/
def execTimeSyncSymbol (p : Nat) (v : W64) (s : State) : Host.Outcome State Fault Refusal :=
  .next (
    let t := s.time.toNat
    let d := if t < v.toNat then v.toNat - t else t - v.toNat
    if s.laserCur p = 3 then s
    else if 2 ^ 16 < d then { s with log := s.log ++ [(0x80 + p, v)] }
    else
      let r := v.toNat + fld (s.reg (portReg p 0x340)) 0 16
      (if t < r ∧ r < 2 ^ 64 then { s with time := BitVec.ofNat 64 r } else s).endSync p)

/-! ## Row power (R336) -/

/-- A live region covers a row of tiles. -/
def State.rowCovered (s : State) (row : Nat) : Bool :=
  s.regions.any fun e => match e.2 with
    | some r => r.live && (rcbRect r.rcb).1 ≤ row && row < (rcbRect r.rcb).1 + (rcbRect r.rcb).2.2.1
    | none => false

/-- A write of ROW_PWR; STATE follows within 20 µs. ON goes to 0 only while no region covers the row. -/
def State.writeRowPwr (s : State) (row priv : Nat) (v mask : W64) : State :=
  let a := controlReg (0x100 + 8 * row)
  if !bit (regMerge (regInfo a) priv (s.reg a) v mask) 0 && s.rowCovered row then s
  else (s.regStore a priv v mask).afterTicks 20000 (.rowPowerSettled row)

/-- `rowPwrWrite`, by service firmware (R336). -/
def execRowPwrWrite (row : Nat) (v : W64) (s : State) : Host.Outcome State Fault Refusal :=
  .next (s.writeRowPwr row 2 v (BitVec.allOnes 64))

/-- `rowPowerSettled`: STATE follows ON; a row powered again has its local stores cleared (R83, R336). -/
def execRowPowerSettled (row : Nat) (s : State) : Host.Outcome State Fault Refusal :=
  .next (
    let a := controlReg (0x100 + 8 * row)
    let w := s.reg a
    let s1 := s.setReg a (put w 63 1 (fld w 0 1))
    if bit w 0 && !bit w 63 then (List.range 64).foldl (fun s c => s.lsClear (row * 64 + c) 0 0xC00000) s1 else s1)

end Sys2Proof.Machine
end

