-- ==== Sys2Proof/Machine/DeviceRegs.lean ====
section
/-! DEFINITION. Writes and reads of device registers with effects of their own (R3, R75, R76, R181, R336, R363, R382,
R418), and a job's removal at the blocks that its KILL writes reach (R363). -/

namespace Sys2Proof.Machine

open Bits

/-! ## Messages under way -/

/-- The message that an event carries. -/
def msgOf : Event → Option Msg
  | .meshRoute _ m | .readRequest m | .writeRequest m | .atomicRequest m | .engineCommand m | .mailboxPost m
  | .configurationWrite m | .readReply m | .writeAcknowledgement m | .atomicReply m | .orderedStreamAck m
  | .engineCompletion m | .bulkData m | .saddleMessage m | .reductionContribution _ _ m | .collectiveLaunchRecord _ m
  | .collectiveChunkData _ m | .collectiveChunkAck _ m | .escalation m | .guardReport m | .frameRepairRequest m
  | .reservedTypeMessage _ m | .tailKill _ m => some m
  | _ => none

/-- The event carries a message of a job. -/
def ofPid (pid : Nat) (e : Event) : Bool := match msgOf e with | some m => m.pid.toNat == pid | none => false

/-! ## Invalidation of translations (R75, R76) -/

def invalPid (v : W64) : Nat := fld v 0 16

/-- A cached translation matches an XLAT_INVAL value. -/
def Xlat.hit (x : Xlat) (v : W64) : Bool :=
  x.pid == invalPid v && (bit v 62 || x.vpn == (if x.big then fld v 16 39 * 2 ^ 16 / 2 ^ 29 else fld v 16 39))

/-- An invalidation starts: the value goes to all 64 stations. -/
def State.startInval (s : State) (v : W64) : State :=
  (List.range 64).foldl (fun s n => s.post (.xlatInvalMessage n v)) { s with inval := some (v, List.range 64) }

/-- `xlatInvalWrite`: a write while BUSY = 1 is held (R76). -/
def State.writeInval (s : State) (n : Nat) (v : W64) : State :=
  let v := v &&& (ones 62 1 ||| ones 16 39 ||| ones 0 16)
  let s1 := s.setReg (stationReg n 0x108) v
  if s1.inval.isSome then { s1 with invalQ := s1.invalQ ++ [(n, v)] } else s1.startInval v

def execXlatInvalWrite (n : Nat) (v : W64) (s : State) : Host.Outcome State Fault Refusal := .next (s.writeInval n v)

/-- `xlatInvalMessage`: the station removes the matching translations (R76). -/
def execXlatInvalMessage (n : Nat) (v : W64) (s : State) : Host.Outcome State Fault Refusal :=
  .next (
    let s1 := s.modStation n fun t => { t with xlat := t.xlat.filter fun x => !x.hit v, era := t.era + 1 }
    match s1.inval with
    | some (w, l) =>
      if w = v then
        let l' := l.filter fun k => k != n
        let s2 : State := { s1 with inval := some (w, l') }
        if l'.isEmpty then s2.post .xlatInvalDone else s2
      else s1
    | none => s1)

/-- An XLAT_INVAL value covers a translation of a job at a virtual address by a page of 64 KiB or 512 MiB. -/
def invalHits (v : W64) (pid va : Nat) (big : Bool) : Bool :=
  pid == invalPid v && va < 2 ^ 55 &&
    (bit v 62 || if big then va / 2 ^ 29 == fld v 16 39 * 2 ^ 16 / 2 ^ 29 else va / 2 ^ 16 == fld v 16 39)

/-- A matching access of a thread, translated before its station removed the translation (R76). -/
def State.oldAccess (s : State) (v : W64) (pid : Nat) (a : Access) : Bool :=
  let va := fld (a.elems.headD ⟨0, 0, 0, 1, 0, 0⟩).addr 0 55
  a.phys && !a.dev && invalHits v pid va a.big && a.era < (s.station (xlatStation pid va)).era

/-- The message carries such an access: a request on its way or held, or one that a redirect sends back. -/
def State.oldMsg (s : State) (v : W64) (m : Msg) : Bool :=
  match m.pay with | .access a => s.oldAccess v m.pid.toNat a | _ => false

/-- Accesses translated through a matching translation before its removal that have not performed: on their way, held at a
slice, redirected, at a service tile, gone to another module, or an engine's (R76). -/
def State.hasTranslated (s : State) (v : W64) : Bool :=
  let of (e : Event) : Bool := match msgOf e with | some m => s.oldMsg v m | none => false
  s.flight.any of || s.timers.any (fun t => of t.2) || s.stations.any (fun e => e.2.waiting.any of) ||
    s.services.any (fun e => e.2.reads.any (s.oldMsg v)) ||
    s.gone.any (fun a => s.oldAccess v (s.dom a.iss.tile a.iss.dom).pid a) ||
    s.stations.any fun e => e.2.far.any fun g => g.got.isNone && invalHits v g.pid g.va g.big && g.era < e.2.era

/-- `xlatInvalDone`: BUSY clears once every station has removed the translation and the job's translated accesses have
performed; a held write then starts (R76). -/
def execXlatInvalDone (s : State) : Host.Outcome State Fault Refusal :=
  .next (match s.inval with
    | some (v, []) =>
      if s.hasTranslated v then s.after 1 .xlatInvalDone
      else match s.invalQ with
        | [] => { s with inval := none }
        | x :: rest => ({ s with inval := none, invalQ := rest } : State).startInval x.2
    | _ => s)

/-! ## A register write (R3) -/

/-- What a write to an aligned register does: `v` in the bits of `mask`, at a privilege, by a job whose own PID alone it
may name in a graph when `free` is false (R447). -/
def State.regWrite (s : State) (a priv : Nat) (v mask : W64) (pid : BitVec 16) (free : Bool) : State :=
  let w := v &&& mask
  let load (n : Node) : State :=
    let s1 := s.regStore a priv v mask
    let x := s1.reg a
    (s1.setReg a (put x 63 1 1)).post (.collLoad n x pid free)
  match blockOf a with
  | (.station n, off) =>
    if off = 0x108 then s.writeInval n (regMerge (stationInfo 0x108) priv (s.reg a) v mask)
    else if off = 0x180 then s.post (.killWrite (.station n) (w.setWidth 16))
    else if off = 0x200 then load (.station n)
    else if off = 0x208 then s.post (.collStop (.station n) (fld w 0 4))
    else if off = 0xF20 then
      s.post (if bit w 63 then .engResolveAbandon (.station n) (fld w 0 4) else .engResolveRetry (.station n) (fld w 0 4))
    else s.regStore a priv v mask
  | (.port p, off) =>
    if off = 0x180 then s.post (.killWrite (.port p) (w.setWidth 16))
    else if off = 0x200 then load (.port p)
    else if off = 0x208 then s.post (.collStop (.port p) (fld w 0 4))
    else if off = 0x400 then s.writeLaser p priv v mask
    else if off = 0x500 then
      let s1 := s.regStore a priv v mask
      let new := fld (s1.reg a) 0 16
      let old := fld (s.reg a) 0 16
      ((List.range 16).filter fun i => new.testBit i && !old.testBit i).foldl (fun s i => s.post (.portLanesDrain p i)) s1
    else if off = 0x508 then (s.regStore a priv v mask).checkAges p
    else s.regStore a priv v mask
  | (.control, off) =>
    if 0x100 ≤ off ∧ off < 0x200 then s.writeRowPwr ((off - 0x100) / 8) priv v mask else s.regStore a priv v mask
  | (.router x y, off) =>
    if off = 0x180 then s.post (.killWrite (.router x y) (w.setWidth 16))
    else if off = 0x1C0 then
      let g := fld w 16 6
      let q := fld w 0 16
      match fld w 22 2 with
      | 1 => s.post (.redHoldHold x y g q)
      | 2 => s.post (.redHoldRelease x y g q)
      | 3 => s.post (.redHoldAbandon x y g q)
      | _ => s
    else s.regStore a priv v mask
  | _ => s.regStore a priv v mask

/-- `registerWrite`, by service firmware: with the effects of a write at service privilege (R3). -/
def execRegisterWrite (a : Nat) (v : W64) (s : State) : Host.Outcome State Fault Refusal :=
  .next (s.regWrite (a / 8 * 8) 2 v (BitVec.allOnes 64) 0 true)

/-- `rcRegisterRead`: the value is returned and the RC bits clear; a report that their leaving 0 makes can be made
again (R3). -/
def execRcRegisterRead (a : Nat) (s : State) : Host.Outcome State Fault Refusal := .next (s.clearRc (a / 8 * 8))

/-- The aligned register, the bit position in it, and the bits of an access of `n` bytes. -/
def regLane (pa n : Nat) : Nat × Nat × W64 :=
  (pa % 2 ^ 47 / 8 * 8, 8 * (pa % 8), BitVec.ofNat 64 ((2 ^ (8 * n) - 1) <<< (8 * (pa % 8))))

/-- A read of `n` bytes of a register, with its clearing of RC bits (R3). -/
def State.regRead (s : State) (pa n : Nat) : State × W64 :=
  let l := regLane pa n
  (s.clearRc l.1, (s.regValue l.1 &&& l.2.2) >>> l.2.1)

/-! ## Removal at a block (R363) -/

/-- A region covers a logical tile. -/
def rcbHas (r : BitVec 1024) (T : Nat) : Bool :=
  let q := rcbRect r
  q.1 ≤ T / 64 && T / 64 < q.1 + q.2.2.1 && q.2.1 ≤ T % 64 && T % 64 < q.2.1 + q.2.2.2

/-- What the removals of a PID under way cover: all of the job (`none`) or one region each; all when KILL was written
without a removal. -/
def State.killScopes (s : State) (pid : Nat) : List (Option Nat) :=
  match (s.removals.filter fun r => r.pid == pid).map (·.region) with
  | [] => [none]
  | l => l

/-- The tile lies in what a removal covers: all, or one region. -/
def State.inScope (s : State) (scopes : List (Option Nat)) (T : Nat) : Bool :=
  scopes.any fun scope => match scope with
    | none => true
    | some r => match s.regionOf r with | some x => rcbHas x.rcb T | none => false

/-- A tile resets a domain of a job: threads, queues, barriers, mailbox, accumulators and slot full bits (R363, item 4). -/
def State.resetDom (s : State) (T d : Nat) : State :=
  let dm := s.dom T d
  let s1 := (List.range dm.thrCount).foldl (fun s i => s.setThread T (dm.thrFirst + i) Thread.reset) s
  let s2 := (List.range 16).foldl (fun s b => if (s.bar T b).owner = d + 1 then s.setBar T b Barrier.reset else s) s1
  let s3 := (onesOf dm.slotMask.toNat 16).foldl (fun s n => s.setSlot T n { s.slot T n with full := false }) s2
  let s4 := (List.range 8).foldl (fun s p =>
    let q := s.port T p
    s.setPort T p { q with cur := q.cur.filter fun x => x.cmd.iss.dom != d
                           queue := q.queue.filter fun x => x.cmd.iss.dom != d }) s3
  let used (x : TxStream) : Bool := (s4.tile T).ports.any fun e =>
    (e.2.cur.any fun p => namesStream p.cmd x.stream) || e.2.queue.any fun p => namesStream p.cmd x.stream
  let dead := (s4.tile T).txStreams.filter fun x => !used x
  let s4 := (s4.modTile T fun t =>
    { t with txStreams := t.txStreams.filter used
             halves := t.halves.filter fun h => !(h.2.1.tile == T && h.2.1.dom == d) }).forgetRx (s.nodeOf T) dead
  let accs := onesOf dm.accMask.toNat 64
  let s5 : State := { s4 with acc := s4.acc.filter fun e => !(e.1 / 4096 / 64 == T && accs.contains (e.1 / 4096 % 64)) }
  let s6 := s5.modTile T fun t =>
    { t with feq := t.feq.filter fun q => match q.msg with
        | none => q.iss.dom != d
        | some m => m.pid.toNat != dm.pid }
  s6.setDom T d { Dom.reset with lastIss := dm.lastIss }

/-- Regions that the removals of a PID take away, by number. -/
def State.goneRegions (s : State) (pid : Nat) (scopes : List (Option Nat)) : List Nat :=
  scopes.flatMap fun scope => (s.removedRegions pid scope).map (·.1)

/-- A station stops the job's work (R363, item 5). -/
def State.killStation (s : State) (n pid : Nat) (scopes : List (Option Nat)) : State :=
  let whole := scopes.contains none
  let st := s.station n
  let mine (p T : Nat) : Bool := p == pid && s.inScope scopes T
  let gone := s.goneRegions pid scopes
  let bandGone (b : Nat) : Bool := match s.bandOf b with | some x => gone.contains x.region | none => true
  let lines := ((st.queue.filter fun q => mine q.2.1 q.1.iss.tile).flatMap fun q => q.2.2) ++
    st.engines.flatMap fun e => match e.2 with | some r => if mine r.pid r.cmd.iss.tile then r.lines else [] | none => []
  let s1 := s.setStation n
    { st with queue := st.queue.filter fun q => !mine q.2.1 q.1.iss.tile
              engines := st.engines.filter fun e => match e.2 with | some r => !mine r.pid r.cmd.iss.tile | none => false
              faults := st.faults.filter fun e => match e.2 with | some f => !mine f.pid f.tile | none => false
              graphs := if whole then st.graphs.filter fun g => hdrPid g.2.header != pid else st.graphs
              early := if whole then st.early.filter fun m => m.pid.toNat != pid else st.early
              xlat := if whole then st.xlat.filter fun x => x.pid != pid else st.xlat
              cursors := st.cursors.filter fun c => !bandGone c.band
              far := if whole then st.far.filter fun g => g.pid != pid else st.far
              waiting := if whole then st.waiting.filter fun e => !ofPid pid e else st.waiting }
  let s1 := s1.pruneTx n
  let s2 := s1.bands.foldl (fun s e => match e.2 with
    | some b => if gone.contains b.region then s.setBand e.1 (some { b with live := false }) else s
    | none => s) s1
  (s2.releaseLines lines).kickEngines n

/-- `killWrite` (R363, items 1 to 5). The removal of one region sweeps messages at the routers of its rectangle only
(log 84). -/
def execKillWrite (n : Node) (pid : BitVec 16) (s : State) : Host.Outcome State Fault Refusal :=
  .next (
    let p := pid.toNat
    let scopes := s.killScopes p
    let isRouter : Bool := match n with | .router _ _ => true | _ => false
    let s1 :=
      if isRouter || scopes.contains none then
        s.modRouter (nodeKey n) fun r =>
          { r with sweeps := (r.sweeps.filter fun x => x.1 != p) ++ [(p, s.mcycle + 2 ^ 15)]
                   ctxs := r.ctxs.filter fun c => c.pid != p
                   waitRed := r.waitRed.filter fun w => w.2.pid.toNat != p }
      else s
    let s2 := match n with
      | .router x y =>
        match s1.logical x y with
        | some T => match s1.domOf T p with | some d => s1.resetDom T d | none => s1
        | none => s1
      | .station k => s1.killStation k p scopes
      | .port q =>
        if scopes.contains none then s1.modPortSt q fun t =>
          { t with graphs := t.graphs.filter fun g => hdrPid g.2.header != p
                   early := t.early.filter fun m => m.pid.toNat != p }
        else s1
      | .service _ => s1
    s2.after (2 ^ 15) (.killSweepEnd n pid))

/-- `killSweepEnd`: the block contributes to the AND reduction; the last contribution confirms the removal (R363, items
3 and 6). -/
def execKillSweepEnd (n : Node) (pid : BitVec 16) (s : State) : Host.Outcome State Fault Refusal :=
  .next (
    let p := pid.toNat
    let r := s.router (nodeKey n)
    if r.sweeps.any fun x => x.1 == p && s.mcycle < x.2 then s
    else
      let s1 := s.setRouter (nodeKey n) { r with sweeps := r.sweeps.filter fun x => x.1 != p }
      let s2 : State := { s1 with removals := s1.removals.map fun q =>
        if q.pid = p then { q with blocks := q.blocks.filter fun b => b != n } else q }
      if s2.removals.any fun q => q.pid == p && q.blocks.isEmpty then s2.post (.removalConfirmed pid) else s2)

end Sys2Proof.Machine
end

