-- ==== Sys2Proof/Machine/Fence.lean ====
section
/-! DEFINITION. Heartbeats, accusations, quorum, seals and the fence set (R390 to R397), farrier tests and appeals (R421,
R422). -/

namespace Sys2Proof.Machine

open Bits

/-! ## Links of a router -/

/-- A tile link's number: 1 W, 2 N, 3 E, 4 S (R394). -/
def dirNo : Dir → Nat
  | .w => 1 | .n => 2 | .e => 3 | .s => 4
def dirOf (p : Nat) : Dir := if p = 1 then .w else if p = 2 then .n else if p = 3 then .e else .s

/-- The tile position beyond a link, inside the grid. -/
def tileBeyond (x y p : Nat) : Option (Nat × Nat) :=
  match neighbour (.router x y) p with
  | some (.router a b) => some (a, b)
  | _ => none

def State.setLink (s : State) (x y p v : Nat) : State := s.modReg (linkStat x y p) fun w => put w 16 3 v

/-- The positions inside the grid adjacent to a position. -/
def adjacent (x y : Nat) : List (Nat × Nat) := [1, 2, 3, 4].filterMap (tileBeyond x y)

/-- The live neighbours of an accused tile, as a router sees them (R395). -/
def State.liveAround (s : State) (x y ax ay : Nat) : List (Nat × Nat) :=
  (adjacent ax ay).filter fun q => !s.knowsFenced x y q.1 q.2

/-- The neighbours of an accused tile with which a neighbour shares a corner (R393). -/
def corners (x y ax ay : Nat) : List (Nat × Nat) :=
  (adjacent ax ay).filter fun q => q.1 != x && q.2 != y

/-- Every block of the module that holds a fence set (R397). -/
def allBlocks : List Node :=
  ((List.range 32).flatMap fun y => (List.range 66).map fun x => Node.router x y) ++ edgeBlocks ++
    (List.range 4).map Node.service

/-! ## Accusations (R391 to R395) -/

/-- Floods a fence notice. -/
def State.flood (s : State) (fx fy : Nat) (r : FenceReason) : State :=
  allBlocks.foldl (fun s n => s.post (.fenceNotice n fx fy r)) s

/-- A router seals its link to a tile and floods the notice, once quorum is reached (R395). -/
def State.checkQuorum (s : State) (x y ax ay : Nat) : State :=
  let r := s.router (y * 66 + x)
  let live := s.liveAround x y ax ay
  let held := r.accuse.filter fun a => a.ax == ax && a.ay == ay
  let votes := (live.filter fun q => held.any fun a => a.by_ == .router q.1 q.2).length
  let p := linkTo x y ax ay
  if s.linkState x y p ≠ 1 then s
  else if live.length ≤ 1 then
    if votes = 1 then s.after 65536 (.quorumHoldEnd x y ax ay) else s
  else if (if live.length = 4 then 3 else 2) ≤ votes then
    (s.setLink x y p 2).flood ax ay (match held.head? with | some a => a.reason | none => .silent)
  else s

/-- A router takes an accusation into its list and passes it on (R393). -/
def State.takeAccusation (s : State) (x y ax ay : Nat) (by_ : Node) (reason : FenceReason) (since : Nat) : State :=
  let r := s.router (y * 66 + x)
  if r.accuse.any fun a => a.ax == ax && a.ay == ay && a.by_ == by_ then s
  else
    let s1 := s.setRouter (y * 66 + x) { r with accuse := r.accuse ++ [⟨ax, ay, by_, reason, since⟩] }
    let s2 := (corners x y ax ay).foldl (fun s q => s.post (.accusation q.1 q.2 ax ay by_ reason)) s1
    (s2.after 65536 (.accusationExpiry x y ax ay by_)).checkQuorum x y ax ay

/-- Both ends of a link accuse each other again within the window after an accusation expired: a dead link (R395). -/
def State.deadLink (s : State) (x y p ax ay : Nat) : Bool :=
  let again (x y p : Nat) : Bool :=
    let t := Table.get 0 (s.router (y * 66 + x)).repeats p
    t != 0 && s.mcycle < t + 65536
  again x y p && (again ax ay (linkTo ax ay x y) || Table.get 0 (s.router (ay * 66 + ax)).mine (linkTo ax ay x y) != 0)

/-- Removes a router's own accusation through a link. -/
def State.clearMine (s : State) (x y p : Nat) : State :=
  s.modRouter (y * 66 + x) fun r => { r with mine := Table.set 0 r.mine p 0 }

/-- A router accuses the tile beyond a link (R391). -/
def State.accuse (s : State) (x y p : Nat) (reason : FenceReason) : State :=
  match tileBeyond x y p with
  | none => s
  | some (ax, ay) =>
    if s.linkState x y p ≠ 0 ∨ s.knowsFenced x y ax ay then s
    else if s.deadLink x y p ax ay then
      let q := linkTo ax ay x y
      let s1 := ((s.setLink x y p 4).setLink ax ay q 4).clearMine ax ay q
      { s1 with log := s1.log ++ [(0x37, 0)] }.notice (.router x y) 0 0x37 0
    else
      let s1 := (s.setLink x y p 1).modRouter (y * 66 + x) fun r => { r with mine := Table.set 0 r.mine p (s.mcycle + 1) }
      s1.takeAccusation x y ax ay (.router x y) reason s.mcycle

/-- A babbling event on a link: beyond the limit the router accuses; on probation it ends the appeal (R391, R421). -/
def State.countEvent (s : State) (x y p : Nat) : State :=
  if p = 0 ∨ 4 < p then s
  else
    let s1 := s.modReg (linkStat x y p) fun w => satAdd w 32 16 1
    if s1.linkState x y p = 3 then s1.setLink x y p 2
    else if fld (s1.reg (routerReg x y 0x200)) 0 16 < fld (s1.reg (linkStat x y p)) 32 16 then s1.accuse x y p .babbling
    else s1

/-- `accusation` (R393). -/
def execAccusation (x y ax ay : Nat) (by_ : Node) (r : FenceReason) (s : State) : Host.Outcome State Fault Refusal :=
  .next (if s.knowsFenced x y ax ay then s else s.takeAccusation x y ax ay by_ r s.mcycle)

/-- A withdrawn accusation leaves a router's list and goes on as it came (R393). -/
def State.dropAccusation (s : State) (x y ax ay : Nat) (by_ : Node) : State :=
  let r := s.router (y * 66 + x)
  let same (a : Accuse) : Bool := a.ax == ax && a.ay == ay && a.by_ == by_
  if r.accuse.any same then
    let s1 := s.setRouter (y * 66 + x) { r with accuse := r.accuse.filter fun a => !same a }
    (corners x y ax ay).foldl (fun s q => s.post (.accusationWithdrawal q.1 q.2 ax ay by_)) s1
  else s

/-- `accusationWithdrawal` (R393). -/
def execAccusationWithdrawal (x y ax ay : Nat) (by_ : Node) (s : State) : Host.Outcome State Fault Refusal :=
  .next (s.dropAccusation x y ax ay by_)

/-- `accusationExpiry`: an accusation 65,536 mesh cycles old goes; the router that made it may accuse again (R393,
R395). -/
def execAccusationExpiry (x y ax ay : Nat) (by_ : Node) (s : State) : Host.Outcome State Fault Refusal :=
  .next (
    let r := s.router (y * 66 + x)
    let old (a : Accuse) : Bool := a.ax == ax && a.ay == ay && a.by_ == by_ && a.since + 65536 ≤ s.mcycle
    let p := linkTo x y ax ay
    if !(r.accuse.any old) ∨ (s.liveAround x y ax ay).length ≤ 1 then s
    else
      let s1 := s.setRouter (y * 66 + x) { r with accuse := r.accuse.filter fun a => !old a }
      if by_ ≠ .router x y ∨ s.linkState x y p ≠ 1 then s1
      else
        let s2 := (s1.setLink x y p 0).modRouter (y * 66 + x) fun r =>
          { r with mine := Table.set 0 r.mine p 0, repeats := Table.set 0 r.repeats p s.mcycle }
        s2.post (.silenceAccusation x y (dirOf p)))

/-- `quorumHoldEnd`: the accusation of the only live neighbour has been held for a further window (R395). -/
def execQuorumHoldEnd (x y ax ay : Nat) (s : State) : Host.Outcome State Fault Refusal :=
  .next (
    let r := s.router (y * 66 + x)
    let p := linkTo x y ax ay
    match r.accuse.find? fun a => a.ax == ax && a.ay == ay && a.by_ == .router x y with
    | some a =>
      if s.linkState x y p = 1 ∧ (s.liveAround x y ax ay).length = 1 ∧ a.since + 65536 ≤ s.mcycle then
        (s.setLink x y p 2).flood ax ay a.reason
      else s
    | none => s)

/-! ## Heartbeats (R390, R391) -/

/-- A position sends heartbeats on a link: its unit works, and the link is neither sealed nor dead. -/
def State.beats (s : State) (x y p : Nat) : Bool :=
  let r := s.router (y * 66 + x)
  !r.silent && (s.linkState x y p ≤ 1 || s.linkState x y p == 3 || r.sealed) && s.linkState x y p != 4

/-- `heartbeatSend` (R390). -/
def execHeartbeatSend (x y : Nat) (s : State) : Host.Outcome State Fault Refusal :=
  .next (
    let s1 := (s.after 4096 (.heartbeatSend x y)).modRouter (y * 66 + x) fun r => { r with heard := [] }
    [1, 2, 3, 4].foldl (fun s p =>
      match tileBeyond x y p with
      | some (ax, ay) => if s.beats x y p then s.post (.heartbeat ax ay (dirOf (linkTo ax ay x y))) else s
      | none => s) s1)

/-- `heartbeat`: the missed count restarts, and an accusation of the router's own is withdrawn (R391, R393); a seal
discards it. -/
def execHeartbeat (x y : Nat) (d : Dir) (s : State) : Host.Outcome State Fault Refusal :=
  .next (
    let p := dirNo d
    if s.linkState x y p = 2 ∨ s.linkState x y p = 4 then s
    else
      let k := y * 66 + x
      let n := Table.get 0 (s.router k).heard p + 1
      let s1 := (s.modRouter k fun r => { r with heard := Table.set 0 r.heard p n, beat := Table.set 0 r.beat p (s.mcycle + 1) }).after
        12288 (.silenceAccusation x y d)
      let s1 := if s.linkState x y p = 3 then s1.after 4097 (.silenceAccusation x y d) else s1
      let s2 := if 2 < n then s1.countEvent x y p else s1
      match tileBeyond x y p with
      | some (ax, ay) =>
        if n ≤ 2 ∧ s2.linkState x y p = 1 then
          ((s2.setLink x y p 0).clearMine x y p).dropAccusation x y ax ay (.router x y)
        else s2
      | none => s2)

/-- `silenceAccusation`: 3 whole intervals without a heartbeat; on probation this ends the appeal (R391, R421). -/
def execSilenceAccusation (x y : Nat) (d : Dir) (s : State) : Host.Outcome State Fault Refusal :=
  .next (
    let p := dirNo d
    let b := Table.get 0 (s.router (y * 66 + x)).beat p
    if s.linkState x y p = 3 then (if s.mcycle + 1 ≤ b + 4096 then s else s.setLink x y p 2)
    else if s.mcycle + 1 < b + 12288 then s
    else s.accuse x y p .silent)

/-- `babbleWindowEnd` (R391). -/
def execBabbleWindowEnd (x y : Nat) (d : Dir) (s : State) : Host.Outcome State Fault Refusal :=
  .next ((s.modReg (linkStat x y (dirNo d)) fun w => put w 32 16 0).after 65536 (.babbleWindowEnd x y d))

/-- `flitRetry`: the flit is sent again from the link's buffer; after 3 failed retries the receiver accuses the sender
(R392). -/
def execFlitRetry (x y : Nat) (d : Dir) (failed : Nat) (s : State) : Host.Outcome State Fault Refusal :=
  .next (
    let p := dirNo d
    let s1 := (s.modReg (linkStat x y p) fun w => satAdd w 48 16 1).countEvent x y p
    if 3 ≤ failed then s1.accuse x y p .babbling else s1)

/-- `selfFence`: the tile seals its links and floods a notice about itself (R396). -/
def execSelfFence (x y : Nat) (s : State) : Host.Outcome State Fault Refusal :=
  .next ((s.modRouter (y * 66 + x) fun r => { r with sealed := true }).flood x y .self)

/-! ## Re-admission (R421, R422) -/

/-- `farrierTest`: a tile that has passed sends an appeal symbol on each sealed link, at most 3 times in a power cycle. -/
def execFarrierTest (x y : Nat) (passed : Bool) (s : State) : Host.Outcome State Fault Refusal :=
  .next (
    let pos := y * 66 + x
    let n := Table.get 0 s.appeals pos
    if !s.isFenced x y ∨ !passed ∨ 3 ≤ n then s
    else
      let s1 : State := { s with appeals := Table.set 0 s.appeals pos (n + 1) }
      let s2 := s1.modRouter pos fun r => { r with sealed := true, silent := false, votes := [] }
      [1, 2, 3, 4].foldl (fun s p =>
        match tileBeyond x y p with
        | some (ax, ay) => s.post (.appeal ax ay (dirOf (linkTo ax ay x y)))
        | none => s) s2)

/-- `appeal`: the neighbour puts the link on probation for 2^20 mesh cycles (R421). -/
def execAppeal (x y : Nat) (d : Dir) (s : State) : Host.Outcome State Fault Refusal :=
  .next (
    let p := dirNo d
    if s.linkState x y p ≠ 2 then s
    else
      let s1 := (s.setLink x y p 3).modReg (linkStat x y p) fun w => put w 32 16 0
      let s2 := s1.modRouter (y * 66 + x) fun r => { r with beat := Table.set 0 r.beat p (s.mcycle + 1) }
      (s2.after (2 ^ 20) (.probationEnd x y d)).after 4097 (.silenceAccusation x y d))

/-- `probationEnd`: the neighbour votes; the last vote floods the re-admission (R421). -/
def execProbationEnd (x y : Nat) (d : Dir) (s : State) : Host.Outcome State Fault Refusal :=
  .next (
    let p := dirNo d
    match tileBeyond x y p with
    | none => s
    | some (ax, ay) =>
      if s.linkState x y p ≠ 3 then s
      else
        let key := ay * 66 + ax
        let vs := (s.router key).votes.filter (fun v => v != linkTo ax ay x y) ++ [linkTo ax ay x y]
        let s1 := s.modRouter key fun r => { r with votes := vs }
        let live := s.liveAround x y ax ay
        if live.all fun q => vs.contains (linkTo ax ay q.1 q.2) then
          allBlocks.foldl (fun s n => s.post (.readmissionNotice n ax ay)) s1
        else s1)

/-- `readmissionNotice`: the entry leaves the fence set, and its links come up again; the tile is a spare (R421). -/
def execReadmissionNotice (n : Node) (fx fy : Nat) (s : State) : Host.Outcome State Fault Refusal :=
  .next (
    let s1 := s.modRouter (nodeKey n) fun r => { r with fences := Table.set 0 r.fences (fy * 66 + fx) 0 }
    match n with
    | .router x y =>
      if x = fx ∧ y = fy then
        let s2 := s1.modRouter (y * 66 + x) fun r => { r with sealed := false, votes := [] }
        let s3 := match s2.logical x y with | some T => s2.modTile T fun t => { t with fenced := false } | none => s2
        [1, 2, 3, 4].foldl (fun s p => s.setLink x y p 0) s3
      else if (adjacent fx fy).contains (x, y) then s1.setLink x y (linkTo x y fx fy) 0
      else s1
    | _ => s1)

end Sys2Proof.Machine
end

