-- ==== Sys2Proof/Machine/Messages.lean ====
section
/-! DEFINITION. Requests at their homes and replies at their requesters (R65, R70, R71, R77 to R82, R84, R86, R95, R97,
R257, R261, R315, R380, R384, R402, R439), and messages on the mesh (R140 to R143, R391, R392, R400, R401, R434, R439 to
R441). -/

namespace Sys2Proof.Machine

open Bits

/-! ## Answering -/

/-- Prefetches are issued for no thread (R255). -/
def isPrefetch (a : Access) : Bool := 16 ≤ a.iss.hw

/-- Answers a request; a prefetch has no answer. -/
def State.answer (s : State) (src : Node) (m : Msg) (a : Access) (status cause : Nat) (ea : W64) (es : List Elem) : State :=
  if isPrefetch a then s else s.send (replyTo m src status cause ea es a.iss)

/-- The address that a failure of an access reports: its first element's. -/
def Access.ea (a : Access) : W64 := (a.elems.headD ⟨0, 0, 0, 1, 0, 0⟩).addr

/-- Location of an access: its first element's. -/
def Access.loc (a : Access) : Nat := (a.elems.headD ⟨0, 0, 0, 1, 0, 0⟩).loc.toNat

/-- The event by which a request is performed. -/
def requestEvent (m : Msg) : Event :=
  if m.typ = 1 then .readRequest m else if m.typ = 2 then .writeRequest m else .atomicRequest m

/-! ## At the translation station (R71 to R74, R380) -/

/-- Rights that an access needs: read, write. -/
def rightsOf : AccKind → Bool × Bool
  | .read => (true, false)
  | .write => (false, true)
  | _ => (true, true)

/-- The request with physical addresses, towards its home, by the station's copy of the bucket table; it carries the number
of invalidations that the station has seen (R70, R76, R78, R79). -/
def State.toHome (s : State) (n : Nat) (m : Msg) (a : Access) (x : Xlat) : State :=
  let es := a.elems.map fun e => { e with loc := BitVec.ofNat 64 (x.phys e.loc.toNat) }
  let a' : Access := { a with elems := es, phys := true, cache := BitVec.ofNat 2 (pteCache x.leaf), shr := bit x.leaf 9,
                              era := (s.station n).era, big := x.big }
  let pa := Access.loc a'
  let go (d : Node) : State := s.post (.meshRoute (.station n) { m with dst := d, pay := .access a' })
  if moduleOf pa ≠ s.module.toNat then
    ({ s with gone := if isPrefetch a then s.gone else s.gone ++ [a'] } : State).post
      (.meshRoute (.station n) (s.abroad (moduleOf pa) { m with dst := .station n, pay := .access a' }))
  else match placeOf pa with
    | .dram b => go (.station (s.bucketCopy n (s.bucketOf m.pid.toNat a'.shr b)))
    | .host k _ => go (.service k)
    | _ => s.answer (.station n) m a 0 0x0A (Access.ea a) []

/-- A global access reaches its translation station. -/
def State.serveXlat (s : State) (n : Nat) (m : Msg) (a : Access) : State :=
  let va := Access.loc a
  match s.translate n m.pid.toNat va with
  | (s1, .wait) => s1.holdAt n (requestEvent m)
  | (s1, .fault) => s1.answer (.station n) m a 0 0x0A (Access.ea a) []
  | (s1, .lost p) => (s1.noticeLost n m.pid.toNat p).answer (.station n) m a 0 0x13 (Access.ea a) []
  | (s1, .ok x) =>
    let r := rightsOf a.kind
    if !x.okAddr va then s1.answer (.station n) m a 0 0x0A (Access.ea a) []
    else if !x.allows r.1 r.2 (a.iss.priv == 0) (isAtomic a.kind) then s1.answer (.station n) m a 0 0x0B (Access.ea a) []
    else match s1.setAD n x r.2 with
      | (s2, true) => s2.toHome n m a x
      | (s2, false) => s2.holdAt n (requestEvent m)

/-! ## At a slice (R77, R79, R82, R86, R95, R104, R372, R384) -/

/-- A redirect names the new station; the requester is the translating station, or the tile for a device access. -/
def State.redirect (s : State) (n : Nat) (m : Msg) (a : Access) (new : Nat) : State :=
  if isPrefetch a then s
  else
    let dst : Node := if a.dev then m.src else .station (xlatStation m.pid.toNat (fld (Access.ea a) 0 55))
    s.send { m with typ := m.typ + 7, src := .station n, dst := dst,
                    arg := BitVec.ofNat 32 (2 ^ 31 + 2 ^ 24 + new % 64 * 65536 + m.arg.toNat % 65536),
                    pay := .access { a with retried := true } }

/-- The slice that serves a bucket for an access that reaches station n: itself, a redirect, or a wait. -/
inductive Serve where
  | here
  | hold
  | other (n : Nat)
deriving DecidableEq, Repr

def State.serveAt (s : State) (n b : Nat) : Serve :=
  match s.move with
  | some m =>
    if m.bucket = b then
      if m.state = 0 then (if n = m.old then .hold else .other m.old)
      else if n = m.new then .here
      else if n = m.old then .other m.new
      else .other (s.bucketCopy n b)
    else if s.bucketStation b = n then .here else .other (s.bucketStation b)
  | none => if s.bucketStation b = n then .here else .other (s.bucketStation b)

/-- The notice of a station at which a use has found a line lost that was not known to be. -/
def State.noticeFound (s s1 : State) (n line : Nat) (m : Msg) : State :=
  let known (s : State) : Bool := (s.lostAt line).isSome || s.lostOver line
  if !known s && known s1 then s1.noticeLost n m.pid.toNat (lineAddr line) else s1

/-- The issuing domain of an access of a thread of this module. -/
def ownerOf (m : Msg) (a : Access) : Option (Nat × Nat) := if a.dev || m.away.isSome then none else some (a.iss.tile, a.iss.dom)

/-- A read through bucket b, with the L1 allocation of a load that misses; a copy in the requester's ways serves a lost
line (R77, R431). -/
def State.sliceRead (s : State) (n line b : Nat) (m : Msg) (a : Access) : State :=
  let pid := m.pid.toNat
  let alloc := a.cache.toNat < 2
  let value (s : State) (e : Elem) : Elem :=
    { e with data := BitVec.ofNat 64 (ofBytes (s.readMem (e.loc.toNat % 2 ^ 47) e.size)) }
  let own := !a.dev && a.cache == 0 && m.away.isNone && m.src == s.nodeOf a.iss.tile
  if own && !isPrefetch a && s.l1Hit a.iss.tile a.iss.dom line then
    (s.countBucket b).answer (.station n) m a 0 0 (Access.ea a) (a.elems.map (value s))
  else match s.lineIn pid line b alloc with
    | (s1, .wait) => s1.holdAt n (requestEvent m)
    | (s1, .lost) => ((s1.countBucket b).noticeLost n pid (lineAddr line)).answer (.station n) m a 0 0x13 (Access.ea a) []
    | (s1, .ok) =>
      let s2 := if own && a.iss.hw ≠ 17 then s1.fillL1 line a.iss.tile a.iss.dom else s1
      (s2.countBucket b).answer (.station n) m a 0 0 (Access.ea a) (a.elems.map (value s2))

/-- A store through bucket b: bytes of one line as one step in its coherence order (R95). -/
def State.sliceWrite (s : State) (n line b : Nat) (m : Msg) (a : Access) : State :=
  let ws := a.elems.map fun e => (e.loc.toNat % 2 ^ 47, toBytes e.size e.data.toNat)
  match s.lineWrite m.pid.toNat line b ws (a.cache.toNat < 2) (ownerOf m a) with
  | (s1, .ok) => ((s.noticeFound s1 n line m).countBucket b).answer (.station n) m a 0 0 (Access.ea a) []
  | (s1, .wait) => (s.noticeFound s1 n line m).holdAt n (requestEvent m)
  | (s1, .lost) => (s1.countBucket b).answer (.station n) m a 0 0x13 (Access.ea a) []

/-- An atomic at the slice through bucket b (R86, R257). -/
def State.sliceAmo (s : State) (n line b : Nat) (m : Msg) (a : Access) (op : AmoOp) (e : Elem) : State :=
  let pid := m.pid.toNat
  let alloc := a.cache.toNat < 2
  let lost (s : State) : State :=
    ((s.countBucket b).noticeLost n pid (lineAddr line)).answer (.station n) m a 0 0x13 (Access.ea a) []
  match s.lineIn pid line b alloc with
  | (s1, .wait) => s1.holdAt n (requestEvent m)
  | (s1, .lost) => lost s1
  | (s1, .ok) =>
    match s1.lineOut pid line b alloc with
    | (s2, .wait) => s2.holdAt n (requestEvent m)
    | (s2, .lost) => lost s2
    | (s2, .ok) =>
      let x := e.loc.toNat % 2 ^ 47
      let old := ofBytes (s2.readMem x e.size)
      let new := amoNew op e.size old (e.data.toNat % 2 ^ (8 * e.size)) (e.cmp.toNat % 2 ^ (8 * e.size))
      (((s2.recallL1 line none).writeMem x (toBytes e.size new)).countBucket b).answer (.station n) m a 0 0 (Access.ea a)
        [{ e with data := BitVec.ofNat 64 old }]

/-- A request for DRAM reaches station n. -/
def State.serveSlice (s : State) (n : Nat) (m : Msg) (a : Access) : State :=
  let pa := Access.loc a % 2 ^ 47
  let line := pa / 128
  let b := s.bucketOf m.pid.toNat (a.shr || a.dev) pa
  match s.serveAt n b with
  | .hold => s.holdAt n (requestEvent m)
  | .other k =>
    if m.away.isSome then s.post (.meshRoute (.station n) { m with dst := .station k }) else s.redirect n m a k
  | .here =>
    if s.isOwned line then s.holdAt n (requestEvent m)
    else match a.kind, a.elems with
      | .read, _ => s.sliceRead n line b m a
      | .write, _ => s.sliceWrite n line b m a
      | .amo op, e :: _ => s.sliceAmo n line b m a op e
      | _, _ => s.answer (.station n) m a 0 0x06 (Access.ea a) []

/-! ## Registers, local stores, apertures -/

/-- The writer's job may name other jobs (R438, R447); only such a writer reaches another module's registers. -/
def State.isFree (s : State) (m : Msg) (i : Issuer) : Bool := m.away.isSome || (s.dom i.tile i.dom).jobPriv || 2 ≤ i.priv

/-- An access to device registers of a block (R3, R67). -/
def State.serveRegs (s : State) (n : Node) (m : Msg) (a : Access) : State :=
  match a.kind with
  | .read =>
    let r := a.elems.foldl (fun (acc : State × List Elem) e =>
      let x := acc.1.regRead e.loc.toNat e.size
      (x.1, acc.2 ++ [{ e with data := x.2 }])) (s, [])
    r.1.answer n m a 0 0 (Access.ea a) r.2
  | .write =>
    let s1 := a.elems.foldl (fun s e =>
      let l := regLane e.loc.toNat e.size
      s.regWrite l.1 a.iss.priv (e.data <<< l.2.1) l.2.2 m.pid (s.isFree m a.iss)) s
    s1.answer n m a 0 0 (Access.ea a) []
  | _ => s.answer n m a 0 0x06 (Access.ea a) []

/-- PERM_MASK bit that a kind of access needs (R65). -/
def permBit : AccKind → Nat
  | .read => 0
  | .write => 1
  | _ => 2

/-- An access to the local store of tile T: a full-empty access may wait at its word (R65, R84). -/
def State.serveStore (s : State) (T : Nat) (m : Msg) (a : Access) : State :=
  let n := s.nodeOf T
  let off (e : Elem) : Nat := e.loc.toNat % 2 ^ 47 % 0x1000000
  match a.kind, a.elems with
  | .fe fm ld, e :: _ =>
    match s.feTry T (off e) fm ld e.data with
    | none => s.modTile T fun t => { t with feq := t.feq ++ [⟨off e, fm, ld, e, a.iss, some m⟩] }
    | some (_, none) => s.answer n m a 0 0x13 e.addr []
    | some (s1, some v) => (s1.answer n m a 0 0 e.addr [{ e with data := v }]).feWake T (off e) ((s1.tile T).feq.length + 1)
  | .feSet full, e :: _ => (s.answer n m a 0 0 e.addr []).feChange T (off e) full
  | k, es =>
    let r := es.foldl (fun (acc : State × List Elem × Option W64) e =>
      match acc.1.lsAct T (off e) k e with
      | (s1, some v) => (s1, acc.2.1 ++ [{ e with data := v }], acc.2.2)
      | (s1, none) => (s1, acc.2.1, acc.2.2.or (some e.addr))) (s, [], none)
    match r.2.2 with
    | some ea => r.1.answer n m a 0 0x13 ea []
    | none => r.1.answer n m a 0 0 (Access.ea a) r.2.1

/-- The job is being removed, or is no more: what arrives of it at a tile without its domain meets a dead destination; where
a job of the module has no domain on the tile it is refused (R363, R384). -/
def State.noDomain (s : State) (pid : Nat) : Nat :=
  if (s.removals.any fun r => r.pid == pid) || (s.jobOf pid).isNone then 0x02 else 0x05

/-- The access writes in the code area of a domain of the tile without being one of the tile's own threads' (R196). -/
def State.toCode (s : State) (T : Nat) (m : Msg) (a : Access) : Bool :=
  (match a.kind with | .read | .feTest | .feSet _ => false | .fe _ ld => !ld | _ => true) && (a.iss.tile != T || m.away.isSome) &&
    (s.tile T).doms.any fun e => e.2.present && a.elems.any fun x =>
      e.2.touchesCode (x.loc.toNat % 2 ^ 47 % 0x1000000) x.size

/-- A request reaches a tile (R65, R67, R196, R363, R384, R400). -/
def State.serveTile (s : State) (x y : Nat) (m : Msg) (a : Access) : State :=
  match s.logical x y with
  | none => s.answer (.router x y) m a 0x02 0 (Access.ea a) []
  | some T =>
    match placeOf (Access.loc a) with
    | .regs _ => s.serveRegs (.router x y) m a
    | _ =>
      if (s.tile T).fenced then s.answer (.router x y) m a 0x02 0 (Access.ea a) []
      else if s.toCode T m a then s.answer (.router x y) m a 0x06 0 (Access.ea a) []
      else if a.dev then s.serveStore T m a
      else match s.domOf T m.pid.toNat with
        | none => s.answer (.router x y) m a (s.noDomain m.pid.toNat) 0 (Access.ea a) []
        | some d =>
          let dm := s.dom T d
          if !permits dm [permBit a.kind] then s.answer (.router x y) m a 0x05 0 (Access.ea a) []
          else if a.elems.any fun e => !dm.holds (e.loc.toNat % 2 ^ 47 % 0x1000000) e.size then
            s.answer (.router x y) m a 0x06 0 (Access.ea a) []
          else s.serveStore T m a

/-- A request reaches a service tile: an aperture (R70), or a register block that answers there. -/
def State.serveService (s : State) (k : Nat) (m : Msg) (a : Access) : State :=
  match placeOf (Access.loc a), a.kind, a.elems with
  | _, .read, [] => (s.modService k fun v => { v with reads := v.reads ++ [m] }).post (.pcieReadCompletion k)
  | .host _ _, .read, _ => (s.modService k fun v => { v with reads := v.reads ++ [m] }).post (.pcieReadCompletion k)
  | .host j _, .write, es =>
    let s1 := es.foldl (fun s e => match placeOf e.loc.toNat with
      | .host _ x => { s with hostMem := Memory.write s.hostMem (j * 2 ^ 64 + x) (toBytes e.size e.data.toNat) }
      | _ => s) s
    s1.answer (.service k) m a 0 0 (Access.ea a) []
  | .host _ _, _, _ => s.answer (.service k) m a 0 0x0B (Access.ea a) []
  | _, _, _ => s.serveRegs (.service k) m a

/-- A read, write, atomic or full-empty request is performed where it has arrived. -/
def State.serve (s : State) (m : Msg) : State :=
  match m.pay with
  | .access a =>
    match m.dst with
    | .router x y => s.serveTile x y m a
    | .station n =>
      if !a.phys then s.serveXlat n m a
      else match placeOf (Access.loc a) with
        | .dram _ => s.serveSlice n m a
        | .regs x => if s.regNode x = .station n then s.serveRegs (.station n) m a
          else s.post (.meshRoute (.station n) { m with dst := s.regNode x })
        | .none => s.answer (.station n) m a 0 0x06 (Access.ea a) []
        | _ => s.post (.meshRoute (.station n) { m with dst := s.physNode n (Access.loc a) })
    | .port p => s.serveRegs (.port p) m a
    | .service k => s.serveService k m a
  | _ => s

def execReadRequest (m : Msg) (s : State) : Host.Outcome State Fault Refusal := .next (s.serve m)
def execWriteRequest (m : Msg) (s : State) : Host.Outcome State Fault Refusal := .next (s.serve m)
def execAtomicRequest (m : Msg) (s : State) : Host.Outcome State Fault Refusal := .next (s.serve m)

/-! ## Replies at the requester (R97, R257, R344, R384, R402, R439) -/

/-- The cause that a reply status gives (R384, R402, R439). -/
def statusCause (st : Nat) : Nat :=
  if st = 2 ∨ st = 3 then 0x18 else if st = 4 ∨ st = 5 then 0x08 else if st = 6 then 0x09 else 0

/-- The cause of a reply: its own, or its status's. -/
def whyOf (r : Reply) : Nat := if r.cause ≠ 0 then r.cause else statusCause r.status

/-- An access has performed; an acquire's hold ends with the last of them (R100). -/
def Thread.perform (t : Thread) (seq : Nat) : Thread :=
  let o := t.outst.filter fun x => x.seq != seq
  { t with outst := o, hold := t.hold && !o.isEmpty }

/-- Instructions that read a record or a payload first and go on with it (R307, R308, R310, R311). -/
def goesOn : Instr → Bool
  | .xfer _ _ _ | .sbind _ _ _ _ | .redput _ _ _ | .coll _ _ _ => true
  | _ => false

/-- Every reply that an instruction waits for has come: it traps, goes on, or writes its result and retires (R97, R354). -/
def State.replied (s : State) (T h : Nat) : State :=
  let t := s.thread T h
  if t.outst.any (·.wait) then s
  else match t.run, t.after with
    | .parked _ _, some (c, v) => (s.setThread T h { t with after := none }).trap T h c v
    | .parked _ _, none =>
      match t.bad with
      | _ :: _ => s.trap T h (firstBad t.bad).1 (firstBad t.bad).2
      | [] =>
        match t.pend with
        | some i =>
          if goesOn i then s.setThread T h { t with run := .ready }
          else s.finish T h (loadWrite (modeCols (s.tile T).mode) i t.got)
        | none => s
    | _, _ => s

/-- A reply to a thread's access; one that has gone to another module is back (R76). -/
def State.threadReply (s0 : State) (src : Node) (m : Msg) (r : Reply) : State :=
  let s : State := if s0.gone.isEmpty then s0 else { s0 with gone := s0.gone.filter fun a => a.iss != r.iss }
  let T := r.iss.tile
  let h := r.iss.hw
  let t := s.thread T h
  match t.outst.find? fun x => x.seq == r.iss.seq with
  | none => s
  | some o =>
    if m.dst ≠ s.nodeOf T then s
    else if (s.dom T (s.domNo T h)).pid ≠ m.pid.toNat ∧ m.pid ≠ 0 then s
    else
      let t1 := t.perform o.seq
      let t2 := match src with | .service k => if m.typ = 9 ∧ whyOf r = 0 ∧ m.pid ≠ 0 then { t1 with unfl := put t1.unfl k 1 1 } else t1 | _ => t1
      if o.wait then
        (s.setThread T h { t2 with got := t2.got ++ (if whyOf r = 0 then r.elems else [])
                                   bad := t2.bad ++ (if whyOf r = 0 then [] else [(whyOf r, r.ea)]) }).replied T h
      else
        let s1 := s.setThread T h t2
        if whyOf r = 0 then s1 else s1.faultReport T r.iss.dom (whyOf r) r.ea r.iss.pc (s1.nodeOf T)

/-- The tile at a node, by logical number. -/
def State.tileAt (s : State) : Node → Option Nat
  | .router x y => s.logical x y
  | _ => none

/-- The copy of the bucket table that a requester uses: a station's, or a tile's network interface's (R79). -/
def State.copyOf (s : State) : Node → Nat
  | .station k => k
  | n => 64 + (s.tileAt n).getD 0

/-- A requester writes a bucket's new station into its own copy of the table (R384). -/
def State.learnMove (s : State) (copy : Nat) : State :=
  { s with move := s.move.map fun v => if v.own.contains copy then v else { v with own := v.own ++ [copy] } }

/-- A redirected access is sent again to the new station, which the requester's copy of the table names from then on (R384).
-/
def State.resend (s0 : State) (at_ : Node) (m : Msg) (a : Access) : State :=
  let s := s0.learnMove (s0.copyOf at_)
  let m' : Msg := { m with typ := m.typ - 7, src := s.nodeOf a.iss.tile, dst := .station (fld m.arg 16 6),
                           arg := BitVec.ofNat 32 (2 ^ 31 + m.arg.toNat % 65536), pay := .access a }
  s.post (.meshRoute at_ m')

/-- A refused post is held by its sender and tried again every 64 mesh cycles (R355). -/
def State.holdPost (s : State) (m : Msg) (r : Reply) : State :=
  let T := r.iss.tile
  let d := r.iss.dom
  (s.modDom T d fun v => { v with held := v.held ++ [⟨m, r.ea, s.mcycle⟩] }).after 64 (.mailboxRetry T d)

/-! ## Posts and configuration writes -/

/-- `mailboxPost` (R261, R384). -/
def execMailboxPost (m : Msg) (s : State) : Host.Outcome State Fault Refusal :=
  .next (match m.dst, m.pay with
    | .router x y, .post d0 d1 ea iss =>
      let back (s : State) (st : Nat) : State :=
        s.send (replyTo m (.router x y) st 0 ea [] iss)
      match s.logical x y with
      | none => back s 2
      | some T =>
        if (s.tile T).fenced then back s 2
        else match s.domOf T m.pid.toNat with
          | none => back s (s.noDomain m.pid.toNat)
          | some d =>
            if !permits (s.dom T d) [1] then back s 5
            else
              let e := mboxEntry 1 0 (fld m.arg 0 16) (nodeKind m.src) (nodeX m.src) (nodeY m.src) m.sdom.toNat s.time d0 d1
              match s.enterMbox T d e with
              | some s1 => back s1 0
              | none => s.send { m with typ := 9, src := m.dst, dst := m.src,
                                        arg := BitVec.ofNat 32 (m.arg.toNat % 2 ^ 16 + 7 * 2 ^ 24) }
    | _, _ => s)

/-- Every register of every hardware thread of a tile reads zero (R315). -/
def State.clearThreads (s : State) (T : Nat) : State := s.modTile T fun t => { t with threads := [] }

/-- An element that carries a status to x[d]. -/
def statusElem (v : Nat) : Elem := ⟨0, 0, 0, 8, BitVec.ofNat 64 v, 0⟩

/-! ## The mesh (R134, R140 to R143, R391, R400, R434, R439 to R441) -/

/-- A request (class Q) that goes no further is answered (R400, R439); bulk data are acknowledged with the same status. -/
def State.deadEnd (s : State) (by_ : Node) (m : Msg) (status : Nat) : State :=
  match m.pay with
  | .access a => s.answer by_ m a status 0 (Access.ea a) []
  | .post _ _ ea iss => s.send (replyTo m by_ status 0 ea [] iss)
  | .config _ _ _ iss => s.send (replyTo m by_ status 0 0 [] iss)
  | .bulk _ unit iss _ =>
    if m.typ ≠ 0x18 ∨ (!m.ordered ∧ m.seq = 0xFFFF#16) then s
    else s.send (if m.ordered then bulkAck m status unit iss else { bulkAck m status unit iss with src := by_ })
  | .bytes _ =>
    if m.typ ≠ 0x1A then s
    else s.send { m with typ := 0x0D, src := m.dst, dst := m.src, seq := 0, away := backAway m, pay := .words (BitVec.ofNat 64 status) 0 }
  | _ => s

/-! ### Routes (R141, R142, R404) -/

/-- The edge ring in clockwise order (R142). -/
def ring : List Node :=
  (List.range 32).map Node.station ++ [.service 2] ++ (List.range 24).map (fun i => Node.port (24 + i)) ++ [.service 3] ++
    (List.range 32).map (fun i => Node.station (63 - i)) ++ [.service 1] ++
    (List.range 24).map (fun i => Node.port (23 - i)) ++ [.service 0]

/-- The next block of the ring on the shorter way, clockwise on a tie. -/
def ringHop (a b : Node) : Node :=
  let i := ring.idxOf a
  let j := ring.idxOf b
  let cw := (j + 116 - i) % 116
  (ring[if cw ≤ 58 then (i + 1) % 116 else (i + 115) % 116]?).getD a

/-- The port station nearest to `p` on its edge whose attachment router is live. -/
def State.livePort (s : State) (p : Nat) : Nat :=
  let b := p / 24 * 24
  ((List.range 24).findSome? fun k =>
    if b + k ≤ p ∧ !s.isFenced (portCol (p - k)) (portRow p) then some (p - k)
    else if p + k < b + 24 ∧ !s.isFenced (portCol (p + k)) (portRow p) then some (p + k) else none).getD p

/-- A tile's row joins the port station directly (R142). -/
def onPortRow (p y : Nat) : Bool := y == portRow p

/-- The column by which a tile's message leaves towards an edge block: its own station's, else the nearer, west on a
tie. -/
def exitCol (dst : Node) (sx sy : Nat) : Nat :=
  match dst with
  | .station n => if n % 32 = sy then (if n < 32 then 0 else 65) else if sx ≤ 65 - sx then 0 else 65
  | _ => if sx ≤ 65 - sx then 0 else 65

/-- The next block on a message's way (R141, R142, R404). -/
def State.nextHop (s : State) (at_ : Node) (m : Msg) : Option Node :=
  match at_, m.dst with
  | .router x y, .router dx dy => (s.gridHop x y dx dy).map fun q => .router q.1 q.2
  | .router x y, dst =>
    let sy := match m.src with | .router _ b => b | _ => y
    let sx := match m.src with | .router a _ => a | _ => x
    match dst with
    | .port p =>
      if onPortRow p sy then
        let q := s.livePort p
        if x = portCol q ∧ y = portRow q then some (.port q)
        else (s.gridHop x y (portCol q) (portRow q)).map fun q => .router q.1 q.2
      else
        let c := exitCol dst sx sy
        let r := s.liveRow c sy
        if x = c ∧ y = r then some (.station (if c = 0 then r else 32 + r))
        else (s.gridHop x y c r).map fun q => .router q.1 q.2
    | _ =>
      let c := exitCol dst sx sy
      let r := s.liveRow c sy
      if x = c ∧ y = r then some (.station (if c = 0 then r else 32 + r))
      else (s.gridHop x y c r).map fun q => .router q.1 q.2
  | a, .router dx dy =>
    let direct : Option Node := match a with
      | .port p => if onPortRow p dy ∧ m.src = a then some (.router (portCol (s.livePort p)) (portRow p)) else none
      | _ => none
    match direct with
    | some n => some n
    | none =>
      let c := if dx ≤ 65 - dx then 0 else 65
      let r := s.liveRow c dy
      let e : Node := .station (if c = 0 then r else 32 + r)
      if a = e then some (.router c r) else some (ringHop a e)
  | a, d => some (ringHop a d)

/-! ### Guards and partitioned links (R143, R434, R439 to R441) -/

/-- The domain by whose region and fabric the guards of a tile's region judge a message of a job. -/
def State.guardDom (s : State) (T pid : Nat) : Option Dom :=
  let ds := ((s.tile T).doms.filter fun e => e.2.present).map (·.2)
  (ds.find? fun d => d.pid == pid).or ds.head?

/-- Where the guards of the two ends of a hop drop the message: the router and the output port. R67's rights to the device
window do not open the guards (log 83). -/
def State.guardDrop (s : State) (a b : Node) (m : Msg) : Option (Node × Nat) :=
  match m.src, m.dst, s.tileAt m.dst with
  | .router _ _, .router _ _, some T =>
    let inReg (d : Dom) (n : Node) : Bool :=
      match s.regionOf d.region, s.tileAt n with
      | some r, some t => rcbHas r.rcb t
      | _, _ => false
    let out : Option (Node × Nat) :=
      match s.tileAt m.src, s.tileAt a with
      | some S, some _ =>
        match s.guardDom S m.pid.toNat with
        | some d => if inReg d a && !inReg d b && !d.tileInFabric T then some (a, portOut a b) else none
        | none => none
      | _, _ => none
    match out with
    | some x => some x
    | none =>
      match s.tileAt b with
      | none => none
      | some t =>
        match s.guardDom t m.pid.toNat with
        | some d =>
          if inReg d b && !inReg d a && !d.tileInFabric T then
            some (b, match s.nextHop b m with | some c => portOut b c | none => 0)
          else none
        | none => none
  | _, _, _ => none

/-- A partitioned output port has no position for the message's job (R432, R434). -/
def State.linkDrop (s : State) (a b : Node) (m : Msg) : Bool :=
  let base := nodeReg a 0x300
  let tdm := s.reg (nodeReg a (0x308 + 8 * portOut a b))
  tdm != 0 && m.pid != 0 &&
    !((List.range 4).any fun i => (s.reg base).extractLsb' (16 * i) 16 == m.pid)

/-- A guard's counters and last drop; the first after a read is reported (R440, R441). -/
def State.countDrop (s : State) (n : Node) (port : Nat) (m : Msg) : State :=
  match n with
  | .router x y =>
    let a := routerReg x y 0x240
    let old := s.reg a
    let tno (n : Node) : Nat := match n with | .router _ _ => (s.tileAt n).getD 0xFFF | _ => 0xFFF
    let last := BitVec.ofNat 64 (m.pid.toNat * 2 ^ 48 + tno m.src * 2 ^ 36 + tno m.dst * 2 ^ 24 + m.typ.toNat * 2 ^ 16 +
      classOf m.typ.toNat * 2 ^ 14 + port * 2 ^ 11)
    let s1 := (s.setReg a (satAdd (satAdd old 32 32 1) 0 32 (msgFlits m))).setReg (routerReg x y 0x248) last
    if fld old 32 32 = 0 then
      s1.send { blockMsg n (.service (quadrant x y)) 0x22 m.pid.toNat 0 (.words last 0) with sdom := m.sdom }
    else s1
  | _ => s

/-- A guard drops a message: the count, and the answer that its class has (R439). -/
def State.dropAt (s : State) (n : Node) (port : Nat) (m : Msg) : State := (s.countDrop n port m).deadEnd n m 0x04

/-- The link by which a message reached a router. -/
def inPort (at_ : Node) (m : Msg) : Nat :=
  match at_, m.src with
  | .router x y, .router sx sy => if sx < x then 1 else if x < sx then 3 else if sy < y then 2 else if y < sy then 4 else 0
  | .router x _, _ => if x < 33 then 1 else 3
  | _, _ => 0

/-- `tailKill`: an open message ends with no effect (R401). -/
def execTailKill (_n : Node) (_m : Msg) (s : State) : Host.Outcome State Fault Refusal := .next s

/-- `reservedTypeMessage`: discarded, and counted against the link by which it came (R391). -/
def execReservedTypeMessage (n : Node) (m : Msg) (s : State) : Host.Outcome State Fault Refusal :=
  .next (match n with
    | .router x y => s.countEvent x y (inPort n m)
    | _ => s)

end Sys2Proof.Machine
end

