-- ==== Sys2Proof/Machine/TileEvents.lean ====
section
/-! DEFINITION. The tile's own events: the slot table's rotation (R52, R53), the end of `waitc` (R244), handler entry
(R346, R350), withdrawn full-empty waits (R356, R385), the park watchdog (R361) and refused mailbox messages (R355). -/

namespace Sys2Proof.Machine

open Bits

/-! ## The slot table (R53) -/

/-- Of the candidates (domain, score), the one of largest score, ties to the lower domain. -/
def bestOf (l : List (Nat × Int)) : Option Nat :=
  (l.foldl (fun (b : Option (Nat × Int)) x => match b with
    | none => some x
    | some y => if y.2 < x.2 then some x else some y) none).map (·.1)

/-- Quotas of the domains: floors of 16 * weight / total, and the entries left to the largest remainders. -/
def quotas (ws : List (Nat × Nat)) : List (Nat × Nat) :=
  let total := ws.foldl (fun a w => a + w.2) 0
  let e := ws.map fun w => (w.1, 16 * w.2 / total)
  let left := 16 - e.foldl (fun a w => a + w.2) 0
  let extra := (List.range left).foldl (fun (got : List Nat) _ =>
    match bestOf ((ws.filter fun w => !got.contains w.1).map fun w => (w.1, ((16 * w.2 % total : Nat) : Int))) with
    | some d => got ++ [d]
    | none => got) []
  e.map fun x => (x.1, x.2 + if extra.contains x.1 then 1 else 0)

/-- Smooth round-robin placement of the quotas over 16 positions. -/
def placeSlots (e : List (Nat × Nat)) : List Nat :=
  ((List.range 16).foldl (fun (acc : List (Nat × Int) × List Nat) _ =>
    let c := acc.1.map fun x => (x.1, x.2 + ((e.find? fun y => y.1 == x.1).map fun y => (y.2 : Int)).getD 0)
    match bestOf c with
    | some d => (c.map fun x => if x.1 = d then (x.1, x.2 - 16) else x, acc.2 ++ [d])
    | none => (c, acc.2)) (e.map fun x => (x.1, (0 : Int)), [])).2

/-- SLOT0 to SLOT15 for the weights of the domains present. -/
def slotTable (ws : List (Nat × Nat)) : Tbl (BitVec 3) :=
  if (ws.foldl (fun a w => a + w.2) 0) = 0 then []
  else ((placeSlots (quotas ws)).zipIdx).map fun x => (x.2, BitVec.ofNat 3 (4 + x.1))

/-- Weights of the domains present on a tile. -/
def State.weights (s : State) (T : Nat) : List (Nat × Nat) :=
  (List.range 4).filterMap fun d => if (s.dom T d).present then some (d, (s.dom T d).weight) else none

/-- Ways of the L1 cache by domain, from its slot-table entries e[d] of 16: shares of 10 e[d] / 16 by largest remainder, and
for a domain left with none one of the domain with the most, ties to the lower domain (R431). -/
def wayShares (e : List (Nat × Nat)) : List (Nat × Nat) :=
  let q := e.map fun x => (x.1, 10 * x.2 / 16)
  let left := 10 - q.foldl (fun a x => a + x.2) 0
  let extra := (List.range left).foldl (fun (got : List Nat) _ =>
    match bestOf ((e.filter fun x => !got.contains x.1).map fun x => (x.1, ((10 * x.2 % 16 : Nat) : Int))) with
    | some d => got ++ [d]
    | none => got) []
  let shares := q.map fun x => (x.1, x.2 + if extra.contains x.1 then 1 else 0)
  shares.foldl (fun acc x =>
    if (acc.find? fun y => y.1 == x.1).all fun y => y.2 != 0 then acc
    else match bestOf (acc.map fun y => (y.1, (y.2 : Int))) with
      | some m => acc.map fun y => if y.1 = m then (y.1, y.2 - 1) else if y.1 = x.1 then (y.1, 1) else y
      | none => acc) shares

/-- The owners of the ways, dealt out in ascending domain order (R431; log 147). -/
def wayOwners (e : List (Nat × Nat)) : List Nat := (wayShares e).flatMap fun x => List.replicate x.2 x.1

/-- A tile at a rotation boundary: its table is rewritten and with it the division of its L1 ways, of which those that change
owner lose their lines; threads whose `yield` has retired before return (R53, R245, R431). -/
def State.rotate (s : State) (T : Nat) : State :=
  let ws := s.weights T
  let ways := if (ws.foldl (fun a w => a + w.2) 0) = 0 then [] else wayOwners (quotas ws)
  s.modTile T fun t =>
    { t with table := slotTable ws, ways := ways, l1 := t.l1.filter fun c => t.ways[c.1]? == ways[c.1]?
             threads := t.threads.map fun e =>
               (e.1, if e.2.yielded ∧ e.2.readyAt < s.tcycle then { e.2 with yielded := false } else e.2) }

/-- `slotTableRotation`. -/
def execSlotTableRotation (s : State) : Host.Outcome State Fault Refusal :=
  .next ((Table.keys s.tiles).foldl State.rotate s)

/-! ## Threads -/

/-- The destination register of `waitc`. -/
def waitcDest : Option Instr → Nat
  | some (.waitc _ d _ _) => d.toNat
  | _ => 0

/-- `waitcExpiry`: TIME has reached the target; x[d] is TIME (R244). -/
def execWaitcExpiry (T h : Nat) (s : State) : Host.Outcome State Fault Refusal :=
  .next (match (s.thread T h).run with
    | .parked (.waitc v) _ =>
      if v.toNat ≤ s.time.toNat then s.finish T h fun t => t.wx (waitcDest t.pend) s.time else s
    | _ => s)

/-- `handlerEntry`: the 8 tile cycles outside the rotation have passed; the thread runs its handler, or has stopped
(R346, R350). -/
def execHandlerEntry (T h : Nat) (s : State) : Host.Outcome State Fault Refusal :=
  .next (s.modThread T h fun t =>
    match t.run with
    | .entering 0 => { t with run := .ready }
    | .entering _ => { t with run := .stopped }
    | _ => t)

/-- `feLimitExpiry`: the request of a wait that has lasted FE_LIMIT tile cycles is withdrawn and the thread takes 0x0C;
when its word is elsewhere, once the owning tile has acknowledged (R356, R385). -/
def execFeLimitExpiry (T h since : Nat) (s : State) : Host.Outcome State Fault Refusal :=
  .next (match (s.thread T h).run with
    | .parked (.fe ea) c =>
      if c ≠ since then s
      else
        let s1 := s.withdraw T h
        if (s1.thread T h).run = .ready then s1.trap T h 0x0C ea
        else if s1.flight.contains (.waitWithdrawalAck T h) then
          s1.modThread T h fun t => { t with after := some (0x0C, ea) }
        else s1
    | _ => s)

/-- `waitWithdrawalAck`: the request no longer stands at its word; the thread is free of its wait (R356). -/
def execWaitWithdrawalAck (T h : Nat) (s : State) : Host.Outcome State Fault Refusal :=
  .next (
    let t := s.thread T h
    match t.run with
    | .parked (.fe _) _ =>
      let s1 := s.setThread T h
        { t with run := .ready, pend := none, got := [], bad := [], missed := false, after := none
                 outst := t.outst.filter fun x => !x.wait }
      match t.after with
      | some (c, v) => s1.trap T h c v
      | none => s1
    | _ => s)

/-! ## The park watchdog (R361) -/

/-- A parked thread has an instruction in flight, and does not wait for others: for replies, or for its own accesses (R54,
R97, R366). -/
def Wait.inFlight : Wait → Bool
  | .reply | .prior | .same | .loads => true
  | _ => false

/-- Every started thread of the domain is parked, stopped or done, and one of them is parked. -/
def State.allParked (s : State) (T d : Nat) : Bool :=
  let dm := s.dom T d
  let runs := (List.range dm.nThreads).map fun i => (s.thread T (dm.thrFirst + i)).run
  let parked (r : Run) : Bool := match r with | .parked w _ => !w.inFlight | _ => false
  runs.any parked && runs.all fun r => parked r || r == .stopped || r == .done

def State.parkLimit (s : State) (T d : Nat) : Nat := fld (s.reg (tileReg T (0x100 + 8 * d))) 0 32

/-- `parkWatchdog`: FIRED is set and notice 0x30 is sent; no thread wakes. -/
def execParkWatchdog (T d since : Nat) (s : State) : Host.Outcome State Fault Refusal :=
  .next (
    let a := tileReg T (0x100 + 8 * d)
    let l := s.parkLimit T d
    if l = 0 ∨ bit (s.reg a) 63 ∨ (s.dom T d).idleAt ≠ some since ∨ s.tcycle < since + l ∨ !s.allParked T d then s
    else (s.modReg a fun v => put v 63 1 1).escalate T d 0 0x30 0 (BitVec.ofNat 64 l) 0)

/-! ## Refused mailbox messages (R176, R355) -/

/-- One more attempt of a held message: `none` when it is refused again. -/
def State.retryHeld (s : State) (T d : Nat) (x : Held) : Option State :=
  match x.msg.pay with
  | .post d0 d1 ea iss =>
    match s.tileAt x.msg.dst with
    | none => some (s.faultReport T d 0x18 ea iss.pc (s.nodeOf T))
    | some R =>
      match s.domOf R x.msg.pid.toNat with
      | none => some (s.faultReport T d 0x08 ea iss.pc (s.nodeOf T))
      | some e =>
        if !permits (s.dom R e) [1] then some (s.faultReport T d 0x08 ea iss.pc (s.nodeOf T))
        else s.enterMbox R e (mboxEntry 1 0 (fld x.msg.arg 0 16) (nodeKind x.msg.src) (nodeX x.msg.src) (nodeY x.msg.src)
          x.msg.sdom.toNat s.time d0 d1)
  | .done mkind status d0 d1 =>
    s.enterMbox T d (mboxEntry mkind status (fld x.msg.arg 0 16) (nodeKind x.msg.src)
      (nodeX x.msg.src) (nodeY x.msg.src) (match x.msg.src with | .router _ _ => d | _ => 0) s.time d0 d1)
  | _ => some s

/-- `mailboxRetry`: every message that the domain's network interface holds is tried again, and those refused stay
(R355). -/
def execMailboxRetry (T d : Nat) (s : State) : Host.Outcome State Fault Refusal :=
  .next (
    let held := (s.dom T d).held
    let s1 := held.foldl (fun s x =>
      match s.retryHeld T d x with
      | some s' => s'.modDom T d fun v => { v with held := v.held.erase x }
      | none => s) s
    if (s1.dom T d).held.isEmpty ∨ s1.timers.any (fun t => t.2 == .mailboxRetry T d) then s1
    else s1.after 64 (.mailboxRetry T d))

end Sys2Proof.Machine
end

