-- ==== Sys2Proof/Machine/Bands.lean ====
section
/-! DEFINITION. Bands: the scroll's arithmetic (R27 to R30), folding, the tiles of a band row, stage records, what a tile
waits for before a step (R40), waves admitted (R42, R46). -/

namespace Sys2Proof.Machine

open Bits

/-! ## Fields of a band's RCB (R20) -/

def Band.height (b : Band) : Nat := fld b.rcb 661 5 + 1
def Band.stages (b : Band) : Nat := fld b.rcb 640 16
def Band.waves (b : Band) : Nat := fld b.rcb 704 32
def Band.firstWave (b : Band) : Nat := fld b.rcb 736 32
def Band.gaitMin (b : Band) : Nat := fld b.rcb 768 32
def Band.gaitMax (b : Band) : Nat := fld b.rcb 800 32
def Band.saddleInit (b : Band) : Nat := fld b.rcb 832 64
def Band.saddleOut (b : Band) : Nat := fld b.rcb 896 64
def Band.histBase (b : Band) : Nat := fld b.rcb 960 64
def Band.pid (b : Band) : Nat := rcbPid b.rcb
def Band.width (b : Band) : Nat := (rcbRect b.rcb).2.2.2
def Band.col0 (b : Band) : Nat := (rcbRect b.rcb).2.1
def Band.accKeep (b : Band) : Nat := fld b.rcb 448 64
/-- REPLAY and SM_TRAP of the effective FD_POLICY (R349). -/
def Band.replays (b : Band) : Bool := bit b.rcb 42
def Band.smTrap (b : Band) : Bool := bit b.rcb 43

/-! ## The fold and the schedule (R28, R29) -/

/-- The row offset of band row j. -/
def foldRow (bh j : Nat) : Nat := if 2 * j ≤ bh - 1 then 2 * j else 2 * (bh - 1 - j) + 1

/-- The logical row of band row j. -/
def Band.rowOf (b : Band) (j : Nat) : Nat := (rcbRect b.rcb).1 + fld b.rcb 656 5 + foldRow b.height j

/-- The logical tiles of band row j, by ascending column. -/
def Band.rowTiles (b : Band) (j : Nat) : List Nat :=
  (List.range b.width).map fun c => b.rowOf j * 64 + b.col0 + c

def Band.rows (b : Band) : List Nat := List.range b.height
def Band.tiles (b : Band) : List Nat := b.rows.flatMap b.rowTiles

/-- Waves that the band runs, when that is bounded (R30, R46). -/
def Band.total (b : Band) : Option Nat :=
  match b.stopWave with
  | some n => some (if b.waves = 0 then n else Nat.min n b.waves)
  | none => if b.waves = 0 then none else some b.waves

def Band.admits (b : Band) (w : Nat) : Bool := match b.total with | some n => w < n | none => true

/-- The step at which wave w runs stage s. -/
def Band.tau (b : Band) (w s : Nat) : Nat := s + w % b.height + b.stages * (w / b.height)

/-- The stage and wave that band row j runs at step t, if any. -/
def Band.runAt (b : Band) (t j : Nat) : Option (Nat × Nat) :=
  if t < j then none
  else
    let w := j + b.height * ((t - j) / b.stages)
    if b.admits w then some ((t - j) % b.stages, w) else none

/-- The step that starts next. -/
def Band.nextStep (b : Band) : Nat := if b.started then b.step + 1 else 0

/-- The first wave whose first step lies after the present one (R46). -/
def Band.firstOut (b : Band) : Nat :=
  if !b.started then 0
  else
    let g := b.step / b.stages
    let m := b.step % b.stages
    b.height * g + Nat.min b.height (m + 1)

/-- The last step of the band (R30). -/
def Band.lastStep (b : Band) : Option Nat :=
  match b.total with
  | some 0 => none
  | some n => some (b.tau (n - 1) (b.stages - 1))
  | none => none

/-! ## Stage records (R31, R32) -/

/-- The record of stage s, as it stands in memory; none while a line of it is lost or held. -/
def State.stageRec (s : State) (b : Band) (st : Nat) : Option (BitVec 2048) :=
  (s.fwRead (fld b.rcb 512 64 + 256 * st) 256).map fun l => BitVec.ofNat 2048 (ofBytes l)

def recSaddle (r : BitVec 2048) : Nat := fld r 40 13
def recThreads (r : BitVec 2048) : Nat := fld r 0 5
def recTable (r : BitVec 2048) : Nat := fld r 512 64
/-- Feedback edge i of a record. -/
def recEdge (r : BitVec 2048) (i : Nat) : BitVec 64 := r.extractLsb' (576 + 64 * i) 64

/-- Counting keys of a saddle for a step and of a feedback edge (R40, R44). -/
def saddleKey (t : Nat) : Nat := 16 + t % 2
def edgeKey (stage idx : Nat) : Nat := 32 + 4 * stage + idx

/-- What a tile of band row j has to receive before step t: keys and bytes (R40). -/
def State.expects (s : State) (b : Band) (t j : Nat) : List (Nat × Nat) :=
  match b.runAt t j with
  | none => []
  | some (st, w) =>
    let size := match s.stageRec b st with | some r => recSaddle r | none => 4096
    (saddleKey t, size) :: (b.edges.filter fun e => e.to_ == st && e.k ≤ w % b.height).map fun e => (edgeKey st e.idx, e.len)

/-! ## Bands by tile -/

/-- The number of the band that a domain runs, and the band. -/
def State.bandAt (s : State) (T d : Nat) : Option (Nat × Band) :=
  let n := (s.dom T d).band
  if n = 0 then none else (s.bandOf (n - 1)).map fun b => (n - 1, b)

/-- The domain of a band on a tile. -/
def State.bandDom (s : State) (n T : Nat) : Option Nat :=
  (List.range 4).find? fun d => (s.dom T d).present && (s.dom T d).band == n + 1

/-- The tiles of a band row that are not fenced (R398). -/
def State.liveTiles (s : State) (b : Band) (j : Nat) : List Nat := (b.rowTiles j).filter fun T => !(s.tile T).fenced

/-- A tile has entered the run of its row at the present step. -/
def State.inRun (s : State) (n T st w t : Nat) : Bool :=
  match s.bandDom n T with
  | some d =>
    let v := s.dom T d
    v.stage.toNat == st && v.wave.toNat == (v.firstWave + w) % 2 ^ 32 && v.step.toNat == t && v.srec != 0
  | none => false

/-- A tile of a row has finished its run of the step (R36). -/
def State.ranOut (s : State) (n T st w t : Nat) : Bool :=
  s.inRun n T st w t && match s.bandDom n T with | some d => !(s.dom T d).running | none => false

/-- Tries to start the next step. -/
def State.kick (s : State) (n : Nat) : State := s.post (.stepStart n)

/-! ## Saddle history (R38) -/

/-- The history entry of the saddle that band row j produces at step t in column c. -/
def Band.histEntry (b : Band) (t j c : Nat) : Nat :=
  b.histBase + ((t % (2 * b.stages) * b.height + j) * b.width + c) * b.stride

/-- The address of an initial saddle (R37) or a final one (R39). -/
def Band.slotOf (b : Band) (base st c : Nat) : Nat := base + (st * b.width + c) * 4096
/-- The address of a kept accumulator image (R39). -/
def Band.accSlot (b : Band) (base k : Nat) : Nat := base + b.stages * b.width * 4096 + k * 16384

/-- The accumulator image of a tile: 64 rows of 64 words (R39, R296). -/
def State.accBytes (s : State) (T n : Nat) : List Byte :=
  (List.range 64).flatMap fun r => (List.range 64).flatMap fun c => toBytes 4 (s.accAt T n r c).toNat
def State.setAccBytes (s : State) (T n : Nat) (b : List Byte) : State :=
  ((chunks 4 4096 b).zipIdx).foldl (fun s w => s.setAcc T n (w.2 / 64) (w.2 % 64) (BitVec.ofNat 32 (ofBytes w.1))) s

/-- A tier engine of a station parks its stream at a fault; the row's stage domain and the job's launch are told
(R381). -/
def State.parkTier (s : State) (n pid stage T d cause va : Nat) (write : Bool) (resume : Event) : State :=
  s.parkStream n { va := BitVec.ofNat 64 va, engine := 1, unit := 0, write := write, cause := cause - 0x0A, pid := pid,
                   group := 0, hold := false, rseq := 0, id := stage, tile := T, dom := d, resume := some resume }

end Sys2Proof.Machine
end

