-- ==== Sys2Proof/Machine/Jobs.lean ====
section
/-! DEFINITION. Replies and notices (R57, R352, R353), escalation (R349 to R351, R441), draining (R46), freeing what a
region holds, the end of a launch (R57) and the end of a removal (R363). -/

namespace Sys2Proof.Machine

open Bits

/-! ## Request records, replies and notices (R56, R57, R352) -/

def reqCode (r : BitVec 512) : Nat := fld r 0 8
def reqTag (r : BitVec 512) : Nat := fld r 16 16
def reqMsix (r : BitVec 512) : Nat := fld r 32 16
/-- REPLY_ADDR with its low 5 bits taken as zero (R448). -/
def reqReply (r : BitVec 512) : Nat := fld r 64 64 / 32 * 32
def reqPtr (r : BitVec 512) : Nat := fld r 128 64
def reqImage (r : BitVec 512) : Nat := fld r 192 64
def reqLen (r : BitVec 512) : Nat := fld r 256 32

/-- Host memory behind the link of a service tile. -/
def State.hostWrite (s : State) (k a : Nat) (b : List Byte) : State :=
  { s with hostMem := Memory.write s.hostMem (k * 2 ^ 64 + a) b }
def State.hostRead (s : State) (k a n : Nat) : List Byte := Memory.read s.hostMem (k * 2 ^ 64 + a) n

/-- The 32 bytes of a reply (R57). -/
def replyBytes (code status tag : Nat) (time : W64) : List Byte :=
  toBytes 32 (code % 256 + status % 256 * 2 ^ 8 + tag % 65536 * 2 ^ 16 + time.toNat * 2 ^ 64)

/-- Writes a reply of a request, `off` bytes above REPLY_ADDR, and signals its vector (R57). -/
def State.putReply (s : State) (k : Nat) (r : BitVec 512) (off code status : Nat) : State :=
  let s1 := s.hostWrite k (reqReply r + off) (replyBytes code status (reqTag r) s.time)
  { s1 with msix := s1.msix ++ [(k, reqMsix r)] }

/-- Answers a request with its own CODE; the window goes on with its next one (R108, R193). -/
def State.answerReq (s : State) (k : Nat) (r : BitVec 512) (status : Nat) : State :=
  (s.putReply k r 0 (reqCode r) status).modService k fun v =>
    if v.busy = some r then { v with busy := none, copy := none, waits := [] } else v

/-- What a notice says (R352). -/
structure Notice where
  val    : W64
  pc     : Nat
  tile   : Nat
  dom    : Nat
  hw     : Nat
  cause  : Nat
  action : Nat

def noticeBytes (n : Notice) (tag : Nat) (time : W64) : List Byte :=
  toBytes 32 (0x82 + tag % 65536 * 2 ^ 16 + time.toNat * 2 ^ 64 + n.action % 4 * 2 ^ 134 + n.cause % 64 * 2 ^ 136 +
    n.hw % 16 * 2 ^ 142 + n.dom % 4 * 2 ^ 146 + n.tile % 4096 * 2 ^ 148 + n.pc % 2 ^ 32 * 2 ^ 160 + n.val.toNat * 2 ^ 192)

/-- A notice arms the snapshot trigger for the next tick when ON_ESCALATE = 1 and none is armed (R366). -/
def State.armSnap (s : State) : State :=
  if bit (s.reg (controlReg 0x200)) 0 && s.snapTime == BitVec.allOnes 64 then { s with snapTime := s.time + 1 } else s

/-- The n-th notice of a launch goes to REPLY_ADDR + 64 + 32 * (n mod 16), with its vector (R352). -/
def State.putNotice (s : State) (l : Nat) (n : Notice) : State :=
  match s.launchOf l with
  | none => s
  | some la =>
    let s1 := s.hostWrite la.sv (reqReply la.req + 64 + 32 * (la.notices % 16)) (noticeBytes n (reqTag la.req) s.time)
    let s2 : State := { s1 with msix := s1.msix ++ [(la.sv, reqMsix la.req)] }
    (s2.setLaunch l (some { la with notices := la.notices + 1 })).armSnap

/-- An entry of the management port's log (R342). -/
def State.logged (s : State) (code : Nat) (v : W64) : State := { s with log := s.log ++ [(code, v)] }

/-! ## Fault domains (R349, R350) -/

/-- The effective FD_POLICY for a fault: of the domain that the job has on the tile, else of the job. -/
def State.policyAt (s : State) (pid T d : Nat) : Nat :=
  if (s.dom T d).present && (s.dom T d).pid == pid then (s.dom T d).fdPolicy.toNat
  else match s.jobOf pid with | some (_, r) => fld r 40 4 | none => 0

/-- The region whose removal FATAL 0b01 asks for; none removes the job. -/
def State.fatalScope (s : State) (pid T d : Nat) : Option Nat :=
  if s.policyAt pid T d % 4 = 1 ∧ (s.dom T d).present ∧ (s.dom T d).pid = pid then some (s.dom T d).region else none

/-- The ACTION that FATAL takes. -/
def State.fatalAction (s : State) (pid T d : Nat) : Nat := if (s.fatalScope pid T d).isSome then 1 else 2

/-- FATAL is applied (R349). -/
def State.fatal (s : State) (pid T d : Nat) : State := s.startRemoval pid (s.fatalScope pid T d) 0x21

/-- Holds a band and starts the replay of a row's wave, and of an earlier wave of the row whose commit is under way; the
replay of another row runs first (R411, R413 to R415). -/
def State.startReplay (s : State) (n j : Nat) : State :=
  match s.bandOf n with
  | none => s
  | some b =>
    if b.replay.any fun r => r.row != j then
      s.setBand n (some { b with again := (b.again.filter fun i => i != j) ++ [j] })
    else
      let now := match b.runAt b.step j with | some (st, w) => [(w, st)] | none => []
      let before (w : Nat) : List (Nat × Nat) :=
        if b.height ≤ w ∧ b.commits ≤ w - b.height then [(w - b.height, b.stages - 1)] else []
      let todo := match now with
        | (w, _) :: _ => before w ++ now
        | [] =>
          match b.total with
          | some t =>
            (((List.range t).filter fun w => w % b.height == j && b.commits ≤ w && b.tau w (b.stages - 1) < b.step).getLast?).elim
              [] fun w => [(w, b.stages - 1)]
          | none => []
      let kept := match now with
        | (w, st) :: _ => ((b.rowTiles j).filter fun T => s.ranOut n T st w b.step).map fun T => T % 64 - b.col0
        | [] => []
      let s1 := s.setBand n (some { b with holding := true, replay := some ⟨j, todo, 0, 0, kept⟩, again := b.again.filter fun i => i != j })
      s1.post (.replayStep n 0)

/-! ## Escalations and guard reports (R350, R351, R441) -/

/-- Forwards a message to another service tile. -/
def State.forward (s : State) (k to_ : Nat) (m : Msg) : State := s.send { m with src := .service k, dst := .service to_ }

/-- An escalation at the service tile that took the launch: the notice, and what the request asks for. -/
def State.takeEscalation (s : State) (l : Nat) (m : Msg) (val x : W64) : State :=
  let pid := m.pid.toNat
  let code := fld m.arg 0 6
  let req := fld x 62 2
  let T := fld x 50 12
  let d := fld x 48 2
  let h := fld x 44 4
  let note (action : Nat) : Notice := ⟨val, fld x 0 32, T, d, h, code, action⟩
  let fatal (s : State) : State := (s.putNotice l (note (s.fatalAction pid T d))).fatal pid T d
  if req = 0 then
    let s1 := s.putNotice l (note 0)
    if code = 0x33 ∧ (s1.thread T h).owed ∧ (s1.thread T h).run = .stopped then
      s1.finish T h fun t => { t with owed := false }
    else s1
  else if req = 2 ∧ (s.policyAt pid T d).testBit 2 then
    match s.bandAt T d with
    | some (n, _) => (s.putNotice l (note 3)).startReplay n (s.dom T d).bRow
    | none => fatal s
  else fatal s

/-- `escalation` (R350, R351): forwarded to the service tile that took the launch, which writes the notice and acts. -/
def execEscalation (m : Msg) (s : State) : Host.Outcome State Fault Refusal :=
  .next (match m.dst, m.pay with
    | .service k, .words val x =>
      match s.jobOf m.pid.toNat with
      | none => s.logged (fld m.arg 0 6) val
      | some (l, _) =>
        match s.launchOf l with
        | some la => if la.sv ≠ k then s.forward k la.sv m else s.takeEscalation l m val x
        | none => s
    | _, _ => s)

/-- `guardReport` (R441). -/
def execGuardReport (m : Msg) (s : State) : Host.Outcome State Fault Refusal :=
  .next (match m.dst, m.pay with
    | .service k, .words last _ =>
      match s.jobOf m.pid.toNat with
      | none => s.logged 0x39 last
      | some (l, _) =>
        match s.launchOf l with
        | some la =>
          if la.sv ≠ k then s.forward k la.sv m
          else (s.putNotice l ⟨last, 0, fld last 36 12, m.sdom.toNat, 0, 0x39, 0⟩).logged 0x39 last
        | none => s
    | _, _ => s)

/-! ## Freeing (R23, R46, R57, R363) -/

/-- The logical tiles of a rectangle. -/
def rectTiles (r : BitVec 1024) : List Nat :=
  let q := rcbRect r
  (List.range q.2.2.1).flatMap fun i => (List.range q.2.2.2).map fun j => (q.1 + i) * 64 + q.2.1 + j

/-- Local-store fields of an RCB (R20). -/
def rcbLsBase (r : BitVec 1024) : Nat := fld r 288 24
def rcbLsSize (r : BitVec 1024) : Nat := fld r 320 24

/-- Clears a reduction group at a node; reds are numbered key * 64 + group. -/
def State.clearRed (s : State) (x : Nat) : State :=
  s.modRouter (x / 64) fun r =>
    { r with red := Table.set 0 r.red (x % 64) 0, up := Table.set none r.up (x % 64) none
             ctxs := r.ctxs.filter fun c => c.group != x % 64
             waitRed := r.waitRed.filter fun w => fld w.2.arg 26 6 != x % 64
             moved := r.moved.filter fun g => g != x % 64 }

/-- Frees a region: its domains, local-store ranges, table entries, cursors and bands. -/
def State.freeRegion (s : State) (n : Nat) : State :=
  match s.regionOf n with
  | none => s
  | some r =>
    let s1 := (rectTiles r.rcb).foldl (fun s T =>
      let s' := match (List.range 4).find? fun d => (s.dom T d).present && (s.dom T d).region == n with
        | some d => s.resetDom T d
        | none => s
      s'.lsClear T (rcbLsBase r.rcb) (rcbLsSize r.rcb)) s
    let s2 : State := { s1 with groups := r.groups.foldl (fun g e => Table.set 0 g e 0) s1.groups }
    let s3 := r.reds.foldl State.clearRed s2
    let mine := s3.bands.filterMap fun e => match e.2 with | some b => if b.region = n then some e.1 else none | none => none
    let s4 := (Table.keys s3.stations).foldl (fun s k =>
      s.modStation k fun t => { t with cursors := t.cursors.filter fun c => !mine.contains c.band }) s3
    let s5 : State := { mine.foldl (fun s b => s.setBand b none) s4 with
      released := s4.released.filter fun e => !mine.contains (e.1 / 512)
      fillNo := s4.fillNo.filter fun e => !r.groups.contains (e.1 / 16) }
    (s5.setRegion n none).wake

/-- The live bands of a launch. -/
def State.bandsOf (s : State) (l : Nat) : List (Nat × Band) :=
  s.bands.filterMap fun e => match e.2 with
    | some b => match s.regionOf b.region with
      | some r => if r.launch = l then some (e.1, b) else none
      | none => none
    | none => none

def State.regionsOf (s : State) (l : Nat) : List (Nat × Region) :=
  s.regions.filterMap fun e => match e.2 with | some r => if r.launch = l then some (e.1, r) else none | none => none

/-- Every band of a launch has finished, and no region of it is being drained, frozen or removed. -/
def State.launchDone (s : State) (l : Nat) : Bool :=
  ((s.bandsOf l).all fun b => b.2.finished) && (s.regionsOf l).all fun r => r.2.phase == 0

/-- `launchEnd`: everything of the launch is freed, and the end-of-launch reply is written (R57); a launch that ends
before every band has started step 0 has its start reply first, with STATUS 0x10. -/
def execLaunchEnd (l : Nat) (s : State) : Host.Outcome State Fault Refusal :=
  .next (match s.launchOf l with
    | none => s
    | some la =>
      if !s.launchDone l ∨ s.removals.any (fun r => r.launch == l && !r.blocks.isEmpty) then s
      else
        let s1 := (s.regionsOf l).foldl (fun s r => s.freeRegion r.1) s
        let s2 := if la.started then s1 else s1.answerReq la.sv la.req 0x10
        ((s2.putReply la.sv la.req 32 0x81 la.status).setLaunch l none).wake)

/-- `removalConfirmed` (R363, item 7; R358): the ranges are cleared, everything is freed, and requests on the removed
regions are answered with STATUS 0x10. -/
def execRemovalConfirmed (pid : BitVec 16) (s : State) : Host.Outcome State Fault Refusal :=
  .next (
    let p := pid.toNat
    let over_ := s.removals.filter fun r => r.pid == p && r.blocks.isEmpty
    let s1 : State := { s with removals := s.removals.filter fun r => !(r.pid == p && r.blocks.isEmpty) }
    over_.foldl (fun s r =>
      let regs := s.removedRegions p r.region
      let s2 := regs.foldl (fun s x =>
        let s' := match x.2.req with
          | some (k, q) => s.answerReq k q 0x10
          | none => s
        s'.freeRegion x.1) s
      match s2.launchOf r.launch with
      | none => s2
      | some la =>
        let rcbs := if r.region.isNone then la.rcbs.filter fun e => !(rcbKind e.2 != 0 && rcbPid e.2 == p) else la.rcbs
        ((s2.setLaunch r.launch (some { la with rcbs := rcbs, status := r.status })).wake).post (.launchEnd r.launch)) s1)

/-! ## Draining (R46) -/

/-- The bands of a region. -/
def State.regionBands (s : State) (n : Nat) : List (Nat × Band) :=
  s.bands.filterMap fun e => match e.2 with | some b => if b.region = n then some (e.1, b) else none | none => none

/-- Every tile of a band sees again whether it is ready. -/
def State.recheck (s : State) (n : Nat) (b : Band) : State :=
  (b.tiles.foldl (fun s T => match s.bandDom n T with | some d => s.post (.tileReady T d) | none => s) s).kick n

/-- A drain begins: the bands admit no further waves (R46, item 1). -/
def State.startDrain (s : State) (n : Nat) (req : Option (Nat × BitVec 512)) : State :=
  match s.regionOf n with
  | none => s
  | some r =>
    let s1 := s.setRegion n (some { r with phase := 1, req := req })
    let bs := s1.regionBands n
    let s2 := bs.foldl (fun s e => (s.setBand e.1 (some { e.2 with stopWave := some e.2.firstOut })).recheck e.1 e.2) s1
    if bs.all fun e => e.2.finished then s2.post (.drainComplete n) else s2

/-- The RCB of a drained band in memory: FIRST_WAVE and WAVES (R46, item 5). -/
def drainedRcb (b : Band) (old : BitVec 1024) : BitVec 1024 :=
  let n := b.total.getD 0
  put (put old 736 32 (b.firstWave + n)) 704 32 (if b.waves = 0 then 0 else b.waves - n)

/-- Writes a range of DRAM for the service tile, line by line. -/
def State.fwWrite (s : State) (pa : Nat) (b : List Byte) : State × Bool :=
  (linePieces pa b.length).foldl (fun acc p =>
    if !acc.2 then acc
    else match placeOf p.1 with
      | .dram a =>
        let k := acc.1.sharedBucket a
        if acc.1.isOwned (a / 128) || acc.1.bucketShut k then (acc.1, false)
        else match acc.1.physWrite 0 a k ((b.drop (p.1 - pa)).take p.2) true with
          | (s1, .wait) => (s1, false)
          | (s1, _) => (s1, true)
      | .store T off => (acc.1.lsStore T off ((b.drop (p.1 - pa)).take p.2), true)
      | _ => acc) (s, true)

/-- `drainComplete` (R46, items 5 and 6): the RCBs are updated, the region is freed and the DRAIN is answered. -/
def execDrainComplete (n : Nat) (s : State) : Host.Outcome State Fault Refusal :=
  .next (match s.regionOf n with
    | none => s
    | some r =>
      if r.phase ≠ 1 ∨ (s.regionBands n).any (fun e => !e.2.finished) then s
      else
        let w := (s.regionBands n).foldl (fun (acc : State × Bool) e =>
          if !acc.2 then acc
          else match acc.1.physAll (stackOf e.2.addr) 0 e.2.addr 128 with
            | (s1, .ok, old) => s1.fwWrite e.2.addr (toBytes 128 (drainedRcb e.2 (BitVec.ofNat 1024 (ofBytes old))).toNat)
            | (s1, _, _) => (s1, false)) (s, true)
        if !w.2 then s.holdAt (stackOf r.addr) (.drainComplete n)
        else
          let s1 := w.1.freeRegion n
          let s2 := match r.req with | some (k, q) => s1.answerReq k q 0 | none => s1
          s2.post (.launchEnd r.launch))

end Sys2Proof.Machine
end

