-- ==== Sys2Proof/Machine/Llc.lean ====
section
/-! DEFINITION. The bucket rebalancer (R82, R384, R437) and the end of a lane swap (R375). -/

namespace Sys2Proof.Machine

open Bits

/-! ## Choosing a move (R82, R437) -/

/-- PIDs of the placed jobs, ascending. -/
def State.placedPids (s : State) : List Nat :=
  let ps := s.launches.flatMap fun e => match e.2 with
    | some l => if l.live then (l.rcbs.filter fun r => rcbKind r.2 == 1).map fun r => rcbPid r.2 else []
    | none => []
  ps.foldl (fun acc p => if acc.contains p then acc else acc.filter (· < p) ++ [p] ++ acc.filter (p < ·)) []

/-- The shared bucket range (R81). -/
def State.sharedRange (s : State) : Nat × Nat :=
  let v := s.reg (controlReg 0x280)
  (fld v 0 12, fld v 16 13)

/-- The allotment that an epoch considers, and where the next epoch goes on. -/
def State.epochRange (s : State) : (Nat × Nat) × Nat :=
  match s.placedPids.find? fun p => s.epoch ≤ p with
  | some p => (s.jobBuckets p, p + 1)
  | none => (s.sharedRange, 0)

/-- The first element of largest, or smallest, score. -/
def bestBy (better : Nat → Nat → Bool) (l : List (Nat × Nat)) : Option (Nat × Nat) :=
  l.foldl (fun b x => match b with
    | none => some x
    | some y => if better x.2 y.2 then some x else some y) none

/-- The move that an epoch's counts ask for: bucket, old and new slice. -/
def State.pickMove (s : State) (r : Nat × Nat) : Option (Nat × Nat × Nat) :=
  let bs := (List.range r.2).map (r.1 + ·)
  let load (n : Nat) : Nat :=
    bs.foldl (fun a b => if s.bucketStation b = n then a + Table.get 0 s.bcount b else a) 0
  let slices := (List.range 64).map fun n => (n, load n)
  match bestBy (fun a b => b < a) slices, bestBy (fun a b => a < b) slices with
  | some hi, some lo =>
    if 2 * lo.2 < hi.2 then
      match bestBy (fun a b => b < a) ((bs.filter fun b => s.bucketStation b == hi.1).map fun b => (b, Table.get 0 s.bcount b)) with
      | some b => some (b.1, hi.1, lo.1)
      | none => none
    else none
  | _, _ => none

/-- `rebalanceEpoch`: one move is in progress at a time, and a bucket stays for 2^21 mesh cycles after its move (R82,
R384). -/
def execRebalanceEpoch (s : State) : Host.Outcome State Fault Refusal :=
  .next (
    let x := s.epochRange
    let s1 : State := { (if s.timers.any (fun t => t.2 == .rebalanceEpoch) then s else s.after (2 ^ 20) .rebalanceEpoch) with
                        epoch := x.2, bcount := [] }
    if s.move.isSome then s1
    else match s.pickMove x.1 with
      | some (b, old, new) =>
        let at_ := Table.get 0 s.bmoved b
        if at_ ≠ 0 ∧ s.mcycle < at_ + 2 ^ 21 then s1
        else ({ s1 with move := some ⟨b, old, new, 0, 0, []⟩ } : State).post .bucketFlushed
      | none => s1)

/-! ## The move (R82) -/

/-- The old slice writes a line back, if it is dirty, and drops it with its L1 copies; `false` while its channel takes no
transfers. -/
def State.flushLine (s : State) (line : Nat) : State × Bool := (s.recallL1 line none).dropLine line

/-- `bucketFlushed`: once no engine owns a line of the bucket and its lines have been written back, the bucket is flushed
and queued requests are redirected. -/
def execBucketFlushed (s : State) : Host.Outcome State Fault Refusal :=
  .next (match s.move with
    | none => s
    | some m =>
      if m.state ≠ 0 then s
      else if s.owned.any fun o => o.2 == m.bucket + 1 then s.after 1 .bucketFlushed
      else
        let ls := (s.lines.filter fun e => match e.2 with | some l => l.bucket == m.bucket | none => false).map (·.1)
        let r := ls.foldl (fun (acc : State × Bool) l =>
          let x := acc.1.flushLine l
          (x.1, acc.2 && x.2)) (s, true)
        if !r.2 then r.1.after 1 .bucketFlushed
        else ({ r.1 with move := some { m with state := 1 } } : State).wake.post .bucketActiveAtNew)

/-- Copies of the bucket table: those of the stations and of the tiles' network interfaces (R79). -/
def bucketCopies : Nat := 64 + 2048

/-- `bucketActiveAtNew`: the rebalancer writes the new entry into one more copy of the table; when every copy holds it, the
old slice forgets the bucket. -/
def execBucketActiveAtNew (s : State) : Host.Outcome State Fault Refusal :=
  .next (match s.move with
    | some m =>
      if m.state ≠ 1 then s
      else if m.told + 1 < bucketCopies then ({ s with move := some { m with told := m.told + 1 } } : State).post .bucketActiveAtNew
      else
        ({ s with move := none, buckets := Table.set (m.bucket % 64) s.buckets m.bucket m.new,
                  bmoved := Table.set 0 s.bmoved m.bucket s.mcycle } : State).wake
    | none => s)

/-! ## Lane swaps (R375, R377) -/

/-- `laneSwapEnd`: the channel takes transfers again, and the station makes its further attempt, which passes or loses the
transfer; its outcome waits for the use that the transfer belongs to. -/
def execLaneSwapEnd (n channel : Nat) (ok : Bool) (s : State) : Host.Outcome State Fault Refusal :=
  .next (match Table.get none (s.station n).swaps channel with
    | none => s
    | some (lanes, way, time) =>
      let a := way / 2 * 128
      let r := (s.modStation n fun t => { t with swaps := Table.set none t.swaps channel none }).attempt a
      let out : Option (BitVec 1152) := match r.2 with | .pass e => if ok then some e else none | .fail _ => none
      let s2 := r.1.busLog n channel (stackAddr a) time 3 (lanes % 128) (some (lanes / 128)) out.isNone
      (s2.modStation n fun t => { t with again := Table.set none t.again way (some out) }).wake)

end Sys2Proof.Machine
end

