-- ==== Sys2Proof/Machine/Timetable.lean ====
section
/-! DEFINITION. The tier engines: timetables and their occurrences (R87 to R94, R321, R322, R386 to R388, R446), light
(R155 to R160, R371, R409) and residency records. -/

namespace Sys2Proof.Machine

open Bits

/-! ## Timetable entries (R88) -/

def entKind (e : BitVec 256) : Nat := fld e 0 4
def entSide (e : BitVec 256) : Nat := fld e 6 1
def entThrough (e : BitVec 256) : Bool := bit e 7
def entSlot (e : BitVec 256) : Nat := fld e 8 4
def entGroup (e : BitVec 256) : Nat := fld e 12 12
def entLead (e : BitVec 256) : Nat := fld e 24 16
def entDue (e : BitVec 256) : Nat := fld e 40 32
def entLsOff (e : BitVec 256) : Nat := fld e 72 24
def entLen (e : BitVec 256) : Nat := fld e 96 32
def entColStep (e : BitVec 256) : Nat := fld e 128 32
def entOccStep (e : BitVec 256) : Int := signed 32 (fld e 160 32)
def entVa (e : BitVec 256) : Nat := fld e 192 64

/-- VA′ of an occurrence (R90), as a 64-bit address, and for a column. -/
def Occ.va (o : Occ) : Nat := wrap 64 ((entVa o.entry : Int) + (o.m / o.period : Nat) * entOccStep o.entry)
def colVa (o : Occ) (c : Nat) : Nat := (Occ.va o + c * entColStep o.entry) % 2 ^ 55

/-- The markers M in (lo, hi] with M mod P = due. -/
def occsIn (period due lo hi : Nat) : List Nat :=
  let m0 := lo + 1 + (due + period - (lo + 1) % period) % period
  if period ≤ due ∨ hi < m0 then [] else (List.range ((hi - m0) / period + 1)).map (m0 + period * ·)

/-! ## Entries that a station refuses (R157, R446) -/

/-- The wavelengths of a group that the station of a side drives, ascending (R150, R157). -/
def drivenLams (g : BitVec 256) (side : Nat) : List Nat :=
  let ls := ((List.range 4).filter fun n => bit g (77 + 6 * n)).map fun n => fld g (72 + 6 * n) 5
  (List.range 16).map (· + 16 * side) |>.filter ls.contains

def grpValid (g : BitVec 256) : Bool := bit g 255
def grpPid (g : BitVec 256) : Nat := fld g 236 16
def grpRow (g : BitVec 256) (row : Nat) : Bool := fld g 231 5 ≤ row && row ≤ fld g 231 5 + fld g 226 5
def grpDrop (g : BitVec 256) (x : Nat) : Bool := bit g (104 + x)

def State.groupEntry (s : State) (i : Nat) : BitVec 256 := Table.get 0 s.groups i

/-- The entry breaks R446: it is a fault of the entry itself. -/
def State.badEntry (s : State) (pid period : Nat) (e : BitVec 256) : Bool :=
  fld e 4 2 != 0 || period ≤ entDue e || 6 ≤ entKind e ||
    (entKind e == 2 &&
      (entLen e == 0 || 0x20000 < entLen e ||
        (let g := s.groupEntry (entGroup e)
         !grpValid g || grpPid g != pid || (drivenLams g (entSide e)).isEmpty)))

/-- A kind-2 entry breaks R157 in a row: SIDE, SLOT_MAP or the group's rows. -/
def State.badEmit (s : State) (row : Nat) (e : BitVec 256) : Bool :=
  let g := s.groupEntry (entGroup e)
  entKind e == 2 && (fld g (56 + entSlot e) 1 != entSide e || !bit g (176 + entSlot e) || !grpRow g row)

/-- A timetable header that a station refuses (R446). -/
def badPeriod (p : Nat) : Bool := p == 0 || 2 ^ 32 < p

/-! ## Cursors (R91, R322) -/

def Cursor.is (c : Cursor) (n j st w : Nat) : Bool := c.band == n && c.row == j && c.stage == st && c.wave == w

/-- The two stations of a logical row. -/
def rowStations (row : Nat) : List Nat := [row, 32 + row]

def State.cursorOf (s : State) (k n j st w : Nat) : Option Cursor := (s.station k).cursors.find? fun c => c.is n j st w

def State.modCursor (s : State) (k n j st w : Nat) (f : Cursor → Cursor) : State :=
  s.modStation k fun t => { t with cursors := t.cursors.map fun c => if c.is n j st w then f c else c }

/-- The occurrence of an entry of a cursor at a marker. -/
def Cursor.occ (c : Cursor) (i : Nat) (e : BitVec 256) (m : Nat) : Occ :=
  ⟨c.band, c.row, c.stage, c.wave, e, BitVec.ofNat 64 (c.base + 64 + 32 * i), c.period, m⟩

def entryIndex (c : Cursor) (o : Occ) : Nat := (o.addr.toNat - c.base - 64) / 32

/-- Puts an occurrence behind those whose marker value is not above its own. -/
def insertOcc (x : Nat × BitVec 256 × Nat) : List (Nat × BitVec 256 × Nat) → List (Nat × BitVec 256 × Nat)
  | [] => [x]
  | y :: l => if y.2.2 ≤ x.2.2 then y :: insertOcc x l else x :: y :: l

/-- Occurrences that a station may start now, by rising M and, at one M, in the order of the entries (R89, R322, log 85). -/
def Cursor.startable (c : Cursor) (side : Nat) : List (Nat × BitVec 256 × Nat) :=
  if c.shut then []
  else
    let hi := Nat.max (c.mIn + c.prime) c.mark
    let all := (c.entries.zipIdx).flatMap fun x =>
      let e := x.1
      let i := x.2
      if entSide e != side || (entKind e == 0 && fld e 4 2 == 0) then []
      else
        let ms := ((c.left.filter fun l => l.1 == i).map (·.2)) ++ occsIn c.period (entDue e) c.mIn hi
        (ms.filter fun m =>
          !c.begun.contains (i, m) && !c.skip.contains (i, m) &&
            (if m ≤ c.mIn + c.prime && entKind e != 3 then m ≤ c.mark + entLead e
             else m ≤ c.mark && (c.entered || m ≤ c.mIn))).map fun m => (i, e, m)
    all.foldl (fun l x => insertOcc x l) []

/-- Kind-3 occurrences of a run that lie at or below its final row marker are all written (R91, R93). -/
def Cursor.kind3Done (c : Cursor) (side : Nat) : Bool :=
  (c.entries.zipIdx).all fun x =>
    entKind x.1 != 3 || entSide x.1 != side ||
      match c.final with
      | some f => (occsIn c.period (entDue x.1) c.mIn f).all fun m => c.done.contains (x.2, m)
      | none => false

/-! ## Tiles that take a group's light (R151, R155) -/

/-- The logical tiles of a row in a group's drop mask that are not fenced. -/
def State.dropTiles (s : State) (g row : Nat) : List Nat :=
  let e := s.groupEntry g
  ((onesOf (fld e 104 66) 66).filterMap fun x => s.logical x row).filter fun T => !(s.tile T).fenced

/-! ## Occurrences -/

/-- An occurrence has ended: priming may have changed (R91). -/
def State.doneOcc (s : State) (o : Occ) : State :=
  match s.bandOf o.band with
  | none => s
  | some b =>
    ((rowStations (b.rowOf o.row)).foldl (fun s k =>
      s.modCursor k o.band o.row o.stage o.wave fun c =>
        let x := (entryIndex c o, o.m)
        if c.done.contains x then c else { c with begun := if c.begun.contains x then c.begun else c.begun ++ [x], done := c.done ++ [x] }) s).kick
      o.band

/-- An occurrence is under way: its band lives, and its cursor has started it and not ended it. -/
def State.occLive (s : State) (o : Occ) : Option (Band × Nat) :=
  match s.bandOf o.band with
  | none => none
  | some b =>
    let k := b.rowOf o.row + 32 * entSide o.entry
    match s.cursorOf k o.band o.row o.stage o.wave with
    | some c =>
      let x := (entryIndex c o, o.m)
      if c.begun.contains x && !c.done.contains x then some (b, k) else none
    | none => none

/-- The tiles of a group's row are told that a fill is lost (R371). -/
def State.loseFill (s : State) (g row slot : Nat) : State :=
  (s.dropTiles g row).foldl (fun s T => s.post (.lostFill T slot)) s

/-- A miss of a tier engine (R388). -/
def State.tierMiss (s : State) (k : Nat) (b : Band) (o : Occ) : State :=
  let s1 := s.modReg (stationReg k 0xF28) fun v => satAdd v 0 32 1
  if b.smTrap then s1.notice (.station k) b.pid 0x10 (BitVec.ofNat 64 (Occ.va o)) else s1

/-- A residency record of a kind-4 occurrence (R94, R386). -/
def residOf (o : Occ) : Resid := ⟨entLsOff o.entry, entLen o.entry, o.m, 0, o.stage, o.wave⟩

/-- Every tile of the row has a residency record free (R386). -/
def State.recordsFree (s : State) (n : Nat) (b : Band) (j : Nat) : Bool :=
  (s.liveTiles b j).all fun T => match s.bandDom n T with | some d => (s.dom T d).resid.length < 16 | none => true

/-- Starts one occurrence, unless it has to wait. -/
def State.startOcc (s : State) (k n : Nat) (b : Band) (c : Cursor) (x : Nat × BitVec 256 × Nat) : State :=
  let o := c.occ x.1 x.2.1 x.2.2
  let e := x.2.1
  let row := b.rowOf c.row
  let begin_ (s : State) : State :=
    s.modCursor k n c.row c.stage c.wave fun c => { c with begun := c.begun ++ [(x.1, x.2.2)] }
  let missed (s : State) : State := if x.2.2 ≤ c.mark ∧ (c.entered ∨ c.mIn < c.mark) then s.tierMiss k b o else s
  if s.badEntry b.pid c.period e then
    let s1 := (begin_ s).notice (.station k) b.pid 0x0E o.addr
    (if entKind e = 2 then s1.loseFill (entGroup e) row (entSlot e) else s1).doneOcc o
  else if s.badEmit row e then
    (((begin_ s).notice (.station k) b.pid 0x0E (BitVec.ofNat 64 (Occ.va o))).loseFill (entGroup e) row (entSlot e)).doneOcc o
  else match entKind e with
    | 1 => (missed (begin_ s)).post (.kind1Prefetch o)
    | 2 =>
      if (s.rel n c.row (entSlot e)).free ∧ b.admits c.wave then
        ((begin_ s).setRel n c.row (entSlot e) ⟨false, entGroup e, [], []⟩).post (.kind2Emit o)
      else s
    | 3 => (begin_ s).post (.kind3Writeback o)
    | 4 =>
      if s.recordsFree n b c.row then
        let s1 := (s.liveTiles b c.row).foldl (fun s T =>
          match s.bandDom n T with
          | some d => s.modDom T d fun v => { v with resid := v.resid ++ [residOf o] }
          | none => s) (begin_ s)
        (missed s1).post (.kind4Fetch o)
      else s
    | 5 => (begin_ s).post (.kind5Assert o)
    | _ => s

/-- A station starts what its cursor allows. -/
def State.runCursor (s : State) (k n j st w : Nat) : State :=
  match s.bandOf n, s.cursorOf k n j st w with
  | some b, some c =>
    if badPeriod c.period then s
    else (c.startable (k / 32)).foldl (fun s x => s.startOcc k n b c x) s
  | _, _ => s

/-- Both stations of a row start what their cursors allow. -/
def State.runRow (s : State) (row : Nat) : State :=
  (rowStations row).foldl (fun s k =>
    (s.station k).cursors.foldl (fun s c => s.runCursor k c.band c.row c.stage c.wave) s) s

/-- Every occurrence in the window before entry has ended (R91). -/
def State.windowDone (s : State) (k : Nat) (b : Band) (c : Cursor) : Bool :=
  badPeriod c.period ||
    (c.entries.zipIdx).all fun x =>
      entSide x.1 != k / 32 || !([1, 2, 4, 5].contains (entKind x.1)) ||
        (occsIn c.period (entDue x.1) c.mIn (c.mIn + c.prime)).all fun m =>
          c.done.contains (x.2, m) || c.skip.contains (x.2, m) ||
            (entKind x.1 == 5 &&
              (s.liveTiles b c.row).all fun T => (s.slot T (entSlot x.1)).full || (s.slot T (entSlot x.1)).lost)

/-- A row's stations are primed for its run of stage st for wave w (R91). -/
def State.rowPrimed (s : State) (n : Nat) (b : Band) (j st w : Nat) : Bool :=
  (rowStations (b.rowOf j)).all fun k =>
    match s.cursorOf k n j st w with | some c => s.windowDone k b c | none => false

/-- The kind-3 occurrences of a row's run are complete. -/
def State.rowWritten (s : State) (n : Nat) (b : Band) (j st w : Nat) : Bool :=
  (rowStations (b.rowOf j)).all fun k =>
    match s.cursorOf k n j st w with | some c => badPeriod c.period || c.kind3Done (k / 32) | none => true

/-! ## The stage-done report (R91, R321, R322) -/

/-- Occurrences that an earlier run of the stage did not start (R322): kind 2 and kind 4 at or below its final marker. -/
def Cursor.leftover (c : Cursor) (side : Nat) : List (Nat × Nat) :=
  let f := c.final.getD c.mark
  (c.left.filter fun l => !c.begun.contains l) ++
    (c.entries.zipIdx).flatMap fun x =>
      if entSide x.1 != side || !([1, 2, 4].contains (entKind x.1)) then []
      else ((occsIn c.period (entDue x.1) c.mIn f).filter fun m =>
        !c.begun.contains (x.2, m) && !c.skip.contains (x.2, m)).map fun m => (x.2, m)

/-- Occurrences beyond its final marker that a run has carried out all the same: the next run does not repeat them (R322). -/
def Cursor.taken (c : Cursor) : List (Nat × Nat) :=
  (c.begun ++ c.skip).filter fun x => c.final.getD c.mark < x.2

/-- A station begins a stage's entries. -/
def State.openCursor (s : State) (k n : Nat) (b : Band) (j st w mIn : Nat) : State :=
  if (s.cursorOf k n j st w).isSome then s
  else
    let new (base period prime : Nat) (es : List (BitVec 256)) (left skip : List (Nat × Nat)) : Cursor :=
      ⟨n, j, st, w, mIn, mIn, false, none, base, period, prime, es, [], [], left, skip, false⟩
    let add (s : State) (c : Cursor) : State := s.modStation k fun t => { t with cursors := t.cursors ++ [c] }
    let resume : Event := .stageDoneReport k n j st w mIn
    match s.stageRec b st with
    | none => s.holdAt k resume
    | some r =>
      let va := recTable r % 2 ^ 55
      if recTable r = 0 then add s (new 0 1 0 [] [] [])
      else
        let told := match (s.liveTiles b j).head? with | some T => (T, (s.bandDom n T).getD 0) | none => (0, 0)
        match s.gread k b.pid true va 64 with
        | (s1, .wait) => s1.holdAt k resume
        | (s1, .lost _) => s1.holdAt k resume
        | (s1, .fault c v) => s1.parkTier k b.pid st told.1 told.2 c v false resume
        | (s1, .ok h) =>
          let hd := BitVec.ofNat 512 (ofBytes h)
          let period := fld hd 64 64
          if badPeriod period then
            add (s1.notice (.station k) b.pid 0x0E (BitVec.ofNat 64 (recTable r))) (new (recTable r) 0 0 [] [] [])
          else
            match s1.gread k b.pid true (va + 64) (32 * fld hd 0 64) with
            | (s2, .wait) => s2.holdAt k resume
            | (s2, .lost _) => s2.holdAt k resume
            | (s2, .fault c v) => s2.parkTier k b.pid st told.1 told.2 c v false resume
            | (s2, .ok l) =>
              let es := (chunks 32 (fld hd 0 64) l).map fun c => BitVec.ofNat 256 (ofBytes c)
              let prev := (j + b.height - 1) % b.height
              let old := if w = 0 then none else s2.cursorOf (b.rowOf prev + 32 * (k / 32)) n prev st (w - 1)
              let left := match old with | some c => c.leftover (k / 32) | none => []
              let skip := match old with | some c => c.taken | none => []
              let s3 := (es.zipIdx).foldl (fun s x =>
                if period ≤ entDue x.1 && entSide x.1 == k / 32 then
                  let s1 := s.notice (.station k) b.pid 0x0E (BitVec.ofNat 64 (recTable r + 64 + 32 * x.2))
                  if entKind x.1 = 2 then s1.loseFill (entGroup x.1) (b.rowOf j) (entSlot x.1) else s1
                else s) s2
              (add s3 (new (recTable r) period (fld hd 128 32) es left skip)).runCursor k n j st w

/-- A stage-done report reaches a station of the row that runs the stage next: it begins its entries, unless its wave is not
admitted (R46, R91). -/
def State.stageDoneAt (s : State) (k n j st w mIn : Nat) : State :=
  match s.bandOf n with
  | none => s
  | some b =>
    if !b.admits w then s
    else (s.openCursor k n b j st w mIn).kick n

/-- `stageDoneReport`: both stations of the row that runs the stage next have the report (R91). -/
def execStageDoneReport (n j st w mIn : Nat) (s : State) : Host.Outcome State Fault Refusal :=
  .next (match s.bandOf n with
    | none => s
    | some b => (rowStations (b.rowOf j)).foldl (fun s k => s.stageDoneAt k n j st w mIn) s)

/-! ## The row marker (R90, R93) -/

/-- The run in progress in a band row: its stage, wave and step; that of a replay step while one runs. -/
def Band.present (b : Band) (j : Nat) : Option (Nat × Nat × Nat) :=
  match b.replay with
  | some r =>
    if r.row = j then
      match r.todo with
      | (w, _) :: _ => some (r.stage, w, b.tau w r.stage)
      | [] => (b.runAt b.step j).map fun x => (x.1, x.2, b.step)
    else (b.runAt b.step j).map fun x => (x.1, x.2, b.step)
  | none => (b.runAt b.step j).map fun x => (x.1, x.2, b.step)

/-- The row marker rises: misses are counted, occurrences start, and a final marker is fixed once every started thread of
the row has finished. -/
def State.rowMarker (s : State) (k n : Nat) (b : Band) (j st w t : Nat) : State :=
  match s.cursorOf k n j st w with
  | none => s
  | some c =>
    let live := s.liveTiles b j
    if !(live.all fun T => s.inRun n T st w t) then s
    else
      let ms := live.filterMap fun T => (s.bandDom n T).map fun d => (s.dom T d).marker.toNat
      let low := match ms with | [] => c.mark | m :: rest => rest.foldl Nat.min m
      let fin := live.all fun T => match s.bandDom n T with | some d => s.threadsDone T d | none => true
      let mark := Nat.max c.mark low
      let late := ((c.entries.zipIdx).flatMap fun x =>
        if entSide x.1 == k / 32 && (entKind x.1 == 1 || entKind x.1 == 4) then
          ((occsIn c.period (entDue x.1) (Nat.max c.mark c.mIn) mark).filter fun m =>
            c.begun.contains (x.2, m) && !c.done.contains (x.2, m)).map fun m => c.occ x.2 x.1 m
        else [])
      let s1 := late.foldl (fun s o => s.tierMiss k b o) s
      let s2 := s1.modCursor k n j st w fun c =>
        { c with mark := mark, entered := true, final := if fin && c.final.isNone then some mark else c.final }
      s2.runCursor k n j st w

/-- A tile of a row has stage-done occurrences to look for: its threads have finished and its run has not. -/
def State.seeDone (s : State) (n T : Nat) : State :=
  match s.bandDom n T with
  | some d => if (s.dom T d).running ∧ s.threadsDone T d then s.post (.stageDone T d) else s
  | none => s

/-- In a replay only the last stage of the last wave passes its report on (R413). -/
def Band.passesOn (b : Band) (j st : Nat) : Bool :=
  match b.replay with
  | some r => r.row != j || (r.todo.length == 1 && (match r.todo with | (_, x) :: _ => x == st | [] => true))
  | none => true

/-- A station of a row has heard of the stage done from every tile: nothing more starts there; the report goes to the next
row's station on its side, and at the west station the wave's commit or the next replay step follows (R45, R91, R413). -/
def State.rowDone (s : State) (k n : Nat) (b : Band) (j st w : Nat) : State :=
  let s1 := s.modCursor k n j st w fun c => { c with shut := true }
  let ms := (s1.liveTiles b j).filterMap fun T => (s1.bandDom n T).map fun d => (s1.dom T d).marker.toNat
  let low := match ms with | [] => 0 | m :: rest => rest.foldl Nat.min m
  let j' := (j + 1) % b.height
  let s2 := if b.passesOn j st then
      s1.send (ctrlMsg k (.station (b.rowOf j' + 32 * (k / 32))) 0x13 b.pid (2 * 2 ^ 30 + n % 2 ^ 16) (.done n j' st (w + 1) low))
    else s1
  if 32 ≤ k then s2
  else
    let s3 := if st + 1 = b.stages then s2.post (.waveCommit n w) else s2
    match b.replay with
    | some r => if r.row = j then s3.post (.replayStep n r.stage) else s3
    | none => s3

/-- The minimum of the tiles' markers in a run of a row reaches a station of the row; tiles that wait for their kind-3 reads
are seen again, and with the last tile's stage done the row's is (R90, R91). -/
def State.markerAt (s : State) (k n j st w t : Nat) : State :=
  match s.bandOf n with
  | none => s
  | some b =>
    let s1 := s.rowMarker k n b j st w t
    let s2 := (s1.liveTiles b j).foldl (fun s T => s.seeDone n T) s1
    match s2.cursorOf k n j st w with
    | some c => if !c.shut ∧ (s2.liveTiles b j).all (fun x => s2.ranOut n x st w t) then s2.rowDone k n b j st w else s2
    | none => s2

/-- `markerReduction` (R90): the marker of the row's present run reaches both of its stations. The marker that the message
carries and the tile it comes from are in State already, in the tiles' domains. -/
def execMarkerReduction (n j _T _marker : Nat) (s : State) : Host.Outcome State Fault Refusal :=
  .next (match s.bandOf n with
    | none => s
    | some b =>
      match b.present j with
      | none => s
      | some (st, w, t) => (rowStations (b.rowOf j)).foldl (fun s k => s.markerAt k n j st w t) s)

/-! ## Kinds 1, 3, 4 and 5 (R89, R93, R94, R386) -/

/-- How a series of engine accesses went. -/
inductive Tier where
  | ok
  | wait
  | fault (c va : Nat)
deriving DecidableEq, Repr

/-- Brings the lines of a range into their slices (R89). -/
def State.prefetch (s : State) (k pid va len : Nat) : State × Tier :=
  (linePieces va len).foldl (fun acc p =>
    match acc.2 with
    | .ok =>
      match acc.1.engPiece k pid p.1 p.2 true none [] with
      | (s1, .ok _) => (s1, .ok)
      | (s1, .lost _) => (s1, .ok)
      | (s1, .wait) => (s1, .wait)
      | (s1, .fault c v) => (s1, .fault c v)
    | _ => acc) (s, .ok)

/-- Ends an occurrence, or holds or parks it. -/
def State.settleOcc (s : State) (k n : Nat) (b : Band) (o : Occ) (write : Bool) (r : Tier) (e : Event) : State :=
  match r with
  | .ok => s.doneOcc o
  | .wait => s.holdAt k e
  | .fault c v =>
    let T := ((s.liveTiles b o.row).head?).getD 0
    s.parkTier k b.pid o.stage T ((s.bandDom n T).getD 0) c v write e

/-- `kind1Prefetch`. -/
def execKind1Prefetch (o : Occ) (s : State) : Host.Outcome State Fault Refusal :=
  .next (match s.occLive o with
    | none => s
    | some (b, k) =>
      let r := s.prefetch k b.pid (Occ.va o % 2 ^ 55) (entLen o.entry)
      r.1.settleOcc k o.band b o false r.2 (.kind1Prefetch o))

/-- A line written by kind 3 with TARGET 1 goes through to DRAM (R88). -/
def State.cleanLines (s : State) (k pid va len : Nat) : State × Tier :=
  (linePieces va len).foldl (fun acc p =>
    match acc.2 with
    | .ok =>
      match acc.1.engPlace k pid p.1 true true with
      | (s1, .ok (pa, _)) =>
        match placeOf pa, moduleOf pa == s1.module.toNat with
        | .dram a, true =>
          match Table.get none s1.lines (a / 128) with
          | some l =>
            if l.dirty then
              match s1.writeBack (a / 128) with
              | (s2, .ok) => ({ s2 with lines := Table.set none s2.lines (a / 128) (some { l with dirty := false }) }, .ok)
              | (s2, .lost) => ((s2.noticeLost k pid a).enterLost (a / 128) pid, .ok)
              | (s2, .wait) => (s2, .wait)
            else (s1, .ok)
          | none => (s1, .ok)
        | _, _ => (s1, .ok)
      | (s1, .error _) => (s1, .ok)
    | _ => acc) (s, .ok)

/-- `kind3Writeback`: each tile's range is read and written to global memory (R93). What the tile's local store holds there is
written back even outside the domain's allotment, for which the spec gives no outcome (DESIGN CHOICE, log 145). -/
def execKind3Writeback (o : Occ) (s : State) : Host.Outcome State Fault Refusal :=
  .next (match s.occLive o with
    | none => s
    | some (b, k) =>
      let len := entLen o.entry
      let r := (s.liveTiles b o.row).foldl (fun (acc : State × Tier) T =>
        match acc.2 with
        | .ok =>
          let off := entLsOff o.entry
          if acc.1.lsBad T off len then
            (acc.1.notice (.station k) b.pid 0x13 (BitVec.ofNat 64 (lsAddr T off / 128 * 128)), .ok)
          else
            let va := colVa o (T % 64 - b.col0)
            match acc.1.gwrite k b.pid true [] va (acc.1.lsRead T off len) with
            | (s1, .ok _) =>
              let s1 := s1.scrub (inStore T off len) false
              if entThrough o.entry then s1.cleanLines k b.pid va len else (s1, .ok)
            | (s1, .lost a) => (s1.notice (.station k) b.pid 0x13 (BitVec.ofNat 64 (a / 128 * 128)), .ok)
            | (s1, .wait) => (s1, .wait)
            | (s1, .fault c v) => (s1, .fault c v)
        | _ => acc) (s, .ok)
      let s1 := r.1.settleOcc k o.band b o true r.2 (.kind3Writeback o)
      match r.2 with
      | .ok => (s1.liveTiles b o.row).foldl (fun s T =>
          match s.bandDom o.band T with | some d => s.post (.stageDone T d) | none => s) s1
      | _ => s1)

/-- A tile's records of an occurrence change. -/
def State.markResid (s : State) (T d : Nat) (o : Occ) (st : Nat) : State :=
  s.modDom T d fun v => { v with resid := v.resid.map fun r =>
    if r.m = o.m ∧ r.stage = o.stage ∧ r.wave = o.wave ∧ r.lo = entLsOff o.entry ∧ r.len = entLen o.entry ∧ r.st = 0 then { r with st := st } else r }

/-- Threads that stall on a residency record look again, and their stall is counted (R387). -/
def State.wakeResid (s : State) (T d : Nat) : State :=
  let dm := s.dom T d
  (List.range dm.thrCount).foldl (fun s i =>
    let h := dm.thrFirst + i
    let t := s.thread T h
    match t.run with
    | .parked .resident since => (s.setThread T h { t with run := .ready }).countStall T d (some since)
    | _ => s) s

/-- A tile has a record of an occurrence in progress. -/
def State.residOpen (s : State) (n T : Nat) (o : Occ) : Bool :=
  match s.bandDom n T with
  | some d => (s.dom T d).resid.any fun r => r.m == o.m && r.stage == o.stage && r.wave == o.wave && r.lo == entLsOff o.entry && r.st == 0
  | none => false

/-- Writes the bytes of a range that lie in a domain's allotment (log 95). -/
def State.lsStoreIn (s : State) (T d off : Nat) (b : List Byte) : State :=
  let dm := s.dom T d
  let lo := Nat.max off dm.lsBase
  s.lsStore T lo ((b.drop (lo - off)).take (dm.lsBase + dm.lsSize - lo))

/-- `kind4Fetch`: the range of each tile is read and written to its local store; a tile whose source is lost has a lost
record (R94, R371). -/
def execKind4Fetch (o : Occ) (s : State) : Host.Outcome State Fault Refusal :=
  .next (match s.occLive o with
    | none => s
    | some (b, k) =>
      let len := entLen o.entry
      let r := (s.liveTiles b o.row).foldl (fun (acc : State × Tier × List (Nat × Option (List Byte))) T =>
        match acc.2.1 with
        | .ok =>
          match acc.1.gread k b.pid true (colVa o (T % 64 - b.col0)) len with
          | (s1, .ok l) => (s1, .ok, acc.2.2 ++ [(T, some l)])
          | (s1, .lost _) => (s1, .ok, acc.2.2 ++ [(T, none)])
          | (s1, .wait) => (s1, .wait, [])
          | (s1, .fault c v) => (s1, .fault c v, [])
        | _ => acc) (s, .ok, [])
      match r.2.1 with
      | .ok =>
        let s1 := r.2.2.foldl (fun s x =>
          match s.bandDom o.band x.1, x.2 with
          | some d, some l =>
            let dm := s.dom x.1 d
            if dm.touchesCode (entLsOff o.entry) len then
              (s.markResid x.1 d o 2).wakeResid x.1 d
            else
              (s.lsStoreIn x.1 d (entLsOff o.entry) l).post (.residencyComplete x.1 d o)
          | some d, none => (s.markResid x.1 d o 2).wakeResid x.1 d
          | none, _ => s) r.1
        if (s1.liveTiles b o.row).any fun T => s1.residOpen o.band T o then s1 else s1.doneOcc o
      | x => r.1.settleOcc k o.band b o false x (.kind4Fetch o))

/-- `residencyComplete` (R94). -/
def execResidencyComplete (T d : Nat) (o : Occ) (s : State) : Host.Outcome State Fault Refusal :=
  .next (match s.bandOf o.band with
    | none => s
    | some b =>
      let s1 := (s.markResid T d o 1).wakeResid T d
      if (s1.liveTiles b o.row).any fun T => s1.residOpen o.band T o then s1 else s1.doneOcc o)

/-- `kind5Assert`: SLOT_DUE of the slot is set at each tile of the row (R386). -/
def execKind5Assert (o : Occ) (s : State) : Host.Outcome State Fault Refusal :=
  .next (match s.occLive o with
    | none => s
    | some (b, _) =>
      ((s.liveTiles b o.row).foldl (fun s T =>
        s.setSlot T (entSlot o.entry) { s.slot T (entSlot o.entry) with due := some (o.m, o.stage, o.wave) }) s).kick o.band)

/-! ## Light (R155 to R158, R371, R409) -/

/-- The frames of a range: 2,048 bytes each, on the group's wavelengths in turn (R156, R157). -/
def framesOf (g slot fill k : Nat) (lams : List Nat) (b : List Byte) : List Frame :=
  let ps := chunks 2048 (b.length / 2048 + 1) b
  (ps.zipIdx).map fun x =>
    { group := BitVec.ofNat 12 g, slot := BitVec.ofNat 4 slot, fill := BitVec.ofNat 16 fill, fmt := 15,
      last := x.2 + 1 == ps.length, offset := BitVec.ofNat 17 (2048 * x.2), scaleOff := 0, payload := x.1,
      lambda := (lams[x.2 % lams.length]?).getD 0, src := k, crcOk := true }

def fillKey (g slot : Nat) : Nat := g * 16 + slot

/-- A frame is on its way to a tile on this wavelength. -/
def State.lit (s : State) (T lambda : Nat) : Bool :=
  s.flight.any fun e => match e with | .lightFrame t f => t == T && f.lambda == lambda | _ => false

/-- A frame goes to a tile, behind those sent before it on its wavelength (R157). -/
def State.shine (s : State) (T : Nat) (f : Frame) : State :=
  if s.lit T f.lambda then { s with light := s.light ++ [(T, f)] } else s.post (.lightFrame T f)

/-- The next frame on a wavelength follows to a tile (R157). -/
def State.shineNext (s : State) (T lambda : Nat) : State :=
  match s.light.find? fun x => x.1 == T && x.2.lambda == lambda with
  | some x => ({ s with light := s.light.erase x } : State).post (.lightFrame T x.2)
  | none => s

/-- Sends frames to every tile of the row in the group's drop mask. -/
def State.emit (s : State) (g row : Nat) (fs : List Frame) : State :=
  let ts := s.dropTiles g row
  fs.foldl (fun s f => ts.foldl (fun s T => s.shine T f) s) s

/-- `kind2Emit` (R157): the range is read and sent as light; a lost source sends nothing (R371). -/
def execKind2Emit (o : Occ) (s : State) : Host.Outcome State Fault Refusal :=
  .next (match s.occLive o with
    | none => s
    | some (b, k) =>
      let g := entGroup o.entry
      let row := b.rowOf o.row
      let slot := entSlot o.entry
      match s.gread k b.pid true (Occ.va o % 2 ^ 55) (entLen o.entry) with
      | (s1, .ok l) =>
        let key := fillKey g slot
        let fill := Table.get 0 s1.fillNo key
        let s2 : State := { s1 with fillNo := Table.set 0 s1.fillNo key ((fill + 1) % 65536) }
        s2.emit g row (framesOf g slot fill k (drivenLams (s2.groupEntry g) (entSide o.entry)) l)
      | (s1, .lost _) => (s1.loseFill g row slot).doneOcc o
      | (s1, .wait) => s1.holdAt k (.kind2Emit o)
      | (s1, .fault c v) => s1.settleOcc k o.band b o false (.fault c v) (.kind2Emit o))

/-- The kind-2 occurrence of a group under way for a slot of a row. -/
def State.fillOcc (s : State) (g row slot : Nat) : Option Occ :=
  (rowStations row).findSome? fun k =>
    (s.station k).cursors.findSome? fun c =>
      (c.begun.find? fun x => !c.done.contains x &&
        match c.entries[x.1]? with
        | some e => entKind e == 2 && entGroup e == g && entSlot e == slot && entSide e == k / 32
        | none => false).bind fun x => (c.entries[x.1]?).map fun e => c.occ x.1 e x.2

/-- The fill of a slot has ended in a tile; the occurrence ends with the last tile of the row (R89). -/
def State.fillEnded (s : State) (T slot : Nat) : State :=
  let row := T / 64
  match s.slotRow T slot with
  | none => s
  | some (n, j) =>
    let r := s.rel n j slot
    let r1 := { r with got := if r.got.contains (T % 64) then r.got else r.got ++ [T % 64] }
    let s1 := s.setRel n j slot r1
    if (s1.dropTiles r.group row).all fun t => r1.got.contains (t % 64) then
      match s1.fillOcc r.group row slot with | some o => s1.doneOcc o | none => s1
    else s1

/-- The domain of a tile to which a group's light into a slot belongs. -/
def State.lightDom (s : State) (T g slot : Nat) : Option Nat :=
  match s.domOf T (grpPid (s.groupEntry g)) with
  | some d => if bit (s.dom T d).slotMask slot then some d else none
  | none => none

/-- The tile takes frames of the group on this wavelength (R155). -/
def State.takesLight (s : State) (T : Nat) (f : Frame) : Bool :=
  let g := f.group.toNat
  let e := s.groupEntry g
  grpValid e && grpRow e (T / 64) && grpDrop e (s.physX (T / 64) (T % 64)) && !(s.tile T).fenced &&
    (List.range 4).any fun n =>
      Table.get 0 (s.tile T).rx n == 64 * (g + 1) + 32 + f.lambda

/-- A tile asks for a frame again; after 3 repairs of a position the fill is lost (R409). -/
def State.askRepair (s : State) (T : Nat) (f : Frame) : State :=
  let n := f.slot.toNat
  let x := s.slot T n
  let x : Slot := if x.cur = some (f.group.toNat, f.fill.toNat) then x
    else { x with cur := some (f.group.toNat, f.fill.toNat), taken := [], count := 0, total := none, repairs := [], lost := false }
  let pos := f.offset.toNat / 2048
  let r := Table.get 0 x.repairs pos
  if 3 ≤ r then
    let s1 := s.loseFill f.group.toNat (T / 64) n
    match s1.fillOcc f.group.toNat (T / 64) n with | some o => s1.doneOcc o | none => s1
  else
    let s1 := s.setSlot T n { x with repairs := Table.set 0 x.repairs pos (r + 1) }
    s1.send (blockMsg (s1.nodeOf T) (.station f.src) 0x07 (grpPid (s1.groupEntry f.group.toNat))
      (f.group.toNat * 2 ^ 20 + n * 2 ^ 16 + f.fill.toNat) (.bytes (toBytes 4 f.offset.toNat)))

/-- A tile meets a frame (R155, R158, R409). -/
def State.takeFrame (s : State) (T : Nat) (f : Frame) : State :=
    let n := f.slot.toNat
    let g := f.group.toNat
    if !s.takesLight T f ∨ !bit (s.groupEntry g) (176 + n) ∨ (s.lightDom T g n).isNone then s
    else if !f.crcOk then s.askRepair T f
    else
      let x := s.slot T n
      let same := x.cur == some (g, f.fill.toNat)
      let x1 : Slot := if same then x
        else { x with cur := some (g, f.fill.toNat), taken := [], count := 0, total := none, repairs := [], lost := false }
      let pos := f.offset.toNat / 2048
      if x1.taken.contains pos then s
      else
        let count := x1.count + f.payload.length
        let total := if f.last then some (f.offset.toNat + f.payload.length) else x1.total
        let x2 : Slot := { x1 with taken := x1.taken ++ [pos], count := count, total := total }
        let s1 := ({ s with slotMem := Memory.write s.slotMem (slotAddr T n f.offset.toNat) f.payload } : State).freshWords
          fun w => slotBadKey T n f.offset.toNat ≤ w && w < slotBadKey T n (f.offset.toNat + f.payload.length)
        if total = some count then
          (s1.setSlot T n { x2 with full := true, fmt := f.fmt, fill := f.fill, scaleOff := f.scaleOff, len := count,
                                    due := none }).fillEnded T n
        else s1.setSlot T n x2

/-- `lightFrame`: the tile meets the frame, and the next one on its wavelength follows. -/
def execLightFrame (T : Nat) (f : Frame) (s : State) : Host.Outcome State Fault Refusal :=
  .next ((s.takeFrame T f).shineNext T f.lambda)

/-- `frameRepairRequest`: the station reads the frame's bytes again and sends it to the whole group (R409, R410). -/
def execFrameRepairRequest (m : Msg) (s : State) : Host.Outcome State Fault Refusal :=
  .next (match m.dst, m.pay with
    | .station k, .bytes l =>
      let g := fld m.arg 20 12
      let slot := fld m.arg 16 4
      let off := ofBytes l
      let row := k % 32
      match s.fillOcc g row slot with
      | none => s
      | some o =>
        match s.occLive o with
        | none => s
        | some (b, _) =>
          let len := Nat.min 2048 (entLen o.entry - off)
          if len = 0 then s
          else match s.gread k b.pid true ((Occ.va o + off) % 2 ^ 55) len with
            | (s1, .ok p) =>
              let lams := drivenLams (s1.groupEntry g) (entSide o.entry)
              s1.emit g row [{ group := BitVec.ofNat 12 g, slot := BitVec.ofNat 4 slot, fill := m.arg.extractLsb' 0 16, fmt := 15,
                               last := off + len == entLen o.entry, offset := BitVec.ofNat 17 off, scaleOff := 0, payload := p,
                               lambda := (lams[off / 2048 % lams.length]?).getD 0, src := k, crcOk := true }]
            | (s1, .lost _) => (s1.loseFill g row slot).doneOcc o
            | (s1, .wait) => s1.holdAt k (.frameRepairRequest m)
            | (s1, .fault c v) => s1.settleOcc k o.band b o false (.fault c v) (.frameRepairRequest m)
    | _, _ => s)

/-! ## Releases and lost fills (R92, R159, R160, R371) -/

/-- A tile of row j of a band has released a slot; with the last tile of the row the slot is released there (R159). -/
def State.releaseAt (s : State) (n j T slot : Nat) : State :=
  let r := s.rel n j slot
  if r.free then s
  else
    let r1 := { r with cols := if r.cols.contains (T % 64) then r.cols else r.cols ++ [T % 64] }
    if (s.dropTiles r.group (T / 64)).all fun t => r1.cols.contains (t % 64) then
      (s.setRel n j slot { r1 with free := true, cols := [], got := [] }).runRow (T / 64)
    else s.setRel n j slot r1

/-- `slotRelease` (R159): the tile's contribution to the release of the slot in the band row it runs reaches its station. -/
def execSlotRelease (T slot : Nat) (s : State) : Host.Outcome State Fault Refusal :=
  .next (match s.slotRow T slot with
    | some (n, j) => s.releaseAt n j T slot
    | none => s)

/-- `lostFill`: commands that wait on the slot fail, `wstat.wait` completes, and a tile that holds nothing of the slot
stands released (R371). -/
def execLostFill (T slot : Nat) (s : State) : Host.Outcome State Fault Refusal :=
  .next (
    let x := s.slot T slot
    if x.full then s else (s.setSlot T slot { x with lost := true }).signalRelease T slot)

end Sys2Proof.Machine
end

