-- ==== Sys2Proof/Machine/Scroll.lean ====
section
/-! DEFINITION. The scroll: readiness, step start, stage entry and stage done (R34 to R44), wave commit (R45, R252), band
finish (R39), step overrun (R360), replay steps (R413), and freezing (R48, R359). -/

namespace Sys2Proof.Machine

open Bits

/-! ## Saddles (R35 to R38) -/

/-- The saddle buffer that is active at a step (R34). -/
def Dom.saddleAt (d : Dom) (t : Nat) : Nat := if t % 2 = 1 then d.sbbOff else d.sba

/-- Sends a saddle for step t to a tile, in messages of at most 1,008 bytes on class S (R36, R37). -/
def State.sendSaddle (s : State) (src : Node) (sdom pid T t : Nat) (b : List Byte) : State :=
  match s.domOf T pid with
  | none => s
  | some d =>
    let base := (s.dom T d).saddleAt t
    ((chunks 1008 (b.length / 1008 + 1) b).zipIdx).foldl (fun s x =>
      s.send { blockMsg src (s.nodeOf T) 0x19 pid (base + 1008 * x.2) (.bulk x.1 (saddleKey t) Issuer.none false) with
                 sdom := BitVec.ofNat 2 sdom }) s

/-- `saddleMessage`: the bytes are written into the inactive buffer and counted (R40). -/
def execSaddleMessage (m : Msg) (s : State) : Host.Outcome State Fault Refusal :=
  .next (match m.dst, m.pay with
    | .router x y, .bulk b key _ _ =>
      match s.logical x y with
      | none => s
      | some T =>
        match s.domOf T m.pid.toNat with
        | none => s
        | some d =>
          if (s.tile T).fenced then s
          else
            ((s.lsStore T (fld m.arg 0 24) b).modDom T d fun v =>
              { v with due := Table.set 0 v.due key (Table.get 0 v.due key + b.length) }).post (.tileReady T d)
    | _, _ => s)

/-- What a read of a saddle's source gave: bytes, or a reason to come back. -/
inductive Got where
  | ok (b : List Byte)
  | later
deriving DecidableEq, Repr

/-- A station reads saddle bytes; while the line is lost or held the event waits, and at a fault the stream parks
(R371, R381). -/
def State.readSaddle (s : State) (n : Nat) (b : Band) (st va len : Nat) (e : Event) : State × Got :=
  let k := b.rowOf 0
  match s.gread k b.pid true (va % 2 ^ 55) len with
  | (s1, .ok l) => (s1, .ok l)
  | (s1, .fault c v) =>
    let T := ((s.liveTiles b 0).head?).getD 0
    (s1.parkTier k b.pid st T ((s.bandDom n T).getD 0) c v false e, .later)
  | (s1, _) => (s1.holdAt k e, .later)

/-- The bytes of a stage's saddle (R31). -/
def State.saddleLen (s : State) (b : Band) (st : Nat) : Nat :=
  match s.stageRec b st with | some r => recSaddle r | none => 4096

/-- A stage's initial saddle for a column (R37). -/
def State.initialSaddle (s : State) (n : Nat) (b : Band) (st c : Nat) (e : Event) : State × Got :=
  let len := s.saddleLen b st
  if b.saddleInit = 0 then (s, .ok (List.replicate len 0)) else s.readSaddle n b st (b.slotOf b.saddleInit st c) len e

/-- The saddle that wave w enters stage st with, for a column: initial, or as the history holds it (R37, R38). -/
def State.entrySaddle (s : State) (n : Nat) (b : Band) (st w c : Nat) (e : Event) : State × Got :=
  if w = 0 then s.initialSaddle n b st c e
  else s.readSaddle n b st (b.histEntry (b.tau (w - 1) st) ((w - 1) % b.height) c) (s.saddleLen b st) e

/-- The entry saddles of a row's tiles; `none` when one of them has to wait. -/
def State.rowSaddles (s : State) (n : Nat) (b : Band) (ts : List Nat) (st w : Nat) (e : Event) :
    State × Option (List (Nat × List Byte)) :=
  ts.foldl (fun acc T =>
    match acc.2 with
    | none => acc
    | some l =>
      match acc.1.entrySaddle n b st w (T % 64 - b.col0) e with
      | (s1, .ok x) => (s1, some (l ++ [(T, x)]))
      | (s1, .later) => (s1, none)) (s, some [])

/-- Whether a tile has received the saddle for a step. -/
def State.hasSaddle (s : State) (n : Nat) (b : Band) (T t st : Nat) : Bool :=
  match s.bandDom n T with
  | some d => s.saddleLen b st ≤ Table.get 0 (s.dom T d).due (saddleKey t)
  | none => true

/-- The smallest MARKER of saddles. -/
def lowMarker (l : List (Nat × List Byte)) : Nat :=
  match l.map fun x => ofBytes (x.2.take 8) with
  | [] => 0
  | m :: rest => rest.foldl Nat.min m

/-- `parkedSaddleDelivery` (R37): band row 0's west station sends the saddle for the next step. -/
def execParkedSaddleDelivery (n : Nat) (s : State) : Host.Outcome State Fault Refusal :=
  .next (match s.bandOf n with
    | none => s
    | some b =>
      let t := b.nextStep
      match b.runAt t 0 with
      | none => s
      | some (st, w) =>
        if w = 0 then s
        else
          let ts := (s.liveTiles b 0).filter fun T => !s.hasSaddle n b T t st
          match s.rowSaddles n b ts st w (.parkedSaddleDelivery n) with
          | (s1, none) => s1
          | (s1, some l) => l.foldl (fun s x => s.sendSaddle (.station (b.rowOf 0)) 0 b.pid x.1 t x.2) s1)

/-- The kept accumulators of a band's tiles are loaded from the image behind the initial saddles (R39); `false` while a
line of it has to be waited for. -/
def State.loadKept (s : State) (n : Nat) (b : Band) (e : Event) : State × Bool :=
  if b.saddleInit = 0 then (s, true)
  else
    let accs := b.tiles.flatMap fun T => (onesOf b.accKeep 64).map fun a => (T, a)
    (accs.zipIdx).foldl (fun (acc : State × Bool) x =>
      if !acc.2 then acc
      else match acc.1.readSaddle n b 0 (b.accSlot b.saddleInit x.2) 16384 e with
        | (s1, .ok l) => (s1.setAccBytes x.1.1 x.1.2 l, true)
        | (s1, .later) => (s1, false)) (s, true)

/-- The launch of a band, with its number. -/
def State.launchAt (s : State) (b : Band) : Option (Nat × Launch) :=
  (s.regionOf b.region).bind fun r => (s.launchOf r.launch).map fun la => (r.launch, la)

/-- The bands of a launch whose kept accumulators are still to be loaded (R39, R58). -/
def State.loadsOf (s : State) (b : Band) : List Nat := match s.launchAt b with | some x => x.2.loads | none => []

/-- A band's kept accumulators stand loaded; with the launch's last band its controllers start (R58, step 4). -/
def State.loaded (s : State) (n : Nat) (b : Band) : State :=
  match s.launchAt b with
  | none => s
  | some (l, la) =>
    let rest := la.loads.filter (· != n)
    let s1 := s.setLaunch l (some { la with loads := rest })
    if rest.isEmpty then (s1.bandsOf l).foldl (fun s x => s.recheck x.1 x.2) s1 else s1

/-- `initialSaddleDelivery` (R37, R321): the delivery serves as the stage-done report; at launch the kept accumulators of
every band are loaded first (R39, R58). -/
def execInitialSaddleDelivery (n st : Nat) (s : State) : Host.Outcome State Fault Refusal :=
  .next (match s.bandOf n with
    | none => s
    | some b =>
      if (s.loadsOf b).contains n then
        match s.loadKept n b (.initialSaddleDelivery n st) with
        | (s1, true) => s1.loaded n b
        | (s1, false) => s1
      else if !(s.loadsOf b).isEmpty ∨ b.nextStep ≠ st ∨ b.runAt st 0 ≠ some (st, 0) then s
      else
        match s.rowSaddles n b (s.liveTiles b 0) st 0 (.initialSaddleDelivery n st) with
        | (s1, none) => s1
        | (s1, some l) =>
          let k := b.rowOf 0
          (rowStations k).foldl (fun s i =>
            s.send (ctrlMsg k (.station i) 0x13 b.pid (2 * 2 ^ 30 + n % 2 ^ 16) (.done n 0 st 0 (lowMarker l))))
            ((l.filter fun x => !s1.hasSaddle n b x.1 st st).foldl (fun s x =>
              s.sendSaddle (.station k) 0 b.pid x.1 st x.2) s1))

/-! ## Ready (R40) -/

/-- `tileReady`: the tile is ready for the next step when its run is over and all that is due has arrived. -/
def execTileReady (T d : Nat) (s : State) : Host.Outcome State Fault Refusal :=
  .next (match s.bandAt T d with
    | none => s
    | some (n, b) =>
      let dm := s.dom T d
      let j := dm.bRow
      let busy : Bool := b.started && match b.runAt b.step j with
        | some (st, w) => !s.ranOut n T st w b.step
        | none => false
      let replaying : Bool := match b.replay with | some r => r.row == j | none => false
      if (s.tile T).fenced ∨ b.finished ∨ busy ∨ replaying ∨ dm.isReady then s
      else if (s.expects b b.nextStep j).all fun x => x.2 ≤ Table.get 0 dm.due x.1 then
        (s.setDom T d { dm with isReady := true }).signal T d 0x11 (.station (T / 64)) 0 (.ready n j T)
      else s)

/-- Every tile of the band that is not fenced has contributed ready. -/
def State.allReady (s : State) (b : Band) : Bool :=
  b.rows.all fun j => (s.liveTiles b j).all fun T => b.readyT.contains (j, T)

/-- A ready contribution reaches station k: it goes on over the spine to the controller, the west station of band row 0,
and is ANDed there (R8, R40). -/
def State.readyAt (s : State) (k n j T : Nat) : State :=
  match s.bandOf n, s.bandDom n T with
  | some b, some d =>
    if k ≠ b.rowOf 0 then s.send (ctrlMsg k (.station (b.rowOf 0)) 0x11 b.pid 0 (.ready n j T))
    else if !(s.dom T d).isReady ∨ b.readyT.contains (j, T) then s
    else
      let b1 := { b with readyT := b.readyT ++ [(j, T)] }
      let s1 := s.setBand n (some b1)
      if s1.allReady b1 then s1.kick n else s1
  | _, _ => s

/-- `readyReduction`: a tile's contribution reaches the west station of its band row (R40). -/
def execReadyReduction (n j T : Nat) (s : State) : Host.Outcome State Fault Refusal :=
  .next (match s.bandOf n with
    | some b => s.readyAt (b.rowOf j) n j T
    | none => s)

/-! ## Step start (R41) -/

/-- Rows whose stations are not yet primed for the next step, or have a writeback of the present one under way. -/
def State.bandPrimed (s : State) (n : Nat) (b : Band) : Bool :=
  b.rows.all fun j =>
    (match b.runAt b.nextStep j with | some (st, w) => s.rowPrimed n b j st w | none => true) &&
      (!b.started || match b.runAt b.step j with | some (st, w) => s.rowWritten n b j st w | none => true)

/-- The band's last step is complete, or it has no wave to run (R30). -/
def Band.over_ (b : Band) : Bool :=
  match b.total with
  | some 0 => true
  | some _ => b.started && match b.lastStep with | some t => t ≤ b.step | none => false
  | none => false

/-- The start reply of a launch follows once every band has started step 0 (R57). -/
def State.startReply (s : State) (l : Nat) : State :=
  match s.launchOf l with
  | some la =>
    if !la.started && (s.bandsOf l).all fun b => b.2.started || b.2.finished then
      (s.answerReq la.sv la.req 0).setLaunch l (some { la with started := true })
    else s
  | none => s

/-- A held band at its step boundary: the freeze of its region can begin once every band of the region is there (R48,
R359). -/
def State.frozenBoundary (s : State) (r : Nat) : State :=
  match s.regionOf r with
  | some x =>
    if x.phase = 2 ∧ x.req.isSome ∧ x.limit = 0 ∧ (s.regionBands r).all (fun e => s.allReady e.2) then
      ((s.setRegion r (some { x with limit := s.mcycle + 2 ^ 26 })).post (.freezeImageWrite r)).after (2 ^ 26) (.freezeAbandon r)
    else s
  | none => s

/-- The next step starts (R41). -/
def State.beginStep (s : State) (n : Nat) (b : Band) : State :=
  let t := b.nextStep
  let b1 := { b with step := t, started := true, startAt := s.mcycle, readyT := [], overrun := false }
  let s1 := b1.tiles.foldl (fun s T =>
    match s.bandDom n T with | some d => s.modDom T d fun v => { v with isReady := false } | none => s) (s.setBand n (some b1))
  let s2 := (b1.rows.flatMap fun j => rowStations (b1.rowOf j)).foldl (fun s k =>
    s.modStation k fun x => { x with cursors := x.cursors.filter fun c => c.band != n || t ≤ b1.tau (c.wave + 1) c.stage }) s1
  let s3 := b1.rows.foldl (fun s j =>
    s.send (ctrlMsg (b1.rowOf 0) (.station (b1.rowOf j)) 0x13 b1.pid (n % 2 ^ 16) (.start n t))) s2
  let s4 := if b1.gaitMax = 0 then s3 else s3.after b1.gaitMax (.stepOverrun n t)
  let s5 := match b1.runAt (t + 1) 0 with
    | some (st, w) =>
      if w = 0 then s4.post (.initialSaddleDelivery n st)
      else if b1.height < b1.stages then s4.post (.parkedSaddleDelivery n) else s4
    | none => s4
  match s5.regionOf b.region with | some r => s5.startReply r.launch | none => s5

/-- `stepStart`: the controller starts the next step when every row is ready, every station is primed and GAIT_MIN has
passed; after the last step the band finishes. -/
def execStepStart (n : Nat) (s : State) : Host.Outcome State Fault Refusal :=
  .next (match s.bandOf n with
    | none => s
    | some b =>
      if b.finished then s
      else match b.replay with
        | some r => s.post (.replayStep n r.stage)
        | none =>
          if !(s.loadsOf b).isEmpty then s
          else if b.over_ then (if b.total = some 0 ∨ s.allReady b then s.post (.bandFinish n) else s)
          else if !s.allReady b then s
          else if b.holding then s.frozenBoundary b.region
          else if !s.bandPrimed n b then s
          else if b.started ∧ s.mcycle < b.startAt + b.gaitMin then
            (if s.timers.any (fun t => t.2 == .stepStart n) then s
             else s.after (b.startAt + b.gaitMin - s.mcycle) (.stepStart n))
          else s.beginStep n b)

/-! ## Stage entry (R34) -/

/-- A stage thread's state at stage entry (R34, item 6). -/
def startThread (t : Thread) (rec_ : BitVec 2048) (i now : Nat) : Thread :=
  let sel := fld rec_ (8 + 2 * i) 2
  let t0 : Thread := { Thread.reset with
    v := t.v, parity := t.parity, seq := t.seq, outst := t.outst, unfl := t.unfl, idx := i, run := .ready, readyAt := now,
    pc := (rec_.extractLsb' (64 + 32 * sel) 32).setWidth 64, fmtA := rec_.extractLsb' 304 4,
    fmtB := rec_.extractLsb' 308 4, scaleA := rec_.extractLsb' 320 24, scaleB := rec_.extractLsb' 344 24 }
  (t0.wx 1 (BitVec.ofNat 64 i)).wx 2 (rec_.extractLsb' 192 64)

/-- The receivers' tuning of a record, by the groups' RXLAM fields as they stand; a receiver that the domain tuned before
and no longer enables goes dark (R34, R155). -/
def tuneRx (groups : Tbl (BitVec 256)) (rx : Tbl Nat) (old new : BitVec 2048) : Tbl Nat :=
  [0, 1, 2, 3].foldl (fun t n =>
    if bit new (312 + n) then
      let g := fld new (464 + 12 * n) 12
      Table.set 0 t n (64 * (g + 1) + fld (Table.get 0 groups g) (72 + 6 * n) 6)
    else if bit old (312 + n) then Table.set 0 t n 0 else t) rx

/-- Barriers held by a domain are those of its record (R31, R179). -/
def ownBars (bars : Tbl Barrier) (d : Nat) (mask : Nat) : Tbl Barrier :=
  (List.range 16).foldl (fun t n =>
    let b := Table.get Barrier.reset t n
    if mask.testBit n then Table.set Barrier.reset t n { b with owner := d + 1 }
    else if b.owner = d + 1 then Table.set Barrier.reset t n Barrier.reset else t) bars

/-- The stage entry of a tile (R34). -/
def State.enterStage (s : State) (T d : Nat) (b : Band) (st w t : Nat) (rec_ : BitVec 2048) : State :=
  let dm := s.dom T d
  let sad := dm.saddleAt t
  let marker := BitVec.ofNat 64 (s.lsNum T sad 8)
  let dm1 : Dom :=
    { dm with sbb := t % 2 == 1, marker := marker, stage := BitVec.ofNat 16 st,
              wave := BitVec.ofNat 32 (b.firstWave + w), step := BitVec.ofNat 64 t, srec := rec_, running := true,
              slotMask := rec_.extractLsb' 448 16, accMask := rec_.extractLsb' 384 64, barMask := rec_.extractLsb' 368 16,
              due := Table.erase (fun k _ => k == saddleKey t || (b.edges.any fun e => e.to_ == st && k == edgeKey st e.idx)) dm.due,
              idleAt := none }
  let k := recThreads rec_
  let s1 := (s.setDom T d dm1).modTile T fun tl =>
    { tl with rx := tuneRx s.groups tl.rx dm.srec rec_, bars := ownBars tl.bars d dm1.barMask.toNat
              ports := (List.range 8).foldl (fun p i =>
                let q := Table.get SPort.reset p i
                Table.set SPort.reset p i { q with resume := Table.set 0 q.resume d (if bit rec_ (53 + i) then s.lsNum T (sad + 8 + 8 * i) 8 else 0) }) tl.ports
              threads := (List.range dm.thrCount).foldl (fun ts i =>
                let h := dm.thrFirst + i
                let x := Table.get Thread.reset ts h
                Table.set Thread.reset ts h (if i < k then startThread x rec_ i s.tcycle else { x with run := .idle })) tl.threads }
  let s2 := s1.signalMarker T d
  if k = 0 then s2.post (.stageDone T d) else s2

/-- `stageEntry`: on the arriving step start the tile enters its stage; stage 0 waits until its commit half has drained. -/
def execStageEntry (T d : Nat) (s : State) : Host.Outcome State Fault Refusal :=
  .next (match s.bandAt T d with
    | none => s
    | some (n, b) =>
      let dm := s.dom T d
      match b.present dm.bRow with
      | none => s
      | some (st, w, t) =>
        let early : Bool := match b.replay with | some r => r.row == dm.bRow && r.phase != 2 | none => false
        if (s.tile T).fenced ∨ !b.started ∨ early ∨ s.inRun n T st w t then s
        else if st = 0 ∧ dm.halfCount (w / b.height % 2) ≠ 0 then s
        else match s.stageRec b st with
          | none => s.holdAt (b.rowOf dm.bRow) (.stageEntry T d)
          | some r => s.enterStage T d b st w t r)

/-! ## Stage done (R36, R44, R93, R173) -/

/-- CRC-64 with the ECMA-182 polynomial (R413). -/
def crc64 (l : List Byte) : W64 :=
  l.foldl (fun c b =>
    (List.range 8).foldl (fun (c : W64) _ => if bit c 63 then (c <<< 1) ^^^ 0x42F0E1EBA9EA3693 else c <<< 1)
      (c ^^^ ((b.setWidth 64 : W64) <<< (56 : Nat)))) (0 : W64)

/-- The header that a tile writes into its active saddle (R35, R173). -/
def State.saddleHeader (s : State) (T d : Nat) : List Byte :=
  toBytes 8 (s.dom T d).marker.toNat ++ (List.range 8).flatMap fun p =>
    toBytes 8 (match (s.port T p).cur with | some x => if x.cmd.iss.dom = d then x.pos else 0 | none => 0)

/-- The ports of a domain stop: current and queued patterns go, and a stream that no pattern names any more and that is
acknowledged is released (R173, R175). -/
def State.stopPorts (s : State) (T d : Nat) : State :=
  (List.range 8).foldl (fun s p =>
    let q := s.port T p
    let s1 := s.setPort T p { q with cur := q.cur.filter fun x => x.cmd.iss.dom != d, queue := q.queue.filter fun x => x.cmd.iss.dom != d }
    match q.cur with
    | some x =>
      if x.cmd.iss.dom = d ∧ (layoutOf x.cmd.desc).ordered then s1.releasePortTx T (layoutOf x.cmd.desc).stream else s1
    | none => s1) s

/-- A replayed saddle is compared with the one that the history holds (R413, item 3). -/
def State.replayMatches (s : State) (k : Nat) (b : Band) (r : Replay) (w st c : Nat) (l : List Byte) : Bool :=
  let isLast := match r.todo with | (_, x) :: _ => x == st && r.todo.length == 1 | [] => true
  if isLast && !r.kept.contains c then true
  else
    match (s.gread k b.pid true (b.histEntry (b.tau w st) r.row c % 2 ^ 55) l.length).2 with
    | .ok old => crc64 old == crc64 l
    | _ => true

/-- What a tile sends at the end of its stage, its active saddle and the buffers of feedback edges, holds no word that has
failed its check (R369, R370). -/
def State.leavesGood (s : State) (T : Nat) (dm : Dom) (es : List Edge) : Bool :=
  !s.lsBad T dm.saddleActive dm.saddleSize && !(es.any fun e => s.lsBad T e.off e.len)

/-- What leaves has been read: one-bit errors in it are corrected and counted (R369). -/
def State.readLeaving (s : State) (T : Nat) (dm : Dom) (es : List Edge) : State :=
  s.scrub (fun w => inStore T dm.saddleActive dm.saddleSize w || es.any fun e => inStore T e.off e.len w) false

/-- The tile's stage is done: header, history, saddle and feedback edges go out (R36, R38, R44). Where a word of them has
failed its check nothing goes out and the launch is told: the stage is not done (R370; log 146). -/
def State.finishStage (s : State) (T d : Nat) (b : Band) (st w t : Nat) : State :=
  let dm := s.dom T d
  let j := dm.bRow
  let c := T % 64 - b.col0
  let k := b.rowOf j
  let s0 := (s.lsStore T dm.saddleActive (s.saddleHeader T d))
  let saddle := s0.lsRead T dm.saddleActive dm.saddleSize
  let rep := match b.replay with | some r => if r.row = j then some r else none | none => none
  let passOn := b.passesOn j st
  let es := b.edges.filter fun e => e.from_ == st && w % b.height + e.k < b.height
  if !s0.leavesGood T dm es then s0.noticeLost k b.pid (lsAddr T dm.saddleActive)
  else
  let hist := if passOn then s0.gwrite k b.pid true [] (b.histEntry t j c % 2 ^ 55) saddle else (s0, .ok [])
  match hist with
  | (s1, .wait) => s1.holdAt k (.stageDone T d)
  | (s1, .fault cause v) => s1.parkTier k b.pid st T d cause v true (.stageDone T d)
  | (s1, _) =>
    let bad := match rep with | some r => !s0.replayMatches k b r w st c saddle | none => false
    if bad then
      s1.send (blockMsg (.station k) (.service (quadrantOf (.station k))) 0x21 b.pid 0x36
        (.words (BitVec.ofNat 64 t) (BitVec.ofNat 64 (2 ^ 62 + T * 2 ^ 50 + d * 2 ^ 48))))
    else
      let j' := (j + 1) % b.height
      let s1 := s1.readLeaving T dm es
      let s2 := if passOn && (j + 1 < b.height || b.height == b.stages) then
          s1.sendSaddle (s1.nodeOf T) d b.pid (b.rowOf j' * 64 + T % 64) (t + 1) saddle
        else s1
      let s3 := es.foldl (fun s e =>
        let T' := b.rowOf (w % b.height + e.k) * 64 + T % 64
        ((chunks 1008 (e.len / 1008 + 1) (s.lsRead T e.off e.len)).zipIdx).foldl (fun s x =>
          s.send { s.tileMsg T d 0x18 (s.nodeOf T') (e.off + 1008 * x.2) (.bulk x.1 (edgeKey e.to_ e.idx) Issuer.none false) with
                     seq := 0xFFFF }) s) s2
      let s4 := (s3.stopPorts T d).modDom T d fun v =>
        { v with running := false, resid := v.resid.filter fun r => r.wave != w || r.stage != st }
      let s5 := (onesOf dm.slotMask.toNat 16).foldl (fun s i =>
        let x := s.slot T i
        match x.due with
        | some (_, st', w') => if w' = w ∧ st' = st then s.setSlot T i { x with due := none } else s
        | none => s) s4
      ((s5.post (.tileReady T d)).signalMarker T d).runRow (b.rowOf j)

/-- Every started thread of every tile of the row has finished, so the final row marker can be fixed (R93). -/
def State.rowOver (s : State) (n : Nat) (b : Band) (j st w t : Nat) : Bool :=
  (s.liveTiles b j).all fun x => s.inRun n x st w t &&
    match s.bandDom n x with | some d => s.threadsDone x d | none => true

/-- `stageDone`: every started thread has finished, and the kind-3 occurrences of R93 have read the tile's range. -/
def execStageDone (T d : Nat) (s : State) : Host.Outcome State Fault Refusal :=
  .next (match s.bandAt T d with
    | none => s
    | some (n, b) =>
      let dm := s.dom T d
      match b.present dm.bRow with
      | none => s
      | some (st, w, t) =>
        if (s.tile T).fenced ∨ !s.inRun n T st w t ∨ !dm.running ∨ !s.threadsDone T d then s
        else
          let cs := (rowStations (b.rowOf dm.bRow)).filterMap fun k => (s.cursorOf k n dm.bRow st w).map fun c => (k, c)
          if cs.all fun x => badPeriod x.2.period || x.2.kind3Done (x.1 / 32) then s.finishStage T d b st w t
          else if (cs.any fun x => x.2.final.isNone) && s.rowOver n b dm.bRow st w t then
            s.signalMarker T d
          else s)

/-! ## Wave commit (R45, R251, R252) -/

/-- Wave w has completed its last stage in every tile of its row. -/
def State.waveRan (s : State) (n : Nat) (b : Band) (w : Nat) : Bool :=
  let t := b.tau w (b.stages - 1)
  let j := w % b.height
  b.started && b.admits w &&
    (t < b.step || (t == b.step && (s.liveTiles b j).all fun T => s.ranOut n T (b.stages - 1) w t)) &&
    match b.replay with
    | some r => r.row != j || (r.todo.all fun x => x.1 != w) || (r.stage + 1 == b.stages && r.phase == 2 &&
        (s.liveTiles b j).all fun T => s.ranOut n T (b.stages - 1) w t)
    | none => true

/-- A guard on the way of a message drops it (R252, R434, R439); `fuel` bounds the hops. -/
def State.pathDrop (s : State) : Nat → Node → Msg → Bool
  | 0, _, _ => false
  | fuel + 1, a, m =>
    if a = m.dst then false
    else match s.nextHop a m with
      | none => false
      | some n => (s.guardDrop a n m).isSome || s.linkDrop a n m || s.pathDrop fuel n m

/-- Carries out one commit entry as a plain store at user privilege (R252): the new state and the cause of a failure, 0 for
none, or no cause when the line is held. -/
def State.drainEntry (s : State) (T d : Nat) (at_ : Nat) : State × Option Nat :=
  let dm := s.dom T d
  let e := BitVec.ofNat 128 (ofBytes (s.lsRead T at_ 16))
  let n := 2 ^ fld e 62 2
  let data := (toBytes 8 (fld e 64 64)).take n
  let put_ (T' off : Nat) (shr : Bool) : State × Option Nat :=
    if (s.tile T').fenced then (s, some 0x18)
    else match s.domOf T' dm.pid with
      | none => (s, some 0x08)
      | some d' =>
        if shr ∧ !permits (s.dom T' d') [1] then (s, some 0x08)
        else if shr ∧ T' ≠ T ∧ s.pathDrop 300 (s.nodeOf T) (s.tileMsg T d 0x02 (s.nodeOf T') 0 .none) then (s, some 0x08)
        else if !(s.dom T' d').holds off n ∨ (T' ≠ T ∧ (s.dom T' d').touchesCode off n) then (s, some 0x09)
        else (s.lsStore T' off data, some 0)
  match fld e 60 2 with
  | 0 =>
    let va := fld e 0 55
    match s.gwrite (xlatStation dm.pid va) dm.pid true [] va data with
    | (s1, .ok _) => (s1, some 0)
    | (s1, .fault c _) => (s1, some c)
    | (s1, .lost _) => (s1, some 0x13)
    | (s1, .wait) => (s1, none)
  | 1 => put_ (fld e 24 12) (fld e 0 24) false
  | _ => if dm.inFabric (fld e 24 12) then put_ (dm.tileOfF (fld e 24 12)) (fld e 0 24) true else (s, some 0x08)

/-- The commit of a wave has performed: the halves are empty, and what waited for them goes on. -/
def State.endCommit (s : State) (n : Nat) (b : Band) (w : Nat) : State :=
  let h := w / b.height % 2
  let b1 := { b with commits := w + 1, progress := (0, 0) }
  let ts := b.rowTiles (w % b.height)
  let s1 := ts.foldl (fun s T =>
    match s.bandDom n T with | some d => s.modDom T d fun v => v.setHalf h 0 | none => s) (s.setBand n (some b1))
  let s2 := ts.foldl (fun s T => match s.bandDom n T with | some d => s.post (.stageEntry T d) | none => s) s1
  let s3 := if s2.waveRan n b1 (w + 1) then s2.post (.waveCommit n (w + 1)) else s2
  s3.kick n

/-- `waveCommit`: the next entry of the wave's commit is drained, column by column in ascending entry order; after the
last one the next wave may commit. -/
def execWaveCommit (n w : Nat) (s : State) : Host.Outcome State Fault Refusal :=
  .next (match s.bandOf n with
    | none => s
    | some b =>
      if b.commits ≠ w ∨ b.finished ∨ !s.waveRan n b w then s
      else
        let (c, i) := b.progress
        match (b.rowTiles (w % b.height))[c]? with
        | none => s.endCommit n b w
        | some T =>
          let nextCol (s : State) : State := (s.setBand n (some { b with progress := (c + 1, 0) })).post (.waveCommit n w)
          match s.bandDom n T with
          | none => nextCol s
          | some d =>
            let dm := s.dom T d
            let h := w / b.height % 2
            if (s.tile T).fenced ∨ dm.halfCount h ≤ i then nextCol s
            else
              let at_ := dm.commitAt h i
              let again (s : State) : State := (s.setBand n (some { b with progress := (c, i + 1) })).post (.waveCommit n w)
              match s.drainEntry T d at_ with
              | (s1, none) => s1.holdAt (b.rowOf (w % b.height)) (.waveCommit n w)
              | (s1, some 0) => again s1
              | (s1, some cause) =>
                again (s1.faultReport T d cause (BitVec.ofNat 64 (ofBytes (s.lsRead T at_ 8) % 2 ^ 55))
                  (BitVec.ofNat 64 (b.firstWave + w)) (s1.nodeOf T)))

/-! ## Band finish (R39) -/

/-- Copies of the last saddles and of the kept accumulators: destination and source or bytes. -/
def State.finalWrites (s : State) (n : Nat) (b : Band) : State :=
  let total := b.total.getD 0
  let e : Event := .bandFinish n
  let k := b.rowOf 0
  let ps := (List.range b.stages).flatMap fun st => (List.range b.width).map fun c => (st, c)
  let told := ((s.liveTiles b 0).head?).getD 0
  let write (acc : State × Bool) (va : Nat) (l : List Byte) : State × Bool :=
    match acc.1.gwrite k b.pid true [] (va % 2 ^ 55) l with
    | (s1, .wait) => (s1.holdAt k e, false)
    | (s1, .fault cause v) => (s1.parkTier k b.pid 0 told ((s.bandDom n told).getD 0) cause v true e, false)
    | (s1, _) => (s1, true)
  let r1 := ps.foldl (fun (acc : State × Bool) p =>
    if !acc.2 then acc
    else match acc.1.entrySaddle n b p.1 total p.2 e with
      | (s1, .ok l) => write (s1, true) (b.slotOf b.saddleOut p.1 p.2) l
      | (s1, .later) => (s1, false)) (s, true)
  let accs := b.tiles.flatMap fun T => (onesOf b.accKeep 64).map fun a => (T, a)
  let r2 := (accs.zipIdx).foldl (fun (acc : State × Bool) x =>
    if !acc.2 then acc else write acc (b.accSlot b.saddleOut x.2) (acc.1.accBytes x.1.1 x.1.2)) r1
  if r2.2 then r2.1.setBand n (some { b with finished := true }) else r2.1

/-- `bandFinish`: after the last wave's commit the final saddles and kept accumulators are written (R39); the drain of the
region or the launch may then be complete. -/
def execBandFinish (n : Nat) (s : State) : Host.Outcome State Fault Refusal :=
  .next (match s.bandOf n with
    | none => s
    | some b =>
      if b.finished ∨ !b.over_ ∨ b.commits < b.total.getD 0 then s
      else
        let s1 := if b.saddleOut = 0 then s.setBand n (some { b with finished := true }) else s.finalWrites n b
        if (s1.bandOf n).all fun x => x.finished then
          match s1.regionOf b.region with
          | some r =>
            let s2 := s1.startReply r.launch
            if r.phase = 1 then s2.post (.drainComplete b.region) else s2.post (.launchEnd r.launch)
          | none => s1
        else s1)

/-! ## Step overrun (R360) -/

/-- A started thread that has executed neither `sdone` nor `exit`. -/
def Run.unfinished : Run → Bool
  | .idle | .done => false
  | _ => true

def State.unfinished (s : State) (T d : Nat) : List Nat :=
  let dm := s.dom T d
  ((List.range dm.nThreads).map (dm.thrFirst + ·)).filter fun h => (s.thread T h).run.unfinished

/-- `stepOverrun`: the order goes to the band's rows, or, with no thread unfinished and nothing but a saddle, a timetable
precondition or a commit drain in the way, notice 0x34 is sent; once a step. -/
def execStepOverrun (n t : Nat) (s : State) : Host.Outcome State Fault Refusal :=
  .next (match s.bandOf n with
    | none => s
    | some b =>
      if b.step ≠ t ∨ !b.started ∨ b.overrun ∨ b.finished ∨ b.gaitMax = 0 ∨ s.mcycle < b.startAt + b.gaitMax then s
      else
        let s1 := s.setBand n (some { b with overrun := true })
        let ts := (b.tiles.filter fun T => !(s.tile T).fenced).filterMap fun T => (s.bandDom n T).map fun d => (T, d)
        if ts.any fun x => (s.dom x.1 x.2).running && !(s.unfinished x.1 x.2).isEmpty then
          b.rows.foldl (fun s j =>
            s.send (ctrlMsg (b.rowOf 0) (.station (b.rowOf j)) 0x13 b.pid (2 ^ 30 + n % 2 ^ 16) (.overrun n t))) s1
        else if b.holding ∨ b.replay.isSome then s
        else s1.notice (.station (b.rowOf 0)) b.pid 0x34 (BitVec.ofNat 64 t))

/-- `overrunOrder`: every unfinished thread takes step overrun before its next issue; a wait is withdrawn first (R356,
R360). -/
def execOverrunOrder (T d t : Nat) (s : State) : Host.Outcome State Fault Refusal :=
  .next (
    if (s.dom T d).step.toNat ≠ t ∨ !(s.dom T d).running then s
    else (s.unfinished T d).foldl (fun s h =>
      let s1 := s.modThread T h fun x => { x with overrun := true }
      match (s1.thread T h).run with
      | .parked (.fe _) _ => s1.withdraw T h
      | _ => s1) s)

/-! ## Replay steps (R413) -/

/-- A domain keeps what its placement gave it and loses the rest. -/
def Dom.rewound (d : Dom) : Dom :=
  { Dom.reset with
    present := d.present, pid := d.pid, jobPriv := d.jobPriv, fdPolicy := d.fdPolicy, weight := d.weight, launch := d.launch,
    region := d.region, band := d.band, lsBase := d.lsBase, lsSize := d.lsSize, thrFirst := d.thrFirst, thrCount := d.thrCount,
    codeSize := d.codeSize, commitKib := d.commitKib, bucketFirst := d.bucketFirst, bucketCount := d.bucketCount,
    slotMask := d.slotMask, accMask := d.accMask, barMask := d.barMask,
    frow0 := d.frow0, fcol0 := d.fcol0, fheight := d.fheight, fwidth := d.fwidth, bHeight := d.bHeight, bRow := d.bRow,
    bCol := d.bCol, firstWave := d.firstWave, trapBase := d.trapBase, permMask := d.permMask, lastIss := d.lastIss }

/-- The event carries a saddle from one of the nodes. -/
def saddleFrom (ns : List Node) (e : Event) : Bool :=
  match msgOf e with | some m => m.typ == 0x19 && ns.contains m.src | none => false

/-- Every tile of the row is reset but for its local store; the row's slots are released; saddles that it had sent count
for nothing (R413, item 1). -/
def State.rewindRow (s : State) (n : Nat) (b : Band) (j : Nat) : State :=
  let s1 := (s.liveTiles b j).foldl (fun s T =>
    match s.bandDom n T with
    | some d => (s.resetDom T d).setDom T d (s.dom T d).rewound
    | none => s) s
  let mask := (s.liveTiles b j).foldl (fun m T => match s.bandDom n T with | some d => m ||| (s.dom T d).slotMask.toNat | none => m) 0
  let s2 := (onesOf mask 16).foldl (fun s i => s.setRel n j i ⟨true, 0, [], []⟩) s1
  let ns := (b.rowTiles j).map s2.nodeOf
  let s3 : State := { s2 with flight := s2.flight.filter fun e => !saddleFrom ns e }
  (s3.liveTiles b ((j + 1) % b.height)).foldl (fun s T =>
    match s.bandDom n T with
    | some d => s.modDom T d fun v => { v with due := Table.set 0 v.due (saddleKey (b.step + 1)) 0, isReady := false }
    | none => s) (s3.setBand n (some { b with readyT := b.readyT.filter fun x => x.1 != j && x.1 != (j + 1) % b.height }))

/-- Changes a band's replay. -/
def State.setReplay (s : State) (n : Nat) (r : Option Replay) : State :=
  s.modBand n fun b => { b with replay := r }

/-- `replayStep`: the saddles that the original run consumed are delivered and the stage's occurrences run again; once
primed the row enters the stage; after the last stage the band resumes (R413). -/
def execReplayStep (n st : Nat) (s : State) : Host.Outcome State Fault Refusal :=
  .next (match s.bandOf n with
    | none => s
    | some b =>
      match b.replay with
      | none => s
      | some r =>
        let j := r.row
        if r.stage ≠ st ∨ s.timers.any (fun t => t.2 == .replayStep n st) then s
        else match r.todo with
          | [] =>
            match b.again with
            | i :: _ => (s.modBand n fun x => { x with replay := none }).startReplay n i
            | [] =>
              let s1 := s.modBand n fun x => { x with replay := none, holding := false }
              match s1.bandOf n with | some b1 => s1.recheck n b1 | none => s1
          | (w, last) :: rest =>
            let t := b.tau w st
            if r.phase = 0 then
              match s.rowSaddles n b (s.liveTiles b j) st w (.replayStep n st) with
              | (s1, none) => s1
              | (s1, some l) =>
                let s2 := if st = 0 then s1.rewindRow n b j else s1
                let s3 := l.foldl (fun s x =>
                  match s.bandDom n x.1 with
                  | some d => s.lsStore x.1 ((s.dom x.1 d).saddleAt t) x.2
                  | none => s) s2
                let s4 := (rowStations (b.rowOf j)).foldl (fun s k =>
                  s.modStation k fun y => { y with cursors := y.cursors.filter fun c => !c.is n j st w }) s3
                let s5 := s4.setReplay n (some { r with phase := 1 })
                ((rowStations (b.rowOf j)).foldl (fun s k => s.openCursor k n b j st w (lowMarker l)) s5).post (.replayStep n st)
            else if r.phase = 1 then
              if s.rowPrimed n b j st w then
                let s1 := s.setReplay n (some { r with phase := 2 })
                (s1.liveTiles b j).foldl (fun s T =>
                  match s.bandDom n T with | some d => s.post (.stageEntry T d) | none => s) s1
              else s
            else if (s.liveTiles b j).all fun T => s.ranOut n T st w t then
              if st < last then (s.setReplay n (some { r with stage := st + 1, phase := 0 })).post (.replayStep n (st + 1))
              else (s.setReplay n (some { r with todo := rest, stage := 0, phase := 0 })).post (.replayStep n 0)
            else s)

/-! ## Freezing (R48, R359) -/

/-- The region's tiles in the image's order: band row, then column; of several bands, band after band by number (log 132). -/
def State.imageTiles (s : State) (r : Nat) : List (Nat × Nat) :=
  (s.regionBands r).flatMap fun e => e.2.tiles.filterMap fun T => (s.bandDom e.1 T).map fun d => (T, d)

/-- Bytes of a tile's part of an image after its 64 KiB header: local store, accumulators, slots (R48). -/
def State.tileImage (s : State) (T d : Nat) : List Byte :=
  let dm := s.dom T d
  s.lsRead T dm.lsBase dm.lsSize ++ ((onesOf dm.accMask.toNat 64).flatMap fun a => s.accBytes T a) ++
    (onesOf dm.slotMask.toNat 16).flatMap fun n => Memory.read s.slotMem (slotAddr T n 0) 0x20000

def headerBytes (image i : Nat) : List Byte := (List.range 0x10000).map fun o => Config.headerByte image i o

/-- What a tile's header holds. -/
def State.tileHeader (s : State) (T d : Nat) : ImageTile :=
  let dm := s.dom T d
  { no := d
    dom := dm
    threads := (List.range dm.thrCount).map fun i => (i, s.thread T (dm.thrFirst + i))
    slots := (onesOf dm.slotMask.toNat 16).map fun n => (n, s.slot T n)
    bars := (onesOf dm.barMask.toNat 16).map fun n => (n, s.bar T n)
    ports := (List.range 8).map fun p => (p, s.port T p) }

/-- The engine commands, messages and emissions of a region have ended (R48). -/
def State.regionQuiet (s : State) (r : Nat) : Bool :=
  match s.regionOf r with
  | none => true
  | some x =>
    let pid := rcbPid x.rcb
    let mine (T : Nat) : Bool := rcbHas x.rcb T
    let busy (e : Event) : Bool := ofPid pid e || match e with | .lightFrame T _ => mine T | _ => false
    let bs := (s.regionBands r).map (·.1)
    !(s.flight.any busy || s.timers.any fun t => busy t.2) &&
      s.stations.all fun e =>
        (e.2.queue.all fun q => q.2.1 != pid || !mine q.1.iss.tile) &&
          (e.2.engines.all fun g => match g.2 with | some q => q.pid != pid || !mine q.cmd.iss.tile | none => true) &&
          (e.2.cursors.all fun c => !bs.contains c.band || c.begun.all fun y => c.done.contains y ||
            match c.entries[y.1]? with | some en => entKind en == 3 || entKind en == 5 | none => true) &&
          e.2.waiting.all fun y => !busy y

/-- A freeze is given up: the bands go on, and the request is answered (R359). -/
def State.unfreeze (s : State) (n status : Nat) : State :=
  match s.regionOf n with
  | none => s
  | some r =>
    let s1 := s.setRegion n (some { r with phase := 0, req := none, limit := 0 })
    let s2 := (s1.regionBands n).foldl (fun s e => (s.modBand e.1 fun b => { b with holding := false }).kick e.1) s1
    match r.req with | some (k, q) => s2.answerReq k q status | none => s2

/-- `freezeImageWrite`: once the region is quiet its image is written to IMAGE_PTR; lost data abandons the freeze (R48,
R359). -/
def execFreezeImageWrite (n : Nat) (s : State) : Host.Outcome State Fault Refusal :=
  .next (match s.regionOf n with
    | none => s
    | some r =>
      match r.req with
      | none => s
      | some (k, q) =>
        if r.phase ≠ 2 ∨ r.limit = 0 then s
        else if !s.regionQuiet n then s.after 1 (.freezeImageWrite n)
        else
          let ts := s.imageTiles n
          let lost := ts.any fun x =>
            let dm := s.dom x.1 x.2
            s.lsBad x.1 dm.lsBase dm.lsSize || (onesOf dm.accMask.toNat 64).any (s.accBad x.1) ||
              (onesOf dm.slotMask.toNat 16).any (s.slotBad x.1)
          let read (w : Nat) : Bool := ts.any fun x =>
            let dm := s.dom x.1 x.2
            inStore x.1 dm.lsBase dm.lsSize w || ((onesOf dm.accMask.toNat 64).any fun n => inAcc x.1 n w) ||
              (onesOf dm.slotMask.toNat 16).any fun n => inSlot x.1 n w
          if lost then s.unfreeze n 0x12
          else
            let id := s.images.length
            let bytes := (ts.zipIdx).flatMap fun x => headerBytes id x.2 ++ s.tileImage x.1.1 x.1.2
            match s.fwWrite (reqImage q) bytes with
            | (s1, false) => s1.after 1 (.freezeImageWrite n)
            | (s1, true) =>
              let bs := (s.regionBands n).zipIdx
              let img : Image :=
                { height := (rcbRect r.rcb).2.2.1, width := (rcbRect r.rcb).2.2.2, bands := bs.map (·.1.2)
                  cursors := bs.flatMap fun x => s.stations.flatMap fun e =>
                    (e.2.cursors.filter fun c => c.band == x.1.1).map fun c => (x.2, e.1 / 32, c)
                  rels := bs.flatMap fun x => (s.released.filter fun e => e.1 / 512 == x.1.1).map fun e =>
                    (x.2, e.1 % 512, e.2)
                  tiles := ts.map fun x => s.tileHeader x.1 x.2 }
              ((({ s1 with images := s1.images ++ [img] } : State).scrub read false).setRegion n (some { r with req := none, limit := 0 })).answerReq k q 0)

/-- `freezeAbandon`: 2^26 mesh cycles have passed (R359). -/
def execFreezeAbandon (n : Nat) (s : State) : Host.Outcome State Fault Refusal :=
  .next (match s.regionOf n with
    | some r => if r.phase = 2 ∧ r.req.isSome ∧ r.limit ≠ 0 ∧ r.limit ≤ s.mcycle then s.unfreeze n 0x11 else s
    | none => s)

end Sys2Proof.Machine
end

