-- ==== Sys2Proof/Machine/Fencing.lean ====
section
/-! DEFINITION. Fence notices (R397 to R400, R406, R407), remap entries (R14 to R17) and substitution (R411). -/

namespace Sys2Proof.Machine

open Bits

/-! ## Remap tables (R14 to R17) -/

/-- Writes a remap entry in every copy (R14, R16). -/
def State.setRemap (s : State) (row col physX : Nat) : State :=
  { s with remap := Table.set (col + 1) s.remap (row * 64 + col) physX }

/-- The live spares of a row (R15, R17). -/
def State.spares (s : State) (row : Nat) : List Nat :=
  (List.range 66).filter fun x => (s.logical x row).isNone && !s.isFenced x row

def gap (a b : Nat) : Nat := if a < b then b - a else a - b

/-- The spare nearer a column, the west one on a tie (R411). -/
def State.nearSpare (s : State) (row x : Nat) : Option Nat :=
  (s.spares row).foldl (fun (best : Option Nat) y => match best with
    | none => some y
    | some z => if gap y x < gap z x then some y else some z) none

/-- Every band of a region stands at a step boundary, a fenced tile counted as held (R16, R398). -/
def State.regionHeld (s : State) (r : Nat) : Bool :=
  (s.regionBands r).all fun e => e.2.finished || (e.2.holding && s.allReady e.2)

/-- No band of a region has started. -/
def State.regionIdle (s : State) (r : Nat) : Bool := (s.regionBands r).all fun e => !e.2.started

/-- A remap entry may be written: no region with a domain on the tile has started, or all their bands are held (R16). -/
def State.mayRemap (s : State) (rs : List Nat) : Bool := rs.all s.regionIdle || rs.all s.regionHeld

/-- Regions with a domain on a logical tile. -/
def State.regionsAt (s : State) (T : Nat) : List Nat :=
  ((s.tile T).doms.filter fun e => e.2.present).map (·.2.region)

/-- The reduction-table entries of a tile move with its logical number; every node of those groups stands recomputed
(R154, R406, R408). -/
def State.moveReds (s : State) (old new : Nat) : State :=
  let r := s.router old
  let gs := (r.red.filter fun e => bit e.2 63).map (·.1)
  let s1 := (s.modRouter new fun x => { x with red := r.red, up := r.up }).modRouter old fun x =>
    { x with red := [], up := [], ctxs := [], waitRed := [], moved := [] }
  gs.foldl (fun s g =>
    { s with routers := s.routers.map fun e =>
        (e.1, if bit (Table.get 0 e.2.red g) 63 ∧ !e.2.moved.contains g then { e.2 with moved := e.2.moved ++ [g] } else e.2) }) s1

/-- The spare's column enters the drop masks of the groups that name the tile; the old column leaves unless another row
of the group uses it (R411, item 3). -/
def State.moveDrops (s : State) (row old new : Nat) : State :=
  { s with groups := s.groups.map fun e =>
      let g := e.2
      if !grpValid g || !grpRow g row || !grpDrop g old then e
      else
        let g1 := put g (104 + new) 1 1
        let used := (List.range 32).any fun r => r != row && grpRow g r && (s.logical old r).isSome
        (e.1, if used then g1 else put g1 (104 + old) 1 0) }

/-- A spare takes over a logical tile: it starts with an empty local store and without what its domains' runs have left
(R16, R411). -/
def State.substitute (s : State) (row col physX : Nat) : State :=
  let T := row * 64 + col
  let old := s.physX row col
  let s1 := ((s.setRemap row col physX).moveReds (row * 66 + old) (row * 66 + physX)).moveDrops row old physX
  let t := s1.tile T
  let s2 := (s1.lsClear T 0 0x1000000).setTile T
    { Tile.reset with mode := t.mode, table := t.table, rx := t.rx, doms := t.doms.map fun e => (e.1, e.2.rewound) }
  { s2 with slotMem := s2.slotMem.filter fun c => c.1 / 0x20000 / 16 != T
            acc := s2.acc.filter fun c => c.1 / 0x40000 != T }

/-- `remapEntryWrite`: service firmware writes an entry only when no region with a domain on the tile has started, or all
of their bands are held; a table that names a column twice or above 65 is not written (R15, R16). -/
def execRemapEntryWrite (row col physX : Nat) (s : State) : Host.Outcome State Fault Refusal :=
  .next (
    if 31 < row ∨ 63 < col ∨ 65 < physX ∨ s.physX row col = physX ∨ (s.logical physX row).isSome then s
    else if !s.mayRemap (s.regionsAt (row * 64 + col)) then s
    else s.substitute row col physX)

/-! ## Fence notices (R397 to R400) -/

/-- The route from one router to another without fences passes a position. -/
def passes (ax ay bx by_ fx fy : Nat) : Bool :=
  (fy == ay && Nat.min ax bx ≤ fx && fx ≤ Nat.max ax bx) || (fx == bx && Nat.min ay by_ ≤ fy && fy ≤ Nat.max ay by_)

/-- The route of a tree edge passes a position. -/
def edgePasses (a b : Node) (fx fy : Nat) : Bool :=
  match a, b with
  | .router ax ay, .router bx by_ => passes ax ay bx by_ fx fy
  | .router ax ay, .station k => fy == ay && (if k < 32 then fx ≤ ax else ax ≤ fx)
  | .router _ ay, .port p => fx == portCol p && (if p < 24 then fy ≤ ay else ay ≤ fy)
  | _, _ => false

/-- A fence touches a group at a node: the fenced tile is a child or the parent of it, or lies on such an edge. -/
def State.fenceTouches (s : State) (n : Node) (group fx fy : Nat) : Bool :=
  n == .router fx fy ||
    (match s.parentOf n group with | some (m, _) => edgePasses n m fx fy | none => false) ||
    s.routers.any fun e => match Table.get none e.2.up group with
      | some k => s.logicalKey n == some k && edgePasses (nodeOfKey e.1) n fx fy
      | none => false

/-- Sequences of the groups that a fence touches abort at a node, and the groups stand recomputed (R406, R407). -/
def State.fenceReds (s : State) (n : Node) (fx fy : Nat) : State :=
  let r := s.router (nodeKey n)
  let gs := ((r.red.filter fun e => bit e.2 63).map (·.1)).filter fun g => s.fenceTouches n g fx fy
  let s1 := s.modRouter (nodeKey n) fun x => { x with moved := x.moved ++ gs.filter fun g => !x.moved.contains g }
  (r.ctxs.filter fun c => gs.contains c.group).foldl (fun s c => s.post (.reductionAbort n c.group c.rseq false)) s1

/-- Engine commands from a fenced tile are cancelled at a station: their lines are released and no completion is sent
(R400). -/
def State.fenceStation (s : State) (n T : Nat) : State :=
  let st := s.station n
  let lines := ((st.queue.filter fun q => q.1.iss.tile == T).flatMap fun q => q.2.2) ++
    st.engines.flatMap fun e => match e.2 with | some r => if r.cmd.iss.tile = T then r.lines else [] | none => []
  let s1 := s.setStation n
    { st with queue := st.queue.filter fun q => q.1.iss.tile != T
              engines := st.engines.filter fun e => match e.2 with | some r => r.cmd.iss.tile != T | none => false }
  ((s1.pruneTx n).releaseLines lines).kickEngines n

/-- The fenced tile stops; its bands' rows count it as absent (R398, R399). -/
def State.fenceTile (s : State) (T : Nat) : State :=
  let s1 := s.modTile T fun t => { t with fenced := true }
  (List.range 4).foldl (fun s d =>
    match s.bandAt T d with
    | some (n, _) =>
      let j := (s.dom T d).bRow
      let s2 := ((onesOf (s.dom T d).slotMask.toNat 16).foldl (fun s i => (s.releaseAt n j T i).fillEnded T i) s)
      let v := s.dom T d
      (rowStations (T / 64)).foldl (fun s k => s.post (.markerReduction k n j T v.stage.toNat
        ((v.wave.toNat + 2 ^ 32 - v.firstWave) % 2 ^ 32) v.step.toNat 0)) (s2.kick n)
    | none => s) s1

/-- The band whose row holds a replay stands held again, that row to be replayed after the new one (R415). -/
def holdAgain (b : Band) (j : Nat) : Band :=
  { b with holding := true, replay := none, again := match b.replay with
      | some r => if r.row = j ∨ b.again.contains r.row then b.again else b.again ++ [r.row]
      | none => b.again }

/-- What a fence means for one domain of the tile: notice 0x37 with the action, a hold for a replay, or FATAL (R398, R411). -/
def State.fenceDom (s : State) (T d : Nat) (ent : W64) : State :=
  let dm := s.dom T d
  if !dm.present then s
  else
    let again := (s.policyAt dm.pid T d).testBit 2
    let action := if again then 3 else s.fatalAction dm.pid T d
    let s1 := s.putNotice dm.launch ⟨ent, 0, T, d, 0, 0x37, action⟩
    if again then
      (s1.regionBands dm.region).foldl (fun s e =>
        (s.setBand e.1 (some (if e.1 + 1 = dm.band then holdAgain e.2 dm.bRow else { e.2 with holding := true }))).kick e.1) s1
    else s1.fatal dm.pid T d

/-- The service tile of the quadrant deals with a fenced tile in use. -/
def State.fenceService (s : State) (k fx fy : Nat) : State :=
  match s.logical fx fy with
  | none => s
  | some T =>
    let i := ((s.router (5000 + k)).fences.findIdx? fun e => e.1 == fy * 66 + fx).getD 0
    let ent := s.fenceEnt (s.router (5000 + k)) i
    let ds := (List.range 4).filter fun d => (s.dom T d).present
    let replays := ds.any fun d => (s.policyAt (s.dom T d).pid T d).testBit 2
    let s1 := ds.foldl (fun s d => s.fenceDom T d ent) s
    if replays then s1.after (2 ^ 15) (.substitution fy (T % 64)) else s1

/-- A full fence set takes no further notice: the service tiles drain every region (R397). -/
def State.drainAll (s : State) : State :=
  s.regions.foldl (fun s e => match e.2 with | some r => if r.phase = 0 then s.startDrain e.1 none else s | none => s) s

/-- `fenceNotice`: the block adds the position to its fence set and acts on it (R397 to R400, R406, R407, R422). -/
def execFenceNotice (n : Node) (fx fy : Nat) (reason : FenceReason) (s : State) : Host.Outcome State Fault Refusal :=
  .next (
    let pos := fy * 66 + fx
    let r := s.router (nodeKey n)
    if Table.get 0 r.fences pos ≠ 0 then s
    else if 64 ≤ r.fences.length then s.drainAll
    else
      let code := match reason with | .silent => 1 | .babbling => 2 | .self => 3
      let s1 := s.setRouter (nodeKey n) { r with fences := Table.set 0 r.fences pos code }
      let s2 : State := { s1 with appeals := if Table.get 0 s1.appeals pos = 3 then Table.set 0 s1.appeals pos 7 else s1.appeals }
      let s3 := s2.fenceReds n fx fy
      match n with
      | .router x y =>
        if x = fx ∧ y = fy then
          let s4 := (s3.modRouter pos fun q => { q with sealed := true })
          match s4.logical fx fy with | some T => s4.fenceTile T | none => s4
        else if (adjacent fx fy).contains (x, y) then s3.setLink x y (linkTo x y fx fy) 2
        else s3
      | .station k => match s3.logical fx fy with | some T => s3.fenceStation k T | none => s3
      | .port _ => s3
      | .service k => if k = quadrant fx fy then s3.fenceService k fx fy else s3)

/-! ## Substitution (R411) -/

/-- No abort that involved the band's region is younger than 2^15 mesh cycles (R411, item 5). -/
def State.abortsOld (s : State) (r : Nat) : Bool :=
  match s.regionOf r with
  | some x => x.reds.all fun k => (s.router (k / 64)).aborted.all fun a => a.1 != k % 64 || a.2.2 ≤ s.mcycle
  | none => true

/-- The code area of a domain is copied from its band's image (R33, R411). -/
def State.copyCode (s : State) (T d : Nat) : Option State :=
  match s.bandAt T d with
  | none => some s
  | some (_, b) => (s.fwRead (fld b.rcb 576 64) (s.dom T d).codeSize).map fun l => s.lsStore T (s.dom T d).codeBase l

/-- `substitution`: once every region with a domain on the fenced tile is held, a spare takes the tile over and the rows
replay; without a spare the action is FATAL (R411). -/
def execSubstitution (row col : Nat) (s : State) : Host.Outcome State Fault Refusal :=
  .next (
    let T := row * 64 + col
    let x := s.physX row col
    let ds := (List.range 4).filter fun d => (s.dom T d).present
    let again := (((s.regionsAt T).flatMap s.regionBands).foldl (fun s e => s.modBand e.1 fun b => { b with holding := true }) s).after
      1024 (.substitution row col)
    if !s.isFenced x row ∨ ds.isEmpty then s
    else match s.nearSpare row x with
      | none => ds.foldl (fun s d =>
          let pid := (s.dom T d).pid
          (s.putNotice (s.dom T d).launch ⟨0, 0, T, d, 0, 0x38, s.fatalAction pid T d⟩).fatal pid T d) s
      | some y =>
        if !(ds.all fun d => (s.policyAt (s.dom T d).pid T d).testBit 2) ∨ !s.mayRemap (s.regionsAt T) ∨ !(s.regionsAt T).all s.abortsOld then again
        else
          let s1 := s.substitute row col y
          let s2 := ds.foldl (fun (o : Option State) d => o.bind fun s => s.copyCode T d) (some s1)
          match s2 with
          | none => again
          | some s3 =>
            let s4 := ds.foldl (fun s d =>
              match s.bandAt T d with
              | some (_, b) => match s.stageRec b 0 with
                | some r => s.modTile T fun t => { t with rx := tuneRx s.groups t.rx 0 r }
                | none => s
              | none => s) s3
            let s5 := ds.foldl (fun s d =>
              match s.bandAt T d with | some (n, _) => s.startReplay n (s.dom T d).bRow | none => s) s4
            (s5.regionsAt T).foldl (fun s r =>
              (s.regionBands r).foldl (fun s e =>
                if e.2.replay.isNone ∧ e.2.again.isEmpty then
                  let b := { e.2 with holding := false }
                  (s.setBand e.1 (some b)).recheck e.1 b
                else s) s) s5)

end Sys2Proof.Machine
end

