-- ==== Sys2Proof/Machine/Tree.lean ====
section
/-! DEFINITION. The RCB tree of a LAUNCH: reading it, effective values (R19 to R21), the checks that refuse it (R22, R24,
R43, R141, R153, R154, R157, R349, R353, R412, R446), and what it asks for. A check answers with the STATUS of the
refusal; 0 stands for a line that is held, on which the request waits. -/

namespace Sys2Proof.Machine

open Bits

/-! ## Reading device memory (R58, R60) -/

/-- The answer of a check: a value, or a STATUS. -/
abbrev Check (α : Type) := Except Nat α

def need (ok : Bool) (status : Nat) : Check Unit := if ok then .ok () else .error status

/-- A range of DRAM of this module, or of one tile's local store. -/
def State.readable (s : State) (pa len : Nat) : Bool :=
  pa < 2 ^ 52 && moduleOf pa == s.module.toNat &&
    match placeOf pa with
    | .dram a => a + len ≤ 0x030000000000
    | .store _ off => off + len ≤ 0xC00000
    | _ => false

/-- The bytes of a range; `status` when they cannot be read. -/
def State.look (s : State) (pa len status : Nat) : Check (List Byte) :=
  if !s.readable pa len then .error status
  else
    (linePieces pa len).foldlM (fun (b : List Byte) p =>
      match s.devRead p.1 p.2 with
      | (_, .ok, b') => .ok (b ++ b')
      | (_, .wait, _) => .error 0
      | (_, .lost, _) => .error status) []

/-- Bytes at a virtual address of a job. -/
def State.lookVa (s : State) (pid va len status : Nat) : Check (List Byte) :=
  match (s.gread (xlatStation pid va) pid true (va % 2 ^ 55) len).2 with
  | .ok b => .ok b
  | .wait => .error 0
  | _ => .error status

def bitsOf (n : Nat) (b : List Byte) : BitVec n := BitVec.ofNat n (ofBytes b)

/-! ## RCB fields (R20) -/

def rcbMode (r : BitVec 1024) : Nat := fld r 353 2
def rcbThrFirst (r : BitVec 1024) : Nat := fld r 344 4
def rcbThrCount (r : BitVec 1024) : Nat := fld r 348 5
def rcbPriority (r : BitVec 1024) : Nat := fld r 2 3
def rcbLambda (r : BitVec 1024) : Nat := fld r 384 32
def rcbBuckets (r : BitVec 1024) : Nat × Nat := (fld r 416 12, fld r 428 13)
def rcbDram (r : BitVec 1024) : Nat := fld r 360 8
def rcbLight (r : BitVec 1024) : Nat := fld r 368 8
def rcbCfg (r : BitVec 1024) : Nat := fld r 960 64
def rcbHeight (r : BitVec 1024) : Nat := fld r 661 5 + 1
def rcbBandRow (r : BitVec 1024) : Nat := fld r 656 5
def rcbStages (r : BitVec 1024) : Nat := fld r 640 16
def rcbCodeSize (r : BitVec 1024) : Nat := fld r 666 22
def rcbCommit (r : BitVec 1024) : Nat := fld r 688 8

/-- Reserved bits of an RCB, INHERIT bits 15:10 among them. -/
def rcbReserved (r : BitVec 1024) : Bool :=
  [(696, 8), (441, 7), (376, 8), (355, 5), (312, 8), (284, 4), (278, 2), (56, 8), (45, 3), (5, 3), (18, 6)].any fun f =>
    fld r f.1 f.2 != 0

/-- The fields of each INHERIT group (R21). -/
def inheritGroups : List (Nat × List (Nat × Nat)) :=
  [(0, [(2, 3)]), (1, [(40, 4)]), (2, [(256, 22)]), (3, [(288, 24), (320, 24)]), (4, [(344, 11)]), (5, [(384, 32)]),
   (6, [(416, 25)]), (7, [(48, 8)]), (8, [(360, 8)]), (9, [(368, 8)])]

/-- An RCB with its effective values under a parent (R21). -/
def effective (own parent : BitVec 1024) : BitVec 1024 :=
  let r := inheritGroups.foldl (fun r g =>
    if bit own (8 + g.1) && !(rcbKind own == 3 && g.1 == 2) then r
    else g.2.foldl (fun r f => put r f.1 f.2 (fld parent f.1 f.2)) r) own
  if rcbKind own < 2 then r else put (put r 24 16 (fld parent 24 16)) 44 1 (fld parent 44 1)

/-! ## The tree (R19) -/

/-- Reads the nodes to do, in tree order; at most `fuel` more. -/
def State.readTree (s : State) : Nat → List (Nat × Option TreeNode) → List TreeNode → Check (List TreeNode)
  | _, [], acc => .ok acc
  | 0, _ :: _, _ => .error 2
  | fuel + 1, (a, p) :: todo, acc =>
    if a % 128 ≠ 0 ∨ acc.any (fun n => n.addr == a) then .error 2
    else
      match s.look a 128 2 with
      | .error e => .error e
      | .ok b =>
        let own := bitsOf 1024 b
        let kind := match p with | some q => rcbKind q.eff + 1 | none => 0
        let first := fld own 128 64
        let next := fld own 192 64
        if rcbKind own ≠ kind ∨ fld own 64 64 ≠ (p.elim 0 fun q => q.addr) ∨ rcbReserved own ∨ (kind = 3 ∧ first ≠ 0) ∨
            (kind = 0 ∧ next ≠ 0) then .error 2
        else
          let n : TreeNode := ⟨a, p.elim 0 fun q => q.addr, match p with | some q => effective own q.eff | none => own⟩
          s.readTree fuel ((if first = 0 then [] else [(first, some n)]) ++ (if next = 0 then [] else [(next, p)]) ++ todo)
            (acc ++ [n])

def kidsOf (ns : List TreeNode) (n : TreeNode) : List TreeNode := ns.filter fun c => rcbKind c.eff != 0 && c.parent == n.addr
def nodesOf (ns : List TreeNode) (kind : Nat) : List TreeNode := ns.filter fun n => rcbKind n.eff == kind
def parentIn (ns : List TreeNode) (n : TreeNode) : BitVec 1024 := ((ns.find? fun p => p.addr == n.parent).map (·.eff)).getD n.eff

/-! ## Ranges of fields and budgets (R20, R22, R353) -/

/-- Fields outside the ranges of R20. -/
def fieldsOk (r : BitVec 1024) : Bool :=
  let q := rcbRect r
  let b := rcbBuckets r
  q.1 + q.2.2.1 ≤ 32 && q.2.1 + q.2.2.2 ≤ 64 && 1 ≤ rcbThrCount r && rcbThrCount r ≤ 16 && rcbMode r != 3 &&
    1 ≤ fld r 48 8 && 1 ≤ b.2 && b.1 + b.2 ≤ 4096 && rcbLsBase r % 0x10000 == 0 && rcbLsSize r % 0x10000 == 0 &&
    rcbLsBase r + rcbLsSize r ≤ 0xC00000 && (rcbKind r != 2 || rcbCfg r % 64 == 0)

/-- A range lies within another. -/
def inside (a n b m : Nat) : Bool := b ≤ a && a + n ≤ b + m
/-- Two ranges share a number. -/
def meets (a n b m : Nat) : Bool := a < b + m && b < a + n
def rectsMeet (a b : BitVec 1024) : Bool :=
  let p := rcbRect a
  let q := rcbRect b
  meets p.1 p.2.2.1 q.1 q.2.2.1 && meets p.2.1 p.2.2.2 q.2.1 q.2.2.2
def rowsMeet (a b : BitVec 1024) : Bool := meets (rcbRect a).1 (rcbRect a).2.2.1 (rcbRect b).1 (rcbRect b).2.2.1

/-- A child lies within its parent's budget (R22). -/
def withinParent (c p : BitVec 1024) : Bool :=
  let a := rcbRect c
  let b := rcbRect p
  inside a.1 a.2.2.1 b.1 b.2.2.1 && inside a.2.1 a.2.2.2 b.2.1 b.2.2.2 &&
    inside (rcbLsBase c) (rcbLsSize c) (rcbLsBase p) (rcbLsSize p) &&
    inside (rcbThrFirst c) (rcbThrCount c) (rcbThrFirst p) (rcbThrCount p) &&
    rcbLambda c &&& rcbLambda p == rcbLambda c &&
    inside (rcbBuckets c).1 (rcbBuckets c).2 (rcbBuckets p).1 (rcbBuckets p).2 && rcbPriority c ≤ rcbPriority p

def sumOf {α : Type} (f : α → Nat) (l : List α) : Nat := l.foldl (fun n x => n + f x) 0

/-- Every pair of distinct elements of a list, by position. -/
def pairs {α : Type} : List α → List (α × α)
  | [] => []
  | x :: l => (l.map fun y => (x, y)) ++ pairs l

/-- Regions of different jobs may share a rectangle when what they hold is disjoint (R24, R51). Two job RCBs of one PID
count as one job (DESIGN CHOICE, log 131). -/
def coResident (a b : BitVec 1024) : Bool :=
  rcbPid a != rcbPid b && rcbRect a == rcbRect b && !meets (rcbLsBase a) (rcbLsSize a) (rcbLsBase b) (rcbLsSize b) &&
    !meets (rcbThrFirst a) (rcbThrCount a) (rcbThrFirst b) (rcbThrCount b) && rcbLambda a &&& rcbLambda b == 0 &&
    rcbMode a == rcbMode b

/-- The budget checks (R22, R24). -/
def State.budget (s : State) (ns : List TreeNode) : Check Unit := do
  let regs := nodesOf ns 2
  let jobs := nodesOf ns 1
  let shr := s.reg (controlReg 0x280)
  need (ns.all fun n => rcbKind n.eff == 0 || withinParent n.eff (parentIn ns n)) 3
  need (ns.all fun n => sumOf (rcbDram ·.eff) (kidsOf ns n) ≤ rcbDram n.eff || (kidsOf ns n).isEmpty) 3
  need (ns.all fun n => sumOf (rcbLight ·.eff) (kidsOf ns n) ≤ rcbLight n.eff || (kidsOf ns n).isEmpty) 3
  need (ns.all fun n => rcbThrFirst n.eff + rcbThrCount n.eff ≤ modeThreads (BitVec.ofNat 2 (rcbMode n.eff))) 3
  need ((pairs jobs).all fun p => !meets (rcbBuckets p.1.eff).1 (rcbBuckets p.1.eff).2 (rcbBuckets p.2.eff).1 (rcbBuckets p.2.eff).2) 3
  need (jobs.all fun j => !meets (rcbBuckets j.eff).1 (rcbBuckets j.eff).2 (fld shr 0 12) (fld shr 16 13)) 3
  need ((pairs regs).all fun p => !rectsMeet p.1.eff p.2.eff || coResident p.1.eff p.2.eff) 3

/-! ## Seams (R26, R141) -/

/-- Two regions share an edge segment, and both offer a seam there. -/
def stitched (a b : BitVec 1024) : Bool :=
  let p := rcbRect a
  let q := rcbRect b
  let one (p q : Nat × Nat × Nat × Nat) (a b : BitVec 1024) : Bool :=
    (p.2.1 + p.2.2.2 == q.2.1 && meets p.1 p.2.2.1 q.1 q.2.2.1 && bit a 282 && bit b 281) ||
      (p.1 + p.2.2.1 == q.1 && meets p.2.1 p.2.2.2 q.2.1 q.2.2.2 && bit a 283 && bit b 280)
  one p q a b || one q p b a

/-- The regions of one job that form a fabric with a region. -/
def fabricOf (regs : List TreeNode) (n : TreeNode) : List TreeNode :=
  (List.range regs.length).foldl (fun l _ =>
    l ++ regs.filter fun r => !l.contains r && r.parent == n.parent && l.any fun x => stitched x.eff r.eff) [n]

/-- The bounding rectangle of a fabric: corner and size. -/
def boundOf (l : List TreeNode) : Nat × Nat × Nat × Nat :=
  let qs := l.map fun n => rcbRect n.eff
  let row := qs.foldl (fun m q => Nat.min m q.1) 32
  let col := qs.foldl (fun m q => Nat.min m q.2.1) 64
  (row, col, qs.foldl (fun m q => Nat.max m (q.1 + q.2.2.1)) 0 - row, qs.foldl (fun m q => Nat.max m (q.2.1 + q.2.2.2)) 0 - col)

def seamsOk (ns : List TreeNode) : Bool :=
  let regs := nodesOf ns 2
  regs.all fun n =>
    let f := fabricOf regs n
    let b := boundOf f
    sumOf (fun r => (rcbRect r.eff).2.2.1 * (rcbRect r.eff).2.2.2) f == b.2.2.1 * b.2.2.2

/-! ## Bands, stage records and edges (R31 to R34, R43, R353, R412) -/

/-- Row numbers of the region that a band takes. -/
def bandRows (r : BitVec 1024) : List Nat := (List.range (rcbHeight r)).map (rcbBandRow r + ·)

def bandFieldsOk (ns : List TreeNode) (n : TreeNode) : Bool :=
  let r := n.eff
  rcbHeight r ≤ rcbStages r && rcbBandRow r + rcbHeight r ≤ (rcbRect r).2.2.1 && rcbCodeSize r % 8 == 0 &&
    8 ≤ rcbCodeSize r && rcbCodeSize r ≤ 0x200000 && rcbCommit r % 2 == 0 && rcbCommit r ≤ 128 &&
    0x2000 + rcbCodeSize r + 1024 * rcbCommit r ≤ rcbLsSize r && fld r 512 64 % 256 == 0 && fld r 576 64 % 8 == 0 &&
    fld r 960 64 % 128 == 0 &&
    ns.all fun m => m == n || rcbKind m.eff != 3 || m.parent != n.parent || (bandRows m.eff).all fun i => !(bandRows r).contains i

/-- The entry point of stage thread i (R31). -/
def entryPc (r : BitVec 2048) (i : Nat) : Nat := fld r (64 + 32 * fld r (8 + 2 * i) 2) 32

def recordOk (band : BitVec 1024) (r : BitVec 2048) : Bool :=
  recSaddle r % 64 == 0 && 128 ≤ recSaddle r && recSaddle r ≤ 4096 && recThreads r ≤ rcbThrCount band &&
    (List.range (recThreads r)).all fun i => entryPc r i % 8 == 0 && entryPc r i < rcbCodeSize band

/-- The stage records and the code image of a band. -/
def State.bandPlan (s : State) (ns : List TreeNode) (n : TreeNode) : Check BandPlan := do
  need (bandFieldsOk ns n) 4
  let table ← s.look (fld n.eff 512 64) (256 * rcbStages n.eff) 4
  let code ← s.look (fld n.eff 576 64) (rcbCodeSize n.eff) 4
  let recs := (chunks 256 (rcbStages n.eff) table).map (bitsOf 2048)
  need (recs.all (recordOk n.eff)) 4
  return ⟨n, recs, code⟩

/-- The mesh edges that stage records declare (R32, R44). -/
def edgesOf (recs : List (BitVec 2048)) : List Edge :=
  (recs.zipIdx).flatMap fun x => (List.range 4).filterMap fun i =>
    let e := recEdge x.1 i
    if bit e 63 && !bit e 62 then
      some ⟨x.2, fld e 0 16, i, fld e 16 16, 64 * fld e 32 18, 64 * (fld e 50 12 + 1)⟩
    else none

/-- Every mesh edge meets R43. -/
def edgesOk (p : BandPlan) : Bool :=
  let r := p.node.eff
  let top := rcbLsBase r + rcbLsSize r - 0x2000 - rcbCodeSize r - 1024 * rcbCommit r
  let es := edgesOf p.recs
  (es.all fun e => e.to_ ≤ e.from_ && e.from_ < rcbStages r && e.from_ - e.to_ + 2 ≤ e.k && e.k < rcbHeight r &&
    rcbLsBase r ≤ e.off && e.off + e.len ≤ top) &&
    (pairs es).all fun q => !meets q.1.off q.1.len q.2.off q.2.len

/-- A band under REPLAY keeps nothing in accumulators and declares no mesh edge (R412). -/
def replayOk (p : BandPlan) : Bool :=
  !bit p.node.eff 42 || (fld p.node.eff 448 64 == 0 && (edgesOf p.recs).isEmpty)

/-- The union of a field over stage records. -/
def unionOf (lo len : Nat) (recs : List (BitVec 2048)) : Nat := recs.foldl (fun m r => m ||| fld r lo len) 0

/-- Co-resident regions share no accumulator, slot or barrier (R24). -/
def allotmentsOk (regs : List TreeNode) (ps : List BandPlan) : Bool :=
  let recs (n : TreeNode) : List (BitVec 2048) := (ps.filter fun p => p.node.parent == n.addr).flatMap (·.recs)
  (pairs regs).all fun q => !rectsMeet q.1.eff q.2.eff ||
    [(384, 64), (448, 16), (368, 16)].all fun f => unionOf f.1 f.2 (recs q.1) &&& unionOf f.1 f.2 (recs q.2) == 0

/-- Co-resident bands enable disjoint sets of receivers (R430). -/
def receiversOk (regs : List TreeNode) (ps : List BandPlan) : Bool :=
  let rx (n : TreeNode) : Nat := unionOf 312 4 ((ps.filter fun p => p.node.parent == n.addr).flatMap (·.recs))
  (pairs regs).all fun q => !rectsMeet q.1.eff q.2.eff || rx q.1 &&& rx q.2 == 0

/-! ## Fabric configuration tables (R152 to R154) -/

/-- Reads reduction-group descriptors, each followed by its node records. -/
def State.readReds (s : State) : Nat → Nat → Check (List (BitVec 256 × List (BitVec 64)))
  | 0, _ => .ok []
  | k + 1, a => do
    let d := bitsOf 256 (← s.look a 32 0x0F)
    let n := if fld d 168 3 = 4 then fld d 145 12 else 0
    let l ← s.look (a + 32) (8 * n) 0x0F
    let rest ← s.readReds k (a + 32 + 8 * n)
    return (d, (chunks 8 n l).map (bitsOf 64)) :: rest

/-- The fabric configuration table of a region (R152). -/
def State.regionPlan (s : State) (n : TreeNode) : Check RegionPlan :=
  let a := rcbCfg n.eff
  if a = 0 then .ok ⟨n, [], []⟩
  else do
    let h := bitsOf 512 (← s.look a 64 0x0F)
    need (fld h 32 480 == 0 && fld h 0 16 ≤ 4096 && fld h 16 16 ≤ 64) 0x0F
    let l ← s.look (a + 64) (32 * fld h 0 16) 0x0F
    let rs ← s.readReds (fld h 16 16) (a + 64 + 32 * fld h 0 16)
    return ⟨n, (chunks 32 (fld h 0 16) l).map (bitsOf 256), rs⟩

def lightEntry (d : BitVec 256) : Nat := fld d 0 12

/-- A light-group descriptor meets R151 and R153; `lam` and `slots` are the job's. -/
def lightOk (reg : BitVec 1024) (lam slots : Nat) (d : BitVec 256) : Bool :=
  let q := rcbRect reg
  let row := fld d 231 5
  let set := fld d 192 32
  fld d 252 3 == 0 && fld d 224 2 == 0 && fld d 170 6 == 0 && fld d 96 8 == 0 && fld d 12 44 == 0 &&
    inside row (fld d 226 5 + 1) q.1 q.2.2.1 && !bit d 104 && !bit d 169 &&
    ((onesOf (fld d 104 66) 66).all fun x => q.2.1 + 1 ≤ x && x ≤ q.2.1 + q.2.2.2) &&
    set &&& lam == set && (List.range 4).all (fun n => !bit d (77 + 6 * n) || set.testBit (fld d (72 + 6 * n) 5)) &&
    fld d 176 16 &&& slots == fld d 176 16

/-- The group-table entry that a descriptor gives: VALID, the job's PID, and physical columns for logical ones, as the
union over the group's rows (R153). -/
def State.lightGroup (s : State) (pid : Nat) (d : BitVec 256) : BitVec 256 :=
  let rows := (List.range (fld d 226 5 + 1)).map (fld d 231 5 + ·)
  let cols := (onesOf (fld d 104 66) 66).map (· - 1)
  let mask := rows.foldl (fun m r => cols.foldl (fun m c => m ||| 2 ^ s.physX r c) m) 0
  put (put (put (put d 255 1 1) 236 16 pid) 104 66 mask) 0 56 0

/-! ### Reduction trees (R149, R154) -/

/-- A node of a reduction tree: its logical number, its parent's, and whether its own tile and its optical link contribute. -/
structure RedNode where
  key   : Nat
  up    : Option Nat
  loc   : Bool
  opt   : Bool
deriving DecidableEq, Repr

/-- The default tree of a rectangle rooted at tile (x0, y0), and `top` above the root (R149). -/
def tileTree (q : Nat × Nat × Nat × Nat) (x0 y0 : Nat) (top : Option Nat) : List RedNode :=
  (List.range q.2.2.1).flatMap fun i => (List.range q.2.2.2).map fun j =>
    let r := q.1 + i
    let c := q.2.1 + j
    ⟨r * 64 + c, if c ≠ x0 then some (r * 64 + toward c x0) else if r ≠ y0 then some (toward r y0 * 64 + c) else top, true, false⟩

/-- The default tree to a station: rows gather to their own station, and stations along the spine (R149). -/
def stationTree (q : Nat × Nat × Nat × Nat) (y : Nat) (east : Bool) : List RedNode :=
  let k (r : Nat) : Nat := 3000 + r + if east then 32 else 0
  let tiles := (List.range q.2.2.1).flatMap fun i => (List.range q.2.2.2).map fun j =>
    let r := q.1 + i
    let c := q.2.1 + j
    let last := if east then q.2.1 + q.2.2.2 - 1 else q.2.1
    (⟨r * 64 + c, some (if c = last then k r else r * 64 + toward c last), true, false⟩ : RedNode)
  let lo := Nat.min q.1 y
  let hi := Nat.max (q.1 + q.2.2.1 - 1) y
  tiles ++ (List.range (hi + 1 - lo)).map fun i => ⟨k (lo + i), if lo + i = y then none else some (k (toward (lo + i) y)), false, false⟩

/-- The logical neighbour of a node through a port: 1 W, 2 N, 3 E, 4 S; port stations neighbour each other along the edge
ring (R142, R148). -/
def State.beside (s : State) (k p : Nat) : Option Nat :=
  if k < 2048 then
    match p with
    | 1 => some (if k % 64 = 0 then 3000 + k / 64 else k - 1)
    | 3 => some (if k % 64 = 63 then 3032 + k / 64 else k + 1)
    | 2 => if k < 64 then ((List.range 24).find? fun p => portCol p == s.physX 0 k).map (4000 + ·) else some (k - 64)
    | 4 => if 1984 ≤ k then ((List.range 24).find? fun p => portCol p == s.physX 31 (k % 64)).map (4024 + ·) else some (k + 64)
    | _ => none
  else if k < 4000 then
    let n := k - 3000
    match p with
    | 2 => if n % 32 = 0 then none else some (k - 1)
    | 4 => if n % 32 = 31 then none else some (k + 1)
    | 3 => if n < 32 then some (n * 64) else none
    | 1 => if n < 32 then none else some ((n - 32) * 64 + 63)
    | _ => none
  else
    let n := k - 4000
    if (p = 4 ∧ n < 24) ∨ (p = 2 ∧ 24 ≤ n) then s.logical (portCol n) (portRow n)
    else if p = 1 then (if n % 24 = 0 then none else some (k - 1))
    else if p = 3 then (if n % 24 = 23 then none else some (k + 1))
    else none

/-- The next node of an explicit tree in a direction. -/
def State.seek (s : State) (keys : List Nat) (p : Nat) : Nat → Nat → Option Nat
  | 0, _ => none
  | fuel + 1, k =>
    match s.beside k p with
    | none => none
    | some m => if keys.contains m then some m else s.seek keys p fuel m

def recKey (r : BitVec 64) : Nat := (if fld r 62 2 = 0 then 0 else if fld r 62 2 = 1 then 3000 else 4000) + fld r 50 12
def recParent (r : BitVec 64) : Nat := fld r 42 3
def recChild (r : BitVec 64) (p : Nat) : Bool := bit r (49 - p)

/-- The port of a port station that is its optical link (R148), by logical node. -/
def opticalSide (k : Nat) : Option Nat := if k < 4000 then none else opticalPort (.port (k - 4000))

/-- The tree that node records give. -/
def State.explicitTree (s : State) (rs : List (BitVec 64)) : List RedNode :=
  rs.map fun r => ⟨recKey r, if recParent r = 0 then none else s.seek (rs.map recKey) (recParent r) 70 (recKey r), recChild r 0,
    (opticalSide (recKey r)).any (recChild r)⟩

/-- Following parents from a node reaches a root. -/
def climbs (t : List RedNode) : Nat → Nat → Bool
  | 0, _ => false
  | fuel + 1, k =>
    match t.find? fun n => n.key == k with
    | none => false
    | some n => match n.up with | none => true | some u => climbs t fuel u

/-- Node records form one tree with one root, its tiles in the fabric (R154). -/
def State.recordsOk (s : State) (fabric : List TreeNode) (rs : List (BitVec 64)) : Bool :=
  let t := s.explicitTree rs
  let kids (k p : Nat) : Bool := rs.any fun r => recParent r != 0 && opposite (recParent r) == p && s.seek (rs.map recKey) (recParent r) 70 (recKey r) == some k
  (rs.all fun r => fld r 62 2 != 3 && fld r 0 42 == 0 && recParent r ≤ 4 &&
    (match fld r 62 2 with
     | 0 => fabric.any fun n => rcbHas n.eff (fld r 50 12)
     | 1 => fld r 50 12 < 64
     | _ => fld r 50 12 < 48) &&
    [1, 2, 3, 4].all fun p => recChild r p == kids (recKey r) p || opticalSide (recKey r) == some p) &&
    (pairs t).all (fun q => q.1.key != q.2.key) && (rs.filter fun r => recParent r == 0).length == 1 &&
    t.all fun n => climbs t (t.length + 1) n.key

/-- The tree of a descriptor over a region. -/
def State.redTree (s : State) (reg : BitVec 1024) (d : BitVec 256) (rs : List (BitVec 64)) : List RedNode :=
  let q := rcbRect reg
  match fld d 168 3 with
  | 0 => tileTree q (fld d 157 6) (fld d 163 5) none
  | 1 => stationTree q (fld d 163 5) false
  | 2 => stationTree q (fld d 163 5) true
  | 3 =>
    let p := fld d 157 6
    match s.logical (portCol p) (portRow p) with
    | some T => tileTree q (T % 64) (T / 64) (some (4000 + p)) ++ [⟨4000 + p, none, false, false⟩]
    | none => []
  | _ => s.explicitTree rs

def redGroup (d : BitVec 256) : Nat := fld d 171 6

/-- A reduction-group descriptor meets R154. -/
def State.redOk (s : State) (fabric : List TreeNode) (reg : BitVec 1024) (d : BitVec 256) (rs : List (BitVec 64)) : Bool :=
  let kind := fld d 168 3
  let row := fld d 163 5
  let col := fld d 157 6
  let op := fld d 177 4
  let elems := fld d 181 8
  fld d 224 32 == 0 && fld d 0 145 == 0 && op < 5 && 1 ≤ elems && elems ≤ 252 && (op != 4 || 2 ≤ elems) &&
    (kind == 4 || fld d 145 12 == 0) &&
    match kind with
    | 0 => rcbHas reg (row * 64 + col)
    | 1 | 2 => col == 0
    | 3 => row == 0 && col < 48 && (match s.logical (portCol col) (portRow col) with | some T => rcbHas reg T | none => false)
    | 4 => row == 0 && col == 0 && 1 ≤ fld d 145 12 && s.recordsOk fabric rs
    | _ => false

/-- The table entry of a node, at its physical ports (R146, R154). -/
def State.redEntryOf (s : State) (t : List RedNode) (d : BitVec 256) (n : RedNode) : BitVec 64 :=
  let me := s.logicalNode n.key
  let kids := (t.filter fun c => c.up == some n.key).map fun c => s.portIn (s.logicalNode c.key) me
  let ch := (if n.loc then 16 else 0) + sumOf (fun p =>
    if kids.contains p || (n.opt && opticalSide n.key == some p) then 2 ^ (4 - p) else 0) [1, 2, 3, 4]
  let pa := match n.up with | some u => portOut me (s.logicalNode u) | none => 0
  BitVec.ofNat 64 (2 ^ 63 + ch * 2 ^ 58 + pa * 2 ^ 55 + fld d 177 4 * 2 ^ 51 + fld d 181 8 * 2 ^ 43 + fld d 189 2 * 2 ^ 41 +
    fld d 192 8 * 2 ^ 33 + (if bit d 191 then 2 ^ 32 else 0) + fld d 200 24)

/-- The blocks that the reduction groups of region plans touch: key * 64 + group, and the contexts reserved there. -/
def State.redUses (s : State) (rp : RegionPlan) : List (Nat × Nat) :=
  rp.reds.flatMap fun d => (s.redTree rp.node.eff d.1 d.2).map fun n =>
    (nodeKey (s.logicalNode n.key) * 64 + redGroup d.1, fld d.1 189 2 + 1)

/-! ## Timetables (R157, R446) -/

/-- One stage's timetable; `s` holds the tree's group entries. -/
def State.timetableOk (s : State) (pid : Nat) (rows : List Nat) (va : Nat) : Check Unit := do
  let h := bitsOf 512 (← s.lookVa pid va 64 4)
  need (fld h 160 352 == 0 && !badPeriod (fld h 64 64) && fld h 0 64 < 2 ^ 50) 4
  let l ← s.lookVa pid (va + 64) (32 * fld h 0 64) 4
  let es := (chunks 32 (fld h 0 64) l).map (bitsOf 256)
  need (es.all fun e => !s.badEntry pid (fld h 64 64) e && rows.all fun r => !s.badEmit r e) 4
  need ((es.zip (es.drop 1)).all fun q => entDue q.1 ≤ entDue q.2) 4

def bandGlobalRows (r : BitVec 1024) : List Nat := (bandRows r).map ((rcbRect r).1 + ·)

def State.timetablesOk (s : State) (ps : List BandPlan) : Check Unit :=
  ps.forM fun p => p.recs.forM fun r =>
    if recTable r = 0 then .ok () else s.timetableOk (rcbPid p.node.eff) (bandGlobalRows p.node.eff) (recTable r)

/-! ## The whole tree -/

/-- Group-table entries that a tree names, with the job of each. -/
def Plan0.lights (p : Plan0) : List (Nat × Nat × BitVec 256) :=
  p.regions.flatMap fun r => r.lights.map fun d => (lightEntry d, rcbPid r.node.eff, d)

/-- The group table as a placement would write it. -/
def State.withGroups (s : State) (p : Plan0) : State :=
  { s with groups := p.lights.foldl (fun g x => Table.set 0 g x.1 (s.lightGroup x.2.1 x.2.2)) s.groups }

/-- The band row 0 of a band: the row whose west station hosts its controller (R8, R19, R41). -/
def hostRow (r : BitVec 1024) : Nat := (rcbRect r).1 + rcbBandRow r

/-- Resources that the tree itself, or its bands beside those that run, would exceed (R19, R50, R150, R152, R353, R430). -/
def State.resourcesOk (s : State) (p : Plan0) : Bool :=
  let regs := nodesOf p.nodes 2
  let hosts := p.bands.map (hostRow ·.node.eff) ++ s.bands.filterMap fun e => e.2.map fun b => b.rowOf 0
  let ents := p.lights.map (·.1)
  let reds := p.regions.flatMap fun r => r.reds.map fun d => redGroup d.1
  (regs.all fun r => (regs.filter fun q => rectsMeet q.eff r.eff).length ≤ 4) &&
    ((List.range 32).all fun y => (hosts.filter fun h => h == y).length ≤ 4) &&
    ((pairs regs).all fun q => q.1.parent == q.2.parent || !rowsMeet q.1.eff q.2.eff || rcbLambda q.1.eff &&& rcbLambda q.2.eff == 0) &&
    receiversOk regs p.bands && (pairs ents).all (fun q => q.1 != q.2) && (pairs reds).all fun q => q.1 != q.2

/-- The checks of a LAUNCH, in this order of their STATUS values (R22, R353; log 60). -/
def State.validate (s : State) (root : Nat) (priv : Bool) : Check Plan0 := do
  let ns ← s.readTree 256 [(root, none)] []
  need (priv || ns.all fun n => rcbKind n.eff != 1 || !bit n.eff 44) 6
  need (ns.all fun n => fld n.eff 40 2 < 2) 0x0E
  need (ns.all fun n => fieldsOk n.eff) 4
  s.budget ns
  need (seamsOk ns) 7
  let bands ← (nodesOf ns 3).mapM (s.bandPlan ns)
  need (allotmentsOk (nodesOf ns 2) bands) 3
  need (bands.all replayOk) 0x0E
  need (bands.all edgesOk) 8
  let regions ← (nodesOf ns 2).mapM s.regionPlan
  let slots (job : Nat) : Nat := unionOf 448 16 ((bands.filter fun b => rcbPid b.node.eff == job).flatMap (·.recs))
  need (regions.all fun r => r.lights.all (lightOk r.node.eff (rcbLambda (parentIn ns r.node)) (slots (rcbPid r.node.eff)))) 0x0F
  need (regions.all fun r => r.reds.all fun d => s.redOk (fabricOf (nodesOf ns 2) r.node) r.node.eff d.1 d.2) 0x0F
  let uses := regions.flatMap s.redUses
  need (uses.all fun u => sumOf (·.2) (uses.filter fun v => v.1 / 64 == u.1 / 64) ≤ 16) 0x0F
  let p : Plan0 := ⟨ns, bands, regions⟩
  (s.withGroups p).timetablesOk bands
  need (s.resourcesOk p) 9
  return p

end Sys2Proof.Machine
end

