-- ==== Sys2Proof/Machine/Launch.lean ====
section
/-! DEFINITION. Placement (R23, R24, R58, R83, R152), LAUNCH, and the common checks of a request record (R56, R448). -/

namespace Sys2Proof.Machine

open Bits

/-! ## Request records (R56, R448) -/

/-- Reserved bits of a request record, a LEN or IMAGE_PTR that its CODE does not use, a misaligned REPLY_ADDR. -/
def reqBad (r : BitVec 512) : Bool :=
  let c := reqCode r
  fld r 8 8 != 0 || fld r 48 16 != 0 || fld r 288 224 != 0 || fld r 64 5 != 0 || c == 0 || 8 < c ||
    (c != 7 && c != 8 && reqLen r != 0) || ((c == 1 || c == 2) && reqImage r != 0)

/-- Carries out a request unless its record is refused (R448). -/
def State.request (s : State) (k : Nat) (r : BitVec 512) (f : State → State) : State :=
  if reqBad r then s.answerReq k r 1 else f s

/-- A request whose CODE is unknown is refused (R353, R448). -/
def State.refuseRequest (s : State) (k : Nat) (r : BitVec 512) : State := s.answerReq k r 1

/-! ## Room (R23) -/

/-- A placed region with the effective RCB of its job. -/
def State.heldJobs (s : State) : List (Nat × BitVec 1024) :=
  s.regions.foldl (fun (l : List (Nat × BitVec 1024)) e => match e.2 with
    | some r =>
      if l.any fun x => x.1 == r.launch && rcbPid x.2 == rcbPid r.rcb then l
      else match (s.launchOf r.launch).map fun la => Table.get 0 la.rcbs r.jobAddr with
        | some j => l ++ [(r.launch, j)]
        | none => l
    | none => l) []

/-- Live regions. -/
def State.liveRegions (s : State) : List (Nat × Region) :=
  s.regions.filterMap fun e => e.2.map fun r => (e.1, r)

/-- The contexts that placed groups reserve at a router (R146). -/
def State.ctxUse (s : State) (key : Nat) : Nat :=
  sumOf (fun e => if redValid e.2 then redCtxs e.2 else 0) (s.router key).red

/-- The tree fits beside what runs (R23). -/
def State.fits (s : State) (p : Plan0) : Bool :=
  let held := s.liveRegions
  let regs := nodesOf p.nodes 2
  let jobs := nodesOf p.nodes 1
  let hj := s.heldJobs
  let uses := p.regions.flatMap s.redUses
  (regs.all fun n => held.all fun h => !rectsMeet n.eff h.2.rcb &&
    (!rowsMeet n.eff h.2.rcb || rcbLambda n.eff &&& rcbLambda h.2.rcb == 0)) &&
    (p.lights.all fun x => held.all fun h => !h.2.groups.contains x.1) &&
    (uses.all fun u => held.all fun h => !h.2.reds.contains u.1) &&
    (uses.all fun u => s.ctxUse (u.1 / 64) + sumOf (·.2) (uses.filter fun v => v.1 / 64 == u.1 / 64) ≤ 16) &&
    (jobs.all fun j => hj.all fun h =>
      !meets (rcbBuckets j.eff).1 (rcbBuckets j.eff).2 (rcbBuckets h.2).1 (rcbBuckets h.2).2) &&
    sumOf (fun j => rcbDram j.eff) jobs + sumOf (fun h => rcbDram h.2) hj ≤ 255 &&
    sumOf (fun j => rcbLight j.eff) jobs + sumOf (fun h => rcbLight h.2) hj ≤ 255

/-- The remap tables with a spare for every fenced position of some tiles, one after the other; none where a row's
spares do not suffice (R17, R58). -/
def State.spared (s : State) (ts : List Nat) : Option State :=
  ts.foldl (fun (acc : Option State) T => acc.bind fun s =>
    let x := s.physX (T / 64) (T % 64)
    if s.isFenced x (T / 64) then (s.nearSpare (T / 64) x).map fun y => s.setRemap (T / 64) (T % 64) y else some s) (some s)

/-- The tiles of the tree's regions. -/
def Plan0.tiles (p : Plan0) : List Nat := (nodesOf p.nodes 2).flatMap fun n => rectTiles n.eff

/-- Every row that a region covers is powered, and every fenced position in it can be given a spare (R17, R58, R336). -/
def State.rowsReady (s : State) (p : Plan0) : Bool :=
  p.tiles.all (fun T => bit (s.reg (controlReg (0x100 + 8 * (T / 64)))) 63) && (s.spared p.tiles).isSome

/-- The PRIORITY of the job that a placed region belongs to. -/
def State.jobPrio (s : State) (r : Region) : Nat :=
  match s.launchOf r.launch with | some la => rcbPriority (Table.get 0 la.rcbs r.jobAddr) | none => 0

/-- The region that is drained next to make room: of the lowest job PRIORITY below the launch's, the latest (R23). -/
def State.victim (s : State) (prio : Nat) : Option Nat :=
  let cand := s.liveRegions.filter fun e => e.2.phase == 0 && s.jobPrio e.2 < prio
  (cand.foldl (fun (best : Option (Nat × Region)) e => match best with
    | none => some e
    | some b =>
      if s.jobPrio e.2 < s.jobPrio b.2 ∨
          (s.jobPrio e.2 = s.jobPrio b.2 ∧ (b.2.launch < e.2.launch ∨ (b.2.launch = e.2.launch ∧ b.1 < e.1))) then some e
      else best) none).map (·.1)

/-! ## Placement (R24, R26, R50, R51, R58, R65, R152, R155) -/

/-- The lowest free domain number of a tile (R50). -/
def State.freeDom (s : State) (T : Nat) : Nat := ((List.range 4).find? fun d => !(s.dom T d).present).getD 3

/-- What the placement of a region gives each of its tiles. -/
structure Spot where
  launch : Nat
  region : Nat
  job    : BitVec 1024
  fabric : Nat × Nat × Nat × Nat

/-- The domain that a placement makes on a tile; `b` is the band that covers it with its number. -/
def placedDom (pl : Spot) (reg : BitVec 1024) (T : Nat) (b : Option (Nat × BandPlan)) (handler : Nat → BitVec 32) : Dom :=
  let r := match b with | some x => x.2.node.eff | none => reg
  let d : Dom :=
    { Dom.reset with
      present := true, pid := rcbPid r, jobPriv := bit r 44, fdPolicy := r.extractLsb' 40 4, weight := fld r 48 8
      launch := pl.launch, region := pl.region, lsBase := rcbLsBase r, lsSize := rcbLsSize r, thrFirst := rcbThrFirst r
      thrCount := rcbThrCount r, bucketFirst := (rcbBuckets pl.job).1, bucketCount := (rcbBuckets pl.job).2
      frow0 := pl.fabric.1, fcol0 := pl.fabric.2.1, fheight := pl.fabric.2.2.1, fwidth := pl.fabric.2.2.2, permMask := 7
      lastIss := rcbThrFirst r + rcbThrCount r - 1 }
  match b with
  | none => d
  | some (n, p) =>
    let e := p.node.eff
    let rec0 := p.recs.headD 0
    let row := T / 64 - (rcbRect e).1 - rcbBandRow e
    let j := ((List.range (rcbHeight e)).find? fun j => foldRow (rcbHeight e) j == row).getD 0
    { d with band := n + 1, codeSize := rcbCodeSize e, commitKib := rcbCommit e, bHeight := rcbHeight e, bRow := j
             bCol := T % 64 - (rcbRect e).2.1, firstWave := fld e 736 32, trapBase := handler p.node.addr
             accMask := rec0.extractLsb' 384 64, slotMask := rec0.extractLsb' 448 16, barMask := rec0.extractLsb' 368 16 }

/-- Gives a tile to a region: `repart` where no domain is present, the domain, its receivers, its code, its empty full-empty bits, its zero accumulators and empty slots (R34, R39, R51, R58,
R83). -/
def State.placeTile (s : State) (pl : Spot) (reg : BitVec 1024) (b : Option (Nat × BandPlan)) (T : Nat) : State :=
  let mode := BitVec.ofNat 2 (rcbMode reg)
  let empty := !((List.range 4).any fun d => (s.dom T d).present)
  let s1 := if empty ∧ (s.tile T).mode ≠ mode then (s.clearThreads T).modTile T fun t => { t with mode := mode } else s
  let d := s1.freeDom T
  let dm := placedDom pl reg T b fun a => Table.get 0 s1.handlers a
  let s2 := s1.setDom T d dm
  let lo := lsAddr T dm.lsBase
  let s3 : State := { s2 with fe := s2.fe.filter fun c => !(lo ≤ 8 * c.1 && 8 * c.1 < lo + dm.lsSize) }
  match b with
  | none => s3
  | some (_, p) =>
    let rec0 := p.recs.headD 0
    let accs := unionOf 384 64 p.recs
    let slots := unionOf 448 16 p.recs
    let s4 := (s3.lsStore T dm.codeBase p.code).modTile T fun t =>
      { t with rx := tuneRx s3.groups t.rx 0 rec0, bars := ownBars t.bars d dm.barMask.toNat
               slots := t.slots.filter fun e => !slots.testBit e.1 }
    { s4 with acc := s4.acc.filter fun e => !(e.1 / 0x40000 == T && accs.testBit (e.1 / 4096 % 64)) }

/-- Writes a region's light groups (R152, R153). -/
def State.placeLights (s : State) (r : RegionPlan) : State :=
  let pid := rcbPid r.node.eff
  { s with
    groups := r.lights.foldl (fun g d => Table.set 0 g (lightEntry d) (s.lightGroup pid d)) s.groups
    fillNo := s.fillNo.filter fun e => !(r.lights.any fun d => lightEntry d == e.1 / 16) }

/-- Writes a region's reduction groups at the nodes of quadrant q (R7, R154). -/
def State.placeReds (s : State) (q : Nat) (r : RegionPlan) : State :=
  r.reds.foldl (fun s d =>
    let t := s.redTree r.node.eff d.1 d.2
    t.foldl (fun s n =>
      if quadrantOf (s.logicalNode n.key) ≠ q then s
      else s.modRouter (nodeKey (s.logicalNode n.key)) fun x =>
        { x with red := Table.set 0 x.red (redGroup d.1) (s.redEntryOf t d.1 n), up := Table.set none x.up (redGroup d.1) n.up }) s) s

/-- The band as its scroll controller starts it (R38, R41, R58). -/
def newBand (region : Nat) (p : BandPlan) : Band :=
  { live := true, region := region, addr := p.node.addr, rcb := p.node.eff
    stride := p.recs.foldl (fun m r => Nat.max m (recSaddle r)) 0, edges := edgesOf p.recs, step := 0, started := false
    startAt := 0, stopWave := none, readyT := [], commits := 0, progress := (0, 0), overrun := false, holding := false
    finished := false, replay := none, again := [] }

/-- The number that a launch gives to a node of its tree. -/
def Plan0.num (p : Plan0) (l a : Nat) : Nat := l + 1 + (p.nodes.findIdx fun n => n.addr == a)

/-- The bands of a region of the plan, with their numbers. -/
def Plan0.bandsIn (p : Plan0) (l : Nat) (r : RegionPlan) : List (Nat × BandPlan) :=
  (p.bands.filter fun b => b.node.parent == r.node.addr).map fun b => (p.num l b.node.addr, b)

/-- Places one region with its bands, but for its tiles and its nodes' reduction entries. -/
def State.placeRegion (s : State) (p : Plan0) (l : Nat) (r : RegionPlan) : State :=
  let n := p.num l r.node.addr
  let s2 := s.placeLights r
  let s3 := s2.setRegion n (some
    { live := true, launch := l, addr := r.node.addr, rcb := r.node.eff, jobAddr := r.node.parent, phase := 0, req := none
      limit := 0, groups := r.lights.map lightEntry, reds := (s2.redUses r).map (·.1) })
  (p.bandsIn l r).foldl (fun s b =>
    (List.range (rcbHeight b.2.node.eff)).foldl (fun s j =>
      (onesOf (unionOf 448 16 b.2.recs) 16).foldl (fun s i => s.setRel b.1 j i ⟨true, 0, [], []⟩) s)
      (s.setBand b.1 (some (newBand n b.2)))) s3

/-- What the service tile of quadrant q configures for a placed launch: the tiles and the reduction nodes of its quadrant
(R7, R58). -/
def State.placePart (s : State) (l q : Nat) : State :=
  match s.launchOf l with
  | none => s
  | some la =>
    let p := la.plan
    p.regions.foldl (fun s r =>
      let bs := p.bandsIn l r
      let pl : Spot := ⟨l, p.num l r.node.addr, parentIn p.nodes r.node, boundOf (fabricOf (nodesOf p.nodes 2) r.node)⟩
      let covers (b : BandPlan) (T : Nat) : Bool := (bandGlobalRows b.node.eff).contains (T / 64)
      ((rectTiles r.node.eff).foldl (fun s T =>
        if quadrantOf (s.nodeOf T) ≠ q then s
        else s.placeTile pl r.node.eff (bs.find? fun b => covers b.2 T) T) s).placeReds q r) s

/-- The quadrants other than k in which a plan has tiles or reduction nodes (R7). -/
def State.otherQuadrants (s : State) (k : Nat) (p : Plan0) : List Nat :=
  let qs := p.tiles.map (fun T => quadrantOf (s.nodeOf T)) ++
    p.regions.flatMap fun r => r.reds.flatMap fun d =>
      (s.redTree r.node.eff d.1 d.2).map fun n => quadrantOf (s.logicalNode n.key)
  (List.range 4).filter fun q => q != k && qs.contains q

/-- Every quadrant is configured: the kept accumulators are loaded, band by band, and the controllers start (R39, R58). -/
def State.startLaunch (s : State) (l : Nat) : State :=
  (s.bandsOf l).foldl (fun s b => s.post (.initialSaddleDelivery b.1 0)) s

/-- A configuration message from a service tile to another's (R7); `tag` comes back with its acknowledgement. -/
def configMsg (k q op a b tag : Nat) : Msg :=
  { blockMsg (.service k) (.service q) 0x06 0 0 (.config op a b { Issuer.none with seq := tag }) with pid := 0 }

/-- Places a tree (R58, step 3): the spares chosen, its own quadrant configured, the others through their service tiles. -/
def State.place (s : State) (k : Nat) (r : BitVec 512) (p : Plan0) : State :=
  let l := s.nextId + 1
  let s0 := p.tiles.foldl (fun s T =>
    let x := s.physX (T / 64) (T % 64)
    if s.isFenced x (T / 64) then
      match s.nearSpare (T / 64) x with | some y => s.substitute (T / 64) (T % 64) y | none => s
    else s) s
  let others := s0.otherQuadrants k p
  let la : Launch := { live := true, sv := k, req := r, rcbs := p.nodes.foldl (fun t n => Table.set 0 t n.addr n.eff) []
                       started := false, notices := 0, status := 0, plan := p, loads := p.bands.map fun b => p.num l b.node.addr }
  let s1 := ({ s0 with nextId := l + 1 + p.nodes.length } : State).setLaunch l (some la)
  let s2 := (p.regions.foldl (fun s q => s.placeRegion p l q) s1).placePart l k
  let s3 := s2.modService k fun v => { v with busy := some r, waits := others.map fun q => (q, l) }
  if others.isEmpty then s3.startLaunch l else others.foldl (fun s q => s.send (configMsg k q 5 l q l)) s3

/-- A service tile has acknowledged its part of a launch. -/
def State.configured (s : State) (k q l : Nat) : State :=
  let ws := (s.service k).waits
  if !ws.contains (q, l) then s
  else
    let rest := ws.filter fun w => w != (q, l)
    let s1 := s.modService k fun v => { v with waits := rest }
    if rest.isEmpty then s1.startLaunch l else s1

/-- A request waits at the head of its queue (R23, R193). -/
def State.stall (s : State) (k : Nat) (priv : Bool) (r : BitVec 512) : State :=
  s.modService k fun v => { v with queue := (priv, r) :: v.queue, stalled := true }

/-- A valid tree is placed, or waits for regions of lower priority to drain, or is refused (R23, R57). -/
def State.launchPlan (s : State) (k : Nat) (priv : Bool) (r : BitVec 512) (p : Plan0) : State :=
  if p.bands.isEmpty then (s.answerReq k r 0).putReply k r 32 0x81 0
  else if s.fits p ∧ s.rowsReady p then s.place k r p
  else if !s.rowsReady p then s.answerReq k r 5
  else if s.liveRegions.any fun e => e.2.phase == 1 || e.2.phase == 3 then s.stall k priv r
  else
    let prio := (nodesOf p.nodes 1).foldl (fun m j => Nat.min m (rcbPriority j.eff)) 8
    match s.victim prio with
    | some n => (s.startDrain n none).stall k priv r
    | none => s.answerReq k r 5

/-- `LAUNCH` (R58). -/
def execLaunch (sv : Nat) (priv : Bool) (r : BitVec 512) (s : State) : Host.Outcome State Fault Refusal :=
  .next (s.request sv r fun s =>
    match s.validate (reqPtr r) priv with
    | .error 0 => s.stall sv priv r
    | .error e => s.answerReq sv r e
    | .ok p => s.launchPlan sv priv r p)

end Sys2Proof.Machine
end

