-- ==== Sys2Proof/Machine/Service.lean ====
section
/-! DEFINITION. The service tiles' other requests: DRAIN, FREEZE, RESTORE, ATTEST, HANDLER, COPY_IN and COPY_OUT (R46,
R48, R49, R60, R334, R348), and PCIe completions (R60, R70). -/

namespace Sys2Proof.Machine

open Bits

/-- The placed region that an RCB address names. -/
def State.regionAt (s : State) (a : Nat) : Option (Nat × Region) := s.liveRegions.find? fun e => e.2.addr == a

/-! ## DRAIN (R46) -/

/-- `DRAIN`: answered when the drain is complete. -/
def execDrain (sv : Nat) (_priv : Bool) (r : BitVec 512) (s : State) : Host.Outcome State Fault Refusal :=
  .next (s.request sv r fun s =>
    match s.regionAt (reqPtr r) with
    | none => s.answerReq sv r 0x0A
    | some (n, x) =>
      if x.phase ≠ 0 then s.answerReq sv r 0x0D
      else (s.modService sv fun v => { v with busy := some r }).startDrain n (some (sv, r)))

/-! ## FREEZE (R48, R359) -/

/-- `FREEZE`: the bands hold at their next step boundaries; answered when the image is written. -/
def execFreeze (sv : Nat) (priv : Bool) (r : BitVec 512) (s : State) : Host.Outcome State Fault Refusal :=
  .next (s.request sv r fun s =>
    if !priv then s.answerReq sv r 0x06
    else match s.regionAt (reqPtr r) with
      | none => s.answerReq sv r 0x0A
      | some (n, x) =>
        if !bit x.rcb 44 then s.answerReq sv r 0x06
        else if x.phase ≠ 0 then s.answerReq sv r 0x0D
        else
          let s1 := (s.modService sv fun v => { v with busy := some r }).setRegion n
            (some { x with phase := 2, req := some (sv, r), limit := 0 })
          let bs := s1.regionBands n
          if bs.isEmpty then s1.frozenBoundary n
          else bs.foldl (fun s e => (s.setBand e.1 (some { e.2 with holding := true })).kick e.1) s1)

/-! ## RESTORE (R49, R359) -/

/-- The image whose first header stands at an address: its number; 0x0B where no image can stand, 0x12 where the data are
lost (R353, R359). -/
def State.imageAt (s : State) (a : Nat) : Check (Option Nat) :=
  if !s.readable a 64 then .error 0x0B else (s.look a 64 0x12).map fun b => (List.range s.images.length).find? fun i =>
    (List.range 64).map (fun o => Config.headerByte i 0 o) == b

/-- Bytes that a tile's part of an image takes (R48). -/
def partSize (t : ImageTile) : Nat :=
  0x10000 + t.dom.lsSize + 16384 * (onesOf t.dom.accMask.toNat 64).length + 0x20000 * (onesOf t.dom.slotMask.toNat 16).length

/-- A domain of the image, with what the destination's placement gave it. -/
def mergeDom (img dst : Dom) : Dom :=
  { img with
    present := dst.present, pid := dst.pid, jobPriv := dst.jobPriv, fdPolicy := dst.fdPolicy, weight := dst.weight
    launch := dst.launch, region := dst.region, band := dst.band, lsBase := dst.lsBase, lsSize := dst.lsSize
    thrFirst := dst.thrFirst, thrCount := dst.thrCount, bucketFirst := dst.bucketFirst, bucketCount := dst.bucketCount
    frow0 := dst.frow0, fcol0 := dst.fcol0, fheight := dst.fheight, fwidth := dst.fwidth, lastIss := dst.lastIss }

/-- Loads a tile's part of an image, its bytes after the header, into domain d of tile T. -/
def State.loadTile (s : State) (T d : Nat) (t : ImageTile) (b : List Byte) : State :=
  let dm := mergeDom t.dom (s.dom T d)
  let accs := onesOf t.dom.accMask.toNat 64
  let slots := onesOf t.dom.slotMask.toNat 16
  let s1 := (s.setDom T d dm).lsStore T dm.lsBase (b.take t.dom.lsSize)
  let b1 := b.drop t.dom.lsSize
  let s2 := (accs.zipIdx).foldl (fun s a => s.setAccBytes T a.1 ((b1.drop (16384 * a.2)).take 16384)) s1
  let b2 := b1.drop (16384 * accs.length)
  let s3 : State := { s2 with slotMem := (slots.zipIdx).foldl (fun m a =>
    Memory.write m (slotAddr T a.1 0) ((b2.drop (0x20000 * a.2)).take 0x20000)) s2.slotMem }
  let s4 := t.threads.foldl (fun s x => s.setThread T (dm.thrFirst + x.1) x.2) s3
  let s5 := t.slots.foldl (fun s x => s.setSlot T x.1 x.2) s4
  let s6 := t.bars.foldl (fun s x => s.setBar T x.1 { x.2 with owner := if x.2.owner = 0 then 0 else d + 1 }) s5
  let s7 := t.ports.foldl (fun s x =>
    let q := s.port T x.1
    s.setPort T x.1 { q with resume := Table.set 0 q.resume d (Table.get 0 x.2.resume t.no) }) s6
  s7.modTile T fun u => { u with rx := tuneRx s7.groups u.rx 0 dm.srec }

/-- The bands of a region take the controller state of an image's, FIRST_WAVE and WAVES among it, with its stations'
occurrences and slot releases (R48, R49). -/
def State.loadBands (s : State) (n : Nat) (im : Image) : State :=
  let bs := s.regionBands n
  let s1 := ((bs.zip im.bands)).foldl (fun s x =>
    s.setBand x.1.1 (some { x.2 with live := true, region := n, addr := x.1.2.addr, holding := false,
                                      rcb := put (put x.1.2.rcb 736 32 x.2.firstWave) 704 32 x.2.waves,
                                      startAt := s.mcycle, readyT := [], overrun := false })) s
  let s2 := im.cursors.foldl (fun s x =>
    match bs[x.1]? with
    | some e =>
      let k := e.2.rowOf x.2.2.row + 32 * x.2.1
      s.modStation k fun t => { t with cursors := t.cursors ++ [{ x.2.2 with band := e.1 }] }
    | none => s) s1
  im.rels.foldl (fun s x =>
    match bs[x.1]?, im.bands[x.1]? with
    | some e, some old =>
      let move (c : Nat) : Nat := c + e.2.col0 - old.col0
      s.setRel e.1 (x.2.1 / 16) (x.2.1 % 16) { x.2.2 with cols := x.2.2.cols.map move, got := x.2.2.got.map move }
    | _, _ => s) s2

/-- The destination has the shape of the image: height, width, and the same bands and tiles. -/
def State.sameShape (s : State) (n : Nat) (x : Region) (im : Image) : Bool :=
  let bs := (s.regionBands n).map (·.2)
  let q := rcbRect x.rcb
  let ts := s.imageTiles n
  q.2.2.1 == im.height && q.2.2.2 == im.width && bs.length == im.bands.length && ts.length == im.tiles.length &&
    ((bs.zip im.bands).all fun p => p.1.height == p.2.height && p.1.stages == p.2.stages &&
      fld p.1.rcb 656 5 == fld p.2.rcb 656 5) &&
    (ts.zip im.tiles).all fun p =>
      let d := s.dom p.1.1 p.1.2
      d.lsSize == p.2.dom.lsSize && d.thrCount == p.2.dom.thrCount && d.codeSize == p.2.dom.codeSize

/-- Reads the parts of an image one after the other. -/
def State.imageParts (s : State) : List ImageTile → Nat → Check (List (List Byte))
  | [], _ => .ok []
  | t :: ts, a => do
    let b ← s.look a (partSize t) 0x12
    let rest ← s.imageParts ts (a + partSize t)
    return b.drop 0x10000 :: rest

/-- `RESTORE`: the image is loaded into a placed region of the same shape, whose bands run on from the held boundary. -/
def execRestore (sv : Nat) (priv : Bool) (r : BitVec 512) (s : State) : Host.Outcome State Fault Refusal :=
  .next (s.request sv r fun s =>
    if !priv then s.answerReq sv r 0x06
    else match s.regionAt (reqPtr r) with
      | none => s.answerReq sv r 0x0A
      | some (n, x) =>
        if x.phase = 1 ∨ x.phase = 3 ∨ x.req.isSome then s.answerReq sv r 0x0D
        else match s.imageAt (reqImage r) with
          | .error 0 => s.stall sv priv r
          | .error e => s.answerReq sv r e
          | .ok none => s.answerReq sv r 0x0B
          | .ok (some i) =>
            match s.images[i]? with
            | none => s.answerReq sv r 0x0B
            | some im =>
              if !s.sameShape n x im then s.answerReq sv r 0x0A
              else match s.imageParts im.tiles (reqImage r) with
                | .error 0 => s.stall sv priv r
                | .error e => s.answerReq sv r e
                | .ok parts =>
                  let s1 := (((s.imageTiles n).zip (im.tiles.zip parts))).foldl (fun s p =>
                    s.loadTile p.1.1 p.1.2 p.2.1 p.2.2) s
                  let s2 := (Table.keys s1.stations).foldl (fun s k =>
                    s.modStation k fun t => { t with cursors := t.cursors.filter fun c =>
                      !((s1.regionBands n).any fun e => e.1 == c.band) }) s1
                  let s3 := (s2.loadBands n im).setRegion n (some { x with phase := 0, limit := 0 })
                  let s4 := (s3.regionBands n).foldl (fun s e => s.recheck e.1 e.2) s3
                  s4.answerReq sv r 0)

/-! ## ATTEST (R334) -/

/-- Bytes 0 to 1,023 of a report. -/
def State.reportBody (s : State) (sv : Nat) (nonce : List Byte) : List Byte :=
  toBytes 8 1 ++ toBytes 8 s.time.toNat ++ nonce ++ sha512 Config.publicKey ++
    ((List.range 8).flatMap fun i => toBytes 64 (Table.get 0 (s.service sv).meas i).toNat) ++ toBytes 8 Config.serial.toNat ++
    List.replicate 360 0

/-- A signed report: 1,536 bytes. -/
def State.report (s : State) (sv : Nat) (nonce : List Byte) : List Byte :=
  let body := s.reportBody sv nonce
  body ++ (Config.signature body ++ List.replicate 512 0).take 512

/-- `ATTEST`: the signed report is written to host memory. -/
def execAttest (sv : Nat) (priv : Bool) (r : BitVec 512) (s : State) : Host.Outcome State Fault Refusal :=
  .next (s.request sv r fun s =>
    if !s.readable (reqPtr r) 64 then s.answerReq sv r 0x0A
    else match s.look (reqPtr r) 64 0x12 with
      | .error 0 => s.stall sv priv r
      | .error e => s.answerReq sv r e
      | .ok nonce =>
        (s.hostWrite sv (reqImage r) (s.report sv nonce)).answerReq sv r 0)

/-! ## HANDLER (R348) -/

/-- Writes TRAP_BASE of the domains of the bands of an RCB on the tiles of quadrant q (R7, R348). -/
def State.setHandler (s : State) (a off q : Nat) : State :=
  let bs := s.bands.filterMap fun e => match e.2 with | some b => if b.addr = a then some (e.1, b) else none | none => none
  bs.foldl (fun s e => e.2.tiles.foldl (fun s T =>
    match s.bandDom e.1 T with
    | some d => if quadrantOf (s.nodeOf T) = q then s.modDom T d fun v => { v with trapBase := BitVec.ofNat 32 off } else s
    | none => s) s) s

/-- `HANDLER`: the offset is recorded against the band's RCB, and a running band takes it at once. -/
def execHandler (sv : Nat) (priv : Bool) (r : BitVec 512) (s : State) : Host.Outcome State Fault Refusal :=
  .next (s.request sv r fun s =>
    let a := reqPtr r
    let off := fld r 192 32
    if a % 128 ≠ 0 then s.answerReq sv r 0x0A
    else match s.look a 128 0x0A with
      | .error 0 => s.stall sv priv r
      | .error e => s.answerReq sv r e
      | .ok b =>
        let rcb := bitsOf 1024 b
        if rcbKind rcb ≠ 3 then s.answerReq sv r 0x0A
        else if off % 8 ≠ 0 ∨ off = 0 ∨ rcbCodeSize rcb ≤ off ∨ reqImage r / 2 ^ 32 ≠ 0 then s.answerReq sv r 0x0C
        else
          let s1 : State := { s with handlers := Table.set 0 s.handlers a (BitVec.ofNat 32 off) }
          let ts := s1.bands.flatMap fun e => match e.2 with | some b => if b.addr = a then b.tiles else [] | none => []
          let others := (List.range 4).filter fun q => q != sv && ts.any fun T => quadrantOf (s1.nodeOf T) == q
          (others.foldl (fun s q => s.send (configMsg sv q 6 a off 0)) (s1.setHandler a off sv)).answerReq sv r 0)

/-! ## COPY_IN and COPY_OUT (R60) -/

/-- The device range lies in one of the ranges that R60 names, and came through the right half of the window. -/
def State.copyRange (s : State) (priv : Bool) (pa len : Nat) : Bool :=
  len != 0 && len % 64 == 0 && pa % 64 == 0 && pa + len ≤ 2 ^ 52 && bit s.members (moduleOf pa) &&
    match placeOf pa with
    | .dram a => a + len ≤ 0x030000000000
    | .store _ off => priv && off + len ≤ 0xC00000
    | .regs a => priv && a + len ≤ 2 ^ 47
    | _ => false

/-- A copy request begins; its units follow PCIe completions. -/
def State.startCopy (s : State) (sv : Nat) (priv inbound : Bool) (r : BitVec 512) : State :=
  if !s.copyRange priv (reqPtr r) (reqLen r) || reqImage r % 64 != 0 then s.answerReq sv r 1
  else
    (s.modService sv fun v =>
      { v with busy := some r, copy := some { inbound := inbound, dev := reqPtr r, host := reqImage r,
                                              units := reqLen r / 64, next := 0, done := [], lost := none, away := false } }).post
      (.pcieReadCompletion sv)

/-- `COPY_IN`. -/
def execCopyIn (sv : Nat) (priv : Bool) (r : BitVec 512) (s : State) : Host.Outcome State Fault Refusal :=
  .next (s.request sv r fun s => s.startCopy sv priv true r)

/-- `COPY_OUT`. -/
def execCopyOut (sv : Nat) (priv : Bool) (r : BitVec 512) (s : State) : Host.Outcome State Fault Refusal :=
  .next (s.request sv r fun s => s.startCopy sv priv false r)

/-- The 64-byte device-window access of a unit, for another module (R60, R67, R78). -/
def State.unitMsg (s : State) (k : Nat) (c : Copy) (b : Option (List Byte)) : Msg :=
  let pa := c.dev + 64 * c.next
  let es := (List.range 8).map fun i =>
    ({ key := i, addr := BitVec.ofNat 64 (pa + 8 * i), loc := BitVec.ofNat 64 (pa + 8 * i), size := 8, cmp := 0,
       data := BitVec.ofNat 64 (match b with | some l => ofBytes ((l.drop (8 * i)).take 8) | none => 0) } : Elem)
  let iss : Issuer := { Issuer.none with priv := 2, seq := c.next, wait := true }
  s.abroad (moduleOf pa) (blockMsg (.service k) (.station 0) (if b.isSome then 2 else 1) 0 0
    (.access { kind := if b.isSome then .write else .read, elems := es, iss := iss, phys := true, cache := 0, shr := true,
               dev := true, retried := false }))

/-- Writes one unit to the device: the line is held while an engine owns it, or its bucket or channel takes nothing; the
full-empty bits stay, and registers are written as a service tile's (R60, R67, R104). `false` when the unit has to wait. -/
def State.unitIn (s : State) (pa : Nat) (b : List Byte) : State × Bool :=
  match placeOf pa with
  | .dram a =>
    if s.isOwned (a / 128) || s.bucketShut (s.sharedBucket a) then (s, false)
    else match s.physWrite 0 a (s.sharedBucket a) b true with
      | (s1, .wait) => (s1, false)
      | (s1, _) => (s1.countBucket (s.sharedBucket a), true)
  | .store T off => (s.lsStore T off b, true)
  | .regs a =>
    ((List.range 8).foldl (fun s i =>
      s.regWrite (a + 8 * i) 2 (BitVec.ofNat 64 (ofBytes ((b.drop (8 * i)).take 8))) (BitVec.allOnes 64) 0 true) s, true)
  | _ => (s, true)

/-- What a unit read of the device: bytes, a lost line, or that it has to wait. -/
inductive UnitRead where
  | ok (b : List Byte)
  | lost
  | wait
deriving DecidableEq, Repr

/-- Reads one unit of the device. -/
def State.unitOut (s : State) (pa : Nat) : State × UnitRead :=
  match placeOf pa with
  | .dram a =>
    if s.isOwned (a / 128) || s.bucketShut (s.sharedBucket a) then (s, .wait)
    else match s.physRead 0 a 64 (s.sharedBucket a) true with
      | (s1, .ok, b) => (s1.countBucket (s.sharedBucket a), .ok b)
      | (s1, .lost, _) => (s1, .lost)
      | (s1, .wait, _) => (s1, .wait)
  | .store T off => if s.lsBad T off 64 then (s, .lost) else (s.scrub (inStore T off 64) false, .ok (s.lsRead T off 64))
  | .regs a =>
    let r := (List.range 8).foldl (fun (acc : State × List Byte) i =>
      let x := acc.1.regRead (a + 8 * i) 8
      (x.1, acc.2 ++ toBytes 8 x.2.toNat)) (s, [])
    (r.1, .ok r.2)
  | _ => (s, .ok (List.replicate 64 0))

/-- The station at which a held unit waits. -/
def unitStation (pa : Nat) : Nat := match placeOf pa with | .dram a => stackOf a | _ => 0

/-- The next unit of a copy is carried out, in ascending order; with the last one done, a completed read on the link
lets the reply follow (R60, R108). -/
def State.copyStep (s : State) (k : Nat) (r : BitVec 512) (c : Copy) : State :=
  let go (s : State) (c : Copy) : State := (s.modService k fun v => { v with copy := some c }).post (.pcieReadCompletion k)
  let pa := c.dev + 64 * c.next
  match c.lost with
  | some _ => (s.modService k fun v => { v with busy := none, copy := none }).answerReq k r 0x12
  | none =>
    if c.away then s
    else if c.units ≤ c.next then (s.modService k fun v => { v with busy := none, copy := none }).answerReq k r 0
    else if moduleOf pa ≠ s.module.toNat then
      let m := s.unitMsg k c (if c.inbound then some (s.hostRead k (c.host + 64 * c.next) 64) else none)
      (s.modService k fun v => { v with copy := some { c with away := true } }).send m
    else if c.inbound then
      match s.unitIn pa (s.hostRead k (c.host + 64 * c.next) 64) with
      | (s1, false) => s1.holdAt (unitStation pa) (.pcieReadCompletion k)
      | (s1, true) => go s1 { c with next := c.next + 1 }
    else
      match s.unitOut pa with
      | (s1, .wait) => s1.holdAt (unitStation pa) (.pcieReadCompletion k)
      | (s1, .lost) => go s1 { c with lost := some c.next }
      | (s1, .ok b) => go (s1.hostWrite k (c.host + 64 * c.next) b) { c with next := c.next + 1 }

/-- An aperture load or a release's flush completes: the requester has its answer (R70, R100). -/
def State.completeRead (s : State) (k : Nat) (m : Msg) : State :=
  match m.pay with
  | .access a =>
    s.answer (.service k) m a 0 0 (Access.ea a) (a.elems.map fun e =>
      match placeOf e.loc.toNat with
      | .host j x => { e with data := BitVec.ofNat 64 (ofBytes (s.hostRead j x e.size)) }
      | _ => e)
  | _ => s

/-- `pcieReadCompletion` (R60, R70): of the reads that the service tile has issued, aperture loads and flushes first. -/
def execPcieReadCompletion (k : Nat) (s : State) : Host.Outcome State Fault Refusal :=
  .next (
    let v := s.service k
    match v.reads, v.busy, v.copy with
    | m :: rest, _, _ => (s.setService k { v with reads := rest }).completeRead k m
    | [], some r, some c => s.copyStep k r c
    | [], _, _ => s)

end Sys2Proof.Machine
end

