-- ==== Sys2Proof/Machine/Arrivals.lean ====
section
/-! DEFINITION. Replies at their requesters, configuration writes, arrivals, and the hops of messages (R7, R97, R134, R135,
R140 to R143, R169, R188, R189, R256, R257, R315, R316, R355, R384, R400, R402, R434, R439). -/

namespace Sys2Proof.Machine

open Bits

/-! ## Replies -/

/-- A forwarded unit of a copy has been answered by its module (R60). -/
def State.copyAnswer (s : State) (k : Nat) (r : Reply) : State :=
  match (s.service k).copy with
  | none => s
  | some c =>
    if !c.away ∨ r.iss.seq ≠ c.next then s
    else
      let ok := whyOf r == 0
      let s1 := if c.inbound || !ok then s else s.hostWrite k (c.host + 64 * c.next) (r.elems.flatMap fun e => toBytes e.size e.data.toNat)
      let c1 := if ok then { c with away := false, next := c.next + 1 } else { c with away := false, lost := some c.next }
      (s1.modService k fun v => { v with copy := some c1 }).post (.pcieReadCompletion k)

/-- Another module has answered an engine or walker of station n; what cannot be had there counts as lost data (R78, R371;
log 148). -/
def State.farAnswer (s : State) (n : Nat) (wr : Bool) (r : Reply) : State :=
  let out : Option (List Byte) := if whyOf r = 0 then some (r.elems.flatMap fun e => toBytes e.size e.data.toNat) else none
  (s.modStation n fun t => { t with far := t.far.map fun g =>
    if g.wr = wr ∧ g.pa = r.ea.toNat ∧ g.got.isNone then { g with got := some out } else g }).wake

/-- A reply reaches its requester: a service tile's copy, a station's engine or walker, or a thread. -/
def State.takeReply (s : State) (m : Msg) (r : Reply) : State :=
  match m.dst with
  | .service k => s.copyAnswer k r
  | .station n =>
    if r.iss.hw = 18 then s.farAnswer n (m.typ == 9) r
    else if r.iss.hw = 19 then s.engineReply n (fld m.arg 0 16) r
    else s.threadReply m.src m r
  | _ => s.threadReply m.src m r

/-- `readReply`. -/
def execReadReply (m : Msg) (s : State) : Host.Outcome State Fault Refusal :=
  .next (match m.pay with
    | .access a => s.resend m.dst m a
    | .reply r => s.takeReply m r
    | _ => s)

/-- `atomicReply`. -/
def execAtomicReply (m : Msg) (s : State) : Host.Outcome State Fault Refusal :=
  .next (match m.pay with
    | .access a => s.resend m.dst m a
    | .reply r => s.takeReply m r
    | _ => s)

/-- `writeAcknowledgement`: a store or post has performed or failed, bulk data have been written or refused, an access is
redirected, a service tile has configured its quadrant, or a post is refused for want of room and is held: its thread's access
is still to perform (R7, R97, R169, R256, R355, R384). -/
def execWriteAcknowledgement (m : Msg) (s : State) : Host.Outcome State Fault Refusal :=
  .next (match m.pay with
    | .access a => s.resend m.dst m a
    | .reply r => match m.dst, m.src with
      | .service k, .service q => s.configured k q r.iss.seq
      | _, _ => s.takeReply m r
    | .back unit iss stream => s.bulkAnswer m unit iss stream
    | .post d0 d1 ea iss =>
      let again : Msg := { m with typ := 5, src := m.dst, dst := m.src, arg := BitVec.ofNat 32 (fld m.arg 0 16), pay := .post d0 d1 ea iss }
      s.holdPost again ⟨7, 0, ea, [], iss⟩
    | _ => s)

/-- `configurationWrite`: `repart`, `slotw`, `jkill` and `snap` at their targets, and a service tile's part of a launch (5) or
of a HANDLER (6) for another service tile (R7, R315, R316, R348, R363). -/
def execConfigurationWrite (m : Msg) (s : State) : Host.Outcome State Fault Refusal :=
  .next (match m.pay with
    | .config op a b iss =>
      let back (s : State) (v : Nat) : State := s.send (replyTo m m.dst 0 0 0 [statusElem v] iss)
      match op with
      | 1 =>
        if (List.range 4).any fun d => (s.dom a d).present then back s 1
        else back ((s.clearThreads a).modTile a fun t => { t with mode := BitVec.ofNat 2 b }) 0
      | 2 =>
        let d := b % 4
        if !(s.dom a d).present || b / 4 == 0 then back s 2
        else back (s.modDom a d fun v => { v with weight := b / 4 }) 0
      | 3 => (back s 0).startRemoval a none 0x20
      | 4 => { s with snapTime := BitVec.ofNat 64 a }
      | 5 => back (s.placePart a b) 0
      | 6 => match m.dst with | .service q => s.setHandler a b q | _ => s
      | _ => s
    | _ => s)

/-! ## Arrivals (R135) -/

/-- The event by which a message takes effect at its destination (R135). -/
def arrival (m : Msg) : Event :=
  match m.typ.toNat with
  | 0x01 => .readRequest m
  | 0x02 => .writeRequest m
  | 0x03 => .atomicRequest m
  | 0x04 => .engineCommand m
  | 0x05 => .mailboxPost m
  | 0x06 => .configurationWrite m
  | 0x07 => .frameRepairRequest m
  | 0x08 => .readReply m
  | 0x09 => .writeAcknowledgement m
  | 0x0A => .atomicReply m
  | 0x0B => .orderedStreamAck m
  | 0x0C => .engineCompletion m
  | 0x0D => .collectiveChunkAck m.dst m
  | 0x10 => .reductionContribution m.dst 0 m
  | 0x18 => .bulkData m
  | 0x19 => .saddleMessage m
  | 0x1A => .collectiveChunkData m.dst m
  | 0x20 => .collectiveLaunchRecord m.dst m
  | 0x21 => .escalation m
  | 0x22 => .guardReport m
  | 0x23 => .wakeHint (match m.dst with | .port p => p | _ => 0) (fld m.arg 0 5)
  | 0x24 => match m.dst, m.pay with
    | .station n, .words v _ => .xlatInvalMessage n v
    | _, _ => .reservedTypeMessage m.dst m
  | _ => .reservedTypeMessage m.dst m

/-- The band's tiles of the row whose west station is k, with the domain of each. -/
def State.rowDoms (s : State) (k n : Nat) (b : Band) : List (Nat × Nat) :=
  (b.rows.filter fun j => b.rowOf j == k).flatMap fun j =>
    (s.liveTiles b j).filterMap fun T => (s.bandDom n T).map fun d => (T, d)

/-- A west station forwards a scroll-control message along its row (R41, R360). -/
def State.alongRow (s : State) (k n : Nat) (m : Msg) : State :=
  match s.bandOf n with
  | none => s
  | some b => (s.rowDoms k n b).foldl (fun s x => s.send { m with src := .station k, dst := s.nodeOf x.1 }) s

/-- A tile takes a step start: its row enters a stage, or has nothing to run (R34, R40, R41). -/
def State.startTile (s : State) (T n t : Nat) : State :=
  match s.bandOf n, s.bandDom n T with
  | some b, some d =>
    if b.step ≠ t then s
    else s.post (if (b.runAt t (s.dom T d).bRow).isSome then .stageEntry T d else .tileReady T d)
  | _, _ => s

/-- A control reduction, an abort or a scroll-control message arrives (TYPE 0x11, 0x12, 0x13; R135). -/
def State.control (s : State) (n : Node) (m : Msg) (c : Ctrl) : State :=
  match n, c with
  | .station k, .ready b j T => s.post (.readyReduction k b j T)
  | .station k, .marker b j T st w t v => s.post (.markerReduction k b j T st w t v)
  | .station _, .release b j T i => s.post (.slotRelease b j T i)
  | .station k, .done b j st w low => s.post (.stageDoneReport k b j st w low)
  | .station k, .start b _ => s.alongRow k b m
  | .station k, .overrun b _ => s.alongRow k b m
  | .router x y, .start b t => match s.logical x y with | some T => s.startTile T b t | none => s
  | .router x y, .overrun b t =>
    match s.logical x y with
    | some T => match s.bandDom b T with | some d => s.post (.overrunOrder T d t) | none => s
    | none => s
  | _, .abort g r late => s.post (.reductionAbort n g r late)
  | _, _ => s.post (.reservedTypeMessage n m)

/-! ## Hops -/

/-- The message comes from this module. -/
def localMsg (m : Msg) (md : Nat) : Bool := match m.away with | some a => a.src == md | none => true

/-- The port of a node by which a contribution arrives: its own tile's, an optical link, or the one by which the route from
the child enters (R146, R148, R149). -/
def State.redPort (s : State) (n : Node) (m : Msg) : Nat :=
  if !localMsg m s.module.toNat then (opticalPort n).getD 0 else if m.src = n then 0 else s.portIn m.src n

/-- A message has reached its destination. -/
def State.arrive (s : State) (n : Node) (m : Msg) : State :=
  match m.pay with
  | .ctrl c => s.control n m c
  | _ => if m.typ = 0x10 then s.post (.reductionContribution n (s.redPort n m) m) else s.post (arrival m)

/-- One hop of a message for another module: towards an edge block, from there to the port that the block's route table
names, and out by it once the replay buffer of 512 flits has room; at a port that takes no flits it looks for another way.
Without an entry it is answered with status 0x03 (R188, R189, R338, R402, R423). -/
def State.hopAbroad (s : State) (at_ : Node) (m : Msg) (a : Away) : State :=
  match at_ with
  | .router _ y =>
    match s.nextHop at_ { m with dst := .station y } with
    | some n => s.post (.meshRoute n m)
    | none => if classOf m.typ.toNat = 0 then s.deadEnd at_ m 0x02 else s
  | _ =>
    match a.port with
    | none =>
      let r := s.reg (nodeReg at_ (0x4000 + 8 * a.dst))
      if bit r 63 && fld r 0 48 != 0 then
        s.post (.meshRoute at_ { m with away := some { a with port := some (portFor (nodeX at_) (fld r 0 48), fld r 58 5) } })
      else if classOf m.typ.toNat = 0 ∨ m.typ = 0x18 ∨ m.typ = 0x1A then s.deadEnd at_ m 0x03
      else s
    | some (p, via) =>
      if at_ = .port p then
        let f := msgFlits m
        if !s.takesFlits p then s.after 64 (.meshRoute at_ { m with away := some { a with port := none } })
        else if 512 < (s.portSt p).replay + f then s.after 64 (.meshRoute at_ m)
        else
        { s.modPortSt p fun t => { t with flits := t.flits + f, replay := t.replay + f, flitNo := t.flitNo + f } with
          herdOut := s.herdOut ++ [(via, { m with away := some { a with port := none } })] }
      else s.post (.meshRoute (ringHop at_ (.port p)) m)

/-- `meshRoute`: one hop of a message (R141 to R143), its arrival, or its end: in a kill sweep, at a guard, at a
partitioned link, at a seal, or where there is no route (R363, R400, R404, R434, R439). -/
def execMeshRoute (at_ : Node) (m : Msg) (s : State) : Host.Outcome State Fault Refusal :=
  .next (
    if s.sweeping at_ m.pid.toNat then s
    else if at_ = m.src ∧ localMsg m s.module.toNat ∧ s.nodeFenced at_ then s.post (.tailKill at_ m)
    else match m.away.filter fun a => a.dst != s.module.toNat with
    | some a => s.hopAbroad at_ m a
    | none =>
    if at_ = m.dst then s.arrive at_ m
    else match s.nextHop at_ m with
      | none =>
        let s1 := match at_ with
          | .router x y => if classOf m.typ.toNat = 0 then s else s.countEvent x y (inPort at_ m)
          | _ => s
        if classOf m.typ.toNat = 0 then s1.deadEnd at_ m 0x02 else s1
      | some n =>
        if n = m.dst ∧ s.nodeFenced n then s.deadEnd at_ m 0x02
        else match s.guardDrop at_ n m with
          | some (g, p) => s.dropAt g p m
          | none =>
            if s.linkDrop at_ n m then s.dropAt at_ (portOut at_ n) m
            else s.post (.meshRoute n m))

end Sys2Proof.Machine
end

