-- ==== Sys2Proof/Machine/Herd.lean ====
section
/-! DEFINITION. Herd membership (R190, R339, R418). -/

namespace Sys2Proof.Machine

open Bits

/-- Modules of a set. -/
def modulesOf (v : BitVec 32) : List Nat := onesOf v.toNat 32

/-- The ports with a circuit to a module: in PORTS of an entry that goes by it, or parked for it (R189, R337). -/
def State.circuitsTo (s : State) (md : Nat) : List Nat :=
  (List.range 48).filter fun p =>
    (routeRegs.any fun a => let w := s.reg a; bit w 63 && fld w 58 5 == md && bit w p) || (s.parkedPorts md).contains p

/-- Every entry that leads to a module, or goes by it, is cleared. -/
def State.clearRoutes (s : State) (md : Nat) : State :=
  routeRegs.foldl (fun s a =>
    let w := s.reg a
    if a % 0x10000 = 0x4000 + 8 * md ∨ (bit w 63 = true ∧ fld w 58 5 = md) then s.setReg a 0 else s) s

/-- A port whose peer has left the herd: it is parked no longer and moves to L3 (R190, R339). -/
def State.leavePort (s : State) (p : Nat) : State :=
  ((s.setTarget p 3).moveLaser p).modReg (portReg p 0x400) fun w => put w 16 6 0

/-- A departed module: its ports go dark, its routes go, and every instance that names it is stopped (R190, R339,
R418). -/
def State.leaveModule (s : State) (md : Nat) : State :=
  let s1 := ((s.circuitsTo md).foldl State.leavePort s).clearRoutes md
  edgeBlocks.foldl (fun s n =>
    ((graphsOf s n).filter fun e => e.2.launch.isSome && e.2.ops.any fun o => sendModule o == some md).foldl (fun s e =>
      s.post (.collStop n e.1)) s) s1

/-- `herdMembershipChange`: the members of the herd from now on; modules that are no longer among them have left. The
routes and circuits of a module that joins are written by register writes, port by port. -/
def execHerdMembershipChange (members : BitVec 32) (s : State) : Host.Outcome State Fault Refusal :=
  .next (
    ((modulesOf (s.members &&& ~~~members)).filter fun md => md != s.module.toNat).foldl State.leaveModule
      { s with members := members })

end Sys2Proof.Machine
end

