-- ==== Sys2Proof/Machine/Power.lean ====
section
/-! DEFINITION. Module reset and boot (R332, R333, R365, R378, R422), temperatures (R341, R364), snapshots (R366 to R368),
measurements and firmware updates (R333, R342). -/

namespace Sys2Proof.Machine

open Bits

/-! ## Boot (R332, R365) -/

/-- What the boot ROM finds of a copy, as BOOT_STATUS codes it (R365). -/
def copyCheck : FlashState → Nat
  | .unreadable => 1 | .badDigest => 2 | .badSignature => 3 | .valid => 4

/-- One more value into a measurement register (R333). -/
def extendMeas (m d : BitVec 512) : BitVec 512 := bitsOf 512 (sha512 (toBytes 64 m.toNat ++ toBytes 64 d.toNat))

/-- Measurement registers after a boot: the image in register 0, and further firmware components in 1 to 3 (R332, R333). -/
def bootMeas (image : BitVec 512) : Tbl (BitVec 512) :=
  (List.range 4).foldl (fun m i => Table.set 0 m i (extendMeas 0 (if i = 0 then image else Config.component i image))) []

/-- A service tile after its boot ROM: copy A, or copy B when A does not pass; after an accepted update of copy B the ROM tries
that one first, since the update takes effect at this reset (R332, R342, R365; log 152). -/
def Service.boot (v : Service) : Service :=
  let a := copyCheck v.flashA.state
  let b := copyCheck v.flashB.state
  let triesA := !v.firstB || b != 4
  let triesB := v.firstB || a != 4
  let run := if triesA && a == 4 then 1 else if triesB && b == 4 then 2 else 0
  { Service.reset with
    status := BitVec.ofNat 8 (16 * (if triesB then b else 0) + (if triesA then a else 0)),
    flashA := v.flashA, flashB := v.flashB, firstB := v.firstB, running := run,
    meas := if run = 0 then [] else bootMeas (if run = 1 then v.flashA.digest else v.flashB.digest) }

/-- Positions whose fence is permanent, with the reason as a fence set holds it (R422). -/
def State.permFences (s : State) : List (Nat × Nat) :=
  s.appeals.filterMap fun e =>
    if e.2 < 4 then none
    else some (e.1, (s.routers.findSome? fun r =>
      let c := Table.get 0 r.2.fences e.1
      if c = 0 then none else some c).getD 1)

/-- Firmware loads a permanent fence into every fence set, with the links to it sealed, and maps the logical tile there to
a spare (R14, R422). -/
def State.loadFence (s : State) (f : Nat × Nat) : State :=
  let x := f.1 % 66
  let y := f.1 / 66
  let s1 := allBlocks.foldl (fun s n =>
    s.modRouter (nodeKey n) fun r => { r with fences := Table.set 0 r.fences f.1 f.2 }) s
  let s2 := (adjacent x y).foldl (fun s q => s.setLink q.1 q.2 (linkTo q.1 q.2 x y) 2) s1
  let s3 := s2.modRouter f.1 fun r => { r with sealed := true }
  match s3.logical x y with
  | none => s3
  | some T =>
    match s3.nearSpare y x with
    | some z => s3.setRemap y (T % 64) z
    | none => s3.modTile T fun t => { t with fenced := true }

/-- The lane maps that firmware writes back at boot (R378). -/
def laneMaps : List Nat := (List.range 64).flatMap fun n => (List.range 16).map fun c => stationReg n (0xF40 + 8 * c)

/-- The clocks of the hardware start: heartbeats, silence and babble windows on every link, time symbols and rebalancer
epochs (R82, R191, R390, R391). -/
def State.startClocks (s : State) : State :=
  let s1 := (List.range 2112).foldl (fun s n =>
    let x := n % 66
    let y := n / 66
    [Dir.w, .n, .e, .s].foldl (fun s d =>
      if (tileBeyond x y (dirNo d)).isSome then
        (s.after 12288 (.silenceAccusation x y d)).after 65536 (.babbleWindowEnd x y d)
      else s) (s.after 4096 (.heartbeatSend x y))) s
  ((List.range 48).foldl (fun s p => s.afterTicks 1024 (.timeSyncSend p)) s1).after (2 ^ 20) .rebalanceEpoch

/-- Module reset: every register and memory of the module goes to its reset value; flash, fuses, the host's memory and the
count of appeals outlast it. Each service tile then boots, and the windows open when all four have (R332, R365). -/
def State.resetModule (s : State) : State :=
  let s1 : State :=
    { State.reset with
      timers := [], module := s.module, members := s.members, hostMem := s.hostMem, msix := s.msix, images := s.images,
      appeals := s.appeals, temps := s.temps, herdOut := s.herdOut, log := s.log, mgmtOut := s.mgmtOut, inputs := s.inputs, free := s.free,
      busErr := s.busErr, laneErr := s.laneErr, pcieOut := s.pcieOut,
      routers := (s.routers.filter fun e => e.2.silent).map fun e => (e.1, { Router.reset with silent := true }) }
  let boots := (List.range 4).map fun k => (s.service k).boot
  let ok := boots.all fun v => v.running != 0
  let s2 := (boots.zipIdx).foldl (fun s v => s.setService v.2 { v.1 with booted := ok }) s1
  let s3 := s2.startClocks
  if !ok then s3
  else
    let s4 := laneMaps.foldl (fun t a => t.setReg a (s.reg a)) s3
    let s5 := s.permFences.foldl State.loadFence s4
    let s6 := (List.range 32).foldl (fun s y => s.afterTicks 1000000 (.thermalSample y)) s5
    (List.range 48).foldl (fun s p => s.afterTicks (2 ^ 20) (.laserLoadWindow p)) s6

/-- `moduleReset` (R332). -/
def execModuleReset (s : State) : Host.Outcome State Fault Refusal := .next s.resetModule

/-- `managementReset`: a request on the management port resets the module (R342). -/
def execManagementReset (s : State) : Host.Outcome State Fault Refusal := .next s.resetModule

/-- `thermalTrip`: a block at 110 °C resets the module; no notice is sent and every job is lost (R364). -/
def execThermalTrip (s : State) : Host.Outcome State Fault Refusal := .next s.resetModule

/-! ## Measurements and firmware (R333, R342) -/

/-- `measurementExtend`: registers 4 to 7 of a service tile (R333). -/
def execMeasurementExtend (k i : Nat) (d : BitVec 512) (s : State) : Host.Outcome State Fault Refusal :=
  .next (
    if 4 ≤ i ∧ i ≤ 7 then s.modService k fun v => { v with meas := Table.set 0 v.meas i (extendMeas (Table.get 0 v.meas i) d) }
    else s)

/-- `firmwareUpdate`: the image goes to the copy that is not running; accepted, it is the copy that the next reset tries
first (R342; log 152). -/
def execFirmwareUpdate (k : Nat) (image : FlashState) (digest : BitVec 512) (s : State) :
    Host.Outcome State Fault Refusal :=
  .next (s.modService k fun v =>
    if v.running = 1 then { v with flashB := ⟨image, digest⟩, firstB := image == .valid }
    else if v.running = 2 then { v with flashA := ⟨image, digest⟩, firstB := image != .valid }
    else v)

/-- What a read of the management port returns, served by SV0; no power sensor's value is stated (R334, R342; log 14). -/
def State.managed (s : State) (q : Query) : List Byte :=
  match q with
  | .sensor n => toBytes 8 (BitVec.ofInt 64 (Table.get 0 s.temps (nodeKey n) + 40)).toNat
  | .power => toBytes 8 (Config.freeWord s.free).toNat
  | .rowPwr row => toBytes 8 (s.reg (controlReg (0x100 + 8 * row))).toNat
  | .laser p => toBytes 8 (s.reg (portReg p 0x400)).toNat
  | .health p lane => toBytes 8 (s.reg (wlReg p lane)).toNat ++ toBytes 8 (s.reg (wlReg p lane + 8)).toNat
  | .attest nonce => s.report 0 ((nonce ++ List.replicate 64 0).take 64)

/-- A read of the management port (R342). -/
def State.manage (s : State) (q : Query) : State := { s.bump with mgmtOut := s.mgmtOut ++ [(q, s.managed q)] }

/-! ## Temperatures (R341, R364) -/

/-- Running regions that cover a row. -/
def State.regionsInRow (s : State) (row : Nat) : List (Nat × Region) :=
  s.regions.filterMap fun e => match e.2 with
    | some r => let q := rcbRect r.rcb; if r.live && q.1 ≤ row && row < q.1 + q.2.2.1 then some (e.1, r) else none
    | none => none

/-- Notice 0x35 to the launch of a region: its tile at the row's west end; the value is not stated (R352, R364). -/
def State.noticeHot (s : State) (row n : Nat) (r : Region) : State :=
  let T := row * 64 + (rcbRect r.rcb).2.1
  let d := ((List.range 4).find? fun d => (s.dom T d).present && (s.dom T d).region == n).getD 0
  s.bump.putNotice r.launch ⟨Config.freeWord s.free, 0, T, d, 0, 0x35, 0⟩

/-- A hot row: its regions drain and are told; with none left, the row is gated. -/
def State.coolRow (s : State) (row : Nat) : State :=
  let rs := s.regionsInRow row
  if rs.isEmpty then
    if bit (s.reg (controlReg (0x100 + 8 * row))) 0 then s.writeRowPwr row 2 0 (BitVec.allOnes 64) else s
  else rs.foldl (fun s e => if e.2.phase = 0 then (s.noticeHot row e.1 e.2).startDrain e.1 none else s) s

/-- The row of a block's sensor, by the block's key; a port station lies at its attachment router (R6, R341). -/
def sensorRow (key : Nat) : Nat :=
  if key < 2112 then key / 66 else if key < 4000 then stationRow (key - 3000) else portRow (key - 4000)

/-- What the sensors of a row read; those that no reading has changed stand at 40 degrees (R341, log 6). -/
def State.rowTemps (s : State) (row : Nat) : List Int := (s.temps.filter fun e => sensorRow e.1 == row).map fun e => e.2 + 40

/-- A sensor reads another temperature; a block at 110 degrees trips (R341, R364). -/
def State.sensed (s : State) (n : Node) (temp : Int) : State :=
  let s1 : State := { s with temps := Table.set 0 s.temps (nodeKey n) (temp - 40) }
  if 110 ≤ temp then s1.post .thermalTrip else s1

/-- The next sample of a row's sensors, 1 ms from now (R2, R341). -/
def State.sampleAgain (s : State) (row : Nat) : State :=
  if s.timers.any fun t => t.2 == .thermalSample row then s else s.afterTicks 1000000 (.thermalSample row)

/-- `thermalSample`: firmware samples the sensors of a row: a warning from 95 °C on, draining and gating above 100 °C, power
again when all read below 90 °C (R341, R364). -/
def execThermalSample (row : Nat) (s : State) : Host.Outcome State Fault Refusal :=
  .next (
    let ts := s.rowTemps row
    let s1 := s.sampleAgain row
    let s2 : State :=
      if ts.any fun t => 95 ≤ t then { s1 with msix := s1.msix ++ [(0, 0)], log := s1.log ++ [(0x35, BitVec.ofNat 64 row)] } else s1
    let s3 : State := if (ts.any fun t => 100 < t) ∧ !s2.hot.contains row then { s2 with hot := s2.hot ++ [row] } else s2
    if !s3.hot.contains row then s3
    else if ts.all fun t => t < 90 then
      ({ s3 with hot := s3.hot.erase row } : State).writeRowPwr row 2 1 (BitVec.allOnes 64)
    else s3.coolRow row)

/-! ## Snapshots (R366 to R368) -/

/-- STATE of SNAP_THR (R367); `busy`: the vector unit has an instruction of the thread (R276). -/
def snapState (now : Nat) (busy : Bool) (t : Thread) : Nat :=
  match t.run with
  | .idle | .done => 0
  | .ready => if now < t.readyAt || busy then 2 else 1
  | .parked w _ =>
    match w with
    | .mbox _ => 3
    | .fe _ => 4
    | .bar _ => 5
    | .mat _ | .mqueue | .drainv _ => 6
    | .waitc _ => 7
    | .reply | .prior | .same | .loads => 2
    | .wslot _ | .pqueue _ | .port _ _ | .nic | .resident | .ctx _ => 8
  | .entering _ => 9
  | .stopped => 10

/-- SNAP_THR of a hardware thread (R367). -/
def State.snapThr (s : State) (T h : Nat) : W64 :=
  let t := s.thread T h
  let d := s.domNo T h
  BitVec.ofNat 64 (t.pc.toNat % 2 ^ 32 * 2 ^ 32 + snapState s.tcycle ((s.dom T d).vq.any (·.1 == h)) t * 2 ^ 28 + (if d = 4 then 0 else d) * 2 ^ 24 +
    t.priv.toNat * 2 ^ 22 + t.cause.toNat * 2 ^ 16)

/-- SNAP_TILE (R367). -/
def State.snapTile (s : State) (T : Nat) : W64 :=
  let sum (n : Nat) (f : Nat → Nat) : Nat := (List.range n).foldl (fun a i => a + f i) 0
  BitVec.ofNat 64 (
    sum 16 (fun n => if (s.slot T n).full then 2 ^ (48 + n) else 0) +
    sum 16 (fun b => if (s.bar T b).done then 2 ^ (32 + b) else 0) +
    sum 4 (fun d => (s.dom T d).mbox.length % 32 * 2 ^ (5 * d + 12)))

/-- The domain whose STEP and MARKER a tile latches: its lowest-numbered one in a band (R367). -/
def State.snapDom (s : State) (T : Nat) : Dom :=
  (((List.range 4).map (s.dom T)).find? fun d => d.present && d.band != 0).getD Dom.reset

/-- A tile latches its registers (R367). -/
def State.latchTile (s : State) (T : Nat) : State :=
  let d := s.snapDom T
  let s1 := (List.range 16).foldl (fun a h => a.setReg (tileReg T (0x808 + 8 * h)) (s.snapThr T h))
    (s.setReg (tileReg T 0x800) s.time)
  ((s1.setReg (tileReg T 0x888) (s.snapTile T)).setReg (tileReg T 0x890) d.step).setReg (tileReg T 0x898) d.marker

/-- Back-pressure and buffered flits of a router's port: the model moves whole messages, so both are free values (R368). -/
def freePort (w : W64) : W64 :=
  BitVec.ofNat 64 (fld w 32 4 * 2 ^ 32 + fld w 24 8 % 9 * 2 ^ 24 + fld w 16 8 % 9 * 2 ^ 16 + fld w 8 8 % 9 * 2 ^ 8 +
    fld w 0 8 % 9)

/-- A router latches its registers (R368). -/
def State.latchRouter (s : State) (n : Nat) : State :=
  let r (off : Nat) : Nat := routerReg (n % 66) (n / 66) off
  let s1 := (List.range 5).foldl (fun s p => (s.setReg (r (0x808 + 8 * p)) (freePort (Config.freeWord s.free))).bump)
    (s.setReg (r 0x800) s.time)
  s1.setReg (r 0x830) (BitVec.ofNat 64 ((s.router n).ctxs.length % 2 ^ 16))

/-- A station latches its registers: stage and marker of each of its cursors, the depth of its command queue, and the bucket
and state of the rebalancer. The manual does not place the contents of two of them: a free function of those (R82, R368). -/
def State.latchStation (s : State) (n : Nat) : State :=
  let r (off : Nat) : Nat := stationReg n off
  let cs := (s.station n).cursors.flatMap fun c => [c.band, c.row, c.stage, c.mark]
  let mv := match s.move with | some v => [v.bucket, v.state] | none => []
  (((s.setReg (r 0x800) s.time).setReg (r 0x808) (Config.snapWord 0x808 cs)).setReg (r 0x810)
    (BitVec.ofNat 64 (s.station n).queue.length)).setReg (r 0x818) (Config.snapWord 0x818 mv)

/-- A port station latches its registers; CUR and HINTS as PORT_LASER holds them (R337, R368). -/
def State.latchPort (s : State) (p : Nat) : State :=
  ((s.setReg (portReg p 0x800) s.time).setReg (portReg p 0x808) (BitVec.ofNat 64 (s.portSt p).replay)).setReg
    (portReg p 0x810) (s.reg (portReg p 0x400) &&& (ones 8 8 ||| ones 4 2))

/-- `snapshotTrigger`: every block latches in the tick in which TIME reaches SNAP_TIME, which returns to all ones (R316,
R366). -/
def execSnapshotTrigger (s : State) : Host.Outcome State Fault Refusal :=
  .next (
    if s.snapTime = BitVec.allOnes 64 ∨ s.time.toNat < s.snapTime.toNat then s
    else
      let s1 := (List.range 2048).foldl State.latchTile s
      let s2 := (List.range 2112).foldl State.latchRouter s1
      let s3 := (List.range 64).foldl State.latchStation s2
      { (List.range 48).foldl State.latchPort s3 with snapTime := BitVec.allOnes 64 })

end Sys2Proof.Machine
end

