-- ==== Sys2Proof/Machine/ScalarFloat.lean ====
section
/-! DEFINITION. Compares and predicates (R233 to R236) and scalar floating point (R268 to R272). -/

namespace Sys2Proof.Machine

open Bits

/-! ## Compares and predicates -/

def execCmp (g : Guard) (t : IntTy) (p : PReg) (a b : XReg) (c : Cond) (s : State) :=
  regInstr (.cmp g t p a b c) g [a, b] (fun s =>
    s.wp p (intCond (intWidth t) c (dataOf t (s.rx a)) (dataOf t (s.rx b)))) s
def execCmpi (g : Guard) (p : PReg) (a : XReg) (imm : BitVec 32) (c : Cond) (s : State) :=
  regInstr (.cmpi g p a imm c) g [a] (fun s =>
    s.wp p (intCond 64 c (s.rx a).toNat (imm.signExtend 64).toNat)) s

/-- A float operand: the low bits of the register (R234, R268). -/
def fOperand (t : FTy) (x : W64) : Nat := x.toNat % 2 ^ (Fmt.ofF t).bits

def execFcmp (g : Guard) (t : FTy) (p : PReg) (a b : XReg) (c : FCond) (s : State) :=
  regInstr (.fcmp g t p a b c) g [a, b] (fun s =>
    s.wp p (floatCond c ((Fmt.ofF t).compare (fOperand t (s.rx a)) (fOperand t (s.rx b))))) s

/-- A predicate instruction (R235). -/
def predInstr (i : Instr) (g : Guard) (d a b : PReg) (f : Bool → Bool → Bool) (s : State) :
    Host.Outcome State Fault Refusal :=
  regInstr i g [] (fun s => s.wp d (f (s.rp a) (s.rp b))) s

def execPand (g : Guard) (d a b : PReg) (s : State) := predInstr (.pand g d a b) g d a b (fun a b => a && b) s
def execPor (g : Guard) (d a b : PReg) (s : State) := predInstr (.por g d a b) g d a b (fun a b => a || b) s
def execPxor (g : Guard) (d a b : PReg) (s : State) := predInstr (.pxor g d a b) g d a b (fun a b => a != b) s
def execPandn (g : Guard) (d a b : PReg) (s : State) := predInstr (.pandn g d a b) g d a b (fun a b => a && !b) s

/-- All predicates as bits; bit 0 always reads 1 (R236). -/
def Thread.preds (t : Thread) : BitVec 8 := t.p ||| 1

def execPget (g : Guard) (d : XReg) (s : State) :=
  regInstr (.pget g d) g [d] (fun s => s.wx d (s.me.preds.setWidth 64)) s
/-- Writes the predicates that the mask in x[b] names; p0 is not among them (R236). -/
def execPput (g : Guard) (a b : XReg) (s : State) :=
  regInstr (.pput g a b) g [a, b] (fun s =>
    s.modMe fun t =>
      let k : BitVec 8 := (s.rx b).setWidth 8 &&& 0xFE
      { t with p := (t.p &&& ~~~k) ||| ((s.rx a).setWidth 8 &&& k) }) s

/-! ## Scalar floating point -/

/-- Writes a float result: zero-extended (R268). -/
def State.wf (s : State) (d : XReg) (v : Nat) : State := s.wx d (BitVec.ofNat 64 v)

/-- A float operand as a value. -/
def State.fval (s : State) (t : FTy) (r : XReg) : FVal := (Fmt.ofF t).decode (fOperand t (s.rx r))

def execFadd (g : Guard) (t : FTy) (rm : Rm) (sat : Bool) (d a b : XReg) (s : State) :=
  regInstr (.fadd g t rm sat d a b) g [d, a, b] (fun s =>
    s.wf d ((Fmt.ofF t).encode rm sat ((s.fval t a).add rm (s.fval t b)))) s

/-- A − B: a NaN keeps its own sign (R118), so only a number is negated. -/
def execFsub (g : Guard) (t : FTy) (rm : Rm) (sat : Bool) (d a b : XReg) (s : State) :=
  regInstr (.fsub g t rm sat d a b) g [d, a, b] (fun s =>
    s.wf d ((Fmt.ofF t).encode rm sat ((s.fval t a).add rm (s.fval t b).negate))) s
def execFmul (g : Guard) (t : FTy) (rm : Rm) (sat : Bool) (d a b : XReg) (s : State) :=
  regInstr (.fmul g t rm sat d a b) g [d, a, b] (fun s =>
    s.wf d ((Fmt.ofF t).encode rm sat ((s.fval t a).mul (s.fval t b)))) s
def execFfma (g : Guard) (t : FTy) (rm : Rm) (sat : Bool) (d a b c : XReg) (s : State) :=
  regInstr (.ffma g t rm sat d a b c) g [d, a, b, c] (fun s =>
    s.wf d ((Fmt.ofF t).encode rm sat ((s.fval t a).fma rm (s.fval t b) (s.fval t c)))) s
def execFfms (g : Guard) (t : FTy) (rm : Rm) (sat : Bool) (d a b c : XReg) (s : State) :=
  regInstr (.ffms g t rm sat d a b c) g [d, a, b, c] (fun s =>
    s.wf d ((Fmt.ofF t).encode rm sat ((s.fval t a).fma rm (s.fval t b) (s.fval t c).negate))) s
def execFdiv (g : Guard) (t : FTy) (rm : Rm) (sat : Bool) (d a b : XReg) (s : State) :=
  regInstr (.fdiv g t rm sat d a b) g [d, a, b] (fun s =>
    s.wf d (divCode (Fmt.ofF t) rm sat (s.fval t a) (s.fval t b))) s
def execFsqrt (g : Guard) (t : FTy) (rm : Rm) (sat : Bool) (d a : XReg) (s : State) :=
  regInstr (.fsqrt g t rm sat d a) g [d, a] (fun s => s.wf d (sqrtCode (Fmt.ofF t) rm sat (s.fval t a))) s
def execFmin (g : Guard) (t : FTy) (d a b : XReg) (s : State) :=
  regInstr (.fmin g t d a b) g [d, a, b] (fun s =>
    s.wf d ((Fmt.ofF t).minmax false (fOperand t (s.rx a)) (fOperand t (s.rx b)))) s
def execFmax (g : Guard) (t : FTy) (d a b : XReg) (s : State) :=
  regInstr (.fmax g t d a b) g [d, a, b] (fun s =>
    s.wf d ((Fmt.ofF t).minmax true (fOperand t (s.rx a)) (fOperand t (s.rx b)))) s

/-- `fabs`, `fneg` and `fsgn` act on the sign bit only (R269). -/
def execFabs (g : Guard) (t : FTy) (d a : XReg) (s : State) :=
  regInstr (.fabs g t d a) g [d, a] (fun s => s.wf d (fOperand t (s.rx a) % (Fmt.ofF t).signBit)) s
def execFneg (g : Guard) (t : FTy) (d a : XReg) (s : State) :=
  regInstr (.fneg g t d a) g [d, a] (fun s => s.wf d (fOperand t (s.rx a) ^^^ (Fmt.ofF t).signBit)) s
def execFsgn (g : Guard) (t : FTy) (d a b : XReg) (s : State) :=
  regInstr (.fsgn g t d a b) g [d, a, b] (fun s =>
    let f := Fmt.ofF t
    s.wf d (f.signed (fOperand t (s.rx b) ≥ f.signBit) (fOperand t (s.rx a) % f.signBit))) s

/-- A conversion (R270): an integer result is extended by its type, a float result with zeros. -/
def execFcvt (g : Guard) (dt st : CTy) (rm : Rm) (sat : Bool) (d a : XReg) (s : State) :=
  regInstr (.fcvt g dt st rm sat d a) g [d, a] (fun s =>
    let r := convert dt st rm sat (s.rx a).toNat
    match dt with
    | .int t => s.wx d (extend t r)
    | _ => s.wf d r) s
def execFclass (g : Guard) (t : FTy) (d a : XReg) (s : State) :=
  regInstr (.fclass g t d a) g [d, a] (fun s => s.wf d (2 ^ (Fmt.ofF t).classBit (fOperand t (s.rx a)))) s
def execFrnd (g : Guard) (t : FTy) (rm : Rm) (d a : XReg) (s : State) :=
  regInstr (.frnd g t rm d a) g [d, a] (fun s => s.wf d ((Fmt.ofF t).rnd rm (fOperand t (s.rx a)))) s

end Sys2Proof.Machine
end

