-- ==== Sys2Proof/Machine/Dispatch.lean ====
section
/-! DEFINITION. One arm per constructor of Instr: a direct call of its meaning. -/

namespace Sys2Proof.Machine

open Sys2Proof

/-- The meaning of an instruction. -/
def exec (i : Instr) (s : State) : Host.Outcome State Fault Refusal :=
  match i with
  | .ill rest => Sys2Proof.Machine.execIll rest s
  | .nop g => Sys2Proof.Machine.execNop g s
  | .br g off => Sys2Proof.Machine.execBr g off s
  | .call g d off => Sys2Proof.Machine.execCall g d off s
  | .jr g d a => Sys2Proof.Machine.execJr g d a s
  | .loop g d off => Sys2Proof.Machine.execLoop g d off s
  | .waitc g d a imm => Sys2Proof.Machine.execWaitc g d a imm s
  | .yield g => Sys2Proof.Machine.execYield g s
  | .exit g => Sys2Proof.Machine.execExit g s
  | .brk g imm => Sys2Proof.Machine.execBrk g imm s
  | .trap g imm => Sys2Proof.Machine.execTrap g imm s
  | .add g t sat d a b => Sys2Proof.Machine.execAdd g t sat d a b s
  | .sub g t sat d a b => Sys2Proof.Machine.execSub g t sat d a b s
  | .mul g t sat d a b => Sys2Proof.Machine.execMul g t sat d a b s
  | .mulh g t d a b => Sys2Proof.Machine.execMulh g t d a b s
  | .mulhw g t d a b => Sys2Proof.Machine.execMulhw g t d a b s
  | .div g t d a b => Sys2Proof.Machine.execDiv g t d a b s
  | .divw g t d a b => Sys2Proof.Machine.execDivw g t d a b s
  | .rem g t d a b => Sys2Proof.Machine.execRem g t d a b s
  | .remw g t d a b => Sys2Proof.Machine.execRemw g t d a b s
  | .and g t d a b => Sys2Proof.Machine.execAnd g t d a b s
  | .or g t d a b => Sys2Proof.Machine.execOr g t d a b s
  | .xor g t d a b => Sys2Proof.Machine.execXor g t d a b s
  | .andn g t d a b => Sys2Proof.Machine.execAndn g t d a b s
  | .orn g t d a b => Sys2Proof.Machine.execOrn g t d a b s
  | .shl g t d a b => Sys2Proof.Machine.execShl g t d a b s
  | .shr g t d a b => Sys2Proof.Machine.execShr g t d a b s
  | .sra g t d a b => Sys2Proof.Machine.execSra g t d a b s
  | .rol g t d a b => Sys2Proof.Machine.execRol g t d a b s
  | .min g t d a b => Sys2Proof.Machine.execMin g t d a b s
  | .max g t d a b => Sys2Proof.Machine.execMax g t d a b s
  | .minw g t d a b => Sys2Proof.Machine.execMinw g t d a b s
  | .maxw g t d a b => Sys2Proof.Machine.execMaxw g t d a b s
  | .clz g t d a => Sys2Proof.Machine.execClz g t d a s
  | .ctz g t d a => Sys2Proof.Machine.execCtz g t d a s
  | .popc g t d a => Sys2Proof.Machine.execPopc g t d a s
  | .brev g t d a => Sys2Proof.Machine.execBrev g t d a s
  | .bswap g t d a => Sys2Proof.Machine.execBswap g t d a s
  | .bfx g t d a b c => Sys2Proof.Machine.execBfx g t d a b c s
  | .bfxw g t d a b c => Sys2Proof.Machine.execBfxw g t d a b c s
  | .bfi g t d a b c => Sys2Proof.Machine.execBfi g t d a b c s
  | .sel g t d p a b => Sys2Proof.Machine.execSel g t d p a b s
  | .abs g t sat d a => Sys2Proof.Machine.execAbs g t sat d a s
  | .neg g t sat d a => Sys2Proof.Machine.execNeg g t sat d a s
  | .addi g d a imm => Sys2Proof.Machine.execAddi g d a imm s
  | .andi g d a imm => Sys2Proof.Machine.execAndi g d a imm s
  | .ori g d a imm => Sys2Proof.Machine.execOri g d a imm s
  | .xori g d a imm => Sys2Proof.Machine.execXori g d a imm s
  | .shli g d a sh => Sys2Proof.Machine.execShli g d a sh s
  | .shri g d a sh => Sys2Proof.Machine.execShri g d a sh s
  | .srai g d a sh => Sys2Proof.Machine.execSrai g d a sh s
  | .muli g d a imm => Sys2Proof.Machine.execMuli g d a imm s
  | .movi g d imm => Sys2Proof.Machine.execMovi g d imm s
  | .movhi g d imm => Sys2Proof.Machine.execMovhi g d imm s
  | .cmp g t p a b c => Sys2Proof.Machine.execCmp g t p a b c s
  | .cmpi g p a imm c => Sys2Proof.Machine.execCmpi g p a imm c s
  | .fcmp g t p a b c => Sys2Proof.Machine.execFcmp g t p a b c s
  | .pand g d a b => Sys2Proof.Machine.execPand g d a b s
  | .por g d a b => Sys2Proof.Machine.execPor g d a b s
  | .pxor g d a b => Sys2Proof.Machine.execPxor g d a b s
  | .pandn g d a b => Sys2Proof.Machine.execPandn g d a b s
  | .pget g d => Sys2Proof.Machine.execPget g d s
  | .pput g a b => Sys2Proof.Machine.execPput g a b s
  | .lea g d m => Sys2Proof.Machine.execLea g d m s
  | .spctest g d p a => Sys2Proof.Machine.execSpctest g d p a s
  | .spcast g d p a target => Sys2Proof.Machine.execSpcast g d p a target s
  | .mkshr g d a b => Sys2Proof.Machine.execMkshr g d a b s
  | .fadd g t rm sat d a b => Sys2Proof.Machine.execFadd g t rm sat d a b s
  | .fsub g t rm sat d a b => Sys2Proof.Machine.execFsub g t rm sat d a b s
  | .fmul g t rm sat d a b => Sys2Proof.Machine.execFmul g t rm sat d a b s
  | .ffma g t rm sat d a b c => Sys2Proof.Machine.execFfma g t rm sat d a b c s
  | .ffms g t rm sat d a b c => Sys2Proof.Machine.execFfms g t rm sat d a b c s
  | .fdiv g t rm sat d a b => Sys2Proof.Machine.execFdiv g t rm sat d a b s
  | .fsqrt g t rm sat d a => Sys2Proof.Machine.execFsqrt g t rm sat d a s
  | .fmin g t d a b => Sys2Proof.Machine.execFmin g t d a b s
  | .fmax g t d a b => Sys2Proof.Machine.execFmax g t d a b s
  | .fabs g t d a => Sys2Proof.Machine.execFabs g t d a s
  | .fneg g t d a => Sys2Proof.Machine.execFneg g t d a s
  | .fsgn g t d a b => Sys2Proof.Machine.execFsgn g t d a b s
  | .fcvt g dt st rm sat d a => Sys2Proof.Machine.execFcvt g dt st rm sat d a s
  | .fclass g t d a => Sys2Proof.Machine.execFclass g t d a s
  | .frnd g t rm d a => Sys2Proof.Machine.execFrnd g t rm d a s
  | .ld g sx sz o d m => Sys2Proof.Machine.execLd g sx sz o d m s
  | .st g sz o d m => Sys2Proof.Machine.execSt g sz o d m s
  | .stWc g sz d m => Sys2Proof.Machine.execStWc g sz d m s
  | .ldfe g fm o d m => Sys2Proof.Machine.execLdfe g fm o d m s
  | .stfe g fm o d m => Sys2Proof.Machine.execStfe g fm o d m s
  | .fetest g o d m => Sys2Proof.Machine.execFetest g o d m s
  | .feset g full o m => Sys2Proof.Machine.execFeset g full o m s
  | .pf g llc m => Sys2Proof.Machine.execPf g llc m s
  | .fence g o => Sys2Proof.Machine.execFence g o s
  | .amoadd g sx sz nr o d m => Sys2Proof.Machine.execAmoadd g sx sz nr o d m s
  | .amomin g sx sz nr o d m => Sys2Proof.Machine.execAmomin g sx sz nr o d m s
  | .amomax g sx sz nr o d m => Sys2Proof.Machine.execAmomax g sx sz nr o d m s
  | .amominw g sx sz nr o d m => Sys2Proof.Machine.execAmominw g sx sz nr o d m s
  | .amomaxw g sx sz nr o d m => Sys2Proof.Machine.execAmomaxw g sx sz nr o d m s
  | .amoand g sx sz nr o d m => Sys2Proof.Machine.execAmoand g sx sz nr o d m s
  | .amoor g sx sz nr o d m => Sys2Proof.Machine.execAmoor g sx sz nr o d m s
  | .amoxor g sx sz nr o d m => Sys2Proof.Machine.execAmoxor g sx sz nr o d m s
  | .amoswap g sx sz nr o d m => Sys2Proof.Machine.execAmoswap g sx sz nr o d m s
  | .amofadd g nr o d m => Sys2Proof.Machine.execAmofadd g nr o d m s
  | .amocas g sx sz o d m => Sys2Proof.Machine.execAmocas g sx sz o d m s
  | .vld g n o d m => Sys2Proof.Machine.execVld g n o d m s
  | .vst g n o d m => Sys2Proof.Machine.execVst g n o d m s
  | .vldg g sx sz mk o d base vi off => Sys2Proof.Machine.execVldg g sx sz mk o d base vi off s
  | .vsts g sz mk o d base vi off => Sys2Proof.Machine.execVsts g sz mk o d base vi off s
  | .vldb g sx sz mk o d m => Sys2Proof.Machine.execVldb g sx sz mk o d m s
  | .vldt g sx sz mk o d m => Sys2Proof.Machine.execVldt g sx sz mk o d m s
  | .vstt g sz mk o d m => Sys2Proof.Machine.execVstt g sz mk o d m s
  | .vadd g t rm sat d a b mk => Sys2Proof.Machine.execVadd g t rm sat d a b mk s
  | .vsub g t rm sat d a b mk => Sys2Proof.Machine.execVsub g t rm sat d a b mk s
  | .vmul g t rm sat d a b mk => Sys2Proof.Machine.execVmul g t rm sat d a b mk s
  | .vfma g t rm sat d a b mk => Sys2Proof.Machine.execVfma g t rm sat d a b mk s
  | .vfms g t rm sat d a b mk => Sys2Proof.Machine.execVfms g t rm sat d a b mk s
  | .vmin g t d a b mk => Sys2Proof.Machine.execVmin g t d a b mk s
  | .vmax g t d a b mk => Sys2Proof.Machine.execVmax g t d a b mk s
  | .vabs g t sat d a mk => Sys2Proof.Machine.execVabs g t sat d a mk s
  | .vneg g t sat d a mk => Sys2Proof.Machine.execVneg g t sat d a mk s
  | .vand g d a b mk => Sys2Proof.Machine.execVand g d a b mk s
  | .vor g d a b mk => Sys2Proof.Machine.execVor g d a b mk s
  | .vxor g d a b mk => Sys2Proof.Machine.execVxor g d a b mk s
  | .vandn g d a b mk => Sys2Proof.Machine.execVandn g d a b mk s
  | .vshl g t d a b mk => Sys2Proof.Machine.execVshl g t d a b mk s
  | .vshr g t d a b mk => Sys2Proof.Machine.execVshr g t d a b mk s
  | .vsra g t d a b mk => Sys2Proof.Machine.execVsra g t d a b mk s
  | .vcmp g t c md a b mk => Sys2Proof.Machine.execVcmp g t c md a b mk s
  | .vsel g d a b mk => Sys2Proof.Machine.execVsel g d a b mk s
  | .vmov g d a mk => Sys2Proof.Machine.execVmov g d a mk s
  | .vbcast g d x mk => Sys2Proof.Machine.execVbcast g d x mk s
  | .vbcastLane g d a lane mk => Sys2Proof.Machine.execVbcastLane g d a lane mk s
  | .vcvt g dt st rm sat d a mk => Sys2Proof.Machine.execVcvt g dt st rm sat d a mk s
  | .vquant g t rm d a => Sys2Proof.Machine.execVquant g t rm d a s
  | .vdeq g t rm sat d a mk => Sys2Proof.Machine.execVdeq g t rm sat d a mk s
  | .vexp2 g rm d a mk => Sys2Proof.Machine.execVexp2 g rm d a mk s
  | .vlog2 g rm d a mk => Sys2Proof.Machine.execVlog2 g rm d a mk s
  | .vrcp g rm d a mk => Sys2Proof.Machine.execVrcp g rm d a mk s
  | .vrsqrt g rm d a mk => Sys2Proof.Machine.execVrsqrt g rm d a mk s
  | .vtanh g rm d a mk => Sys2Proof.Machine.execVtanh g rm d a mk s
  | .vsig g rm d a mk => Sys2Proof.Machine.execVsig g rm d a mk s
  | .vredsum g t rm sat d a mk => Sys2Proof.Machine.execVredsum g t rm sat d a mk s
  | .vredmax g t d a mk => Sys2Proof.Machine.execVredmax g t d a mk s
  | .vredmin g t d a mk => Sys2Proof.Machine.execVredmin g t d a mk s
  | .vscan g t rm sat d a mk => Sys2Proof.Machine.execVscan g t rm sat d a mk s
  | .vperm g d a b mk => Sys2Proof.Machine.execVperm g d a b mk s
  | .vrot g d a x mk => Sys2Proof.Machine.execVrot g d a x mk s
  | .vshuf g d a b pat mk => Sys2Proof.Machine.execVshuf g d a b pat mk s
  | .vcompress g d a mk => Sys2Proof.Machine.execVcompress g d a mk s
  | .vcompressMag g d a lg nM1 => Sys2Proof.Machine.execVcompressMag g d a lg nM1 s
  | .vcompressTop g t d a lg nM1 => Sys2Proof.Machine.execVcompressTop g t d a lg nM1 s
  | .vargmax g t d a mk => Sys2Proof.Machine.execVargmax g t d a mk s
  | .vrescale g d a b => Sys2Proof.Machine.execVrescale g d a b s
  | .mand g md ma mb => Sys2Proof.Machine.execMand g md ma mb s
  | .mor g md ma mb => Sys2Proof.Machine.execMor g md ma mb s
  | .mxor g md ma mb => Sys2Proof.Machine.execMxor g md ma mb s
  | .mnot g md ma => Sys2Proof.Machine.execMnot g md ma s
  | .mpop g d ma => Sys2Proof.Machine.execMpop g d ma s
  | .mstep g acc slot r cM1 => Sys2Proof.Machine.execMstep g acc slot r cM1 s
  | .mstepSort g t o r cM1 => Sys2Proof.Machine.execMstepSort g t o r cM1 s
  | .mstepTopk g t o r cM1 => Sys2Proof.Machine.execMstepTopk g t o r cM1 s
  | .mzero g acc cM1 => Sys2Proof.Machine.execMzero g acc cM1 s
  | .mload g acc r cM1 => Sys2Proof.Machine.execMload g acc r cM1 s
  | .mdrain g t sat acc r s1 cM1 => Sys2Proof.Machine.execMdrain g t sat acc r s1 cM1 s
  | .mdrainv g t sat v acc a cM1 => Sys2Proof.Machine.execMdrainv g t sat v acc a cM1 s
  | .msort g t lg o k cM1 => Sys2Proof.Machine.execMsort g t lg o k cM1 s
  | .mtopk g t lg kM1 o k cM1 => Sys2Proof.Machine.execMtopk g t lg kM1 o k cM1 s
  | .mcfg g r => Sys2Proof.Machine.execMcfg g r s
  | .mcfgOff g => Sys2Proof.Machine.execMcfgOff g s
  | .mwait g n => Sys2Proof.Machine.execMwait g n s
  | .wrel g slot => Sys2Proof.Machine.execWrel g slot s
  | .wstat g d slot => Sys2Proof.Machine.execWstat g d slot s
  | .wstatWait g d slot => Sys2Proof.Machine.execWstatWait g d slot s
  | .xfer g r a => Sys2Proof.Machine.execXfer g r a s
  | .sbind g port r a => Sys2Proof.Machine.execSbind g port r a s
  | .swait g port => Sys2Proof.Machine.execSwait g port s
  | .post g a b c tag => Sys2Proof.Machine.execPost g a b c tag s
  | .take g d a imm => Sys2Proof.Machine.execTake g d a imm s
  | .peek g d a imm => Sys2Proof.Machine.execPeek g d a imm s
  | .await g d a imm => Sys2Proof.Machine.execAwait g d a imm s
  | .barinit g b => Sys2Proof.Machine.execBarinit g b s
  | .barexp g a b arm => Sys2Proof.Machine.execBarexp g a b arm s
  | .bararr g a b => Sys2Proof.Machine.execBararr g a b s
  | .barwait g b => Sys2Proof.Machine.execBarwait g b s
  | .bartest g d b => Sys2Proof.Machine.execBartest g d b s
  | .redput g r x => Sys2Proof.Machine.execRedput g r x s
  | .coll g r e => Sys2Proof.Machine.execColl g r e s
  | .mark g a imm => Sys2Proof.Machine.execMark g a imm s
  | .sdone g => Sys2Proof.Machine.execSdone g s
  | .csrr g d n => Sys2Proof.Machine.execCsrr g d n s
  | .csrw g d a n => Sys2Proof.Machine.execCsrw g d a n s
  | .csrs g d a n => Sys2Proof.Machine.execCsrs g d a n s
  | .csrc g d a n => Sys2Proof.Machine.execCsrc g d a n s
  | .eret g => Sys2Proof.Machine.execEret g s
  | .repart g d a mode => Sys2Proof.Machine.execRepart g d a mode s
  | .ctxsave g a k => Sys2Proof.Machine.execCtxsave g a k s
  | .ctxload g a k => Sys2Proof.Machine.execCtxload g a k s
  | .slotw g d a dom => Sys2Proof.Machine.execSlotw g d a dom s
  | .jkill g d a => Sys2Proof.Machine.execJkill g d a s
  | .snap g d a herd => Sys2Proof.Machine.execSnap g d a herd s
  | .launch sv priv r => Sys2Proof.Machine.execLaunch sv priv r s
  | .drain sv priv r => Sys2Proof.Machine.execDrain sv priv r s
  | .freeze sv priv r => Sys2Proof.Machine.execFreeze sv priv r s
  | .restore sv priv r => Sys2Proof.Machine.execRestore sv priv r s
  | .attest sv priv r => Sys2Proof.Machine.execAttest sv priv r s
  | .handler sv priv r => Sys2Proof.Machine.execHandler sv priv r s
  | .copyIn sv priv r => Sys2Proof.Machine.execCopyIn sv priv r s
  | .copyOut sv priv r => Sys2Proof.Machine.execCopyOut sv priv r s
  | .launchEnd l => Sys2Proof.Machine.execLaunchEnd l s
  | .tileReady t d => Sys2Proof.Machine.execTileReady t d s
  | .stepStart b => Sys2Proof.Machine.execStepStart b s
  | .stageEntry t d => Sys2Proof.Machine.execStageEntry t d s
  | .stageDone t d => Sys2Proof.Machine.execStageDone t d s
  | .parkedSaddleDelivery b => Sys2Proof.Machine.execParkedSaddleDelivery b s
  | .initialSaddleDelivery b stage => Sys2Proof.Machine.execInitialSaddleDelivery b stage s
  | .waveCommit b w => Sys2Proof.Machine.execWaveCommit b w s
  | .bandFinish b => Sys2Proof.Machine.execBandFinish b s
  | .drainComplete r => Sys2Proof.Machine.execDrainComplete r s
  | .freezeImageWrite r => Sys2Proof.Machine.execFreezeImageWrite r s
  | .freezeAbandon r => Sys2Proof.Machine.execFreezeAbandon r s
  | .stepOverrun b step => Sys2Proof.Machine.execStepOverrun b step s
  | .overrunOrder t d step => Sys2Proof.Machine.execOverrunOrder t d step s
  | .stageDoneReport b row stage wave min => Sys2Proof.Machine.execStageDoneReport b row stage wave min s
  | .readyReduction b row t => Sys2Proof.Machine.execReadyReduction b row t s
  | .markerReduction b row t marker => Sys2Proof.Machine.execMarkerReduction b row t marker s
  | .slotRelease t slot => Sys2Proof.Machine.execSlotRelease t slot s
  | .kind1Prefetch o => Sys2Proof.Machine.execKind1Prefetch o s
  | .kind2Emit o => Sys2Proof.Machine.execKind2Emit o s
  | .kind3Writeback o => Sys2Proof.Machine.execKind3Writeback o s
  | .kind4Fetch o => Sys2Proof.Machine.execKind4Fetch o s
  | .kind5Assert o => Sys2Proof.Machine.execKind5Assert o s
  | .residencyComplete t d o => Sys2Proof.Machine.execResidencyComplete t d o s
  | .lightFrame t f => Sys2Proof.Machine.execLightFrame t f s
  | .frameRepairRequest m => Sys2Proof.Machine.execFrameRepairRequest m s
  | .lostFill t slot => Sys2Proof.Machine.execLostFill t slot s
  | .readRequest m => Sys2Proof.Machine.execReadRequest m s
  | .writeRequest m => Sys2Proof.Machine.execWriteRequest m s
  | .atomicRequest m => Sys2Proof.Machine.execAtomicRequest m s
  | .engineCommand m => Sys2Proof.Machine.execEngineCommand m s
  | .mailboxPost m => Sys2Proof.Machine.execMailboxPost m s
  | .configurationWrite m => Sys2Proof.Machine.execConfigurationWrite m s
  | .readReply m => Sys2Proof.Machine.execReadReply m s
  | .writeAcknowledgement m => Sys2Proof.Machine.execWriteAcknowledgement m s
  | .atomicReply m => Sys2Proof.Machine.execAtomicReply m s
  | .orderedStreamAck m => Sys2Proof.Machine.execOrderedStreamAck m s
  | .engineCompletion m => Sys2Proof.Machine.execEngineCompletion m s
  | .bulkData m => Sys2Proof.Machine.execBulkData m s
  | .saddleMessage m => Sys2Proof.Machine.execSaddleMessage m s
  | .reductionContribution n port m => Sys2Proof.Machine.execReductionContribution n port m s
  | .reductionAbort n group rseq timeout => Sys2Proof.Machine.execReductionAbort n group rseq timeout s
  | .reductionContextTimeout n group rseq => Sys2Proof.Machine.execReductionContextTimeout n group rseq s
  | .collectiveLaunchRecord n m => Sys2Proof.Machine.execCollectiveLaunchRecord n m s
  | .collectiveChunkData n m => Sys2Proof.Machine.execCollectiveChunkData n m s
  | .collectiveChunkAck n m => Sys2Proof.Machine.execCollectiveChunkAck n m s
  | .chunkOperationRun n slot op => Sys2Proof.Machine.execChunkOperationRun n slot op s
  | .escalation m => Sys2Proof.Machine.execEscalation m s
  | .guardReport m => Sys2Proof.Machine.execGuardReport m s
  | .wakeHint p module => Sys2Proof.Machine.execWakeHint p module s
  | .xlatInvalMessage station v => Sys2Proof.Machine.execXlatInvalMessage station v s
  | .reservedTypeMessage n m => Sys2Proof.Machine.execReservedTypeMessage n m s
  | .meshRoute at_ m => Sys2Proof.Machine.execMeshRoute at_ m s
  | .flitRetry x y p failed => Sys2Proof.Machine.execFlitRetry x y p failed s
  | .tailKill n m => Sys2Proof.Machine.execTailKill n m s
  | .blockTransferStart station engine => Sys2Proof.Machine.execBlockTransferStart station engine s
  | .transferComplete station engine => Sys2Proof.Machine.execTransferComplete station engine s
  | .streamPatternStart t port => Sys2Proof.Machine.execStreamPatternStart t port s
  | .patternComplete t port => Sys2Proof.Machine.execPatternComplete t port s
  | .matrixCommandComplete t d => Sys2Proof.Machine.execMatrixCommandComplete t d s
  | .slotTableRotation => Sys2Proof.Machine.execSlotTableRotation s
  | .waitcExpiry t hw => Sys2Proof.Machine.execWaitcExpiry t hw s
  | .handlerEntry t hw => Sys2Proof.Machine.execHandlerEntry t hw s
  | .feLimitExpiry t hw since => Sys2Proof.Machine.execFeLimitExpiry t hw since s
  | .parkWatchdog t d since => Sys2Proof.Machine.execParkWatchdog t d since s
  | .mailboxRetry t d => Sys2Proof.Machine.execMailboxRetry t d s
  | .waitWithdrawalAck t hw => Sys2Proof.Machine.execWaitWithdrawalAck t hw s
  | .killWrite n pid => Sys2Proof.Machine.execKillWrite n pid s
  | .killSweepEnd n pid => Sys2Proof.Machine.execKillSweepEnd n pid s
  | .removalConfirmed pid => Sys2Proof.Machine.execRemovalConfirmed pid s
  | .xlatInvalWrite station v => Sys2Proof.Machine.execXlatInvalWrite station v s
  | .xlatInvalDone => Sys2Proof.Machine.execXlatInvalDone s
  | .collLoad n v pid free => Sys2Proof.Machine.execCollLoad n v pid free s
  | .collStop n slot => Sys2Proof.Machine.execCollStop n slot s
  | .redHoldHold x y group rseq => Sys2Proof.Machine.execRedHoldHold x y group rseq s
  | .redHoldRelease x y group rseq => Sys2Proof.Machine.execRedHoldRelease x y group rseq s
  | .redHoldAbandon x y group rseq => Sys2Proof.Machine.execRedHoldAbandon x y group rseq s
  | .engResolveRetry n index => Sys2Proof.Machine.execEngResolveRetry n index s
  | .engResolveAbandon n index => Sys2Proof.Machine.execEngResolveAbandon n index s
  | .remapEntryWrite row col physX => Sys2Proof.Machine.execRemapEntryWrite row col physX s
  | .rowPwrWrite row v => Sys2Proof.Machine.execRowPwrWrite row v s
  | .rowPowerSettled row => Sys2Proof.Machine.execRowPowerSettled row s
  | .portLaserWrite p v => Sys2Proof.Machine.execPortLaserWrite p v s
  | .portLanesDrain p lane => Sys2Proof.Machine.execPortLanesDrain p lane s
  | .registerWrite a v => Sys2Proof.Machine.execRegisterWrite a v s
  | .rcRegisterRead a => Sys2Proof.Machine.execRcRegisterRead a s
  | .rebalanceEpoch => Sys2Proof.Machine.execRebalanceEpoch s
  | .bucketFlushed => Sys2Proof.Machine.execBucketFlushed s
  | .bucketActiveAtNew => Sys2Proof.Machine.execBucketActiveAtNew s
  | .laneSwapEnd station channel ok => Sys2Proof.Machine.execLaneSwapEnd station channel ok s
  | .heartbeatSend x y => Sys2Proof.Machine.execHeartbeatSend x y s
  | .heartbeat x y p => Sys2Proof.Machine.execHeartbeat x y p s
  | .silenceAccusation x y p => Sys2Proof.Machine.execSilenceAccusation x y p s
  | .babbleWindowEnd x y p => Sys2Proof.Machine.execBabbleWindowEnd x y p s
  | .accusation x y ax ay by_ r => Sys2Proof.Machine.execAccusation x y ax ay by_ r s
  | .accusationWithdrawal x y ax ay by_ => Sys2Proof.Machine.execAccusationWithdrawal x y ax ay by_ s
  | .accusationExpiry x y ax ay by_ => Sys2Proof.Machine.execAccusationExpiry x y ax ay by_ s
  | .quorumHoldEnd x y ax ay => Sys2Proof.Machine.execQuorumHoldEnd x y ax ay s
  | .selfFence x y => Sys2Proof.Machine.execSelfFence x y s
  | .fenceNotice n fx fy r => Sys2Proof.Machine.execFenceNotice n fx fy r s
  | .substitution row col => Sys2Proof.Machine.execSubstitution row col s
  | .replayStep b stage => Sys2Proof.Machine.execReplayStep b stage s
  | .farrierTest x y passed => Sys2Proof.Machine.execFarrierTest x y passed s
  | .appeal x y p => Sys2Proof.Machine.execAppeal x y p s
  | .probationEnd x y p => Sys2Proof.Machine.execProbationEnd x y p s
  | .readmissionNotice n fx fy => Sys2Proof.Machine.execReadmissionNotice n fx fy s
  | .timeSyncSend p => Sys2Proof.Machine.execTimeSyncSend p s
  | .timeSyncSymbol p v => Sys2Proof.Machine.execTimeSyncSymbol p v s
  | .quiesce p => Sys2Proof.Machine.execQuiesce p s
  | .resume p => Sys2Proof.Machine.execResume p s
  | .restripe p lanes => Sys2Proof.Machine.execRestripe p lanes s
  | .fecReplay p => Sys2Proof.Machine.execFecReplay p s
  | .lockLoss p lane => Sys2Proof.Machine.execLockLoss p lane s
  | .relightTimeout p => Sys2Proof.Machine.execRelightTimeout p s
  | .laserLoadWindow p => Sys2Proof.Machine.execLaserLoadWindow p s
  | .portLocked p => Sys2Proof.Machine.execPortLocked p s
  | .moduleReset => Sys2Proof.Machine.execModuleReset s
  | .thermalSample row => Sys2Proof.Machine.execThermalSample row s
  | .thermalTrip => Sys2Proof.Machine.execThermalTrip s
  | .snapshotTrigger => Sys2Proof.Machine.execSnapshotTrigger s
  | .measurementExtend k k1 d => Sys2Proof.Machine.execMeasurementExtend k k1 d s
  | .firmwareUpdate k image digest => Sys2Proof.Machine.execFirmwareUpdate k image digest s
  | .managementReset => Sys2Proof.Machine.execManagementReset s
  | .herdMembershipChange members => Sys2Proof.Machine.execHerdMembershipChange members s
  | .pcieReadCompletion k => Sys2Proof.Machine.execPcieReadCompletion k s
  | .ageHorizonCrossed p lane hours => Sys2Proof.Machine.execAgeHorizonCrossed p lane hours s

end Sys2Proof.Machine
end

