-- ==== Sys2Proof/Machine/Events.lean ====
section
/-! DEFINITION. Runs an event under way: the meaning of its row of the opcode table. -/

namespace Sys2Proof.Machine

open Sys2Proof

/-- Runs an event: the meaning that `exec` gives the constructor of the same name. The four control messages of R135 that name
a station or a run (stage-done, ready, marker, release) act at that one station alone, where the row of the table acts at all
of the band row's. -/
def Event.run (e : Event) (s : State) : Host.Outcome State Fault Refusal :=
  match e with
  | .launchEnd l => Sys2Proof.Machine.execLaunchEnd l s
  | .tileReady t d => Sys2Proof.Machine.execTileReady t d s
  | .stepStart b => Sys2Proof.Machine.execStepStart b s
  | .stageEntry t d => Sys2Proof.Machine.execStageEntry t d s
  | .stageDone t d => Sys2Proof.Machine.execStageDone t d s
  | .parkedSaddleDelivery b => Sys2Proof.Machine.execParkedSaddleDelivery b s
  | .initialSaddleDelivery b stage => Sys2Proof.Machine.execInitialSaddleDelivery b stage s
  | .waveCommit b w => Sys2Proof.Machine.execWaveCommit b w s
  | .bandFinish b => Sys2Proof.Machine.execBandFinish b s
  | .drainComplete r => Sys2Proof.Machine.execDrainComplete r s
  | .freezeImageWrite r => Sys2Proof.Machine.execFreezeImageWrite r s
  | .freezeAbandon r => Sys2Proof.Machine.execFreezeAbandon r s
  | .stepOverrun b step => Sys2Proof.Machine.execStepOverrun b step s
  | .overrunOrder t d step => Sys2Proof.Machine.execOverrunOrder t d step s
  | .stageDoneReport k b row stage wave min => .next (s.stageDoneAt k b row stage wave min)
  | .readyReduction k b row t => .next (s.readyAt k b row t)
  | .markerReduction k b row _ stage wave step _ => .next (s.markerAt k b row stage wave step)
  | .slotRelease b row t slot => .next (s.releaseAt b row t slot)
  | .kind1Prefetch o => Sys2Proof.Machine.execKind1Prefetch o s
  | .kind2Emit o => Sys2Proof.Machine.execKind2Emit o s
  | .kind3Writeback o => Sys2Proof.Machine.execKind3Writeback o s
  | .kind4Fetch o => Sys2Proof.Machine.execKind4Fetch o s
  | .kind5Assert o => Sys2Proof.Machine.execKind5Assert o s
  | .residencyComplete t d o => Sys2Proof.Machine.execResidencyComplete t d o s
  | .lightFrame t f => Sys2Proof.Machine.execLightFrame t f s
  | .frameRepairRequest m => Sys2Proof.Machine.execFrameRepairRequest m s
  | .lostFill t slot => Sys2Proof.Machine.execLostFill t slot s
  | .readRequest m => Sys2Proof.Machine.execReadRequest m s
  | .writeRequest m => Sys2Proof.Machine.execWriteRequest m s
  | .atomicRequest m => Sys2Proof.Machine.execAtomicRequest m s
  | .engineCommand m => Sys2Proof.Machine.execEngineCommand m s
  | .mailboxPost m => Sys2Proof.Machine.execMailboxPost m s
  | .configurationWrite m => Sys2Proof.Machine.execConfigurationWrite m s
  | .readReply m => Sys2Proof.Machine.execReadReply m s
  | .writeAcknowledgement m => Sys2Proof.Machine.execWriteAcknowledgement m s
  | .atomicReply m => Sys2Proof.Machine.execAtomicReply m s
  | .orderedStreamAck m => Sys2Proof.Machine.execOrderedStreamAck m s
  | .engineCompletion m => Sys2Proof.Machine.execEngineCompletion m s
  | .bulkData m => Sys2Proof.Machine.execBulkData m s
  | .saddleMessage m => Sys2Proof.Machine.execSaddleMessage m s
  | .reductionContribution n port m => Sys2Proof.Machine.execReductionContribution n port m s
  | .reductionAbort n group rseq timeout => Sys2Proof.Machine.execReductionAbort n group rseq timeout s
  | .reductionContextTimeout n group rseq => Sys2Proof.Machine.execReductionContextTimeout n group rseq s
  | .collectiveLaunchRecord n m => Sys2Proof.Machine.execCollectiveLaunchRecord n m s
  | .collectiveChunkData n m => Sys2Proof.Machine.execCollectiveChunkData n m s
  | .collectiveChunkAck n m => Sys2Proof.Machine.execCollectiveChunkAck n m s
  | .chunkOperationRun n slot op => Sys2Proof.Machine.execChunkOperationRun n slot op s
  | .escalation m => Sys2Proof.Machine.execEscalation m s
  | .guardReport m => Sys2Proof.Machine.execGuardReport m s
  | .wakeHint p module => Sys2Proof.Machine.execWakeHint p module s
  | .xlatInvalMessage station v => Sys2Proof.Machine.execXlatInvalMessage station v s
  | .reservedTypeMessage n m => Sys2Proof.Machine.execReservedTypeMessage n m s
  | .meshRoute at_ m => Sys2Proof.Machine.execMeshRoute at_ m s
  | .flitRetry x y p failed => Sys2Proof.Machine.execFlitRetry x y p failed s
  | .tailKill n m => Sys2Proof.Machine.execTailKill n m s
  | .blockTransferStart station engine => Sys2Proof.Machine.execBlockTransferStart station engine s
  | .transferComplete station engine => Sys2Proof.Machine.execTransferComplete station engine s
  | .streamPatternStart t port => Sys2Proof.Machine.execStreamPatternStart t port s
  | .patternComplete t port => Sys2Proof.Machine.execPatternComplete t port s
  | .matrixCommandComplete t d => Sys2Proof.Machine.execMatrixCommandComplete t d s
  | .slotTableRotation => Sys2Proof.Machine.execSlotTableRotation s
  | .waitcExpiry t hw => Sys2Proof.Machine.execWaitcExpiry t hw s
  | .handlerEntry t hw => Sys2Proof.Machine.execHandlerEntry t hw s
  | .feLimitExpiry t hw since => Sys2Proof.Machine.execFeLimitExpiry t hw since s
  | .parkWatchdog t d since => Sys2Proof.Machine.execParkWatchdog t d since s
  | .mailboxRetry t d => Sys2Proof.Machine.execMailboxRetry t d s
  | .waitWithdrawalAck t hw => Sys2Proof.Machine.execWaitWithdrawalAck t hw s
  | .killWrite n pid => Sys2Proof.Machine.execKillWrite n pid s
  | .killSweepEnd n pid => Sys2Proof.Machine.execKillSweepEnd n pid s
  | .removalConfirmed pid => Sys2Proof.Machine.execRemovalConfirmed pid s
  | .xlatInvalWrite station v => Sys2Proof.Machine.execXlatInvalWrite station v s
  | .xlatInvalDone => Sys2Proof.Machine.execXlatInvalDone s
  | .collLoad n v pid free => Sys2Proof.Machine.execCollLoad n v pid free s
  | .collStop n slot => Sys2Proof.Machine.execCollStop n slot s
  | .redHoldHold x y group rseq => Sys2Proof.Machine.execRedHoldHold x y group rseq s
  | .redHoldRelease x y group rseq => Sys2Proof.Machine.execRedHoldRelease x y group rseq s
  | .redHoldAbandon x y group rseq => Sys2Proof.Machine.execRedHoldAbandon x y group rseq s
  | .engResolveRetry n index => Sys2Proof.Machine.execEngResolveRetry n index s
  | .engResolveAbandon n index => Sys2Proof.Machine.execEngResolveAbandon n index s
  | .remapEntryWrite row col physX => Sys2Proof.Machine.execRemapEntryWrite row col physX s
  | .rowPwrWrite row v => Sys2Proof.Machine.execRowPwrWrite row v s
  | .rowPowerSettled row => Sys2Proof.Machine.execRowPowerSettled row s
  | .portLaserWrite p v => Sys2Proof.Machine.execPortLaserWrite p v s
  | .portLanesDrain p lane => Sys2Proof.Machine.execPortLanesDrain p lane s
  | .registerWrite a v => Sys2Proof.Machine.execRegisterWrite a v s
  | .rcRegisterRead a => Sys2Proof.Machine.execRcRegisterRead a s
  | .rebalanceEpoch => Sys2Proof.Machine.execRebalanceEpoch s
  | .bucketFlushed => Sys2Proof.Machine.execBucketFlushed s
  | .bucketActiveAtNew => Sys2Proof.Machine.execBucketActiveAtNew s
  | .laneSwapEnd station channel ok => Sys2Proof.Machine.execLaneSwapEnd station channel ok s
  | .heartbeatSend x y => Sys2Proof.Machine.execHeartbeatSend x y s
  | .heartbeat x y p => Sys2Proof.Machine.execHeartbeat x y p s
  | .silenceAccusation x y p => Sys2Proof.Machine.execSilenceAccusation x y p s
  | .babbleWindowEnd x y p => Sys2Proof.Machine.execBabbleWindowEnd x y p s
  | .accusation x y ax ay by_ r => Sys2Proof.Machine.execAccusation x y ax ay by_ r s
  | .accusationWithdrawal x y ax ay by_ => Sys2Proof.Machine.execAccusationWithdrawal x y ax ay by_ s
  | .accusationExpiry x y ax ay by_ => Sys2Proof.Machine.execAccusationExpiry x y ax ay by_ s
  | .quorumHoldEnd x y ax ay => Sys2Proof.Machine.execQuorumHoldEnd x y ax ay s
  | .selfFence x y => Sys2Proof.Machine.execSelfFence x y s
  | .fenceNotice n fx fy r => Sys2Proof.Machine.execFenceNotice n fx fy r s
  | .substitution row col => Sys2Proof.Machine.execSubstitution row col s
  | .replayStep b stage => Sys2Proof.Machine.execReplayStep b stage s
  | .farrierTest x y passed => Sys2Proof.Machine.execFarrierTest x y passed s
  | .appeal x y p => Sys2Proof.Machine.execAppeal x y p s
  | .probationEnd x y p => Sys2Proof.Machine.execProbationEnd x y p s
  | .readmissionNotice n fx fy => Sys2Proof.Machine.execReadmissionNotice n fx fy s
  | .timeSyncSend p => Sys2Proof.Machine.execTimeSyncSend p s
  | .timeSyncSymbol p v => Sys2Proof.Machine.execTimeSyncSymbol p v s
  | .quiesce p => Sys2Proof.Machine.execQuiesce p s
  | .resume p => Sys2Proof.Machine.execResume p s
  | .restripe p lanes => Sys2Proof.Machine.execRestripe p lanes s
  | .fecReplay p => Sys2Proof.Machine.execFecReplay p s
  | .lockLoss p lane => Sys2Proof.Machine.execLockLoss p lane s
  | .relightTimeout p => Sys2Proof.Machine.execRelightTimeout p s
  | .laserLoadWindow p => Sys2Proof.Machine.execLaserLoadWindow p s
  | .portLocked p => Sys2Proof.Machine.execPortLocked p s
  | .moduleReset => Sys2Proof.Machine.execModuleReset s
  | .thermalSample row => Sys2Proof.Machine.execThermalSample row s
  | .thermalTrip => Sys2Proof.Machine.execThermalTrip s
  | .snapshotTrigger => Sys2Proof.Machine.execSnapshotTrigger s
  | .measurementExtend k k1 d => Sys2Proof.Machine.execMeasurementExtend k k1 d s
  | .firmwareUpdate k image digest => Sys2Proof.Machine.execFirmwareUpdate k image digest s
  | .managementReset => Sys2Proof.Machine.execManagementReset s
  | .herdMembershipChange members => Sys2Proof.Machine.execHerdMembershipChange members s
  | .pcieReadCompletion k => Sys2Proof.Machine.execPcieReadCompletion k s
  | .ageHorizonCrossed p lane hours => Sys2Proof.Machine.execAgeHorizonCrossed p lane hours s

end Sys2Proof.Machine
end

