-- ==== Sys2Proof/Machine/Clock.lean ====
section
/-! DEFINITION. What happens next: the thread that a tile cycle goes to (R54), its fetch (R195, R354), and the end of a
tile cycle (R2, R53, R191). -/

namespace Sys2Proof.Machine

open Bits

/-- The slot-table position of a tile's present cycle (R52). -/
def State.slotPos (s : State) : Nat := s.tcycle % 16

/-- The domain to which a tile's present cycle is assigned (R52). -/
def State.slotDom (s : State) (T : Nat) : Option Nat :=
  let e := Table.get 0 (s.tile T).table s.slotPos
  if e.toNat < 4 ∨ !(s.dom T (e.toNat - 4)).present then none else some (e.toNat - 4)

/-- The tile's cores run: it is not fenced, and its row is powered (R336, R399). -/
def State.tileRuns (s : State) (T : Nat) : Bool :=
  !(s.tile T).fenced && bit (s.reg (controlReg (0x100 + 8 * (T / 64)))) 63

/-- The thread of a tile to which the present cycle goes, if any (R54). -/
def State.turn (s : State) (T : Nat) : Option Nat :=
  match s.slotDom T with
  | none => none
  | some d =>
    let dm := s.dom T d
    if s.tileRuns T then
      ((List.range dm.thrCount).map fun k => dm.thrFirst + (dm.lastIss + 1 - dm.thrFirst + k) % dm.thrCount).find?
        fun h => s.canIssue T h
    else none

/-- The next tile of this cycle, from the cursor on, at which a thread issues (log 12). -/
def State.nextTurn (s : State) : Option (Nat × Nat) :=
  (s.tiles.filter fun e => s.cursor ≤ e.1).findSome? fun e => (s.turn e.1).map fun h => (e.1, h)

/-- The instruction word at a thread's pc (R33, R195). -/
def State.fetchWord (s : State) (T h : Nat) : W64 :=
  let pc := (s.thread T h).pc
  BitVec.ofNat 64 (ofBytes (s.lsRead T ((s.dom T (s.domNo T h)).codeBase + pc.toNat) 8))

/-- A use of the word at the issuing thread's pc that misses: lost data, a record in progress past its deadline, or the word
as it is (R196, R371, R387). -/
def State.fetchState (s : State) : Nat :=
  let off := s.myDom.codeBase + s.me.pc.toNat
  let ms := s.myDom.misses off 8
  if s.lsBad s.cur.1 off 8 || ms.any (·.st == 2) then 2 else if ms.isEmpty then 1 else 0

/-- The state after the fetch of a word: a corrected error is counted (R369). -/
def State.fetched (s : State) : State := s.scrub (inStore s.cur.1 (s.myDom.codeBase + s.me.pc.toNat) 8) false

/-- The cause of a word that is not an instruction (R354). -/
def decodeCause : DecodeError → Nat
  | .illegal => 1 | .reserved => 2 | .unaccepted => 3

/-- The thread takes step overrun before its next issue (R360, R362). -/
def State.takeOverrun (s : State) : State := (s.modMe fun t => { t with overrun := false }).raise 0x16 s.myDom.step

/-- The issuing thread's next word is fetched as a load, decoded and executed; a pc outside the code image raises its cause
in the order of R354, and a word that is lost or not yet resident does what a load of it does (R196; log 150). -/
def State.fetchIssue (s : State) : Host.Outcome State Fault Refusal :=
  let pc := s.me.pc
  if pc.toNat % 8 ≠ 0 then .next (s.raise 0x05 pc)
  else if s.myDom.codeSize ≤ pc.toNat then .next (s.raise 0x17 pc)
  else match s.fetchState with
    | 2 => .next (s.raise 0x13 pc)
    | 0 =>
      if bit s.myDom.fdPolicy 3 then .next (s.raise 0x10 pc)
      else .next (s.countMiss.modMe fun t => { t with run := .parked .resident s.tcycle, readyAt := s.tcycle + 8 })
    | _ =>
      let w := s.fetchWord s.cur.1 s.cur.2
      match decode w with
      | .ok i => exec i s.fetched
      | .error e => .next (s.fetched.raise (decodeCause e) w)

/-- The chosen thread, with the round-robin of its domain moved on (R54). -/
def State.choose (s : State) (T h : Nat) : State :=
  ({ s with cur := (T, h), cursor := T + 1 } : State).modDom T (s.domNo T h) fun d => { d with lastIss := h }

/-- The chosen thread takes its cycle: a wait that is over completes its instruction; an overrun order is taken before
the next issue (R360, R362). -/
def State.issueThread (s : State) (T h : Nat) : Host.Outcome State Fault Refusal :=
  let s1 := s.choose T h
  let t := s1.me
  let ready : Bool := match t.run with | .parked w _ => s1.waitOver T h w | _ => !t.overrun
  if !ready then .next s1.takeOverrun
  else match t.pend with
    | some i => exec i s1
    | none => s1.fetchIssue

/-! ## The end of a tile cycle -/

/-- Ticks of the time base in a tile cycle: two in every three cycles (R2, log 3). -/
def ticksIn (phase : Nat) : Nat := if phase = 1 then 0 else 1

/-- An event due now, unless it is due already. -/
def State.due (s : State) (e : Event) : State :=
  if s.timers.any fun t => t.2 == e then s else { s with timers := s.timers ++ [((.tile, s.tcycle), e)] }

/-- The vector unit of a tile gives the cycle to the oldest unfinished vector instruction of the domain that holds it; with
its last register done, the thread may issue 8 cycles later (R276). -/
def State.vectorCycle (s : State) (T d : Nat) : State :=
  match (s.dom T d).vq with
  | [] => s
  | (h, n) :: rest =>
    if n ≤ 1 then (s.modDom T d fun v => { v with vq := rest }).modThread T h fun t => { t with readyAt := s.tcycle + 8 }
    else s.modDom T d fun v => { v with vq := (h, n - 1) :: rest }

/-- The matrix arrays and the vector units of the tiles take the cycle (R276, R291). -/
def State.arrayCycles (s : State) : State :=
  (Table.keys s.tiles).foldl (fun s T =>
    match s.slotDom T with
    | some d => if s.tileRuns T then (s.vectorCycle T d).arrayCycle T d else s
    | none => s) s

/-- `waitc` targets that TIME has reached (R244). -/
def State.dueWaits (s : State) : State :=
  s.tiles.foldl (fun s e =>
    e.2.threads.foldl (fun s t => match t.2.run with
      | .parked (.waitc v) _ => if v.toNat ≤ s.time.toNat then s.due (.waitcExpiry e.1 t.1) else s
      | _ => s) s) s

/-- The park watchdog of a domain counts the cycles for which its threads have stood (R361). -/
def State.watchDom (s : State) (T d : Nat) : State :=
  let l := s.parkLimit T d
  if l = 0 ∨ !s.allParked T d then
    if (s.dom T d).idleAt.isNone then s else s.modDom T d fun v => { v with idleAt := none }
  else
    match (s.dom T d).idleAt with
    | none => s.modDom T d fun v => { v with idleAt := some s.tcycle }
    | some since =>
      if since + l ≤ s.tcycle ∧ !bit (s.reg (tileReg T (0x100 + 8 * d))) 63 then s.due (.parkWatchdog T d since) else s

def State.watchParks (s : State) : State :=
  s.tiles.foldl (fun s e => e.2.doms.foldl (fun s d => if d.2.present then s.watchDom e.1 d.1 else s) s) s

/-- The present tile cycle ends: the arrays have had it, the clocks move on, and what the new cycle brings is due (R2,
R52, R191, R244, R291, R361, R366). -/
def State.tick (s : State) : State :=
  let s0 := s.arrayCycles
  let s1 : State :=
    { s0 with tcycle := s.tcycle + 1, mcycle := s.mcycle + 1, cursor := 0, phase := (s.phase + 1) % 3,
              ticks := s.ticks + ticksIn s.phase, time := s.time + BitVec.ofNat 64 (ticksIn s.phase) }
  let s2 := if s1.tcycle % 16 = 0 then s1.due .slotTableRotation else s1
  let s3 := if ticksIn s.phase ≠ 0 ∧ s2.snapTime ≠ BitVec.allOnes 64 ∧ s2.snapTime.toNat ≤ s2.time.toNat then s2.due .snapshotTrigger else s2
  s3.dueWaits.watchParks

/-! ## Requests and inputs (R56, R192) -/

/-- The service tiles whose window is open and whose next request can start (R192, R193). -/
def State.readyServices (s : State) : List Nat :=
  (List.range 4).filter fun k =>
    let v := s.service k
    v.booted && v.busy.isNone && !v.stalled && !v.queue.isEmpty

/-- The service tile whose request is taken next: the only one, or a free choice among several (log 13). -/
def State.nextService (s : State) : Option Nat :=
  match s.readyServices with
  | [] => none
  | [k] => some k
  | ks => ks[Config.choose s.free ks.length % ks.length]?

/-- A service tile takes its next request. -/
def State.serveRequest (s : State) (k : Nat) : Host.Outcome State Fault Refusal :=
  match (s.service k).queue with
  | [] => .next s
  | (priv, r) :: rest =>
    let s1 := s.bump.modService k fun v => { v with queue := rest }
    match decodeRequest k priv r with
    | some i => exec i s1
    | none => .next (s1.refuseRequest k r)

/-- An open request window takes a record in order; past the 64 entries of the queue the list holds what waits in the
link's receive buffer (R192). -/
def State.enqueue (s : State) (k : Nat) (priv : Bool) (r : BitVec 512) : State :=
  if (s.service k).booted then s.modService k fun v => { v with queue := v.queue ++ [(priv, r)] } else s

/-- An 8-byte read of a window: the free entries of the queue of 64 at the first word of either half, else zero (R192). -/
def State.windowWord (s : State) (k off : Nat) : W64 :=
  if off % 0x800 = 0 then BitVec.ofNat 64 (64 - Nat.min 64 (s.service k).queue.length)
  else 0

/-- A physical fault takes place (R369, R373, R374). -/
def State.flawed (s : State) : Flaw → State
  | .array line p => { s with arrErr := Table.set 0 s.arrErr line (Table.get 0 s.arrErr line ^^^ p) }
  | .bus n ch beats => { s with busErr := Table.set [] s.busErr (n * 16 + ch) (Table.get [] s.busErr (n * 16 + ch) ++ [beats]) }
  | .lanes n ch l => { s with laneErr := Table.set 0 s.laneErr (n * 16 + ch) l }
  | .word key p => s.flipWord key p
  | .l1 T line => s.modTile T fun t => { t with l1 := t.l1.filter fun c => c.2 != line }
  | .part T h k => s.modThread T h fun t => { t with parity := if t.parity.contains k then t.parity else t.parity ++ [k] }

/-- The outside world's next input is taken. -/
def State.runInput (s : State) (i : Input) (rest : List Input) : Host.Outcome State Fault Refusal :=
  let s := { s.bump with inputs := rest }
  match i with
  | .request k priv r => .next (s.enqueue k priv r)
  | .host k a b => .next (s.hostWrite k a b)
  | .windowRead k off => .next { s with pcieOut := s.pcieOut ++ [(k, s.windowWord k off)] }
  | .flitsAcked p n => .next (s.flitsAcked p n)
  | .sensor n t => .next (s.sensed n t)
  | .manage q => .next (s.manage q)
  | .event e => e.run s
  | .flaw f => .next (s.flawed f)

end Sys2Proof.Machine
end

