-- ==== Sys2Proof/Machine/Step.lean ====
section
/-! DEFINITION. One step of the module: an event under way, a due event, an input of the outside world, a request of the
host, the next thread's instruction, or the end of the tile cycle; and where the next instruction is fetched. -/

namespace Sys2Proof.Machine

open Bits

/-- The next thread's instruction, or the end of the tile cycle (R54). -/
def State.issueOrTick (s : State) : Host.Outcome State Fault Refusal :=
  match s.nextTurn with
  | some (T, h) => s.issueThread T h
  | none => .next s.tick

/-- The next request of the host, or what the tiles do (R56). -/
def State.serveOrIssue (s : State) : Host.Outcome State Fault Refusal :=
  match s.nextService with
  | some k => s.serveRequest k
  | none => s.issueOrTick

/-- An input of the outside world that may be taken now, if the free choice takes it (log 13). -/
def State.takeInput (s : State) : Host.Outcome State Fault Refusal :=
  match s.inputs with
  | [] => s.serveOrIssue
  | i :: rest =>
    if Config.choose s.free 2 % 2 = 0 then s.bump.serveOrIssue
    else s.runInput i rest

/-- The first due event, if any (R53, R244, R346). -/
def State.takeTimer (s : State) : Host.Outcome State Fault Refusal :=
  match s.timers.findIdx? fun t => t.1.2 ≤ s.clock t.1.1 with
  | some k =>
    match s.timers[k]? with
    | some t => t.2.run { s with timers := s.timers.eraseIdx k }
    | none => s.takeInput
  | none => s.takeInput

/-- A full-empty request has arrived in a tile cycle that the tile's own threads have still to take: their accesses come
first; of several arrivals one is served a step (R254; log 151). -/
def State.early (s : State) (e : Event) : Bool :=
  match e with
  | .atomicRequest m =>
    match m.pay, m.dst with
    | .access a, .router x y =>
      (a.kind matches .fe _ _) &&
        (match s.logical x y with | some T => decide (s.cursor ≤ T) && (s.turn T).isSome | none => false)
    | _, _ => false
  | _ => false

/-- One step. With events under way, a free choice takes one of them or lets the rest of the module go on (log 13). -/
def step (s : State) : Host.Outcome State Fault Refusal :=
  match s.flight with
  | [] => s.takeTimer
  | _ :: _ =>
    let n := s.flight.length + 1
    match s.flight[Config.choose s.free n % n]? with
    | some e =>
      if s.early e then s.bump.takeTimer
      else e.run { s.bump with flight := s.flight.eraseIdx (Config.choose s.free n % n) }
    | none => s.bump.takeTimer

/-- Stands for the boot, the COPY_IN of a program and the LAUNCH of a job (log 1): domain 0 is present on tile 0 with
thread 0 ready at the start of its code, the domain holds every position of the slot table, and row 0 is powered. -/
def State.withProgram (s : State) : State :=
  let d : Dom :=
    { s.dom 0 0 with vq := [], resid := [], present := true, pid := 1, weight := 1, lsBase := 0, lsSize := 0x10000, thrFirst := 0, thrCount := 1,
                     codeSize := 0x400, fheight := 1, fwidth := 1, lastIss := 0 }
  let s1 := (s.setDom 0 0 d).modThread 0 0 fun t =>
    { t with pc := 0, run := .ready, readyAt := 0, pend := none, overrun := false, yielded := false, saving := false }
  let s2 := s1.modTile 0 fun t => { t with fenced := false, table := (List.range 16).map fun i => (i, 4) }
  s2.modReg (controlReg 0x100) fun w => put w 63 1 1

/-- The state with an instruction where `step` takes its next one: a 64-bit word at thread 0 of tile 0, a request record
in service tile 0's queue. -/
def State.withFetchWord (s : State) (nbits w : Nat) : State :=
  let s1 : State :=
    { s with flight := [], timers := [], inputs := [], cursor := 0,
             services := s.services.map fun e => (e.1, { e.2 with queue := [], busy := none, stalled := false }) }
  if nbits ≤ 64 then
    let s2 := s1.withProgram
    s2.lsStore 0 (s2.dom 0 0).codeBase (toBytes 8 w)
  else s1.modService 0 fun v => { v with booted := true, queue := [(false, BitVec.ofNat 512 w)] }

end Sys2Proof.Machine
end

