-- ==== Sys2Proof/Safety.lean ====
section
/-! DEFINITION. What counts as a safe run (reachability by steps, a run on which every step answers a next state), and
the terms that claims use: the checks before an instruction's own work, frames, and states that agree. -/

namespace Sys2Proof.Machine

open Bits

/-- `t` comes from `s` by steps that each answer a next state. -/
inductive Reaches : State → State → Prop where
  | refl (s : State) : Reaches s s
  | step {s t u : State} (h : step s = .next t) (r : Reaches t u) : Reaches s u

/-- No state that a run from `s` reaches stops: the module neither faults nor refuses. -/
def Safe (s : State) : Prop := ∀ t, Reaches s t → ∃ u, step t = .next u

/-! ## The checks before an instruction's own work -/

/-- The checks that R354 puts before an instruction's own causes pass, the guard holds (R209), and no register part has
failed its parity (R369): every scalar field names a register of the thread, the blocks lie in the grid, and the
thread has the privilege. -/
def State.clear (s : State) (g : Guard) (regs : List XReg) (grid : Bool) (priv : Nat) : Bool :=
  s.regsOk regs && grid && decide (priv ≤ s.me.priv.toNat) && s.guardHolds g && s.me.parity.isEmpty

/-- `clear`, and the next pc lies in the code image (R354). -/
def State.runs (s : State) (g : Guard) (regs : List XReg) (grid : Bool) (priv : Nat) : Bool :=
  s.clear g regs grid priv && s.nextOk

/-- The issuing thread's instruction has written x[d] and retired at the next pc (R54, R195, R198). -/
def State.wrote (s : State) (d : XReg) (v : W64) : State := (s.wx d v).advance

/-! ## Frames -/

/-- The registers of two threads agree (R197). -/
def Thread.sameRegs (t u : Thread) : Prop := t.x = u.x ∧ t.p = u.p ∧ t.m = u.m ∧ t.v = u.v

/-- The scalar registers but one, the predicates, the masks and the vector registers of two threads agree. -/
def Thread.sameBut (d : Nat) (t u : Thread) : Prop :=
  (∀ r, r ≠ d → t.rx r = u.rx r) ∧ t.p = u.p ∧ t.m = u.m ∧ t.v = u.v

/-- The status registers that a thread holds agree (R317): privilege, the trap registers and the shadow registers. -/
def Thread.sameSystem (t u : Thread) : Prop :=
  t.priv = u.priv ∧ t.pprv = u.pprv ∧ t.cause = u.cause ∧ t.trapPc = u.trapPc ∧ t.trapVal = u.trapVal ∧
    t.fmtA = u.fmtA ∧ t.fmtB = u.fmtB ∧ t.scaleA = u.scaleA ∧ t.scaleB = u.scaleB ∧ t.idx = u.idx

/-- Every byte of memory reads the same, and so does every full-empty bit, slot byte and accumulator word. -/
def State.sameMemory (s t : State) : Prop :=
  (∀ a, t.byte a = s.byte a) ∧ t.fe = s.fe ∧ t.slotMem = s.slotMem ∧ t.acc = s.acc

/-- Every thread but the one of this tile and number is the same. -/
def State.otherThreads (s t : State) (T h : Nat) : Prop :=
  ∀ T' h', (T', h') ≠ (T, h) → t.thread T' h' = s.thread T' h'

/-- Every domain, weight slot, barrier and stream port of every tile is the same. -/
def State.sameTiles (s t : State) : Prop :=
  (∀ T d, t.dom T d = s.dom T d) ∧ (∀ T n, t.slot T n = s.slot T n) ∧ (∀ T b, t.bar T b = s.bar T b) ∧
    ∀ T p, t.port T p = s.port T p

/-- The device registers, and the blocks outside the tiles, are the same. -/
def State.sameBlocks (s t : State) : Prop :=
  t.regs = s.regs ∧ t.stations = s.stations ∧ t.portSts = s.portSts ∧ t.routers = s.routers ∧
    t.services = s.services ∧ t.groups = s.groups ∧ t.remap = s.remap ∧ t.buckets = s.buckets

/-- The jobs are the same: launches, regions, bands and removals. -/
def State.sameJobs (s t : State) : Prop :=
  t.launches = s.launches ∧ t.regions = s.regions ∧ t.bands = s.bands ∧ t.removals = s.removals

/-! ## Vector registers by lanes -/

/-- The vector register of a block at a row and column offset (R198, R206). -/
def State.blockReg (s : State) (row col : BitVec 4) (p : Nat × Nat) : BitVec 2048 :=
  s.me.rv (s.vnum (row.toNat + p.1) (col.toNat + p.2))

/-- Lane k of a destination register, of an A register and of a B operand (R273, R275). -/
def State.dLane (s : State) (d : VBlock) (p : Nat × Nat) (k : Nat) : W32 :=
  (s.blockReg d.row d.col p).extractLsb' (32 * k) 32
def State.aLane (s : State) (a : VOrg) (p : Nat × Nat) (k : Nat) : W32 :=
  (s.blockReg a.row a.col p).extractLsb' (32 * k) 32
def State.bLane (s : State) (b : VB) (p : Nat × Nat) (k : Nat) : W32 :=
  match b with
  | .blk o => s.aLane o p k
  | .bcast x => (s.rx x).setWidth 32

/-- Lane k under a mask: the new value where the mask's bit is 1 (R274). -/
def State.masked (s : State) (mk : MReg) (k : Nat) (new old : W32) : W32 :=
  if (s.me.rm mk.toNat).getLsbD k = true then new else old

/-- Nothing but the issuing thread, and the vector unit's queue of its domain, has changed. -/
def State.onlyMeVec (s t : State) : Prop :=
  s.sameMemory t ∧ s.otherThreads t s.cur.1 s.cur.2 ∧ s.sameBlocks t ∧ s.sameJobs t ∧
    (∀ T n, t.slot T n = s.slot T n) ∧ (∀ T b, t.bar T b = s.bar T b) ∧ (∀ T p, t.port T p = s.port T p) ∧
    t.flight = s.flight ∧ t.timers = s.timers ∧ t.time = s.time

/-- `t` is `s` with the block's lanes as `f` gives them, the instruction retired at the next pc, and every other register,
status register, thread and byte as it was (R274, R195). -/
def State.blockWritten (s t : State) (d : VBlock) (f : Nat × Nat → Nat → W32) : Prop :=
  (∀ p : Nat × Nat, p.1 < blkH d → p.2 < blkW d → ∀ k < 64, t.dLane d p k = f p k) ∧
    (∀ n, (∀ p : Nat × Nat, p.1 < blkH d → p.2 < blkW d → s.vnum (d.row.toNat + p.1) (d.col.toNat + p.2) ≠ n) →
      t.me.rv n = s.me.rv n) ∧
    t.me.x = s.me.x ∧ t.me.p = s.me.p ∧ t.me.m = s.me.m ∧ t.me.pc = s.me.pc + 8 ∧ s.me.sameSystem t.me ∧
    s.onlyMeVec t

/-- Nothing but the issuing thread has changed. -/
def State.onlyMe (s t : State) : Prop :=
  s.sameMemory t ∧ s.otherThreads t s.cur.1 s.cur.2 ∧ s.sameTiles t ∧ s.sameBlocks t ∧ s.sameJobs t ∧
    t.flight = s.flight ∧ t.timers = s.timers ∧ t.time = s.time

end Sys2Proof.Machine
end

