-- ==== Sys2Proof/WellFormed.lean ====
section
/-! DEFINITION. Well-formed instructions: the terms that an instruction word or a request record spells (R201 to R212,
and the rows of the encoding tables). A term that is not well formed has no encoding of its own. -/

namespace Sys2Proof

open Bits

/-- Sizes of the integer atomics (R257). -/
def wide (z : Size) : Bool := z == .b4 || z == .b8

/-- An integer vector type keeps RM zero (R275). -/
def rmOk (t : VTy) (r : Rm) : Bool := isFlt t || r == .rne

/-- A floating vector type keeps SAT zero where only integers accept it (R275). -/
def satOk (t : VTy) (s : Bool) : Bool := !(isFlt t && s)

/-- Types of the reductions (R285). -/
def redTy (t : VTy) : Bool := decide (vTyCode t < 5)

/-- Types that a lane can hold (R279). -/
def laneTy (t : CTy) : Bool := t != .int .i64 && t != .int .w64

/-- Segment and survivor fields of `vcompress` (R287). -/
def compressOk (lg : BitVec 3) (n : BitVec 4) : Bool :=
  decide (1 ≤ lg.toNat) && decide (lg.toNat ≤ 6) && decide (n.toNat < 2 ^ lg.toNat)

/-- Saturation needs a target type (R301). -/
def drainOk (t : DrainTy) (s : Bool) : Bool := !(t == .none && s)

/-- The instruction has an instruction word: it is one of the 198 thread instructions. -/
def Instr.hasWord (i : Instr) : Bool := decide (i.ctorIdx < 198)

/-- Well-formedness. The module's other steps have no encoding and every term of theirs is well formed. -/
def Instr.wf : Instr → Bool
  | .cmp _ t _ _ _ _ => decide (intTyCode t < 4)
  | .fcvt _ dt src _ _ _ _ => cvtPairOk dt src
  | .ld _ _ _ o _ _ => orderOk o && loadOrd o.ord
  | .st _ _ o _ _ => orderOk o && storeOrd o.ord
  | .ldfe _ fm o _ _ => orderOk o && fm != .wef
  | .stfe _ fm o _ _ => orderOk o && fm != .wff && fm != .wfe
  | .fetest _ o _ _ => orderOk o
  | .feset _ _ o _ => orderOk o
  | .fence _ o => orderOk o && o.ord != .plain
  | .amoadd _ _ sz _ o _ _ => wide sz && orderOk o
  | .amomin _ _ sz _ o _ _ => wide sz && orderOk o
  | .amomax _ _ sz _ o _ _ => wide sz && orderOk o
  | .amominw _ _ sz _ o _ _ => wide sz && orderOk o
  | .amomaxw _ _ sz _ o _ _ => wide sz && orderOk o
  | .amoand _ _ sz _ o _ _ => wide sz && orderOk o
  | .amoor _ _ sz _ o _ _ => wide sz && orderOk o
  | .amoxor _ _ sz _ o _ _ => wide sz && orderOk o
  | .amoswap _ _ sz _ o _ _ => wide sz && orderOk o
  | .amofadd _ _ o _ _ => orderOk o
  | .amocas _ _ sz o _ _ => wide sz && orderOk o
  | .vld _ _ o _ _ => orderOk o && loadOrd o.ord
  | .vst _ _ o _ _ => orderOk o && storeOrd o.ord
  | .vldg _ _ sz _ o _ _ _ _ => sz != .b8 && orderOk o && loadOrd o.ord
  | .vsts _ sz _ o _ _ _ _ => sz != .b8 && orderOk o && storeOrd o.ord
  | .vldb _ _ sz _ o _ _ => sz != .b8 && orderOk o && loadOrd o.ord
  | .vldt _ _ sz _ o _ _ => sz != .b8 && orderOk o && loadOrd o.ord
  | .vstt _ sz _ o _ _ => sz != .b8 && orderOk o && storeOrd o.ord
  | .vadd _ t rm _ _ _ _ _ => rmOk t rm
  | .vsub _ t rm _ _ _ _ _ => rmOk t rm
  | .vmul _ t rm _ _ _ _ _ => rmOk t rm
  | .vabs _ t sat _ _ _ => satOk t sat
  | .vneg _ t sat _ _ _ => satOk t sat
  | .vshl _ t _ _ _ _ => !isFlt t
  | .vshr _ t _ _ _ _ => !isFlt t
  | .vsra _ t _ _ _ _ => !isFlt t
  | .vcmp _ t c _ _ _ _ => vcmpCondOk t c
  | .vcvt _ dt src _ _ _ _ _ => laneTy dt && laneTy src && vcvtPairOk dt src
  | .vredsum _ t rm sat _ _ _ => redTy t && rmOk t rm && satOk t sat
  | .vredmax _ t _ _ _ => redTy t
  | .vredmin _ t _ _ _ => redTy t
  | .vscan _ t rm sat _ _ _ => redTy t && rmOk t rm && satOk t sat
  | .vshuf _ _ _ _ pat _ => decide (pat.toNat < 5)
  | .vcompressMag _ _ _ lg nM1 => compressOk lg nM1
  | .vcompressTop _ _ _ _ lg nM1 => compressOk lg nM1
  | .mdrain _ t sat _ _ _ _ => drainOk t sat
  | .mdrainv _ t sat _ _ _ cM1 => drainOk t sat && decide (cM1.toNat < 64)
  | .msort _ _ lg _ _ _ => decide (lg.toNat ≤ 12)
  | .mtopk _ _ lg kM1 _ _ _ => decide (lg.toNat ≤ 12) && decide (kM1.toNat < 2 ^ lg.toNat)
  | .take _ d _ _ => takeRegOk d
  | .peek _ d _ _ => takeRegOk d
  | .await _ d _ _ => takeRegOk d
  | .csrr _ _ n => csrKnown n.toNat
  | .csrw _ _ _ n => csrWritable n.toNat
  | .csrs _ _ _ n => csrWritable n.toNat
  | .csrc _ _ _ n => csrWritable n.toNat
  | .repart _ _ _ mode => mode != 3
  | .launch sv _ r => decide (sv < 4) && fld r 0 8 == 1
  | .drain sv _ r => decide (sv < 4) && fld r 0 8 == 2
  | .freeze sv _ r => decide (sv < 4) && fld r 0 8 == 3
  | .restore sv _ r => decide (sv < 4) && fld r 0 8 == 4
  | .attest sv _ r => decide (sv < 4) && fld r 0 8 == 5
  | .handler sv _ r => decide (sv < 4) && fld r 0 8 == 6
  | .copyIn sv _ r => decide (sv < 4) && fld r 0 8 == 7
  | .copyOut sv _ r => decide (sv < 4) && fld r 0 8 == 8
  | .ill _ | .nop _ | .br _ _ | .call _ _ _ | .jr _ _ _ | .loop _ _ _ | .waitc _ _ _ _ | .yield _ | .exit _
  | .brk _ _ | .trap _ _ | .add _ _ _ _ _ _ | .sub _ _ _ _ _ _ | .mul _ _ _ _ _ _ | .mulh _ _ _ _ _
  | .mulhw _ _ _ _ _ | .div _ _ _ _ _ | .divw _ _ _ _ _ | .rem _ _ _ _ _ | .remw _ _ _ _ _ | .and _ _ _ _ _
  | .or _ _ _ _ _ | .xor _ _ _ _ _ | .andn _ _ _ _ _ | .orn _ _ _ _ _ | .shl _ _ _ _ _ | .shr _ _ _ _ _
  | .sra _ _ _ _ _ | .rol _ _ _ _ _ | .min _ _ _ _ _ | .max _ _ _ _ _ | .minw _ _ _ _ _ | .maxw _ _ _ _ _
  | .clz _ _ _ _ | .ctz _ _ _ _ | .popc _ _ _ _ | .brev _ _ _ _ | .bswap _ _ _ _ | .bfx _ _ _ _ _ _
  | .bfxw _ _ _ _ _ _ | .bfi _ _ _ _ _ _ | .sel _ _ _ _ _ _ | .abs _ _ _ _ _ | .neg _ _ _ _ _ | .addi _ _ _ _
  | .andi _ _ _ _ | .ori _ _ _ _ | .xori _ _ _ _ | .shli _ _ _ _ | .shri _ _ _ _ | .srai _ _ _ _ | .muli _ _ _ _
  | .movi _ _ _ | .movhi _ _ _ | .cmpi _ _ _ _ _ | .fcmp _ _ _ _ _ _ | .pand _ _ _ _ | .por _ _ _ _ | .pxor _ _ _ _
  | .pandn _ _ _ _ | .pget _ _ | .pput _ _ _ | .lea _ _ _ | .spctest _ _ _ _ | .spcast _ _ _ _ _ | .mkshr _ _ _ _
  | .fadd _ _ _ _ _ _ _ | .fsub _ _ _ _ _ _ _ | .fmul _ _ _ _ _ _ _ | .ffma _ _ _ _ _ _ _ _ | .ffms _ _ _ _ _ _ _ _
  | .fdiv _ _ _ _ _ _ _ | .fsqrt _ _ _ _ _ _ | .fmin _ _ _ _ _ | .fmax _ _ _ _ _ | .fabs _ _ _ _ | .fneg _ _ _ _
  | .fsgn _ _ _ _ _ | .fclass _ _ _ _ | .frnd _ _ _ _ _ | .stWc _ _ _ _ | .pf _ _ _ | .vfma _ _ _ _ _ _ _ _
  | .vfms _ _ _ _ _ _ _ _ | .vmin _ _ _ _ _ _ | .vmax _ _ _ _ _ _ | .vand _ _ _ _ _ | .vor _ _ _ _ _
  | .vxor _ _ _ _ _ | .vandn _ _ _ _ _ | .vsel _ _ _ _ _ | .vmov _ _ _ _ | .vbcast _ _ _ _ | .vbcastLane _ _ _ _ _
  | .vquant _ _ _ _ _ | .vdeq _ _ _ _ _ _ _ | .vexp2 _ _ _ _ _ | .vlog2 _ _ _ _ _ | .vrcp _ _ _ _ _
  | .vrsqrt _ _ _ _ _ | .vtanh _ _ _ _ _ | .vsig _ _ _ _ _ | .vperm _ _ _ _ _ | .vrot _ _ _ _ _ | .vcompress _ _ _ _
  | .vargmax _ _ _ _ _ | .vrescale _ _ _ _ | .mand _ _ _ _ | .mor _ _ _ _ | .mxor _ _ _ _ | .mnot _ _ _ | .mpop _ _ _
  | .mstep _ _ _ _ _ | .mstepSort _ _ _ _ _ | .mstepTopk _ _ _ _ _ | .mzero _ _ _ | .mload _ _ _ _ | .mcfg _ _
  | .mcfgOff _ | .mwait _ _ | .wrel _ _ | .wstat _ _ _ | .wstatWait _ _ _ | .xfer _ _ _ | .sbind _ _ _ _ | .swait _ _
  | .post _ _ _ _ _ | .barinit _ _ | .barexp _ _ _ _ | .bararr _ _ _ | .barwait _ _ | .bartest _ _ _ | .redput _ _ _
  | .coll _ _ _ | .mark _ _ _ | .sdone _ | .eret _ | .ctxsave _ _ _ | .ctxload _ _ _ | .slotw _ _ _ _ | .jkill _ _ _
  | .snap _ _ _ _ | .launchEnd _ | .tileReady _ _ | .stepStart _ | .stageEntry _ _ | .stageDone _ _
  | .parkedSaddleDelivery _ | .initialSaddleDelivery _ _ | .waveCommit _ _ | .bandFinish _ | .drainComplete _
  | .freezeImageWrite _ | .freezeAbandon _ | .stepOverrun _ _ | .overrunOrder _ _ _ | .stageDoneReport _ _ _ _ _
  | .readyReduction _ _ _ | .markerReduction _ _ _ _ | .slotRelease _ _ | .kind1Prefetch _ | .kind2Emit _
  | .kind3Writeback _ | .kind4Fetch _ | .kind5Assert _ | .residencyComplete _ _ _ | .lightFrame _ _
  | .frameRepairRequest _ | .lostFill _ _ | .readRequest _ | .writeRequest _ | .atomicRequest _ | .engineCommand _
  | .mailboxPost _ | .configurationWrite _ | .readReply _ | .writeAcknowledgement _ | .atomicReply _
  | .orderedStreamAck _ | .engineCompletion _ | .bulkData _ | .saddleMessage _ | .reductionContribution _ _ _
  | .reductionAbort _ _ _ _ | .reductionContextTimeout _ _ _ | .collectiveLaunchRecord _ _ | .collectiveChunkData _ _
  | .collectiveChunkAck _ _ | .chunkOperationRun _ _ _ | .escalation _ | .guardReport _ | .wakeHint _ _
  | .xlatInvalMessage _ _ | .reservedTypeMessage _ _ | .meshRoute _ _ | .flitRetry _ _ _ _ | .tailKill _ _
  | .blockTransferStart _ _ | .transferComplete _ _ | .streamPatternStart _ _ | .patternComplete _ _
  | .matrixCommandComplete _ _ | .slotTableRotation | .waitcExpiry _ _ | .handlerEntry _ _ | .feLimitExpiry _ _ _
  | .parkWatchdog _ _ _ | .mailboxRetry _ _ | .waitWithdrawalAck _ _ | .killWrite _ _ | .killSweepEnd _ _
  | .removalConfirmed _ | .xlatInvalWrite _ _ | .xlatInvalDone | .collLoad _ _ _ _ | .collStop _ _
  | .redHoldHold _ _ _ _ | .redHoldRelease _ _ _ _ | .redHoldAbandon _ _ _ _ | .engResolveRetry _ _
  | .engResolveAbandon _ _ | .remapEntryWrite _ _ _ | .rowPwrWrite _ _ | .rowPowerSettled _ | .portLaserWrite _ _
  | .portLanesDrain _ _ | .registerWrite _ _ | .rcRegisterRead _ | .rebalanceEpoch | .bucketFlushed
  | .bucketActiveAtNew | .laneSwapEnd _ _ _ | .heartbeatSend _ _ | .heartbeat _ _ _ | .silenceAccusation _ _ _
  | .babbleWindowEnd _ _ _ | .accusation _ _ _ _ _ _ | .accusationWithdrawal _ _ _ _ _ | .accusationExpiry _ _ _ _ _
  | .quorumHoldEnd _ _ _ _ | .selfFence _ _ | .fenceNotice _ _ _ _ | .substitution _ _ | .replayStep _ _
  | .farrierTest _ _ _ | .appeal _ _ _ | .probationEnd _ _ _ | .readmissionNotice _ _ _ | .timeSyncSend _
  | .timeSyncSymbol _ _ | .quiesce _ | .resume _ | .restripe _ _ | .fecReplay _ | .lockLoss _ _ | .relightTimeout _
  | .laserLoadWindow _ | .portLocked _ | .moduleReset | .thermalSample _ | .thermalTrip | .snapshotTrigger
  | .measurementExtend _ _ _ | .firmwareUpdate _ _ _ | .managementReset | .herdMembershipChange _
  | .pcieReadCompletion _ | .ageHorizonCrossed _ _ _ => true

end Sys2Proof
end

