-- ==== Sys2Proof/Certificates/Slice0/Obligations.lean ====
section
/-! DEFINITION. The statements about the module, each formalising rules of spec/, with the terms that they share. -/

namespace Sys2Proof.Machine

open Bits

/-! ## Terms: integer operands and results as bit vectors (R224, R225) -/

/-- A data operand: the low n bits of the register (R224). -/
def operandOf (t : IntTy) (x : W64) : BitVec (intWidth t) := x.setWidth (intWidth t)

/-- A result written to x[d]: extended to 64 bits by the signedness of the type (R224). -/
def widen (t : IntTy) (r : BitVec (intWidth t)) : W64 := if intSigned t then r.signExtend 64 else r.setWidth 64

/-- An operand read by the signedness of the type (R225). -/
def numberOf (t : IntTy) (x : W64) : Int :=
  if intSigned t then (operandOf t x).toInt else (operandOf t x).toNat

/-- The least and the greatest value of a type (R225). -/
def leastOf (t : IntTy) : Int := if intSigned t then -(2 ^ (intWidth t - 1)) else 0
def greatestOf (t : IntTy) : Int := if intSigned t then 2 ^ (intWidth t - 1) - 1 else 2 ^ intWidth t - 1

/-- An exact result clamped to the range of the type (R225). -/
def clampTo (t : IntTy) (v : Int) : BitVec (intWidth t) :=
  BitVec.ofInt (intWidth t) (if v < leastOf t then leastOf t else if greatestOf t < v then greatestOf t else v)

/-- The bits of a field that lie in the operand (R229). -/
def fieldBits (n : Nat) (pos len : W64) : Nat :=
  if n ≤ pos.toNat then 0 else min (min len.toNat n) (n - pos.toNat)

end Sys2Proof.Machine

open Sys2Proof Sys2Proof.Machine Sys2Proof.Bits

/-! ## The integer register ALU -/

/-- R225, R226, R228: `add`, `sub`, `mul`, `abs` and `neg` write the exact result modulo 2^n, and with `.sat` the
exact result clamped to the range of the type; the instruction retires at the next pc. -/
def Claims.IntegerArithmetic : Prop :=
  ∀ (s : State) (g : Guard) (t : IntTy) (d a b : XReg),
    (s.runs g [d, a, b] true 0 = true →
      exec (.add g t false d a b) s = .next (s.wrote d (widen t (operandOf t (s.rx a) + operandOf t (s.rx b)))) ∧
      exec (.sub g t false d a b) s = .next (s.wrote d (widen t (operandOf t (s.rx a) - operandOf t (s.rx b)))) ∧
      exec (.mul g t false d a b) s = .next (s.wrote d (widen t (operandOf t (s.rx a) * operandOf t (s.rx b)))) ∧
      exec (.add g t true d a b) s = .next (s.wrote d (widen t (clampTo t (numberOf t (s.rx a) + numberOf t (s.rx b))))) ∧
      exec (.sub g t true d a b) s = .next (s.wrote d (widen t (clampTo t (numberOf t (s.rx a) - numberOf t (s.rx b))))) ∧
      exec (.mul g t true d a b) s =
        .next (s.wrote d (widen t (clampTo t (numberOf t (s.rx a) * numberOf t (s.rx b)))))) ∧
    (s.runs g [d, a] true 0 = true →
      exec (.neg g t false d a) s = .next (s.wrote d (widen t (0 - operandOf t (s.rx a)))) ∧
      exec (.neg g t true d a) s = .next (s.wrote d (widen t (clampTo t (0 - numberOf t (s.rx a))))) ∧
      exec (.abs g t false d a) s =
        .next (s.wrote d (widen t (BitVec.ofNat (intWidth t) (numberOf t (s.rx a)).natAbs))) ∧
      exec (.abs g t true d a) s = .next (s.wrote d (widen t (clampTo t (numberOf t (s.rx a)).natAbs))))

/-- R226, R227: the high halves of the exact products, and division with its results for a zero divisor (all ones, and
the dividend) and for the overflowing quotient. -/
def Claims.MultiplyHighAndDivide : Prop :=
  ∀ (s : State) (g : Guard) (t : IntTy) (d a b : XReg), s.runs g [d, a, b] true 0 = true →
    let n := intWidth t
    let x := operandOf t (s.rx a)
    let y := operandOf t (s.rx b)
    exec (.mulh g t d a b) s = .next (s.wrote d (widen t (BitVec.ofInt n (x.toInt * y.toInt / 2 ^ n)))) ∧
    exec (.mulhw g t d a b) s = .next (s.wrote d (widen t (BitVec.ofNat n (x.toNat * y.toNat / 2 ^ n)))) ∧
    exec (.div g t d a b) s = .next (s.wrote d (widen t (if y = 0 then BitVec.allOnes n else x.sdiv y))) ∧
    exec (.divw g t d a b) s = .next (s.wrote d (widen t (if y = 0 then BitVec.allOnes n else x / y))) ∧
    exec (.rem g t d a b) s = .next (s.wrote d (widen t (x.srem y))) ∧
    exec (.remw g t d a b) s = .next (s.wrote d (widen t (x % y)))

/-- R226: logic, shifts by the count modulo n, rotation, and the minima and maxima of both signednesses. -/
def Claims.LogicShiftMinMax : Prop :=
  ∀ (s : State) (g : Guard) (t : IntTy) (d a b : XReg), s.runs g [d, a, b] true 0 = true →
    let x := operandOf t (s.rx a)
    let y := operandOf t (s.rx b)
    let k := (s.rx b).toNat % intWidth t
    exec (.and g t d a b) s = .next (s.wrote d (widen t (x &&& y))) ∧
    exec (.or g t d a b) s = .next (s.wrote d (widen t (x ||| y))) ∧
    exec (.xor g t d a b) s = .next (s.wrote d (widen t (x ^^^ y))) ∧
    exec (.andn g t d a b) s = .next (s.wrote d (widen t (x &&& ~~~y))) ∧
    exec (.orn g t d a b) s = .next (s.wrote d (widen t (x ||| ~~~y))) ∧
    exec (.shl g t d a b) s = .next (s.wrote d (widen t (x <<< k))) ∧
    exec (.shr g t d a b) s = .next (s.wrote d (widen t (x >>> k))) ∧
    exec (.sra g t d a b) s = .next (s.wrote d (widen t (x.sshiftRight k))) ∧
    exec (.rol g t d a b) s = .next (s.wrote d (widen t (x.rotateLeft k))) ∧
    exec (.min g t d a b) s = .next (s.wrote d (widen t (if x.sle y then x else y))) ∧
    exec (.max g t d a b) s = .next (s.wrote d (widen t (if y.sle x then x else y))) ∧
    exec (.minw g t d a b) s = .next (s.wrote d (widen t (if x ≤ y then x else y))) ∧
    exec (.maxw g t d a b) s = .next (s.wrote d (widen t (if y ≤ x then x else y)))

/-- R224 to R228: the integer register ALU: exact results modulo 2^n or clamped, high halves, division with its
corners, logic, shifts and extremes. -/
def Obligations.IntegerResults : Prop :=
  Claims.IntegerArithmetic ∧ Claims.MultiplyHighAndDivide ∧ Claims.LogicShiftMinMax


/-- R228 to R230: the bit instructions by the bits of their results, the bit-field instructions with a field cut at
bit n - 1, and `sel`. -/
def Claims.BitInstructions : Prop :=
  ∀ (s : State) (g : Guard) (t : IntTy) (d a b c : XReg) (p : PReg), s.runs g [d, a, b, c] true 0 = true →
    let n := intWidth t
    let x := operandOf t (s.rx a)
    let pos := (s.rx b).toNat
    let ln := fieldBits n (s.rx b) (s.rx c)
    (∃ k ≤ n, exec (.clz g t d a) s = .next (s.wrote d (widen t (BitVec.ofNat n k))) ∧
      (k < n → x.getLsbD (n - 1 - k) = true) ∧ ∀ i < k, x.getLsbD (n - 1 - i) = false) ∧
    (∃ k ≤ n, exec (.ctz g t d a) s = .next (s.wrote d (widen t (BitVec.ofNat n k))) ∧
      (k < n → x.getLsbD k = true) ∧ ∀ i < k, x.getLsbD i = false) ∧
    exec (.popc g t d a) s =
      .next (s.wrote d (widen t (BitVec.ofNat n (((List.range n).filter fun i => x.getLsbD i).length)))) ∧
    (∃ r : BitVec n, exec (.brev g t d a) s = .next (s.wrote d (widen t r)) ∧
      ∀ i < n, r.getLsbD i = x.getLsbD (n - 1 - i)) ∧
    (∃ r : BitVec n, exec (.bswap g t d a) s = .next (s.wrote d (widen t r)) ∧
      ∀ j < n / 8, r.extractLsb' (8 * j) 8 = x.extractLsb' (8 * (n / 8 - 1 - j)) 8) ∧
    (∃ r : BitVec n, exec (.bfx g t d a b c) s = .next (s.wrote d (widen t r)) ∧
      ∀ i < n, r.getLsbD i = if ln = 0 then false else x.getLsbD (pos + min i (ln - 1))) ∧
    (∃ r : BitVec n, exec (.bfxw g t d a b c) s = .next (s.wrote d (widen t r)) ∧
      ∀ i < n, r.getLsbD i = (decide (i < ln) && x.getLsbD (pos + i))) ∧
    (∃ r : BitVec n, exec (.bfi g t d a b c) s = .next (s.wrote d (widen t r)) ∧
      ∀ i < n, r.getLsbD i =
        if pos ≤ i ∧ i < pos + ln then x.getLsbD (i - pos) else (operandOf t (s.rx d)).getLsbD i) ∧
    exec (.sel g t d p a b) s = .next (s.wrote d (widen t (operandOf t (if s.rp p then s.rx a else s.rx b))))

/-! ## Immediates, compares, predicates, generic addresses, scalar floating point -/

/-- R231, R232: the immediate forms act on 64 bits; `movhi` keeps the low 19 bits of x[d]. -/
def Claims.ImmediateForms : Prop :=
  ∀ (s : State) (g : Guard) (d a : XReg) (imm : BitVec 32) (sh : BitVec 6) (imm45 : BitVec 45),
    (s.runs g [d, a] true 0 = true →
      exec (.addi g d a imm) s = .next (s.wrote d (s.rx a + imm.signExtend 64)) ∧
      exec (.andi g d a imm) s = .next (s.wrote d (s.rx a &&& imm.signExtend 64)) ∧
      exec (.ori g d a imm) s = .next (s.wrote d (s.rx a ||| imm.setWidth 64)) ∧
      exec (.xori g d a imm) s = .next (s.wrote d (s.rx a ^^^ imm.setWidth 64)) ∧
      exec (.shli g d a sh) s = .next (s.wrote d (s.rx a <<< sh.toNat)) ∧
      exec (.shri g d a sh) s = .next (s.wrote d (s.rx a >>> sh.toNat)) ∧
      exec (.srai g d a sh) s = .next (s.wrote d ((s.rx a).sshiftRight sh.toNat)) ∧
      exec (.muli g d a imm) s = .next (s.wrote d (s.rx a * imm.signExtend 64))) ∧
    (s.runs g [d] true 0 = true →
      exec (.movi g d imm45) s = .next (s.wrote d (imm45.signExtend 64)) ∧
      ∃ v : W64, exec (.movhi g d imm45) s = .next (s.wrote d v) ∧
        v.extractLsb' 19 45 = imm45 ∧ v.extractLsb' 0 19 = (s.rx d).extractLsb' 0 19)

/-- R228, R229, R231, R232: the bit instructions and the immediate forms. -/
def Obligations.BitAndImmediateForms : Prop :=
  Claims.BitInstructions ∧ Claims.ImmediateForms


namespace Sys2Proof.Machine

/-- A condition of `cmp` and `cmpi` on two operands of n bits (R233). -/
def condHolds {n : Nat} (c : Cond) (x y : BitVec n) : Bool :=
  match c with
  | .eq => x == y
  | .ne => x != y
  | .lt => x.slt y
  | .ge => !x.slt y
  | .ltw => x.ult y
  | .gew => !x.ult y
  | .tst => x &&& y != 0
  | .ntst => x &&& y == 0

/-- The issuing thread's instruction has written a predicate and retired at the next pc. -/
def State.decided (s : State) (p : PReg) (v : Bool) : State := (s.wp p v).advance

end Sys2Proof.Machine

/-- R233 to R236: compares write one predicate; `pand`, `por`, `pxor` and `pandn` combine two; `pget` reads all eight
with bit 0 as 1, and `pput` writes those of p1 to p7 that x[b] names. -/
def Obligations.ComparesAndPredicates : Prop :=
  ∀ (s : State) (g : Guard) (t : IntTy) (f : FTy) (p q r : PReg) (d a b : XReg) (imm : BitVec 32) (c : Cond)
    (fc : FCond), s.runs g [d, a, b] true 0 = true →
    exec (.cmp g t p a b c) s =
      .next (s.decided p (condHolds c (operandOf t (s.rx a)) (operandOf t (s.rx b)))) ∧
    exec (.cmpi g p a imm c) s = .next (s.decided p (condHolds c (s.rx a) (imm.signExtend 64))) ∧
    exec (.fcmp g f p a b fc) s =
      .next (s.decided p (floatCond fc ((Fmt.ofF f).compare (fOperand f (s.rx a)) (fOperand f (s.rx b))))) ∧
    exec (.pand g p q r) s = .next (s.decided p (s.rp q && s.rp r)) ∧
    exec (.por g p q r) s = .next (s.decided p (s.rp q || s.rp r)) ∧
    exec (.pxor g p q r) s = .next (s.decided p (s.rp q ^^ s.rp r)) ∧
    exec (.pandn g p q r) s = .next (s.decided p (s.rp q && !s.rp r)) ∧
    (∃ v : W64, exec (.pget g d) s = .next (s.wrote d v) ∧
      ∀ i < 64, v.getLsbD i = (decide (i < 8) && s.rp (BitVec.ofNat 3 i))) ∧
    (∃ v : BitVec 8, exec (.pput g a b) s = .next (s.modMe fun t => { t with p := v }).advance ∧
      ∀ i < 8, v.getLsbD i =
        if i ≠ 0 ∧ (s.rx b).getLsbD i = true then (s.rx a).getLsbD i else s.me.p.getLsbD i)

namespace Sys2Proof.Machine

open Bits

/-- The window code and the reachability that `spctest` gives (R238). -/
def windowTest (s : State) (a : W64) : W64 × Bool :=
  let d := s.myDom
  let off := (a.extractLsb' 0 24).toNat
  if a.extractLsb' 56 8 = 0 ∧ a.getLsbD 55 = false then (0, true)
  else if a.extractLsb' 56 8 = 0xE0 then (1, decide (off < d.privSize))
  else if a.extractLsb' 56 8 = 0xE1 then
    (2, decide ((a.extractLsb' 44 12).toNat = s.cur.1 ∧ d.lsBase ≤ off ∧ off < d.lsBase + d.lsSize))
  else if a.extractLsb' 56 8 = 0xE2 then
    let f := (a.extractLsb' 36 12).toNat
    (3, decide (f / 64 < d.fheight ∧ f % 64 < d.fwidth ∧ off < 0xC00000))
  else if a.extractLsb' 56 8 = 0xE3 then (4, decide ((a.extractLsb' 0 12).toNat < d.saddleSize))
  else if a.extractLsb' 56 8 = 0xFF then (5, decide (1 ≤ s.me.priv.toNat))
  else (7, false)

end Sys2Proof.Machine

/-- R207, R237 to R240: `lea` adds base, index and signed offset; `mkshr` builds a shared address from a tile and an
offset; `spctest` classifies an address by its window; `spcast` gives the converted address and true, or 0 and false.
-/
def Obligations.GenericAddresses : Prop :=
  ∀ (s : State) (g : Guard) (p : PReg) (d a b : XReg) (m : MAddr) (w : CastTo),
    (s.runs g [d, m.base, m.idx] true 0 = true →
      exec (.lea g d m) s = .next (s.wrote d (s.rx m.base + s.rx m.idx + m.off.signExtend 64))) ∧
    (s.runs g [d, a, b] true 0 = true →
      exec (.spctest g d p a) s =
        .next ((s.wx d (windowTest s (s.rx a)).1).decided p (windowTest s (s.rx a)).2) ∧
      (∀ l v, s.localOf (s.rx a) = some l → s.castTo w l = some v →
        exec (.spcast g d p a w) s = .next ((s.wx d v).decided p true)) ∧
      (s.localOf (s.rx a) = none ∨ (∃ l, s.localOf (s.rx a) = some l ∧ s.castTo w l = none) →
        exec (.spcast g d p a w) s = .next ((s.wx d 0).decided p false)) ∧
      ∃ v : W64, exec (.mkshr g d a b) s = .next (s.wrote d v) ∧ v.extractLsb' 56 8 = 0xE2 ∧
        v.extractLsb' 48 8 = 0 ∧ v.extractLsb' 36 12 = (s.rx a).extractLsb' 0 12 ∧ v.extractLsb' 24 12 = 0 ∧
        v.extractLsb' 0 24 = (s.rx b).extractLsb' 0 24)

namespace Sys2Proof.Machine

/-- A float result of x[d]: its code, zero-extended (R268). -/
def State.wroteF (s : State) (d : XReg) (code : Nat) : State := s.wrote d (BitVec.ofNat 64 code)

end Sys2Proof.Machine

/-- R268 to R272: the scalar float instructions round the exact result of the operands' values once (R118, R119), and
write the code zero-extended; the bits of an operand above its width are ignored. -/
def Claims.ScalarFloatResults : Prop :=
  ∀ (s : State) (g : Guard) (t : FTy) (rm : Rm) (sat : Bool) (d a b c : XReg),
    let F := Fmt.ofF t
    let x := F.decode (fOperand t (s.rx a))
    let y := F.decode (fOperand t (s.rx b))
    let z := F.decode (fOperand t (s.rx c))
    (s.runs g [d, a, b] true 0 = true →
      exec (.fadd g t rm sat d a b) s = .next (s.wroteF d (F.encode rm sat (x.add rm y))) ∧
      exec (.fsub g t rm sat d a b) s = .next (s.wroteF d (F.encode rm sat (x.add rm y.negate))) ∧
      exec (.fmul g t rm sat d a b) s = .next (s.wroteF d (F.encode rm sat (x.mul y))) ∧
      exec (.fdiv g t rm sat d a b) s = .next (s.wroteF d (divCode F rm sat x y)) ∧
      exec (.fmin g t d a b) s = .next (s.wroteF d (F.minmax false (fOperand t (s.rx a)) (fOperand t (s.rx b)))) ∧
      exec (.fmax g t d a b) s = .next (s.wroteF d (F.minmax true (fOperand t (s.rx a)) (fOperand t (s.rx b))))) ∧
    (s.runs g [d, a, b, c] true 0 = true →
      exec (.ffma g t rm sat d a b c) s = .next (s.wroteF d (F.encode rm sat (x.fma rm y z))) ∧
      exec (.ffms g t rm sat d a b c) s = .next (s.wroteF d (F.encode rm sat (x.fma rm y z.negate)))) ∧
    (s.runs g [d, a] true 0 = true →
      exec (.fsqrt g t rm sat d a) s = .next (s.wroteF d (sqrtCode F rm sat x)) ∧
      exec (.fclass g t d a) s = .next (s.wroteF d (2 ^ F.classBit (fOperand t (s.rx a)))) ∧
      exec (.frnd g t rm d a) s = .next (s.wroteF d (F.rnd rm (fOperand t (s.rx a)))) ∧
      (∀ dt st v, convert dt st rm sat (s.rx a).toNat = v →
        exec (.fcvt g dt st rm sat d a) s =
          .next (match dt with | .int k => s.wrote d (widen k (BitVec.ofNat _ v)) | _ => s.wroteF d v)))

/-- R269: `fabs`, `fneg` and `fsgn` act on the sign bit alone: every other bit of the operand, a NaN's payload with
it, is kept, and the bits above the width are zero. -/
def Claims.FloatSignBit : Prop :=
  ∀ (s : State) (g : Guard) (t : FTy) (d a b : XReg),
    let n := (Fmt.ofF t).bits
    let x := s.rx a
    let kept (u : W64) : Prop := (∀ i < n - 1, u.getLsbD i = x.getLsbD i) ∧ ∀ i, n ≤ i → u.getLsbD i = false
    (s.runs g [d, a] true 0 = true →
      (∃ u : W64, exec (.fabs g t d a) s = .next (s.wrote d u) ∧ kept u ∧ u.getLsbD (n - 1) = false) ∧
      ∃ v : W64, exec (.fneg g t d a) s = .next (s.wrote d v) ∧ kept v ∧ v.getLsbD (n - 1) = !x.getLsbD (n - 1)) ∧
    (s.runs g [d, a, b] true 0 = true →
      ∃ w : W64, exec (.fsgn g t d a b) s = .next (s.wrote d w) ∧ kept w ∧ w.getLsbD (n - 1) = (s.rx b).getLsbD (n - 1))

/-- R268 to R272, R118, R119: the scalar float instructions, and the three that act on the sign bit alone. -/
def Obligations.ScalarFloat : Prop :=
  Claims.ScalarFloatResults ∧ Claims.FloatSignBit


/-- R54, R195, R198, R268 to R270, R354: every scalar float instruction completes: where no check of its own
registers, guard and next pc fails, `fadd`, `fsub`, `fmul`, `ffma`, `ffms`, `fdiv`, `fsqrt`, `fmin`, `fmax`, `fabs`,
`fneg`, `fsgn`, `fcvt`, `fclass` and `frnd` answer the next state in which x[d] is written and the thread stands at
the next pc. -/
def Obligations.ScalarFloatCompletes : Prop :=
  ∀ (s : State) (g : Guard) (t : FTy) (dt st : CTy) (rm : Rm) (sat : Bool) (d a b c : XReg),
    let done (i : Instr) : Prop := ∃ v : W64, exec i s = .next (s.wrote d v)
    (s.runs g [d, a, b] true 0 = true → done (.fadd g t rm sat d a b) ∧ done (.fsub g t rm sat d a b) ∧
      done (.fmul g t rm sat d a b) ∧ done (.fdiv g t rm sat d a b) ∧ done (.fmin g t d a b) ∧ done (.fmax g t d a b) ∧
      done (.fsgn g t d a b)) ∧
    (s.runs g [d, a, b, c] true 0 = true → done (.ffma g t rm sat d a b c) ∧ done (.ffms g t rm sat d a b c)) ∧
    (s.runs g [d, a] true 0 = true → done (.fsqrt g t rm sat d a) ∧ done (.fabs g t d a) ∧ done (.fneg g t d a) ∧
      done (.fcvt g dt st rm sat d a) ∧ done (.fclass g t d a) ∧ done (.frnd g t rm d a))


/-! ## The vector unit -/

namespace Sys2Proof.Machine

/-- An exact integer in a lane: modulo 2^n, or with `.sat` clamped, then extended to 32 bits (R273, R277). -/
def intLane (k : IntTy) (sat : Bool) (v : Int) : W32 :=
  (widen k (if sat then clampTo k v else BitVec.ofInt (intWidth k) v)).setWidth 32

/-- The integer and the float that a lane holds: the bits above the type's width are ignored (R273). -/
def laneNumber (k : IntTy) (w : W32) : Int := numberOf k (w.setWidth 64)
def laneFloat (f : FTy) (w : W32) : FVal := (Fmt.ofF f).decode (w.toNat % 2 ^ (Fmt.ofF f).bits)

/-- A float result in a lane, zero above its width (R273). -/
def floatLane (f : FTy) (rm : Rm) (sat : Bool) (v : FVal) : W32 := BitVec.ofNat 32 ((Fmt.ofF f).encode rm sat v)

/-- A lane result by type: rounded once, or exact and then narrowed (R277). -/
def arithLane (t : VTy) (rm : Rm) (sat : Bool) (ff : FVal → FVal → FVal) (fi : Int → Int → Int) (a b : W32) : W32 :=
  match t with
  | .flt f => floatLane f rm sat (ff (laneFloat f a) (laneFloat f b))
  | t => intLane (laneInt t) sat (fi (laneNumber (laneInt t) a) (laneNumber (laneInt t) b))

/-- The minimum or maximum of two lanes: minimumNumber and maximumNumber for floats (R128, R277). -/
def extremeLane (t : VTy) (isMax : Bool) (a b : W32) : W32 :=
  match t with
  | .flt f =>
    BitVec.ofNat 32 ((Fmt.ofF f).minmax isMax (a.toNat % 2 ^ (Fmt.ofF f).bits) (b.toNat % 2 ^ (Fmt.ofF f).bits))
  | t =>
    let k := laneInt t
    intLane k false (if (laneNumber k a < laneNumber k b) = (isMax = true) then laneNumber k b else laneNumber k a)

/-- A lane shifted within the type's width by B modulo that width (R277). -/
def shiftedLane (k : IntTy) (f : BitVec (intWidth k) → Nat → BitVec (intWidth k)) (a b : W32) : W32 :=
  (widen k (f (operandOf k (a.setWidth 64)) (b.toNat % intWidth k))).setWidth 32

/-- The checks of a vector instruction with two sources (R206, R354). -/
def State.runs2 (s : State) (g : Guard) (d : VBlock) (a : VOrg) (b : VB) : Bool :=
  s.runs g (vbRegs b) (s.dstOk d && s.orgOk d a && s.vbOk d b) 0
def State.runs1 (s : State) (g : Guard) (regs : List XReg) (d : VBlock) (a : VOrg) : Bool :=
  s.runs g regs (s.dstOk d && s.orgOk d a) 0

/-- The instruction answers a next state in which the block's lanes are as `f` gives them. -/
def writesBlock (i : Instr) (s : State) (d : VBlock) (f : Nat × Nat → Nat → W32) : Prop :=
  ∃ t, exec i s = .next t ∧ s.blockWritten t d f

end Sys2Proof.Machine

/-- R273 to R277: `vadd`, `vsub`, `vmul`, `vmin` and `vmax` on the lanes that the mask selects, the others kept. -/
def Claims.VectorArithmetic : Prop :=
  ∀ (s : State) (g : Guard) (t : VTy) (rm : Rm) (sat : Bool) (d : VBlock) (a : VOrg) (b : VB) (mk : MReg),
    s.runs2 g d a b = true →
    let lanes (op : W32 → W32 → W32) := fun (p : Nat × Nat) (k : Nat) =>
      s.masked mk k (op (s.aLane a p k) (s.bLane b p k)) (s.dLane d p k)
    writesBlock (.vadd g t rm sat d a b mk) s d (lanes (arithLane t rm sat (FVal.add rm) (· + ·))) ∧
    writesBlock (.vsub g t rm sat d a b mk) s d (lanes (arithLane t rm sat (fun x y => x.add rm y.negate) (· - ·))) ∧
    writesBlock (.vmul g t rm sat d a b mk) s d (lanes (arithLane t rm sat FVal.mul (· * ·))) ∧
    writesBlock (.vmin g t d a b mk) s d (lanes (extremeLane t false)) ∧
    writesBlock (.vmax g t d a b mk) s d (lanes (extremeLane t true))

/-- R277, R269: the fused multiply-adds round once; `vabs` and `vneg` act on the sign bit of a float lane and exactly
on an integer lane. -/
def Claims.VectorFusedAndSign : Prop :=
  ∀ (s : State) (g : Guard) (t : FTy) (k : IntTy) (v : VTy) (rm : Rm) (sat : Bool) (d : VBlock) (a : VOrg) (b : VB)
    (mk : MReg),
    (s.runs2 g d a b = true →
      writesBlock (.vfma g t rm sat d a b mk) s d (fun p i => s.masked mk i (floatLane t rm sat
        (FVal.fma rm (laneFloat t (s.aLane a p i)) (laneFloat t (s.bLane b p i)) (laneFloat t (s.dLane d p i))))
        (s.dLane d p i)) ∧
      writesBlock (.vfms g t rm sat d a b mk) s d (fun p i => s.masked mk i (floatLane t rm sat
        (FVal.fma rm (laneFloat t (s.aLane a p i)) (laneFloat t (s.bLane b p i)) (laneFloat t (s.dLane d p i)).negate))
        (s.dLane d p i))) ∧
    (s.runs1 g [] d a = true →
      (let n := (Fmt.ofF t).bits
       writesBlock (.vabs g (.flt t) sat d a mk) s d (fun p i => s.masked mk i
         ((((s.aLane a p i).setWidth n) &&& ~~~(BitVec.twoPow n (n - 1))).setWidth 32) (s.dLane d p i)) ∧
       writesBlock (.vneg g (.flt t) sat d a mk) s d (fun p i => s.masked mk i
         ((((s.aLane a p i).setWidth n) ^^^ BitVec.twoPow n (n - 1)).setWidth 32) (s.dLane d p i))) ∧
      (v ∈ [VTy.i32, .w32, .i16, .w16, .i8, .w8] → k = laneInt v →
        writesBlock (.vabs g v sat d a mk) s d (fun p i => s.masked mk i
          (intLane k sat (laneNumber k (s.aLane a p i)).natAbs) (s.dLane d p i)) ∧
        writesBlock (.vneg g v sat d a mk) s d (fun p i => s.masked mk i
          (intLane k sat (0 - laneNumber k (s.aLane a p i))) (s.dLane d p i))))

/-- R269, R273 to R277: lane arithmetic under a mask. -/
def Obligations.VectorLanes : Prop :=
  Claims.VectorArithmetic ∧ Claims.VectorFusedAndSign


/-- R277: logic on 32-bit lanes, and shifts within the width of the lane type. -/
def Claims.VectorLogicAndShift : Prop :=
  ∀ (s : State) (g : Guard) (t : VTy) (d : VBlock) (a : VOrg) (b : VB) (mk : MReg),
    s.runs2 g d a b = true →
    let lanes (op : W32 → W32 → W32) := fun (p : Nat × Nat) (k : Nat) =>
      s.masked mk k (op (s.aLane a p k) (s.bLane b p k)) (s.dLane d p k)
    writesBlock (.vand g d a b mk) s d (lanes (· &&& ·)) ∧
    writesBlock (.vor g d a b mk) s d (lanes (· ||| ·)) ∧
    writesBlock (.vxor g d a b mk) s d (lanes (· ^^^ ·)) ∧
    writesBlock (.vandn g d a b mk) s d (lanes fun x y => x &&& ~~~y) ∧
    writesBlock (.vshl g t d a b mk) s d (lanes (shiftedLane (laneInt t) fun x n => x <<< n)) ∧
    writesBlock (.vshr g t d a b mk) s d (lanes (shiftedLane (laneInt t) fun x n => x >>> n)) ∧
    writesBlock (.vsra g t d a b mk) s d (lanes (shiftedLane (laneInt t) fun x n => x.sshiftRight n))

/-- R278, R279, R282: selection, moves, broadcasts, conversion and the six functions of R129, lane by lane; `vsel`
writes every lane, from A where the mask's bit is 1 and from B elsewhere. -/
def Claims.VectorMoveAndConvert : Prop :=
  ∀ (s : State) (g : Guard) (d : VBlock) (a : VOrg) (b : VB) (x : XReg) (l : BitVec 6) (mk : MReg) (dt st : CTy)
    (rm : Rm) (sat : Bool),
    let lanes (f : W32 → W32) := fun (p : Nat × Nat) (k : Nat) => s.masked mk k (f (s.aLane a p k)) (s.dLane d p k)
    (s.runs2 g d a b = true →
      writesBlock (.vsel g d a b mk) s d (fun p k => s.masked mk k (s.aLane a p k) (s.bLane b p k))) ∧
    (s.runs g [x] (s.dstOk d) 0 = true →
      writesBlock (.vbcast g d x mk) s d (fun p k => s.masked mk k ((s.rx x).setWidth 32) (s.dLane d p k))) ∧
    (s.runs1 g [] d a = true →
      writesBlock (.vmov g d a mk) s d (lanes id) ∧
      writesBlock (.vbcastLane g d a l mk) s d (fun p k => s.masked mk k (s.aLane a p l.toNat) (s.dLane d p k)) ∧
      writesBlock (.vcvt g dt st rm sat d a mk) s d
        (lanes fun w => match dt with
          | .int k => (widen k (BitVec.ofNat _ (convert dt st rm sat (w.toNat % 2 ^ cBits st)))).setWidth 32
          | _ => BitVec.ofNat 32 (convert dt st rm sat (w.toNat % 2 ^ cBits st))) ∧
      writesBlock (.vexp2 g rm d a mk) s d (lanes fun w => BitVec.ofNat 32 (tfun .exp2 rm w.toNat)) ∧
      writesBlock (.vlog2 g rm d a mk) s d (lanes fun w => BitVec.ofNat 32 (tfun .log2 rm w.toNat)) ∧
      writesBlock (.vrcp g rm d a mk) s d (lanes fun w => BitVec.ofNat 32 (tfun .rcp rm w.toNat)) ∧
      writesBlock (.vrsqrt g rm d a mk) s d (lanes fun w => BitVec.ofNat 32 (tfun .rsqrt rm w.toNat)) ∧
      writesBlock (.vtanh g rm d a mk) s d (lanes fun w => BitVec.ofNat 32 (tfun .tanh rm w.toNat)) ∧
      writesBlock (.vsig g rm d a mk) s d (lanes fun w => BitVec.ofNat 32 (tfun .sig rm w.toNat)))

/-- R277 to R279, R282: lane logic, shifts, selection, moves, conversion and functions. -/
def Obligations.VectorMoves : Prop :=
  Claims.VectorLogicAndShift ∧ Claims.VectorMoveAndConvert


namespace Sys2Proof.Machine

/-- The nodes of the fixed tree of R283: `node[L][k]` combines `node[L-1][2k]` and `node[L-1][2k+1]`. -/
def treeNode (op : W32 → W32 → W32) (leaf : Nat → Option W32) : Nat → Nat → Option W32
  | 0, k => leaf k
  | l + 1, k =>
    match treeNode op leaf l (2 * k), treeNode op leaf l (2 * k + 1) with
    | none, r => r
    | some x, none => some x
    | some x, some y => some (op x y)

/-- The running sum of R284 before lane k. -/
def scanBefore (op : W32 → W32 → W32) (leaf : Nat → Option W32) : Nat → Option W32
  | 0 => none
  | k + 1 =>
    match leaf k, scanBefore op leaf k with
    | none, acc => acc
    | some x, none => some x
    | some x, some y => some (op y x)

/-- A lane of A as a float's code, when its mask bit is 1. -/
def State.floatLeaf (s : State) (f : FTy) (mk : MReg) (a : VOrg) (p : Nat × Nat) (k : Nat) : Option W32 :=
  if (s.me.rm mk.toNat).getLsbD k = true then
    some (((s.aLane a p k).setWidth (Fmt.ofF f).bits).setWidth 32)
  else none
def State.intLeaf (s : State) (mk : MReg) (a : VOrg) (p : Nat × Nat) (k : Nat) : Option W32 :=
  if (s.me.rm mk.toNat).getLsbD k = true then some (s.aLane a p k) else none

/-- The exact sum of the masked lanes below n. -/
def State.laneTotal (s : State) (k : IntTy) (mk : MReg) (a : VOrg) (p : Nat × Nat) (n : Nat) : Int :=
  (Finset.range n).sum fun i => if (s.me.rm mk.toNat).getLsbD i = true then laneNumber k (s.aLane a p i) else 0

/-- A reduction's lanes: lane 0 whatever its mask bit, the others kept. -/
def State.reduced (s : State) (d : VBlock) (f : Nat × Nat → W32) (p : Nat × Nat) (k : Nat) : W32 :=
  if k = 0 then f p else s.dLane d p k

end Sys2Proof.Machine

/-- R283: reductions by the fixed tree, with the identity when no lane is masked in; an integer sum is exact and
narrowed once. -/
def Claims.VectorReductions : Prop :=
  ∀ (s : State) (g : Guard) (f : FTy) (rm : Rm) (sat : Bool) (d : VBlock) (a : VOrg) (mk : MReg),
    s.runs1 g [] d a = true →
    let tree (op : W32 → W32 → W32) (leaf : Nat × Nat → Nat → Option W32) (z : W32) :=
      s.reduced d fun p => (treeNode op (leaf p) 6 0).getD z
    let fl := s.floatLeaf f mk a
    let il := s.intLeaf mk a
    writesBlock (.vredsum g (.flt f) rm sat d a mk) s d
      (tree (fun x y => floatLane f rm false ((laneFloat f x).add rm (laneFloat f y))) fl 0) ∧
    writesBlock (.vredmax g (.flt f) d a mk) s d
      (tree (extremeLane (.flt f) true) fl (BitVec.ofNat 32 ((Fmt.ofF f).signed true (Fmt.ofF f).infCode))) ∧
    writesBlock (.vredmin g (.flt f) d a mk) s d
      (tree (extremeLane (.flt f) false) fl (BitVec.ofNat 32 (Fmt.ofF f).infCode)) ∧
    writesBlock (.vredsum g .i32 rm sat d a mk) s d (s.reduced d fun p => intLane .i32 sat (s.laneTotal .i32 mk a p 64)) ∧
    writesBlock (.vredsum g .w32 rm sat d a mk) s d (s.reduced d fun p => intLane .w32 sat (s.laneTotal .w32 mk a p 64)) ∧
    writesBlock (.vredmax g .i32 d a mk) s d (tree (extremeLane .i32 true) il 0x80000000) ∧
    writesBlock (.vredmax g .w32 d a mk) s d (tree (extremeLane .w32 true) il 0) ∧
    writesBlock (.vredmin g .i32 d a mk) s d (tree (extremeLane .i32 false) il 0x7FFFFFFF) ∧
    writesBlock (.vredmin g .w32 d a mk) s d (tree (extremeLane .w32 false) il 0xFFFFFFFF)

/-- R284, R287: prefix sums in ascending lane order; `vargmax` writes the largest masked lane by the order of R132,
the lowest of equal ones, and its index. -/
def Claims.VectorScanAndArgmax : Prop :=
  ∀ (s : State) (g : Guard) (f : FTy) (k : KeyTy) (rm : Rm) (sat : Bool) (d : VBlock) (a : VOrg) (mk : MReg),
    s.runs1 g [] d a = true →
    writesBlock (.vscan g (.flt f) rm sat d a mk) s d (fun p i => s.masked mk i
      ((scanBefore (fun x y => floatLane f rm false ((laneFloat f x).add rm (laneFloat f y))) (s.floatLeaf f mk a p)
        (i + 1)).getD 0) (s.dLane d p i)) ∧
    writesBlock (.vscan g .i32 rm sat d a mk) s d (fun p i => s.masked mk i
      (intLane .i32 sat (s.laneTotal .i32 mk a p (i + 1))) (s.dLane d p i)) ∧
    writesBlock (.vscan g .w32 rm sat d a mk) s d (fun p i => s.masked mk i
      (intLane .w32 sat (s.laneTotal .w32 mk a p (i + 1))) (s.dLane d p i)) ∧
    ∃ r : Nat × Nat → W32 × W32,
      writesBlock (.vargmax g k d a mk) s d
        (fun p i => if i = 0 then (r p).1 else if i = 1 then (r p).2 else s.dLane d p i) ∧
      ∀ p, (∀ i < 64, (s.me.rm mk.toNat).getLsbD i = false) ∧
          r p = (match k with | .f32 => 0xFFFFFFFF | .i32 => 0x80000000, 64) ∨
        ∃ i < 64, (s.me.rm mk.toNat).getLsbD i = true ∧ r p = (s.aLane a p i, BitVec.ofNat 32 i) ∧
          ∀ j < 64, (s.me.rm mk.toNat).getLsbD j = true →
            rankKey k (s.aLane a p j).toNat ≤ rankKey k (s.aLane a p i).toNat ∧
            (rankKey k (s.aLane a p j).toNat = rankKey k (s.aLane a p i).toNat → i ≤ j)

/-- R283, R284, R287: reductions by the fixed tree, prefix sums and the arg-maximum. -/
def Obligations.VectorFolds : Prop :=
  Claims.VectorReductions ∧ Claims.VectorScanAndArgmax


namespace Sys2Proof.Machine

/-- How many lanes of k's group of `g` come before k: a larger rank, or an equal one in a lower lane (R286). -/
def lanesBefore (rank : Nat → W32) (key : Nat → Nat) (g k : Nat) : Nat :=
  ((List.range 64).filter fun j => decide (j / g = k / g) &&
    (decide (key (rank k).toNat < key (rank j).toNat) || key (rank k).toNat == key (rank j).toNat && decide (j < k))).length

end Sys2Proof.Machine

/-- R285, R286: permutes by the lane index modulo 64, the five patterns of `vshuf`, and the three modes of
`vcompress`. -/
def Claims.VectorPermutes : Prop :=
  ∀ (s : State) (g : Guard) (d : VBlock) (a c : VOrg) (b : VB) (x : XReg) (mk : MReg) (pat : BitVec 7) (t : KeyTy)
    (lg : BitVec 3) (nM1 : BitVec 4),
    (s.runs2 g d a b = true →
      writesBlock (.vperm g d a b mk) s d (fun p k => s.masked mk k
        (s.aLane a p ((s.bLane b p k).toNat % 64)) (s.dLane d p k))) ∧
    (s.runs g [x] (s.dstOk d && s.orgOk d a) 0 = true →
      writesBlock (.vrot g d a x mk) s d (fun p k => s.masked mk k
        (s.aLane a p ((k + (s.rx x).toNat) % 64)) (s.dLane d p k))) ∧
    (s.runs g [] (s.dstOk d && s.orgOk d a && s.orgOk d c) 0 = true → pat.toNat < 5 →
      writesBlock (.vshuf g d a c pat mk) s d (fun p k => s.masked mk k
        (match pat.toNat with
          | 0 => if k % 2 = 0 then s.aLane a p (k / 2) else s.aLane c p (k / 2)
          | 1 => if k % 2 = 0 then s.aLane a p (32 + k / 2) else s.aLane c p (32 + k / 2)
          | 2 => if k < 32 then s.aLane a p (2 * k) else s.aLane c p (2 * (k - 32))
          | 3 => if k < 32 then s.aLane a p (2 * k + 1) else s.aLane c p (2 * (k - 32) + 1)
          | _ => if k < 32 then s.aLane a p k else s.aLane c p (k - 32)) (s.dLane d p k))) ∧
    (s.runs1 g [] d a = true →
      (∃ r : Nat × Nat → Nat → W32, writesBlock (.vcompress g d a mk) s d r ∧ ∀ p : Nat × Nat,
        let count (k : Nat) := ((List.range k).filter fun i => (s.me.rm mk.toNat).getLsbD i).length
        (∀ k < 64, (s.me.rm mk.toNat).getLsbD k = true → r p (count k) = s.aLane a p k) ∧
        ∀ k, count 64 ≤ k → k < 64 → r p k = 0) ∧
      (1 ≤ lg.toNat → lg.toNat ≤ 6 →
        writesBlock (.vcompressMag g d a lg nM1) s d (fun p k =>
          if lanesBefore (s.aLane a p) rankMag (2 ^ lg.toNat) k ≤ nM1.toNat then s.aLane a p k else 0) ∧
        writesBlock (.vcompressTop g t d a lg nM1) s d (fun p k =>
          if lanesBefore (s.aLane a p) (rankKey t) (2 ^ lg.toNat) k ≤ nM1.toNat then s.aLane a p k else 0)))

/-- R280, R281, R288: `vquant` writes the packed register of R280, `vdeq` the rounded values of a packed register with
canonical NaNs, `vrescale` the combined triple of each block row. -/
def Claims.VectorQuantise : Prop :=
  ∀ (s : State) (g : Guard) (t : QTy) (rm : Rm) (sat : Bool) (d : VBlock) (a b : VOrg) (mk : MReg),
    (s.runs1 g [] d a = true →
      writesBlock (.vquant g t rm d a) s d (fun p k =>
        BitVec.ofNat 32 (quantReg t rm ((List.range 64).map fun i => (s.aLane a p i).toNat) / 2 ^ (32 * k))) ∧
      writesBlock (.vdeq g t rm sat d a mk) s d (fun p k => s.masked mk k
        (BitVec.ofNat 32 (let v := dequant t (s.blockReg a.row a.col p).toNat k
          if v.isNan then f32.nanCode else f32.encode rm sat v)) (s.dLane d p k))) ∧
    (s.runs g [] (s.dstOk d && s.orgOk d a && s.orgOk d b) 0 = true →
      writesBlock (.vrescale g d a b) s d (fun p k =>
        let row (o : VOrg) : List Nat := (List.range (64 * blkW d)).map fun i => (s.aLane o (p.1, i / 64) (i % 64)).toNat
        BitVec.ofNat 32 ((rescale (row a) (row b)).getD (64 * p.2 + k) 0)))

/-- R280, R281, R285, R286, R288: permutes, compression and the block formats. -/
def Obligations.VectorPermutesAndBlocks : Prop :=
  Claims.VectorPermutes ∧ Claims.VectorQuantise


namespace Sys2Proof.Machine

/-- An instruction that writes one mask register, retired at the next pc. -/
def writesMask (i : Instr) (s : State) (md : MReg) (v : W64) : Prop :=
  ∃ t, exec i s = .next t ∧ (∀ m, m ≠ 0 → t.me.rm m = if m = md.toNat then v else s.me.rm m) ∧ t.me.rm 0 = BitVec.allOnes 64 ∧
    t.me.x = s.me.x ∧ t.me.p = s.me.p ∧ t.me.v = s.me.v ∧ t.me.pc = s.me.pc + 8 ∧ s.me.sameSystem t.me ∧ s.onlyMeVec t

end Sys2Proof.Machine

/-- R198, R277, R289: `vcmp` and the mask logic write one mask register, and m0 stays all ones; `mpop` counts. -/
def Obligations.MaskInstructions : Prop :=
  ∀ (s : State) (g : Guard) (t : VTy) (c : FCond) (md ma mb : MReg) (a : VOrg) (b : VB) (mk : MReg) (d : XReg),
    (s.runs g (vbRegs b) (s.orgOk oneBlock a && s.vbOk oneBlock b) 0 = true →
      ∃ v, writesMask (.vcmp g t c md a b mk) s md v ∧ ∀ k < 64, v.getLsbD k =
        if (s.me.rm mk.toNat).getLsbD k = true then
          floatCond c (match t with
            | .flt f => (Fmt.ofF f).compare ((s.aLane a (0, 0) k).toNat % 2 ^ (Fmt.ofF f).bits)
                ((s.bLane b (0, 0) k).toNat % 2 ^ (Fmt.ofF f).bits)
            | t => some (compare (laneNumber (laneInt t) (s.aLane a (0, 0) k)) (laneNumber (laneInt t) (s.bLane b (0, 0) k))))
        else (s.me.rm md.toNat).getLsbD k) ∧
    (s.runs g [] true 0 = true →
      writesMask (.mand g md ma mb) s md (s.me.rm ma.toNat &&& s.me.rm mb.toNat) ∧
      writesMask (.mor g md ma mb) s md (s.me.rm ma.toNat ||| s.me.rm mb.toNat) ∧
      writesMask (.mxor g md ma mb) s md (s.me.rm ma.toNat ^^^ s.me.rm mb.toNat) ∧
      writesMask (.mnot g md ma) s md (~~~s.me.rm ma.toNat)) ∧
    (s.runs g [d] true 0 = true →
      ∃ t, exec (.mpop g d ma) s = .next t ∧ t.me.pc = s.me.pc + 8 ∧ s.me.sameBut d.toNat t.me ∧ s.onlyMeVec t ∧
        (d ≠ 0 → t.rx d = BitVec.ofNat 64 (((List.range 64).filter fun i => (s.me.rm ma.toNat).getLsbD i).length)))


/-! ## Memory: accesses at the issuing tile, and accesses that leave it -/

namespace Sys2Proof.Machine

/-- The local-store offset of a range of n bytes of the issuing tile: in the private, the local or the saddle window,
within its area (R61 to R66, R248). -/
def State.rangeAt (s : State) (a : W64) (n : Nat) : Option Nat :=
  let d := s.myDom
  let off := (a.extractLsb' 0 24).toNat
  let low := (a.extractLsb' 0 12).toNat
  let at_ := d.privBase + s.me.idx * d.privSize + off
  if a.extractLsb' 56 8 = 0xE0 then if off + n ≤ d.privSize ∧ at_ + n ≤ 0xC00000 then some at_ else none
  else if a.extractLsb' 56 8 = 0xE1 then
    if (a.extractLsb' 44 12).toNat = s.cur.1 ∧ d.lsBase ≤ off ∧ off + n ≤ d.lsBase + d.lsSize then some off else none
  else if a.extractLsb' 56 8 = 0xE3 then if low + n ≤ d.saddleSize then some (d.saddleActive + low) else none
  else none

/-- The local-store offset that an aligned access of n bytes reaches at the issuing tile. -/
def State.ownOffset (s : State) (a : W64) (n : Nat) : Option Nat := if a.toNat % n = 0 then s.rangeAt a n else none

/-- What the access's order, and an earlier acquire, wait for has performed (R100). -/
def State.orderMet (s : State) (o : Order) : Bool :=
  if o.ord = .rel ∨ o.ord = .ar then s.priorDone s.cur.1 s.cur.2 && (o.sc != 6 || s.me.unfl == 0)
  else !s.me.hold || s.priorDone s.cur.1 s.cur.2

/-- No earlier access of the thread may reach these bytes of its tile (R97). -/
def State.alone (s : State) (off n : Nat) : Bool :=
  s.me.outst.all fun x => !mayMeet x.addr.toNat x.size (2 ^ 55 + lsAddr s.cur.1 off) n

/-- The bytes have arrived, and their words hold no bit in error (R369, R387). -/
def State.intact (s : State) (off n : Nat) : Bool :=
  (s.myDom.misses off n).isEmpty && !s.lsBad s.cur.1 off n && !s.flips.any fun e => inStore s.cur.1 off n e.1

/-- The number that n bytes spell, the first byte lowest (R61). -/
def State.number (s : State) (a n : Nat) : Nat := (Finset.range n).sum fun k => (s.byte (a + k)).toNat * 256 ^ k

/-- A value of n bytes extended to 64 bits (R250). -/
def extended (sx : Bool) (n v : Nat) : W64 :=
  if sx then (BitVec.ofNat (8 * n) v).signExtend 64 else (BitVec.ofNat (8 * n) v).setWidth 64

/-- The instruction has retired at the next pc; nothing outside the issuing thread and the memory has changed. -/
def State.retiredTo (s t : State) : Prop :=
  t.me.pc = s.me.pc + 8 ∧ t.me.run = .ready ∧ s.me.sameSystem t.me ∧ s.otherThreads t s.cur.1 s.cur.2 ∧ s.sameTiles t ∧
    s.sameBlocks t ∧ s.sameJobs t ∧ t.flight = s.flight ∧ t.timers = s.timers ∧ t.time = s.time

/-- The n bytes from `a` on are as `b` gives them; every other byte, full-empty bit, slot byte and accumulator word is
as it was. -/
def State.storedTo (s t : State) (a n : Nat) (b : Nat → Byte) : Prop :=
  (∀ k < n, t.byte (a + k) = b k) ∧ (∀ c, c < a ∨ a + n ≤ c → t.byte c = s.byte c) ∧ t.fe = s.fe ∧
    t.slotMem = s.slotMem ∧ t.acc = s.acc

/-- An atomic's new value (R257). -/
def amoResult (op : AmoOp) {w : Nat} (old v c : BitVec w) : BitVec w :=
  match op with
  | .add => old + v
  | .min => if v.slt old then v else old
  | .max => if old.slt v then v else old
  | .minw => if v.ult old then v else old
  | .maxw => if old.ult v then v else old
  | .and => old &&& v
  | .or => old ||| v
  | .xor => old ^^^ v
  | .swap => v
  | .fadd => BitVec.ofNat w (addF32 old.toNat v.toNat)
  | .cas => if old = c then v else old

end Sys2Proof.Machine

/-- R61 to R66, R250: a load at the issuing tile writes the extended value of its bytes, and no byte of memory
changes; a store writes the low bytes of x[d] and changes no register. -/
def Claims.LoadAndStore : Prop :=
  ∀ (s : State) (g : Guard) (sx : Bool) (sz : Size) (o : Order) (d : XReg) (m : MAddr) (off : Nat),
    let n := sizeBytes sz
    s.runs g [d, m.base, m.idx] true 0 = true →
    s.ownOffset (s.rx m.base + s.rx m.idx + m.off.signExtend 64) n = some off →
    s.orderMet o = true → s.alone off n = true →
    (s.intact off n = true →
      exec (.ld g sx sz o d m) s = .next (s.wrote d (extended sx n (s.number (lsAddr s.cur.1 off) n)))) ∧
    ∃ t, exec (.st g sz o d m) s = .next t ∧ s.me.sameRegs t.me ∧ s.retiredTo t ∧
      s.storedTo t (lsAddr s.cur.1 off) n fun k => (s.rx d).extractLsb' (8 * k) 8

/-- R86, R257: an atomic at the issuing tile stores the new value and, unless it is a no-return form, writes the old
value to x[d]; `amofadd` adds in FP32, and `amocas` compares with the register that the index field names. -/
def Claims.Atomics : Prop :=
  ∀ (s : State) (g : Guard) (sx : Bool) (sz : Size) (nr : Bool) (o : Order) (d : XReg) (m : MAddr) (off : Nat),
    s.runs g [d, m.base, m.idx] true 0 = true → s.orderMet o = true →
    let A := lsAddr s.cur.1 off
    let ends (i : Instr) (op : AmoOp) (sx : Bool) (n : Nat) (c : W64) (nr : Bool) : Prop :=
      s.alone off n = true → s.intact off n = true →
      ∃ t, exec i s = .next t ∧ s.retiredTo t ∧
        (s.storedTo t A n fun k =>
          (amoResult op (BitVec.ofNat (8 * n) (s.number A n)) ((s.rx d).setWidth (8 * n)) (c.setWidth (8 * n))).extractLsb'
            (8 * k) 8) ∧
        if nr = true then s.me.sameRegs t.me
        else (d ≠ 0 → t.rx d = extended sx n (s.number A n)) ∧ s.me.sameBut d.toNat t.me
    (s.ownOffset (s.rx m.base + s.rx m.idx + m.off.signExtend 64) (sizeBytes sz) = some off →
      ∀ q ∈ [(Instr.amoadd g sx sz nr o d m, AmoOp.add), (.amomin g sx sz nr o d m, .min),
        (.amomax g sx sz nr o d m, .max), (.amominw g sx sz nr o d m, .minw), (.amomaxw g sx sz nr o d m, .maxw),
        (.amoand g sx sz nr o d m, .and), (.amoor g sx sz nr o d m, .or), (.amoxor g sx sz nr o d m, .xor),
        (.amoswap g sx sz nr o d m, .swap)], ends q.1 q.2 sx (sizeBytes sz) 0 nr) ∧
    (s.ownOffset (s.rx m.base + s.rx m.idx + m.off.signExtend 64) 4 = some off →
      ends (.amofadd g nr o d m) .fadd false 4 0 nr) ∧
    (s.ownOffset (s.rx m.base + m.off.signExtend 64) (sizeBytes sz) = some off →
      ends (.amocas g sx sz o d m) .cas sx (sizeBytes sz) (s.rx m.idx) false)

/-- R61 to R66, R86, R250, R257: scalar accesses at the issuing tile. -/
def Obligations.LoadsStoresAtomics : Prop :=
  Claims.LoadAndStore ∧ Claims.Atomics


/-- R259: `vld` and `vst` move 1, 2, 4 or 8 whole registers of one grid row, 256 bytes each, lane 0 of the first
register lowest. -/
def Claims.VectorLoadStore : Prop :=
  ∀ (s : State) (g : Guard) (sz : Size) (o : Order) (d : VReg) (m : MAddr) (off : Nat),
    let n := sizeRegs sz
    let A := lsAddr s.cur.1 off
    s.runs g [m.base, m.idx] (s.vregOk d && decide (d.col.toNat + n ≤ modeCols s.myMode)) 0 = true → s.orderMet o = true →
    (∀ k < 32 * n, s.ownOffset (s.rx m.base + s.rx m.idx + m.off.signExtend 64 + BitVec.ofNat 64 (8 * k)) 8 =
        some (off + 8 * k) ∧ s.alone (off + 8 * k) 8 = true) →
    ((∀ k < 32 * n, s.intact (off + 8 * k) 8 = true) →
      ∃ t, exec (.vld g sz o d m) s = .next t ∧ s.retiredTo t ∧ s.sameMemory t ∧ t.me.x = s.me.x ∧ t.me.p = s.me.p ∧
        t.me.m = s.me.m ∧
        (∀ j < n, ∀ i < 64, (t.me.rv (s.vreg d + j)).extractLsb' (32 * i) 32 =
          BitVec.ofNat 32 (s.number (A + 256 * j + 4 * i) 4)) ∧
        ∀ r, r < s.vreg d ∨ s.vreg d + n ≤ r → t.me.rv r = s.me.rv r) ∧
    ∃ t, exec (.vst g sz o d m) s = .next t ∧ s.retiredTo t ∧ s.me.sameRegs t.me ∧
      s.storedTo t A (256 * n) fun k => (s.me.rv (s.vreg d + k / 256)).extractLsb' (8 * (k % 256)) 8

namespace Sys2Proof.Machine

/-- The masked lanes' addresses all reach the issuing tile. -/
def State.lanesReach (s : State) (mk : MReg) (n : Nat) (f : Nat → W64) (off : Nat → Nat) : Prop :=
  ∀ i < 64, (s.me.rm mk.toNat).getLsbD i = true → s.ownOffset (f i) n = some (off i) ∧ s.alone (off i) n = true

/-- A register whose masked lanes are as `f` gives them, the instruction retired and nothing else changed. -/
def State.lanesLoaded (s t : State) (mk : MReg) (d : VReg) (f : Nat → W32) : Prop :=
  s.retiredTo t ∧ s.sameMemory t ∧ t.me.x = s.me.x ∧ t.me.p = s.me.p ∧ t.me.m = s.me.m ∧
    (∀ i < 64, (t.me.rv (s.vreg d)).extractLsb' (32 * i) 32 = s.masked mk i (f i) (s.lane d i)) ∧
    ∀ r, r ≠ s.vreg d → t.me.rv r = s.me.rv r

/-- The bytes that masked lanes store: at an address that several lanes store to, the highest lane's (R260). -/
def State.lanesStored (s t : State) (mk : MReg) (d : VReg) (n : Nat) (off : Nat → Nat) : Prop :=
  let hit (i a : Nat) : Prop := i < 64 ∧ (s.me.rm mk.toNat).getLsbD i = true ∧ off i ≤ a ∧ a < off i + n
  s.retiredTo t ∧ s.me.sameRegs t.me ∧ t.fe = s.fe ∧ t.slotMem = s.slotMem ∧ t.acc = s.acc ∧
    (∀ i a, hit i a → (∀ j, i < j → ¬ hit j a) →
      t.byte (lsAddr s.cur.1 a) = ((s.lane d i).setWidth 64).extractLsb' (8 * (a - off i)) 8) ∧
    ∀ c, (∀ a, c = lsAddr s.cur.1 a → ∀ i, ¬ hit i a) → t.byte c = s.byte c

end Sys2Proof.Machine

/-- R260: gathers, strided loads and stores, scatters and `vldb`, on the lanes that the mask selects. -/
def Claims.VectorLanesMemory : Prop :=
  ∀ (s : State) (g : Guard) (sx : Bool) (sz : Size) (mk : MReg) (o : Order) (d : VReg) (base : XReg) (vi : VReg)
    (disp : BitVec 20) (m : MAddr) (off : Nat → Nat),
    let n := sizeBytes sz
    let at_ (i : Nat) := lsAddr s.cur.1 (off i)
    let gather (i : Nat) : W64 := s.rx base + disp.signExtend 64 + (s.lane vi i).signExtend 64
    let stride (i : Nat) : W64 := s.rx m.base + m.off.signExtend 64 + BitVec.ofNat 64 i * s.rx m.idx
    let intact := ∀ i < 64, (s.me.rm mk.toNat).getLsbD i = true → s.intact (off i) n = true
    s.orderMet o = true →
    (s.runs g [base] (s.vregOk d && s.vregOk vi) 0 = true → s.lanesReach mk n gather off →
      (intact → ∃ t, exec (.vldg g sx sz mk o d base vi disp) s = .next t ∧
        s.lanesLoaded t mk d fun i => (extended sx n (s.number (at_ i) n)).setWidth 32) ∧
      ∃ t, exec (.vsts g sz mk o d base vi disp) s = .next t ∧ s.lanesStored t mk d n off) ∧
    (s.runs g [m.base, m.idx] (s.vregOk d) 0 = true → s.lanesReach mk n stride off →
      (intact → ∃ t, exec (.vldt g sx sz mk o d m) s = .next t ∧
        s.lanesLoaded t mk d fun i => (extended sx n (s.number (at_ i) n)).setWidth 32) ∧
      ∃ t, exec (.vstt g sz mk o d m) s = .next t ∧ s.lanesStored t mk d n off) ∧
    (s.runs g [m.base, m.idx] (s.vregOk d) 0 = true →
      s.ownOffset (s.rx m.base + s.rx m.idx + m.off.signExtend 64) n = some (off 0) → s.alone (off 0) n = true →
      s.intact (off 0) n = true →
      ∃ t, exec (.vldb g sx sz mk o d m) s = .next t ∧
        s.lanesLoaded t mk d fun _ => (extended sx n (s.number (at_ 0) n)).setWidth 32)

/-- R259, R260: vector accesses at the issuing tile. -/
def Obligations.VectorMemory : Prop :=
  Claims.VectorLoadStore ∧ Claims.VectorLanesMemory


namespace Sys2Proof.Machine

/-- The block and the location of an access that leaves the tile: the home tile of a shared address, or the
translation station of a global one (R61, R65, R71). -/
def State.awayAt (s : State) (a : W64) (n : Nat) : Option (Node × Nat) :=
  let d := s.myDom
  let off := (a.extractLsb' 0 24).toNat
  let f := (a.extractLsb' 36 12).toNat
  if a.toNat % n ≠ 0 then none
  else if a.extractLsb' 56 8 = 0xE2 then
    if off + n ≤ 0xC00000 ∧ f / 64 < d.fheight ∧ f % 64 < d.fwidth then
      let T := (d.frow0 + f / 64) * 64 + d.fcol0 + f % 64
      some (s.nodeOf T, lsAddr T off)
    else none
  else if a.extractLsb' 56 8 = 0 ∧ a.getLsbD 55 = false then
    some (.station (xlatStation d.pid (a.extractLsb' 0 55).toNat), (a.extractLsb' 0 55).toNat)
  else none

/-- The one new event is a message of this type to this block, with one access of these data, on the network. -/
def State.sentAccess (s t : State) (typ : BitVec 8) (dst : Node) (k : AccKind) (e : Elem) : Prop :=
  ∃ m x, t.flight = s.flight ++ [.meshRoute (s.nodeOf s.cur.1) m] ∧ m.typ = typ ∧ m.src = s.nodeOf s.cur.1 ∧ m.dst = dst ∧
    m.pid = BitVec.ofNat 16 s.myDom.pid ∧ m.pay = .access x ∧ x.kind = k ∧ x.elems = [e] ∧ x.iss.tile = s.cur.1 ∧
    x.iss.hw = s.cur.2 ∧ s.me.sameSystem t.me ∧ s.otherThreads t s.cur.1 s.cur.2

end Sys2Proof.Machine

/-- R65, R71, R97, R135: an access that leaves the tile goes as one request to its home tile or to the translation
station of its page; a load and a returning atomic wait for the reply with every register as it was, a store and a
no-return atomic retire. -/
def Claims.AccessesThatLeave : Prop :=
  ∀ (s : State) (g : Guard) (sx : Bool) (sz : Size) (nr : Bool) (o : Order) (d : XReg) (m : MAddr) (dst : Node) (loc : Nat),
    let a := s.rx m.base + s.rx m.idx + m.off.signExtend 64
    let n := sizeBytes sz
    let el (v : W64) : Elem := ⟨0, a, BitVec.ofNat 64 loc, n, v, 0⟩
    s.runs g [d, m.base, m.idx] true 0 = true → s.orderMet o = true → s.me.outst = [] → s.awayAt a n = some (dst, loc) →
    (∃ t, exec (.ld g sx sz o d m) s = .next t ∧ s.sentAccess t 0x01 dst .read (el 0) ∧ s.sameMemory t ∧
      s.me.sameRegs t.me ∧ t.me.pc = s.me.pc ∧ t.me.run = .parked .reply s.tcycle ∧
      t.me.pend = some (.ld g sx sz o d m)) ∧
    (∃ t, exec (.st g sz o d m) s = .next t ∧ s.sentAccess t 0x02 dst .write (el (s.rx d)) ∧ s.sameMemory t ∧
      s.me.sameRegs t.me ∧ t.me.pc = s.me.pc + 8 ∧ t.me.run = .ready) ∧
    ∀ q ∈ [(Instr.amoadd g sx sz nr o d m, AmoOp.add), (.amomin g sx sz nr o d m, .min), (.amomax g sx sz nr o d m, .max),
        (.amominw g sx sz nr o d m, .minw), (.amomaxw g sx sz nr o d m, .maxw), (.amoand g sx sz nr o d m, .and),
        (.amoor g sx sz nr o d m, .or), (.amoxor g sx sz nr o d m, .xor), (.amoswap g sx sz nr o d m, .swap)],
      ∃ t, exec q.1 s = .next t ∧ s.sentAccess t 0x03 dst (.amo q.2) (el (s.rx d)) ∧ s.sameMemory t ∧
        s.me.sameRegs t.me ∧
        if nr = true then t.me.pc = s.me.pc + 8 ∧ t.me.run = .ready
        else t.me.pc = s.me.pc ∧ t.me.run = .parked .reply s.tcycle ∧ t.me.pend = some q.1

/-- R62 to R66, R248, R354: the causes that scalar accesses raise at issue, in the order of R354, with the address as
TRAP_VAL. -/
def Claims.AccessCauses : Prop :=
  ∀ (s : State) (g : Guard) (sx : Bool) (sz : Size) (nr : Bool) (o : Order) (d : XReg) (m : MAddr),
    s.clear g [d, m.base, m.idx] true 0 = true →
    let a := s.rx m.base + s.rx m.idx + m.off.signExtend 64
    let n := sizeBytes sz
    let dm := s.myDom
    let top := a.extractLsb' 56 8
    let off := (a.extractLsb' 0 24).toNat
    let f := (a.extractLsb' 36 12).toNat
    let raises (c : Nat) : Prop := ∀ i ∈ [Instr.ld g sx sz o d m, .st g sz o d m, .amoadd g sx sz nr o d m,
      .amomin g sx sz nr o d m, .amomax g sx sz nr o d m, .amominw g sx sz nr o d m, .amomaxw g sx sz nr o d m,
      .amoand g sx sz nr o d m, .amoor g sx sz nr o d m, .amoxor g sx sz nr o d m, .amoswap g sx sz nr o d m],
      exec i s = .next (s.raise c a)
    (a.toNat % n ≠ 0 → raises 0x05) ∧
    (a.toNat % n = 0 →
      (top ∉ [0x00, 0xE0, 0xE1, 0xE2, 0xE3, 0xFF] ∨ top = 0 ∧ a.getLsbD 55 = true → raises 0x06) ∧
      (top = 0xE0 → dm.privSize < off + n → raises 0x09) ∧
      (top = 0xE1 → (a.extractLsb' 44 12).toNat ≠ s.cur.1 → raises 0x07) ∧
      (top = 0xE1 → (a.extractLsb' 44 12).toNat = s.cur.1 → off < dm.lsBase ∨ dm.lsBase + dm.lsSize < off + n →
        raises 0x09) ∧
      (top = 0xE2 → 0xC00000 < off + n → raises 0x09) ∧
      (top = 0xE2 → off + n ≤ 0xC00000 → dm.fheight ≤ f / 64 ∨ dm.fwidth ≤ f % 64 → raises 0x08) ∧
      (top = 0xE3 → dm.saddleSize < (a.extractLsb' 0 12).toNat + n → raises 0x09) ∧
      (top = 0xFF → s.me.priv = 0 →
        (∃ x, placeOf (a.extractLsb' 0 52).toNat = .dram x) ∨ (∃ T x, placeOf (a.extractLsb' 0 52).toNat = .store T x) →
        raises 0x04))

/-- R62 to R66, R71, R97, R135, R248, R354: accesses that leave the tile, and the causes that accesses raise at issue.
-/
def Obligations.RemoteAndRefusedAccesses : Prop :=
  Claims.AccessesThatLeave ∧ Claims.AccessCauses


/-- R84, R253: the full-empty instructions at the issuing tile, at a word that no other access waits for. A `ldfe` or
`stfe` whose bit allows it completes and leaves the bit as its mode says; another waits with nothing changed. -/
def Claims.FullEmpty : Prop :=
  ∀ (s : State) (g : Guard) (fm : FeMode) (full : Bool) (o : Order) (d : XReg) (m : MAddr) (off : Nat),
    s.runs g [d, m.base, m.idx] true 0 = true → s.orderMet o = true → s.alone off 8 = true →
    let a := s.rx m.base + s.rx m.idx + m.off.signExtend 64
    let A := lsAddr s.cur.1 off
    a.extractLsb' 56 8 ≠ 0xE3 → s.ownOffset a 8 = some off → (∀ q ∈ (s.tile s.cur.1).feq, q.off ≠ off) →
    let bit := s.feBit s.cur.1 off
    let ready := match fm with | .wff | .wfe => bit = true | .wef => bit = false | .sf | .se => True
    let after := match fm with | .wff | .wef | .sf => true | .wfe | .se => false
    let bitsAre (t : State) (b : Bool) : Prop := t.feBit s.cur.1 off = b ∧
      ∀ w, w ≠ A / 8 → Table.get false t.fe w = Table.get false s.fe w
    let waits (i : Instr) : Prop := ∃ t, exec i s = .next t ∧ s.sameMemory t ∧ s.me.sameRegs t.me ∧ t.me.pc = s.me.pc ∧
      t.me.run = .parked (.fe a) s.tcycle ∧ s.me.sameSystem t.me ∧ s.otherThreads t s.cur.1 s.cur.2
    (ready → s.lsBad s.cur.1 off 8 = false → ∃ t, exec (.ldfe g fm o d m) s = .next t ∧ s.retiredTo t ∧ bitsAre t after ∧
      (∀ c, t.byte c = s.byte c) ∧ s.me.sameBut d.toNat t.me ∧ (d ≠ 0 → t.rx d = BitVec.ofNat 64 (s.number A 8))) ∧
    (ready → ∃ t, exec (.stfe g fm o d m) s = .next t ∧ s.retiredTo t ∧ bitsAre t after ∧ s.me.sameRegs t.me ∧
      (∀ k < 8, t.byte (A + k) = (s.rx d).extractLsb' (8 * k) 8) ∧ ∀ c, c < A ∨ A + 8 ≤ c → t.byte c = s.byte c) ∧
    (¬ ready → waits (.ldfe g fm o d m) ∧ waits (.stfe g fm o d m)) ∧
    exec (.fetest g o d m) s = .next (s.wrote d (if bit then 1 else 0)) ∧
    ∃ t, exec (.feset g full o m) s = .next t ∧ s.retiredTo t ∧ bitsAre t full ∧ s.me.sameRegs t.me ∧
      ∀ c, t.byte c = s.byte c

/-- R65, R84, R248, R253: a full-empty instruction for a word of another tile of the fabric goes as one request to
that tile and waits; outside the private, local and shared windows it raises 0x06, and unaligned 0x05. -/
def Claims.FullEmptyElsewhere : Prop :=
  ∀ (s : State) (g : Guard) (fm : FeMode) (full : Bool) (o : Order) (d : XReg) (m : MAddr),
    let a := s.rx m.base + s.rx m.idx + m.off.signExtend 64
    let table : List (Instr × AccKind × W64 × Wait) :=
      [(.ldfe g fm o d m, .fe fm true, 0, .fe a), (.stfe g fm o d m, .fe fm false, s.rx d, .fe a),
        (.fetest g o d m, .feTest, 0, .reply), (.feset g full o m, .feSet full, 0, .reply)]
    s.clear g [d, m.base, m.idx] true 0 = true → ∀ q ∈ table,
      (a.toNat % 8 ≠ 0 → exec q.1 s = .next (s.raise 0x05 a)) ∧
      (a.toNat % 8 = 0 → a.extractLsb' 56 8 ∉ [0xE0, 0xE1, 0xE2] → exec q.1 s = .next (s.raise 0x06 a)) ∧
      ∀ dst loc, s.nextOk = true → s.orderMet o = true → s.me.outst = [] → a.extractLsb' 56 8 = 0xE2 →
        s.awayAt a 8 = some (dst, loc) →
        ∃ t, exec q.1 s = .next t ∧ s.sentAccess t 0x03 dst q.2.1 ⟨0, a, BitVec.ofNat 64 loc, 8, q.2.2.1, 0⟩ ∧
          s.sameMemory t ∧ s.me.sameRegs t.me ∧ t.me.pc = s.me.pc ∧ t.me.run = .parked q.2.2.2 s.tcycle ∧
          t.me.pend = some q.1

/-- R65, R84, R248, R253: the full-empty instructions, at the issuing tile and for another one. -/
def Obligations.FullEmptyAccesses : Prop :=
  Claims.FullEmpty ∧ Claims.FullEmptyElsewhere


/-- R251: a wave-commit store appends a 16-byte entry to the half that the run fills and changes no other byte; with
the half full it raises 0x1A. -/
def Claims.WaveCommitStore : Prop :=
  ∀ (s : State) (g : Guard) (sz : Size) (d : XReg) (m : MAddr),
    s.runs g [d, m.base, m.idx] true 0 = true →
    let a := s.rx m.base + s.rx m.idx + m.off.signExtend 64
    let dm := s.myDom
    let h := (dm.wave.toNat - dm.firstWave) / dm.bHeight % 2
    let cnt := if h = 0 then dm.commit0 else dm.commit1
    let A := lsAddr s.cur.1 (dm.commitBase + h * (dm.commitKib * 512) + 16 * cnt)
    let place : Option (Nat × Nat) :=
      if a.toNat % sizeBytes sz ≠ 0 then none
      else if a.extractLsb' 56 8 = 0 ∧ a.getLsbD 55 = false then some (0, (a.extractLsb' 0 55).toNat)
      else if (s.ownOffset a (sizeBytes sz)).isSome ∧ a.extractLsb' 56 8 = 0xE1 then
        some (1, s.cur.1 * 2 ^ 24 + (a.extractLsb' 0 24).toNat)
      else if a.extractLsb' 56 8 = 0xE2 ∧ (a.extractLsb' 0 24).toNat + sizeBytes sz ≤ 0xC00000 then
        some (2, (a.extractLsb' 36 12).toNat * 2 ^ 24 + (a.extractLsb' 0 24).toNat)
      else none
    ∀ w, place = some w →
      (cnt < dm.commitKib * 32 →
        ∃ t, exec (.stWc g sz d m) s = .next t ∧ s.me.sameRegs t.me ∧ t.me.pc = s.me.pc + 8 ∧ t.me.run = .ready ∧
          s.me.sameSystem t.me ∧ s.otherThreads t s.cur.1 s.cur.2 ∧ t.flight = s.flight ∧
          (s.storedTo t A 16 fun k =>
            ((s.rx d) ++ ((sizeCode sz) ++ BitVec.ofNat 2 w.1 ++ 0#5 ++ BitVec.ofNat 55 w.2)).extractLsb' (8 * k) 8) ∧
          t.dom s.cur.1 s.myDomNo =
            if h = 0 then { dm with commit0 := cnt + 1 } else { dm with commit1 := cnt + 1 }) ∧
      (dm.commitKib * 32 ≤ cnt → exec (.stWc g sz d m) s = .next (s.raise 0x1A a))

/-- R100, R255, R256, R292: a fence whose prior accesses have performed only advances the pc; an acquire fence waits
only for the reads of the thread's matrix commands, and a release for every prior access. A prefetch changes nothing
but the pc, and asks the translation station for a global line. -/
def Claims.FenceAndPrefetch : Prop :=
  ∀ (s : State) (g : Guard) (o : Order) (llc : Bool) (m : MAddr),
    (s.runs g [] true 0 = true →
      (o.ord = .acq → exec (.fence g o) s =
        .next (if s.myDom.readsDone s.cur.2 then s.advance else s.park (.fence g o) .loads)) ∧
      (o.ord ≠ .acq → s.orderMet o = true → exec (.fence g o) s = .next s.advance) ∧
      (o.ord = .rel ∨ o.ord = .ar → s.priorDone s.cur.1 s.cur.2 = false →
        exec (.fence g o) s = .next (s.park (.fence g o) .prior))) ∧
    (s.runs g [m.base, m.idx] true 0 = true →
      let a := s.rx m.base + s.rx m.idx + m.off.signExtend 64
      let va := (a.extractLsb' 0 55).toNat / 128 * 128
      (a.extractLsb' 56 8 ≠ 0 ∨ a.getLsbD 55 = true → exec (.pf g llc m) s = .next s.advance) ∧
      (a.extractLsb' 56 8 = 0 → a.getLsbD 55 = false →
        ∃ t msg x, exec (.pf g llc m) s = .next t ∧ s.me.sameRegs t.me ∧ t.me.pc = s.me.pc + 8 ∧ t.me.run = .ready ∧
          t.me.outst = s.me.outst ∧ s.sameMemory t ∧ s.me.sameSystem t.me ∧ s.otherThreads t s.cur.1 s.cur.2 ∧
          t.flight = s.flight ++ [.meshRoute (s.nodeOf s.cur.1) msg] ∧ msg.typ = 0x01 ∧
          msg.dst = .station (xlatStation s.myDom.pid va) ∧ msg.pay = .access x ∧ x.kind = .read ∧
          x.elems = [⟨0, a, BitVec.ofNat 64 va, 128, 0, 0⟩]))

/-- R100, R251, R255, R256: wave-commit stores, fences and prefetches. -/
def Obligations.CommitsFencesPrefetch : Prop :=
  Claims.WaveCommitStore ∧ Claims.FenceAndPrefetch


/-! ## Control, traps and waits -/

/-- R241 to R243: `nop`, branches, calls with their links, and `loop`, which always branches with x0; a target at or
above CODE_SIZE raises code range, an unaligned `jr` target unaligned, and neither writes the link. -/
def Obligations.ControlTransfers : Prop :=
  ∀ (s : State) (g : Guard) (d a : XReg) (off : BitVec 45),
    let pc := s.me.pc
    let dest : W64 := pc + off.signExtend 64 * 8
    let size := s.myDom.codeSize
    (s.runs g [] true 0 = true → exec (.nop g) s = .next s.advance) ∧
    (s.clear g [] true 0 = true →
      (dest.toNat < size → exec (.br g off) s = .next (s.goto dest)) ∧
      (size ≤ dest.toNat → exec (.br g off) s = .next (s.raise 0x17 dest))) ∧
    (s.clear g [d] true 0 = true →
      (dest.toNat < size → exec (.call g d off) s = .next ((s.wx d (pc + 8)).goto dest)) ∧
      (size ≤ dest.toNat → exec (.call g d off) s = .next (s.raise 0x17 dest)) ∧
      (let c := s.rx d - 1
       let nxt := if c = 0 then pc + 8 else dest
       (nxt.toNat < size → exec (.loop g d off) s = .next ((s.wx d c).goto nxt)) ∧
       (size ≤ nxt.toNat → exec (.loop g d off) s = .next (s.raise 0x17 nxt)) ∧ (d = 0 → nxt = dest))) ∧
    (s.clear g [d, a] true 0 = true →
      ((s.rx a).toNat % 8 = 0 → (s.rx a).toNat < size →
        exec (.jr g d a) s = .next ((s.wx d (pc + 8)).goto (s.rx a))) ∧
      ((s.rx a).toNat % 8 ≠ 0 → exec (.jr g d a) s = .next (s.raise 0x05 (s.rx a))) ∧
      ((s.rx a).toNat % 8 = 0 → size ≤ (s.rx a).toNat → exec (.jr g d a) s = .next (s.raise 0x17 (s.rx a))))

/-- R243, `loop`: c is x[d] minus 1 modulo 2^64, x[d] takes c, and the branch is taken while c is not 0; with x0 as
the counter it is always taken. The word holds opcode 0x05, the guard, the counter register and the offset. -/
def Obligations.LoopCounts : Prop :=
  ∀ (s : State) (g : Guard) (d : XReg) (off : BitVec 45), s.clear g [d] true 0 = true →
    let c := s.rx d - 1
    let next := if c ≠ 0 then s.me.pc + off.signExtend 64 * 8 else s.me.pc + 8
    next.toNat < s.myDom.codeSize →
    decode (0x05#8 ++ encG g ++ d ++ off) = .ok (.loop g d off) ∧
    ∃ t, exec (.loop g d off) s = .next t ∧ t.me.pc = next ∧ (d ≠ 0 → t.rx d = c) ∧ (d = 0 → c = BitVec.allOnes 64) ∧
      s.me.sameBut d.toNat t.me ∧ s.me.sameSystem t.me ∧ s.onlyMe t

/-- R244, R245: `waitc` completes at once with TIME in x[d] when TIME has reached the target, and parks otherwise;
`yield` retires, and the thread stays out of the rotation. -/
def Claims.TimedWaitAndYield : Prop :=
  ∀ (s : State) (g : Guard) (d a : XReg) (imm : BitVec 32),
    (s.runs g [d, a] true 0 = true →
      let dest := s.rx a + imm.setWidth 64
      (dest.toNat ≤ s.time.toNat → exec (.waitc g d a imm) s = .next (s.wrote d s.time)) ∧
      (s.time.toNat < dest.toNat → exec (.waitc g d a imm) s = .next (s.park (.waitc g d a imm) (.waitc dest)))) ∧
    (s.runs g [] true 0 = true → ∃ t, exec (.yield g) s = .next t ∧ t.me.yielded = true ∧ t.me.pc = s.me.pc + 8 ∧
      t.me.run = .ready ∧ s.me.sameRegs t.me ∧ s.me.sameSystem t.me ∧ s.onlyMe t)

/-- R36, R246, R265, R354: `exit` and `sdone` report a failed matrix command as data lost, before the code range is
checked; then they wait for every prior access and end the thread's step; the last started thread of the stage makes
the tile's stage-done event follow. -/
def Claims.StepEnds : Prop :=
  ∀ (s : State) (g : Guard), s.clear g [] true 0 = true → ∀ i ∈ [Instr.exit g, .sdone g],
    (∀ pc rest, s.me.mfail = pc :: rest →
      exec i s = .next ((s.modMe fun t => { t with mfail := rest }).raise 0x13 pc)) ∧
    (s.me.mfail = [] → s.nextOk = false → exec i s = .next (s.raise 0x17 (s.me.pc + 8))) ∧
    (s.me.mfail = [] → s.nextOk = true →
      (s.priorDone s.cur.1 s.cur.2 = false → exec i s = .next (s.park i .prior)) ∧
      (s.priorDone s.cur.1 s.cur.2 = true → ∃ t, exec i s = .next t ∧ t.me.run = .done ∧ t.me.pc = s.me.pc + 8 ∧ s.me.sameRegs t.me ∧
        s.me.sameSystem t.me ∧ s.sameMemory t ∧ s.otherThreads t s.cur.1 s.cur.2 ∧
        ((∀ k < s.myDom.nThreads, (s.cur.1, s.myDom.thrFirst + k) ≠ s.cur →
            (s.thread s.cur.1 (s.myDom.thrFirst + k)).run = .done) →
          t.flight = s.flight ++ [.stageDone s.cur.1 s.myDomNo]) ∧
        ((∃ k < s.myDom.nThreads, (s.cur.1, s.myDom.thrFirst + k) ≠ s.cur ∧
            (s.thread s.cur.1 (s.myDom.thrFirst + k)).run ≠ .done) → t.flight = s.flight)))

/-- R36, R244 to R246, R265: timed waits, yields and the end of a thread's step. -/
def Obligations.WaitsAndStepEnds : Prop :=
  Claims.TimedWaitAndYield ∧ Claims.StepEnds


namespace Sys2Proof.Machine

/-- Taking cause c with value v (R345, R346): what entering the handler saves and where it goes. -/
def State.entersHandler (s t : State) (c : Nat) (v : W64) : Prop :=
  t.me.pprv = s.me.priv ∧ t.me.cause = BitVec.ofNat 6 c ∧
    t.me.trapPc = (if c = 0x15 then s.me.pc + 8 else s.me.pc).setWidth 32 ∧ t.me.trapVal = v ∧
    t.me.priv = (if s.me.priv = 0 then 1 else s.me.priv) ∧ t.me.pc = s.myDom.trapBase.setWidth 64 ∧
    s.me.sameRegs t.me ∧ t.me.fmtA = s.me.fmtA ∧ t.me.fmtB = s.me.fmtB ∧ t.me.scaleA = s.me.scaleA ∧
    t.me.scaleB = s.me.scaleB ∧ s.sameMemory t ∧ s.otherThreads t s.cur.1 s.cur.2 ∧ s.sameTiles t ∧ s.sameBlocks t ∧
    s.sameJobs t ∧ t.flight = s.flight

/-- The thread stops, and an escalation with this code goes to the service tile of the quadrant (R350). -/
def State.escalates (s t : State) (code req : Nat) (v : W64) (pc : BitVec 32) : Prop :=
  t.flight = s.flight ++ [.meshRoute (s.nodeOf s.cur.1)
    (s.tileMsg s.cur.1 s.myDomNo 0x21 (.service (quadrantOf (s.nodeOf s.cur.1))) code
      (.words v (BitVec.ofNat 2 req ++ BitVec.ofNat 12 s.cur.1 ++ BitVec.ofNat 2 s.myDomNo ++ BitVec.ofNat 4 s.cur.2 ++
        0#12 ++ pc)))] ∧ s.me.sameRegs t.me ∧ t.me.pc = s.me.pc ∧ s.sameMemory t ∧ s.otherThreads t s.cur.1 s.cur.2

end Sys2Proof.Machine

/-- R345, R346, R350: taking a cause saves PRIV, CAUSE, TRAP_PC and TRAP_VAL, raises PRIV to at least 1 and goes to
TRAP_BASE, and changes no register, byte or other thread; the thread leaves its rotation until its entry 8 tile cycles
after its pass. Without a handler, or with one in progress, it stops and escalates 0x32 or 0x31. -/
def Claims.TrapEntry : Prop :=
  ∀ (s : State) (c : Nat) (v : W64),
    let t := s.raise c v
    t.timers = s.timers ++ [((.tile, s.tcycle + 16), .handlerEntry s.cur.1 s.cur.2)] ∧
    (s.myDom.trapBase ≠ 0 → s.me.cause = 0 → s.entersHandler t c v ∧ t.me.run = .entering 0) ∧
    (s.myDom.trapBase = 0 → t.me.run = .entering 0x32 ∧
      s.escalates t 0x32 (if c = 0x13 then 2 else 1) v ((if c = 0x15 then s.me.pc + 8 else s.me.pc).setWidth 32)) ∧
    (s.myDom.trapBase ≠ 0 → s.me.cause ≠ 0 → t.me.run = .entering 0x31 ∧
      s.escalates t 0x31 (if c = 0x13 then 2 else 1) v ((if c = 0x15 then s.me.pc + 8 else s.me.pc).setWidth 32))

/-- R241, R247, R351: `ill` raises illegal opcode whatever its other bits, `brk` breakpoint at every privilege, `trap`
the software cause at user privilege; above it `trap` stops the thread and escalates, and after request 0 the thread
is owed an acknowledgement. -/
def Claims.TrapInstructions : Prop :=
  ∀ (s : State) (g : Guard) (imm : BitVec 32) (rest : BitVec 56),
    exec (.ill rest) s = .next (s.raise 0x01 (0#8 ++ rest)) ∧
    (s.clear g [] true 0 = true →
      exec (.brk g imm) s = .next (s.raise 0x14 (imm.setWidth 64)) ∧
      (s.me.priv = 0 → exec (.trap g imm) s = .next (s.raise 0x15 (imm.setWidth 64))) ∧
      (s.me.priv ≠ 0 → s.nextOk = true → ∃ t, exec (.trap g imm) s = .next t ∧
        s.escalates t 0x33 (imm.extractLsb' 0 2).toNat ((imm.extractLsb' 2 30).setWidth 64) (s.me.pc.setWidth 32) ∧
        t.me.run = .stopped ∧ (t.me.owed = true ↔ imm.extractLsb' 0 2 = 0)))

/-- R241, R247, R345, R346, R350, R351: taking a cause, and the instructions whose effect it is. -/
def Obligations.TrapsTaken : Prop :=
  Claims.TrapEntry ∧ Claims.TrapInstructions


/-- R314, R347: `eret` restores PRIV and pc and clears CAUSE; it needs runtime privilege; an unaligned TRAP_PC, or one
at or above CODE_SIZE, raises its cause. -/
def Obligations.TrapReturn : Prop :=
  ∀ (s : State) (g : Guard),
    let back : W64 := s.me.trapPc.setWidth 64
    (s.clear g [] true 1 = true → back.toNat % 8 = 0 → back.toNat < s.myDom.codeSize →
      ∃ t, exec (.eret g) s = .next t ∧ t.me.priv = s.me.pprv ∧ t.me.pc = back ∧ t.me.cause = 0 ∧ t.me.pprv = s.me.pprv ∧ t.me.run = .ready ∧
        t.me.trapPc = s.me.trapPc ∧ t.me.trapVal = s.me.trapVal ∧ s.me.sameRegs t.me ∧ s.onlyMe t) ∧
    (s.clear g [] true 1 = true → back.toNat % 8 ≠ 0 → exec (.eret g) s = .next (s.raise 0x05 back)) ∧
    (s.clear g [] true 1 = true → back.toNat % 8 = 0 → s.myDom.codeSize ≤ back.toNat →
      exec (.eret g) s = .next (s.raise 0x17 back)) ∧
    (s.me.priv = 0 → exec (.eret g) s = .next (s.raise 0x04 (encode (.eret g))))

/-! ## Guards, and the frames of the scalar instructions -/

/-- Every step of a register, a predicate or the pc alone leaves everything else as it was, and x0 and p0 keep their
constants (R54, R195, R198). -/
def Claims.ScalarFrames : Prop :=
  ∀ (s : State) (d : XReg) (v : W64) (p : PReg) (b : Bool) (pc : W64),
    (s.me.sameBut d.toNat (s.wrote d v).me ∧ ((s.wrote d v).rx d = if d = 0 then 0 else v) ∧ (s.wrote d v).me.pc = s.me.pc + 8 ∧
      (s.wrote d v).me.run = .ready ∧ s.me.sameSystem (s.wrote d v).me ∧ s.onlyMe (s.wrote d v)) ∧
    ((∀ q, (s.decided p b).rp q = if q = 0 then true else if q = p then b else s.rp q) ∧ (s.decided p b).me.x = s.me.x ∧
      (s.decided p b).me.m = s.me.m ∧ (s.decided p b).me.v = s.me.v ∧ (s.decided p b).me.pc = s.me.pc + 8 ∧
      (s.decided p b).me.run = .ready ∧ s.me.sameSystem (s.decided p b).me ∧ s.onlyMe (s.decided p b)) ∧
    (s.me.sameRegs (s.goto pc).me ∧ (s.goto pc).me.pc = pc ∧ (s.goto pc).me.run = .ready ∧
      s.me.sameSystem (s.goto pc).me ∧ s.onlyMe (s.goto pc))

/-- R209, R210, R354: an instruction whose guard does not hold only advances the pc, or raises one of the three causes
that its word alone gives (illegal encoding, register or block not of the thread, privilege); it never does its own
work. -/
def Claims.GuardedOff : Prop :=
  ∀ (s : State) (i : Instr), i.hasWord = true → (∀ r, i ≠ .ill r) →
    s.guardHolds ⟨(encode i).getLsbD 55, (encode i).extractLsb' 52 3⟩ = false →
    exec i s = .next s.advance ∨ exec i s = .next (s.raise 0x03 (encode i)) ∨
      exec i s = .next (s.raise 0x0D (encode i)) ∨ exec i s = .next (s.raise 0x04 (encode i))

/-- R54, R195, R198, R209, R210, R354: the frame of register-only instructions, and what a guard that does not hold
leaves. -/
def Obligations.FramesAndGuards : Prop :=
  Claims.ScalarFrames ∧ Claims.GuardedOff


/-! ## Status registers -/

namespace Sys2Proof.Machine

/-- The writable bits of a status register (R317). -/
def csrBits (n : Nat) : W64 :=
  match n with
  | 0x010 => 0xFFFFFFFF
  | 0x011 => 0xFF
  | 0x012 => 0xFFFFFFFF
  | 0x013 => 0xFFFFFFFFFFFFFFFF
  | 0x020 => 0xF
  | 0x021 => 0xF
  | 0x022 => 0xFFFFFF
  | 0x023 => 0xFFFFFF
  | 0x040 => 0xFFFFFFFF
  | 0x041 => 0xF
  | _ => 0

/-- The least privilege that writes a status register: 1 for 0x010 to 0x013, 0x040 and 0x041 (R317). -/
def csrNeeds (n : Nat) : Nat := if n ∈ [0x010, 0x011, 0x012, 0x013, 0x040, 0x041] then 1 else 0

end Sys2Proof.Machine

/-- R313, R317, R318: the value that `csrr` reads, for each status register; reading 0x010 to 0x013 at user privilege
raises privilege. -/
def Claims.StatusReads : Prop :=
  ∀ (s : State) (g : Guard) (d : XReg) (n : BitVec 14),
    let t := s.me
    let dm := s.myDom
    let table : List (Nat × W64) := [(0x000, s.time), (0x001, BitVec.ofNat 64 s.cur.1),
      (0x002, BitVec.ofNat 64 (t.idx % 32 * 65536 + s.cur.2)), (0x003, BitVec.ofNat 64 s.myDomNo),
      (0x004, t.priv.setWidth 64), (0x005, s.module.setWidth 64), (0x010, dm.trapBase.setWidth 64),
      (0x011, (t.pprv ++ t.cause).setWidth 64), (0x012, t.trapPc.setWidth 64), (0x013, t.trapVal),
      (0x020, t.fmtA.setWidth 64), (0x021, t.fmtB.setWidth 64), (0x022, t.scaleA.setWidth 64),
      (0x023, t.scaleB.setWidth 64), (0x030, dm.stage.setWidth 64), (0x031, dm.wave.setWidth 64), (0x032, dm.step),
      (0x033, dm.marker), (0x040, dm.feLimit.setWidth 64), (0x041, dm.permMask.setWidth 64), (0x050, s.snapTime)]
    (∀ q ∈ table, n.toNat = q.1 →
      s.runs g [d] true (if 0x010 ≤ q.1 ∧ q.1 ≤ 0x013 then 1 else 0) = true →
      exec (.csrr g d n) s = .next (s.wrote d q.2)) ∧
    (∀ k < 16, n.toNat = 0x100 + k → s.runs g [d] true 0 = true →
      exec (.csrr g d n) s = .next (s.wrote d ((Table.get 0 (s.tile s.cur.1).table k).setWidth 64))) ∧
    (0x010 ≤ n.toNat → n.toNat ≤ 0x013 → s.regsOk [d] = true → s.me.priv = 0 →
      exec (.csrr g d n) s = .next (s.raise 0x04 (encode (.csrr g d n))))

/-- R313, R317, R318: `csrw`, `csrs` and `csrc` read the old value into x[d] and replace, set or clear the writable
bits by x[a]; PPRIV 3 is written as 1; no other status register changes. -/
def Claims.StatusWrites : Prop :=
  ∀ (s : State) (g : Guard) (d a : XReg) (n : BitVec 14), s.runs g [d, a] true (csrNeeds n.toNat) = true →
    let old := s.csrValue n.toNat
    let w := csrBits n.toNat
    let x := s.rx a
    let put (v : W64) : W64 :=
      let r := (old &&& ~~~w) ||| (v &&& w)
      if n.toNat = 0x011 ∧ r.extractLsb' 6 2 = 3 then r &&& ~~~(0x80 : W64) else r
    ∀ q ∈ [(Instr.csrw g d a n, put x), (.csrs g d a n, put (old ||| x)), (.csrc g d a n, put (old &&& ~~~x))],
      ∃ t, exec q.1 s = .next t ∧ (d ≠ 0 → t.rx d = old) ∧ t.csrValue n.toNat = q.2 ∧
        (∀ m, m ≠ n.toNat → m < 2 ^ 14 → t.csrValue m = s.csrValue m) ∧ t.me.pc = s.me.pc + 8 ∧ t.me.run = .ready ∧
        s.me.sameBut d.toNat t.me ∧ s.sameMemory t ∧ s.otherThreads t s.cur.1 s.cur.2 ∧ s.sameBlocks t ∧
        t.flight = s.flight ∧ t.timers = s.timers

/-- R313, R317, R318: reads and writes of every status register. -/
def Obligations.StatusRegisters : Prop :=
  Claims.StatusReads ∧ Claims.StatusWrites


/-! ## Mailbox, barriers, markers -/

namespace Sys2Proof.Machine

/-- The oldest entry of the thread's partition that matches a key: the tag's bits under the mask agree (R178, R262).
-/
def State.oldest (s : State) (k : BitVec 32) : Option (BitVec 256) :=
  s.myDom.mbox.find? fun e => decide ((e.extractLsb' 48 16 ^^^ k.extractLsb' 0 16) &&& k.extractLsb' 16 16 = 0)

/-- x[d..d+3] hold an entry and the instruction has retired, with no other register and no byte changed (R262). -/
def State.tookEntry (s t : State) (d : XReg) (e : BitVec 256) : Prop :=
  (∀ j < 4, t.me.rx (d.toNat + j) = e.extractLsb' (64 * j) 64) ∧
    (∀ r, r < d.toNat ∨ d.toNat + 4 ≤ r → t.me.rx r = s.me.rx r) ∧ t.me.p = s.me.p ∧ t.me.m = s.me.m ∧ t.me.v = s.me.v ∧
    t.me.pc = s.me.pc + 8 ∧ t.me.run = .ready ∧ s.me.sameSystem t.me ∧ s.sameMemory t ∧
    s.otherThreads t s.cur.1 s.cur.2 ∧ t.flight = s.flight

end Sys2Proof.Machine

/-- R178, R262: `take` and `await` remove the oldest matching entry and write it, `peek` leaves it; with none `take`
and `peek` write zeros and `await` parks with nothing changed. -/
def Claims.MailboxReads : Prop :=
  ∀ (s : State) (g : Guard) (d a : XReg) (imm : BitVec 32), d.toNat % 4 = 0 → 4 ≤ d.toNat →
    s.runs g [d + 3, a] true 0 = true →
    let k := imm ||| (s.rx a).setWidth 32
    let box (t : State) := (t.dom s.cur.1 s.myDomNo).mbox
    (∀ e, s.oldest k = some e →
      (∃ t, exec (.take g d a imm) s = .next t ∧ s.tookEntry t d e ∧
        ∃ x y, s.myDom.mbox = x ++ e :: y ∧ box t = x ++ y ∧ ∀ f ∈ x, f ≠ e) ∧
      (∃ t, exec (.await g d a imm) s = .next t ∧ s.tookEntry t d e ∧
        ∃ x y, s.myDom.mbox = x ++ e :: y ∧ box t = x ++ y ∧ ∀ f ∈ x, f ≠ e) ∧
      ∃ t, exec (.peek g d a imm) s = .next t ∧ s.tookEntry t d e ∧ box t = s.myDom.mbox) ∧
    (s.oldest k = none →
      (∃ t, exec (.take g d a imm) s = .next t ∧ s.tookEntry t d 0 ∧ box t = s.myDom.mbox) ∧
      (∃ t, exec (.peek g d a imm) s = .next t ∧ s.tookEntry t d 0 ∧ box t = s.myDom.mbox) ∧
      exec (.await g d a imm) s = .next (s.park (.await g d a imm) (.mbox k)))

/-- R261, R354, R355: `post` sends one message of type 0x05 with the two words to the tile that a shared address
names, and retires; another window raises 0x06, a tile outside the fabric 0x08, a message refused for 2^16 cycles
0x12; four held messages, or an earlier access that has not performed, make it wait. -/
def Claims.MailboxPost : Prop :=
  ∀ (s : State) (g : Guard) (a b c : XReg) (tag : BitVec 16), s.clear g [a, b, c] true 0 = true →
    let ea := s.rx a
    let f := (ea.extractLsb' 36 12).toNat
    let dm := s.myDom
    let i : Instr := .post g a b c tag
    (ea.extractLsb' 56 8 ≠ 0xE2 → exec i s = .next (s.raise 0x06 ea)) ∧
    (ea.extractLsb' 56 8 = 0xE2 → dm.fheight ≤ f / 64 ∨ dm.fwidth ≤ f % 64 → exec i s = .next (s.raise 0x08 ea)) ∧
    (ea.extractLsb' 56 8 = 0xE2 → f / 64 < dm.fheight → f % 64 < dm.fwidth →
      (∀ x rest, dm.held = x :: rest → (∃ y ∈ dm.held, y.since + 0x10000 ≤ s.mcycle) →
        exec i s = .next (s.raise 0x12 x.dest)) ∧
      ((∀ y ∈ dm.held, s.mcycle < y.since + 0x10000) → s.nextOk = true →
        (s.priorDone s.cur.1 s.cur.2 = false ∨ 4 ≤ dm.held.length → exec i s = .next (s.park i .nic)) ∧
        (s.priorDone s.cur.1 s.cur.2 = true → dm.held.length < 4 →
          ∃ t m x, exec i s = .next t ∧ t.flight = s.flight ++ [.meshRoute (s.nodeOf s.cur.1) m] ∧ m.typ = 0x05 ∧
            m.src = s.nodeOf s.cur.1 ∧ m.dst = s.nodeOf ((dm.frow0 + f / 64) * 64 + dm.fcol0 + f % 64) ∧
            m.arg = BitVec.ofNat 32 tag.toNat ∧ m.pay = .post (s.rx b) (s.rx c) ea x ∧ s.me.sameRegs t.me ∧
            t.me.pc = s.me.pc + 8 ∧ t.me.run = .ready ∧ s.sameMemory t ∧ s.me.sameSystem t.me ∧ s.otherThreads t s.cur.1 s.cur.2)))

/-- R178, R261, R262, R354, R355: the mailbox, read and sent to. -/
def Obligations.Mailbox : Prop :=
  Claims.MailboxReads ∧ Claims.MailboxPost


namespace Sys2Proof.Machine

/-- The word that `bartest` reads: DONE, ARMED and PENDING (R179). -/
def barrierWord (b : Barrier) : W64 :=
  (if b.done then 1 <<< 63 else 0) ||| (if b.armed then 1 <<< 62 else 0) ||| b.pending.setWidth 64

/-- An arrival barrier after a change: armed with nothing pending, it is done (R180). -/
def barrierAfter (b : Barrier) : Barrier := if b.armed = true ∧ b.pending = 0 then { b with done := true } else b

/-- Armed with PENDING negative (R355). -/
def overcounted (b : Barrier) : Bool := b.armed && b.pending.msb

/-- The barrier of the issuing tile becomes `b`, the instruction retires, and nothing else changes. -/
def State.barrierSet (s t : State) (n : Nat) (b : Barrier) : Prop :=
  (∀ T k, t.bar T k = if (T, k) = (s.cur.1, n) then b else s.bar T k) ∧ s.me.sameRegs t.me ∧ t.me.pc = s.me.pc + 8 ∧
    t.me.run = .ready ∧ s.sameMemory t ∧ t.flight = s.flight ∧ s.me.sameSystem t.me ∧ s.otherThreads t s.cur.1 s.cur.2

/-- No thread of the tile waits on the barrier. -/
def State.noWaiters (s : State) (n : Nat) : Prop :=
  ∀ h < 16, ∀ since, (s.thread s.cur.1 h).run ≠ .parked (.bar n) since

end Sys2Proof.Machine

/-- R179, R180, R263, R355: the five barrier instructions on a barrier that the domain holds, when no thread waits on
it; `bararr` waits for the thread's accesses and makes no subtraction that would overcount, `barwait` goes on when the
barrier is done and waits otherwise; a barrier that the domain does not hold raises 0x0F. -/
def Claims.Barriers : Prop :=
  ∀ (s : State) (g : Guard) (d a : XReg) (b : BitVec 4) (arm : Bool), s.runs g [d, a] true 0 = true →
    let n := b.toNat
    let x := s.bar s.cur.1 n
    let sub : Barrier := { x with pending := x.pending - (s.rx a).setWidth 36 }
    let all : List Instr := [.barinit g b, .barexp g a b arm, .bararr g a b, .barwait g b, .bartest g d b]
    (x.owner ≠ s.myDomNo + 1 → ∀ i ∈ all, exec i s = .next (s.raise 0x0F (BitVec.ofNat 64 (512 + n)))) ∧
    (x.owner = s.myDomNo + 1 →
      (∃ t, exec (.barinit g b) s = .next t ∧ s.barrierSet t n { x with done := false, armed := false, pending := 0 }) ∧
      (overcounted x = true → ∀ i ∈ [Instr.barexp g a b arm, .barwait g b, .bartest g d b],
        exec i s = .next (s.raise 0x11 (barrierWord x))) ∧
      (overcounted sub = true → exec (.bararr g a b) s = .next (s.raise 0x11 (barrierWord x))) ∧
      (overcounted x = false →
        (s.noWaiters n → ∃ t, exec (.barexp g a b arm) s = .next t ∧
          s.barrierSet t n (barrierAfter { x with pending := x.pending + (s.rx a).setWidth 36, armed := x.armed || arm })) ∧
        (x.done = true → exec (.barwait g b) s = .next s.advance) ∧
        (x.done = false → exec (.barwait g b) s = .next (s.park (.barwait g b) (.bar n))) ∧
        exec (.bartest g d b) s = .next (s.wrote d (barrierWord x))) ∧
      (overcounted sub = false → s.priorDone s.cur.1 s.cur.2 = true → s.noWaiters n →
        ∃ t, exec (.bararr g a b) s = .next t ∧ s.barrierSet t n (barrierAfter sub)) ∧
      (overcounted sub = false → s.priorDone s.cur.1 s.cur.2 = false →
        exec (.bararr g a b) s = .next (s.park (.bararr g a b) .prior)))

/-- R180: when a barrier becomes done, every thread of the tile that waits on it retires its `barwait`. -/
def Claims.BarrierWakes : Prop :=
  ∀ (s : State) (T n count : Nat),
    let x := s.bar T n
    let p := x.pending - BitVec.ofNat 36 count
    x.armed = true → p = 0 →
    let t := s.barArrive T n count
    t.bar T n = { x with pending := 0, done := true } ∧
    ∀ h < 16, ∀ since, (s.thread T h).run = .parked (.bar n) since →
      (t.thread T h).run = .ready ∧ (t.thread T h).pc = (s.thread T h).pc + 8 ∧
        (s.thread T h).sameRegs (t.thread T h)

/-- R179, R180, R263, R355: arrival barriers and the threads that wait on them. -/
def Obligations.BarrierUse : Prop :=
  Claims.Barriers ∧ Claims.BarrierWakes


/-- R90, R264: `mark` raises the tile's MARKER to at least x[a] plus the immediate once the thread's accesses have
performed, and a rise in a banded domain is contributed to the row's marker reduction, by one message of type 0x11 to
each of the row's two stations (R10, R135); a lower value changes nothing. -/
def Obligations.Markers : Prop :=
  ∀ (s : State) (g : Guard) (a : XReg) (imm : BitVec 32), s.runs g [a] true 0 = true →
    let m := s.rx a + imm.setWidth 64
    let dm := s.myDom
    (s.priorDone s.cur.1 s.cur.2 = false → exec (.mark g a imm) s = .next (s.park (.mark g a imm) .prior)) ∧
    (s.priorDone s.cur.1 s.cur.2 = true →
      (m.toNat ≤ dm.marker.toNat → exec (.mark g a imm) s = .next s.advance) ∧
      (dm.marker.toNat < m.toNat → ∃ t, exec (.mark g a imm) s = .next t ∧
        t.dom s.cur.1 s.myDomNo = { dm with marker := m } ∧ s.me.sameRegs t.me ∧ t.me.pc = s.me.pc + 8 ∧
        t.me.run = .ready ∧ s.sameMemory t ∧ s.me.sameSystem t.me ∧ s.otherThreads t s.cur.1 s.cur.2 ∧
        (dm.band = 0 → t.flight = s.flight) ∧
        (dm.band ≠ 0 → ∃ west east : Msg,
          t.flight = s.flight ++ [.meshRoute (s.nodeOf s.cur.1) west, .meshRoute (s.nodeOf s.cur.1) east] ∧
            west.dst = .station (s.cur.1 / 64) ∧ east.dst = .station (32 + s.cur.1 / 64) ∧
            ∀ c ∈ [west, east], c.typ = 0x11 ∧ c.src = s.nodeOf s.cur.1 ∧
              c.pay = .ctrl (.marker (dm.band - 1) dm.bRow s.cur.1 dm.stage.toNat
                ((dm.wave.toNat + 2 ^ 32 - dm.firstWave) % 2 ^ 32) dm.step.toNat m.toNat))))

/-! ## Configuration of other tiles, contexts, the snapshot trigger -/

namespace Sys2Proof.Machine

/-- One configuration message of type 0x06 to a block, and the thread waits for its acknowledgement (R315). -/
def State.configures (s t : State) (i : Instr) (dst : Node) (op a b : Nat) : Prop :=
  ∃ m x, t.flight = s.flight ++ [.meshRoute (s.nodeOf s.cur.1) m] ∧ m.typ = 0x06 ∧ m.dst = dst ∧ m.pay = .config op a b x ∧
    t.me.run = .parked .reply s.tcycle ∧ t.me.pend = some i ∧ t.me.pc = s.me.pc ∧ s.me.sameRegs t.me ∧ s.sameMemory t ∧
    s.me.sameSystem t.me ∧ s.otherThreads t s.cur.1 s.cur.2

end Sys2Proof.Machine

/-- R315, R316: `repart` and `slotw` need service privilege, `jkill` and `snap` runtime privilege; the first three
send their operation and wait, `jkill` at runtime privilege answers 2 for another job; `snap` reads the old value and
writes the new one. -/
def Obligations.Configuration : Prop :=
  ∀ (s : State) (g : Guard) (d a : XReg) (mode dom : BitVec 2) (herd : Bool),
    let x := s.rx a
    let T := (x.extractLsb' 0 12).toNat
    let pid := (x.extractLsb' 0 16).toNat
    (s.runs g [d, a] true 2 = true → T < 2048 →
      (∃ t, exec (.repart g d a mode) s = .next t ∧ s.configures t (.repart g d a mode) (s.nodeOf T) 1 T mode.toNat) ∧
      ∃ t, exec (.slotw g d a dom) s = .next t ∧
        s.configures t (.slotw g d a dom) (s.nodeOf T) 2 T ((x.extractLsb' 16 8).toNat * 4 + dom.toNat)) ∧
    (s.runs g [d, a] true 1 = true →
      (2 ≤ s.me.priv.toNat ∨ pid = s.myDom.pid → ∃ t, exec (.jkill g d a) s = .next t ∧
        s.configures t (.jkill g d a) (.service (s.launchTile pid (s.nodeOf s.cur.1))) 3 pid 0) ∧
      (s.me.priv.toNat < 2 → pid ≠ s.myDom.pid → exec (.jkill g d a) s = .next (s.wrote d 2)) ∧
      ∃ t, exec (.snap g d a herd) s = .next t ∧ t.snapTime = x ∧ (d ≠ 0 → t.rx d = s.snapTime) ∧
        s.me.sameBut d.toNat t.me ∧ t.me.pc = s.me.pc + 8 ∧ t.me.run = .ready ∧ s.sameMemory t ∧
        s.me.sameSystem t.me ∧ s.otherThreads t s.cur.1 s.cur.2 ∧
        (herd = false → t.flight = s.flight) ∧
        (herd = true → ∀ m < 32, s.members.getLsbD m = true → m ≠ s.module.toNat →
          ∃ msg : Msg, .meshRoute (s.nodeOf s.cur.1) msg ∈ t.flight ∧ (∃ w, msg.away = some w ∧ w.dst = m) ∧
            ∃ y, msg.pay = .config 4 x.toNat 0 y)) ∧
    (s.regsOk [d, a] = true → s.me.priv.toNat < 2 →
      exec (.repart g d a mode) s = .next (s.raise 0x04 (encode (.repart g d a mode))) ∧
      exec (.slotw g d a dom) s = .next (s.raise 0x04 (encode (.slotw g d a dom)))) ∧
    (s.regsOk [d, a] = true → s.me.priv = 0 →
      exec (.jkill g d a) s = .next (s.raise 0x04 (encode (.jkill g d a))) ∧
      exec (.snap g d a herd) s = .next (s.raise 0x04 (encode (.snap g d a herd))))

namespace Sys2Proof.Machine

/-- x[a] of `ctxsave` and `ctxload` names thread h of the domain, not the issuing one, and an allotted backing area of
the mode's context size at `off` (R319, R320, R355). -/
def State.namesContext (s : State) (v : W64) (h off : Nat) : Prop :=
  v.extractLsb' 4 4 = 0 ∧ v.extractLsb' 24 40 = 0 ∧ h = (v.extractLsb' 0 4).toNat ∧ h ≠ s.cur.2 ∧ s.myDom.thrFirst ≤ h ∧
    h < s.myDom.thrFirst + s.myDom.thrCount ∧ off = (v.extractLsb' 8 16).toNat * 256 ∧ s.myDom.lsBase ≤ off ∧
    off + contextSize s.myMode ≤ s.myDom.lsBase + s.myDom.lsSize

/-- Eight bytes of local store. -/
def State.word8 (s : State) (off : Nat) : W64 := BitVec.ofNat 64 (s.number (lsAddr s.cur.1 off) 8)

end Sys2Proof.Machine

/-- R319, R320, R355, R370: `ctxsave` of a thread with nothing in flight stops it and writes its registers to the
backing area in the layout of R319; a thread in a handler raises 0x19, a register part that has failed its check 0x13,
and a thread that is not quiet makes `ctxsave` wait. -/
def Claims.ContextSave : Prop :=
  ∀ (s : State) (g : Guard) (a : XReg) (k : Bool) (h off : Nat), s.runs g [a] true 1 = true →
    s.namesContext (s.rx a) h off →
    let u := s.thread s.cur.1 h
    (s.quiet s.cur.1 h = true → u.priv = 0 → u.cause = 0 → u.parity = [] → ∃ t, exec (.ctxsave g a k) s = .next t ∧
      (t.thread s.cur.1 h).run = .stopped ∧ u.sameRegs (t.thread s.cur.1 h) ∧
      t.word8 off = u.pc ∧ t.byte (lsAddr s.cur.1 (off + 8)) = u.p ||| 1 ∧
      t.byte (lsAddr s.cur.1 (off + 9)) = u.fmtB ++ u.fmtA ∧
      t.word8 (off + 16) = (u.scaleB.setWidth 32) ++ (u.scaleA.setWidth 32) ∧
      (∀ j < 8, t.word8 (off + 64 + 8 * j) = u.rm j) ∧ (∀ j < modeRegs s.myMode, t.word8 (off + 128 + 8 * j) = u.rx j) ∧
      (∀ j < modeRows s.myMode * modeCols s.myMode, ∀ w < 32,
        t.word8 (off + 128 + 8 * modeRegs s.myMode + 256 * j + 8 * w) = (u.rv j).extractLsb' (64 * w) 64) ∧
      (∀ c, c < lsAddr s.cur.1 off ∨ lsAddr s.cur.1 off + contextSize s.myMode ≤ c → t.byte c = s.byte c) ∧
      t.me.pc = s.me.pc + 8 ∧ t.me.run = .ready ∧ s.me.sameRegs t.me ∧ s.me.sameSystem t.me ∧
      ∀ T' h', (T', h') ≠ s.cur → (T', h') ≠ (s.cur.1, h) → t.thread T' h' = s.thread T' h') ∧
    (s.quiet s.cur.1 h = true → u.priv ≠ 0 ∨ u.cause ≠ 0 → ∃ t, exec (.ctxsave g a k) s = .next t ∧ s.sameMemory t ∧
      t.me = (s.raise 0x19 (s.rx a)).me) ∧
    (s.quiet s.cur.1 h = true → u.priv = 0 → u.cause = 0 → u.parity ≠ [] → ∃ t, exec (.ctxsave g a k) s = .next t ∧
      s.sameMemory t ∧ t.me = (s.raise 0x13 s.me.pc).me) ∧
    (s.quiet s.cur.1 h = false → ∃ t, exec (.ctxsave g a k) s = .next t ∧ t.me.run = .parked (.ctx h) s.tcycle ∧
      (t.thread s.cur.1 h).saving = true ∧ t.me.pc = s.me.pc ∧ s.me.sameRegs t.me ∧ s.sameMemory t)

/-- R319, R320, R355, R371: `ctxload` of a stopped thread gives it the registers of the backing area, or of the cache
entry that holds it, and lets it run; another thread raises 0x19, and a backing area that has failed its check 0x13.
-/
def Claims.ContextLoad : Prop :=
  ∀ (s : State) (g : Guard) (a : XReg) (k : Bool) (h off : Nat), s.runs g [a] true 1 = true →
    s.namesContext (s.rx a) h off →
    let u := s.thread s.cur.1 h
    let entry := if k = true then s.myDom.ctx1 else s.myDom.ctx0
    (u.run = .stopped → (∀ e, entry = some e → e.1 ≠ off) → s.lsBad s.cur.1 off (contextSize s.myMode) = true →
      exec (.ctxload g a k) s = .next (s.raise 0x13 (s.rx a))) ∧
    (u.run = .stopped → (∀ e, entry = some e → e.1 ≠ off) → s.lsBad s.cur.1 off (contextSize s.myMode) = false →
      ∃ t, exec (.ctxload g a k) s = .next t ∧
      (let v := t.thread s.cur.1 h
       v.run = .ready ∧ v.pc = s.word8 off ∧ (∀ j < 8, v.rp j = (decide (j = 0) || (s.byte (lsAddr s.cur.1 (off + 8))).getLsbD j)) ∧
       v.fmtA = (s.byte (lsAddr s.cur.1 (off + 9))).extractLsb' 0 4 ∧
       v.fmtB = (s.byte (lsAddr s.cur.1 (off + 9))).extractLsb' 4 4 ∧
       v.scaleA = (s.word8 (off + 16)).extractLsb' 0 24 ∧ v.scaleB = (s.word8 (off + 16)).extractLsb' 32 24 ∧
       (∀ j < 8, j ≠ 0 → v.rm j = s.word8 (off + 64 + 8 * j)) ∧
       (∀ j < modeRegs s.myMode, j ≠ 0 → v.rx j = s.word8 (off + 128 + 8 * j)) ∧
       (∀ j < modeRows s.myMode * modeCols s.myMode, ∀ w < 32, (v.rv j).extractLsb' (64 * w) 64 =
         s.word8 (off + 128 + 8 * modeRegs s.myMode + 256 * j + 8 * w))) ∧
      s.me.sameRegs t.me ∧ s.me.sameSystem t.me ∧ t.me.pc = s.me.pc + 8 ∧ t.me.run = .ready ∧ s.sameMemory t ∧
      ∀ T' h', (T', h') ≠ s.cur → (T', h') ≠ (s.cur.1, h) → t.thread T' h' = s.thread T' h') ∧
    (u.run = .stopped → ∀ b, entry = some (off, b) → ∃ t, exec (.ctxload g a k) s = .next t ∧
      t.thread s.cur.1 h =
        { loadImage s.myMode b u with run := .ready, readyAt := s.tcycle + 8, pend := none, parity := [], owed := false }) ∧
    (u.run ≠ .stopped → exec (.ctxload g a k) s = .next (s.raise 0x19 (s.rx a)))

/-- R319, R320, R355: contexts in the backing area. -/
def Obligations.Contexts : Prop :=
  Claims.ContextSave ∧ Claims.ContextLoad


/-! ## Matrix commands and data movement -/

namespace Sys2Proof.Machine

/-- The accumulator tiles and slots that a command names belong to the thread's domain (R200). -/
def State.ownsTiles (s : State) (acc step n : Nat) : Prop := ∀ j < n, s.myDom.accMask.getLsbD ((acc + j * step) % 64) = true

/-- The domain's queue has room, and no command of it is a configuration that takes no array cycle (R290, R291). -/
def State.queueOpen (s : State) : Prop :=
  s.myDom.mq.length < 16 ∧ ∀ c ∈ s.myDom.mq, c.fini = true ∨ c.left ≠ 0

/-- The command has entered its domain's queue with the array cycles that it takes, and everything else is as it was:
no byte, accumulator word or slot byte changes before the array works on it (R290, R292). -/
def State.queued (s t : State) (i : Instr) (cycles : Nat) (ok : MCmd → Prop) : Prop :=
  ∃ c, (t.dom s.cur.1 s.myDomNo).mq = s.myDom.mq ++ [c] ∧ c.ins = i ∧ c.hw = s.cur.2 ∧ c.pc = s.me.pc ∧ c.left = cycles ∧
    c.fini = false ∧ c.lost = false ∧ c.sa = s.me.scaleA.toNat ∧ c.sb = s.me.scaleB.toNat ∧ ok c ∧ s.sameMemory t ∧
    s.me.sameRegs t.me ∧ s.me.sameSystem t.me ∧ s.otherThreads t s.cur.1 s.cur.2 ∧ t.flight = s.flight

/-- The local-store offset of an operand range in the domain's allotment (R292). -/
def State.heldAt (s : State) (a : W64) (n off : Nat) : Prop := s.rangeAt a n = some off ∧ s.myDom.holds off n = true

/-- A record of n bytes can be read at issue: no earlier acquire holds it back, no earlier access of the thread may
reach its bytes, and they are there and hold no bit in error (R97, R100, R369, R387). -/
def State.readableAt (s : State) (off n : Nat) : Prop :=
  (s.me.hold = false ∨ s.priorDone s.cur.1 s.cur.2 = true) ∧ s.alone off n = true ∧ s.intact off n = true

/-- A tile has told a station of the release of its slot, by a message of type 0x11, when a domain of a band holds the
slot (R10, R135, R159). -/
def State.tellsRelease (s t : State) (T slot : Nat) : Prop :=
  ∃ out, t.flight = s.flight ++ out ∧
    ((∃ d < 4, (s.dom T d).present = true ∧ (s.dom T d).band ≠ 0 ∧ (s.dom T d).slotMask.getLsbD slot = true) → out ≠ []) ∧
    ∀ ev ∈ out, ∃ (m : Msg) (b row : Nat), ev = .meshRoute (s.nodeOf T) m ∧ m.typ = 0x11 ∧
      m.pay = .ctrl (.release b row T slot)

/-- The instruction has retired at the next pc. -/
def State.nextPc (s t : State) : Prop := t.me.pc = s.me.pc + 8 ∧ t.me.run = .ready

end Sys2Proof.Machine

/-- R290 to R293, R299 to R302: the commands that name their operands in registers enter the queue with the array
cycles of R291 and retire; `mdrainv` waits for its completion; a full queue makes the thread wait, and a tile that the
domain does not hold raises 0x0F. -/
def Claims.MatrixCommands : Prop :=
  ∀ (s : State) (g : Guard) (acc : BitVec 6) (r x : XReg) (cM1 : BitVec 12) (t : DrainTy) (k : KeyTy) (sat : Bool)
    (v : VReg) (lg : BitVec 4) (kM1 : BitVec 6),
    s.runs g [r, x] true 0 = true → s.queueOpen → s.myDom.resid = [] →
    let n := cM1.toNat + 1
    let a := s.rx r
    let e := drainBytes t
    let st := if s.rx x = 0 then 64 * e else (s.rx x).toNat
    let group := 2 ^ lg.toNat
    let sort := n * (4 * ((group + 63) / 64) + 64)
    (s.ownsTiles acc.toNat 1 n →
      (∃ u, exec (.mzero g acc cM1) s = .next u ∧ s.nextPc u ∧ s.queued u (.mzero g acc cM1) (64 * n) fun _ => True) ∧
      (∀ off, a.toNat % 64 = 0 → s.heldAt a (16384 * n) off →
        ∃ u, exec (.mload g acc r cM1) s = .next u ∧ s.nextPc u ∧
          s.queued u (.mload g acc r cM1) (64 * n) fun c => c.a = off) ∧
      (∀ off, a.toNat % e = 0 → s.heldAt a (64 * st * (n - 1) + 63 * st + 64 * e) off →
        ∃ u, exec (.mdrain g t sat acc r x cM1) s = .next u ∧ s.nextPc u ∧
          s.queued u (.mdrain g t sat acc r x cM1) (64 * n) fun c => c.a = off ∧ c.st = st)) ∧
    (s.ownsTiles acc.toNat 1 1 → s.drainGrid v n = true →
      ∃ u, exec (.mdrainv g t sat v acc r cM1) s = .next u ∧ u.me.pc = s.me.pc ∧
        u.me.run = .parked (.drainv s.myDom.mticket) s.tcycle ∧
        s.queued u (.mdrainv g t sat v acc r cM1) n fun c => c.a = (a.extractLsb' 0 6).toNat) ∧
    (∀ base out, a.toNat % 4 = 0 → (s.rx x).toNat % 8 = 0 → s.heldAt a (4 * group * n) base →
      (s.heldAt (s.rx x) (8 * group * n) out →
        ∃ u, exec (.msort g k lg x r cM1) s = .next u ∧ s.nextPc u ∧
          s.queued u (.msort g k lg x r cM1) sort fun c => c.a = base ∧ c.b = out) ∧
      (s.heldAt (s.rx x) (8 * (kM1.toNat + 1) * n) out →
        ∃ u, exec (.mtopk g k lg kM1 x r cM1) s = .next u ∧ s.nextPc u ∧
          s.queued u (.mtopk g k lg kM1 x r cM1) sort fun c => c.a = base ∧ c.b = out)) ∧
    (s.myDom.accMask.getLsbD acc.toNat = false →
      exec (.mzero g acc cM1) s = .next (s.raise 0x0F (BitVec.ofNat 64 (256 + acc.toNat))))

/-- R290, R300: with sixteen commands in the queue the issuing thread waits for an entry, and nothing else changes. -/
def Claims.MatrixQueueFull : Prop :=
  ∀ (s : State) (g : Guard) (acc : BitVec 6) (cM1 : BitVec 12), s.runs g [] true 0 = true →
    16 ≤ s.myDom.mq.length → s.ownsTiles acc.toNat 1 (cM1.toNat + 1) →
    exec (.mzero g acc cM1) s = .next (s.park (.mzero g acc cM1) .mqueue)

namespace Sys2Proof.Machine

/-- The tile-step row of 32 bytes of local store (R294). -/
def State.rowAt (s : State) (off : Nat) : TileStep := tileStep (s.lsRead s.cur.1 off 32)

/-- The bytes that a base, moved by a step at each repeat, covers lie in the domain's allotment (R292, R354). -/
def State.covers (s : State) (base step : Int) (n len : Nat) : Prop :=
  ∀ j < n, 0 ≤ base + step * (j : Int) ∧ s.myDom.holds (base + step * (j : Int)).toNat len = true

end Sys2Proof.Machine

/-- R294 to R298, R302: the commands with a record at the issuing tile enter the queue with the bytes read at issue,
the resolved formats and the array cycles of R291; a record that R295 or R298 does not accept raises 0x0E. -/
def Claims.MatrixRecords : Prop :=
  ∀ (s : State) (g : Guard) (acc : BitVec 6) (slot : BitVec 4) (r o : XReg) (cM1 : BitVec 12) (k : KeyTy) (off : Nat),
    s.runs g [o, r] true 0 = true → s.queueOpen → s.myDom.resid = [] → s.heldAt (s.rx r) 32 off →
    (s.rx r).toNat % 32 = 0 → s.readableAt off 32 →
    let n := cM1.toNat + 1
    let t := s.rowAt off
    let fa := if t.fa = 15 then s.me.fmtA.toNat else t.fa
    let fb := if t.fb = 15 then s.me.fmtB.toNat else t.fb
    let bytes := s.lsRead s.cur.1 off 32
    let sortCycles := n * (4 * ((t.k + 63) / 64) + 64)
    (s.myDom.slotMask.getLsbD slot.toNat = true → s.ownsTiles acc.toNat t.accStep n →
      (t.okMul fa fb = false → exec (.mstep g acc slot r cM1) s = .next (s.raise 0x0E (s.rx r))) ∧
      (t.okMul fa fb = true → isMx fa = false → t.transA = false → (s.slot s.cur.1 slot.toNat).due = none →
        s.covers t.aBase t.aStep n ((t.rows - 1) * t.aStride + rowBytes fa t.k) →
        ∀ q c, pairRate fa fb = some (q, c) →
        ∃ u, exec (.mstep g acc slot r cM1) s = .next u ∧ s.nextPc u ∧
          s.queued u (.mstep g acc slot r cM1) (n * ((4 * t.k + q - 1) / q)) fun c =>
            c.bytes = bytes ∧ c.fa = fa ∧ c.fb = fb)) ∧
    ((s.rx o).toNat % 8 = 0 → (s.rangeAt (s.rx o) 8).isSome = true →
      (t.okSort false = false → exec (.mstepSort g k o r cM1) s = .next (s.raise 0x0E (s.rx r))) ∧
      (t.okSort true = false → exec (.mstepTopk g k o r cM1) s = .next (s.raise 0x0E (s.rx r))) ∧
      (t.okSort false = true → s.covers t.aBase t.aStep n ((t.k - 1) * t.aStride + 4) →
        ∀ out, s.heldAt (s.rx o) (8 * t.k * n) out →
        ∃ u, exec (.mstepSort g k o r cM1) s = .next u ∧ s.nextPc u ∧
          s.queued u (.mstepSort g k o r cM1) sortCycles fun c => c.bytes = bytes ∧ c.a = t.aBase ∧ c.b = out) ∧
      (t.okSort true = true → s.covers t.aBase t.aStep n ((t.k - 1) * t.aStride + 4) →
        ∀ out, s.heldAt (s.rx o) (8 * t.cols * n) out →
        ∃ u, exec (.mstepTopk g k o r cM1) s = .next u ∧ s.nextPc u ∧
          s.queued u (.mstepTopk g k o r cM1) sortCycles fun c => c.bytes = bytes ∧ c.a = t.aBase ∧ c.b = out))

/-- R290 to R302: what enters a domain's matrix queue, when, and with which cycles. -/
def Obligations.MatrixQueue : Prop :=
  Claims.MatrixCommands ∧ Claims.MatrixQueueFull ∧ Claims.MatrixRecords


/-- R290, R302: with its queue empty `mcfg` sets the domain's rasterisation table at once, from P, n and n entries
that are a permutation of the numbers below n, and `mcfg off` clears it; a table that is not so raises 0x0E. -/
def Obligations.MatrixConfiguration : Prop :=
  ∀ (s : State) (g : Guard) (r : XReg) (off : Nat), s.runs g [r] true 0 = true →
    let half (k : Nat) : Nat := s.number (lsAddr s.cur.1 (off + 2 * k)) 2
    let P := half 0
    let n := half 1
    let sets (i : Instr) (p : Nat) (table : List Nat) : Prop := ∃ t, exec i s = .next t ∧ s.nextPc t ∧
      t.dom s.cur.1 s.myDomNo =
        { s.myDom with mq := [], mticket := s.myDom.mticket + 1, rasterP := p, raster := table } ∧
      s.me.sameRegs t.me ∧ s.sameMemory t ∧ s.me.sameSystem t.me ∧ s.otherThreads t s.cur.1 s.cur.2 ∧ t.flight = s.flight
    (s.myDom.mq = [] → sets (.mcfgOff g) 0 []) ∧
    ((s.rx r).toNat % 2 = 0 → s.heldAt (s.rx r) (4 + 2 * n) off → s.readableAt off (4 + 2 * n) →
      (n = 0 ∨ 4096 < n → exec (.mcfg g r) s = .next (s.raise 0x0E (s.rx r))) ∧
      (1 ≤ n → n ≤ 4096 →
        (P = 0 ∨ 4096 < P ∨ (∃ v < n, ∀ k < n, half (k + 2) ≠ v) →
          exec (.mcfg g r) s = .next (s.raise 0x0E (s.rx r))) ∧
        (1 ≤ P → P ≤ 4096 → (∀ v < n, ∃ k < n, half (k + 2) = v) → s.myDom.mq = [] →
          sets (.mcfg g r) P ((List.range n).map fun k => half (k + 2)))))

namespace Sys2Proof.Machine

/-- The domain's oldest command needs one more array cycle and may have it (R291, R292). -/
def State.lastCycle (s : State) (T d : Nat) (c : MCmd) : Prop :=
  (∃ rest, (s.dom T d).mq = c :: rest ∧ ∀ x ∈ rest, x.ticket ≠ c.ticket) ∧ c.fini = false ∧ c.left = 1 ∧
    c.stall = none ∧ s.cmdReady T d c = true ∧ s.cmdLost T d c = false

end Sys2Proof.Machine

/-- R291, R296, R300, R301: with its last array cycle a command has its effect and completes 70 tile cycles later.
`mzero` clears its accumulator tiles, `mload` loads them row by row from local store, `mdrain` stores converted
elements at its strides, `mdrainv` takes the converted rows that its thread then receives, one repeat of `mstep` adds
the chunked sum of products to each element of its tile; no other word changes. -/
def Claims.MatrixEffects : Prop :=
  ∀ (s : State) (T d : Nat) (c : MCmd), s.lastCycle T d c →
    let t := s.arrayCycle T d
    let cells (f : Nat → Nat → Nat → W32 → W32) : Prop := ∀ n < 64, ∀ row < 64, ∀ col < 64,
      t.accAt T n row col = f n row col (s.accAt T n row col)
    t.timers = s.timers ++ [((.tile, s.tcycle + 70), .matrixCommandComplete T d)] ∧
    (∃ rest rows, (t.dom T d).mq = { c with fini := true, left := 0, bytes := rows } :: rest ∧
      ∀ g ty sat v acc a cM1, c.ins = .mdrainv g ty sat v acc a cM1 → t.mem = s.mem ∧ t.acc = s.acc ∧
        ∀ i < cM1.toNat + 1, ∀ col < 64, ofBytes ((rows.drop (256 * i + 4 * col)).take 4) =
          (drainLane ty sat (s.accAt T acc.toNat ((c.a + i) % 64) col)).toNat) ∧
    (∀ g acc cM1, c.ins = .mzero g acc cM1 → t.mem = s.mem ∧
      cells fun n _ _ v => if ∃ j < cM1.toNat + 1, n = (acc.toNat + j) % 64 then 0 else v) ∧
    (∀ g acc r cM1, c.ins = .mload g acc r cM1 → cM1.toNat < 64 → t.mem = s.mem ∧
      cells fun n row col v =>
        let j := (n + 64 - acc.toNat) % 64
        if j < cM1.toNat + 1 then BitVec.ofNat 32 (s.number (lsAddr T (c.a + 16384 * j + 256 * row + 4 * col)) 4) else v) ∧
    (∀ g ty sat acc r x cM1, c.ins = .mdrain g ty sat acc r x cM1 → 64 * drainBytes ty ≤ c.st →
      t.acc = s.acc ∧
      (∀ j < cM1.toNat + 1, ∀ row < 64, ∀ col < 64, ∀ b < drainBytes ty,
        t.byte (lsAddr T (c.a + 64 * c.st * j + c.st * row + drainBytes ty * col + b)) =
          BitVec.ofNat 8 (drainElem ty sat (s.accAt T ((acc.toNat + j) % 64) row col) >>> (8 * b))) ∧
      ∀ a, (∀ j < cM1.toNat + 1, ∀ row < 64, ∀ k < 64 * drainBytes ty,
        a ≠ lsAddr T (c.a + 64 * c.st * j + c.st * row + k)) → t.byte a = s.byte a) ∧
    (∀ g acc slot r, c.ins = .mstep g acc slot r 0 → (s.dom T d).raster = [] →
      let w := tileStep c.bytes
      t.mem = s.mem ∧ ∀ q ch, pairRate c.fa c.fb = some (q, ch) → cells fun n row col v =>
        if n = acc.toNat ∧ row < w.rows ∧ col < w.cols then
          BitVec.ofNat 32 (dot (c.fa == 8) w.sat ch ((s.rowsA T c w 0).getD row [])
            ((s.colsB T slot.toNat c w 0).getD col []) (if w.zero then 0 else v.toNat))
        else v)

namespace Sys2Proof.Machine

/-- Token p of an output: the key and its index within its group (R297). -/
def State.tokenAt (s : State) (T a p : Nat) : Nat × Nat :=
  (s.number (lsAddr T (a + 8 * p)) 4, s.number (lsAddr T (a + 8 * p + 4)) 4)

end Sys2Proof.Machine

/-- R132, R297 to R299: the tokens of a sorting command. Every token holds a key of its group and its index; sorting
emits all of them in ascending order of R132, top-k the k largest in descending order, equal keys by the lower index.
-/
def Claims.MatrixSorting : Prop :=
  ∀ (s : State) (T d : Nat) (c : MCmd), s.lastCycle T d c →
    let t := s.arrayCycle T d
    let key (base i : Nat) : Nat := s.number (lsAddr T (base + 4 * i)) 4
    (∀ g ty lg o r cM1, c.ins = .msort g ty lg o r cM1 → ∀ j < cM1.toNat + 1,
      let G := 2 ^ lg.toNat
      let tok := t.tokenAt T (c.b + 8 * G * j)
      (∀ p < G, (tok p).2 < G ∧ (tok p).1 = key (c.a + 4 * G * j) (tok p).2) ∧
      ∀ p q, p < q → q < G → rankKey ty (tok p).1 < rankKey ty (tok q).1 ∨
        rankKey ty (tok p).1 = rankKey ty (tok q).1 ∧ (tok p).2 < (tok q).2) ∧
    (∀ g ty lg kM1 o r cM1, c.ins = .mtopk g ty lg kM1 o r cM1 → kM1.toNat < 2 ^ lg.toNat → ∀ j < cM1.toNat + 1,
      let G := 2 ^ lg.toNat
      let K := kM1.toNat + 1
      let tok := t.tokenAt T (c.b + 8 * K * j)
      (∀ p < K, (tok p).2 < G ∧ (tok p).1 = key (c.a + 4 * G * j) (tok p).2) ∧
      (∀ p q, p < q → q < K → rankKey ty (tok q).1 < rankKey ty (tok p).1 ∨
        rankKey ty (tok p).1 = rankKey ty (tok q).1 ∧ (tok p).2 < (tok q).2) ∧
      ∀ i < G, (∀ p < K, (tok p).2 ≠ i) →
        rankKey ty (key (c.a + 4 * G * j) i) < rankKey ty (tok kM1.toNat).1 ∨
        rankKey ty (key (c.a + 4 * G * j) i) = rankKey ty (tok kM1.toNat).1 ∧ (tok kM1.toNat).2 < i)

/-- R132, R291, R296 to R301: what the array writes with the last cycle of a command. -/
def Obligations.MatrixArray : Prop :=
  Claims.MatrixEffects ∧ Claims.MatrixSorting


/-- R159, R303 to R305, R344: `mwait` goes on when at most n of the thread's commands are incomplete, reports a failed
one, and waits otherwise; `wrel` releases a full slot at once, by a message of type 0x11, unless a queued command
still reads it; `wstat` reads the slot's header, and `wstat.wait` waits for a fill; a slot that the domain does not
hold raises 0x0F. -/
def Obligations.MatrixWaitsAndSlots : Prop :=
  ∀ (s : State) (g : Guard) (n : BitVec 8) (slot : BitVec 4) (d : XReg), s.runs g [d] true 0 = true →
    let mine := (s.myDom.mq.filter fun c => decide (c.hw = s.cur.2)).length
    let x := s.slot s.cur.1 slot.toNat
    (n.toNat < mine → exec (.mwait g n) s = .next (s.park (.mwait g n) (.mat n.toNat))) ∧
    (mine ≤ n.toNat →
      (s.me.mfail = [] → exec (.mwait g n) s = .next s.advance) ∧
      ∀ pc rest, s.me.mfail = pc :: rest →
        exec (.mwait g n) s = .next ((s.modMe fun t => { t with mfail := rest }).raise 0x13 pc)) ∧
    (s.myDom.slotMask.getLsbD slot.toNat = false → ∀ i ∈ [Instr.wrel g slot, .wstat g d slot, .wstatWait g d slot],
      exec i s = .next (s.raise 0x0F (BitVec.ofNat 64 slot.toNat))) ∧
    (s.myDom.slotMask.getLsbD slot.toNat = true →
      (x.full = false → exec (.wrel g slot) s = .next s.advance) ∧
      (x.full = true → s.myDom.wrels = [] → s.myDom.mq = [] → ∃ t, exec (.wrel g slot) s = .next t ∧ s.nextPc t ∧
        t.slot s.cur.1 slot.toNat = { x with full := false } ∧
        s.tellsRelease t s.cur.1 slot.toNat ∧
        s.me.sameRegs t.me ∧ s.sameMemory t ∧ s.me.sameSystem t.me ∧ s.otherThreads t s.cur.1 s.cur.2) ∧
      (x.full = true → s.myDom.wrels = [] →
        (∃ c ∈ s.myDom.mq, c.fini = false ∧ c.ticket < s.myDom.mticket ∧ slotRead c.ins = some slot.toNat) →
        ∃ t, exec (.wrel g slot) s = .next t ∧ s.nextPc t ∧ t.slot s.cur.1 slot.toNat = x ∧ t.flight = s.flight ∧
          (t.dom s.cur.1 s.myDomNo).wrels = [(slot.toNat, s.myDom.mticket)] ∧ s.me.sameRegs t.me ∧ s.sameMemory t ∧
          s.me.sameSystem t.me ∧ s.otherThreads t s.cur.1 s.cur.2) ∧
      (x.due = none → x.len < 2 ^ 18 →
        let header (v : W64) : Prop := v.getLsbD 63 = x.full ∧ v.extractLsb' 59 4 = x.fmt ∧ v.extractLsb' 43 16 = x.fill ∧
          v.extractLsb' 26 17 = x.scaleOff ∧ v.extractLsb' 8 18 = BitVec.ofNat 18 (if x.lost then 0 else x.len) ∧
          v.extractLsb' 0 8 = 0
        (∃ v, exec (.wstat g d slot) s = .next (s.wrote d v) ∧ header v) ∧
        (x.full = true ∨ x.lost = true → s.me.missed = false →
          ∃ v, exec (.wstatWait g d slot) s = .next (s.wrote d v) ∧ header v) ∧
        (x.full = false → x.lost = false →
          exec (.wstatWait g d slot) s = .next (s.park (.wstatWait g d slot) (.wslot slot.toNat)))))

/-! ### Movement -/

namespace Sys2Proof.Machine

/-- Records of n elements of `size` bytes at an address reach the issuing tile's store, and the thread's earlier
accesses have performed (R307). -/
def State.recordAt (s : State) (ea : W64) (n size off : Nat) : Prop :=
  s.me.got = [] ∧ s.priorDone s.cur.1 s.cur.2 = true ∧ ∀ k < n,
    s.ownOffset (ea + BitVec.ofNat 64 (size * k)) size = some (off + size * k) ∧
      s.intact (off + size * k) size = true

/-- The 512-bit record of 64 bytes of local store. -/
def State.recordBits (s : State) (off : Nat) : BitVec 512 := BitVec.ofNat 512 (s.number (lsAddr s.cur.1 off) 64)

/-- One message of this type to this block has left, and the instruction has retired. -/
def State.sentOut (s t : State) (typ : BitVec 8) (dst : Node) (p : Payload → Prop) : Prop :=
  ∃ m, t.flight = s.flight ++ [.meshRoute (s.nodeOf s.cur.1) m] ∧ m.typ = typ ∧ m.src = s.nodeOf s.cur.1 ∧ m.dst = dst ∧
    p m.pay ∧ s.nextPc t ∧ s.me.sameRegs t.me ∧ s.sameMemory t ∧ s.me.sameSystem t.me ∧ s.otherThreads t s.cur.1 s.cur.2

end Sys2Proof.Machine

/-- R161, R166, R307 to R309: `xfer` sends its record to the station that the record gives, `sbind` binds a pattern to
a stream port or waits while four are bound, `swait` waits for the domain's patterns at the port. -/
def Claims.RecordsSent : Prop :=
  ∀ (s : State) (g : Guard) (r a : XReg) (port : BitVec 3) (off : Nat), s.runs g [r, a] true 0 = true →
    let ea := s.rx r
    let rec_ := s.sendRecord (s.recordBits off)
    let q := s.port s.cur.1 port.toNat
    (ea.toNat % 64 = 0 → s.recordAt ea 8 8 off →
      (∃ t, exec (.xfer g r a) s = .next t ∧ s.sentOut t 0x04 (.station (s.recordStation rec_)) fun p =>
        ∃ c, p = .eng c ∧ c.desc = rec_ ∧ c.aux = s.rx a) ∧
      (q.queue.length < 4 → ∃ t, exec (.sbind g port r a) s = .next t ∧ s.nextPc t ∧
        (∃ pat, t.port s.cur.1 port.toNat = { q with queue := q.queue ++ [pat], ticket := q.ticket + 1 } ∧
          pat.cmd.desc = rec_ ∧ pat.cmd.aux = s.rx a ∧ pat.ticket = q.ticket) ∧
        t.flight = s.flight ++ [.streamPatternStart s.cur.1 port.toNat] ∧ s.me.sameRegs t.me ∧ s.sameMemory t ∧
        s.me.sameSystem t.me ∧ s.otherThreads t s.cur.1 s.cur.2) ∧
      (4 ≤ q.queue.length → exec (.sbind g port r a) s = .next (s.park (.sbind g port r a) (.pqueue port.toNat)))) ∧
    (ea.toNat % 64 ≠ 0 → s.me.got = [] → exec (.xfer g r a) s = .next (s.raise 0x05 ea) ∧
      exec (.sbind g port r a) s = .next (s.raise 0x05 ea)) ∧
    (s.me.run = .ready →
      ((∀ x ∈ q.queue ++ q.cur.toList, x.cmd.iss.dom ≠ s.myDomNo) → exec (.swait g port) s = .next s.advance) ∧
      ((∃ x ∈ q.queue ++ q.cur.toList, x.cmd.iss.dom = s.myDomNo ∧ x.ticket < q.ticket) →
        exec (.swait g port) s = .next (s.park (.swait g port) (.port port.toNat q.ticket))))

/-- R185, R310, R311: `redput` contributes its elements to a reduction group of the tile's own router, and raises 0x0E
where the group's entry is not in force; `coll` sends its record to the engine that x[e] names when the slot holds a
graph of the thread's job, and raises 0x0E otherwise. -/
def Claims.ReductionAndCollective : Prop :=
  ∀ (s : State) (g : Guard) (r x : XReg) (off : Nat), s.runs g [r, x] true 0 = true →
    let ea := s.rx r
    let group := ((s.rx x).extractLsb' 16 6).toNat
    let e := s.redEntry (s.nodeOf s.cur.1) group
    let n := Nat.max 1 (e.extractLsb' 43 8).toNat
    let d := s.recordBits off
    let eng : Option (Node × Tbl Graph) :=
      let k := ((s.rx x).extractLsb' 0 6).toNat
      if (s.rx x).getLsbD 6 = true then if k < 48 then some (.port k, (s.portSt k).graphs) else none
      else some (.station k, (s.station k).graphs)
    (s.recordAt ea n 4 off → ea.toNat % 4 = 0 → e.getLsbD 63 = true → e.getLsbD 62 = true →
      ∃ t m, exec (.redput g r x) s = .next t ∧ s.nextPc t ∧ s.me.sameRegs t.me ∧ s.sameMemory t ∧
        s.me.sameSystem t.me ∧ s.otherThreads t s.cur.1 s.cur.2 ∧
        t.flight = s.flight ++ [.meshRoute (s.nodeOf s.cur.1) m] ∧ m.typ = 0x10 ∧ m.dst = s.nodeOf s.cur.1 ∧
        m.arg = BitVec.ofNat 32 (group * 2 ^ 26 + ((s.rx x).extractLsb' 0 16).toNat * 2 ^ 10) ∧
        m.pay = .elems ((List.range n).map fun k => BitVec.ofNat 32 (s.number (lsAddr s.cur.1 (off + 4 * k)) 4))) ∧
    (s.recordAt ea n 4 off → ea.toNat % 4 = 0 → e.getLsbD 63 = false ∨ e.getLsbD 62 = false →
      exec (.redput g r x) s = .next (s.raise 0x0E ea)) ∧
    (s.recordAt ea 8 8 off → ea.toNat % 64 = 0 →
      (eng = none → exec (.coll g r x) s = .next (s.raise 0x0E ea)) ∧
      ∀ dst gs, eng = some (dst, gs) →
        (holdsGraph gs (d.extractLsb' 108 4).toNat s.myDom.pid = true → ∃ t, exec (.coll g r x) s = .next t ∧
          s.sentOut t 0x20 dst fun p => ∃ y, p = .launch d y) ∧
        (holdsGraph gs (d.extractLsb' 108 4).toNat s.myDom.pid = false →
          exec (.coll g r x) s = .next (s.raise 0x0E ea)))

/-- R161, R166, R185, R307 to R311: the instructions that hand a record or a contribution to an engine. -/
def Obligations.Records : Prop :=
  Claims.RecordsSent ∧ Claims.ReductionAndCollective


/-! ## Events of the tile -/

namespace Sys2Proof.Machine

/-- The row answers a next state that meets `P`. -/
def completes (i : Instr) (s : State) (P : State → Prop) : Prop := ∃ t, exec i s = .next t ∧ P t

/-- Nothing but one thread has changed, and what is under way. -/
def State.onlyThread (s t : State) (T h : Nat) : Prop :=
  s.sameMemory t ∧ s.otherThreads t T h ∧ s.sameTiles t ∧ s.sameBlocks t ∧ s.sameJobs t ∧ t.time = s.time

/-- Thread h of tile T, with a handler and none in progress, has taken cause c (R345, R346). -/
def State.tookTrap (s t : State) (T h c : Nat) (v : W64) : Prop :=
  let u := s.thread T h
  let x := t.thread T h
  x.run = .entering 0 ∧ x.cause = BitVec.ofNat 6 c ∧ x.trapVal = v ∧ x.trapPc = (if c = 0x15 then u.pc + 8 else u.pc).setWidth 32 ∧
    x.pprv = u.priv ∧ x.priv = (if u.priv = 0 then 1 else u.priv) ∧
    x.pc = (s.dom T (s.domNo T h)).trapBase.setWidth 64 ∧ u.sameRegs x

/-- The domain has a handler and the thread is in none. -/
def State.handles (s : State) (T h : Nat) : Prop := (s.dom T (s.domNo T h)).trapBase ≠ 0 ∧ (s.thread T h).cause = 0

/-- No thread of the domain waits in `await`. -/
def State.noAwait (s : State) (T d : Nat) : Prop :=
  ∀ i < (s.dom T d).thrCount, ∀ k c, (s.thread T ((s.dom T d).thrFirst + i)).run ≠ .parked (.mbox k) c

/-- The domain's partition has the entry as its newest (R176). -/
def State.entered (s t : State) (T d : Nat) (e : BitVec 256) : Prop := (t.dom T d).mbox = (s.dom T d).mbox ++ [e]

end Sys2Proof.Machine

/-- R53, R245: at a rotation boundary every tile's 16 slot-table entries are shared out by weight: each names a domain
that is present, and domain d has the floor of 16 weight / total, or one more; threads whose `yield` has retired
return. -/
def Claims.SlotTable : Prop :=
  ∀ s : State, completes .slotTableRotation s fun t =>
    (∀ T h, t.thread T h =
      { s.thread T h with yielded := (s.thread T h).yielded && decide (s.tcycle < (s.thread T h).readyAt) }) ∧
    (∀ T ∈ Table.keys s.tiles,
      let w (d : Nat) : Nat := if (s.dom T d).present = true then (s.dom T d).weight else 0
      let W := (Finset.range 4).sum w
      let e (k : Nat) : BitVec 3 := Table.get 0 (t.tile T).table k
      (W = 0 → ∀ k < 16, e k = 0) ∧
      (0 < W → (∀ k < 16, ∃ d < 4, (s.dom T d).present = true ∧ e k = BitVec.ofNat 3 (4 + d)) ∧
        ∀ d < 4, let n := ((List.range 16).filter fun k => e k == BitVec.ofNat 3 (4 + d)).length
          16 * w d / W ≤ n ∧ n ≤ 16 * w d / W + 1)) ∧
    s.sameMemory t ∧ t.flight = s.flight ∧ t.timers = s.timers

/-- R244, R346, R355, R356, R361, R385: `waitc` ends with TIME in x[d]; a trapped thread runs its handler or stops; a
full-empty wait that reaches FE_LIMIT is withdrawn and takes 0x0C, at another tile once the withdrawal is
acknowledged; the park watchdog sets FIRED, sends notice 0x30 with LIMIT and wakes no thread; a held post is tried
again every 64 cycles. -/
def Claims.TileEvents : Prop :=
  ∀ (s : State) (T d h since : Nat),
    let u := s.thread T h
    (∀ g x a imm v, u.run = .parked (.waitc v) since → u.pend = some (.waitc g x a imm) → v.toNat ≤ s.time.toNat →
      completes (.waitcExpiry T h) s fun t => (x ≠ 0 → (t.thread T h).rx x.toNat = s.time) ∧
        u.sameBut x.toNat (t.thread T h) ∧ (t.thread T h).pc = u.pc + 8 ∧ (t.thread T h).run = .ready ∧
        u.sameSystem (t.thread T h) ∧ s.onlyThread t T h ∧ t.flight = s.flight ∧ t.timers = s.timers) ∧
    (∀ n, u.run = .entering n →
      exec (.handlerEntry T h) s = .next (s.setThread T h { u with run := if n = 0 then .ready else .stopped })) ∧
    (∀ ea c, u.run = .parked (.fe ea) c →
      (c ≠ since → exec (.feLimitExpiry T h since) s = .next s) ∧
      ∀ x q y, c = since → (s.tile T).feq = x ++ q :: y → (∀ z ∈ x, ¬(z.iss.hw = h ∧ z.msg = none)) → q.iss.hw = h →
        q.msg = none → s.handles T h →
        completes (.feLimitExpiry T h since) s fun t =>
          (t.tile T).feq = x ++ y ∧ s.tookTrap t T h 0x0C ea ∧ s.sameMemory t ∧ s.otherThreads t T h ∧ t.flight = s.flight) ∧
    (∀ ea c v, u.run = .parked (.fe ea) since → s.handles T h → u.after = some (c, v) →
      completes (.waitWithdrawalAck T h) s fun t => s.tookTrap t T h c v ∧ s.sameMemory t ∧ s.otherThreads t T h) ∧
    (let a := tileReg T (0x100 + 8 * d)
     let l := (s.reg a).extractLsb' 0 32
     l ≠ 0 → (s.reg a).getLsbD 63 = false → (s.dom T d).idleAt = some since → since + l.toNat ≤ s.tcycle →
     s.allParked T d = true →
      completes (.parkWatchdog T d since) s fun t => t.reg a = (s.reg a ||| BitVec.twoPow 64 63) ∧
        (∀ b, b ≠ a → t.reg b = s.reg b) ∧ t.tiles = s.tiles ∧ s.sameMemory t ∧
        ∃ m w, t.flight = s.flight ++ [.meshRoute (s.nodeOf T) m] ∧ m.typ = 0x21 ∧ m.arg = 0x30 ∧
          m.dst = .service (quadrantOf (s.nodeOf T)) ∧ m.pay = .words (l.setWidth 64) w) ∧
    (∀ x d0 d1 ea iss R e, (s.dom T d).held = [x] → x.msg.pay = .post d0 d1 ea iss → s.tileAt x.msg.dst = some R →
      s.domOf R x.msg.pid.toNat = some e → (s.dom R e).permMask.getLsbD 1 = true → s.noAwait R e →
      ((s.dom R e).mbox.length < 16 → completes (.mailboxRetry T d) s fun t =>
        (t.dom T d).held = [] ∧ s.entered t R e (mboxEntry 1 0 (x.msg.arg.extractLsb' 0 16).toNat (nodeKind x.msg.src)
          (nodeX x.msg.src) (nodeY x.msg.src) x.msg.sdom.toNat s.time d0 d1) ∧ s.sameMemory t ∧ t.flight = s.flight) ∧
      (16 ≤ (s.dom R e).mbox.length → (∀ y ∈ s.timers, y.2 ≠ .mailboxRetry T d) →
        exec (.mailboxRetry T d) s = .next (s.after 64 (.mailboxRetry T d))))

/-- R29, R36, R303 to R305, R344: the slot table, and the events of a tile on its own threads. -/
def Obligations.TilesOwnEvents : Prop :=
  Claims.SlotTable ∧ Claims.TileEvents


/-! ## Messages at their destinations -/

namespace Sys2Proof.Machine

/-- The one new event is the reply to a request: its TYPE + 7, from the home to the requester, with a status in
ARG[31:24], the cause and what was read (R384). -/
def State.repliesTo (s t : State) (m : Msg) (status cause : Nat) (iss : Issuer) (ea : W64) (es : List Elem) : Prop :=
  ∃ r, t.flight = s.flight ++ [.meshRoute m.dst r] ∧
    r.typ = (if m.typ = 0x05 ∨ m.typ = 0x06 then 0x09 else m.typ + 7) ∧ r.src = m.dst ∧ r.dst = m.src ∧ r.pid = m.pid ∧
    r.arg.extractLsb' 24 8 = BitVec.ofNat 8 status ∧ r.pay = .reply ⟨status, cause, ea, es, iss⟩

/-- A request of a job, with one element of at most 8 bytes, at offset `off` of the local store of tile T, a live tile
that does not send it itself. -/
def State.reachesTile (s : State) (m : Msg) (a : Access) (e : Elem) (T off : Nat) : Prop :=
  m.pay = .access a ∧ a.elems = [e] ∧ a.dev = false ∧ a.iss.hw < 16 ∧ 1 ≤ e.size ∧ e.size ≤ 8 ∧ T < 2048 ∧
    off + e.size ≤ 0xC00000 ∧ e.loc.toNat = lsAddr T off ∧ s.tileAt m.dst = some T

/-- The job's domain on tile T lets other tiles' accesses of a kind in, and holds the bytes (R65). -/
def State.admitsAt (s : State) (m : Msg) (T off n bit : Nat) : Prop :=
  (s.tile T).fenced = false ∧ ∃ d, s.domOf T m.pid.toNat = some d ∧ (s.dom T d).permMask.getLsbD bit = true ∧
    (s.dom T d).lsBase ≤ off ∧ off + n ≤ (s.dom T d).lsBase + (s.dom T d).lsSize

/-- A request of a job, with one element, at the slice that holds its line (R77, R79). -/
def State.reachesSlice (s : State) (m : Msg) (a : Access) (e : Elem) (n : Nat) : Prop :=
  m.pay = .access a ∧ a.elems = [e] ∧ a.phys = true ∧ a.iss.hw < 16 ∧ 1 ≤ e.size ∧ e.size ≤ 8 ∧ m.dst = .station n ∧
    e.loc.toNat % 128 + e.size ≤ 128 ∧ e.loc.toNat < 0x030000000000 ∧ s.move = none ∧
    s.bucketStation (s.bucketOf m.pid.toNat (a.shr || a.dev) e.loc.toNat) = n ∧ s.isOwned (e.loc.toNat / 128) = false ∧
    s.lostAt (e.loc.toNat / 128) = none ∧ (∃ l, Table.get none s.lines (e.loc.toNat / 128) = some l) ∧
    ∀ w ∈ s.bad, w / 16 ≠ e.loc.toNat / 128

end Sys2Proof.Machine

/-- R65, R86, R95, R363, R384: reads, writes and atomics are performed at their homes, the owning tile or the slice,
and answered; a tile refuses with status 0x02 where nothing is alive or the job is removed, 0x05 without a domain or
permission, 0x06 outside the allotment, and then no byte changes. -/
def Obligations.RequestsAtTheirHomes : Prop :=
  ∀ (s : State) (m : Msg) (a : Access) (e : Elem) (T off n : Nat) (op : AmoOp),
    let absent := if (∃ r ∈ s.removals, r.pid = m.pid.toNat) ∨ s.jobOf m.pid.toNat = none then 2 else 5
    let rows : List Instr := [.readRequest m, .writeRequest m, .atomicRequest m]
    let loc := e.loc.toNat
    (s.reachesTile m a e T off →
      (s.admitsAt m T off e.size 0 → a.kind = .read → s.lsBad T off e.size = false →
        completes (.readRequest m) s fun t => s.sameMemory t ∧ t.tiles = s.tiles ∧
          s.repliesTo t m 0 0 a.iss e.addr [{ e with data := BitVec.ofNat 64 (s.number loc e.size) }]) ∧
      (s.admitsAt m T off e.size 1 → a.kind = .write → completes (.writeRequest m) s fun t => t.tiles = s.tiles ∧
          (s.storedTo t loc e.size fun k => e.data.extractLsb' (8 * k) 8) ∧ ∃ es, s.repliesTo t m 0 0 a.iss e.addr es) ∧
      (s.admitsAt m T off e.size 2 → a.kind = .amo op → s.lsBad T off e.size = false →
        completes (.atomicRequest m) s fun t => t.tiles = s.tiles ∧
          (s.storedTo t loc e.size fun k => (amoResult op (BitVec.ofNat (8 * e.size) (s.number loc e.size))
            (e.data.setWidth (8 * e.size)) (e.cmp.setWidth (8 * e.size))).extractLsb' (8 * k) 8) ∧
          s.repliesTo t m 0 0 a.iss e.addr [{ e with data := BitVec.ofNat 64 (s.number loc e.size) }]) ∧
      (∀ i ∈ rows, (s.tile T).fenced = true →
        completes i s fun t => s.sameMemory t ∧ t.tiles = s.tiles ∧ s.repliesTo t m 2 0 a.iss e.addr []) ∧
      (∀ i ∈ rows, (s.tile T).fenced = false → s.domOf T m.pid.toNat = none →
        completes i s fun t => s.sameMemory t ∧ t.tiles = s.tiles ∧ s.repliesTo t m absent 0 a.iss e.addr []) ∧
      (∀ d, (s.tile T).fenced = false → s.domOf T m.pid.toNat = some d →
        ((s.dom T d).permMask = 0 → ∀ i ∈ rows, completes i s fun t => s.sameMemory t ∧ t.tiles = s.tiles ∧
          s.repliesTo t m 5 0 a.iss e.addr []) ∧
        ((s.dom T d).permMask = 0xF →
          off < (s.dom T d).lsBase ∨ (s.dom T d).lsBase + (s.dom T d).lsSize < off + e.size →
          ∀ i ∈ rows, completes i s fun t => s.sameMemory t ∧ t.tiles = s.tiles ∧
            s.repliesTo t m 6 0 a.iss e.addr []))) ∧
    (s.reachesSlice m a e n →
      (a.kind = .read → completes (.readRequest m) s fun t => s.sameMemory t ∧
        s.repliesTo t m 0 0 a.iss e.addr [{ e with data := BitVec.ofNat 64 (s.number loc e.size) }]) ∧
      (a.kind = .write → completes (.writeRequest m) s fun t =>
        (s.storedTo t loc e.size fun k => e.data.extractLsb' (8 * k) 8) ∧ s.repliesTo t m 0 0 a.iss e.addr []) ∧
      (a.kind = .amo op → completes (.atomicRequest m) s fun t =>
        (s.storedTo t loc e.size fun k => (amoResult op (BitVec.ofNat (8 * e.size) (s.number loc e.size))
          (e.data.setWidth (8 * e.size)) (e.cmp.setWidth (8 * e.size))).extractLsb' (8 * k) 8) ∧
        s.repliesTo t m 0 0 a.iss e.addr [{ e with data := BitVec.ofNat 64 (s.number loc e.size) }]))

/-- R97, R257, R384, R402: a reply completes the waiting load or atomic, or makes it take the cause that its status
gives; an acknowledgement ends the store's access. -/
def Obligations.RepliesAtRequesters : Prop :=
  ∀ (s : State) (m : Msg) (r : Reply) (o : Outst) (since : Nat),
    let T := r.iss.tile
    let h := r.iss.hw
    let u := s.thread T h
    m.pay = .reply r → u.outst = [o] → o.seq = r.iss.seq → (s.dom T (s.domNo T h)).pid = m.pid.toNat → u.after = none →
    (∀ g sx sz nr od x ma, ∀ q ∈ [(Instr.readReply m, Instr.ld g sx sz od x ma), (.atomicReply m, .amoadd g sx sz nr od x ma)],
      o.wait = true → u.run = .parked .reply since → u.pend = some q.2 → u.got = [] → u.bad = [] →
      (∀ e, r.status = 0 → r.cause = 0 → r.elems = [e] → completes q.1 s fun t =>
        (x ≠ 0 → (t.thread T h).rx x.toNat = extended sx (sizeBytes sz) e.data.toNat) ∧
          u.sameBut x.toNat (t.thread T h) ∧ (t.thread T h).pc = u.pc + 8 ∧ (t.thread T h).run = .ready ∧
          (t.thread T h).outst = [] ∧ u.sameSystem (t.thread T h) ∧ s.onlyThread t T h ∧ t.flight = s.flight) ∧
      (∀ c, s.handles T h → (r.status, r.cause, c) ∈ [(2, 0, 0x18), (3, 0, 0x18), (4, 0, 0x08), (5, 0, 0x08), (6, 0, 0x09),
          (0, 0x0A, 0x0A), (0, 0x0B, 0x0B), (0, 0x13, 0x13)] →
        completes q.1 s fun t => s.tookTrap t T h c r.ea ∧ s.sameMemory t ∧ s.otherThreads t T h)) ∧
    (∀ x y, m.src = .router x y → o.wait = false → r.status = 0 → r.cause = 0 →
      exec (.writeAcknowledgement m) s = .next (s.setThread T h { u with outst := [], hold := false }))

/-- R145, R168, R169, R176, R180, R261, R315, R40: posts, completions, bulk data, saddles, stream acknowledgements and
configuration writes at the tiles that they reach. -/
def Obligations.MessagesAtTiles : Prop :=
  ∀ (s : State) (m : Msg) (T d : Nat), s.tileAt m.dst = some T →
    let entry (mkind status : Nat) (d0 d1 : W64) := mboxEntry mkind status (m.arg.extractLsb' 0 16).toNat (nodeKind m.src)
      (nodeX m.src) (nodeY m.src) m.sdom.toNat s.time d0 d1
    let off := (m.arg.extractLsb' 0 24).toNat
    let refused (t : State) (status : Nat) : Prop := s.sameMemory t ∧ t.tiles = s.tiles ∧
      ∃ k, t.flight = s.flight ++ [.meshRoute m.dst k] ∧ k.typ = 0x09 ∧ k.dst = m.src ∧ k.arg.extractLsb' 24 8 = BitVec.ofNat 8 status
    (∀ d0 d1 ea iss, m.typ = 0x05 → m.pay = .post d0 d1 ea iss →
      ((s.tile T).fenced = true → completes (.mailboxPost m) s fun t => refused t 2) ∧
      ((s.tile T).fenced = false → s.domOf T m.pid.toNat = none → completes (.mailboxPost m) s fun t =>
        refused t (if (∃ r ∈ s.removals, r.pid = m.pid.toNat) ∨ s.jobOf m.pid.toNat = none then 2 else 5)) ∧
      ((s.tile T).fenced = false → s.domOf T m.pid.toNat = some d → (s.dom T d).permMask.getLsbD 1 = true → s.noAwait T d →
        ((s.dom T d).mbox.length < 16 → completes (.mailboxPost m) s fun t =>
          s.entered t T d (entry 1 0 d0 d1) ∧ s.repliesTo t m 0 0 iss ea [] ∧ s.sameMemory t) ∧
        (16 ≤ (s.dom T d).mbox.length → completes (.mailboxPost m) s fun t => refused t 7))) ∧
    (∀ mk st d0 d1, m.pay = .done mk st d0 d1 → s.domOf T m.pid.toNat = some d → s.noAwait T d →
      ((s.dom T d).mbox.length < 16 → completes (.engineCompletion m) s fun t =>
        s.entered t T d (entry mk st d0 d1) ∧ s.sameMemory t ∧ t.flight = s.flight) ∧
      (16 ≤ (s.dom T d).mbox.length → exec (.engineCompletion m) s = .next (s.after 64 (.engineCompletion m)))) ∧
    (∀ b unit iss third, m.pay = .bulk b unit iss third → m.ordered = false → m.seq ≠ 0xFFFF → m.arg.getLsbD 26 = false →
      (s.domOf T m.pid.toNat = none → completes (.bulkData m) s fun t => refused t 5) ∧
      (s.domOf T m.pid.toNat = some d → (s.dom T d).permMask = 0xF → (s.dom T d).codeSize = 0 →
        ((s.dom T d).lsBase ≤ off → off + b.length ≤ (s.dom T d).lsBase + (s.dom T d).lsSize →
          let n := (m.arg.extractLsb' 28 4).toNat
          let x := s.bar T n
          (∀ k < 16, ∀ c, (s.thread T k).run ≠ .parked (.bar n) c) →
          completes (.bulkData m) s fun t =>
            (s.storedTo t (lsAddr T off) b.length fun k => b.getD k 0) ∧
            (∀ T' k, t.bar T' k = if m.arg.getLsbD 27 = true ∧ (T', k) = (T, n) then
              barrierAfter { x with pending := x.pending - BitVec.ofNat 36 b.length } else s.bar T' k) ∧
            ∃ k, t.flight = s.flight ++ [.meshRoute m.dst k] ∧ k.typ = 0x09 ∧ k.dst = m.src ∧ k.arg = m.seq.setWidth 32) ∧
        (off < (s.dom T d).lsBase ∨ (s.dom T d).lsBase + (s.dom T d).lsSize < off + b.length →
          completes (.bulkData m) s fun t => refused t 6))) ∧
    (∀ b key iss third, m.pay = .bulk b key iss third → s.domOf T m.pid.toNat = some d → (s.tile T).fenced = false →
      completes (.saddleMessage m) s fun t => (s.storedTo t (lsAddr T off) b.length fun k => b.getD k 0) ∧
        t.dom T d = { s.dom T d with due := Table.set 0 (s.dom T d).due key (Table.get 0 (s.dom T d).due key + b.length) } ∧
        t.flight = s.flight ++ [.tileReady T d]) ∧
    (∀ x, (s.tile T).txStreams = [x] → x.stream = (m.arg.extractLsb' 0 8).toNat → x.dst = m.src →
      let last := (m.arg.extractLsb' 16 16).toNat
      ∀ k, (last + 1) % 65536 = (x.acked + k) % 65536 → k ≤ x.next - x.acked → x.next - x.acked < 65536 →
      let n := min x.queue.length (x.window - (x.next - (x.acked + k)))
      completes (.orderedStreamAck m) s fun t =>
        (x.acked + k ≠ x.next + n ∨ n < x.queue.length →
          (t.tile T).txStreams = [{ x with acked := x.acked + k, next := x.next + n, queue := x.queue.drop n }]) ∧
        (x.acked + k = x.next + n → x.queue.length ≤ n → (∀ e ∈ (s.tile T).ports, e.2.cur = none) → (t.tile T).txStreams = []) ∧
        (n < x.queue.length → t.flight = s.flight ++ ((x.queue.take n).zipIdx.map fun y =>
          .meshRoute y.1.src { y.1 with seq := BitVec.ofNat 16 (x.next + y.2) }))) ∧
    (∀ a b iss, m.typ = 0x06 →
      (m.pay = .config 1 a b iss →
        ((∀ k < 4, (s.dom a k).present = false) → completes (.configurationWrite m) s fun t =>
          (t.tile a).mode = BitVec.ofNat 2 b ∧ (∀ h, t.thread a h = Thread.reset) ∧ s.sameMemory t ∧
          ∃ e, e.data = 0 ∧ s.repliesTo t m 0 0 iss 0 [e]) ∧
        ((∃ k < 4, (s.dom a k).present = true) → completes (.configurationWrite m) s fun t => t.tiles = s.tiles ∧
          ∃ e, e.data = 1 ∧ s.repliesTo t m 0 0 iss 0 [e])) ∧
      (m.pay = .config 2 a b iss →
        ((s.dom a (b % 4)).present = true → b / 4 ≠ 0 → completes (.configurationWrite m) s fun t =>
          t.dom a (b % 4) = { s.dom a (b % 4) with weight := b / 4 } ∧ ∃ e, e.data = 0 ∧ s.repliesTo t m 0 0 iss 0 [e]) ∧
        ((s.dom a (b % 4)).present = false ∨ b / 4 = 0 → completes (.configurationWrite m) s fun t => t.tiles = s.tiles ∧
          ∃ e, e.data = 2 ∧ s.repliesTo t m 0 0 iss 0 [e])) ∧
      (m.pay = .config 3 a b iss → s.removals = [] → completes (.configurationWrite m) s fun t =>
        ∃ r, t.removals = [r] ∧ r.pid = a ∧ r.region = none ∧ r.status = 0x20) ∧
      (m.pay = .config 4 a b iss → exec (.configurationWrite m) s = .next { s with snapTime := BitVec.ofNat 64 a }))

/-- R134 to R143, R391, R392, R401, R434, R439: a message goes one hop, along X and then along Y, and takes effect
where it arrives; a dropped request of class Q is answered with status 0x04; a tail-kill has no effect, and a message
of a reserved type counts as an event of its link. -/
def Obligations.MessageRouting : Prop :=
  ∀ (s : State) (at_ : Node) (m : Msg), s.sweeping at_ m.pid.toNat = false → s.nodeFenced at_ = false →
    (at_ = m.dst → (∀ p, at_ ≠ .port p) → exec (.meshRoute at_ m) s = .next (s.post (arrival m))) ∧
    (∀ n, at_ ≠ m.dst → s.nextHop at_ m = some n → s.nodeFenced n = false →
      (s.guardDrop at_ n m = none → s.linkDrop at_ n m = false →
        exec (.meshRoute at_ m) s = .next (s.post (.meshRoute n m))) ∧
      ∀ g p a, s.guardDrop at_ n m = some (g, p) → m.pay = .access a → a.iss.hw < 16 → m.typ ∈ [1, 2, 3] →
        completes (.meshRoute at_ m) s fun t => s.sameMemory t ∧ t.tiles = s.tiles ∧
          ∃ k ∈ t.flight, ∃ r, k = .meshRoute g r ∧ r.typ = m.typ + 7 ∧ r.dst = m.src ∧ r.arg.extractLsb' 24 8 = 4) ∧
    (∀ x y dx dy, at_ = .router x y → m.dst = .router dx dy → x < 66 → dx < 66 → y < 32 → dy < 32 → s.routers = [] → s.regs = [] →
      s.nextHop at_ m = if x < dx then some (.router (x + 1) y) else if dx < x then some (.router (x - 1) y)
        else if y < dy then some (.router x (y + 1)) else if dy < y then some (.router x (y - 1))
        else some (.router x y)) ∧
    exec (.tailKill at_ m) s = .next s ∧
    (∀ x y dir, at_ = .router x y → s.linkState x y (dirNo dir) ≠ 3 →
      let a := linkStat x y (dirNo dir)
      let n := ((s.reg a).extractLsb' 32 16).toNat + 1
      n ≤ ((s.reg (routerReg x y 0x200)).extractLsb' 0 16).toNat →
      (inPort at_ m = dirNo dir → completes (.reservedTypeMessage at_ m) s fun t =>
        ((t.reg a).extractLsb' 32 16).toNat = n ∧ (∀ b, b ≠ a → t.reg b = s.reg b) ∧ t.flight = s.flight ∧
          t.tiles = s.tiles ∧ s.sameMemory t) ∧
      ∀ failed < 3, completes (.flitRetry x y dir failed) s fun t => ((t.reg a).extractLsb' 32 16).toNat = n ∧
        ((t.reg a).extractLsb' 48 16).toNat = min (((s.reg a).extractLsb' 48 16).toNat + 1) 65535 ∧
        (∀ b, b ≠ a → t.reg b = s.reg b) ∧ t.flight = s.flight ∧ t.tiles = s.tiles ∧ s.sameMemory t)


/-! ## The scroll -/

namespace Sys2Proof.Machine

/-- The reply of a request, with its CODE and TAG, the status and the time, at REPLY_ADDR + `off`, and its vector
(R57). -/
def State.answered (s t : State) (k : Nat) (q : BitVec 512) (off code status : Nat) : Prop :=
  t.hostMem = Memory.write s.hostMem (k * 2 ^ 64 + reqReply q + off) (replyBytes code status (reqTag q) s.time) ∧
    t.msix = s.msix ++ [(k, reqMsix q)]

/-- A station has sent a control message about a band (R8, R135). -/
def State.tells (t : State) (k : Nat) (dst : Node) (typ : BitVec 8) (c : Ctrl) : Prop :=
  ∃ m : Msg, .meshRoute (.station k) m ∈ t.flight ∧ m.typ = typ ∧ m.dst = dst ∧ m.pay = .ctrl c

end Sys2Proof.Machine

/-- R8, R34, R36, R37, R40, R41, R321: a tile is ready when its run is over and what is due has arrived; the
controller starts the next step when every tile has contributed, the stations are primed and GAIT_MIN has passed;
stage entry sets the domain and starts the stage threads; a finished stage lets the tile contribute again; saddles
come from SADDLE_INIT or the history. Ready, marker, step start and stage done travel as messages of types 0x11 and
0x13. -/
def Obligations.ScrollSteps : Prop :=
  ∀ (s : State) (T d n st w step : Nat) (b : Band),
    let dm := s.dom T d
    let j := dm.bRow
    let k := b.rowOf j
    (s.bandAt T d = some (n, b) → (s.tile T).fenced = false →
      (b.finished = false → b.replay = none → dm.isReady = false →
        (b.started = true → ∀ x y, b.runAt b.step j = some (x, y) → s.ranOut n T x y b.step = true) →
        ((∀ x ∈ s.expects b b.nextStep j, x.2 ≤ Table.get 0 dm.due x.1) →
          completes (.tileReady T d) s fun t => t.dom T d = { dm with isReady := true } ∧ s.sameMemory t ∧
            ∃ m, t.flight = s.flight ++ [.meshRoute (s.nodeOf T) m] ∧ m.typ = 0x11 ∧ m.dst = .station (T / 64) ∧
              m.pay = .ctrl (.ready n j T)) ∧
        ((∃ x ∈ s.expects b b.nextStep j, Table.get 0 dm.due x.1 < x.2) → exec (.tileReady T d) s = .next s)) ∧
      (b.present j = some (st, w, step) → b.started = true → b.replay = none → s.inRun n T st w step = false →
        (st = 0 → dm.halfCount (w / b.height % 2) = 0) → ∀ r, s.stageRec b st = some r →
        completes (.stageEntry T d) s fun t =>
          let v := t.dom T d
          v.stage = BitVec.ofNat 16 st ∧ v.wave = BitVec.ofNat 32 (b.firstWave + w) ∧ v.step = BitVec.ofNat 64 step ∧
          v.srec = r ∧ v.running = true ∧ v.sbb = decide (step % 2 = 1) ∧
          v.marker = BitVec.ofNat 64 (s.number (lsAddr T (dm.saddleAt step)) 8) ∧ v.slotMask = r.extractLsb' 448 16 ∧
          v.accMask = r.extractLsb' 384 64 ∧ v.barMask = r.extractLsb' 368 16 ∧ s.sameMemory t ∧
          (∀ q ∈ [T / 64, 32 + T / 64], ∃ m, .meshRoute (s.nodeOf T) m ∈ t.flight ∧ m.typ = 0x11 ∧ m.dst = .station q ∧
            ∃ w', m.pay = .ctrl (.marker n j T v.stage.toNat w' v.step.toNat v.marker.toNat)) ∧
          ∀ i < dm.thrCount, let x := t.thread T (dm.thrFirst + i)
            if i < (r.extractLsb' 0 5).toNat then x.run = .ready ∧ x.idx = i ∧ x.priv = 0 ∧ x.cause = 0 ∧ x.p = 0 ∧ x.m = [] ∧
              x.pc = (r.extractLsb' (64 + 32 * (r.extractLsb' (8 + 2 * i) 2).toNat) 32).setWidth 64 ∧
              x.fmtA = r.extractLsb' 304 4 ∧ x.fmtB = r.extractLsb' 308 4 ∧ x.scaleA = r.extractLsb' 320 24 ∧
              x.scaleB = r.extractLsb' 344 24 ∧ x.rx 1 = BitVec.ofNat 64 i ∧ x.rx 2 = r.extractLsb' 192 64 ∧
              ∀ q, q ≠ 1 → q ≠ 2 → x.rx q = 0
            else x.run = .idle) ∧
      (b.present j = some (st, w, step) → s.inRun n T st w step = true → dm.running = true →
        ((∃ i < dm.nThreads, (s.thread T (dm.thrFirst + i)).run ≠ .done) → exec (.stageDone T d) s = .next s) ∧
        (let s0 := s.lsStore T dm.saddleActive (s.saddleHeader T d)
         (∀ i < dm.nThreads, (s.thread T (dm.thrFirst + i)).run = .done) → b.replay = none →
         (∀ q ∈ [k, 32 + k], s.cursorOf q n j st w = none) →
         s0.leavesGood T dm (b.edges.filter fun e => e.from_ == st && w % b.height + e.k < b.height) = true →
         (s0.gwrite k b.pid true [] (b.histEntry step j (T % 64 - b.col0) % 2 ^ 55)
           (s0.lsRead T dm.saddleActive dm.saddleSize)).2 = .ok [] →
         completes (.stageDone T d) s fun t => (t.dom T d).running = false ∧ .tileReady T d ∈ t.flight))) ∧
    (s.bandOf n = some b →
      (∀ i d', s.bandDom n T = some d' →
        (b.rowOf i ≠ b.rowOf 0 → completes (.readyReduction n i T) s fun t =>
          t.tells (b.rowOf i) (.station (b.rowOf 0)) 0x11 (.ready n i T) ∧ t.bands = s.bands ∧ s.sameMemory t) ∧
        ((s.dom T d').isReady = true → (i, T) ∉ b.readyT →
          let b1 := { b with readyT := b.readyT ++ [(i, T)] }
          ((∀ x < b.height, ∀ y ∈ s.liveTiles b x, (x, y) ∈ b1.readyT) →
            let t := (s.setBand n (some b1)).post (.stepStart n)
            (b.rowOf i = b.rowOf 0 → exec (.readyReduction n i T) s = .next t) ∧
            (Event.readyReduction (b.rowOf 0) n i T).run s = .next t) ∧
          ((∃ x < b.height, ∃ y ∈ s.liveTiles b x, (x, y) ∉ b1.readyT) →
            let t := s.setBand n (some b1)
            (b.rowOf i = b.rowOf 0 → exec (.readyReduction n i T) s = .next t) ∧
            (Event.readyReduction (b.rowOf 0) n i T).run s = .next t))) ∧
      (b.finished = false → b.replay = none → b.over_ = false →
        ((∃ x < b.height, ∃ y ∈ s.liveTiles b x, (x, y) ∉ b.readyT) → exec (.stepStart n) s = .next s) ∧
        ((∀ x < b.height, ∀ y ∈ s.liveTiles b x, (x, y) ∈ b.readyT) → b.holding = false → s.bandPrimed n b = true →
          s.loadsOf b = [] → (b.started = true → b.startAt + b.gaitMin ≤ s.mcycle) →
          completes (.stepStart n) s fun t => s.sameMemory t ∧
            (∃ b', t.bandOf n = some b' ∧ b'.step = b.nextStep ∧ b'.started = true ∧ b'.startAt = s.mcycle ∧ b'.readyT = []) ∧
            ∀ x < b.height, t.tells (b.rowOf 0) (.station (b.rowOf x)) 0x13 (.start n b.nextStep) ∧
              ∀ y ∈ s.liveTiles b x, ∀ d', s.bandDom n y = some d' → (t.dom y d').isReady = false)) ∧
      (b.saddleInit = 0 → b.nextStep = st → b.runAt st 0 = some (st, 0) → s.loadsOf b = [] →
        completes (.initialSaddleDelivery n st) s fun t => s.sameMemory t ∧
          (∀ q ∈ [b.rowOf 0, 32 + b.rowOf 0], t.tells (b.rowOf 0) (.station q) 0x13 (.done n 0 st 0 0)) ∧
          ∀ y ∈ s.liveTiles b 0, s.hasSaddle n b y st st = false → (s.domOf y b.pid).isSome = true →
            ∃ m bytes i key t3, .meshRoute (.station (b.rowOf 0)) m ∈ t.flight ∧ m.typ = 0x19 ∧ m.dst = s.nodeOf y ∧
              m.pay = .bulk bytes key i t3 ∧ ∀ c ∈ bytes, c = 0) ∧
      (∀ y s1 bytes, b.runAt b.nextStep 0 = some (st, w) → 0 < w →
        ((s.liveTiles b 0).filter fun x => !s.hasSaddle n b x b.nextStep st) = [y] →
        s.gread (b.rowOf 0) b.pid true (b.histEntry (b.tau (w - 1) st) ((w - 1) % b.height) (y % 64 - b.col0) % 2 ^ 55)
          (s.saddleLen b st) = (s1, .ok bytes) →
        exec (.parkedSaddleDelivery n) s = .next (s1.sendSaddle (.station (b.rowOf 0)) 0 b.pid y b.nextStep bytes)))

/-- R39, R45, R46, R48, R57, R252, R359, R360: commit entries are carried out one by one and the half is then empty; a
band finishes, a drained region is freed and its DRAIN answered, a launch ends with its reply; a freeze writes its
image, or is given up with STATUS 0x11; GAIT_MAX brings overrun orders, or notice 0x34 where no thread is unfinished
and nothing holds the band. -/
def Obligations.ScrollEnds : Prop :=
  ∀ (s : State) (n w c i T d k : Nat) (b : Band) (r : Region) (q : BitVec 512) (la : Launch),
    let h := w / b.height % 2
    let dm := s.dom T d
    (s.bandOf n = some b → b.finished = false →
      (b.commits = w → s.waveRan n b w = true → b.progress = (c, i) →
        ((b.rowTiles (w % b.height))[c]? = none → completes (.waveCommit n w) s fun t =>
          (∃ b', t.bandOf n = some b' ∧ b'.commits = w + 1 ∧ b'.progress = (0, 0)) ∧ s.sameMemory t ∧
          .stepStart n ∈ t.flight ∧
          ∀ y ∈ b.rowTiles (w % b.height), ∀ d', s.bandDom n y = some d' → (t.dom y d').halfCount h = 0) ∧
        ((b.rowTiles (w % b.height))[c]? = some T → s.bandDom n T = some d → (s.tile T).fenced = false →
          s.domOf T dm.pid = some d → i < dm.halfCount h →
          let e := BitVec.ofNat 128 (s.number (lsAddr T (dm.commitAt h i)) 16)
          let off := (e.extractLsb' 0 24).toNat
          let size := 2 ^ (e.extractLsb' 62 2).toNat
          e.extractLsb' 60 2 = 1 → (e.extractLsb' 24 12).toNat = T → dm.lsBase ≤ off → off + size ≤ dm.lsBase + dm.lsSize →
          completes (.waveCommit n w) s fun t =>
            (s.storedTo t (lsAddr T off) size fun x => e.extractLsb' (64 + 8 * x) 8) ∧
            (∃ b', t.bandOf n = some b' ∧ b'.progress = (c, i + 1) ∧ b'.commits = w) ∧
            t.flight = s.flight ++ [.waveCommit n w])) ∧
      (b.over_ = true → b.total.getD 0 ≤ b.commits → b.saddleOut = 0 → s.regionOf b.region = some r →
        s.launchOf r.launch = some la → la.started = true →
        exec (.bandFinish n) s = .next ((s.setBand n (some { b with finished := true })).post
          (if r.phase = 1 then .drainComplete b.region else .launchEnd r.launch))) ∧
      (b.step = w → b.started = true → b.overrun = false → b.gaitMax ≠ 0 → b.startAt + b.gaitMax ≤ s.mcycle →
        let open_ (y : Nat) : Prop := y ∈ b.tiles ∧ (s.tile y).fenced = false ∧
          ∃ d', s.bandDom n y = some d' ∧ (s.dom y d').running = true ∧ s.unfinished y d' ≠ []
        ((∀ y, ¬ open_ y) → b.holding = true ∨ b.replay ≠ none → exec (.stepOverrun n w) s = .next s) ∧
        ((∀ y, ¬ open_ y) → b.holding = false → b.replay = none → completes (.stepOverrun n w) s fun t => s.sameMemory t ∧
          ∃ m, t.flight = s.flight ++ [.meshRoute (.station (b.rowOf 0)) m] ∧ m.typ = 0x21 ∧ m.arg = 0x34 ∧
            m.pay = .words (BitVec.ofNat 64 w) 0) ∧
        ((∃ y, open_ y) → completes (.stepOverrun n w) s fun t => s.sameMemory t ∧
          ∀ x < b.height, t.tells (b.rowOf 0) (.station (b.rowOf x)) 0x13 (.overrun n w)))) ∧
    (dm.step.toNat = w → dm.running = true → (∀ x ea y, (s.thread T x).run ≠ .parked (.fe ea) y) →
      completes (.overrunOrder T d w) s fun t => s.sameMemory t ∧ t.flight = s.flight ∧
        ∀ x, t.thread T x = if x ∈ s.unfinished T d then { s.thread T x with overrun := true } else s.thread T x) ∧
    (s.regionOf n = some r →
      (r.phase = 1 → r.req = some (k, q) →
        (s.regionBands n = [] → completes (.drainComplete n) s fun t => t.regionOf n = none ∧ s.answered t k q 0 (reqCode q) 0 ∧
          .launchEnd r.launch ∈ t.flight) ∧
        ∀ old s0 s1, s.regionBands n = [(w, b)] → b.finished = true → s.physAll (stackOf b.addr) 0 b.addr 128 = (s0, .ok, old) →
          s0.fwWrite b.addr (toBytes 128 (drainedRcb b (BitVec.ofNat 1024 (ofBytes old))).toNat) = (s1, true) →
          completes (.drainComplete n) s fun t => t.regionOf n = none ∧ t.bandOf w = none ∧ (k, reqMsix q) ∈ t.msix ∧
            .launchEnd r.launch ∈ t.flight) ∧
      (r.phase = 2 → r.req = some (k, q) → r.limit ≠ 0 →
        let ts := s.imageTiles n
        (s.regionQuiet n = false → exec (.freezeImageWrite n) s = .next (s.after 1 (.freezeImageWrite n))) ∧
        (∀ s1, s.regionQuiet n = true →
          (∀ x ∈ ts, s.lsBad x.1 (s.dom x.1 x.2).lsBase (s.dom x.1 x.2).lsSize = false ∧
            (∀ a < 64, (s.dom x.1 x.2).accMask.getLsbD a = true → s.accBad x.1 a = false) ∧
            ∀ a < 16, (s.dom x.1 x.2).slotMask.getLsbD a = true → s.slotBad x.1 a = false) →
          s.fwWrite (reqImage q) ((ts.zipIdx).flatMap fun x =>
            headerBytes s.images.length x.2 ++ s.tileImage x.1.1 x.1.2) = (s1, true) →
          completes (.freezeImageWrite n) s fun t => t.regionOf n = some { r with req := none, limit := 0 } ∧
            t.mem = s1.mem ∧ t.images.length = s1.images.length + 1 ∧ (k, reqMsix q) ∈ t.msix) ∧
        (r.limit ≤ s.mcycle → completes (.freezeAbandon n) s fun t =>
          t.regionOf n = some { r with phase := 0, req := none, limit := 0 } ∧ s.answered t k q 0 (reqCode q) 0x11 ∧
          ∀ m x, s.bandOf m = some x → x.region = n → ∃ b', t.bandOf m = some b' ∧ b'.holding = false))) ∧
    (s.launchOf n = some la → la.started = true → (∀ x ∈ s.bandsOf n, x.2.finished = true) →
      (∀ x ∈ s.regionsOf n, x.2.phase = 0) → s.removals = [] →
      completes (.launchEnd n) s fun t => t.launchOf n = none ∧ (∀ x ∈ s.regionsOf n, t.regionOf x.1 = none) ∧
        s.answered t la.sv la.req 32 0x81 la.status)

/-! ## The timetable and light -/

/-- R87 to R94, R155 to R159, R321, R371, R386, R387, R409: a row's stations open their entries; the row marker is the
minimum of its tiles' markers; each kind of occurrence has its effect; frames fill a slot, are asked for again when
their CRC fails, and set the full bit when the last byte has come; a slot is released when every tile has released it.
-/
def Obligations.Timetable : Prop :=
  ∀ (s s1 : State) (T d n j st w step low k : Nat) (b : Band) (o : Occ) (bytes : List Byte),
    let slot := (o.entry.extractLsb' 8 4).toNat
    let len := (o.entry.extractLsb' 96 32).toNat
    let lo := (o.entry.extractLsb' 72 24).toNat
    (s.bandOf n = some b →
      (b.admits w = false → exec (.stageDoneReport n j st w low) s = .next s) ∧
      (b.admits w = true → (∀ q ∈ rowStations (b.rowOf j), s.cursorOf q n j st w = none) →
        (∃ r, s.stageRec b st = some r ∧ r.extractLsb' 512 64 = 0) →
        completes (.stageDoneReport n j st w low) s fun t =>
          t.flight = s.flight ++ [.stepStart n, .stepStart n] ∧ s.sameMemory t ∧
          ∀ q ∈ rowStations (b.rowOf j), ∃ c, (t.station q).cursors = (s.station q).cursors ++ [c] ∧ c.is n j st w = true ∧
            c.mIn = low ∧ c.mark = low ∧ c.entries = []) ∧
      ((∀ y ∈ s.liveTiles b j, s.inRun n y st w step = true ∧ ∃ d', s.bandDom n y = some d' ∧ low ≤ (s.dom y d').marker.toNat) →
        (∃ y ∈ s.liveTiles b j, ∃ d', s.bandDom n y = some d' ∧ (s.dom y d').marker.toNat = low) →
        (∀ c any, s.cursorOf k n j st w = some c →
          ∃ t, (Event.markerReduction k n j T st w step any).run s = .next t ∧
            ∃ x, t.cursorOf k n j st w = some x ∧ x.mark = max c.mark low ∧ x.entered = true) ∧
        (∀ any, b.present j = some (st, w, step) →
          completes (.markerReduction n j T any) s fun t => ∀ q ∈ rowStations (b.rowOf j), ∀ c, s.cursorOf q n j st w = some c →
            ∃ x, t.cursorOf q n j st w = some x ∧ x.mark = max c.mark low ∧ x.entered = true))) ∧
    (s.occLive o = some (b, k) →
      let base := b.pid
      (s.prefetch k base (Occ.va o % 2 ^ 55) len = (s1, .ok) → exec (.kind1Prefetch o) s = .next (s1.doneOcc o)) ∧
      (s.gread k base true (Occ.va o % 2 ^ 55) len = (s1, .ok bytes) →
        let g := (o.entry.extractLsb' 12 12).toNat
        completes (.kind2Emit o) s fun t => t.mem = s1.mem ∧
          ∀ y ∈ s1.dropTiles g (b.rowOf o.row), ∀ x, 2048 * x < bytes.length → ∃ f, (.lightFrame y f ∈ t.flight ∨ (y, f) ∈ t.light) ∧
            f.group = BitVec.ofNat 12 g ∧ f.slot = BitVec.ofNat 4 slot ∧ f.offset = BitVec.ofNat 17 (2048 * x) ∧
            f.payload = (bytes.drop (2048 * x)).take 2048 ∧ f.last = decide (bytes.length ≤ 2048 * (x + 1)) ∧ f.crcOk = true ∧
            f.fill = BitVec.ofNat 16 (Table.get 0 s1.fillNo (fillKey g slot))) ∧
      (s.liveTiles b o.row = [T] → s.lsBad T lo len = false → entThrough o.entry = false →
        s.gwrite k base true [] (colVa o (T % 64 - b.col0)) (s.lsRead T lo len) = (s1, .ok []) →
        completes (.kind3Writeback o) s fun t => t.mem = s1.mem ∧ .stepStart o.band ∈ t.flight ∧
          ∀ x, s.bandDom o.band T = some x → .stageDone T x ∈ t.flight) ∧
      (s.liveTiles b o.row = [T] → s.bandDom o.band T = some d → (s.dom T d).lsBase ≤ lo →
        lo + len ≤ (s.dom T d).lsBase + (s.dom T d).lsSize →
        s.gread k base true (colVa o (T % 64 - b.col0)) len = (s1, .ok bytes) →
        ((s.dom T d).touchesCode lo len = false → completes (.kind4Fetch o) s fun t => .residencyComplete T d o ∈ t.flight ∧
          ∀ x < bytes.length, t.byte (lsAddr T (lo + x)) = bytes.getD x 0) ∧
        ((s.dom T d).touchesCode lo len = true → completes (.kind4Fetch o) s fun t => t.mem = s1.mem)) ∧
      completes (.kind5Assert o) s fun t => t.flight = s.flight ++ [.stepStart o.band] ∧ s.sameMemory t ∧
        ∀ y ∈ s.liveTiles b o.row, t.slot y slot = { s.slot y slot with due := some (o.m, o.stage, o.wave) }) ∧
    (∀ x, s.bandOf o.band = some b → (s.dom T d).resid = [x] → x.m = o.m → x.stage = o.stage → x.wave = o.wave → x.lo = lo → x.len = len →
      x.st = 0 → (∀ y c, (s.thread T y).run ≠ .parked .resident c) →
      completes (.residencyComplete T d o) s fun t => (t.dom T d).resid = [{ x with st := 1 }] ∧ s.sameMemory t) ∧
    (let x := s.slot T slot
     (x.full = true → exec (.lostFill T slot) s = .next s) ∧
     (x.full = false → completes (.lostFill T slot) s fun t => t.slot T slot = { x with lost := true } ∧ s.sameMemory t ∧
       s.tellsRelease t T slot) ∧
     (∀ p q, s.slotRow T slot = some (p, q) → ((s.rel p q slot).free = true → exec (.slotRelease T slot) s = .next s) ∧
       ((s.rel p q slot).free = false → (s.station (T / 64)).cursors = [] → (s.station (32 + T / 64)).cursors = [] →
       let r := s.rel p q slot
       let cols := if T % 64 ∈ r.cols then r.cols else r.cols ++ [T % 64]
       ((∀ y ∈ s.dropTiles r.group (T / 64), y % 64 ∈ cols) →
         exec (.slotRelease T slot) s = .next (s.setRel p q slot { r with free := true, cols := [], got := [] })) ∧
       ((∃ y ∈ s.dropTiles r.group (T / 64), y % 64 ∉ cols) →
         exec (.slotRelease T slot) s = .next (s.setRel p q slot { r with cols := cols }))))) ∧
    (∀ f : Frame, let g := f.group.toNat
      let m := f.slot.toNat
      let x := s.slot T m
      let x1 : Slot := if x.cur = some (g, f.fill.toNat) then x
        else { x with cur := some (g, f.fill.toNat), taken := [], count := 0, total := none, repairs := [], lost := false }
      let pos := f.offset.toNat / 2048
      let follows (t : State) : Prop :=
        ∀ y, (s.light.find? fun z => z.1 == T && z.2.lambda == f.lambda) = some y → .lightFrame T y.2 ∈ t.flight
      s.takesLight T f = true → (s.groupEntry g).getLsbD (176 + m) = true → (s.lightDom T g m).isSome = true →
      (f.crcOk = true → pos ∉ x1.taken →
        let count := x1.count + f.payload.length
        let whole := if f.last = true then some (f.offset.toNat + f.payload.length) else x1.total
        completes (.lightFrame T f) s fun t => t.mem = s.mem ∧ t.acc = s.acc ∧ follows t ∧
          (∀ y < f.payload.length, Memory.get t.slotMem (slotAddr T m (f.offset.toNat + y)) = f.payload.getD y 0) ∧
          (t.slot T m).taken = x1.taken ++ [pos] ∧ (t.slot T m).count = count ∧
          (whole = some count → (t.slot T m).full = true ∧ (t.slot T m).fmt = f.fmt ∧ (t.slot T m).fill = f.fill ∧
            (t.slot T m).scaleOff = f.scaleOff ∧ (t.slot T m).len = count) ∧
          (whole ≠ some count → (t.slot T m).full = x1.full)) ∧
      (f.crcOk = true → pos ∈ x1.taken → completes (.lightFrame T f) s fun t => t.tiles = s.tiles ∧ t.slotMem = s.slotMem ∧ follows t) ∧
      (f.crcOk = false → Table.get 0 x1.repairs pos < 3 → completes (.lightFrame T f) s fun t => t.slotMem = s.slotMem ∧ follows t ∧
        ∃ m, .meshRoute (s.nodeOf T) m ∈ t.flight ∧ m.typ = 0x07 ∧ m.dst = .station f.src ∧
          m.pay = .bytes (toBytes 4 f.offset.toNat))) ∧
    (∀ (m : Msg) (l : List Byte), m.dst = .station k → m.pay = .bytes l →
      s.fillOcc (m.arg.extractLsb' 20 12).toNat (m.arg.extractLsb' 16 4).toNat (k % 32) = some o →
      (∃ k', s.occLive o = some (b, k')) → ofBytes l < len →
      s.gread k b.pid true ((Occ.va o + ofBytes l) % 2 ^ 55) (min 2048 (len - ofBytes l)) = (s1, .ok bytes) →
      completes (.frameRepairRequest m) s fun t => t.mem = s1.mem ∧
        ∀ y ∈ s1.dropTiles (m.arg.extractLsb' 20 12).toNat (k % 32), ∃ f, (.lightFrame y f ∈ t.flight ∨ (y, f) ∈ t.light) ∧
          f.offset = BitVec.ofNat 17 (ofBytes l) ∧ f.payload = bytes ∧ f.fill = m.arg.extractLsb' 0 16 ∧ f.crcOk = true)


/-! ## Engines, stream ports and completions -/

namespace Sys2Proof.Machine

/-- A completion message of an engine or a port has left: MKIND, STATUS and TAG, and its two doublewords (R168). -/
def State.completed (t : State) (src dst : Node) (pid mkind status tag : Nat) (d0 d1 : W64) : Prop :=
  ∃ m, .meshRoute src m ∈ t.flight ∧ m.typ = 0x0C ∧ m.src = src ∧ m.dst = dst ∧ m.pid = BitVec.ofNat 16 pid ∧
    m.arg = BitVec.ofNat 32 tag ∧ m.pay = .done mkind status d0 d1

/-- STATUS and DATA0 of a record of n units: the number of bytes, or the first failure and its unit (R168, R383). -/
def endCode (f : Option (Nat × Nat)) (n : Nat) : Nat × Nat := f.elim (0, n) id

end Sys2Proof.Machine

/-- R104, R162, R165, R168, R172, R174, R291, R344, R381, R383: a command is queued with the lines that it owns,
rejected with its STATUS, or held at a full queue; an engine moves its units from source to destination, parks at a
fault, ends at a failure; transfers and patterns complete with their message once everything is acknowledged; a
finished matrix command leaves the queue, and `mdrainv` writes the rows that the array took. -/
def Obligations.EnginesAndPorts : Prop :=
  ∀ (s s1 s2 : State) (m : Msg) (c : EngCmd) (n e T p d : Nat) (bytes : List Byte),
    let st := s.station n
    (m.dst = .station n → m.pay = .eng c →
      let mine := (st.queue.filter fun x => x.2.1 == m.pid.toNat).length
      let code := s.recordCode c false st.txStreams
      (64 ≤ st.queue.length ∨ s.queueShare ≤ mine → exec (.engineCommand m) s = .next (s.holdAt n (.engineCommand m))) ∧
      (st.queue.length < 64 → mine < s.queueShare →
        (code ≠ 0 → completes (.engineCommand m) s fun t => t.stations = s.stations ∧ t.owned = s.owned ∧ s.sameMemory t ∧
          t.completed (.station n) (s.nodeOf c.iss.tile) m.pid.toNat 2 code (layoutOf c.desc).tag 0 c.aux) ∧
        (let ls := (s.destLines n m.pid.toNat c).map (·.1)
         let held := ∃ x ∈ s.destLines n m.pid.toNat c, s.isOwned x.1 = true ∨ s.bucketShut x.2 = true
         (code = 0 → held → exec (.engineCommand m) s = .next (s.holdAt n (.engineCommand m))) ∧
         (code = 0 → ¬ held → completes (.engineCommand m) s fun t => s.sameMemory t ∧
           ((c, m.pid.toNat, ls) ∈ (t.station n).queue ∨
             ∃ e r, t.engine n e = some r ∧ r.cmd = c ∧ r.pid = m.pid.toNat ∧ r.lines = ls ∧ r.pos = 0) ∧
           (∀ x ∈ ls, t.isOwned x = true) ∧ ∀ x, x ∉ ls → t.isOwned x = s.isOwned x)))) ∧
    (s.engine n e = none → (∀ q ∈ st.queue, s.freeEngine n q.2.1 ≠ some e) → exec (.blockTransferStart n e) s = .next s) ∧
    (∀ r, s.engine n e = some r →
      let l := layoutOf r.cmd.desc
      let u := unitBytes l.fmt
      let va (a : W64) (o : Int) : Nat := ((a + BitVec.ofInt 64 o).extractLsb' 0 55).toNat
      let user := r.cmd.iss.priv == 0
      let a := va l.src (l.offsets r.pos).1
      let b := va l.dst (l.offsets r.pos).2
      (r.pos + 1 = l.units → r.fail = none → r.park = none → r.dels = [] → windowOf (l.src + BitVec.ofInt 64 (l.offsets r.pos).1) = .global →
        windowOf (l.dst + BitVec.ofInt 64 (l.offsets r.pos).2) = .global → l.ordered = false →
        (∀ x, s.greadAs n r.pid user r.lines a u = (s1, .ok bytes) →
          s1.gwrite n r.pid user r.lines b bytes = (s2, .ok x) → r.sent ≤ r.acked →
          exec (.blockTransferStart n e) s =
            .next ((s2.setEngine n e (some { r with pos := l.units, park := none })).post (.transferComplete n e))) ∧
        (∀ v, s.greadAs n r.pid user r.lines a u = (s1, .lost v) → r.sent ≤ r.acked →
          exec (.blockTransferStart n e) s =
            .next ((s1.setEngine n e (some { r with fail := some (0x20, r.pos), park := none })).post (.transferComplete n e))) ∧
        (∀ k v, s.greadAs n r.pid user r.lines a u = (s1, .fault k v) → completes (.blockTransferStart n e) s fun t =>
          ∃ x, t.engine n e = some x ∧ x.pos = r.pos ∧ x.park = some 0 ∧ x.cmd = r.cmd) ∧
        (s.greadAs n r.pid user r.lines a u = (s1, .wait) → exec (.blockTransferStart n e) s =
          .next ((s1.setEngine n e (some { r with park := none })).holdAt n (.blockTransferStart n e)))) ∧
      (r.acked < r.sent ∨ (r.pos ≠ l.units ∧ r.fail = none) → exec (.transferComplete n e) s = .next s) ∧
      (r.sent ≤ r.acked → r.pos = l.units ∨ r.fail.isSome = true →
        completes (.transferComplete n e) s fun t => (st.queue = [] → t.engine n e = none) ∧ s.sameMemory t ∧
          (∀ x ∈ r.lines, t.isOwned x = false) ∧ (∀ x, x ∉ r.lines → t.isOwned x = s.isOwned x) ∧
          (l.mboxEn = true ∨ r.fail.isSome = true →
            let x := endCode r.fail (l.units * u)
            t.completed (.station n) (s.nodeOf r.cmd.iss.tile) r.pid 2 x.1 l.tag (BitVec.ofNat 64 x.2) r.cmd.aux))) ∧
    (let q := s.port T p
     (∀ x rest, q.cur = none → q.queue = x :: rest → x.sent ≤ x.acked → s.recordCode x.cmd true (s.tile T).txStreams ≠ 0 →
       completes (.streamPatternStart T p) s fun t => s.sameMemory t ∧ t.flight = s.flight ++ [.patternComplete T p] ∧
         (t.port T p).queue = rest ∧ ∃ y, (t.port T p).cur = some y ∧
           y.fail = some (s.recordCode x.cmd true (s.tile T).txStreams, 0)) ∧
     (∀ (x : Pattern) (o : Nat × Nat), q.cur = some x → x.fail = none →
       let l := layoutOf x.cmd.desc
       let pid := (s.dom T x.cmd.iss.dom).pid
       let R := o.1
       l.units = x.pos + 1 → l.ordered = false → l.mcast = 0 → (∀ y ∈ s.timers, y.2 ≠ .streamPatternStart T p) → R ≠ T →
       s.unitRead (T / 64) pid x.cmd (s.thirdParty l x.cmd) [] (l.src + BitVec.ofInt 64 (l.offsets x.pos).1) (unitBytes l.fmt) =
         (s, .none, bytes) → 0 < bytes.length → bytes.length < 1008 →
       s.sideOf x.cmd (l.dst + BitVec.ofInt 64 (l.offsets x.pos).2) = .tile R o.2 true → o.2 + bytes.length ≤ 0xC00000 →
       completes (.streamPatternStart T p) s fun t => s.sameMemory t ∧
         t.port T p = { q with cur := some { x with pos := l.units, sent := x.sent + 1 } } ∧
         ∃ k, .meshRoute (s.nodeOf T) k ∈ t.flight ∧ k.typ = 0x18 ∧ k.dst = s.nodeOf R ∧ (k.arg.extractLsb' 0 24).toNat = o.2 ∧
           k.arg.getLsbD 26 = l.full ∧ k.arg.getLsbD 27 = l.barEn ∧ k.arg.extractLsb' 28 4 = BitVec.ofNat 4 l.bar ∧
           k.pay = .bulk bytes x.pos x.cmd.iss (s.thirdParty l x.cmd)) ∧
     (∀ x, q.cur = some x →
       let l := layoutOf x.cmd.desc
       (x.acked < x.sent ∨ (x.pos < l.units ∧ endsPattern x.fail = false) → exec (.patternComplete T p) s = .next s) ∧
       (x.sent ≤ x.acked → l.units ≤ x.pos ∨ endsPattern x.fail = true → completes (.patternComplete T p) s fun t =>
         t.port T p = { q with cur := none } ∧ s.sameMemory t ∧ (q.queue ≠ [] → .streamPatternStart T p ∈ t.flight) ∧
         (l.mboxEn = true ∨ x.fail.isSome = true →
           let y := endCode x.fail (l.units * unitBytes l.fmt)
           t.completed (s.nodeOf T) (s.nodeOf T) (s.dom T x.cmd.iss.dom).pid 2 y.1 l.tag (BitVec.ofNat 64 y.2)
             x.cmd.aux)))) ∧
    (∀ k, (s.dom T d).mq = [k] → (s.dom T d).wrels = [] →
      (k.fini = false → exec (.matrixCommandComplete T d) s = .next s) ∧
      (k.fini = true → (∀ y, (s.thread T k.hw).run ≠ .parked (.drainv k.ticket) y) →
        (k.lost = false → exec (.matrixCommandComplete T d) s = .next (s.setDom T d { s.dom T d with mq := [] })) ∧
        (k.lost = true → exec (.matrixCommandComplete T d) s =
          .next ((s.setDom T d { s.dom T d with mq := [] }).setThread T k.hw
            { s.thread T k.hw with mfail := (s.thread T k.hw).mfail ++ [k.pc] }))) ∧
      (∀ y, k.fini = true → k.lost = false → (s.thread T k.hw).run = .parked (.drainv k.ticket) y →
        completes (.matrixCommandComplete T d) s fun t => (t.thread T k.hw).run = .ready ∧
          (t.thread T k.hw).pc = (s.thread T k.hw).pc + 8 ∧ (t.dom T d).mq = [] ∧ s.sameMemory t ∧
          ∀ g ty sat v acc r cM1, k.ins = .mdrainv g ty sat v acc r cM1 → ∀ i < cM1.toNat + 1, ∀ col < 64,
            let reg := v.row.toNat * modeCols (s.tile T).mode + v.col.toNat + i
            ((t.thread T k.hw).rv reg).extractLsb' (32 * col) 32 =
              BitVec.ofNat 32 (ofBytes ((k.bytes.drop (256 * i + 4 * col)).take 4))))


/-! ## Reductions and collectives -/

namespace Sys2Proof.Machine

/-- A reduction context for a group and sequence (R147). -/
def RedCtx.of (c : RedCtx) (g q : Nat) : Prop := c.group = g ∧ c.rseq = q

/-- The result of two contributions, in the node's fold order (R147). -/
def foldTwo (n : Node) (op : Nat) (a b : Nat × List W32) : List W32 :=
  if (foldOrder n).idxOf a.1 ≤ (foldOrder n).idxOf b.1 then foldPair op a.2 b.2 else foldPair op b.2 a.2

end Sys2Proof.Machine

/-- R130, R147, R196, R381, R382, R406, R407: a contribution enters a context of its group, waits for one or for an
earlier sequence, or is discarded when its sequence was aborted; the last one folds them in the node's order, and the
result goes to the parent by a message of type 0x10 or, at the root, to the tile's local store and mailbox; aborts,
which travel as messages of type 0x12, time-outs and holds of a sequence. -/
def Obligations.Reductions : Prop :=
  ∀ (s : State) (n : Node) (port g q x y : Nat) (m : Msg) (ws : List W32) (late : Bool),
    let key := nodeKey n
    let r := s.router key
    let e := Table.get 0 r.red g
    let mine (c : RedCtx) : Bool := c.group == g && c.rseq == q
    let waits (w : Nat × Msg) : Bool := w.2.arg.extractLsb' 26 6 == BitVec.ofNat 6 g && w.2.arg.extractLsb' 10 16 == BitVec.ofNat 16 q
    let sole (u : Router) : Prop :=
      (∀ c ∈ u.ctxs, c.group = g → c.rseq = q) ∧
        ∀ w ∈ u.waitRed, (w.2.arg.extractLsb' 26 6).toNat = g → (w.2.arg.extractLsb' 10 16).toNat = q
    let gone := (g, q)
    (m.pay = .elems ws → (m.arg.extractLsb' 26 6).toNat = g → (m.arg.extractLsb' 10 16).toNat = q →
      let run := exec (.reductionContribution n port m) s
      (s.sweeping n m.pid.toNat = true ∨ e.getLsbD 63 = false ∨ s.isRedAborted n g q = true →
        completes (.reductionContribution n port m) s fun t => (t.router key).ctxs = r.ctxs ∧ s.sameMemory t ∧
          ∀ w ∈ r.waitRed, (w.2.arg.extractLsb' 26 6).toNat = g → .reductionContribution n w.1 w.2 ∈ t.flight) ∧
      (s.sweeping n m.pid.toNat = false → e.getLsbD 63 = true → s.isRedAborted n g q = false →
        (s.nodeFenced m.src = true → run = .next (s.post (.reductionAbort n g q false))) ∧
        (s.nodeFenced m.src = false →
          let new : RedCtx := ⟨g, q, [(port, ws)], m.pid.toNat, s.mcycle⟩
          let room := (r.ctxs.filter fun c => c.group == g).length < (e.extractLsb' 41 2).toNat + 1
          (s.redComing n m = true → run = .next (s.post (.reductionContribution n port m))) ∧
          (s.redComing n m = false →
            ((∃ w ∈ r.waitRed, redBefore w.2 m = true) ∨ ((∀ c ∈ r.ctxs, ¬ c.of g q) ∧ ¬ room) →
              run = .next (s.setRouter key { r with waitRed := r.waitRed ++ [(port, m)] })) ∧
            ((∀ c ∈ r.ctxs, ¬ c.of g q) → room → s.redFull n e new = false →
              (∀ c ∈ r.ctxs, c.group = g → s.redFull n e c = false) →
              (∀ w ∈ r.waitRed, (w.2.arg.extractLsb' 26 6).toNat ≠ g) →
              completes (.reductionContribution n port m) s fun t => t.router key = { r with ctxs := r.ctxs ++ [new] } ∧
                t.flight = s.flight ∧ s.sameMemory t ∧
                t.timers = s.timers ++ [((.mesh, s.mcycle + 2 ^ 24), .reductionContextTimeout n g q)]) ∧
            (∀ c a, r.ctxs = [c] → c.of g q → c.contrib = [a] → r.waitRed = [] → a.1 ≠ port → a.1 < 5 → port < 5 →
              (∀ k, n ≠ .service k) → s.redFull n e { c with contrib := [a, (port, ws)] } = true →
              let res := foldTwo n (e.extractLsb' 51 4).toNat a (port, ws)
              (e.extractLsb' 55 3 ≠ 0 → ∀ up, Table.get none r.up g = some up →
                completes (.reductionContribution n port m) s fun t => (t.router key).ctxs = [] ∧
                  ∃ z, .meshRoute n z ∈ t.flight ∧ z.typ = 0x10 ∧ z.dst = s.logicalNode up ∧
                    z.arg = BitVec.ofNat 32 (g * 2 ^ 26 + q * 2 ^ 10) ∧ z.pid = BitVec.ofNat 16 c.pid ∧ z.pay = .elems res) ∧
              (∀ T d, n = .router x y → s.logical x y = some T → e.extractLsb' 55 3 = 0 → e.getLsbD 32 = false → g ∉ r.moved →
                s.domOf T c.pid = some d →
                let dest := (e.extractLsb' 0 24).toNat
                completes (.reductionContribution n port m) s fun t => (t.router key).ctxs = [] ∧
                  ((s.dom T d).touchesCode dest (4 * res.length) = false → ∀ k < res.length, ∀ b < 4,
                    t.byte (lsAddr T (dest + 4 * k + b)) = (res.getD k 0).extractLsb' (8 * b) 8) ∧
                  ((s.dom T d).touchesCode dest (4 * res.length) = true → s.sameMemory t) ∧
                  ∃ z, .engineCompletion z ∈ t.flight ∧ z.arg = BitVec.ofNat 32 (e.extractLsb' 33 8).toNat ∧
                    z.pay = .done 3 0 (BitVec.ofNat 64 q) ((e.extractLsb' 0 24).setWidth 64))))))) ∧
    (s.isRedAborted n g q = true → exec (.reductionAbort n g q late) s = .next s) ∧
    (s.isRedAborted n g q = false → g < 64 → q < 65536 → completes (.reductionAbort n g q late) s fun t =>
      (∀ c ∈ (t.router key).ctxs, ¬ c.of g q) ∧ (g, q, s.mcycle + 2 ^ 15) ∈ (t.router key).aborted ∧
      (sole r → s.sameMemory t ∧
        t.router key = { r with ctxs := r.ctxs.filter fun c => !mine c, waitRed := r.waitRed.filter fun w => !waits w
                                aborted := r.aborted ++ [(g, q, s.mcycle + 2 ^ 15)] }) ∧
      (∀ k ∈ s.redHolders n g q, ∃ z, .meshRoute n z ∈ t.flight ∧ z.typ = 0x12 ∧ z.dst = k ∧ z.pay = .ctrl (.abort g q late)) ∧
      (e.getLsbD 63 = true → e.extractLsb' 55 3 ≠ 0 → ∀ up, Table.get none r.up g = some up →
        ∃ z, .meshRoute n z ∈ t.flight ∧ z.typ = 0x12 ∧ z.dst = s.logicalNode up ∧ z.pay = .ctrl (.abort g q late)) ∧
      (e.getLsbD 63 = true → e.extractLsb' 55 3 = 0 → n = .router x y → ∃ z, .engineCompletion z ∈ t.flight ∧
        z.pay = .done 3 (if late = true then 0x31 else 0x30) (BitVec.ofNat 64 q) ((e.extractLsb' 0 24).setWidth 64))) ∧
    (s.redNext n e g = none →
      (gone ∈ r.holds → exec (.reductionContextTimeout n g q) s = .next s) ∧
      (gone ∉ r.holds →
        ((∃ c ∈ r.ctxs, c.of g q ∧ c.since + 2 ^ 24 ≤ s.mcycle ∧ s.redFull n e c = false) →
          exec (.reductionContextTimeout n g q) s = .next (s.post (.reductionAbort n g q true))) ∧
        ((∀ c ∈ r.ctxs, c.of g q → s.mcycle < c.since + 2 ^ 24) → exec (.reductionContextTimeout n g q) s = .next s))) ∧
    (let k := y * 66 + x
     let u := s.router k
     exec (.redHoldHold x y g q) s =
       .next (s.setRouter k { u with holds := if gone ∈ u.holds then u.holds else u.holds ++ [gone] }) ∧
     exec (.redHoldRelease x y g q) s =
       .next ((s.setRouter k { u with holds := u.holds.filter fun h => h != gone
                                      ctxs := u.ctxs.map fun c => if mine c then { c with since := s.mcycle } else c }).after
         (2 ^ 24) (.reductionContextTimeout (.router x y) g q)) ∧
     (g < 64 → q < 65536 → sole u →
       (gone ∉ u.holds → (∀ c ∈ u.ctxs, c.group ≠ g) → u.waitRed = [] →
         completes (.redHoldAbandon x y g q) s fun t => t.router k = u ∧ s.sameMemory t ∧ t.flight = s.flight) ∧
       (gone ∈ u.holds → completes (.redHoldAbandon x y g q) s fun t => s.sameMemory t ∧ t.flight = s.flight ∧
         t.router k = { u with holds := u.holds.filter fun h => h != gone, ctxs := u.ctxs.filter fun c => !mine c
                               waitRed := u.waitRed.filter fun w => !waits w, aborted := u.aborted ++ [(g, q, 0)] })))

namespace Sys2Proof.Machine

/-- Operation i of a graph is a send that is under way to the engine that answers, of this module or of another, and
names operation `op` of it (R183, R184). -/
def Graph.sends (g : Graph) (m : Msg) (op i : Nat) : Prop :=
  ∃ o, g.ops[i]? = some o ∧ opKind o = 0 ∧ opPeerOp o = op ∧ i ∈ g.ran ∧ i ∉ g.done ∧
    ((peerNode (opPeer o) = some m.src ∧ m.away = none) ∨
      (peerNode (opPeer o) = none ∧ ∃ a, m.away = some a ∧ a.src = opPeer o / 256 % 32 ∧
        m.src = if opPeer o / 64 % 2 = 1 then .port (opPeer o % 64) else .station (opPeer o % 64)))

/-- A slot's graph runs an instance of a job (R185). -/
def Graph.runs (g : Graph) (pid inst : Nat) : Prop :=
  g.loaded = true ∧ (g.header.extractLsb' 16 16).toNat = pid ∧ ∃ r, g.launch = some r ∧ (r.extractLsb' 112 16).toNat = inst

/-- The operation takes data and is not done (R183, R184). -/
def Graph.takes (g : Graph) (op : Nat) : Prop :=
  op ∉ g.done ∧ ∃ o, g.ops[op]? = some o ∧ (opKind o = 1 ∨ opKind o = 2)

/-- A slot of an engine is the one whose instance meets a condition (R328). -/
def State.theSlot (s : State) (n : Node) (slot : Nat) (p : Graph → Prop) : Prop :=
  (slot, s.graph n slot) ∈ graphsOf s n ∧ p (s.graph n slot) ∧ ∀ e ∈ graphsOf s n, p e.2 → e = (slot, s.graph n slot)

end Sys2Proof.Machine

/-- R181 to R186, R340, R381, R382, R407, R418 to R420, R447: loading a graph, stopping an instance, its launch, each
kind of operation, what a completed operation starts, arriving data and acknowledgements, and what becomes of a parked
stream. -/
def Obligations.Collectives : Prop :=
  ∀ (s s1 s2 : State) (n d : Node) (slot i j k pid : Nat) (m : Msg) (r : BitVec 512) (o : BitVec 256) (bytes old : List Byte)
    (v : W64) (free : Bool) (iss : Issuer),
    let g := s.graph n slot
    let inst := (r.extractLsb' 112 16).toNat
    let edge := (∃ x, n = .station x) ∨ ∃ x, n = .port x
    let job := (g.header.extractLsb' 16 16).toNat
    (let reg := nodeReg n 0x200
     let img := (v.extractLsb' 0 52).toNat
     let slot := (v.extractLsb' 59 4).toNat
     let h := BitVec.ofNat 256 (ofBytes old)
     let N := (h.extractLsb' 64 16).toNat
     let at_ := match n with | .station k => k | _ => xlatStation pid img
     pid < 65536 → s.physAll at_ pid img 32 = (s1, .ok, old) →
     s1.physAll at_ pid img (32 + 32 * min N 4096) = (s2, .ok, bytes) →
     let status (t : State) (refused : Bool) : Prop := (t.reg reg).getLsbD 63 = false ∧ (t.reg reg).getLsbD 52 = refused ∧
       ∀ b, b ≠ 63 → b ≠ 52 → (t.reg reg).getLsbD b = (s2.reg reg).getLsbD b
     (N = 0 ∨ 4096 < N → completes (.collLoad n v (BitVec.ofNat 16 pid) free) s fun t =>
       status t true ∧ t.stations = s2.stations ∧ t.portSts = s2.portSts) ∧
     (edge → N ≤ 4096 →
       let ops := (chunks 32 N (bytes.drop 32)).map fun c => BitVec.ofNat 256 (ofBytes c)
       (∀ e ∈ graphsOf s n, e.1 ≠ slot → e.2.ops = []) → graphOk h ops 0 pid free = true →
       completes (.collLoad n v (BitVec.ofNat 16 pid) free) s fun t => status t false ∧
         t.graph n slot = { Graph.reset with loaded := true, header := h, ops := ops })) ∧
    (g.launch = none → exec (.collStop n slot) s = .next s) ∧
    (edge → g.launch = some r → g.stopped = false → g.done.length ≠ g.ops.length → completes (.collStop n slot) s fun t =>
      t.graph n slot = { g with stopped := true, arrive := [] } ∧ s.sameMemory t ∧
      t.completed n (s.nodeOf g.iss.tile) job 4 0x40 inst (BitVec.ofNat 64 slot) 0x40) ∧
    (edge → m.pay = .launch r iss → slot = (r.extractLsb' 108 4).toNat → m.src = .router i j → g.loaded = true → job = m.pid.toNat →
      (∀ c < (g.header.extractLsb' 52 12).toNat + 1, s.chunkBit n 0x8000 slot c = false) →
      (∀ x ∈ earlyOf s n, x.pid ≠ m.pid) →
      (∀ x ∈ edgeBlocks, x ≠ n → holdsGraph (graphsOf s x) slot m.pid.toNat = true →
        ∃ t, exec (.collectiveLaunchRecord n m) s = .next t ∧ .meshRoute n { m with src := n, dst := x } ∈ t.flight) ∧
      completes (.collectiveLaunchRecord n m) s fun t =>
        (∃ y, t.graph n slot = { g with launch := some r, iss := iss, count := y, done := [], ran := [], arrive := [], stopped := false } ∧
          ∀ x, Table.get 0 y x = ((g.ops[x]?).map opDeps).getD 0) ∧ s.sameMemory t ∧
        ∀ x o, g.ops[x]? = some o → opDeps o = 0 → .chunkOperationRun n slot x ∈ t.flight) ∧
    (let run := exec (.chunkOperationRun n slot i) s
     let s0 := s.setGraph n slot { g with ran := g.ran ++ [i] }
     (g.stopped = true ∨ i ∈ g.ran ∨ Table.get 0 g.count i ≠ 0 → run = .next s) ∧
     (g.launch = some r → g.ops[i]? = some o → g.stopped = false → i ∉ g.ran → Table.get 0 g.count i = 0 →
       let src := (launchBase r (opSbuf o) + opSoff o) % 2 ^ 55
       let dst := (launchBase r (opDbuf o) + opDoff o) % 2 ^ 55
       let user := g.iss.priv == 0
       let data := assemble (opLen o) (g.arrived i)
       let words (l : List Byte) : List W32 := (chunks 4 (l.length / 4) l).map fun c => BitVec.ofNat 32 (ofBytes c)
       let back (l : List W32) : List Byte := l.flatMap fun w => toBytes 4 w.toNat
       (opKind o = 0 → s0.gread (engStation n job src) job user src (opLen o) = (s1, .ok bytes) →
         (peerNode (opPeer o) = some d → bytes.length ≤ 1000 → completes (.chunkOperationRun n slot i) s fun t =>
           t.mem = s1.mem ∧ ∃ z, t.flight = s1.flight ++ [.meshRoute n z] ∧ z.typ = 0x1A ∧ z.src = n ∧ z.dst = d ∧
             z.arg = BitVec.ofNat 32 (opPeerOp o * 65536 + inst) ∧ z.pay = .bytes (toBytes 8 0 ++ bytes)) ∧
         (peerNode (opPeer o) = none →
           let md := opPeer o / 256 % 32
           let to_ := s1.reg (nodeReg n (0x4000 + 8 * md))
           (to_.getLsbD 63 = false → run = .next (s1.stopInstance n slot 0x03)) ∧
           (to_.getLsbD 63 = true → to_.extractLsb' 0 48 ≠ 0 → completes (.chunkOperationRun n slot i) s fun t =>
             ∃ z, .meshRoute n z ∈ t.flight ∧ z.typ = 0x1A ∧ z.away = some ⟨s1.module.toNat, md, none⟩ ∧
               z.dst = if opPeer o / 64 % 2 = 1 then .port (opPeer o % 64) else .station (opPeer o % 64)))) ∧
       (opKind o = 1 → ∀ x, s0.gwrite (engStation n job dst) job user [] dst data = (s1, .ok x) →
         run = .next (s1.finishOp n slot i)) ∧
       (opKind o = 2 → s0.gread (engStation n job src) job user src (opLen o) = (s1, .ok bytes) → ∀ x,
         s1.gwrite (engStation n job dst) job user [] dst (back (foldPair (opRed o) (words bytes) (words data))) =
           (s2, .ok x) → run = .next (s2.finishOp n slot i)) ∧
       (opKind o = 3 → ∀ x, s0.gwrite (engStation n job dst) job user [] dst ((g.arrived i).flatMap fun p => p.2) =
         (s1, .ok x) → run = .next (s1.finishOp n slot i)) ∧
       (opKind o = 4 → ∀ x, let f := (r.extractLsb' 192 55).toNat
         s0.gwrite (engStation n job f) job user [] f (toBytes 8 (r.extractLsb' 128 64).toNat) = (s1, .ok x) →
         run = .next (s1.finishOp n slot i)) ∧
       (opKind o = 5 → run = .next (s0.finishOp n slot i)) ∧
       (opKind o = 1 → ∀ c a, s0.gwrite (engStation n job dst) job user [] dst data = (s1, .fault c a) →
         run = .next (s1.parkOp n slot i c a true)))) ∧
    (edge → g.ops[i]? = some o → i ∉ g.done → opSucc o 0 = j → j ≠ 0xFFFF → opSucc o 1 = 0xFFFF → j ∉ g.ran →
      Table.get 0 g.count j = 1 →
      let t := s.finishOp n slot i
      (t.graph n slot).done = g.done ++ [i] ∧ Table.get 0 (t.graph n slot).count j = 0 ∧
        t.flight = s.flight ++ [.chunkOperationRun n slot j] ∧ s.sameMemory t ∧
        ((∀ x y, g.ops[x]? = some y → opChunk y = opChunk o → x ∈ g.done ∨ x = i) →
          t.chunkBit n 0x2000 slot (opChunk o) = true)) ∧
    (s.sweeping n m.pid.toNat = true → exec (.collectiveChunkData n m) s = .next s) ∧
    (s.sweeping n m.pid.toNat = false → m.pay = .bytes bytes →
      (∀ e ∈ graphsOf s n, ¬(e.2.runs m.pid.toNat (m.arg.extractLsb' 0 16).toNat ∧ e.2.takes (m.arg.extractLsb' 16 16).toNat)) →
      (s.buffered n + (bytes.length - 8) ≤ 0x40000 →
        exec (.collectiveChunkData n m) s = .next (s.setEarly n (earlyOf s n ++ [m]))) ∧
      (0x40000 < s.buffered n + (bytes.length - 8) →
        exec (.collectiveChunkData n m) s = .next (s.after 64 (.collectiveChunkData n m)))) ∧
    (edge → g.stopped = false →
      (s.sweeping n m.pid.toNat = false → m.pay = .bytes (toBytes 8 j ++ bytes) → j < 2 ^ 64 →
        (m.arg.extractLsb' 16 16).toNat = i → g.ops[i]? = some o → (∀ a ∈ g.arrive, a.1 ≠ i) →
        s.theSlot n slot (fun g => g.runs m.pid.toNat (m.arg.extractLsb' 0 16).toNat ∧ g.takes i) →
        let s0 := s.setGraph n slot { g with arrive := g.arrive ++ [(i, j, bytes)] }
        (bytes.length < opLen o → exec (.collectiveChunkData n m) s = .next s0) ∧
        (opLen o ≤ bytes.length → Table.get 0 g.count i = 1 → completes (.collectiveChunkData n m) s fun t =>
          t.graph n slot = { g with arrive := g.arrive ++ [(i, j, bytes)], count := Table.set 0 g.count i 0 } ∧
          .chunkOperationRun n slot i ∈ t.flight ∧ s.sameMemory t ∧
          ∃ z, .meshRoute n z ∈ t.flight ∧ z.typ = 0x0D ∧ z.dst = m.src ∧ z.arg = m.arg)) ∧
      (let op := (m.arg.extractLsb' 16 16).toNat
       let inst := (m.arg.extractLsb' 0 16).toNat
       (s.theSlot n slot (fun g => g.runs m.pid.toNat inst ∧ ∃ x, g.sends m op x) → g.sends m op i →
         (∀ x, g.sends m op x → x = i) →
         (m.pay = .none → exec (.collectiveChunkAck n m) s = .next (s.finishOp n slot i)) ∧
         ∀ a b, m.pay = .words a b → exec (.collectiveChunkAck n m) s = .next (s.stopInstance n slot a.toNat)) ∧
       ((∀ e ∈ graphsOf s n, e.2.runs m.pid.toNat inst → ∀ x, ¬ e.2.sends m op x) →
         exec (.collectiveChunkAck n m) s = .next s))) ∧
    (edge → s.sweeping n m.pid.toNat = false → g.stopped = false → m.stream = 0 → ∀ ws, m.pay = .elems ws → g.ops = [o] →
      opKind o = 3 → opPeer o % 64 = (m.arg.extractLsb' 26 6).toNat → g.done = [] → g.arrive = [] → Table.get 0 g.count 0 = 1 →
      s.theSlot n slot (fun g => g.runs m.pid.toNat (m.arg.extractLsb' 10 16).toNat ∧
        ∃ x ∈ g.ops, opKind x = 3 ∧ opPeer x % 64 = (m.arg.extractLsb' 26 6).toNat) →
      completes (.collectiveChunkData n m) s fun t =>
        t.graph n slot = { g with arrive := [(0, 0, ws.flatMap fun w => toBytes 4 w.toNat)], count := Table.set 0 g.count 0 0 } ∧
        t.flight = s.flight ++ [.chunkOperationRun n slot 0] ∧ s.sameMemory t) ∧
    (let old := Table.get none (s.station k).faults j
     (old = none → exec (.engResolveRetry (.station k) j) s = .next s ∧ exec (.engResolveAbandon (.station k) j) s = .next s) ∧
     ∀ f, old = some f →
       (completes (.engResolveRetry (.station k) j) s fun t => Table.get none (t.station k).faults j = none ∧ s.sameMemory t ∧
         (∀ e, f.resume = some e → e ∈ t.flight) ∧
         ∀ x < 2112, f.hold = true → (f.group, f.rseq) ∈ (s.router x).holds →
           .redHoldRelease (x % 66) (x / 66) f.group f.rseq ∈ t.flight) ∧
       completes (.engResolveAbandon (.station k) j) s fun t => Table.get none (t.station k).faults j = none ∧ s.sameMemory t ∧
         (∀ x < 2112, f.hold = true → (f.group, f.rseq) ∈ (s.router x).holds →
           f.resume ≠ some (.redHoldAbandon (x % 66) (x / 66) f.group f.rseq) →
           .redHoldAbandon (x % 66) (x / 66) f.group f.rseq ∈ t.flight) ∧
         (∀ a b u, f.resume = some (.blockTransferStart a b) → s.engine a b = some u → u.fail = none → u.sent ≤ u.acked →
           t.engine a b = some { u with fail := some (0x22 + f.cause, u.pos) } ∧ .transferComplete a b ∈ t.flight) ∧
         ∀ b, f.resume = some (.chunkOperationRun n slot b) → edge → g.launch = some r → g.stopped = false →
           g.done.length ≠ g.ops.length → (t.graph n slot).stopped = true)


/-! ## Removal, translations, registers, buckets and notices -/

namespace Sys2Proof.Machine

/-- A removal of the whole job is under way, or KILL was written without one (R363). -/
def State.wholeJob (s : State) (p : Nat) : Prop :=
  (∀ r ∈ s.removals, r.pid ≠ p) ∨ ∃ r ∈ s.removals, r.pid = p ∧ r.region = none

/-- Requests counted in an epoch to the buckets of a range that lie in slice n (R82). -/
def State.sliceLoad (s : State) (first count n : Nat) : Nat :=
  (Finset.range count).sum fun i => if s.bucketStation (first + i) = n then Table.get 0 s.bcount (first + i) else 0

/-- A register whose write has no effect but on itself (R3): the others start a sweep, an invalidation, a graph load
or stop, a resolution, a laser or lane change, a row's power or a hold. -/
def plainReg (a : Nat) : Bool :=
  match blockOf a with
  | (.station _, o) => !([0x108, 0x180, 0x200, 0x208, 0xF20].contains o)
  | (.port _, o) => !([0x180, 0x200, 0x208, 0x400, 0x500, 0x508].contains o)
  | (.control, o) => o < 0x100 || 0x200 ≤ o
  | (.router _ _, o) => !([0x180, 0x1C0].contains o)
  | (.groups _, _) | (.none, _) => false
  | _ => true

/-- Every other register is the same. -/
def State.otherRegs (s t : State) (a : Nat) : Prop := ∀ b, b ≠ a → t.reg b = s.reg b

end Sys2Proof.Machine

/-- R358, R363: KILL sweeps a block for 2^15 mesh cycles and takes away the job's contexts, its domain's threads on a
tile, its engines' records, graphs and translations at a station; the last block to end its sweep confirms the
removal, which frees the regions, answers their requests with STATUS 0x10 and ends the launch. -/
def Obligations.Removal : Prop :=
  ∀ (s : State) (n : Node) (pid : BitVec 16) (k x y T d : Nat),
    let p := pid.toNat
    let run (P : State → Prop) : Prop := completes (.killWrite n pid) s P
    (s.wholeJob p → run fun t => (p, s.mcycle + 2 ^ 15) ∈ (t.router (nodeKey n)).sweeps ∧
      (∀ c ∈ (t.router (nodeKey n)).ctxs, c.pid ≠ p) ∧ ((.mesh, s.mcycle + 2 ^ 15), .killSweepEnd n pid) ∈ t.timers) ∧
    (n = .router x y → s.logical x y = some T → s.domOf T p = some d → run fun t =>
      t.dom T d = { Dom.reset with lastIss := (s.dom T d).lastIss } ∧
        (∀ i < (s.dom T d).thrCount, t.thread T ((s.dom T d).thrFirst + i) = Thread.reset) ∧
        (∀ b < 16, (s.bar T b).owner = d + 1 → t.bar T b = Barrier.reset) ∧
        (∀ i < 16, (s.dom T d).slotMask.getLsbD i = true → (t.slot T i).full = false) ∧
        ∀ i < 64, (s.dom T d).accMask.getLsbD i = true → ∀ r < 64, ∀ c < 64, t.accAt T i r c = 0) ∧
    (n = .station k → s.wholeJob p → run fun t => (∀ q ∈ (t.station k).queue, q.2.1 ≠ p) ∧
      (∀ e r, t.engine k e = some r → r.pid ≠ p) ∧ (∀ g ∈ (t.station k).graphs, (g.2.header.extractLsb' 16 16).toNat ≠ p) ∧
      (∀ v ∈ (t.station k).xlat, v.pid ≠ p) ∧ (∀ m ∈ (t.station k).early, m.pid ≠ pid)) ∧
    (let sw := (s.router (nodeKey n)).sweeps
     ((∃ v ∈ sw, v.1 = p ∧ s.mcycle < v.2) → exec (.killSweepEnd n pid) s = .next s) ∧
     ∀ r, (∀ v ∈ sw, v.1 = p → v.2 ≤ s.mcycle) → s.removals = [r] → r.pid = p →
       completes (.killSweepEnd n pid) s fun t => (∀ v ∈ (t.router (nodeKey n)).sweeps, v.1 ≠ p) ∧
         t.removals = [{ r with blocks := r.blocks.filter fun b => b != n }] ∧
         t.flight = s.flight ++ (if ∀ b ∈ r.blocks, b = n then [.removalConfirmed pid] else [])) ∧
    (∀ r la, s.removals = [r] → r.pid = p → r.blocks = [] → s.launchOf r.launch = some la →
      completes (.removalConfirmed pid) s fun t => t.removals = [] ∧ .launchEnd r.launch ∈ t.flight ∧
        (∃ l, t.launchOf r.launch = some l ∧ l.status = r.status) ∧
        ∀ i v, s.regionOf i = some v → v.live = true → (v.rcb.extractLsb' 24 16).toNat = p → r.region = none ∨ r.region = some i →
          t.regionOf i = none ∧ ∀ sv q, v.req = some (sv, q) → (sv, (q.extractLsb' 32 16).toNat) ∈ t.msix)

/-- R3, R14 to R16, R75, R76, R82, R336, R375, R384, R437: writes and reads of registers by firmware; invalidations of
translations, one at a time and over once no translated access is left; remap entries; row power; and the moves of
buckets, the lines of the bucket gone from the old slice first and every copy of the table written; the end of a lane
swap. -/
def Obligations.RegistersAndBuckets : Prop :=
  ∀ (s : State) (n a row col px : Nat) (v w : W64) (l : List Nat) (ok : Bool),
    let key := v &&& 0x407FFFFFFFFFFFFF#64
    let b := a / 8 * 8
    (s.inval.isSome = true → completes (.xlatInvalWrite n v) s fun t => t.invalQ = s.invalQ ++ [(n, key)] ∧ t.inval = s.inval ∧
      t.flight = s.flight) ∧
    (s.inval = none → completes (.xlatInvalWrite n v) s fun t => t.inval = some (key, List.range 64) ∧
      ∀ k < 64, .xlatInvalMessage k key ∈ t.flight) ∧
    (completes (.xlatInvalMessage n v) s fun t =>
      (∀ x, x ∈ (t.station n).xlat ↔ x ∈ (s.station n).xlat ∧ ¬ (x.pid = (v.extractLsb' 0 16).toNat ∧
        (v.getLsbD 62 = true ∨ x.vpn = if x.big = true then (v.extractLsb' 16 39).toNat / 2 ^ 13 else (v.extractLsb' 16 39).toNat))) ∧
      (s.inval = some (v, l) → t.inval = some (v, l.filter fun k => k != n) ∧
        ((∀ k ∈ l, k = n) → .xlatInvalDone ∈ t.flight))) ∧
    (s.inval = some (w, []) →
      (s.hasTranslated w = true → exec .xlatInvalDone s = .next (s.after 1 .xlatInvalDone)) ∧
      (s.hasTranslated w = false →
        (s.invalQ = [] → exec .xlatInvalDone s = .next { s with inval := none }) ∧
        ∀ x rest, s.invalQ = x :: rest → completes .xlatInvalDone s fun t => t.inval = some (x.2, List.range 64) ∧ t.invalQ = rest)) ∧
    (plainReg b = true → completes (.registerWrite a v) s fun t =>
      let i := regInfo b
      (∀ k < 64, (t.reg b).getLsbD k = (!(v.getLsbD k && i.w1c.getLsbD k) &&
        (if i.sv.getLsbD k = true then v.getLsbD k else (s.reg b).getLsbD k))) ∧ s.otherRegs t b) ∧
    (∀ k < 64, exec (.registerWrite (stationReg k 0x180) v) s = .next (s.post (.killWrite (.station k) (v.setWidth 16))) ∧
      exec (.registerWrite (stationReg k 0x208) v) s = .next (s.post (.collStop (.station k) (v.extractLsb' 0 4).toNat))) ∧
    (completes (.rcRegisterRead a) s fun t => t.reg b = s.reg b &&& ~~~(regInfo b).rc ∧ s.otherRegs t b) ∧
    (row < 32 →
      let r := controlReg (0x100 + 8 * row)
      (v.getLsbD 0 = true ∨ s.rowCovered row = false → exec (.rowPwrWrite row v) s =
        .next ((s.setReg r ((s.reg r &&& ~~~1#64) ||| (v &&& 1#64))).afterTicks 20000 (.rowPowerSettled row))) ∧
      (v.getLsbD 0 = false → s.rowCovered row = true → exec (.rowPwrWrite row v) s = .next s) ∧
      completes (.rowPowerSettled row) s fun t => (t.reg r).getLsbD 63 = (s.reg r).getLsbD 0 ∧
        (∀ k < 63, (t.reg r).getLsbD k = (s.reg r).getLsbD k) ∧
        ∀ c < 64, ∀ o < 0xC00000, t.byte (lsAddr (row * 64 + c) o) =
          if (s.reg r).getLsbD 0 = true ∧ (s.reg r).getLsbD 63 = false then 0 else s.byte (lsAddr (row * 64 + c) o)) ∧
    (let T := row * 64 + col
     (31 < row ∨ 63 < col ∨ 65 < px ∨ (s.logical px row).isSome = true ∨
         ((∃ r ∈ s.regionsAt T, s.regionHeld r = false) ∧ ∃ r ∈ s.regionsAt T, s.regionIdle r = false) →
       exec (.remapEntryWrite row col px) s = .next s) ∧
     (row < 32 → col < 64 → px < 66 → s.physX row col ≠ px → s.logical px row = none →
       (∀ r ∈ s.regionsAt T, s.regionHeld r = true) ∨ (∀ r ∈ s.regionsAt T, s.regionIdle r = true) →
       completes (.remapEntryWrite row col px) s fun t => t.physX row col = px ∧
         (∀ r c, c < 64 → (r, c) ≠ (row, col) → t.physX r c = s.physX r c) ∧ ∀ o < 0xC00000, t.byte (lsAddr T o) = 0)) ∧
    (let range := s.epochRange.1
     let load := s.sliceLoad range.1 range.2
     let inRange (x : Nat) : Prop := range.1 ≤ x ∧ x < range.1 + range.2
     completes .rebalanceEpoch s fun t => t.bcount = [] ∧ t.epoch = s.epochRange.2 ∧ .rebalanceEpoch ∈ t.timers.map (·.2) ∧
       (s.move.isSome = true → t.move = s.move) ∧
       (s.move = none → (∀ m, t.move = some m → inRange m.bucket ∧ s.bucketStation m.bucket = m.old ∧ m.old < 64 ∧ m.new < 64 ∧
         m.state = 0 ∧ 2 * load m.new < load m.old ∧ (∀ k < 64, load k ≤ load m.old ∧ load m.new ≤ load k) ∧
         (∀ x, inRange x → s.bucketStation x = m.old → Table.get 0 s.bcount x ≤ Table.get 0 s.bcount m.bucket) ∧
         .bucketFlushed ∈ t.flight) ∧
       ((∀ x, Table.get 0 s.bmoved x = 0) → (∃ i < 64, ∃ j < 64, 2 * load i < load j) → t.move ≠ none))) ∧
    (∀ m, s.move = some m →
      (m.state ≠ 0 → exec .bucketFlushed s = .next s) ∧
      (m.state = 0 → (∃ o ∈ s.owned, o.2 = m.bucket + 1) →
        exec .bucketFlushed s = .next (s.after 1 .bucketFlushed)) ∧
      (m.state = 0 → (∀ o ∈ s.owned, o.2 ≠ m.bucket + 1) → (s.lines.map (·.1)).Nodup →
        (∀ k x, (k, some x) ∈ s.lines → x.bucket = m.bucket → x.dirty = false) →
        completes .bucketFlushed s fun t => t.move = some { m with state := 1 } ∧ .bucketActiveAtNew ∈ t.flight ∧ t.mem = s.mem ∧
          ∀ k x, (k, some x) ∈ s.lines → x.bucket = m.bucket → Table.get none t.lines k = none) ∧
      (m.state ≠ 1 → exec .bucketActiveAtNew s = .next s) ∧
      (m.state = 1 → m.told + 1 < 64 + 2048 → exec .bucketActiveAtNew s =
        .next (({ s with move := some { m with told := m.told + 1 } } : State).post .bucketActiveAtNew)) ∧
      (m.state = 1 → 64 + 2048 ≤ m.told + 1 → completes .bucketActiveAtNew s fun t => t.move = none ∧ s.sameMemory t ∧
        ∀ x, t.bucketStation x = if x = m.bucket then m.new else s.bucketStation x)) ∧
    (let old := Table.get none (s.station n).swaps col
     (old = none → exec (.laneSwapEnd n col ok) s = .next s) ∧
     ∀ lanes way time, old = some (lanes, way, time) → completes (.laneSwapEnd n col ok) s fun t =>
       Table.get none (t.station n).swaps col = none ∧ s.sameMemory t ∧
       (∃ out, Table.get none (t.station n).again way = some out ∧ (ok = false → out = none)) ∧
       ∀ e ∈ (s.station n).waiting, e ∈ t.flight)

/-- R342, R349 to R352, R411, R441: an escalation, or a guard's report, of a job that is not placed goes to the log;
another service tile forwards it; the one that took the launch writes the notice and acknowledges, replays or applies
FATAL, which writes the job's PID to KILL of every block concerned. -/
def Obligations.Escalations : Prop :=
  ∀ (s : State) (m : Msg) (k l p : Nat) (val x : W64) (job : BitVec 1024) (la : Launch) (q : Notice),
    let code := (m.arg.extractLsb' 0 6).toNat
    let T := (x.extractLsb' 50 12).toNat
    let d := (x.extractLsb' 48 2).toNat
    let h := (x.extractLsb' 44 4).toNat
    let note (action : Nat) : Notice := ⟨val, (x.extractLsb' 0 32).toNat, T, d, h, code, action⟩
    (m.dst = .service k → m.pay = .words val x →
      (s.jobOf m.pid.toNat = none → exec (.escalation m) s = .next { s with log := s.log ++ [(code, val)] } ∧
        exec (.guardReport m) s = .next { s with log := s.log ++ [(0x39, val)] }) ∧
      (s.jobOf m.pid.toNat = some (l, job) → s.launchOf l = some la →
        (la.sv ≠ k → exec (.escalation m) s = .next (s.send { m with src := .service k, dst := .service la.sv }) ∧
          exec (.guardReport m) s = .next (s.send { m with src := .service k, dst := .service la.sv })) ∧
        (la.sv = k →
          (x.extractLsb' 62 2 = 0 → code ≠ 0x33 ∨ (s.thread T h).owed = false ∨ (s.thread T h).run ≠ .stopped → exec (.escalation m) s = .next (s.putNotice l (note 0))) ∧
          (x.extractLsb' 62 2 = 0 → code = 0x33 → (s.thread T h).owed = true → (s.thread T h).run = .stopped →
            exec (.escalation m) s = .next ((s.putNotice l (note 0)).finish T h fun u => { u with owed := false })) ∧
          (x.extractLsb' 62 2 = 1 → exec (.escalation m) s =
            .next ((s.putNotice l (note (s.fatalAction m.pid.toNat T d))).fatal m.pid.toNat T d)) ∧
          (∀ n b, x.extractLsb' 62 2 = 2 → (s.policyAt m.pid.toNat T d).testBit 2 = true → s.bandAt T d = some (n, b) →
            exec (.escalation m) s = .next ((s.putNotice l (note 3)).startReplay n (s.dom T d).bRow)) ∧
          exec (.guardReport m) s = .next { s.putNotice l ⟨val, 0, (val.extractLsb' 36 12).toNat, m.sdom.toNat, 0, 0x39, 0⟩ with
            log := s.log ++ [(0x39, val)] }))) ∧
    (s.launchOf l = some la → let t := s.putNotice l q
      t.hostRead la.sv ((la.req.extractLsb' 64 64).toNat / 32 * 32 + 64 + 32 * (la.notices % 16)) 32 =
          noticeBytes q (la.req.extractLsb' 16 16).toNat s.time ∧
        t.msix = s.msix ++ [(la.sv, (la.req.extractLsb' 32 16).toNat)] ∧ t.launchOf l = some { la with notices := la.notices + 1 } ∧
        t.snapTime = if (s.reg (controlReg 0x200)).getLsbD 0 = true ∧ s.snapTime = BitVec.allOnes 64 then s.time + 1 else s.snapTime) ∧
    ((∀ r ∈ s.removals, r.pid ≠ p) → let t := s.fatal p T d
      (∀ b ∈ edgeBlocks, .killWrite b (BitVec.ofNat 16 p) ∈ t.flight) ∧
      (∃ r, t.removals = s.removals ++ [r] ∧ r.pid = p ∧ r.status = 0x21 ∧ r.region = s.fatalScope p T d) ∧
      ∀ i v, s.regionOf i = some v → v.live = true → (v.rcb.extractLsb' 24 16).toNat = p →
        s.fatalScope p T d = none ∨ s.fatalScope p T d = some i → ∃ y, t.regionOf i = some y ∧ y.phase = 3)


/-! ## Fencing -/

namespace Sys2Proof.Machine

/-- A router holds this accusation (R393). -/
def State.accused (s : State) (x y ax ay : Nat) (by_ : Node) : Prop :=
  ∃ a ∈ (s.router (y * 66 + x)).accuse, a.ax = ax ∧ a.ay = ay ∧ a.by_ = by_

/-- A fence notice about a position is on its way to every block of the module (R395, R396). -/
def State.flooded (t : State) (fx fy : Nat) (r : FenceReason) : Prop := ∀ n ∈ allBlocks, .fenceNotice n fx fy r ∈ t.flight

/-- The live neighbours of a tile that accuse it, as a router sees them (R395). -/
def State.voters (s : State) (x y ax ay : Nat) (l : List Accuse) : Nat :=
  ((s.liveAround x y ax ay).filter fun q => l.any fun a => a.ax == ax && a.ay == ay && a.by_ == .router q.1 q.2).length

end Sys2Proof.Machine

/-- R390 to R396: heartbeats and what misses them or has too many of them, accusations at a router's neighbours, their
withdrawal and expiry, quorum and the seal with its flood, and a tile that fences itself. -/
def Obligations.HeartbeatsAndAccusations : Prop :=
  ∀ (s : State) (x y ax ay : Nat) (d : Dir) (by_ : Node) (why : FenceReason), x < 66 → y < 32 →
    let k := y * 66 + x
    let r := s.router k
    let q := dirNo d
    let acc : Accuse := ⟨ax, ay, by_, why, s.mcycle⟩
    let link := linkTo x y ax ay
    let live := s.liveAround x y ax ay
    (completes (.heartbeatSend x y) s fun t => s.sameMemory t ∧ ((.mesh, s.mcycle + 4096), .heartbeatSend x y) ∈ t.timers ∧
      ∀ p, 1 ≤ p → p ≤ 4 → tileBeyond x y p = some (ax, ay) →
        (.heartbeat ax ay (dirOf (linkTo ax ay x y)) ∈ t.flight ↔ .heartbeat ax ay (dirOf (linkTo ax ay x y)) ∈ s.flight ∨
          s.beats x y p = true)) ∧
    (s.linkState x y q = 2 ∨ s.linkState x y q = 4 → exec (.heartbeat x y d) s = .next s) ∧
    (s.linkState x y q ≤ 1 → Table.get 0 r.heard q < 2 → completes (.heartbeat x y d) s fun t =>
      Table.get 0 (t.router k).beat q = s.mcycle + 1 ∧ Table.get 0 (t.router k).heard q = Table.get 0 r.heard q + 1 ∧
        ((.mesh, s.mcycle + 12288), .silenceAccusation x y d) ∈ t.timers ∧ s.sameMemory t ∧
        (tileBeyond x y q = some (ax, ay) → t.linkState x y q = 0 ∧
          (s.linkState x y q = 1 → ¬ t.accused x y ax ay (.router x y)))) ∧
    (let b := Table.get 0 r.beat q
     (s.linkState x y q = 3 → s.mcycle + 1 ≤ b + 4096 → exec (.silenceAccusation x y d) s = .next s) ∧
     (s.linkState x y q = 3 → b + 4096 < s.mcycle + 1 → completes (.silenceAccusation x y d) s fun t => t.linkState x y q = 2 ∧
       s.otherRegs t (linkStat x y q)) ∧
     (s.linkState x y q ≠ 3 → s.mcycle + 1 < b + 12288 → exec (.silenceAccusation x y d) s = .next s) ∧
     (s.linkState x y q = 0 → b + 12288 ≤ s.mcycle + 1 → tileBeyond x y q = some (ax, ay) → s.knowsFenced x y ax ay = false →
       s.deadLink x y q ax ay = false → completes (.silenceAccusation x y d) s fun t =>
         (t.linkState x y q = 1 ∨ t.linkState x y q = 2) ∧ t.accused x y ax ay (.router x y))) ∧
    (completes (.babbleWindowEnd x y d) s fun t => (t.reg (linkStat x y q)).extractLsb' 32 16 = 0 ∧
      (∀ b, b < 32 ∨ 48 ≤ b → (t.reg (linkStat x y q)).getLsbD b = (s.reg (linkStat x y q)).getLsbD b) ∧
      s.otherRegs t (linkStat x y q) ∧ ((.mesh, s.mcycle + 65536), .babbleWindowEnd x y d) ∈ t.timers) ∧
    (s.knowsFenced x y ax ay = true ∨ s.accused x y ax ay by_ → exec (.accusation x y ax ay by_ why) s = .next s) ∧
    (s.knowsFenced x y ax ay = false → ¬ s.accused x y ax ay by_ → completes (.accusation x y ax ay by_ why) s fun t =>
      (t.router k).accuse = r.accuse ++ [acc] ∧ ((.mesh, s.mcycle + 65536), .accusationExpiry x y ax ay by_) ∈ t.timers ∧
        (∀ u ∈ corners x y ax ay, .accusation u.1 u.2 ax ay by_ why ∈ t.flight) ∧
        (s.linkState x y link = 1 → 2 ≤ live.length →
          let votes := s.voters x y ax ay (r.accuse ++ [acc])
          let need := if live.length = 4 then 3 else 2
          (need ≤ votes → t.linkState x y link = 2 ∧ ∃ z, t.flooded ax ay z) ∧
          (votes < need → t.linkState x y link = 1))) ∧
    (¬ s.accused x y ax ay by_ → exec (.accusationWithdrawal x y ax ay by_) s = .next s) ∧
    (s.accused x y ax ay by_ → completes (.accusationWithdrawal x y ax ay by_) s fun t => ¬ t.accused x y ax ay by_ ∧
      ∀ u ∈ corners x y ax ay, .accusationWithdrawal u.1 u.2 ax ay by_ ∈ t.flight) ∧
    (let old (a : Accuse) : Prop := a.ax = ax ∧ a.ay = ay ∧ a.by_ = by_ ∧ a.since + 65536 ≤ s.mcycle
     (live.length ≤ 1 ∨ (∀ a ∈ r.accuse, ¬ old a) → exec (.accusationExpiry x y ax ay by_) s = .next s) ∧
     (2 ≤ live.length → (∃ a ∈ r.accuse, old a) → completes (.accusationExpiry x y ax ay by_) s fun t =>
       (∀ a, a ∈ (t.router k).accuse ↔ a ∈ r.accuse ∧ ¬ old a) ∧
         (by_ = .router x y → s.linkState x y link = 1 → t.linkState x y link = 0 ∧
           .silenceAccusation x y (dirOf link) ∈ t.flight)) ∧
     (∀ a, r.accuse = [a] → a.ax = ax → a.ay = ay → a.by_ = .router x y →
       (s.linkState x y link = 1 → live.length = 1 → a.since + 65536 ≤ s.mcycle → completes (.quorumHoldEnd x y ax ay) s fun t =>
         t.linkState x y link = 2 ∧ t.flooded ax ay a.reason) ∧
       (s.linkState x y link ≠ 1 ∨ live.length ≠ 1 ∨ s.mcycle < a.since + 65536 →
         exec (.quorumHoldEnd x y ax ay) s = .next s))) ∧
    (completes (.selfFence x y) s fun t => (t.router k).sealed = true ∧ t.flooded x y .self ∧ s.sameMemory t)

/-- R397 to R400, R411, R413, R421, R422: what each block does with a fence notice; the substitution of a spare and
the replay of its rows, stage by stage; appeals of a tile that has passed its test, probation, votes and re-admission.
-/
def Obligations.FencesAndReadmission : Prop :=
  ∀ (s s2 : State) (n : Node) (x y fx fy row col k T d b : Nat) (dir : Dir) (why : FenceReason) (passed : Bool) (bd : Band),
    fx < 66 → fy < 32 → x < 66 → y < 32 →
    let pos := fy * 66 + fx
    let fences := (s.router (nodeKey n)).fences
    let q := dirNo dir
    let added (P : State → Prop) : Prop := completes (.fenceNotice n fx fy why) s fun t =>
      Table.get 0 (t.router (nodeKey n)).fences pos = (match why with | .silent => 1 | .babbling => 2 | .self => 3) ∧ P t
    (Table.get 0 fences pos ≠ 0 → exec (.fenceNotice n fx fy why) s = .next s) ∧
    (Table.get 0 fences pos = 0 → 64 ≤ fences.length → ∀ r, s.regions = [(k, some r)] → r.phase = 0 →
      completes (.fenceNotice n fx fy why) s fun t => t.regionOf k = some { r with phase := 1, req := none }) ∧
    (Table.get 0 fences pos = 0 → fences.length < 64 → added (fun _ => True) ∧
      (n = .router fx fy → s.logical fx fy = some T → added fun t => (t.router pos).sealed = true ∧ (t.tile T).fenced = true) ∧
      (n = .router x y → (x, y) ∈ adjacent fx fy → added fun t => t.linkState x y (linkTo x y fx fy) = 2) ∧
      (n = .station k → s.logical fx fy = some T → added fun t => (∀ z ∈ (t.station k).queue, z.1.iss.tile ≠ T) ∧
        ∀ e z, t.engine k e = some z → z.cmd.iss.tile ≠ T) ∧
      (∀ la, n = .service k → k = quadrant fx fy → s.logical fx fy = some T →
        (∀ i < 4, (s.dom T i).present = true ↔ i = d) → d < 4 → s.launchOf (s.dom T d).launch = some la →
        added fun t => (∃ l, t.launchOf (s.dom T d).launch = some l ∧ l.notices = la.notices + 1) ∧
          ((s.policyAt (s.dom T d).pid T d).testBit 2 = true → ((.mesh, s.mcycle + 2 ^ 15), .substitution fy (T % 64)) ∈ t.timers ∧
            (s.bandAt T d = some (b, bd) → bd.region = (s.dom T d).region → (s.dom T d).band = b + 1 →
              ∃ z, t.bandOf b = some z ∧ z.holding = true)))) ∧
    (let T := row * 64 + col
     let at_ := s.physX row col
     let only := (∀ i < 4, (s.dom T i).present = true ↔ i = d) ∧ d < 4
     let pid := (s.dom T d).pid
     let note : Notice := ⟨0, 0, T, d, 0, 0x38, s.fatalAction pid T d⟩
     (s.isFenced at_ row = false ∨ (∀ i < 4, (s.dom T i).present = false) → exec (.substitution row col) s = .next s) ∧
     (s.isFenced at_ row = true → only → s.nearSpare row at_ = none →
       exec (.substitution row col) s = .next ((s.putNotice (s.dom T d).launch note).fatal pid T d)) ∧
     (s.isFenced at_ row = true → only → (s.nearSpare row at_).isSome = true → s.mayRemap (s.regionsAt T) = false →
       completes (.substitution row col) s fun t => ((.mesh, s.mcycle + 1024), .substitution row col) ∈ t.timers ∧ t.remap = s.remap) ∧
     (∀ z, s.isFenced at_ row = true → only → s.nearSpare row at_ = some z → (s.policyAt pid T d).testBit 2 = true →
       (∀ r ∈ s.regionsAt T, s.regionHeld r = true ∧ s.abortsOld r = true) →
       (s.substitute row col z).copyCode T d = some s2 → completes (.substitution row col) s fun t => t.physX row col = z ∧
         ∀ bd, s2.bandAt T d = some (b, bd) → s2.bandOf b = some bd → bd.replay = none →
           ∃ w, t.bandOf b = some w ∧ w.holding = true ∧ w.replay.isSome = true)) ∧
    (∀ w last rest j ph kept, s.bandOf b = some bd → bd.replay = some ⟨j, (w, last) :: rest, k, ph, kept⟩ →
      (∀ e ∈ s.timers, e.2 ≠ .replayStep b k) →
      let rp : Replay := ⟨j, (w, last) :: rest, k, ph, kept⟩
      let set (r : Option Replay) : State := s.setBand b (some { bd with replay := r })
      (k ≠ col → exec (.replayStep b col) s = .next s) ∧
      (ph = 1 → s.rowPrimed b bd j k w = false → exec (.replayStep b k) s = .next s) ∧
      (ph = 1 → s.rowPrimed b bd j k w = true → completes (.replayStep b k) s fun t =>
        t.bandOf b = some { bd with replay := some { rp with phase := 2 } } ∧
          ∀ T ∈ s.liveTiles bd j, ∀ d, s.bandDom b T = some d → .stageEntry T d ∈ t.flight) ∧
      (ph = 2 → (∃ T ∈ s.liveTiles bd j, s.ranOut b T k w (bd.tau w k) = false) → exec (.replayStep b k) s = .next s) ∧
      (ph = 2 → (∀ T ∈ s.liveTiles bd j, s.ranOut b T k w (bd.tau w k) = true) → exec (.replayStep b k) s =
        .next (if k < last then (set (some { rp with stage := k + 1, phase := 0 })).post (.replayStep b (k + 1))
          else (set (some { rp with todo := rest, stage := 0, phase := 0 })).post (.replayStep b 0)))) ∧
    (∀ j ph kept, s.bandOf b = some bd → bd.replay = some ⟨j, [], k, ph, kept⟩ → bd.again = [] →
      (∀ e ∈ s.timers, e.2 ≠ .replayStep b k) → completes (.replayStep b k) s fun t =>
        t.bandOf b = some { bd with replay := none, holding := false } ∧ .stepStart b ∈ t.flight) ∧
    (let count := Table.get 0 s.appeals pos
     (s.isFenced fx fy = false ∨ passed = false ∨ 3 ≤ count → exec (.farrierTest fx fy passed) s = .next s) ∧
     (s.isFenced fx fy = true → passed = true → count < 3 → completes (.farrierTest fx fy passed) s fun t =>
       Table.get 0 t.appeals pos = count + 1 ∧ ∀ p a c, 1 ≤ p → p ≤ 4 → tileBeyond fx fy p = some (a, c) →
         .appeal a c (dirOf (linkTo a c fx fy)) ∈ t.flight)) ∧
    (s.linkState x y q ≠ 2 → exec (.appeal x y dir) s = .next s) ∧
    (s.linkState x y q = 2 → completes (.appeal x y dir) s fun t => t.linkState x y q = 3 ∧
      (t.reg (linkStat x y q)).extractLsb' 32 16 = 0 ∧ ((.mesh, s.mcycle + 2 ^ 20), .probationEnd x y dir) ∈ t.timers) ∧
    (s.linkState x y q ≠ 3 → exec (.probationEnd x y dir) s = .next s) ∧
    (s.linkState x y q = 3 → tileBeyond x y q = some (fx, fy) → completes (.probationEnd x y dir) s fun t =>
      linkTo fx fy x y ∈ (t.router pos).votes ∧
        ((∀ u ∈ s.liveAround x y fx fy, linkTo fx fy u.1 u.2 ∈ (s.router pos).votes ∨ u = (x, y)) →
          ∀ m ∈ allBlocks, .readmissionNotice m fx fy ∈ t.flight)) ∧
    (completes (.readmissionNotice n fx fy) s fun t => Table.get 0 (t.router (nodeKey n)).fences pos = 0 ∧ s.sameMemory t ∧
      (n = .router fx fy → (t.router pos).sealed = false ∧ (∀ T, s.logical fx fy = some T → (t.tile T).fenced = false) ∧
        ∀ p, 1 ≤ p → p ≤ 4 → t.linkState fx fy p = 0) ∧
      (n = .router x y → (x, y) ∈ adjacent fx fy → t.linkState x y (linkTo x y fx fy) = 0))


/-! ## Ports, power and boot -/

namespace Sys2Proof.Machine

/-- A port has sent one symbol more: QUIESCE 1, RESUME 2, time 3, restripe 4 (R190, R191, R425). -/
def State.sends (s t : State) (p code : Nat) : Prop :=
  ∃ v, t.herdOut = s.herdOut ++ [(32 + p, blockMsg (.port p) (.port p) 0 0 code (.words v 0))]

end Sys2Proof.Machine

/-- R190, R191, R337 to R340, R362, R423 to R426: laser states and their targets, hints, quiescing once the replay
buffer has drained, relighting and its time-out, load windows, changes of the lanes with the peer, replay, ageing, and
time synchronisation. -/
def Obligations.PortsAndLasers : Prop :=
  ∀ (s : State) (p md lane n : Nat) (v : W64) (lanes hours : BitVec 16), p < 48 → lane < 16 →
    let r := portReg p 0x400
    let c := s.laserCur p
    let g := s.laserTarget p
    let st := s.portSt p
    let relit (t : State) : Prop := (t.portSt p).attempts = 1 ∧ (t.portSt p).locked = false ∧ (t.portSt p).down = false ∧
      ((.tick, s.ticks + 50000), .relightTimeout p) ∈ t.timers
    let leaving (g' : Nat) (t : State) : Prop := (t.reg r).getLsbD 21 = true ∧ (∀ a ∈ routeRegs, (t.reg a).getLsbD p = false) ∧
      (st.replay ≠ 0 → (t.portSt p).down = true ∧ t.herdOut = s.herdOut ∧ t.laserCur p = c) ∧
      (st.replay = 0 → st.quiesced = false → s.sends t p 1 ∧
        (st.peerQuiesced = false → (t.portSt p).quiesced = true ∧ t.laserCur p = c) ∧
        (st.peerQuiesced = true → (t.portSt p).down = false ∧ t.laserCur p = max 2 g'))
    let joined (t : State) : Prop := (t.reg r).getLsbD 21 = false ∧ ∀ a ∈ routeRegs, (s.reg a).getLsbD 63 = true →
      (s.reg a).extractLsb' 58 5 = (s.reg r).extractLsb' 16 5 → (t.reg a).getLsbD p = true
    let low := if c = 0 ∧ st.flits * 4 < l0Flits then st.low + 1 else 0
    let idle := if c = 1 ∧ st.flits = 0 then st.idle + 1 else 0
    let active := ((List.range 16).filter fun i => (s.lanes p).testBit i).length
    (completes (.portLaserWrite p v) s fun t =>
      let g' := (v.extractLsb' 0 2).toNat
      t.laserTarget p = g' ∧ s.sameMemory t ∧ (g' = c → t.laserCur p = c ∧ t.portSts = s.portSts ∧ t.herdOut = s.herdOut) ∧
      (g' ≠ c → (c ≤ 1 → g' ≤ 1 → st.stripe = none → t.laserCur p = c ∧ (g' = 0 ∨ st.replay = 0 → s.sends t p 4) ∧
          (g' = 1 → st.replay ≠ 0 → t.herdOut = s.herdOut)) ∧
        (c ≤ 1 → 2 ≤ g' → st.down = false → leaving g' t) ∧
        (2 ≤ c → g' ≤ 1 → st.attempts = 0 → st.down = false → relit t) ∧ (2 ≤ c → 2 ≤ g' → t.laserCur p = g'))) ∧
    (completes (.wakeHint p md) s fun t => t.laserTarget p = 0 ∧ t.laserCur p = c ∧
      ((t.reg r).extractLsb' 8 8).toNat = min 255 (((s.reg r).extractLsb' 8 8).toNat + 1) ∧
      (st.down = true ∨ (2 ≤ c ∧ st.attempts = 0) → relit t) ∧ (st.down = false → c = 1 → st.stripe = none → s.sends t p 4) ∧
      (st.down = false → c = 0 → t.timers = s.timers ∧ t.portSts = s.portSts)) ∧
    (completes (.quiesce p) s fun t =>
      (st.quiesced = false → (t.portSt p).peerQuiesced = true ∧ t.laserCur p = c) ∧
      (st.quiesced = true → (t.portSt p).down = false ∧ t.laserCur p = if g = 3 then 3 else 2)) ∧
    (st.attempts = 0 ∨ 2 ≤ g → exec (.portLocked p) s = .next s) ∧
    (st.attempts ≠ 0 → g ≤ 1 → completes (.portLocked p) s fun t => t.laserCur p = g ∧ (t.portSt p).locked = true ∧
      (t.portSt p).attempts = 0 ∧ (t.portSt p).syncing = true ∧ .timeSyncSend p ∈ t.flight ∧ t.herdOut = s.herdOut) ∧
    (2 ≤ c ∨ st.syncing = true ∨ st.down = true → exec (.resume p) s = .next s) ∧
    (c ≤ 1 → st.syncing = false → st.down = false → completes (.resume p) s fun t => joined t ∧ (t.portSt p).quiesced = false) ∧
    (2 ≤ g ∨ st.attempts = 0 → exec (.relightTimeout p) s = .next s) ∧
    (g ≤ 1 →
      (1 ≤ st.attempts → st.attempts ≤ 3 → completes (.relightTimeout p) s fun t => (t.portSt p).attempts = st.attempts + 1 ∧
        ((.tick, s.ticks + 50000), .relightTimeout p) ∈ t.timers) ∧
      (3 < st.attempts → completes (.relightTimeout p) s fun t => t.laserTarget p = 2 ∧ t.laserCur p = 2 ∧
        (t.portSt p).attempts = 0 ∧ (t.reg r).getLsbD 21 = true ∧ ∀ a ∈ routeRegs, (t.reg a).getLsbD p = false ∧
          ((t.reg a).getLsbD 63 = true → (t.reg a).extractLsb' 0 48 ≠ 0))) ∧
    (completes (.laserLoadWindow p) s fun t => (t.portSt p).flits = 0 ∧
      ((.tick, s.ticks + 2 ^ 20), .laserLoadWindow p) ∈ t.timers ∧
      (t.laserCur p = c → (t.portSt p).low = low ∧ (t.portSt p).idle = idle) ∧
      t.laserTarget p = if g = c ∧ c = 0 ∧ 8 ≤ low then 1 else if g = c ∧ c = 1 ∧ l0Flits * 2 < st.flits * 5 then 0
        else if g = c ∧ c = 1 ∧ 64 ≤ idle then 2 else g) ∧
    (let left (t : State) (set : Nat) : Prop := t.lanes p = set ∧
       ∀ i < 16, (s.lanes p).testBit i = true → set.testBit i = false → (t.reg (portReg p (0x5000 + 16 * i))).getLsbD 1 = true
     let peer := (peerLanes lanes).toNat
     (st.stripe = none → completes (.restripe p lanes) s fun t => left t (s.lanes p &&& peer) ∧ s.sends t p 4) ∧
     (∀ a, st.stripe = some ⟨some a, 0, true, none⟩ → st.todo = [] → c = g → completes (.restripe p lanes) s fun t =>
       left t (a.toNat &&& peer) ∧ (t.portSt p).stripe = none) ∧
     (st.stripe = some ⟨none, 0, true, none⟩ → st.todo = [] → c ≤ 1 → g ≤ 1 → completes (.restripe p lanes) s fun t =>
       t.laserCur p = g ∧ t.lanes p = s.lanes p ∧ (t.portSt p).stripe = none) ∧
     (∀ x, st.stripe = some x → x.wait ≠ 0 → completes (.restripe p lanes) s fun t =>
       (t.portSt p).stripe = some { x with heard := some lanes } ∧ t.regs = s.regs ∧ t.herdOut = s.herdOut)) ∧
    (let drains (t : State) : Prop :=
       ((s.lanes p).testBit lane = true → 5 ≤ active → st.stripe = none → t.lanes p = s.lanes p ∧
         (∃ z, (t.portSt p).stripe = some z ∧ z.active = some (BitVec.ofNat 16 (s.lanes p - 2 ^ lane)) ∧ z.wait = st.replay) ∧
         (st.replay = 0 → s.sends t p 4) ∧ (st.replay ≠ 0 → t.herdOut = s.herdOut)) ∧
       (∀ x, (s.lanes p).testBit lane = true → 5 ≤ active → st.stripe = some x → x.wait ≠ 0 →
         (t.portSt p).todo = st.todo ++ [lane] ∧ t.herdOut = s.herdOut) ∧
       ((s.lanes p).testBit lane = true → active ≤ 4 → st.stripe = none → c ≤ 1 → st.down = false →
         leaving 2 t ∧ t.laserTarget p = 2)
     (st.stripe = none → (s.lanes p).testBit lane = false → exec (.portLanesDrain p lane) s = .next s) ∧
     completes (.portLanesDrain p lane) s drains ∧
     completes (.lockLoss p lane) s fun t => drains t ∧ (t.reg (portReg p (0x5000 + 16 * lane))).getLsbD 2 = false) ∧
    (st.down = true → st.quiesced = false → st.stripe = none → (st.replay ≤ n → s.sends (s.flitsAcked p n) p 1) ∧
      (n < st.replay → (s.flitsAcked p n).herdOut = s.herdOut ∧ ((s.flitsAcked p n).portSt p).replay = st.replay - n)) ∧
    exec (.fecReplay p) s = .next s ∧
    (let a := portReg p (0x5000 + 16 * lane)
     let horizon := ((s.reg (portReg p 0x508)).extractLsb' 0 16).toNat
     completes (.ageHorizonCrossed p lane hours) s fun t => (t.reg (a + 8)).extractLsb' 0 16 = hours ∧
       (hours.toNat < horizon → (t.reg a).getLsbD 3 = true ∧ t.msix = s.msix ++ [(quadrantOf (.port p), 0)] ∧
         t.log.length = s.log.length + 1) ∧
       (horizon ≤ hours.toNat → t.reg a = s.reg a ∧ t.msix = s.msix ∧ t.log = s.log)) ∧
    (completes (.timeSyncSend p) s fun t => t.time = s.time ∧
      ((∀ e ∈ s.timers, e.2 ≠ .timeSyncSend p) → ((.tick, s.ticks + 1024), .timeSyncSend p) ∈ t.timers) ∧
      (c = 3 → t.herdOut = s.herdOut) ∧ (c ≠ 3 → s.sends t p 3)) ∧
    (let x := s.time.toNat
     let far := 2 ^ 16 < (if x < v.toNat then v.toNat - x else x - v.toNat)
     let y := v.toNat + ((s.reg (portReg p 0x340)).extractLsb' 0 16).toNat
     (c = 3 → exec (.timeSyncSymbol p v) s = .next s) ∧
     (c ≠ 3 → completes (.timeSyncSymbol p v) s fun t => (far → t.time = s.time ∧ t.log.length = s.log.length + 1) ∧
       (¬ far → y < 2 ^ 64 → t.time = BitVec.ofNat 64 (max x y) ∧ t.log = s.log) ∧
       (¬ far → st.syncing = true → (t.portSt p).syncing = false ∧ s.sends t p 2 ∧ joined t) ∧
       (¬ far → st.syncing = false → t.herdOut = s.herdOut ∧ t.regs = s.regs)))

/-- R190, R332, R333, R341, R342, R364 to R368, R418, R422: a module reset loses every job and keeps flash, host
memory and the count of appeals, each service tile running the copy that passes; temperatures warn, drain, gate and
power a row; snapshots; measurements; firmware updates; and a module that leaves the herd. -/
def Obligations.PowerAndBoot : Prop :=
  ∀ (s : State) (k i n T h row : Nat) (d : BitVec 512) (image : FlashState) (members : BitVec 32),
    let sv := s.service k
    (∀ i ∈ [Instr.moduleReset, .managementReset, .thermalTrip], completes i s fun t =>
      t.launches = [] ∧ t.regions = [] ∧ t.bands = [] ∧ t.mem = [] ∧ t.hostMem = s.hostMem ∧ t.appeals = s.appeals ∧
        (∀ T d, (t.dom T d).present = false) ∧
        ∀ k < 4, let w := (s.service k).firstB
          (t.service k).flashA = (s.service k).flashA ∧ (t.service k).flashB = (s.service k).flashB ∧
          (t.service k).running = (match (s.service k).flashA.state, (s.service k).flashB.state with
            | .valid, .valid => if w then 2 else 1
            | .valid, _ => 1
            | _, .valid => 2
            | _, _ => 0)) ∧
    (row < 32 →
      let a := controlReg (0x100 + 8 * row)
      let on (w : W64) : Bool := w.getLsbD 0
      (let ts := s.rowTemps row
       let hot := (∃ x ∈ ts, 100 < x) ∨ row ∈ s.hot
       completes (.thermalSample row) s fun t => .thermalSample row ∈ t.timers.map (·.2) ∧ t.temps = s.temps ∧
        ((∃ x ∈ ts, 95 ≤ x) → (0, 0) ∈ t.msix ∧ t.log.length = s.log.length + 1) ∧
        (¬ hot → t.regs = s.regs ∧ t.regions = s.regions ∧ t.hot = s.hot) ∧
        (hot → (∃ x ∈ ts, 90 ≤ x) → row ∈ t.hot ∧ (s.rowCovered row = false → on (t.reg a) = false)) ∧
        (∀ n r, hot → (∃ x ∈ ts, 90 ≤ x) → s.regions = [(n, some r)] → r.live = true → r.phase = 0 → (rcbRect r.rcb).1 ≤ row →
          row < (rcbRect r.rcb).1 + (rcbRect r.rcb).2.2.1 → ∃ r', t.regionOf n = some r' ∧ r'.phase = 1) ∧
        ((∀ x ∈ ts, x < 90) → s.hot = [row] → t.hot = [] ∧ on (t.reg a) = true))) ∧
    (s.snapTime = BitVec.allOnes 64 ∨ s.time.toNat < s.snapTime.toNat → exec .snapshotTrigger s = .next s) ∧
    (s.snapTime ≠ BitVec.allOnes 64 → s.snapTime.toNat ≤ s.time.toNat → completes .snapshotTrigger s fun t =>
      t.snapTime = BitVec.allOnes 64 ∧ s.sameMemory t ∧
        (T < 2048 → h < 16 → t.reg (tileReg T 0x800) = s.time ∧ t.reg (tileReg T (0x808 + 8 * h)) = s.snapThr T h ∧
          t.reg (tileReg T 0x888) = s.snapTile T) ∧
        (n < 2112 → t.reg (routerReg (n % 66) (n / 66) 0x830) = BitVec.ofNat 64 ((s.router n).ctxs.length % 2 ^ 16)) ∧
        (n < 64 → t.reg (stationReg n 0x810) = BitVec.ofNat 64 (s.station n).queue.length) ∧
        (n < 48 → t.reg (portReg n 0x808) = BitVec.ofNat 64 (s.portSt n).replay ∧
          (t.reg (portReg n 0x810)).extractLsb' 4 2 = (s.reg (portReg n 0x400)).extractLsb' 4 2 ∧
          (t.reg (portReg n 0x810)).extractLsb' 8 8 = (s.reg (portReg n 0x400)).extractLsb' 8 8)) ∧
    (let new := bitsOf 512 (sha512 (toBytes 64 (Table.get 0 sv.meas i).toNat ++ toBytes 64 d.toNat))
     4 ≤ i → i ≤ 7 →
       exec (.measurementExtend k i d) s = .next (s.setService k { sv with meas := Table.set 0 sv.meas i new })) ∧
    (i < 4 ∨ 7 < i → exec (.measurementExtend k i d) s = .next s) ∧
    (let run := exec (.firmwareUpdate k image d) s
     (sv.running = 1 → run = .next (s.setService k { sv with flashB := ⟨image, d⟩, firstB := decide (image = .valid) })) ∧
     (sv.running = 2 → run = .next (s.setService k { sv with flashA := ⟨image, d⟩, firstB := decide (image ≠ .valid) }))) ∧
    (completes (.herdMembershipChange members) s fun t => t.members = members ∧ s.sameMemory t ∧
      ∀ md < 32, s.members.getLsbD md = true → members.getLsbD md = false → md ≠ s.module.toNat →
        (∀ a ∈ routeRegs, (t.reg a).getLsbD 63 = true → ((t.reg a).extractLsb' 58 5).toNat ≠ md) ∧
        ∀ b ∈ edgeBlocks, ∀ e ∈ graphsOf s b, e.2.launch.isSome = true → (∃ o ∈ e.2.ops, sendModule o = some md) →
          .collStop b e.1 ∈ t.flight)


/-! ## Requests of the host -/

/-- R7, R23, R46, R48, R49, R56 to R60, R70, R108, R334, R348, R352, R353, R359, R448: a record that R448 refuses is
answered with STATUS 1; every answer is 32 bytes at REPLY_ADDR and an interrupt; LAUNCH places a tree, through the
other quadrants' service tiles too, waits for drains, or is refused; DRAIN, FREEZE and RESTORE act on a placed region;
ATTEST writes its report; HANDLER sets a handler; copies move 64 bytes at each PCIe completion. -/
def Obligations.Requests : Prop :=
  ∀ (s : State) (sv n T d i a status : Nat) (priv : Bool) (q : BitVec 512) (x : Region) (bytes : List Byte) (c : Copy) (th : Thread),
    let code := (q.extractLsb' 0 8).toNat
    let ptr := (q.extractLsb' 128 64).toNat
    let img := (q.extractLsb' 192 64).toNat
    let len := (q.extractLsb' 256 32).toNat
    let reply := (q.extractLsb' 64 64).toNat / 32 * 32
    let answer (k : Nat) : Host.Outcome State Fault Refusal := .next (s.answerReq sv q k)
    let refused := q.extractLsb' 8 8 ≠ 0 ∨ q.extractLsb' 48 16 ≠ 0 ∨ q.extractLsb' 288 224 ≠ 0 ∨ q.extractLsb' 64 5 ≠ 0 ∨
      code = 0 ∨ 8 < code ∨ (code ≠ 7 ∧ code ≠ 8 ∧ len ≠ 0) ∨ ((code = 1 ∨ code = 2) ∧ img ≠ 0)
    (let t := s.answerReq sv q status
     t.hostRead sv reply 32 = toBytes 32 (code + status % 256 * 2 ^ 8 + (q.extractLsb' 16 16).toNat * 2 ^ 16 + s.time.toNat * 2 ^ 64) ∧
       t.msix = s.msix ++ [(sv, (q.extractLsb' 32 16).toNat)]) ∧
    (refused → ∀ r ∈ [Instr.launch sv priv q, .drain sv priv q, .freeze sv priv q, .restore sv priv q, .attest sv priv q,
      .handler sv priv q, .copyIn sv priv q, .copyOut sv priv q], exec r s = answer 1) ∧
    (¬ refused →
      (∀ e, e ≠ 0 → s.validate ptr priv = .error e → exec (.launch sv priv q) s = answer e) ∧
      (s.validate ptr priv = .error 0 → exec (.launch sv priv q) s = .next (s.stall sv priv q)) ∧
      (∀ p, s.validate ptr priv = .ok p →
        (p.bands = [] → exec (.launch sv priv q) s = .next ((s.answerReq sv q 0).putReply sv q 32 0x81 0)) ∧
        (p.bands ≠ [] → s.rowsReady p = false → exec (.launch sv priv q) s = answer 5) ∧
        (let l := s.nextId + 1
         p.bands ≠ [] → s.rowsReady p = true → s.fits p = true → completes (.launch sv priv q) s fun t =>
          (∃ la, t.launchOf l = some la ∧ la.sv = sv ∧ la.req = q ∧ la.started = false ∧ la.notices = 0 ∧
            la.loads.length = p.bands.length) ∧ (t.service sv).busy = some q ∧
          ((∀ T ∈ p.tiles, s.isFenced (s.physX (T / 64) (T % 64)) (T / 64) = false) →
            (∀ T ∈ p.tiles, let k := quadrantOf (s.nodeOf T)
              k = sv ∨ .meshRoute (.service sv) (configMsg sv k 5 l k l) ∈ t.flight) ∧
            ((∀ T ∈ p.tiles, quadrantOf (s.nodeOf T) = sv) → (∀ r ∈ p.regions, r.reds = []) →
              ∀ b ∈ p.bands, ∃ m, l < m ∧ .initialSaddleDelivery m 0 ∈ t.flight))) ∧
        (p.bands ≠ [] → s.rowsReady p = true → s.fits p = false →
          ((∃ e ∈ s.liveRegions, e.2.phase = 1 ∨ e.2.phase = 3) → exec (.launch sv priv q) s = .next (s.stall sv priv q)) ∧
          ((∀ e ∈ s.liveRegions, e.2.phase ≠ 1 ∧ e.2.phase ≠ 3) →
            let lowest := (nodesOf p.nodes 1).foldl (fun m j => Nat.min m (rcbPriority j.eff)) 8
            (s.victim lowest = none → exec (.launch sv priv q) s = answer 5) ∧
            ∀ m, s.victim lowest = some m → exec (.launch sv priv q) s = .next ((s.startDrain m none).stall sv priv q)))) ∧
      (s.regionAt ptr = none → exec (.drain sv priv q) s = answer 0x0A ∧
        (priv = true → exec (.freeze sv priv q) s = answer 0x0A ∧ exec (.restore sv priv q) s = answer 0x0A)) ∧
      (priv = false → exec (.freeze sv priv q) s = answer 6 ∧ exec (.restore sv priv q) s = answer 6) ∧
      (s.regionAt ptr = some (n, x) → s.regionOf n = some x →
        (x.phase ≠ 0 → exec (.drain sv priv q) s = answer 0x0D) ∧
        (x.phase = 0 → completes (.drain sv priv q) s fun t => t.regionOf n = some { x with phase := 1, req := some (sv, q) } ∧
          (t.service sv).busy = some q ∧
          ∀ m b, s.bandOf m = some b → b.region = n → .stepStart m ∈ t.flight ∧ ∃ b', t.bandOf m = some b' ∧ b'.stopWave.isSome = true) ∧
        (priv = true →
          (x.rcb.getLsbD 44 = false → exec (.freeze sv priv q) s = answer 6) ∧
          (x.rcb.getLsbD 44 = true → x.phase ≠ 0 → exec (.freeze sv priv q) s = answer 0x0D) ∧
          (x.rcb.getLsbD 44 = true → x.phase = 0 → (∃ m b, s.bandOf m = some b ∧ b.region = n) →
            completes (.freeze sv priv q) s fun t => t.regionOf n = some { x with phase := 2, req := some (sv, q), limit := 0 } ∧
              (t.service sv).busy = some q ∧
              ∀ m b, s.bandOf m = some b → b.region = n → .stepStart m ∈ t.flight ∧ ∃ b', t.bandOf m = some b' ∧ b'.holding = true) ∧
          (x.phase = 1 ∨ x.phase = 3 ∨ x.req.isSome = true → exec (.restore sv priv q) s = answer 0x0D) ∧
          (x.phase ≠ 1 → x.phase ≠ 3 → x.req = none →
            (s.imageAt img = .ok none → exec (.restore sv priv q) s = answer 0x0B) ∧
            (∀ e, e ≠ 0 → s.imageAt img = .error e → exec (.restore sv priv q) s = answer e) ∧
            ∀ k im, s.imageAt img = .ok (some k) → s.images[k]? = some im →
              (s.sameShape n x im = false → exec (.restore sv priv q) s = answer 0x0A) ∧
              (∀ it dm, s.sameShape n x im = true → s.imageTiles n = [(T, d)] → im.tiles = [it] → s.dom T d = dm →
                s.imageParts im.tiles img = .ok [bytes] → it.threads = [(i, th)] →
                completes (.restore sv priv q) s fun t => t.regionOf n = some { x with phase := 0, limit := 0 } ∧
                  t.thread T (dm.thrFirst + i) = th ∧ (sv, (q.extractLsb' 32 16).toNat) ∈ t.msix ∧
                  ∀ k < min it.dom.lsSize bytes.length, t.byte (lsAddr T (dm.lsBase + k)) = bytes.getD k 0)))) ∧
      (s.readable ptr 64 = false → exec (.attest sv priv q) s = answer 0x0A) ∧
      (s.readable ptr 64 = true → s.look ptr 64 0x12 = .ok bytes → bytes.length = 64 →
        img + 1536 ≤ reply ∨ reply + 32 ≤ img → completes (.attest sv priv q) s fun t =>
          t.hostRead sv img 144 = toBytes 8 1 ++ toBytes 8 s.time.toNat ++ bytes ++ sha512 Config.publicKey ∧
          t.hostRead sv (img + 144) 512 = ((List.range 8).flatMap fun i => toBytes 64 (Table.get 0 (s.service sv).meas i).toNat) ∧
          (sv, (q.extractLsb' 32 16).toNat) ∈ t.msix) ∧
      (ptr % 128 ≠ 0 → exec (.handler sv priv q) s = answer 0x0A) ∧
      (ptr % 128 = 0 → s.look ptr 128 0x0A = .ok bytes →
        let rcb := BitVec.ofNat 1024 (ofBytes bytes)
        let off := (q.extractLsb' 192 32).toNat
        (rcbKind rcb ≠ 3 → exec (.handler sv priv q) s = answer 0x0A) ∧
        (rcbKind rcb = 3 → off % 8 ≠ 0 ∨ off = 0 ∨ rcbCodeSize rcb ≤ off ∨ 2 ^ 32 ≤ img →
          exec (.handler sv priv q) s = answer 0x0C) ∧
        (rcbKind rcb = 3 → off % 8 = 0 → 0 < off → off < rcbCodeSize rcb → img < 2 ^ 32 →
          completes (.handler sv priv q) s fun t => Table.get 0 t.handlers ptr = q.extractLsb' 192 32 ∧
            ∀ m b, s.bandOf m = some b → b.addr = ptr → ∀ T ∈ b.tiles, ∀ d, s.bandDom m T = some d →
              let k := quadrantOf (s.nodeOf T)
              (k = sv → (t.dom T d).trapBase = q.extractLsb' 192 32) ∧
              (k ≠ sv → .meshRoute (.service sv) (configMsg sv k 6 ptr off 0) ∈ t.flight))) ∧
      (∀ r ∈ [(Instr.copyIn sv priv q, true), (.copyOut sv priv q, false)],
        (s.copyRange priv ptr len = false ∨ img % 64 ≠ 0 → exec r.1 s = answer 1) ∧
        (s.copyRange priv ptr len = true → img % 64 = 0 → exec r.1 s =
          .next ((s.setService sv { s.service sv with busy := some q, copy := some ⟨r.2, ptr, img, len / 64, 0, [], none, false⟩ }).post
            (.pcieReadCompletion sv))))) ∧
    (let v := s.service sv
     let pa := c.dev + 64 * c.next
     let moved (t : State) : Prop := (t.service sv).copy = some { c with next := c.next + 1 } ∧ .pcieReadCompletion sv ∈ t.flight
     let ended := s.setService sv { v with busy := none, copy := none }
     (v.reads = [] → v.busy = none → exec (.pcieReadCompletion sv) s = .next s) ∧
     (v.reads = [] → v.busy = some q → v.copy = some c →
       (c.lost.isSome = true → exec (.pcieReadCompletion sv) s = .next (ended.answerReq sv q 0x12)) ∧
       (c.lost = none → c.away = true → exec (.pcieReadCompletion sv) s = .next s) ∧
       (c.lost = none → c.away = false → c.units ≤ c.next → exec (.pcieReadCompletion sv) s = .next (ended.answerReq sv q 0)) ∧
       (c.lost = none → c.away = false → c.next < c.units → moduleOf pa ≠ s.module.toNat →
         completes (.pcieReadCompletion sv) s fun t => (t.service sv).copy = some { c with away := true } ∧
           .meshRoute (.service sv) (s.unitMsg sv c (if c.inbound = true then some (s.hostRead sv (c.host + 64 * c.next) 64)
             else none)) ∈ t.flight) ∧
       (c.lost = none → c.away = false → c.next < c.units → moduleOf pa = s.module.toNat → placeOf pa = .store T a →
         (c.inbound = true → completes (.pcieReadCompletion sv) s fun t => moved t ∧
           ∀ k < 64, t.byte (lsAddr T (a + k)) = (s.hostRead sv (c.host + 64 * c.next) 64).getD k 0) ∧
         (c.inbound = false → s.lsBad T a 64 = false → completes (.pcieReadCompletion sv) s fun t => moved t ∧ s.sameMemory t ∧
           t.hostRead sv (c.host + 64 * c.next) 64 = s.lsRead T a 64) ∧
         (c.inbound = false → s.lsBad T a 64 = true → exec (.pcieReadCompletion sv) s =
           .next ((s.setService sv { v with copy := some { c with lost := some c.next } }).post (.pcieReadCompletion sv))))) ∧
     (∀ m rest, v.reads = m :: rest → completes (.pcieReadCompletion sv) s fun t => (t.service sv).reads = rest ∧ s.sameMemory t))

/-! ## Words, steps, reset, and the invariant of memory -/

namespace Sys2Proof.Machine

open Bits

/-- No event is under way or due, no input and no request can be taken: a step goes to a thread, or ends the cycle. -/
def State.atThreads (s : State) : Prop :=
  s.flight = [] ∧ (∀ e ∈ s.timers, s.clock e.1.1 < e.1.2) ∧ s.inputs = [] ∧ s.nextService = none

/-- `t` is `s` with thread h of tile T about to issue: the round-robin of its domain has moved on, and nothing else (R54). -/
def State.issuing (s t : State) (T h : Nat) : Prop :=
  t.cur = (T, h) ∧ t.cursor = T + 1 ∧ t.dom T (s.domNo T h) = { s.dom T (s.domNo T h) with lastIss := h } ∧
    (∀ T' d, (T', d) ≠ (T, s.domNo T h) → t.dom T' d = s.dom T' d) ∧ (∀ T' k, t.thread T' k = s.thread T' k) ∧
    s.sameMemory t ∧ (∀ T n, t.slot T n = s.slot T n) ∧ (∀ T b, t.bar T b = s.bar T b) ∧ (∀ T p, t.port T p = s.port T p) ∧
    s.sameBlocks t ∧ s.sameJobs t ∧ t.flight = s.flight ∧ t.timers = s.timers ∧ t.time = s.time ∧ t.tcycle = s.tcycle ∧
    t.mcycle = s.mcycle ∧ t.ticks = s.ticks ∧ t.bad = s.bad ∧ t.flips = s.flips ∧ t.fixed = s.fixed

end Sys2Proof.Machine

/-- R201 to R208: for every well-formed instruction that has a word, whatever its operands, the decoder reads the
instruction back from the word. -/
def Obligations.EncodeThenDecode : Prop :=
  ∀ i : Instr, i.wf = true → i.hasWord = true → decode (encode i) = .ok i

/-- R202, R212: every word that decodes holds a well-formed instruction, and is the one word of that instruction: no bit
of a word is ignored. -/
def Obligations.DecodeThenEncode : Prop :=
  ∀ (w : W64) (i : Instr), decode w = .ok i → i.wf = true ∧ i.hasWord = true ∧ encode i = w

/-- Words that the spec writes out (R203, R207, R231 to R233, R247, R251, R253, R257, R259, R261, R263, R270, R277, R289). -/
def Obligations.SpecWords : Prop :=
  decode 0x3800E1C0FFFFFFF8#64 = .ok (.addi ⟨false, 0⟩ 7 7 0xFFFFFFF8) ∧
  decode 0x4800010280221000#64 = .ok (.cmp ⟨false, 0⟩ .i32 2 4 5 .lt) ∧
  decode 0x041007C000000000#64 = .ok (.jr ⟨false, 1⟩ 0 31) ∧
  decode 0x7100828001400000#64 = .ok (.stWc ⟨false, 0⟩ .b4 4 ⟨10, 0, 0⟩) ∧
  decode 0x6300610286008000#64 = .ok (.ffma ⟨false, 0⟩ .f32 .rne false 3 4 5 6) ∧
  decode 0x9000013204000000#64 = .ok (.vadd ⟨false, 0⟩ (.flt .f32) .rne false ⟨0, 0, 1, 3⟩ ⟨2, 0⟩ (.blk ⟨4, 0⟩) 0) ∧
  decode 0xB703000102000000#64 = .ok (.mand ⟨false, 0⟩ 3 1 2) ∧
  decode 0xD300028205003100#64 = .ok (.post ⟨false, 0⟩ 10 4 5 0x0031) ∧
  decode 0xE800A00011000000#64 = .ok (.csrr ⟨false, 0⟩ 5 0x011) ∧
  decode 0x0B00000000000000#64 = .error .illegal

/-- R230: `sel` is opcode 0x2E with d, a, b and TYPE as in F-A and its selecting predicate in bits [18:16]; x[d] takes the
low n bits of x[a] when that predicate is true and those of x[b] otherwise, extended by the type; with p0 it copies A. -/
def Obligations.Selects : Prop :=
  ∀ (s : State) (g : Guard) (t : IntTy) (d a b : XReg) (p : PReg),
    decode (0x2E#8 ++ encG g ++ d ++ a ++ b ++ 0#12 ++ p ++ BitVec.ofNat 5 (intTyCode t) ++ 0#11) = .ok (.sel g t d p a b) ∧
    (s.runs g [d, a, b] true 0 = true →
      ∃ u, exec (.sel g t d p a b) s = .next u ∧
        (d ≠ 0 → u.rx d = widen t (operandOf t (if p = 0 ∨ s.me.p.getLsbD p.toNat = true then s.rx a else s.rx b))) ∧
        u.me.pc = s.me.pc + 8 ∧ s.me.sameBut d.toNat u.me ∧ s.me.sameSystem u.me ∧ s.onlyMe u)

/-- R54, R195, R354, R371, R387: where no event, input or request comes first, a step issues the instruction that the word at
the thread's pc holds: it is `exec` of that instruction at the state in which the thread has the cycle and the word has been
read. A word that holds none raises the cause of its first failed check, a pc outside the code image its own cause, a lost
word data lost; a word not yet resident is waited for, or faults where the policy says so; with no thread to issue, the tile
cycle ends; and with an event under way, a step runs one of those events, or goes on to what is due. That the fetch of a
lost word or of one not yet resident does what a load does is the model's reading (log 150). -/
def Obligations.StepRunsDecoded : Prop :=
  (∀ (s : State) (T h : Nat), s.atThreads → s.nextTurn = some (T, h) →
    let u := s.thread T h
    u.run = .ready → u.overrun = false → u.pend = none →
    ∃ t, s.issuing t T h ∧
      (u.pc.toNat % 8 ≠ 0 → step s = .next (t.raise 0x05 u.pc)) ∧
      (u.pc.toNat % 8 = 0 → (s.dom T (s.domNo T h)).codeSize ≤ u.pc.toNat → step s = .next (t.raise 0x17 u.pc)) ∧
      (u.pc.toNat % 8 = 0 → u.pc.toNat < (s.dom T (s.domNo T h)).codeSize →
        (t.fetchState = 2 → step s = .next (t.raise 0x13 u.pc)) ∧
        (t.fetchState = 0 → t.myDom.fdPolicy.getLsbD 3 = true → step s = .next (t.raise 0x10 u.pc)) ∧
        (t.fetchState = 0 → t.myDom.fdPolicy.getLsbD 3 = false → ∃ t', step s = .next t' ∧
          (t'.thread T h).run = .parked .resident s.tcycle ∧ (t'.thread T h).pc = u.pc) ∧
        (t.fetchState = 1 →
          (∀ i, decode (s.fetchWord T h) = .ok i → step s = exec i t.fetched) ∧
          (decode (s.fetchWord T h) = .error .illegal → step s = .next (t.fetched.raise 0x01 (s.fetchWord T h))) ∧
          (decode (s.fetchWord T h) = .error .reserved → step s = .next (t.fetched.raise 0x02 (s.fetchWord T h))) ∧
          (decode (s.fetchWord T h) = .error .unaccepted → step s = .next (t.fetched.raise 0x03 (s.fetchWord T h)))))) ∧
  (∀ (s : State) (T h : Nat) (i : Instr), s.atThreads → s.nextTurn = some (T, h) → (s.thread T h).run = .ready →
    (s.thread T h).overrun = false → (s.thread T h).pend = some i → ∃ t, s.issuing t T h ∧ step s = exec i t) ∧
  (∀ s : State, s.atThreads → s.nextTurn = none → step s = .next s.tick) ∧
  ∀ s : State, s.flight ≠ [] →
    (∃ k, ∃ e : Event, s.flight[k]? = some e ∧ step s = e.run { s.bump with flight := s.flight.eraseIdx k }) ∨
      step s = s.bump.takeTimer

/-- R14, R49, R52, R83, R191, R317, R336, R337, R394, R424: what reset leaves. Memory reads as zero with every full-empty bit
empty (the model's choice of log 2 for DRAM), no job and no domain is present, and the registers hold the values of their
tables. -/
def Obligations.ResetState : Prop :=
  let s := State.reset
  s.time = 0 ∧ s.snapTime = BitVec.allOnes 64 ∧ (∀ a, s.byte a = 0) ∧ (∀ T off, s.feBit T off = false) ∧
    (∀ row col, s.physX row col = col + 1) ∧
    (∀ T d, (s.dom T d).present = false) ∧ (∀ T k, Table.get 0 (s.tile T).table k = 0) ∧
    (∀ T h r, (s.thread T h).rx r = 0) ∧ (∀ T h, (s.thread T h).priv = 0 ∧ (s.thread T h).run = .idle) ∧
    (∀ T n, (s.slot T n).full = false) ∧ (∀ k, s.launchOf k = none) ∧ (∀ k, s.regionOf k = none) ∧
    (∀ y < 32, s.reg (controlReg (0x100 + 8 * y)) = 0x8000000000000001#64) ∧
    (∀ p < 48, s.reg (portReg p 0x400) = 0x22 ∧ s.reg (portReg p 0x508) = 2000) ∧
    (∀ x < 66, ∀ y < 32, s.reg (routerReg x y 0x200) = 16) ∧
    s.nextService = none ∧ s.nextTurn = none

/-- Every step keeps the canonical form of memory: addresses rise strictly and no entry is the unlisted byte, so that equal
memories are equal data. -/
def Obligations.MemoryInvariant : Prop :=
  ∀ s t : State, Memory.wf s.mem = true → step s = .next t → Memory.wf t.mem = true

/-- The memory of the module right after reset has that form. -/
def Obligations.ResetInvariant : Prop := Memory.wf State.reset.mem = true
end

