-- ==== Sys2Proof/Laws/Arith.lean ====
section
/-! SUPPORT. The integer helpers of the ALU in terms of bit vectors of the type's width. -/

namespace Sys2Proof.Bits

theorem signed_eq_toInt {n : Nat} (h : 0 < n) (v : Nat) : signed n v = (BitVec.ofNat n v).toInt := by
  have e : (2 : Nat) ^ n = 2 * 2 ^ (n - 1) := by
    rw [← Nat.pow_succ']
    congr 1
    omega
  rw [BitVec.toInt_eq_toNat_cond, BitVec.toNat_ofNat]
  unfold signed
  by_cases c : v % 2 ^ n < 2 ^ (n - 1)
  · rw [if_pos c, if_pos (by omega)]
    push_cast
    rfl
  · rw [if_neg c, if_neg (by omega)]
    push_cast
    rfl

theorem signed_toNat {n : Nat} (h : 0 < n) (x : BitVec n) : signed n x.toNat = x.toInt := by
  rw [signed_eq_toInt h, BitVec.ofNat_toNat, BitVec.setWidth_eq]

theorem wrap_eq_toNat (n : Nat) (v : Int) : wrap n v = (BitVec.ofInt n v).toNat := by
  rw [BitVec.toNat_ofInt]
  unfold wrap
  push_cast
  rfl

theorem wrap_lt (n : Nat) (v : Int) : wrap n v < 2 ^ n := by
  rw [wrap_eq_toNat]
  exact (BitVec.ofInt n v).isLt

end Sys2Proof.Bits

namespace Sys2Proof.Machine

open Bits

theorem intWidth_pos (t : IntTy) : 0 < intWidth t := by cases t <;> decide

theorem intWidth_le (t : IntTy) : intWidth t ≤ 64 := by cases t <;> decide

/-- The data operand of a type is the low part of the register. -/
theorem dataOf_eq (t : IntTy) (x : W64) : dataOf t x = (x.setWidth (intWidth t)).toNat := by
  rw [dataOf, BitVec.toNat_setWidth]

theorem valueOf_signed {t : IntTy} (h : intSigned t = true) (x : W64) :
    valueOf t x = (x.setWidth (intWidth t)).toInt := by
  rw [valueOf, if_pos h, dataOf_eq, signed_toNat (intWidth_pos t)]

theorem valueOf_unsigned {t : IntTy} (h : intSigned t = false) (x : W64) :
    valueOf t x = ((x.setWidth (intWidth t)).toNat : Int) := by
  rw [valueOf, if_neg (by simp [h]), dataOf_eq]

/-- The extension of a result by the type's signedness, as bit vectors. -/
theorem extend_eq (t : IntTy) (r : BitVec (intWidth t)) :
    extend t r.toNat = if intSigned t then r.signExtend 64 else r.setWidth 64 := by
  unfold extend
  split
  · rw [signed_toNat (intWidth_pos t)]
    rfl
  · rw [Nat.mod_eq_of_lt r.isLt]
    apply BitVec.eq_of_toNat_eq
    simp

end Sys2Proof.Machine
end

