-- ==== Sys2Proof/Laws/Dispatch.lean ====
section
/-! SUPPORT. One equation for each arm of `exec`: what an instruction's meaning is. -/

namespace Sys2Proof.Machine

@[simp] theorem exec_ill (s : State) rest : exec (.ill rest) s = execIll rest s := rfl
@[simp] theorem exec_nop (s : State) g : exec (.nop g) s = execNop g s := rfl
@[simp] theorem exec_br (s : State) g off : exec (.br g off) s = execBr g off s := rfl
@[simp] theorem exec_call (s : State) g d off : exec (.call g d off) s = execCall g d off s := rfl
@[simp] theorem exec_jr (s : State) g d a : exec (.jr g d a) s = execJr g d a s := rfl
@[simp] theorem exec_loop (s : State) g d off : exec (.loop g d off) s = execLoop g d off s := rfl
@[simp] theorem exec_waitc (s : State) g d a imm : exec (.waitc g d a imm) s = execWaitc g d a imm s := rfl
@[simp] theorem exec_yield (s : State) g : exec (.yield g) s = execYield g s := rfl
@[simp] theorem exec_exit (s : State) g : exec (.exit g) s = execExit g s := rfl
@[simp] theorem exec_brk (s : State) g imm : exec (.brk g imm) s = execBrk g imm s := rfl
@[simp] theorem exec_trap (s : State) g imm : exec (.trap g imm) s = execTrap g imm s := rfl
@[simp] theorem exec_add (s : State) g t sat d a b : exec (.add g t sat d a b) s = execAdd g t sat d a b s := rfl
@[simp] theorem exec_sub (s : State) g t sat d a b : exec (.sub g t sat d a b) s = execSub g t sat d a b s := rfl
@[simp] theorem exec_mul (s : State) g t sat d a b : exec (.mul g t sat d a b) s = execMul g t sat d a b s := rfl
@[simp] theorem exec_mulh (s : State) g t d a b : exec (.mulh g t d a b) s = execMulh g t d a b s := rfl
@[simp] theorem exec_mulhw (s : State) g t d a b : exec (.mulhw g t d a b) s = execMulhw g t d a b s := rfl
@[simp] theorem exec_div (s : State) g t d a b : exec (.div g t d a b) s = execDiv g t d a b s := rfl
@[simp] theorem exec_divw (s : State) g t d a b : exec (.divw g t d a b) s = execDivw g t d a b s := rfl
@[simp] theorem exec_rem (s : State) g t d a b : exec (.rem g t d a b) s = execRem g t d a b s := rfl
@[simp] theorem exec_remw (s : State) g t d a b : exec (.remw g t d a b) s = execRemw g t d a b s := rfl
@[simp] theorem exec_and (s : State) g t d a b : exec (.and g t d a b) s = execAnd g t d a b s := rfl
@[simp] theorem exec_or (s : State) g t d a b : exec (.or g t d a b) s = execOr g t d a b s := rfl
@[simp] theorem exec_xor (s : State) g t d a b : exec (.xor g t d a b) s = execXor g t d a b s := rfl
@[simp] theorem exec_andn (s : State) g t d a b : exec (.andn g t d a b) s = execAndn g t d a b s := rfl
@[simp] theorem exec_orn (s : State) g t d a b : exec (.orn g t d a b) s = execOrn g t d a b s := rfl
@[simp] theorem exec_shl (s : State) g t d a b : exec (.shl g t d a b) s = execShl g t d a b s := rfl
@[simp] theorem exec_shr (s : State) g t d a b : exec (.shr g t d a b) s = execShr g t d a b s := rfl
@[simp] theorem exec_sra (s : State) g t d a b : exec (.sra g t d a b) s = execSra g t d a b s := rfl
@[simp] theorem exec_rol (s : State) g t d a b : exec (.rol g t d a b) s = execRol g t d a b s := rfl
@[simp] theorem exec_min (s : State) g t d a b : exec (.min g t d a b) s = execMin g t d a b s := rfl
@[simp] theorem exec_max (s : State) g t d a b : exec (.max g t d a b) s = execMax g t d a b s := rfl
@[simp] theorem exec_minw (s : State) g t d a b : exec (.minw g t d a b) s = execMinw g t d a b s := rfl
@[simp] theorem exec_maxw (s : State) g t d a b : exec (.maxw g t d a b) s = execMaxw g t d a b s := rfl
@[simp] theorem exec_clz (s : State) g t d a : exec (.clz g t d a) s = execClz g t d a s := rfl
@[simp] theorem exec_ctz (s : State) g t d a : exec (.ctz g t d a) s = execCtz g t d a s := rfl
@[simp] theorem exec_popc (s : State) g t d a : exec (.popc g t d a) s = execPopc g t d a s := rfl
@[simp] theorem exec_brev (s : State) g t d a : exec (.brev g t d a) s = execBrev g t d a s := rfl
@[simp] theorem exec_bswap (s : State) g t d a : exec (.bswap g t d a) s = execBswap g t d a s := rfl
@[simp] theorem exec_bfx (s : State) g t d a b c : exec (.bfx g t d a b c) s = execBfx g t d a b c s := rfl
@[simp] theorem exec_bfxw (s : State) g t d a b c : exec (.bfxw g t d a b c) s = execBfxw g t d a b c s := rfl
@[simp] theorem exec_bfi (s : State) g t d a b c : exec (.bfi g t d a b c) s = execBfi g t d a b c s := rfl
@[simp] theorem exec_sel (s : State) g t d p a b : exec (.sel g t d p a b) s = execSel g t d p a b s := rfl
@[simp] theorem exec_abs (s : State) g t sat d a : exec (.abs g t sat d a) s = execAbs g t sat d a s := rfl
@[simp] theorem exec_neg (s : State) g t sat d a : exec (.neg g t sat d a) s = execNeg g t sat d a s := rfl
@[simp] theorem exec_addi (s : State) g d a imm : exec (.addi g d a imm) s = execAddi g d a imm s := rfl
@[simp] theorem exec_andi (s : State) g d a imm : exec (.andi g d a imm) s = execAndi g d a imm s := rfl
@[simp] theorem exec_ori (s : State) g d a imm : exec (.ori g d a imm) s = execOri g d a imm s := rfl
@[simp] theorem exec_xori (s : State) g d a imm : exec (.xori g d a imm) s = execXori g d a imm s := rfl
@[simp] theorem exec_shli (s : State) g d a sh : exec (.shli g d a sh) s = execShli g d a sh s := rfl
@[simp] theorem exec_shri (s : State) g d a sh : exec (.shri g d a sh) s = execShri g d a sh s := rfl
@[simp] theorem exec_srai (s : State) g d a sh : exec (.srai g d a sh) s = execSrai g d a sh s := rfl
@[simp] theorem exec_muli (s : State) g d a imm : exec (.muli g d a imm) s = execMuli g d a imm s := rfl
@[simp] theorem exec_movi (s : State) g d imm : exec (.movi g d imm) s = execMovi g d imm s := rfl
@[simp] theorem exec_movhi (s : State) g d imm : exec (.movhi g d imm) s = execMovhi g d imm s := rfl
@[simp] theorem exec_cmp (s : State) g t p a b c : exec (.cmp g t p a b c) s = execCmp g t p a b c s := rfl
@[simp] theorem exec_cmpi (s : State) g p a imm c : exec (.cmpi g p a imm c) s = execCmpi g p a imm c s := rfl
@[simp] theorem exec_fcmp (s : State) g t p a b c : exec (.fcmp g t p a b c) s = execFcmp g t p a b c s := rfl
@[simp] theorem exec_pand (s : State) g d a b : exec (.pand g d a b) s = execPand g d a b s := rfl
@[simp] theorem exec_por (s : State) g d a b : exec (.por g d a b) s = execPor g d a b s := rfl
@[simp] theorem exec_pxor (s : State) g d a b : exec (.pxor g d a b) s = execPxor g d a b s := rfl
@[simp] theorem exec_pandn (s : State) g d a b : exec (.pandn g d a b) s = execPandn g d a b s := rfl
@[simp] theorem exec_pget (s : State) g d : exec (.pget g d) s = execPget g d s := rfl
@[simp] theorem exec_pput (s : State) g a b : exec (.pput g a b) s = execPput g a b s := rfl
@[simp] theorem exec_lea (s : State) g d m : exec (.lea g d m) s = execLea g d m s := rfl
@[simp] theorem exec_spctest (s : State) g d p a : exec (.spctest g d p a) s = execSpctest g d p a s := rfl
@[simp] theorem exec_spcast (s : State) g d p a target : exec (.spcast g d p a target) s = execSpcast g d p a target s := rfl
@[simp] theorem exec_mkshr (s : State) g d a b : exec (.mkshr g d a b) s = execMkshr g d a b s := rfl
@[simp] theorem exec_fadd (s : State) g t rm sat d a b : exec (.fadd g t rm sat d a b) s = execFadd g t rm sat d a b s := rfl
@[simp] theorem exec_fsub (s : State) g t rm sat d a b : exec (.fsub g t rm sat d a b) s = execFsub g t rm sat d a b s := rfl
@[simp] theorem exec_fmul (s : State) g t rm sat d a b : exec (.fmul g t rm sat d a b) s = execFmul g t rm sat d a b s := rfl
@[simp] theorem exec_ffma (s : State) g t rm sat d a b c : exec (.ffma g t rm sat d a b c) s = execFfma g t rm sat d a b c s := rfl
@[simp] theorem exec_ffms (s : State) g t rm sat d a b c : exec (.ffms g t rm sat d a b c) s = execFfms g t rm sat d a b c s := rfl
@[simp] theorem exec_fdiv (s : State) g t rm sat d a b : exec (.fdiv g t rm sat d a b) s = execFdiv g t rm sat d a b s := rfl
@[simp] theorem exec_fsqrt (s : State) g t rm sat d a : exec (.fsqrt g t rm sat d a) s = execFsqrt g t rm sat d a s := rfl
@[simp] theorem exec_fmin (s : State) g t d a b : exec (.fmin g t d a b) s = execFmin g t d a b s := rfl
@[simp] theorem exec_fmax (s : State) g t d a b : exec (.fmax g t d a b) s = execFmax g t d a b s := rfl
@[simp] theorem exec_fabs (s : State) g t d a : exec (.fabs g t d a) s = execFabs g t d a s := rfl
@[simp] theorem exec_fneg (s : State) g t d a : exec (.fneg g t d a) s = execFneg g t d a s := rfl
@[simp] theorem exec_fsgn (s : State) g t d a b : exec (.fsgn g t d a b) s = execFsgn g t d a b s := rfl
@[simp] theorem exec_fcvt (s : State) g dt st rm sat d a : exec (.fcvt g dt st rm sat d a) s = execFcvt g dt st rm sat d a s := rfl
@[simp] theorem exec_fclass (s : State) g t d a : exec (.fclass g t d a) s = execFclass g t d a s := rfl
@[simp] theorem exec_frnd (s : State) g t rm d a : exec (.frnd g t rm d a) s = execFrnd g t rm d a s := rfl
@[simp] theorem exec_ld (s : State) g sx sz o d m : exec (.ld g sx sz o d m) s = execLd g sx sz o d m s := rfl
@[simp] theorem exec_st (s : State) g sz o d m : exec (.st g sz o d m) s = execSt g sz o d m s := rfl
@[simp] theorem exec_stWc (s : State) g sz d m : exec (.stWc g sz d m) s = execStWc g sz d m s := rfl
@[simp] theorem exec_ldfe (s : State) g fm o d m : exec (.ldfe g fm o d m) s = execLdfe g fm o d m s := rfl
@[simp] theorem exec_stfe (s : State) g fm o d m : exec (.stfe g fm o d m) s = execStfe g fm o d m s := rfl
@[simp] theorem exec_fetest (s : State) g o d m : exec (.fetest g o d m) s = execFetest g o d m s := rfl
@[simp] theorem exec_feset (s : State) g full o m : exec (.feset g full o m) s = execFeset g full o m s := rfl
@[simp] theorem exec_pf (s : State) g llc m : exec (.pf g llc m) s = execPf g llc m s := rfl
@[simp] theorem exec_fence (s : State) g o : exec (.fence g o) s = execFence g o s := rfl
@[simp] theorem exec_amoadd (s : State) g sx sz nr o d m : exec (.amoadd g sx sz nr o d m) s = execAmoadd g sx sz nr o d m s := rfl
@[simp] theorem exec_amomin (s : State) g sx sz nr o d m : exec (.amomin g sx sz nr o d m) s = execAmomin g sx sz nr o d m s := rfl
@[simp] theorem exec_amomax (s : State) g sx sz nr o d m : exec (.amomax g sx sz nr o d m) s = execAmomax g sx sz nr o d m s := rfl
@[simp] theorem exec_amominw (s : State) g sx sz nr o d m : exec (.amominw g sx sz nr o d m) s = execAmominw g sx sz nr o d m s := rfl
@[simp] theorem exec_amomaxw (s : State) g sx sz nr o d m : exec (.amomaxw g sx sz nr o d m) s = execAmomaxw g sx sz nr o d m s := rfl
@[simp] theorem exec_amoand (s : State) g sx sz nr o d m : exec (.amoand g sx sz nr o d m) s = execAmoand g sx sz nr o d m s := rfl
@[simp] theorem exec_amoor (s : State) g sx sz nr o d m : exec (.amoor g sx sz nr o d m) s = execAmoor g sx sz nr o d m s := rfl
@[simp] theorem exec_amoxor (s : State) g sx sz nr o d m : exec (.amoxor g sx sz nr o d m) s = execAmoxor g sx sz nr o d m s := rfl
@[simp] theorem exec_amoswap (s : State) g sx sz nr o d m : exec (.amoswap g sx sz nr o d m) s = execAmoswap g sx sz nr o d m s := rfl
@[simp] theorem exec_amofadd (s : State) g nr o d m : exec (.amofadd g nr o d m) s = execAmofadd g nr o d m s := rfl
@[simp] theorem exec_amocas (s : State) g sx sz o d m : exec (.amocas g sx sz o d m) s = execAmocas g sx sz o d m s := rfl
@[simp] theorem exec_vld (s : State) g n o d m : exec (.vld g n o d m) s = execVld g n o d m s := rfl
@[simp] theorem exec_vst (s : State) g n o d m : exec (.vst g n o d m) s = execVst g n o d m s := rfl
@[simp] theorem exec_vldg (s : State) g sx sz mk o d base vi off : exec (.vldg g sx sz mk o d base vi off) s = execVldg g sx sz mk o d base vi off s := rfl
@[simp] theorem exec_vsts (s : State) g sz mk o d base vi off : exec (.vsts g sz mk o d base vi off) s = execVsts g sz mk o d base vi off s := rfl
@[simp] theorem exec_vldb (s : State) g sx sz mk o d m : exec (.vldb g sx sz mk o d m) s = execVldb g sx sz mk o d m s := rfl
@[simp] theorem exec_vldt (s : State) g sx sz mk o d m : exec (.vldt g sx sz mk o d m) s = execVldt g sx sz mk o d m s := rfl
@[simp] theorem exec_vstt (s : State) g sz mk o d m : exec (.vstt g sz mk o d m) s = execVstt g sz mk o d m s := rfl
@[simp] theorem exec_vadd (s : State) g t rm sat d a b mk : exec (.vadd g t rm sat d a b mk) s = execVadd g t rm sat d a b mk s := rfl
@[simp] theorem exec_vsub (s : State) g t rm sat d a b mk : exec (.vsub g t rm sat d a b mk) s = execVsub g t rm sat d a b mk s := rfl
@[simp] theorem exec_vmul (s : State) g t rm sat d a b mk : exec (.vmul g t rm sat d a b mk) s = execVmul g t rm sat d a b mk s := rfl
@[simp] theorem exec_vfma (s : State) g t rm sat d a b mk : exec (.vfma g t rm sat d a b mk) s = execVfma g t rm sat d a b mk s := rfl
@[simp] theorem exec_vfms (s : State) g t rm sat d a b mk : exec (.vfms g t rm sat d a b mk) s = execVfms g t rm sat d a b mk s := rfl
@[simp] theorem exec_vmin (s : State) g t d a b mk : exec (.vmin g t d a b mk) s = execVmin g t d a b mk s := rfl
@[simp] theorem exec_vmax (s : State) g t d a b mk : exec (.vmax g t d a b mk) s = execVmax g t d a b mk s := rfl
@[simp] theorem exec_vabs (s : State) g t sat d a mk : exec (.vabs g t sat d a mk) s = execVabs g t sat d a mk s := rfl
@[simp] theorem exec_vneg (s : State) g t sat d a mk : exec (.vneg g t sat d a mk) s = execVneg g t sat d a mk s := rfl
@[simp] theorem exec_vand (s : State) g d a b mk : exec (.vand g d a b mk) s = execVand g d a b mk s := rfl
@[simp] theorem exec_vor (s : State) g d a b mk : exec (.vor g d a b mk) s = execVor g d a b mk s := rfl
@[simp] theorem exec_vxor (s : State) g d a b mk : exec (.vxor g d a b mk) s = execVxor g d a b mk s := rfl
@[simp] theorem exec_vandn (s : State) g d a b mk : exec (.vandn g d a b mk) s = execVandn g d a b mk s := rfl
@[simp] theorem exec_vshl (s : State) g t d a b mk : exec (.vshl g t d a b mk) s = execVshl g t d a b mk s := rfl
@[simp] theorem exec_vshr (s : State) g t d a b mk : exec (.vshr g t d a b mk) s = execVshr g t d a b mk s := rfl
@[simp] theorem exec_vsra (s : State) g t d a b mk : exec (.vsra g t d a b mk) s = execVsra g t d a b mk s := rfl
@[simp] theorem exec_vcmp (s : State) g t c md a b mk : exec (.vcmp g t c md a b mk) s = execVcmp g t c md a b mk s := rfl
@[simp] theorem exec_vsel (s : State) g d a b mk : exec (.vsel g d a b mk) s = execVsel g d a b mk s := rfl
@[simp] theorem exec_vmov (s : State) g d a mk : exec (.vmov g d a mk) s = execVmov g d a mk s := rfl
@[simp] theorem exec_vbcast (s : State) g d x mk : exec (.vbcast g d x mk) s = execVbcast g d x mk s := rfl
@[simp] theorem exec_vbcastLane (s : State) g d a lane mk : exec (.vbcastLane g d a lane mk) s = execVbcastLane g d a lane mk s := rfl
@[simp] theorem exec_vcvt (s : State) g dt st rm sat d a mk : exec (.vcvt g dt st rm sat d a mk) s = execVcvt g dt st rm sat d a mk s := rfl
@[simp] theorem exec_vquant (s : State) g t rm d a : exec (.vquant g t rm d a) s = execVquant g t rm d a s := rfl
@[simp] theorem exec_vdeq (s : State) g t rm sat d a mk : exec (.vdeq g t rm sat d a mk) s = execVdeq g t rm sat d a mk s := rfl
@[simp] theorem exec_vexp2 (s : State) g rm d a mk : exec (.vexp2 g rm d a mk) s = execVexp2 g rm d a mk s := rfl
@[simp] theorem exec_vlog2 (s : State) g rm d a mk : exec (.vlog2 g rm d a mk) s = execVlog2 g rm d a mk s := rfl
@[simp] theorem exec_vrcp (s : State) g rm d a mk : exec (.vrcp g rm d a mk) s = execVrcp g rm d a mk s := rfl
@[simp] theorem exec_vrsqrt (s : State) g rm d a mk : exec (.vrsqrt g rm d a mk) s = execVrsqrt g rm d a mk s := rfl
@[simp] theorem exec_vtanh (s : State) g rm d a mk : exec (.vtanh g rm d a mk) s = execVtanh g rm d a mk s := rfl
@[simp] theorem exec_vsig (s : State) g rm d a mk : exec (.vsig g rm d a mk) s = execVsig g rm d a mk s := rfl
@[simp] theorem exec_vredsum (s : State) g t rm sat d a mk : exec (.vredsum g t rm sat d a mk) s = execVredsum g t rm sat d a mk s := rfl
@[simp] theorem exec_vredmax (s : State) g t d a mk : exec (.vredmax g t d a mk) s = execVredmax g t d a mk s := rfl
@[simp] theorem exec_vredmin (s : State) g t d a mk : exec (.vredmin g t d a mk) s = execVredmin g t d a mk s := rfl
@[simp] theorem exec_vscan (s : State) g t rm sat d a mk : exec (.vscan g t rm sat d a mk) s = execVscan g t rm sat d a mk s := rfl
@[simp] theorem exec_vperm (s : State) g d a b mk : exec (.vperm g d a b mk) s = execVperm g d a b mk s := rfl
@[simp] theorem exec_vrot (s : State) g d a x mk : exec (.vrot g d a x mk) s = execVrot g d a x mk s := rfl
@[simp] theorem exec_vshuf (s : State) g d a b pat mk : exec (.vshuf g d a b pat mk) s = execVshuf g d a b pat mk s := rfl
@[simp] theorem exec_vcompress (s : State) g d a mk : exec (.vcompress g d a mk) s = execVcompress g d a mk s := rfl
@[simp] theorem exec_vcompressMag (s : State) g d a lg nM1 : exec (.vcompressMag g d a lg nM1) s = execVcompressMag g d a lg nM1 s := rfl
@[simp] theorem exec_vcompressTop (s : State) g t d a lg nM1 : exec (.vcompressTop g t d a lg nM1) s = execVcompressTop g t d a lg nM1 s := rfl
@[simp] theorem exec_vargmax (s : State) g t d a mk : exec (.vargmax g t d a mk) s = execVargmax g t d a mk s := rfl
@[simp] theorem exec_vrescale (s : State) g d a b : exec (.vrescale g d a b) s = execVrescale g d a b s := rfl
@[simp] theorem exec_mand (s : State) g md ma mb : exec (.mand g md ma mb) s = execMand g md ma mb s := rfl
@[simp] theorem exec_mor (s : State) g md ma mb : exec (.mor g md ma mb) s = execMor g md ma mb s := rfl
@[simp] theorem exec_mxor (s : State) g md ma mb : exec (.mxor g md ma mb) s = execMxor g md ma mb s := rfl
@[simp] theorem exec_mnot (s : State) g md ma : exec (.mnot g md ma) s = execMnot g md ma s := rfl
@[simp] theorem exec_mpop (s : State) g d ma : exec (.mpop g d ma) s = execMpop g d ma s := rfl
@[simp] theorem exec_mstep (s : State) g acc slot r cM1 : exec (.mstep g acc slot r cM1) s = execMstep g acc slot r cM1 s := rfl
@[simp] theorem exec_mstepSort (s : State) g t o r cM1 : exec (.mstepSort g t o r cM1) s = execMstepSort g t o r cM1 s := rfl
@[simp] theorem exec_mstepTopk (s : State) g t o r cM1 : exec (.mstepTopk g t o r cM1) s = execMstepTopk g t o r cM1 s := rfl
@[simp] theorem exec_mzero (s : State) g acc cM1 : exec (.mzero g acc cM1) s = execMzero g acc cM1 s := rfl
@[simp] theorem exec_mload (s : State) g acc r cM1 : exec (.mload g acc r cM1) s = execMload g acc r cM1 s := rfl
@[simp] theorem exec_mdrain (s : State) g t sat acc r s1 cM1 : exec (.mdrain g t sat acc r s1 cM1) s = execMdrain g t sat acc r s1 cM1 s := rfl
@[simp] theorem exec_mdrainv (s : State) g t sat v acc a cM1 : exec (.mdrainv g t sat v acc a cM1) s = execMdrainv g t sat v acc a cM1 s := rfl
@[simp] theorem exec_msort (s : State) g t lg o k cM1 : exec (.msort g t lg o k cM1) s = execMsort g t lg o k cM1 s := rfl
@[simp] theorem exec_mtopk (s : State) g t lg kM1 o k cM1 : exec (.mtopk g t lg kM1 o k cM1) s = execMtopk g t lg kM1 o k cM1 s := rfl
@[simp] theorem exec_mcfg (s : State) g r : exec (.mcfg g r) s = execMcfg g r s := rfl
@[simp] theorem exec_mcfgOff (s : State) g : exec (.mcfgOff g) s = execMcfgOff g s := rfl
@[simp] theorem exec_mwait (s : State) g n : exec (.mwait g n) s = execMwait g n s := rfl
@[simp] theorem exec_wrel (s : State) g slot : exec (.wrel g slot) s = execWrel g slot s := rfl
@[simp] theorem exec_wstat (s : State) g d slot : exec (.wstat g d slot) s = execWstat g d slot s := rfl
@[simp] theorem exec_wstatWait (s : State) g d slot : exec (.wstatWait g d slot) s = execWstatWait g d slot s := rfl
@[simp] theorem exec_xfer (s : State) g r a : exec (.xfer g r a) s = execXfer g r a s := rfl
@[simp] theorem exec_sbind (s : State) g port r a : exec (.sbind g port r a) s = execSbind g port r a s := rfl
@[simp] theorem exec_swait (s : State) g port : exec (.swait g port) s = execSwait g port s := rfl
@[simp] theorem exec_post (s : State) g a b c tag : exec (.post g a b c tag) s = execPost g a b c tag s := rfl
@[simp] theorem exec_take (s : State) g d a imm : exec (.take g d a imm) s = execTake g d a imm s := rfl
@[simp] theorem exec_peek (s : State) g d a imm : exec (.peek g d a imm) s = execPeek g d a imm s := rfl
@[simp] theorem exec_await (s : State) g d a imm : exec (.await g d a imm) s = execAwait g d a imm s := rfl
@[simp] theorem exec_barinit (s : State) g b : exec (.barinit g b) s = execBarinit g b s := rfl
@[simp] theorem exec_barexp (s : State) g a b arm : exec (.barexp g a b arm) s = execBarexp g a b arm s := rfl
@[simp] theorem exec_bararr (s : State) g a b : exec (.bararr g a b) s = execBararr g a b s := rfl
@[simp] theorem exec_barwait (s : State) g b : exec (.barwait g b) s = execBarwait g b s := rfl
@[simp] theorem exec_bartest (s : State) g d b : exec (.bartest g d b) s = execBartest g d b s := rfl
@[simp] theorem exec_redput (s : State) g r x : exec (.redput g r x) s = execRedput g r x s := rfl
@[simp] theorem exec_coll (s : State) g r e : exec (.coll g r e) s = execColl g r e s := rfl
@[simp] theorem exec_mark (s : State) g a imm : exec (.mark g a imm) s = execMark g a imm s := rfl
@[simp] theorem exec_sdone (s : State) g : exec (.sdone g) s = execSdone g s := rfl
@[simp] theorem exec_csrr (s : State) g d n : exec (.csrr g d n) s = execCsrr g d n s := rfl
@[simp] theorem exec_csrw (s : State) g d a n : exec (.csrw g d a n) s = execCsrw g d a n s := rfl
@[simp] theorem exec_csrs (s : State) g d a n : exec (.csrs g d a n) s = execCsrs g d a n s := rfl
@[simp] theorem exec_csrc (s : State) g d a n : exec (.csrc g d a n) s = execCsrc g d a n s := rfl
@[simp] theorem exec_eret (s : State) g : exec (.eret g) s = execEret g s := rfl
@[simp] theorem exec_repart (s : State) g d a mode : exec (.repart g d a mode) s = execRepart g d a mode s := rfl
@[simp] theorem exec_ctxsave (s : State) g a k : exec (.ctxsave g a k) s = execCtxsave g a k s := rfl
@[simp] theorem exec_ctxload (s : State) g a k : exec (.ctxload g a k) s = execCtxload g a k s := rfl
@[simp] theorem exec_slotw (s : State) g d a dom : exec (.slotw g d a dom) s = execSlotw g d a dom s := rfl
@[simp] theorem exec_jkill (s : State) g d a : exec (.jkill g d a) s = execJkill g d a s := rfl
@[simp] theorem exec_snap (s : State) g d a herd : exec (.snap g d a herd) s = execSnap g d a herd s := rfl
@[simp] theorem exec_launch (s : State) sv priv r : exec (.launch sv priv r) s = execLaunch sv priv r s := rfl
@[simp] theorem exec_drain (s : State) sv priv r : exec (.drain sv priv r) s = execDrain sv priv r s := rfl
@[simp] theorem exec_freeze (s : State) sv priv r : exec (.freeze sv priv r) s = execFreeze sv priv r s := rfl
@[simp] theorem exec_restore (s : State) sv priv r : exec (.restore sv priv r) s = execRestore sv priv r s := rfl
@[simp] theorem exec_attest (s : State) sv priv r : exec (.attest sv priv r) s = execAttest sv priv r s := rfl
@[simp] theorem exec_handler (s : State) sv priv r : exec (.handler sv priv r) s = execHandler sv priv r s := rfl
@[simp] theorem exec_copyIn (s : State) sv priv r : exec (.copyIn sv priv r) s = execCopyIn sv priv r s := rfl
@[simp] theorem exec_copyOut (s : State) sv priv r : exec (.copyOut sv priv r) s = execCopyOut sv priv r s := rfl
@[simp] theorem exec_launchEnd (s : State) l : exec (.launchEnd l) s = execLaunchEnd l s := rfl
@[simp] theorem exec_tileReady (s : State) t d : exec (.tileReady t d) s = execTileReady t d s := rfl
@[simp] theorem exec_stepStart (s : State) b : exec (.stepStart b) s = execStepStart b s := rfl
@[simp] theorem exec_stageEntry (s : State) t d : exec (.stageEntry t d) s = execStageEntry t d s := rfl
@[simp] theorem exec_stageDone (s : State) t d : exec (.stageDone t d) s = execStageDone t d s := rfl
@[simp] theorem exec_parkedSaddleDelivery (s : State) b : exec (.parkedSaddleDelivery b) s = execParkedSaddleDelivery b s := rfl
@[simp] theorem exec_initialSaddleDelivery (s : State) b stage : exec (.initialSaddleDelivery b stage) s = execInitialSaddleDelivery b stage s := rfl
@[simp] theorem exec_waveCommit (s : State) b w : exec (.waveCommit b w) s = execWaveCommit b w s := rfl
@[simp] theorem exec_bandFinish (s : State) b : exec (.bandFinish b) s = execBandFinish b s := rfl
@[simp] theorem exec_drainComplete (s : State) r : exec (.drainComplete r) s = execDrainComplete r s := rfl
@[simp] theorem exec_freezeImageWrite (s : State) r : exec (.freezeImageWrite r) s = execFreezeImageWrite r s := rfl
@[simp] theorem exec_freezeAbandon (s : State) r : exec (.freezeAbandon r) s = execFreezeAbandon r s := rfl
@[simp] theorem exec_stepOverrun (s : State) b step : exec (.stepOverrun b step) s = execStepOverrun b step s := rfl
@[simp] theorem exec_overrunOrder (s : State) t d step : exec (.overrunOrder t d step) s = execOverrunOrder t d step s := rfl
@[simp] theorem exec_stageDoneReport (s : State) b row stage wave min : exec (.stageDoneReport b row stage wave min) s = execStageDoneReport b row stage wave min s := rfl
@[simp] theorem exec_readyReduction (s : State) b row t : exec (.readyReduction b row t) s = execReadyReduction b row t s := rfl
@[simp] theorem exec_markerReduction (s : State) b row t marker : exec (.markerReduction b row t marker) s = execMarkerReduction b row t marker s := rfl
@[simp] theorem exec_slotRelease (s : State) t slot : exec (.slotRelease t slot) s = execSlotRelease t slot s := rfl
@[simp] theorem exec_kind1Prefetch (s : State) o : exec (.kind1Prefetch o) s = execKind1Prefetch o s := rfl
@[simp] theorem exec_kind2Emit (s : State) o : exec (.kind2Emit o) s = execKind2Emit o s := rfl
@[simp] theorem exec_kind3Writeback (s : State) o : exec (.kind3Writeback o) s = execKind3Writeback o s := rfl
@[simp] theorem exec_kind4Fetch (s : State) o : exec (.kind4Fetch o) s = execKind4Fetch o s := rfl
@[simp] theorem exec_kind5Assert (s : State) o : exec (.kind5Assert o) s = execKind5Assert o s := rfl
@[simp] theorem exec_residencyComplete (s : State) t d o : exec (.residencyComplete t d o) s = execResidencyComplete t d o s := rfl
@[simp] theorem exec_lightFrame (s : State) t f : exec (.lightFrame t f) s = execLightFrame t f s := rfl
@[simp] theorem exec_frameRepairRequest (s : State) m : exec (.frameRepairRequest m) s = execFrameRepairRequest m s := rfl
@[simp] theorem exec_lostFill (s : State) t slot : exec (.lostFill t slot) s = execLostFill t slot s := rfl
@[simp] theorem exec_readRequest (s : State) m : exec (.readRequest m) s = execReadRequest m s := rfl
@[simp] theorem exec_writeRequest (s : State) m : exec (.writeRequest m) s = execWriteRequest m s := rfl
@[simp] theorem exec_atomicRequest (s : State) m : exec (.atomicRequest m) s = execAtomicRequest m s := rfl
@[simp] theorem exec_engineCommand (s : State) m : exec (.engineCommand m) s = execEngineCommand m s := rfl
@[simp] theorem exec_mailboxPost (s : State) m : exec (.mailboxPost m) s = execMailboxPost m s := rfl
@[simp] theorem exec_configurationWrite (s : State) m : exec (.configurationWrite m) s = execConfigurationWrite m s := rfl
@[simp] theorem exec_readReply (s : State) m : exec (.readReply m) s = execReadReply m s := rfl
@[simp] theorem exec_writeAcknowledgement (s : State) m : exec (.writeAcknowledgement m) s = execWriteAcknowledgement m s := rfl
@[simp] theorem exec_atomicReply (s : State) m : exec (.atomicReply m) s = execAtomicReply m s := rfl
@[simp] theorem exec_orderedStreamAck (s : State) m : exec (.orderedStreamAck m) s = execOrderedStreamAck m s := rfl
@[simp] theorem exec_engineCompletion (s : State) m : exec (.engineCompletion m) s = execEngineCompletion m s := rfl
@[simp] theorem exec_bulkData (s : State) m : exec (.bulkData m) s = execBulkData m s := rfl
@[simp] theorem exec_saddleMessage (s : State) m : exec (.saddleMessage m) s = execSaddleMessage m s := rfl
@[simp] theorem exec_reductionContribution (s : State) n port m : exec (.reductionContribution n port m) s = execReductionContribution n port m s := rfl
@[simp] theorem exec_reductionAbort (s : State) n group rseq timeout : exec (.reductionAbort n group rseq timeout) s = execReductionAbort n group rseq timeout s := rfl
@[simp] theorem exec_reductionContextTimeout (s : State) n group rseq : exec (.reductionContextTimeout n group rseq) s = execReductionContextTimeout n group rseq s := rfl
@[simp] theorem exec_collectiveLaunchRecord (s : State) n m : exec (.collectiveLaunchRecord n m) s = execCollectiveLaunchRecord n m s := rfl
@[simp] theorem exec_collectiveChunkData (s : State) n m : exec (.collectiveChunkData n m) s = execCollectiveChunkData n m s := rfl
@[simp] theorem exec_collectiveChunkAck (s : State) n m : exec (.collectiveChunkAck n m) s = execCollectiveChunkAck n m s := rfl
@[simp] theorem exec_chunkOperationRun (s : State) n slot op : exec (.chunkOperationRun n slot op) s = execChunkOperationRun n slot op s := rfl
@[simp] theorem exec_escalation (s : State) m : exec (.escalation m) s = execEscalation m s := rfl
@[simp] theorem exec_guardReport (s : State) m : exec (.guardReport m) s = execGuardReport m s := rfl
@[simp] theorem exec_wakeHint (s : State) p module : exec (.wakeHint p module) s = execWakeHint p module s := rfl
@[simp] theorem exec_xlatInvalMessage (s : State) station v : exec (.xlatInvalMessage station v) s = execXlatInvalMessage station v s := rfl
@[simp] theorem exec_reservedTypeMessage (s : State) n m : exec (.reservedTypeMessage n m) s = execReservedTypeMessage n m s := rfl
@[simp] theorem exec_meshRoute (s : State) at_ m : exec (.meshRoute at_ m) s = execMeshRoute at_ m s := rfl
@[simp] theorem exec_flitRetry (s : State) x y p failed : exec (.flitRetry x y p failed) s = execFlitRetry x y p failed s := rfl
@[simp] theorem exec_tailKill (s : State) n m : exec (.tailKill n m) s = execTailKill n m s := rfl
@[simp] theorem exec_blockTransferStart (s : State) station engine : exec (.blockTransferStart station engine) s = execBlockTransferStart station engine s := rfl
@[simp] theorem exec_transferComplete (s : State) station engine : exec (.transferComplete station engine) s = execTransferComplete station engine s := rfl
@[simp] theorem exec_streamPatternStart (s : State) t port : exec (.streamPatternStart t port) s = execStreamPatternStart t port s := rfl
@[simp] theorem exec_patternComplete (s : State) t port : exec (.patternComplete t port) s = execPatternComplete t port s := rfl
@[simp] theorem exec_matrixCommandComplete (s : State) t d : exec (.matrixCommandComplete t d) s = execMatrixCommandComplete t d s := rfl
@[simp] theorem exec_slotTableRotation (s : State) : exec (.slotTableRotation) s = execSlotTableRotation s := rfl
@[simp] theorem exec_waitcExpiry (s : State) t hw : exec (.waitcExpiry t hw) s = execWaitcExpiry t hw s := rfl
@[simp] theorem exec_handlerEntry (s : State) t hw : exec (.handlerEntry t hw) s = execHandlerEntry t hw s := rfl
@[simp] theorem exec_feLimitExpiry (s : State) t hw since : exec (.feLimitExpiry t hw since) s = execFeLimitExpiry t hw since s := rfl
@[simp] theorem exec_parkWatchdog (s : State) t d since : exec (.parkWatchdog t d since) s = execParkWatchdog t d since s := rfl
@[simp] theorem exec_mailboxRetry (s : State) t d : exec (.mailboxRetry t d) s = execMailboxRetry t d s := rfl
@[simp] theorem exec_waitWithdrawalAck (s : State) t hw : exec (.waitWithdrawalAck t hw) s = execWaitWithdrawalAck t hw s := rfl
@[simp] theorem exec_killWrite (s : State) n pid : exec (.killWrite n pid) s = execKillWrite n pid s := rfl
@[simp] theorem exec_killSweepEnd (s : State) n pid : exec (.killSweepEnd n pid) s = execKillSweepEnd n pid s := rfl
@[simp] theorem exec_removalConfirmed (s : State) pid : exec (.removalConfirmed pid) s = execRemovalConfirmed pid s := rfl
@[simp] theorem exec_xlatInvalWrite (s : State) station v : exec (.xlatInvalWrite station v) s = execXlatInvalWrite station v s := rfl
@[simp] theorem exec_xlatInvalDone (s : State) : exec (.xlatInvalDone) s = execXlatInvalDone s := rfl
@[simp] theorem exec_collLoad (s : State) n v pid free : exec (.collLoad n v pid free) s = execCollLoad n v pid free s := rfl
@[simp] theorem exec_collStop (s : State) n slot : exec (.collStop n slot) s = execCollStop n slot s := rfl
@[simp] theorem exec_redHoldHold (s : State) x y group rseq : exec (.redHoldHold x y group rseq) s = execRedHoldHold x y group rseq s := rfl
@[simp] theorem exec_redHoldRelease (s : State) x y group rseq : exec (.redHoldRelease x y group rseq) s = execRedHoldRelease x y group rseq s := rfl
@[simp] theorem exec_redHoldAbandon (s : State) x y group rseq : exec (.redHoldAbandon x y group rseq) s = execRedHoldAbandon x y group rseq s := rfl
@[simp] theorem exec_engResolveRetry (s : State) n index : exec (.engResolveRetry n index) s = execEngResolveRetry n index s := rfl
@[simp] theorem exec_engResolveAbandon (s : State) n index : exec (.engResolveAbandon n index) s = execEngResolveAbandon n index s := rfl
@[simp] theorem exec_remapEntryWrite (s : State) row col physX : exec (.remapEntryWrite row col physX) s = execRemapEntryWrite row col physX s := rfl
@[simp] theorem exec_rowPwrWrite (s : State) row v : exec (.rowPwrWrite row v) s = execRowPwrWrite row v s := rfl
@[simp] theorem exec_rowPowerSettled (s : State) row : exec (.rowPowerSettled row) s = execRowPowerSettled row s := rfl
@[simp] theorem exec_portLaserWrite (s : State) p v : exec (.portLaserWrite p v) s = execPortLaserWrite p v s := rfl
@[simp] theorem exec_portLanesDrain (s : State) p lane : exec (.portLanesDrain p lane) s = execPortLanesDrain p lane s := rfl
@[simp] theorem exec_registerWrite (s : State) a v : exec (.registerWrite a v) s = execRegisterWrite a v s := rfl
@[simp] theorem exec_rcRegisterRead (s : State) a : exec (.rcRegisterRead a) s = execRcRegisterRead a s := rfl
@[simp] theorem exec_rebalanceEpoch (s : State) : exec (.rebalanceEpoch) s = execRebalanceEpoch s := rfl
@[simp] theorem exec_bucketFlushed (s : State) : exec (.bucketFlushed) s = execBucketFlushed s := rfl
@[simp] theorem exec_bucketActiveAtNew (s : State) : exec (.bucketActiveAtNew) s = execBucketActiveAtNew s := rfl
@[simp] theorem exec_laneSwapEnd (s : State) station channel ok : exec (.laneSwapEnd station channel ok) s = execLaneSwapEnd station channel ok s := rfl
@[simp] theorem exec_heartbeatSend (s : State) x y : exec (.heartbeatSend x y) s = execHeartbeatSend x y s := rfl
@[simp] theorem exec_heartbeat (s : State) x y p : exec (.heartbeat x y p) s = execHeartbeat x y p s := rfl
@[simp] theorem exec_silenceAccusation (s : State) x y p : exec (.silenceAccusation x y p) s = execSilenceAccusation x y p s := rfl
@[simp] theorem exec_babbleWindowEnd (s : State) x y p : exec (.babbleWindowEnd x y p) s = execBabbleWindowEnd x y p s := rfl
@[simp] theorem exec_accusation (s : State) x y ax ay by_ r : exec (.accusation x y ax ay by_ r) s = execAccusation x y ax ay by_ r s := rfl
@[simp] theorem exec_accusationWithdrawal (s : State) x y ax ay by_ : exec (.accusationWithdrawal x y ax ay by_) s = execAccusationWithdrawal x y ax ay by_ s := rfl
@[simp] theorem exec_accusationExpiry (s : State) x y ax ay by_ : exec (.accusationExpiry x y ax ay by_) s = execAccusationExpiry x y ax ay by_ s := rfl
@[simp] theorem exec_quorumHoldEnd (s : State) x y ax ay : exec (.quorumHoldEnd x y ax ay) s = execQuorumHoldEnd x y ax ay s := rfl
@[simp] theorem exec_selfFence (s : State) x y : exec (.selfFence x y) s = execSelfFence x y s := rfl
@[simp] theorem exec_fenceNotice (s : State) n fx fy r : exec (.fenceNotice n fx fy r) s = execFenceNotice n fx fy r s := rfl
@[simp] theorem exec_substitution (s : State) row col : exec (.substitution row col) s = execSubstitution row col s := rfl
@[simp] theorem exec_replayStep (s : State) b stage : exec (.replayStep b stage) s = execReplayStep b stage s := rfl
@[simp] theorem exec_farrierTest (s : State) x y passed : exec (.farrierTest x y passed) s = execFarrierTest x y passed s := rfl
@[simp] theorem exec_appeal (s : State) x y p : exec (.appeal x y p) s = execAppeal x y p s := rfl
@[simp] theorem exec_probationEnd (s : State) x y p : exec (.probationEnd x y p) s = execProbationEnd x y p s := rfl
@[simp] theorem exec_readmissionNotice (s : State) n fx fy : exec (.readmissionNotice n fx fy) s = execReadmissionNotice n fx fy s := rfl
@[simp] theorem exec_timeSyncSend (s : State) p : exec (.timeSyncSend p) s = execTimeSyncSend p s := rfl
@[simp] theorem exec_timeSyncSymbol (s : State) p v : exec (.timeSyncSymbol p v) s = execTimeSyncSymbol p v s := rfl
@[simp] theorem exec_quiesce (s : State) p : exec (.quiesce p) s = execQuiesce p s := rfl
@[simp] theorem exec_resume (s : State) p : exec (.resume p) s = execResume p s := rfl
@[simp] theorem exec_restripe (s : State) p lanes : exec (.restripe p lanes) s = execRestripe p lanes s := rfl
@[simp] theorem exec_fecReplay (s : State) p : exec (.fecReplay p) s = execFecReplay p s := rfl
@[simp] theorem exec_lockLoss (s : State) p lane : exec (.lockLoss p lane) s = execLockLoss p lane s := rfl
@[simp] theorem exec_relightTimeout (s : State) p : exec (.relightTimeout p) s = execRelightTimeout p s := rfl
@[simp] theorem exec_laserLoadWindow (s : State) p : exec (.laserLoadWindow p) s = execLaserLoadWindow p s := rfl
@[simp] theorem exec_portLocked (s : State) p : exec (.portLocked p) s = execPortLocked p s := rfl
@[simp] theorem exec_moduleReset (s : State) : exec (.moduleReset) s = execModuleReset s := rfl
@[simp] theorem exec_thermalSample (s : State) row : exec (.thermalSample row) s = execThermalSample row s := rfl
@[simp] theorem exec_thermalTrip (s : State) : exec (.thermalTrip) s = execThermalTrip s := rfl
@[simp] theorem exec_snapshotTrigger (s : State) : exec (.snapshotTrigger) s = execSnapshotTrigger s := rfl
@[simp] theorem exec_measurementExtend (s : State) k k1 d : exec (.measurementExtend k k1 d) s = execMeasurementExtend k k1 d s := rfl
@[simp] theorem exec_firmwareUpdate (s : State) k image digest : exec (.firmwareUpdate k image digest) s = execFirmwareUpdate k image digest s := rfl
@[simp] theorem exec_managementReset (s : State) : exec (.managementReset) s = execManagementReset s := rfl
@[simp] theorem exec_herdMembershipChange (s : State) members : exec (.herdMembershipChange members) s = execHerdMembershipChange members s := rfl
@[simp] theorem exec_pcieReadCompletion (s : State) k : exec (.pcieReadCompletion k) s = execPcieReadCompletion k s := rfl
@[simp] theorem exec_ageHorizonCrossed (s : State) p lane hours : exec (.ageHorizonCrossed p lane hours) s = execAgeHorizonCrossed p lane hours s := rfl

end Sys2Proof.Machine
end

