-- ==== Sys2Proof/Laws/State.lean ====
section
/-! SUPPORT. What each update of the state leaves alone: one lemma per field and update, by unfolding the record update. -/

namespace Sys2Proof.Machine

variable (s : State)

/-! ### setTile -/
@[simp] theorem State.setTile_time (T : Nat) (t : Tile) : (s.setTile T t).time = s.time := rfl
@[simp] theorem State.setTile_tcycle (T : Nat) (t : Tile) : (s.setTile T t).tcycle = s.tcycle := rfl
@[simp] theorem State.setTile_mcycle (T : Nat) (t : Tile) : (s.setTile T t).mcycle = s.mcycle := rfl
@[simp] theorem State.setTile_ticks (T : Nat) (t : Tile) : (s.setTile T t).ticks = s.ticks := rfl
@[simp] theorem State.setTile_phase (T : Nat) (t : Tile) : (s.setTile T t).phase = s.phase := rfl
@[simp] theorem State.setTile_module (T : Nat) (t : Tile) : (s.setTile T t).module = s.module := rfl
@[simp] theorem State.setTile_members (T : Nat) (t : Tile) : (s.setTile T t).members = s.members := rfl
@[simp] theorem State.setTile_snapTime (T : Nat) (t : Tile) : (s.setTile T t).snapTime = s.snapTime := rfl
@[simp] theorem State.setTile_mem (T : Nat) (t : Tile) : (s.setTile T t).mem = s.mem := rfl
@[simp] theorem State.setTile_fe (T : Nat) (t : Tile) : (s.setTile T t).fe = s.fe := rfl
@[simp] theorem State.setTile_slotMem (T : Nat) (t : Tile) : (s.setTile T t).slotMem = s.slotMem := rfl
@[simp] theorem State.setTile_acc (T : Nat) (t : Tile) : (s.setTile T t).acc = s.acc := rfl
@[simp] theorem State.setTile_hostMem (T : Nat) (t : Tile) : (s.setTile T t).hostMem = s.hostMem := rfl
@[simp] theorem State.setTile_msix (T : Nat) (t : Tile) : (s.setTile T t).msix = s.msix := rfl
@[simp] theorem State.setTile_remap (T : Nat) (t : Tile) : (s.setTile T t).remap = s.remap := rfl
@[simp] theorem State.setTile_buckets (T : Nat) (t : Tile) : (s.setTile T t).buckets = s.buckets := rfl
@[simp] theorem State.setTile_move (T : Nat) (t : Tile) : (s.setTile T t).move = s.move := rfl
@[simp] theorem State.setTile_bcount (T : Nat) (t : Tile) : (s.setTile T t).bcount = s.bcount := rfl
@[simp] theorem State.setTile_bmoved (T : Nat) (t : Tile) : (s.setTile T t).bmoved = s.bmoved := rfl
@[simp] theorem State.setTile_epoch (T : Nat) (t : Tile) : (s.setTile T t).epoch = s.epoch := rfl
@[simp] theorem State.setTile_lines (T : Nat) (t : Tile) : (s.setTile T t).lines = s.lines := rfl
@[simp] theorem State.setTile_owned (T : Nat) (t : Tile) : (s.setTile T t).owned = s.owned := rfl
@[simp] theorem State.setTile_gone (T : Nat) (t : Tile) : (s.setTile T t).gone = s.gone := rfl
@[simp] theorem State.setTile_inval (T : Nat) (t : Tile) : (s.setTile T t).inval = s.inval := rfl
@[simp] theorem State.setTile_invalQ (T : Nat) (t : Tile) : (s.setTile T t).invalQ = s.invalQ := rfl
@[simp] theorem State.setTile_groups (T : Nat) (t : Tile) : (s.setTile T t).groups = s.groups := rfl
@[simp] theorem State.setTile_regs (T : Nat) (t : Tile) : (s.setTile T t).regs = s.regs := rfl
@[simp] theorem State.setTile_released (T : Nat) (t : Tile) : (s.setTile T t).released = s.released := rfl
@[simp] theorem State.setTile_fillNo (T : Nat) (t : Tile) : (s.setTile T t).fillNo = s.fillNo := rfl
@[simp] theorem State.setTile_light (T : Nat) (t : Tile) : (s.setTile T t).light = s.light := rfl
@[simp] theorem State.setTile_stations (T : Nat) (t : Tile) : (s.setTile T t).stations = s.stations := rfl
@[simp] theorem State.setTile_portSts (T : Nat) (t : Tile) : (s.setTile T t).portSts = s.portSts := rfl
@[simp] theorem State.setTile_routers (T : Nat) (t : Tile) : (s.setTile T t).routers = s.routers := rfl
@[simp] theorem State.setTile_services (T : Nat) (t : Tile) : (s.setTile T t).services = s.services := rfl
@[simp] theorem State.setTile_launches (T : Nat) (t : Tile) : (s.setTile T t).launches = s.launches := rfl
@[simp] theorem State.setTile_regions (T : Nat) (t : Tile) : (s.setTile T t).regions = s.regions := rfl
@[simp] theorem State.setTile_bands (T : Nat) (t : Tile) : (s.setTile T t).bands = s.bands := rfl
@[simp] theorem State.setTile_nextId (T : Nat) (t : Tile) : (s.setTile T t).nextId = s.nextId := rfl
@[simp] theorem State.setTile_handlers (T : Nat) (t : Tile) : (s.setTile T t).handlers = s.handlers := rfl
@[simp] theorem State.setTile_removals (T : Nat) (t : Tile) : (s.setTile T t).removals = s.removals := rfl
@[simp] theorem State.setTile_images (T : Nat) (t : Tile) : (s.setTile T t).images = s.images := rfl
@[simp] theorem State.setTile_arrErr (T : Nat) (t : Tile) : (s.setTile T t).arrErr = s.arrErr := rfl
@[simp] theorem State.setTile_busErr (T : Nat) (t : Tile) : (s.setTile T t).busErr = s.busErr := rfl
@[simp] theorem State.setTile_laneErr (T : Nat) (t : Tile) : (s.setTile T t).laneErr = s.laneErr := rfl
@[simp] theorem State.setTile_bad (T : Nat) (t : Tile) : (s.setTile T t).bad = s.bad := rfl
@[simp] theorem State.setTile_flips (T : Nat) (t : Tile) : (s.setTile T t).flips = s.flips := rfl
@[simp] theorem State.setTile_fixed (T : Nat) (t : Tile) : (s.setTile T t).fixed = s.fixed := rfl
@[simp] theorem State.setTile_temps (T : Nat) (t : Tile) : (s.setTile T t).temps = s.temps := rfl
@[simp] theorem State.setTile_hot (T : Nat) (t : Tile) : (s.setTile T t).hot = s.hot := rfl
@[simp] theorem State.setTile_appeals (T : Nat) (t : Tile) : (s.setTile T t).appeals = s.appeals := rfl
@[simp] theorem State.setTile_herdOut (T : Nat) (t : Tile) : (s.setTile T t).herdOut = s.herdOut := rfl
@[simp] theorem State.setTile_pcieOut (T : Nat) (t : Tile) : (s.setTile T t).pcieOut = s.pcieOut := rfl
@[simp] theorem State.setTile_log (T : Nat) (t : Tile) : (s.setTile T t).log = s.log := rfl
@[simp] theorem State.setTile_mgmtOut (T : Nat) (t : Tile) : (s.setTile T t).mgmtOut = s.mgmtOut := rfl
@[simp] theorem State.setTile_flight (T : Nat) (t : Tile) : (s.setTile T t).flight = s.flight := rfl
@[simp] theorem State.setTile_timers (T : Nat) (t : Tile) : (s.setTile T t).timers = s.timers := rfl
@[simp] theorem State.setTile_inputs (T : Nat) (t : Tile) : (s.setTile T t).inputs = s.inputs := rfl
@[simp] theorem State.setTile_free (T : Nat) (t : Tile) : (s.setTile T t).free = s.free := rfl
@[simp] theorem State.setTile_cur (T : Nat) (t : Tile) : (s.setTile T t).cur = s.cur := rfl
@[simp] theorem State.setTile_cursor (T : Nat) (t : Tile) : (s.setTile T t).cursor = s.cursor := rfl

/-! ### setStation -/
@[simp] theorem State.setStation_time (n : Nat) (v : Station) : (s.setStation n v).time = s.time := rfl
@[simp] theorem State.setStation_tcycle (n : Nat) (v : Station) : (s.setStation n v).tcycle = s.tcycle := rfl
@[simp] theorem State.setStation_mcycle (n : Nat) (v : Station) : (s.setStation n v).mcycle = s.mcycle := rfl
@[simp] theorem State.setStation_ticks (n : Nat) (v : Station) : (s.setStation n v).ticks = s.ticks := rfl
@[simp] theorem State.setStation_phase (n : Nat) (v : Station) : (s.setStation n v).phase = s.phase := rfl
@[simp] theorem State.setStation_module (n : Nat) (v : Station) : (s.setStation n v).module = s.module := rfl
@[simp] theorem State.setStation_members (n : Nat) (v : Station) : (s.setStation n v).members = s.members := rfl
@[simp] theorem State.setStation_snapTime (n : Nat) (v : Station) : (s.setStation n v).snapTime = s.snapTime := rfl
@[simp] theorem State.setStation_mem (n : Nat) (v : Station) : (s.setStation n v).mem = s.mem := rfl
@[simp] theorem State.setStation_fe (n : Nat) (v : Station) : (s.setStation n v).fe = s.fe := rfl
@[simp] theorem State.setStation_slotMem (n : Nat) (v : Station) : (s.setStation n v).slotMem = s.slotMem := rfl
@[simp] theorem State.setStation_acc (n : Nat) (v : Station) : (s.setStation n v).acc = s.acc := rfl
@[simp] theorem State.setStation_hostMem (n : Nat) (v : Station) : (s.setStation n v).hostMem = s.hostMem := rfl
@[simp] theorem State.setStation_msix (n : Nat) (v : Station) : (s.setStation n v).msix = s.msix := rfl
@[simp] theorem State.setStation_remap (n : Nat) (v : Station) : (s.setStation n v).remap = s.remap := rfl
@[simp] theorem State.setStation_buckets (n : Nat) (v : Station) : (s.setStation n v).buckets = s.buckets := rfl
@[simp] theorem State.setStation_move (n : Nat) (v : Station) : (s.setStation n v).move = s.move := rfl
@[simp] theorem State.setStation_bcount (n : Nat) (v : Station) : (s.setStation n v).bcount = s.bcount := rfl
@[simp] theorem State.setStation_bmoved (n : Nat) (v : Station) : (s.setStation n v).bmoved = s.bmoved := rfl
@[simp] theorem State.setStation_epoch (n : Nat) (v : Station) : (s.setStation n v).epoch = s.epoch := rfl
@[simp] theorem State.setStation_lines (n : Nat) (v : Station) : (s.setStation n v).lines = s.lines := rfl
@[simp] theorem State.setStation_owned (n : Nat) (v : Station) : (s.setStation n v).owned = s.owned := rfl
@[simp] theorem State.setStation_gone (n : Nat) (v : Station) : (s.setStation n v).gone = s.gone := rfl
@[simp] theorem State.setStation_inval (n : Nat) (v : Station) : (s.setStation n v).inval = s.inval := rfl
@[simp] theorem State.setStation_invalQ (n : Nat) (v : Station) : (s.setStation n v).invalQ = s.invalQ := rfl
@[simp] theorem State.setStation_groups (n : Nat) (v : Station) : (s.setStation n v).groups = s.groups := rfl
@[simp] theorem State.setStation_regs (n : Nat) (v : Station) : (s.setStation n v).regs = s.regs := rfl
@[simp] theorem State.setStation_released (n : Nat) (v : Station) : (s.setStation n v).released = s.released := rfl
@[simp] theorem State.setStation_fillNo (n : Nat) (v : Station) : (s.setStation n v).fillNo = s.fillNo := rfl
@[simp] theorem State.setStation_light (n : Nat) (v : Station) : (s.setStation n v).light = s.light := rfl
@[simp] theorem State.setStation_tiles (n : Nat) (v : Station) : (s.setStation n v).tiles = s.tiles := rfl
@[simp] theorem State.setStation_portSts (n : Nat) (v : Station) : (s.setStation n v).portSts = s.portSts := rfl
@[simp] theorem State.setStation_routers (n : Nat) (v : Station) : (s.setStation n v).routers = s.routers := rfl
@[simp] theorem State.setStation_services (n : Nat) (v : Station) : (s.setStation n v).services = s.services := rfl
@[simp] theorem State.setStation_launches (n : Nat) (v : Station) : (s.setStation n v).launches = s.launches := rfl
@[simp] theorem State.setStation_regions (n : Nat) (v : Station) : (s.setStation n v).regions = s.regions := rfl
@[simp] theorem State.setStation_bands (n : Nat) (v : Station) : (s.setStation n v).bands = s.bands := rfl
@[simp] theorem State.setStation_nextId (n : Nat) (v : Station) : (s.setStation n v).nextId = s.nextId := rfl
@[simp] theorem State.setStation_handlers (n : Nat) (v : Station) : (s.setStation n v).handlers = s.handlers := rfl
@[simp] theorem State.setStation_removals (n : Nat) (v : Station) : (s.setStation n v).removals = s.removals := rfl
@[simp] theorem State.setStation_images (n : Nat) (v : Station) : (s.setStation n v).images = s.images := rfl
@[simp] theorem State.setStation_arrErr (n : Nat) (v : Station) : (s.setStation n v).arrErr = s.arrErr := rfl
@[simp] theorem State.setStation_busErr (n : Nat) (v : Station) : (s.setStation n v).busErr = s.busErr := rfl
@[simp] theorem State.setStation_laneErr (n : Nat) (v : Station) : (s.setStation n v).laneErr = s.laneErr := rfl
@[simp] theorem State.setStation_bad (n : Nat) (v : Station) : (s.setStation n v).bad = s.bad := rfl
@[simp] theorem State.setStation_flips (n : Nat) (v : Station) : (s.setStation n v).flips = s.flips := rfl
@[simp] theorem State.setStation_fixed (n : Nat) (v : Station) : (s.setStation n v).fixed = s.fixed := rfl
@[simp] theorem State.setStation_temps (n : Nat) (v : Station) : (s.setStation n v).temps = s.temps := rfl
@[simp] theorem State.setStation_hot (n : Nat) (v : Station) : (s.setStation n v).hot = s.hot := rfl
@[simp] theorem State.setStation_appeals (n : Nat) (v : Station) : (s.setStation n v).appeals = s.appeals := rfl
@[simp] theorem State.setStation_herdOut (n : Nat) (v : Station) : (s.setStation n v).herdOut = s.herdOut := rfl
@[simp] theorem State.setStation_pcieOut (n : Nat) (v : Station) : (s.setStation n v).pcieOut = s.pcieOut := rfl
@[simp] theorem State.setStation_log (n : Nat) (v : Station) : (s.setStation n v).log = s.log := rfl
@[simp] theorem State.setStation_mgmtOut (n : Nat) (v : Station) : (s.setStation n v).mgmtOut = s.mgmtOut := rfl
@[simp] theorem State.setStation_flight (n : Nat) (v : Station) : (s.setStation n v).flight = s.flight := rfl
@[simp] theorem State.setStation_timers (n : Nat) (v : Station) : (s.setStation n v).timers = s.timers := rfl
@[simp] theorem State.setStation_inputs (n : Nat) (v : Station) : (s.setStation n v).inputs = s.inputs := rfl
@[simp] theorem State.setStation_free (n : Nat) (v : Station) : (s.setStation n v).free = s.free := rfl
@[simp] theorem State.setStation_cur (n : Nat) (v : Station) : (s.setStation n v).cur = s.cur := rfl
@[simp] theorem State.setStation_cursor (n : Nat) (v : Station) : (s.setStation n v).cursor = s.cursor := rfl

/-! ### setPortSt -/
@[simp] theorem State.setPortSt_time (p : Nat) (v : PortSt) : (s.setPortSt p v).time = s.time := rfl
@[simp] theorem State.setPortSt_tcycle (p : Nat) (v : PortSt) : (s.setPortSt p v).tcycle = s.tcycle := rfl
@[simp] theorem State.setPortSt_mcycle (p : Nat) (v : PortSt) : (s.setPortSt p v).mcycle = s.mcycle := rfl
@[simp] theorem State.setPortSt_ticks (p : Nat) (v : PortSt) : (s.setPortSt p v).ticks = s.ticks := rfl
@[simp] theorem State.setPortSt_phase (p : Nat) (v : PortSt) : (s.setPortSt p v).phase = s.phase := rfl
@[simp] theorem State.setPortSt_module (p : Nat) (v : PortSt) : (s.setPortSt p v).module = s.module := rfl
@[simp] theorem State.setPortSt_members (p : Nat) (v : PortSt) : (s.setPortSt p v).members = s.members := rfl
@[simp] theorem State.setPortSt_snapTime (p : Nat) (v : PortSt) : (s.setPortSt p v).snapTime = s.snapTime := rfl
@[simp] theorem State.setPortSt_mem (p : Nat) (v : PortSt) : (s.setPortSt p v).mem = s.mem := rfl
@[simp] theorem State.setPortSt_fe (p : Nat) (v : PortSt) : (s.setPortSt p v).fe = s.fe := rfl
@[simp] theorem State.setPortSt_slotMem (p : Nat) (v : PortSt) : (s.setPortSt p v).slotMem = s.slotMem := rfl
@[simp] theorem State.setPortSt_acc (p : Nat) (v : PortSt) : (s.setPortSt p v).acc = s.acc := rfl
@[simp] theorem State.setPortSt_hostMem (p : Nat) (v : PortSt) : (s.setPortSt p v).hostMem = s.hostMem := rfl
@[simp] theorem State.setPortSt_msix (p : Nat) (v : PortSt) : (s.setPortSt p v).msix = s.msix := rfl
@[simp] theorem State.setPortSt_remap (p : Nat) (v : PortSt) : (s.setPortSt p v).remap = s.remap := rfl
@[simp] theorem State.setPortSt_buckets (p : Nat) (v : PortSt) : (s.setPortSt p v).buckets = s.buckets := rfl
@[simp] theorem State.setPortSt_move (p : Nat) (v : PortSt) : (s.setPortSt p v).move = s.move := rfl
@[simp] theorem State.setPortSt_bcount (p : Nat) (v : PortSt) : (s.setPortSt p v).bcount = s.bcount := rfl
@[simp] theorem State.setPortSt_bmoved (p : Nat) (v : PortSt) : (s.setPortSt p v).bmoved = s.bmoved := rfl
@[simp] theorem State.setPortSt_epoch (p : Nat) (v : PortSt) : (s.setPortSt p v).epoch = s.epoch := rfl
@[simp] theorem State.setPortSt_lines (p : Nat) (v : PortSt) : (s.setPortSt p v).lines = s.lines := rfl
@[simp] theorem State.setPortSt_owned (p : Nat) (v : PortSt) : (s.setPortSt p v).owned = s.owned := rfl
@[simp] theorem State.setPortSt_gone (p : Nat) (v : PortSt) : (s.setPortSt p v).gone = s.gone := rfl
@[simp] theorem State.setPortSt_inval (p : Nat) (v : PortSt) : (s.setPortSt p v).inval = s.inval := rfl
@[simp] theorem State.setPortSt_invalQ (p : Nat) (v : PortSt) : (s.setPortSt p v).invalQ = s.invalQ := rfl
@[simp] theorem State.setPortSt_groups (p : Nat) (v : PortSt) : (s.setPortSt p v).groups = s.groups := rfl
@[simp] theorem State.setPortSt_regs (p : Nat) (v : PortSt) : (s.setPortSt p v).regs = s.regs := rfl
@[simp] theorem State.setPortSt_released (p : Nat) (v : PortSt) : (s.setPortSt p v).released = s.released := rfl
@[simp] theorem State.setPortSt_fillNo (p : Nat) (v : PortSt) : (s.setPortSt p v).fillNo = s.fillNo := rfl
@[simp] theorem State.setPortSt_light (p : Nat) (v : PortSt) : (s.setPortSt p v).light = s.light := rfl
@[simp] theorem State.setPortSt_tiles (p : Nat) (v : PortSt) : (s.setPortSt p v).tiles = s.tiles := rfl
@[simp] theorem State.setPortSt_stations (p : Nat) (v : PortSt) : (s.setPortSt p v).stations = s.stations := rfl
@[simp] theorem State.setPortSt_routers (p : Nat) (v : PortSt) : (s.setPortSt p v).routers = s.routers := rfl
@[simp] theorem State.setPortSt_services (p : Nat) (v : PortSt) : (s.setPortSt p v).services = s.services := rfl
@[simp] theorem State.setPortSt_launches (p : Nat) (v : PortSt) : (s.setPortSt p v).launches = s.launches := rfl
@[simp] theorem State.setPortSt_regions (p : Nat) (v : PortSt) : (s.setPortSt p v).regions = s.regions := rfl
@[simp] theorem State.setPortSt_bands (p : Nat) (v : PortSt) : (s.setPortSt p v).bands = s.bands := rfl
@[simp] theorem State.setPortSt_nextId (p : Nat) (v : PortSt) : (s.setPortSt p v).nextId = s.nextId := rfl
@[simp] theorem State.setPortSt_handlers (p : Nat) (v : PortSt) : (s.setPortSt p v).handlers = s.handlers := rfl
@[simp] theorem State.setPortSt_removals (p : Nat) (v : PortSt) : (s.setPortSt p v).removals = s.removals := rfl
@[simp] theorem State.setPortSt_images (p : Nat) (v : PortSt) : (s.setPortSt p v).images = s.images := rfl
@[simp] theorem State.setPortSt_arrErr (p : Nat) (v : PortSt) : (s.setPortSt p v).arrErr = s.arrErr := rfl
@[simp] theorem State.setPortSt_busErr (p : Nat) (v : PortSt) : (s.setPortSt p v).busErr = s.busErr := rfl
@[simp] theorem State.setPortSt_laneErr (p : Nat) (v : PortSt) : (s.setPortSt p v).laneErr = s.laneErr := rfl
@[simp] theorem State.setPortSt_bad (p : Nat) (v : PortSt) : (s.setPortSt p v).bad = s.bad := rfl
@[simp] theorem State.setPortSt_flips (p : Nat) (v : PortSt) : (s.setPortSt p v).flips = s.flips := rfl
@[simp] theorem State.setPortSt_fixed (p : Nat) (v : PortSt) : (s.setPortSt p v).fixed = s.fixed := rfl
@[simp] theorem State.setPortSt_temps (p : Nat) (v : PortSt) : (s.setPortSt p v).temps = s.temps := rfl
@[simp] theorem State.setPortSt_hot (p : Nat) (v : PortSt) : (s.setPortSt p v).hot = s.hot := rfl
@[simp] theorem State.setPortSt_appeals (p : Nat) (v : PortSt) : (s.setPortSt p v).appeals = s.appeals := rfl
@[simp] theorem State.setPortSt_herdOut (p : Nat) (v : PortSt) : (s.setPortSt p v).herdOut = s.herdOut := rfl
@[simp] theorem State.setPortSt_pcieOut (p : Nat) (v : PortSt) : (s.setPortSt p v).pcieOut = s.pcieOut := rfl
@[simp] theorem State.setPortSt_log (p : Nat) (v : PortSt) : (s.setPortSt p v).log = s.log := rfl
@[simp] theorem State.setPortSt_mgmtOut (p : Nat) (v : PortSt) : (s.setPortSt p v).mgmtOut = s.mgmtOut := rfl
@[simp] theorem State.setPortSt_flight (p : Nat) (v : PortSt) : (s.setPortSt p v).flight = s.flight := rfl
@[simp] theorem State.setPortSt_timers (p : Nat) (v : PortSt) : (s.setPortSt p v).timers = s.timers := rfl
@[simp] theorem State.setPortSt_inputs (p : Nat) (v : PortSt) : (s.setPortSt p v).inputs = s.inputs := rfl
@[simp] theorem State.setPortSt_free (p : Nat) (v : PortSt) : (s.setPortSt p v).free = s.free := rfl
@[simp] theorem State.setPortSt_cur (p : Nat) (v : PortSt) : (s.setPortSt p v).cur = s.cur := rfl
@[simp] theorem State.setPortSt_cursor (p : Nat) (v : PortSt) : (s.setPortSt p v).cursor = s.cursor := rfl

/-! ### setRouter -/
@[simp] theorem State.setRouter_time (r : Nat) (v : Router) : (s.setRouter r v).time = s.time := rfl
@[simp] theorem State.setRouter_tcycle (r : Nat) (v : Router) : (s.setRouter r v).tcycle = s.tcycle := rfl
@[simp] theorem State.setRouter_mcycle (r : Nat) (v : Router) : (s.setRouter r v).mcycle = s.mcycle := rfl
@[simp] theorem State.setRouter_ticks (r : Nat) (v : Router) : (s.setRouter r v).ticks = s.ticks := rfl
@[simp] theorem State.setRouter_phase (r : Nat) (v : Router) : (s.setRouter r v).phase = s.phase := rfl
@[simp] theorem State.setRouter_module (r : Nat) (v : Router) : (s.setRouter r v).module = s.module := rfl
@[simp] theorem State.setRouter_members (r : Nat) (v : Router) : (s.setRouter r v).members = s.members := rfl
@[simp] theorem State.setRouter_snapTime (r : Nat) (v : Router) : (s.setRouter r v).snapTime = s.snapTime := rfl
@[simp] theorem State.setRouter_mem (r : Nat) (v : Router) : (s.setRouter r v).mem = s.mem := rfl
@[simp] theorem State.setRouter_fe (r : Nat) (v : Router) : (s.setRouter r v).fe = s.fe := rfl
@[simp] theorem State.setRouter_slotMem (r : Nat) (v : Router) : (s.setRouter r v).slotMem = s.slotMem := rfl
@[simp] theorem State.setRouter_acc (r : Nat) (v : Router) : (s.setRouter r v).acc = s.acc := rfl
@[simp] theorem State.setRouter_hostMem (r : Nat) (v : Router) : (s.setRouter r v).hostMem = s.hostMem := rfl
@[simp] theorem State.setRouter_msix (r : Nat) (v : Router) : (s.setRouter r v).msix = s.msix := rfl
@[simp] theorem State.setRouter_remap (r : Nat) (v : Router) : (s.setRouter r v).remap = s.remap := rfl
@[simp] theorem State.setRouter_buckets (r : Nat) (v : Router) : (s.setRouter r v).buckets = s.buckets := rfl
@[simp] theorem State.setRouter_move (r : Nat) (v : Router) : (s.setRouter r v).move = s.move := rfl
@[simp] theorem State.setRouter_bcount (r : Nat) (v : Router) : (s.setRouter r v).bcount = s.bcount := rfl
@[simp] theorem State.setRouter_bmoved (r : Nat) (v : Router) : (s.setRouter r v).bmoved = s.bmoved := rfl
@[simp] theorem State.setRouter_epoch (r : Nat) (v : Router) : (s.setRouter r v).epoch = s.epoch := rfl
@[simp] theorem State.setRouter_lines (r : Nat) (v : Router) : (s.setRouter r v).lines = s.lines := rfl
@[simp] theorem State.setRouter_owned (r : Nat) (v : Router) : (s.setRouter r v).owned = s.owned := rfl
@[simp] theorem State.setRouter_gone (r : Nat) (v : Router) : (s.setRouter r v).gone = s.gone := rfl
@[simp] theorem State.setRouter_inval (r : Nat) (v : Router) : (s.setRouter r v).inval = s.inval := rfl
@[simp] theorem State.setRouter_invalQ (r : Nat) (v : Router) : (s.setRouter r v).invalQ = s.invalQ := rfl
@[simp] theorem State.setRouter_groups (r : Nat) (v : Router) : (s.setRouter r v).groups = s.groups := rfl
@[simp] theorem State.setRouter_regs (r : Nat) (v : Router) : (s.setRouter r v).regs = s.regs := rfl
@[simp] theorem State.setRouter_released (r : Nat) (v : Router) : (s.setRouter r v).released = s.released := rfl
@[simp] theorem State.setRouter_fillNo (r : Nat) (v : Router) : (s.setRouter r v).fillNo = s.fillNo := rfl
@[simp] theorem State.setRouter_light (r : Nat) (v : Router) : (s.setRouter r v).light = s.light := rfl
@[simp] theorem State.setRouter_tiles (r : Nat) (v : Router) : (s.setRouter r v).tiles = s.tiles := rfl
@[simp] theorem State.setRouter_stations (r : Nat) (v : Router) : (s.setRouter r v).stations = s.stations := rfl
@[simp] theorem State.setRouter_portSts (r : Nat) (v : Router) : (s.setRouter r v).portSts = s.portSts := rfl
@[simp] theorem State.setRouter_services (r : Nat) (v : Router) : (s.setRouter r v).services = s.services := rfl
@[simp] theorem State.setRouter_launches (r : Nat) (v : Router) : (s.setRouter r v).launches = s.launches := rfl
@[simp] theorem State.setRouter_regions (r : Nat) (v : Router) : (s.setRouter r v).regions = s.regions := rfl
@[simp] theorem State.setRouter_bands (r : Nat) (v : Router) : (s.setRouter r v).bands = s.bands := rfl
@[simp] theorem State.setRouter_nextId (r : Nat) (v : Router) : (s.setRouter r v).nextId = s.nextId := rfl
@[simp] theorem State.setRouter_handlers (r : Nat) (v : Router) : (s.setRouter r v).handlers = s.handlers := rfl
@[simp] theorem State.setRouter_removals (r : Nat) (v : Router) : (s.setRouter r v).removals = s.removals := rfl
@[simp] theorem State.setRouter_images (r : Nat) (v : Router) : (s.setRouter r v).images = s.images := rfl
@[simp] theorem State.setRouter_arrErr (r : Nat) (v : Router) : (s.setRouter r v).arrErr = s.arrErr := rfl
@[simp] theorem State.setRouter_busErr (r : Nat) (v : Router) : (s.setRouter r v).busErr = s.busErr := rfl
@[simp] theorem State.setRouter_laneErr (r : Nat) (v : Router) : (s.setRouter r v).laneErr = s.laneErr := rfl
@[simp] theorem State.setRouter_bad (r : Nat) (v : Router) : (s.setRouter r v).bad = s.bad := rfl
@[simp] theorem State.setRouter_flips (r : Nat) (v : Router) : (s.setRouter r v).flips = s.flips := rfl
@[simp] theorem State.setRouter_fixed (r : Nat) (v : Router) : (s.setRouter r v).fixed = s.fixed := rfl
@[simp] theorem State.setRouter_temps (r : Nat) (v : Router) : (s.setRouter r v).temps = s.temps := rfl
@[simp] theorem State.setRouter_hot (r : Nat) (v : Router) : (s.setRouter r v).hot = s.hot := rfl
@[simp] theorem State.setRouter_appeals (r : Nat) (v : Router) : (s.setRouter r v).appeals = s.appeals := rfl
@[simp] theorem State.setRouter_herdOut (r : Nat) (v : Router) : (s.setRouter r v).herdOut = s.herdOut := rfl
@[simp] theorem State.setRouter_pcieOut (r : Nat) (v : Router) : (s.setRouter r v).pcieOut = s.pcieOut := rfl
@[simp] theorem State.setRouter_log (r : Nat) (v : Router) : (s.setRouter r v).log = s.log := rfl
@[simp] theorem State.setRouter_mgmtOut (r : Nat) (v : Router) : (s.setRouter r v).mgmtOut = s.mgmtOut := rfl
@[simp] theorem State.setRouter_flight (r : Nat) (v : Router) : (s.setRouter r v).flight = s.flight := rfl
@[simp] theorem State.setRouter_timers (r : Nat) (v : Router) : (s.setRouter r v).timers = s.timers := rfl
@[simp] theorem State.setRouter_inputs (r : Nat) (v : Router) : (s.setRouter r v).inputs = s.inputs := rfl
@[simp] theorem State.setRouter_free (r : Nat) (v : Router) : (s.setRouter r v).free = s.free := rfl
@[simp] theorem State.setRouter_cur (r : Nat) (v : Router) : (s.setRouter r v).cur = s.cur := rfl
@[simp] theorem State.setRouter_cursor (r : Nat) (v : Router) : (s.setRouter r v).cursor = s.cursor := rfl

/-! ### setService -/
@[simp] theorem State.setService_time (k : Nat) (v : Service) : (s.setService k v).time = s.time := rfl
@[simp] theorem State.setService_tcycle (k : Nat) (v : Service) : (s.setService k v).tcycle = s.tcycle := rfl
@[simp] theorem State.setService_mcycle (k : Nat) (v : Service) : (s.setService k v).mcycle = s.mcycle := rfl
@[simp] theorem State.setService_ticks (k : Nat) (v : Service) : (s.setService k v).ticks = s.ticks := rfl
@[simp] theorem State.setService_phase (k : Nat) (v : Service) : (s.setService k v).phase = s.phase := rfl
@[simp] theorem State.setService_module (k : Nat) (v : Service) : (s.setService k v).module = s.module := rfl
@[simp] theorem State.setService_members (k : Nat) (v : Service) : (s.setService k v).members = s.members := rfl
@[simp] theorem State.setService_snapTime (k : Nat) (v : Service) : (s.setService k v).snapTime = s.snapTime := rfl
@[simp] theorem State.setService_mem (k : Nat) (v : Service) : (s.setService k v).mem = s.mem := rfl
@[simp] theorem State.setService_fe (k : Nat) (v : Service) : (s.setService k v).fe = s.fe := rfl
@[simp] theorem State.setService_slotMem (k : Nat) (v : Service) : (s.setService k v).slotMem = s.slotMem := rfl
@[simp] theorem State.setService_acc (k : Nat) (v : Service) : (s.setService k v).acc = s.acc := rfl
@[simp] theorem State.setService_hostMem (k : Nat) (v : Service) : (s.setService k v).hostMem = s.hostMem := rfl
@[simp] theorem State.setService_msix (k : Nat) (v : Service) : (s.setService k v).msix = s.msix := rfl
@[simp] theorem State.setService_remap (k : Nat) (v : Service) : (s.setService k v).remap = s.remap := rfl
@[simp] theorem State.setService_buckets (k : Nat) (v : Service) : (s.setService k v).buckets = s.buckets := rfl
@[simp] theorem State.setService_move (k : Nat) (v : Service) : (s.setService k v).move = s.move := rfl
@[simp] theorem State.setService_bcount (k : Nat) (v : Service) : (s.setService k v).bcount = s.bcount := rfl
@[simp] theorem State.setService_bmoved (k : Nat) (v : Service) : (s.setService k v).bmoved = s.bmoved := rfl
@[simp] theorem State.setService_epoch (k : Nat) (v : Service) : (s.setService k v).epoch = s.epoch := rfl
@[simp] theorem State.setService_lines (k : Nat) (v : Service) : (s.setService k v).lines = s.lines := rfl
@[simp] theorem State.setService_owned (k : Nat) (v : Service) : (s.setService k v).owned = s.owned := rfl
@[simp] theorem State.setService_gone (k : Nat) (v : Service) : (s.setService k v).gone = s.gone := rfl
@[simp] theorem State.setService_inval (k : Nat) (v : Service) : (s.setService k v).inval = s.inval := rfl
@[simp] theorem State.setService_invalQ (k : Nat) (v : Service) : (s.setService k v).invalQ = s.invalQ := rfl
@[simp] theorem State.setService_groups (k : Nat) (v : Service) : (s.setService k v).groups = s.groups := rfl
@[simp] theorem State.setService_regs (k : Nat) (v : Service) : (s.setService k v).regs = s.regs := rfl
@[simp] theorem State.setService_released (k : Nat) (v : Service) : (s.setService k v).released = s.released := rfl
@[simp] theorem State.setService_fillNo (k : Nat) (v : Service) : (s.setService k v).fillNo = s.fillNo := rfl
@[simp] theorem State.setService_light (k : Nat) (v : Service) : (s.setService k v).light = s.light := rfl
@[simp] theorem State.setService_tiles (k : Nat) (v : Service) : (s.setService k v).tiles = s.tiles := rfl
@[simp] theorem State.setService_stations (k : Nat) (v : Service) : (s.setService k v).stations = s.stations := rfl
@[simp] theorem State.setService_portSts (k : Nat) (v : Service) : (s.setService k v).portSts = s.portSts := rfl
@[simp] theorem State.setService_routers (k : Nat) (v : Service) : (s.setService k v).routers = s.routers := rfl
@[simp] theorem State.setService_launches (k : Nat) (v : Service) : (s.setService k v).launches = s.launches := rfl
@[simp] theorem State.setService_regions (k : Nat) (v : Service) : (s.setService k v).regions = s.regions := rfl
@[simp] theorem State.setService_bands (k : Nat) (v : Service) : (s.setService k v).bands = s.bands := rfl
@[simp] theorem State.setService_nextId (k : Nat) (v : Service) : (s.setService k v).nextId = s.nextId := rfl
@[simp] theorem State.setService_handlers (k : Nat) (v : Service) : (s.setService k v).handlers = s.handlers := rfl
@[simp] theorem State.setService_removals (k : Nat) (v : Service) : (s.setService k v).removals = s.removals := rfl
@[simp] theorem State.setService_images (k : Nat) (v : Service) : (s.setService k v).images = s.images := rfl
@[simp] theorem State.setService_arrErr (k : Nat) (v : Service) : (s.setService k v).arrErr = s.arrErr := rfl
@[simp] theorem State.setService_busErr (k : Nat) (v : Service) : (s.setService k v).busErr = s.busErr := rfl
@[simp] theorem State.setService_laneErr (k : Nat) (v : Service) : (s.setService k v).laneErr = s.laneErr := rfl
@[simp] theorem State.setService_bad (k : Nat) (v : Service) : (s.setService k v).bad = s.bad := rfl
@[simp] theorem State.setService_flips (k : Nat) (v : Service) : (s.setService k v).flips = s.flips := rfl
@[simp] theorem State.setService_fixed (k : Nat) (v : Service) : (s.setService k v).fixed = s.fixed := rfl
@[simp] theorem State.setService_temps (k : Nat) (v : Service) : (s.setService k v).temps = s.temps := rfl
@[simp] theorem State.setService_hot (k : Nat) (v : Service) : (s.setService k v).hot = s.hot := rfl
@[simp] theorem State.setService_appeals (k : Nat) (v : Service) : (s.setService k v).appeals = s.appeals := rfl
@[simp] theorem State.setService_herdOut (k : Nat) (v : Service) : (s.setService k v).herdOut = s.herdOut := rfl
@[simp] theorem State.setService_pcieOut (k : Nat) (v : Service) : (s.setService k v).pcieOut = s.pcieOut := rfl
@[simp] theorem State.setService_log (k : Nat) (v : Service) : (s.setService k v).log = s.log := rfl
@[simp] theorem State.setService_mgmtOut (k : Nat) (v : Service) : (s.setService k v).mgmtOut = s.mgmtOut := rfl
@[simp] theorem State.setService_flight (k : Nat) (v : Service) : (s.setService k v).flight = s.flight := rfl
@[simp] theorem State.setService_timers (k : Nat) (v : Service) : (s.setService k v).timers = s.timers := rfl
@[simp] theorem State.setService_inputs (k : Nat) (v : Service) : (s.setService k v).inputs = s.inputs := rfl
@[simp] theorem State.setService_free (k : Nat) (v : Service) : (s.setService k v).free = s.free := rfl
@[simp] theorem State.setService_cur (k : Nat) (v : Service) : (s.setService k v).cur = s.cur := rfl
@[simp] theorem State.setService_cursor (k : Nat) (v : Service) : (s.setService k v).cursor = s.cursor := rfl

/-! ### setLaunch -/
@[simp] theorem State.setLaunch_time (l : Nat) (v : Option Launch) : (s.setLaunch l v).time = s.time := rfl
@[simp] theorem State.setLaunch_tcycle (l : Nat) (v : Option Launch) : (s.setLaunch l v).tcycle = s.tcycle := rfl
@[simp] theorem State.setLaunch_mcycle (l : Nat) (v : Option Launch) : (s.setLaunch l v).mcycle = s.mcycle := rfl
@[simp] theorem State.setLaunch_ticks (l : Nat) (v : Option Launch) : (s.setLaunch l v).ticks = s.ticks := rfl
@[simp] theorem State.setLaunch_phase (l : Nat) (v : Option Launch) : (s.setLaunch l v).phase = s.phase := rfl
@[simp] theorem State.setLaunch_module (l : Nat) (v : Option Launch) : (s.setLaunch l v).module = s.module := rfl
@[simp] theorem State.setLaunch_members (l : Nat) (v : Option Launch) : (s.setLaunch l v).members = s.members := rfl
@[simp] theorem State.setLaunch_snapTime (l : Nat) (v : Option Launch) : (s.setLaunch l v).snapTime = s.snapTime := rfl
@[simp] theorem State.setLaunch_mem (l : Nat) (v : Option Launch) : (s.setLaunch l v).mem = s.mem := rfl
@[simp] theorem State.setLaunch_fe (l : Nat) (v : Option Launch) : (s.setLaunch l v).fe = s.fe := rfl
@[simp] theorem State.setLaunch_slotMem (l : Nat) (v : Option Launch) : (s.setLaunch l v).slotMem = s.slotMem := rfl
@[simp] theorem State.setLaunch_acc (l : Nat) (v : Option Launch) : (s.setLaunch l v).acc = s.acc := rfl
@[simp] theorem State.setLaunch_hostMem (l : Nat) (v : Option Launch) : (s.setLaunch l v).hostMem = s.hostMem := rfl
@[simp] theorem State.setLaunch_msix (l : Nat) (v : Option Launch) : (s.setLaunch l v).msix = s.msix := rfl
@[simp] theorem State.setLaunch_remap (l : Nat) (v : Option Launch) : (s.setLaunch l v).remap = s.remap := rfl
@[simp] theorem State.setLaunch_buckets (l : Nat) (v : Option Launch) : (s.setLaunch l v).buckets = s.buckets := rfl
@[simp] theorem State.setLaunch_move (l : Nat) (v : Option Launch) : (s.setLaunch l v).move = s.move := rfl
@[simp] theorem State.setLaunch_bcount (l : Nat) (v : Option Launch) : (s.setLaunch l v).bcount = s.bcount := rfl
@[simp] theorem State.setLaunch_bmoved (l : Nat) (v : Option Launch) : (s.setLaunch l v).bmoved = s.bmoved := rfl
@[simp] theorem State.setLaunch_epoch (l : Nat) (v : Option Launch) : (s.setLaunch l v).epoch = s.epoch := rfl
@[simp] theorem State.setLaunch_lines (l : Nat) (v : Option Launch) : (s.setLaunch l v).lines = s.lines := rfl
@[simp] theorem State.setLaunch_owned (l : Nat) (v : Option Launch) : (s.setLaunch l v).owned = s.owned := rfl
@[simp] theorem State.setLaunch_gone (l : Nat) (v : Option Launch) : (s.setLaunch l v).gone = s.gone := rfl
@[simp] theorem State.setLaunch_inval (l : Nat) (v : Option Launch) : (s.setLaunch l v).inval = s.inval := rfl
@[simp] theorem State.setLaunch_invalQ (l : Nat) (v : Option Launch) : (s.setLaunch l v).invalQ = s.invalQ := rfl
@[simp] theorem State.setLaunch_groups (l : Nat) (v : Option Launch) : (s.setLaunch l v).groups = s.groups := rfl
@[simp] theorem State.setLaunch_regs (l : Nat) (v : Option Launch) : (s.setLaunch l v).regs = s.regs := rfl
@[simp] theorem State.setLaunch_released (l : Nat) (v : Option Launch) : (s.setLaunch l v).released = s.released := rfl
@[simp] theorem State.setLaunch_fillNo (l : Nat) (v : Option Launch) : (s.setLaunch l v).fillNo = s.fillNo := rfl
@[simp] theorem State.setLaunch_light (l : Nat) (v : Option Launch) : (s.setLaunch l v).light = s.light := rfl
@[simp] theorem State.setLaunch_tiles (l : Nat) (v : Option Launch) : (s.setLaunch l v).tiles = s.tiles := rfl
@[simp] theorem State.setLaunch_stations (l : Nat) (v : Option Launch) : (s.setLaunch l v).stations = s.stations := rfl
@[simp] theorem State.setLaunch_portSts (l : Nat) (v : Option Launch) : (s.setLaunch l v).portSts = s.portSts := rfl
@[simp] theorem State.setLaunch_routers (l : Nat) (v : Option Launch) : (s.setLaunch l v).routers = s.routers := rfl
@[simp] theorem State.setLaunch_services (l : Nat) (v : Option Launch) : (s.setLaunch l v).services = s.services := rfl
@[simp] theorem State.setLaunch_regions (l : Nat) (v : Option Launch) : (s.setLaunch l v).regions = s.regions := rfl
@[simp] theorem State.setLaunch_bands (l : Nat) (v : Option Launch) : (s.setLaunch l v).bands = s.bands := rfl
@[simp] theorem State.setLaunch_nextId (l : Nat) (v : Option Launch) : (s.setLaunch l v).nextId = s.nextId := rfl
@[simp] theorem State.setLaunch_handlers (l : Nat) (v : Option Launch) : (s.setLaunch l v).handlers = s.handlers := rfl
@[simp] theorem State.setLaunch_removals (l : Nat) (v : Option Launch) : (s.setLaunch l v).removals = s.removals := rfl
@[simp] theorem State.setLaunch_images (l : Nat) (v : Option Launch) : (s.setLaunch l v).images = s.images := rfl
@[simp] theorem State.setLaunch_arrErr (l : Nat) (v : Option Launch) : (s.setLaunch l v).arrErr = s.arrErr := rfl
@[simp] theorem State.setLaunch_busErr (l : Nat) (v : Option Launch) : (s.setLaunch l v).busErr = s.busErr := rfl
@[simp] theorem State.setLaunch_laneErr (l : Nat) (v : Option Launch) : (s.setLaunch l v).laneErr = s.laneErr := rfl
@[simp] theorem State.setLaunch_bad (l : Nat) (v : Option Launch) : (s.setLaunch l v).bad = s.bad := rfl
@[simp] theorem State.setLaunch_flips (l : Nat) (v : Option Launch) : (s.setLaunch l v).flips = s.flips := rfl
@[simp] theorem State.setLaunch_fixed (l : Nat) (v : Option Launch) : (s.setLaunch l v).fixed = s.fixed := rfl
@[simp] theorem State.setLaunch_temps (l : Nat) (v : Option Launch) : (s.setLaunch l v).temps = s.temps := rfl
@[simp] theorem State.setLaunch_hot (l : Nat) (v : Option Launch) : (s.setLaunch l v).hot = s.hot := rfl
@[simp] theorem State.setLaunch_appeals (l : Nat) (v : Option Launch) : (s.setLaunch l v).appeals = s.appeals := rfl
@[simp] theorem State.setLaunch_herdOut (l : Nat) (v : Option Launch) : (s.setLaunch l v).herdOut = s.herdOut := rfl
@[simp] theorem State.setLaunch_pcieOut (l : Nat) (v : Option Launch) : (s.setLaunch l v).pcieOut = s.pcieOut := rfl
@[simp] theorem State.setLaunch_log (l : Nat) (v : Option Launch) : (s.setLaunch l v).log = s.log := rfl
@[simp] theorem State.setLaunch_mgmtOut (l : Nat) (v : Option Launch) : (s.setLaunch l v).mgmtOut = s.mgmtOut := rfl
@[simp] theorem State.setLaunch_flight (l : Nat) (v : Option Launch) : (s.setLaunch l v).flight = s.flight := rfl
@[simp] theorem State.setLaunch_timers (l : Nat) (v : Option Launch) : (s.setLaunch l v).timers = s.timers := rfl
@[simp] theorem State.setLaunch_inputs (l : Nat) (v : Option Launch) : (s.setLaunch l v).inputs = s.inputs := rfl
@[simp] theorem State.setLaunch_free (l : Nat) (v : Option Launch) : (s.setLaunch l v).free = s.free := rfl
@[simp] theorem State.setLaunch_cur (l : Nat) (v : Option Launch) : (s.setLaunch l v).cur = s.cur := rfl
@[simp] theorem State.setLaunch_cursor (l : Nat) (v : Option Launch) : (s.setLaunch l v).cursor = s.cursor := rfl

/-! ### setRegion -/
@[simp] theorem State.setRegion_time (r : Nat) (v : Option Region) : (s.setRegion r v).time = s.time := rfl
@[simp] theorem State.setRegion_tcycle (r : Nat) (v : Option Region) : (s.setRegion r v).tcycle = s.tcycle := rfl
@[simp] theorem State.setRegion_mcycle (r : Nat) (v : Option Region) : (s.setRegion r v).mcycle = s.mcycle := rfl
@[simp] theorem State.setRegion_ticks (r : Nat) (v : Option Region) : (s.setRegion r v).ticks = s.ticks := rfl
@[simp] theorem State.setRegion_phase (r : Nat) (v : Option Region) : (s.setRegion r v).phase = s.phase := rfl
@[simp] theorem State.setRegion_module (r : Nat) (v : Option Region) : (s.setRegion r v).module = s.module := rfl
@[simp] theorem State.setRegion_members (r : Nat) (v : Option Region) : (s.setRegion r v).members = s.members := rfl
@[simp] theorem State.setRegion_snapTime (r : Nat) (v : Option Region) : (s.setRegion r v).snapTime = s.snapTime := rfl
@[simp] theorem State.setRegion_mem (r : Nat) (v : Option Region) : (s.setRegion r v).mem = s.mem := rfl
@[simp] theorem State.setRegion_fe (r : Nat) (v : Option Region) : (s.setRegion r v).fe = s.fe := rfl
@[simp] theorem State.setRegion_slotMem (r : Nat) (v : Option Region) : (s.setRegion r v).slotMem = s.slotMem := rfl
@[simp] theorem State.setRegion_acc (r : Nat) (v : Option Region) : (s.setRegion r v).acc = s.acc := rfl
@[simp] theorem State.setRegion_hostMem (r : Nat) (v : Option Region) : (s.setRegion r v).hostMem = s.hostMem := rfl
@[simp] theorem State.setRegion_msix (r : Nat) (v : Option Region) : (s.setRegion r v).msix = s.msix := rfl
@[simp] theorem State.setRegion_remap (r : Nat) (v : Option Region) : (s.setRegion r v).remap = s.remap := rfl
@[simp] theorem State.setRegion_buckets (r : Nat) (v : Option Region) : (s.setRegion r v).buckets = s.buckets := rfl
@[simp] theorem State.setRegion_move (r : Nat) (v : Option Region) : (s.setRegion r v).move = s.move := rfl
@[simp] theorem State.setRegion_bcount (r : Nat) (v : Option Region) : (s.setRegion r v).bcount = s.bcount := rfl
@[simp] theorem State.setRegion_bmoved (r : Nat) (v : Option Region) : (s.setRegion r v).bmoved = s.bmoved := rfl
@[simp] theorem State.setRegion_epoch (r : Nat) (v : Option Region) : (s.setRegion r v).epoch = s.epoch := rfl
@[simp] theorem State.setRegion_lines (r : Nat) (v : Option Region) : (s.setRegion r v).lines = s.lines := rfl
@[simp] theorem State.setRegion_owned (r : Nat) (v : Option Region) : (s.setRegion r v).owned = s.owned := rfl
@[simp] theorem State.setRegion_gone (r : Nat) (v : Option Region) : (s.setRegion r v).gone = s.gone := rfl
@[simp] theorem State.setRegion_inval (r : Nat) (v : Option Region) : (s.setRegion r v).inval = s.inval := rfl
@[simp] theorem State.setRegion_invalQ (r : Nat) (v : Option Region) : (s.setRegion r v).invalQ = s.invalQ := rfl
@[simp] theorem State.setRegion_groups (r : Nat) (v : Option Region) : (s.setRegion r v).groups = s.groups := rfl
@[simp] theorem State.setRegion_regs (r : Nat) (v : Option Region) : (s.setRegion r v).regs = s.regs := rfl
@[simp] theorem State.setRegion_released (r : Nat) (v : Option Region) : (s.setRegion r v).released = s.released := rfl
@[simp] theorem State.setRegion_fillNo (r : Nat) (v : Option Region) : (s.setRegion r v).fillNo = s.fillNo := rfl
@[simp] theorem State.setRegion_light (r : Nat) (v : Option Region) : (s.setRegion r v).light = s.light := rfl
@[simp] theorem State.setRegion_tiles (r : Nat) (v : Option Region) : (s.setRegion r v).tiles = s.tiles := rfl
@[simp] theorem State.setRegion_stations (r : Nat) (v : Option Region) : (s.setRegion r v).stations = s.stations := rfl
@[simp] theorem State.setRegion_portSts (r : Nat) (v : Option Region) : (s.setRegion r v).portSts = s.portSts := rfl
@[simp] theorem State.setRegion_routers (r : Nat) (v : Option Region) : (s.setRegion r v).routers = s.routers := rfl
@[simp] theorem State.setRegion_services (r : Nat) (v : Option Region) : (s.setRegion r v).services = s.services := rfl
@[simp] theorem State.setRegion_launches (r : Nat) (v : Option Region) : (s.setRegion r v).launches = s.launches := rfl
@[simp] theorem State.setRegion_bands (r : Nat) (v : Option Region) : (s.setRegion r v).bands = s.bands := rfl
@[simp] theorem State.setRegion_nextId (r : Nat) (v : Option Region) : (s.setRegion r v).nextId = s.nextId := rfl
@[simp] theorem State.setRegion_handlers (r : Nat) (v : Option Region) : (s.setRegion r v).handlers = s.handlers := rfl
@[simp] theorem State.setRegion_removals (r : Nat) (v : Option Region) : (s.setRegion r v).removals = s.removals := rfl
@[simp] theorem State.setRegion_images (r : Nat) (v : Option Region) : (s.setRegion r v).images = s.images := rfl
@[simp] theorem State.setRegion_arrErr (r : Nat) (v : Option Region) : (s.setRegion r v).arrErr = s.arrErr := rfl
@[simp] theorem State.setRegion_busErr (r : Nat) (v : Option Region) : (s.setRegion r v).busErr = s.busErr := rfl
@[simp] theorem State.setRegion_laneErr (r : Nat) (v : Option Region) : (s.setRegion r v).laneErr = s.laneErr := rfl
@[simp] theorem State.setRegion_bad (r : Nat) (v : Option Region) : (s.setRegion r v).bad = s.bad := rfl
@[simp] theorem State.setRegion_flips (r : Nat) (v : Option Region) : (s.setRegion r v).flips = s.flips := rfl
@[simp] theorem State.setRegion_fixed (r : Nat) (v : Option Region) : (s.setRegion r v).fixed = s.fixed := rfl
@[simp] theorem State.setRegion_temps (r : Nat) (v : Option Region) : (s.setRegion r v).temps = s.temps := rfl
@[simp] theorem State.setRegion_hot (r : Nat) (v : Option Region) : (s.setRegion r v).hot = s.hot := rfl
@[simp] theorem State.setRegion_appeals (r : Nat) (v : Option Region) : (s.setRegion r v).appeals = s.appeals := rfl
@[simp] theorem State.setRegion_herdOut (r : Nat) (v : Option Region) : (s.setRegion r v).herdOut = s.herdOut := rfl
@[simp] theorem State.setRegion_pcieOut (r : Nat) (v : Option Region) : (s.setRegion r v).pcieOut = s.pcieOut := rfl
@[simp] theorem State.setRegion_log (r : Nat) (v : Option Region) : (s.setRegion r v).log = s.log := rfl
@[simp] theorem State.setRegion_mgmtOut (r : Nat) (v : Option Region) : (s.setRegion r v).mgmtOut = s.mgmtOut := rfl
@[simp] theorem State.setRegion_flight (r : Nat) (v : Option Region) : (s.setRegion r v).flight = s.flight := rfl
@[simp] theorem State.setRegion_timers (r : Nat) (v : Option Region) : (s.setRegion r v).timers = s.timers := rfl
@[simp] theorem State.setRegion_inputs (r : Nat) (v : Option Region) : (s.setRegion r v).inputs = s.inputs := rfl
@[simp] theorem State.setRegion_free (r : Nat) (v : Option Region) : (s.setRegion r v).free = s.free := rfl
@[simp] theorem State.setRegion_cur (r : Nat) (v : Option Region) : (s.setRegion r v).cur = s.cur := rfl
@[simp] theorem State.setRegion_cursor (r : Nat) (v : Option Region) : (s.setRegion r v).cursor = s.cursor := rfl

/-! ### setBand -/
@[simp] theorem State.setBand_time (b : Nat) (v : Option Band) : (s.setBand b v).time = s.time := rfl
@[simp] theorem State.setBand_tcycle (b : Nat) (v : Option Band) : (s.setBand b v).tcycle = s.tcycle := rfl
@[simp] theorem State.setBand_mcycle (b : Nat) (v : Option Band) : (s.setBand b v).mcycle = s.mcycle := rfl
@[simp] theorem State.setBand_ticks (b : Nat) (v : Option Band) : (s.setBand b v).ticks = s.ticks := rfl
@[simp] theorem State.setBand_phase (b : Nat) (v : Option Band) : (s.setBand b v).phase = s.phase := rfl
@[simp] theorem State.setBand_module (b : Nat) (v : Option Band) : (s.setBand b v).module = s.module := rfl
@[simp] theorem State.setBand_members (b : Nat) (v : Option Band) : (s.setBand b v).members = s.members := rfl
@[simp] theorem State.setBand_snapTime (b : Nat) (v : Option Band) : (s.setBand b v).snapTime = s.snapTime := rfl
@[simp] theorem State.setBand_mem (b : Nat) (v : Option Band) : (s.setBand b v).mem = s.mem := rfl
@[simp] theorem State.setBand_fe (b : Nat) (v : Option Band) : (s.setBand b v).fe = s.fe := rfl
@[simp] theorem State.setBand_slotMem (b : Nat) (v : Option Band) : (s.setBand b v).slotMem = s.slotMem := rfl
@[simp] theorem State.setBand_acc (b : Nat) (v : Option Band) : (s.setBand b v).acc = s.acc := rfl
@[simp] theorem State.setBand_hostMem (b : Nat) (v : Option Band) : (s.setBand b v).hostMem = s.hostMem := rfl
@[simp] theorem State.setBand_msix (b : Nat) (v : Option Band) : (s.setBand b v).msix = s.msix := rfl
@[simp] theorem State.setBand_remap (b : Nat) (v : Option Band) : (s.setBand b v).remap = s.remap := rfl
@[simp] theorem State.setBand_buckets (b : Nat) (v : Option Band) : (s.setBand b v).buckets = s.buckets := rfl
@[simp] theorem State.setBand_move (b : Nat) (v : Option Band) : (s.setBand b v).move = s.move := rfl
@[simp] theorem State.setBand_bcount (b : Nat) (v : Option Band) : (s.setBand b v).bcount = s.bcount := rfl
@[simp] theorem State.setBand_bmoved (b : Nat) (v : Option Band) : (s.setBand b v).bmoved = s.bmoved := rfl
@[simp] theorem State.setBand_epoch (b : Nat) (v : Option Band) : (s.setBand b v).epoch = s.epoch := rfl
@[simp] theorem State.setBand_lines (b : Nat) (v : Option Band) : (s.setBand b v).lines = s.lines := rfl
@[simp] theorem State.setBand_owned (b : Nat) (v : Option Band) : (s.setBand b v).owned = s.owned := rfl
@[simp] theorem State.setBand_gone (b : Nat) (v : Option Band) : (s.setBand b v).gone = s.gone := rfl
@[simp] theorem State.setBand_inval (b : Nat) (v : Option Band) : (s.setBand b v).inval = s.inval := rfl
@[simp] theorem State.setBand_invalQ (b : Nat) (v : Option Band) : (s.setBand b v).invalQ = s.invalQ := rfl
@[simp] theorem State.setBand_groups (b : Nat) (v : Option Band) : (s.setBand b v).groups = s.groups := rfl
@[simp] theorem State.setBand_regs (b : Nat) (v : Option Band) : (s.setBand b v).regs = s.regs := rfl
@[simp] theorem State.setBand_released (b : Nat) (v : Option Band) : (s.setBand b v).released = s.released := rfl
@[simp] theorem State.setBand_fillNo (b : Nat) (v : Option Band) : (s.setBand b v).fillNo = s.fillNo := rfl
@[simp] theorem State.setBand_light (b : Nat) (v : Option Band) : (s.setBand b v).light = s.light := rfl
@[simp] theorem State.setBand_tiles (b : Nat) (v : Option Band) : (s.setBand b v).tiles = s.tiles := rfl
@[simp] theorem State.setBand_stations (b : Nat) (v : Option Band) : (s.setBand b v).stations = s.stations := rfl
@[simp] theorem State.setBand_portSts (b : Nat) (v : Option Band) : (s.setBand b v).portSts = s.portSts := rfl
@[simp] theorem State.setBand_routers (b : Nat) (v : Option Band) : (s.setBand b v).routers = s.routers := rfl
@[simp] theorem State.setBand_services (b : Nat) (v : Option Band) : (s.setBand b v).services = s.services := rfl
@[simp] theorem State.setBand_launches (b : Nat) (v : Option Band) : (s.setBand b v).launches = s.launches := rfl
@[simp] theorem State.setBand_regions (b : Nat) (v : Option Band) : (s.setBand b v).regions = s.regions := rfl
@[simp] theorem State.setBand_nextId (b : Nat) (v : Option Band) : (s.setBand b v).nextId = s.nextId := rfl
@[simp] theorem State.setBand_handlers (b : Nat) (v : Option Band) : (s.setBand b v).handlers = s.handlers := rfl
@[simp] theorem State.setBand_removals (b : Nat) (v : Option Band) : (s.setBand b v).removals = s.removals := rfl
@[simp] theorem State.setBand_images (b : Nat) (v : Option Band) : (s.setBand b v).images = s.images := rfl
@[simp] theorem State.setBand_arrErr (b : Nat) (v : Option Band) : (s.setBand b v).arrErr = s.arrErr := rfl
@[simp] theorem State.setBand_busErr (b : Nat) (v : Option Band) : (s.setBand b v).busErr = s.busErr := rfl
@[simp] theorem State.setBand_laneErr (b : Nat) (v : Option Band) : (s.setBand b v).laneErr = s.laneErr := rfl
@[simp] theorem State.setBand_bad (b : Nat) (v : Option Band) : (s.setBand b v).bad = s.bad := rfl
@[simp] theorem State.setBand_flips (b : Nat) (v : Option Band) : (s.setBand b v).flips = s.flips := rfl
@[simp] theorem State.setBand_fixed (b : Nat) (v : Option Band) : (s.setBand b v).fixed = s.fixed := rfl
@[simp] theorem State.setBand_temps (b : Nat) (v : Option Band) : (s.setBand b v).temps = s.temps := rfl
@[simp] theorem State.setBand_hot (b : Nat) (v : Option Band) : (s.setBand b v).hot = s.hot := rfl
@[simp] theorem State.setBand_appeals (b : Nat) (v : Option Band) : (s.setBand b v).appeals = s.appeals := rfl
@[simp] theorem State.setBand_herdOut (b : Nat) (v : Option Band) : (s.setBand b v).herdOut = s.herdOut := rfl
@[simp] theorem State.setBand_pcieOut (b : Nat) (v : Option Band) : (s.setBand b v).pcieOut = s.pcieOut := rfl
@[simp] theorem State.setBand_log (b : Nat) (v : Option Band) : (s.setBand b v).log = s.log := rfl
@[simp] theorem State.setBand_mgmtOut (b : Nat) (v : Option Band) : (s.setBand b v).mgmtOut = s.mgmtOut := rfl
@[simp] theorem State.setBand_flight (b : Nat) (v : Option Band) : (s.setBand b v).flight = s.flight := rfl
@[simp] theorem State.setBand_timers (b : Nat) (v : Option Band) : (s.setBand b v).timers = s.timers := rfl
@[simp] theorem State.setBand_inputs (b : Nat) (v : Option Band) : (s.setBand b v).inputs = s.inputs := rfl
@[simp] theorem State.setBand_free (b : Nat) (v : Option Band) : (s.setBand b v).free = s.free := rfl
@[simp] theorem State.setBand_cur (b : Nat) (v : Option Band) : (s.setBand b v).cur = s.cur := rfl
@[simp] theorem State.setBand_cursor (b : Nat) (v : Option Band) : (s.setBand b v).cursor = s.cursor := rfl

/-! ### bump -/
@[simp] theorem State.bump_time : (s.bump).time = s.time := rfl
@[simp] theorem State.bump_tcycle : (s.bump).tcycle = s.tcycle := rfl
@[simp] theorem State.bump_mcycle : (s.bump).mcycle = s.mcycle := rfl
@[simp] theorem State.bump_ticks : (s.bump).ticks = s.ticks := rfl
@[simp] theorem State.bump_phase : (s.bump).phase = s.phase := rfl
@[simp] theorem State.bump_module : (s.bump).module = s.module := rfl
@[simp] theorem State.bump_members : (s.bump).members = s.members := rfl
@[simp] theorem State.bump_snapTime : (s.bump).snapTime = s.snapTime := rfl
@[simp] theorem State.bump_mem : (s.bump).mem = s.mem := rfl
@[simp] theorem State.bump_fe : (s.bump).fe = s.fe := rfl
@[simp] theorem State.bump_slotMem : (s.bump).slotMem = s.slotMem := rfl
@[simp] theorem State.bump_acc : (s.bump).acc = s.acc := rfl
@[simp] theorem State.bump_hostMem : (s.bump).hostMem = s.hostMem := rfl
@[simp] theorem State.bump_msix : (s.bump).msix = s.msix := rfl
@[simp] theorem State.bump_remap : (s.bump).remap = s.remap := rfl
@[simp] theorem State.bump_buckets : (s.bump).buckets = s.buckets := rfl
@[simp] theorem State.bump_move : (s.bump).move = s.move := rfl
@[simp] theorem State.bump_bcount : (s.bump).bcount = s.bcount := rfl
@[simp] theorem State.bump_bmoved : (s.bump).bmoved = s.bmoved := rfl
@[simp] theorem State.bump_epoch : (s.bump).epoch = s.epoch := rfl
@[simp] theorem State.bump_lines : (s.bump).lines = s.lines := rfl
@[simp] theorem State.bump_owned : (s.bump).owned = s.owned := rfl
@[simp] theorem State.bump_gone : (s.bump).gone = s.gone := rfl
@[simp] theorem State.bump_inval : (s.bump).inval = s.inval := rfl
@[simp] theorem State.bump_invalQ : (s.bump).invalQ = s.invalQ := rfl
@[simp] theorem State.bump_groups : (s.bump).groups = s.groups := rfl
@[simp] theorem State.bump_regs : (s.bump).regs = s.regs := rfl
@[simp] theorem State.bump_released : (s.bump).released = s.released := rfl
@[simp] theorem State.bump_fillNo : (s.bump).fillNo = s.fillNo := rfl
@[simp] theorem State.bump_light : (s.bump).light = s.light := rfl
@[simp] theorem State.bump_tiles : (s.bump).tiles = s.tiles := rfl
@[simp] theorem State.bump_stations : (s.bump).stations = s.stations := rfl
@[simp] theorem State.bump_portSts : (s.bump).portSts = s.portSts := rfl
@[simp] theorem State.bump_routers : (s.bump).routers = s.routers := rfl
@[simp] theorem State.bump_services : (s.bump).services = s.services := rfl
@[simp] theorem State.bump_launches : (s.bump).launches = s.launches := rfl
@[simp] theorem State.bump_regions : (s.bump).regions = s.regions := rfl
@[simp] theorem State.bump_bands : (s.bump).bands = s.bands := rfl
@[simp] theorem State.bump_nextId : (s.bump).nextId = s.nextId := rfl
@[simp] theorem State.bump_handlers : (s.bump).handlers = s.handlers := rfl
@[simp] theorem State.bump_removals : (s.bump).removals = s.removals := rfl
@[simp] theorem State.bump_images : (s.bump).images = s.images := rfl
@[simp] theorem State.bump_arrErr : (s.bump).arrErr = s.arrErr := rfl
@[simp] theorem State.bump_busErr : (s.bump).busErr = s.busErr := rfl
@[simp] theorem State.bump_laneErr : (s.bump).laneErr = s.laneErr := rfl
@[simp] theorem State.bump_bad : (s.bump).bad = s.bad := rfl
@[simp] theorem State.bump_flips : (s.bump).flips = s.flips := rfl
@[simp] theorem State.bump_fixed : (s.bump).fixed = s.fixed := rfl
@[simp] theorem State.bump_temps : (s.bump).temps = s.temps := rfl
@[simp] theorem State.bump_hot : (s.bump).hot = s.hot := rfl
@[simp] theorem State.bump_appeals : (s.bump).appeals = s.appeals := rfl
@[simp] theorem State.bump_herdOut : (s.bump).herdOut = s.herdOut := rfl
@[simp] theorem State.bump_pcieOut : (s.bump).pcieOut = s.pcieOut := rfl
@[simp] theorem State.bump_log : (s.bump).log = s.log := rfl
@[simp] theorem State.bump_mgmtOut : (s.bump).mgmtOut = s.mgmtOut := rfl
@[simp] theorem State.bump_flight : (s.bump).flight = s.flight := rfl
@[simp] theorem State.bump_timers : (s.bump).timers = s.timers := rfl
@[simp] theorem State.bump_inputs : (s.bump).inputs = s.inputs := rfl
@[simp] theorem State.bump_cur : (s.bump).cur = s.cur := rfl
@[simp] theorem State.bump_cursor : (s.bump).cursor = s.cursor := rfl

/-! ### post -/
@[simp] theorem State.post_time (i : Event) : (s.post i).time = s.time := rfl
@[simp] theorem State.post_tcycle (i : Event) : (s.post i).tcycle = s.tcycle := rfl
@[simp] theorem State.post_mcycle (i : Event) : (s.post i).mcycle = s.mcycle := rfl
@[simp] theorem State.post_ticks (i : Event) : (s.post i).ticks = s.ticks := rfl
@[simp] theorem State.post_phase (i : Event) : (s.post i).phase = s.phase := rfl
@[simp] theorem State.post_module (i : Event) : (s.post i).module = s.module := rfl
@[simp] theorem State.post_members (i : Event) : (s.post i).members = s.members := rfl
@[simp] theorem State.post_snapTime (i : Event) : (s.post i).snapTime = s.snapTime := rfl
@[simp] theorem State.post_mem (i : Event) : (s.post i).mem = s.mem := rfl
@[simp] theorem State.post_fe (i : Event) : (s.post i).fe = s.fe := rfl
@[simp] theorem State.post_slotMem (i : Event) : (s.post i).slotMem = s.slotMem := rfl
@[simp] theorem State.post_acc (i : Event) : (s.post i).acc = s.acc := rfl
@[simp] theorem State.post_hostMem (i : Event) : (s.post i).hostMem = s.hostMem := rfl
@[simp] theorem State.post_msix (i : Event) : (s.post i).msix = s.msix := rfl
@[simp] theorem State.post_remap (i : Event) : (s.post i).remap = s.remap := rfl
@[simp] theorem State.post_buckets (i : Event) : (s.post i).buckets = s.buckets := rfl
@[simp] theorem State.post_move (i : Event) : (s.post i).move = s.move := rfl
@[simp] theorem State.post_bcount (i : Event) : (s.post i).bcount = s.bcount := rfl
@[simp] theorem State.post_bmoved (i : Event) : (s.post i).bmoved = s.bmoved := rfl
@[simp] theorem State.post_epoch (i : Event) : (s.post i).epoch = s.epoch := rfl
@[simp] theorem State.post_lines (i : Event) : (s.post i).lines = s.lines := rfl
@[simp] theorem State.post_owned (i : Event) : (s.post i).owned = s.owned := rfl
@[simp] theorem State.post_gone (i : Event) : (s.post i).gone = s.gone := rfl
@[simp] theorem State.post_inval (i : Event) : (s.post i).inval = s.inval := rfl
@[simp] theorem State.post_invalQ (i : Event) : (s.post i).invalQ = s.invalQ := rfl
@[simp] theorem State.post_groups (i : Event) : (s.post i).groups = s.groups := rfl
@[simp] theorem State.post_regs (i : Event) : (s.post i).regs = s.regs := rfl
@[simp] theorem State.post_released (i : Event) : (s.post i).released = s.released := rfl
@[simp] theorem State.post_fillNo (i : Event) : (s.post i).fillNo = s.fillNo := rfl
@[simp] theorem State.post_light (i : Event) : (s.post i).light = s.light := rfl
@[simp] theorem State.post_tiles (i : Event) : (s.post i).tiles = s.tiles := rfl
@[simp] theorem State.post_stations (i : Event) : (s.post i).stations = s.stations := rfl
@[simp] theorem State.post_portSts (i : Event) : (s.post i).portSts = s.portSts := rfl
@[simp] theorem State.post_routers (i : Event) : (s.post i).routers = s.routers := rfl
@[simp] theorem State.post_services (i : Event) : (s.post i).services = s.services := rfl
@[simp] theorem State.post_launches (i : Event) : (s.post i).launches = s.launches := rfl
@[simp] theorem State.post_regions (i : Event) : (s.post i).regions = s.regions := rfl
@[simp] theorem State.post_bands (i : Event) : (s.post i).bands = s.bands := rfl
@[simp] theorem State.post_nextId (i : Event) : (s.post i).nextId = s.nextId := rfl
@[simp] theorem State.post_handlers (i : Event) : (s.post i).handlers = s.handlers := rfl
@[simp] theorem State.post_removals (i : Event) : (s.post i).removals = s.removals := rfl
@[simp] theorem State.post_images (i : Event) : (s.post i).images = s.images := rfl
@[simp] theorem State.post_arrErr (i : Event) : (s.post i).arrErr = s.arrErr := rfl
@[simp] theorem State.post_busErr (i : Event) : (s.post i).busErr = s.busErr := rfl
@[simp] theorem State.post_laneErr (i : Event) : (s.post i).laneErr = s.laneErr := rfl
@[simp] theorem State.post_bad (i : Event) : (s.post i).bad = s.bad := rfl
@[simp] theorem State.post_flips (i : Event) : (s.post i).flips = s.flips := rfl
@[simp] theorem State.post_fixed (i : Event) : (s.post i).fixed = s.fixed := rfl
@[simp] theorem State.post_temps (i : Event) : (s.post i).temps = s.temps := rfl
@[simp] theorem State.post_hot (i : Event) : (s.post i).hot = s.hot := rfl
@[simp] theorem State.post_appeals (i : Event) : (s.post i).appeals = s.appeals := rfl
@[simp] theorem State.post_herdOut (i : Event) : (s.post i).herdOut = s.herdOut := rfl
@[simp] theorem State.post_pcieOut (i : Event) : (s.post i).pcieOut = s.pcieOut := rfl
@[simp] theorem State.post_log (i : Event) : (s.post i).log = s.log := rfl
@[simp] theorem State.post_mgmtOut (i : Event) : (s.post i).mgmtOut = s.mgmtOut := rfl
@[simp] theorem State.post_timers (i : Event) : (s.post i).timers = s.timers := rfl
@[simp] theorem State.post_inputs (i : Event) : (s.post i).inputs = s.inputs := rfl
@[simp] theorem State.post_free (i : Event) : (s.post i).free = s.free := rfl
@[simp] theorem State.post_cur (i : Event) : (s.post i).cur = s.cur := rfl
@[simp] theorem State.post_cursor (i : Event) : (s.post i).cursor = s.cursor := rfl

/-! ### after -/
@[simp] theorem State.after_time (n : Nat) (i : Event) : (s.after n i).time = s.time := rfl
@[simp] theorem State.after_tcycle (n : Nat) (i : Event) : (s.after n i).tcycle = s.tcycle := rfl
@[simp] theorem State.after_mcycle (n : Nat) (i : Event) : (s.after n i).mcycle = s.mcycle := rfl
@[simp] theorem State.after_ticks (n : Nat) (i : Event) : (s.after n i).ticks = s.ticks := rfl
@[simp] theorem State.after_phase (n : Nat) (i : Event) : (s.after n i).phase = s.phase := rfl
@[simp] theorem State.after_module (n : Nat) (i : Event) : (s.after n i).module = s.module := rfl
@[simp] theorem State.after_members (n : Nat) (i : Event) : (s.after n i).members = s.members := rfl
@[simp] theorem State.after_snapTime (n : Nat) (i : Event) : (s.after n i).snapTime = s.snapTime := rfl
@[simp] theorem State.after_mem (n : Nat) (i : Event) : (s.after n i).mem = s.mem := rfl
@[simp] theorem State.after_fe (n : Nat) (i : Event) : (s.after n i).fe = s.fe := rfl
@[simp] theorem State.after_slotMem (n : Nat) (i : Event) : (s.after n i).slotMem = s.slotMem := rfl
@[simp] theorem State.after_acc (n : Nat) (i : Event) : (s.after n i).acc = s.acc := rfl
@[simp] theorem State.after_hostMem (n : Nat) (i : Event) : (s.after n i).hostMem = s.hostMem := rfl
@[simp] theorem State.after_msix (n : Nat) (i : Event) : (s.after n i).msix = s.msix := rfl
@[simp] theorem State.after_remap (n : Nat) (i : Event) : (s.after n i).remap = s.remap := rfl
@[simp] theorem State.after_buckets (n : Nat) (i : Event) : (s.after n i).buckets = s.buckets := rfl
@[simp] theorem State.after_move (n : Nat) (i : Event) : (s.after n i).move = s.move := rfl
@[simp] theorem State.after_bcount (n : Nat) (i : Event) : (s.after n i).bcount = s.bcount := rfl
@[simp] theorem State.after_bmoved (n : Nat) (i : Event) : (s.after n i).bmoved = s.bmoved := rfl
@[simp] theorem State.after_epoch (n : Nat) (i : Event) : (s.after n i).epoch = s.epoch := rfl
@[simp] theorem State.after_lines (n : Nat) (i : Event) : (s.after n i).lines = s.lines := rfl
@[simp] theorem State.after_owned (n : Nat) (i : Event) : (s.after n i).owned = s.owned := rfl
@[simp] theorem State.after_gone (n : Nat) (i : Event) : (s.after n i).gone = s.gone := rfl
@[simp] theorem State.after_inval (n : Nat) (i : Event) : (s.after n i).inval = s.inval := rfl
@[simp] theorem State.after_invalQ (n : Nat) (i : Event) : (s.after n i).invalQ = s.invalQ := rfl
@[simp] theorem State.after_groups (n : Nat) (i : Event) : (s.after n i).groups = s.groups := rfl
@[simp] theorem State.after_regs (n : Nat) (i : Event) : (s.after n i).regs = s.regs := rfl
@[simp] theorem State.after_released (n : Nat) (i : Event) : (s.after n i).released = s.released := rfl
@[simp] theorem State.after_fillNo (n : Nat) (i : Event) : (s.after n i).fillNo = s.fillNo := rfl
@[simp] theorem State.after_light (n : Nat) (i : Event) : (s.after n i).light = s.light := rfl
@[simp] theorem State.after_tiles (n : Nat) (i : Event) : (s.after n i).tiles = s.tiles := rfl
@[simp] theorem State.after_stations (n : Nat) (i : Event) : (s.after n i).stations = s.stations := rfl
@[simp] theorem State.after_portSts (n : Nat) (i : Event) : (s.after n i).portSts = s.portSts := rfl
@[simp] theorem State.after_routers (n : Nat) (i : Event) : (s.after n i).routers = s.routers := rfl
@[simp] theorem State.after_services (n : Nat) (i : Event) : (s.after n i).services = s.services := rfl
@[simp] theorem State.after_launches (n : Nat) (i : Event) : (s.after n i).launches = s.launches := rfl
@[simp] theorem State.after_regions (n : Nat) (i : Event) : (s.after n i).regions = s.regions := rfl
@[simp] theorem State.after_bands (n : Nat) (i : Event) : (s.after n i).bands = s.bands := rfl
@[simp] theorem State.after_nextId (n : Nat) (i : Event) : (s.after n i).nextId = s.nextId := rfl
@[simp] theorem State.after_handlers (n : Nat) (i : Event) : (s.after n i).handlers = s.handlers := rfl
@[simp] theorem State.after_removals (n : Nat) (i : Event) : (s.after n i).removals = s.removals := rfl
@[simp] theorem State.after_images (n : Nat) (i : Event) : (s.after n i).images = s.images := rfl
@[simp] theorem State.after_arrErr (n : Nat) (i : Event) : (s.after n i).arrErr = s.arrErr := rfl
@[simp] theorem State.after_busErr (n : Nat) (i : Event) : (s.after n i).busErr = s.busErr := rfl
@[simp] theorem State.after_laneErr (n : Nat) (i : Event) : (s.after n i).laneErr = s.laneErr := rfl
@[simp] theorem State.after_bad (n : Nat) (i : Event) : (s.after n i).bad = s.bad := rfl
@[simp] theorem State.after_flips (n : Nat) (i : Event) : (s.after n i).flips = s.flips := rfl
@[simp] theorem State.after_fixed (n : Nat) (i : Event) : (s.after n i).fixed = s.fixed := rfl
@[simp] theorem State.after_temps (n : Nat) (i : Event) : (s.after n i).temps = s.temps := rfl
@[simp] theorem State.after_hot (n : Nat) (i : Event) : (s.after n i).hot = s.hot := rfl
@[simp] theorem State.after_appeals (n : Nat) (i : Event) : (s.after n i).appeals = s.appeals := rfl
@[simp] theorem State.after_herdOut (n : Nat) (i : Event) : (s.after n i).herdOut = s.herdOut := rfl
@[simp] theorem State.after_pcieOut (n : Nat) (i : Event) : (s.after n i).pcieOut = s.pcieOut := rfl
@[simp] theorem State.after_log (n : Nat) (i : Event) : (s.after n i).log = s.log := rfl
@[simp] theorem State.after_mgmtOut (n : Nat) (i : Event) : (s.after n i).mgmtOut = s.mgmtOut := rfl
@[simp] theorem State.after_flight (n : Nat) (i : Event) : (s.after n i).flight = s.flight := rfl
@[simp] theorem State.after_inputs (n : Nat) (i : Event) : (s.after n i).inputs = s.inputs := rfl
@[simp] theorem State.after_free (n : Nat) (i : Event) : (s.after n i).free = s.free := rfl
@[simp] theorem State.after_cur (n : Nat) (i : Event) : (s.after n i).cur = s.cur := rfl
@[simp] theorem State.after_cursor (n : Nat) (i : Event) : (s.after n i).cursor = s.cursor := rfl

/-! ### afterTile -/
@[simp] theorem State.afterTile_time (n : Nat) (i : Event) : (s.afterTile n i).time = s.time := rfl
@[simp] theorem State.afterTile_tcycle (n : Nat) (i : Event) : (s.afterTile n i).tcycle = s.tcycle := rfl
@[simp] theorem State.afterTile_mcycle (n : Nat) (i : Event) : (s.afterTile n i).mcycle = s.mcycle := rfl
@[simp] theorem State.afterTile_ticks (n : Nat) (i : Event) : (s.afterTile n i).ticks = s.ticks := rfl
@[simp] theorem State.afterTile_phase (n : Nat) (i : Event) : (s.afterTile n i).phase = s.phase := rfl
@[simp] theorem State.afterTile_module (n : Nat) (i : Event) : (s.afterTile n i).module = s.module := rfl
@[simp] theorem State.afterTile_members (n : Nat) (i : Event) : (s.afterTile n i).members = s.members := rfl
@[simp] theorem State.afterTile_snapTime (n : Nat) (i : Event) : (s.afterTile n i).snapTime = s.snapTime := rfl
@[simp] theorem State.afterTile_mem (n : Nat) (i : Event) : (s.afterTile n i).mem = s.mem := rfl
@[simp] theorem State.afterTile_fe (n : Nat) (i : Event) : (s.afterTile n i).fe = s.fe := rfl
@[simp] theorem State.afterTile_slotMem (n : Nat) (i : Event) : (s.afterTile n i).slotMem = s.slotMem := rfl
@[simp] theorem State.afterTile_acc (n : Nat) (i : Event) : (s.afterTile n i).acc = s.acc := rfl
@[simp] theorem State.afterTile_hostMem (n : Nat) (i : Event) : (s.afterTile n i).hostMem = s.hostMem := rfl
@[simp] theorem State.afterTile_msix (n : Nat) (i : Event) : (s.afterTile n i).msix = s.msix := rfl
@[simp] theorem State.afterTile_remap (n : Nat) (i : Event) : (s.afterTile n i).remap = s.remap := rfl
@[simp] theorem State.afterTile_buckets (n : Nat) (i : Event) : (s.afterTile n i).buckets = s.buckets := rfl
@[simp] theorem State.afterTile_move (n : Nat) (i : Event) : (s.afterTile n i).move = s.move := rfl
@[simp] theorem State.afterTile_bcount (n : Nat) (i : Event) : (s.afterTile n i).bcount = s.bcount := rfl
@[simp] theorem State.afterTile_bmoved (n : Nat) (i : Event) : (s.afterTile n i).bmoved = s.bmoved := rfl
@[simp] theorem State.afterTile_epoch (n : Nat) (i : Event) : (s.afterTile n i).epoch = s.epoch := rfl
@[simp] theorem State.afterTile_lines (n : Nat) (i : Event) : (s.afterTile n i).lines = s.lines := rfl
@[simp] theorem State.afterTile_owned (n : Nat) (i : Event) : (s.afterTile n i).owned = s.owned := rfl
@[simp] theorem State.afterTile_gone (n : Nat) (i : Event) : (s.afterTile n i).gone = s.gone := rfl
@[simp] theorem State.afterTile_inval (n : Nat) (i : Event) : (s.afterTile n i).inval = s.inval := rfl
@[simp] theorem State.afterTile_invalQ (n : Nat) (i : Event) : (s.afterTile n i).invalQ = s.invalQ := rfl
@[simp] theorem State.afterTile_groups (n : Nat) (i : Event) : (s.afterTile n i).groups = s.groups := rfl
@[simp] theorem State.afterTile_regs (n : Nat) (i : Event) : (s.afterTile n i).regs = s.regs := rfl
@[simp] theorem State.afterTile_released (n : Nat) (i : Event) : (s.afterTile n i).released = s.released := rfl
@[simp] theorem State.afterTile_fillNo (n : Nat) (i : Event) : (s.afterTile n i).fillNo = s.fillNo := rfl
@[simp] theorem State.afterTile_light (n : Nat) (i : Event) : (s.afterTile n i).light = s.light := rfl
@[simp] theorem State.afterTile_tiles (n : Nat) (i : Event) : (s.afterTile n i).tiles = s.tiles := rfl
@[simp] theorem State.afterTile_stations (n : Nat) (i : Event) : (s.afterTile n i).stations = s.stations := rfl
@[simp] theorem State.afterTile_portSts (n : Nat) (i : Event) : (s.afterTile n i).portSts = s.portSts := rfl
@[simp] theorem State.afterTile_routers (n : Nat) (i : Event) : (s.afterTile n i).routers = s.routers := rfl
@[simp] theorem State.afterTile_services (n : Nat) (i : Event) : (s.afterTile n i).services = s.services := rfl
@[simp] theorem State.afterTile_launches (n : Nat) (i : Event) : (s.afterTile n i).launches = s.launches := rfl
@[simp] theorem State.afterTile_regions (n : Nat) (i : Event) : (s.afterTile n i).regions = s.regions := rfl
@[simp] theorem State.afterTile_bands (n : Nat) (i : Event) : (s.afterTile n i).bands = s.bands := rfl
@[simp] theorem State.afterTile_nextId (n : Nat) (i : Event) : (s.afterTile n i).nextId = s.nextId := rfl
@[simp] theorem State.afterTile_handlers (n : Nat) (i : Event) : (s.afterTile n i).handlers = s.handlers := rfl
@[simp] theorem State.afterTile_removals (n : Nat) (i : Event) : (s.afterTile n i).removals = s.removals := rfl
@[simp] theorem State.afterTile_images (n : Nat) (i : Event) : (s.afterTile n i).images = s.images := rfl
@[simp] theorem State.afterTile_arrErr (n : Nat) (i : Event) : (s.afterTile n i).arrErr = s.arrErr := rfl
@[simp] theorem State.afterTile_busErr (n : Nat) (i : Event) : (s.afterTile n i).busErr = s.busErr := rfl
@[simp] theorem State.afterTile_laneErr (n : Nat) (i : Event) : (s.afterTile n i).laneErr = s.laneErr := rfl
@[simp] theorem State.afterTile_bad (n : Nat) (i : Event) : (s.afterTile n i).bad = s.bad := rfl
@[simp] theorem State.afterTile_flips (n : Nat) (i : Event) : (s.afterTile n i).flips = s.flips := rfl
@[simp] theorem State.afterTile_fixed (n : Nat) (i : Event) : (s.afterTile n i).fixed = s.fixed := rfl
@[simp] theorem State.afterTile_temps (n : Nat) (i : Event) : (s.afterTile n i).temps = s.temps := rfl
@[simp] theorem State.afterTile_hot (n : Nat) (i : Event) : (s.afterTile n i).hot = s.hot := rfl
@[simp] theorem State.afterTile_appeals (n : Nat) (i : Event) : (s.afterTile n i).appeals = s.appeals := rfl
@[simp] theorem State.afterTile_herdOut (n : Nat) (i : Event) : (s.afterTile n i).herdOut = s.herdOut := rfl
@[simp] theorem State.afterTile_pcieOut (n : Nat) (i : Event) : (s.afterTile n i).pcieOut = s.pcieOut := rfl
@[simp] theorem State.afterTile_log (n : Nat) (i : Event) : (s.afterTile n i).log = s.log := rfl
@[simp] theorem State.afterTile_mgmtOut (n : Nat) (i : Event) : (s.afterTile n i).mgmtOut = s.mgmtOut := rfl
@[simp] theorem State.afterTile_flight (n : Nat) (i : Event) : (s.afterTile n i).flight = s.flight := rfl
@[simp] theorem State.afterTile_inputs (n : Nat) (i : Event) : (s.afterTile n i).inputs = s.inputs := rfl
@[simp] theorem State.afterTile_free (n : Nat) (i : Event) : (s.afterTile n i).free = s.free := rfl
@[simp] theorem State.afterTile_cur (n : Nat) (i : Event) : (s.afterTile n i).cur = s.cur := rfl
@[simp] theorem State.afterTile_cursor (n : Nat) (i : Event) : (s.afterTile n i).cursor = s.cursor := rfl

/-! ### afterTicks -/
@[simp] theorem State.afterTicks_time (n : Nat) (i : Event) : (s.afterTicks n i).time = s.time := rfl
@[simp] theorem State.afterTicks_tcycle (n : Nat) (i : Event) : (s.afterTicks n i).tcycle = s.tcycle := rfl
@[simp] theorem State.afterTicks_mcycle (n : Nat) (i : Event) : (s.afterTicks n i).mcycle = s.mcycle := rfl
@[simp] theorem State.afterTicks_ticks (n : Nat) (i : Event) : (s.afterTicks n i).ticks = s.ticks := rfl
@[simp] theorem State.afterTicks_phase (n : Nat) (i : Event) : (s.afterTicks n i).phase = s.phase := rfl
@[simp] theorem State.afterTicks_module (n : Nat) (i : Event) : (s.afterTicks n i).module = s.module := rfl
@[simp] theorem State.afterTicks_members (n : Nat) (i : Event) : (s.afterTicks n i).members = s.members := rfl
@[simp] theorem State.afterTicks_snapTime (n : Nat) (i : Event) : (s.afterTicks n i).snapTime = s.snapTime := rfl
@[simp] theorem State.afterTicks_mem (n : Nat) (i : Event) : (s.afterTicks n i).mem = s.mem := rfl
@[simp] theorem State.afterTicks_fe (n : Nat) (i : Event) : (s.afterTicks n i).fe = s.fe := rfl
@[simp] theorem State.afterTicks_slotMem (n : Nat) (i : Event) : (s.afterTicks n i).slotMem = s.slotMem := rfl
@[simp] theorem State.afterTicks_acc (n : Nat) (i : Event) : (s.afterTicks n i).acc = s.acc := rfl
@[simp] theorem State.afterTicks_hostMem (n : Nat) (i : Event) : (s.afterTicks n i).hostMem = s.hostMem := rfl
@[simp] theorem State.afterTicks_msix (n : Nat) (i : Event) : (s.afterTicks n i).msix = s.msix := rfl
@[simp] theorem State.afterTicks_remap (n : Nat) (i : Event) : (s.afterTicks n i).remap = s.remap := rfl
@[simp] theorem State.afterTicks_buckets (n : Nat) (i : Event) : (s.afterTicks n i).buckets = s.buckets := rfl
@[simp] theorem State.afterTicks_move (n : Nat) (i : Event) : (s.afterTicks n i).move = s.move := rfl
@[simp] theorem State.afterTicks_bcount (n : Nat) (i : Event) : (s.afterTicks n i).bcount = s.bcount := rfl
@[simp] theorem State.afterTicks_bmoved (n : Nat) (i : Event) : (s.afterTicks n i).bmoved = s.bmoved := rfl
@[simp] theorem State.afterTicks_epoch (n : Nat) (i : Event) : (s.afterTicks n i).epoch = s.epoch := rfl
@[simp] theorem State.afterTicks_lines (n : Nat) (i : Event) : (s.afterTicks n i).lines = s.lines := rfl
@[simp] theorem State.afterTicks_owned (n : Nat) (i : Event) : (s.afterTicks n i).owned = s.owned := rfl
@[simp] theorem State.afterTicks_gone (n : Nat) (i : Event) : (s.afterTicks n i).gone = s.gone := rfl
@[simp] theorem State.afterTicks_inval (n : Nat) (i : Event) : (s.afterTicks n i).inval = s.inval := rfl
@[simp] theorem State.afterTicks_invalQ (n : Nat) (i : Event) : (s.afterTicks n i).invalQ = s.invalQ := rfl
@[simp] theorem State.afterTicks_groups (n : Nat) (i : Event) : (s.afterTicks n i).groups = s.groups := rfl
@[simp] theorem State.afterTicks_regs (n : Nat) (i : Event) : (s.afterTicks n i).regs = s.regs := rfl
@[simp] theorem State.afterTicks_released (n : Nat) (i : Event) : (s.afterTicks n i).released = s.released := rfl
@[simp] theorem State.afterTicks_fillNo (n : Nat) (i : Event) : (s.afterTicks n i).fillNo = s.fillNo := rfl
@[simp] theorem State.afterTicks_light (n : Nat) (i : Event) : (s.afterTicks n i).light = s.light := rfl
@[simp] theorem State.afterTicks_tiles (n : Nat) (i : Event) : (s.afterTicks n i).tiles = s.tiles := rfl
@[simp] theorem State.afterTicks_stations (n : Nat) (i : Event) : (s.afterTicks n i).stations = s.stations := rfl
@[simp] theorem State.afterTicks_portSts (n : Nat) (i : Event) : (s.afterTicks n i).portSts = s.portSts := rfl
@[simp] theorem State.afterTicks_routers (n : Nat) (i : Event) : (s.afterTicks n i).routers = s.routers := rfl
@[simp] theorem State.afterTicks_services (n : Nat) (i : Event) : (s.afterTicks n i).services = s.services := rfl
@[simp] theorem State.afterTicks_launches (n : Nat) (i : Event) : (s.afterTicks n i).launches = s.launches := rfl
@[simp] theorem State.afterTicks_regions (n : Nat) (i : Event) : (s.afterTicks n i).regions = s.regions := rfl
@[simp] theorem State.afterTicks_bands (n : Nat) (i : Event) : (s.afterTicks n i).bands = s.bands := rfl
@[simp] theorem State.afterTicks_nextId (n : Nat) (i : Event) : (s.afterTicks n i).nextId = s.nextId := rfl
@[simp] theorem State.afterTicks_handlers (n : Nat) (i : Event) : (s.afterTicks n i).handlers = s.handlers := rfl
@[simp] theorem State.afterTicks_removals (n : Nat) (i : Event) : (s.afterTicks n i).removals = s.removals := rfl
@[simp] theorem State.afterTicks_images (n : Nat) (i : Event) : (s.afterTicks n i).images = s.images := rfl
@[simp] theorem State.afterTicks_arrErr (n : Nat) (i : Event) : (s.afterTicks n i).arrErr = s.arrErr := rfl
@[simp] theorem State.afterTicks_busErr (n : Nat) (i : Event) : (s.afterTicks n i).busErr = s.busErr := rfl
@[simp] theorem State.afterTicks_laneErr (n : Nat) (i : Event) : (s.afterTicks n i).laneErr = s.laneErr := rfl
@[simp] theorem State.afterTicks_bad (n : Nat) (i : Event) : (s.afterTicks n i).bad = s.bad := rfl
@[simp] theorem State.afterTicks_flips (n : Nat) (i : Event) : (s.afterTicks n i).flips = s.flips := rfl
@[simp] theorem State.afterTicks_fixed (n : Nat) (i : Event) : (s.afterTicks n i).fixed = s.fixed := rfl
@[simp] theorem State.afterTicks_temps (n : Nat) (i : Event) : (s.afterTicks n i).temps = s.temps := rfl
@[simp] theorem State.afterTicks_hot (n : Nat) (i : Event) : (s.afterTicks n i).hot = s.hot := rfl
@[simp] theorem State.afterTicks_appeals (n : Nat) (i : Event) : (s.afterTicks n i).appeals = s.appeals := rfl
@[simp] theorem State.afterTicks_herdOut (n : Nat) (i : Event) : (s.afterTicks n i).herdOut = s.herdOut := rfl
@[simp] theorem State.afterTicks_pcieOut (n : Nat) (i : Event) : (s.afterTicks n i).pcieOut = s.pcieOut := rfl
@[simp] theorem State.afterTicks_log (n : Nat) (i : Event) : (s.afterTicks n i).log = s.log := rfl
@[simp] theorem State.afterTicks_mgmtOut (n : Nat) (i : Event) : (s.afterTicks n i).mgmtOut = s.mgmtOut := rfl
@[simp] theorem State.afterTicks_flight (n : Nat) (i : Event) : (s.afterTicks n i).flight = s.flight := rfl
@[simp] theorem State.afterTicks_inputs (n : Nat) (i : Event) : (s.afterTicks n i).inputs = s.inputs := rfl
@[simp] theorem State.afterTicks_free (n : Nat) (i : Event) : (s.afterTicks n i).free = s.free := rfl
@[simp] theorem State.afterTicks_cur (n : Nat) (i : Event) : (s.afterTicks n i).cur = s.cur := rfl
@[simp] theorem State.afterTicks_cursor (n : Nat) (i : Event) : (s.afterTicks n i).cursor = s.cursor := rfl

/-! ### writeMem -/
@[simp] theorem State.writeMem_time (a : Nat) (b : List Byte) : (s.writeMem a b).time = s.time := rfl
@[simp] theorem State.writeMem_tcycle (a : Nat) (b : List Byte) : (s.writeMem a b).tcycle = s.tcycle := rfl
@[simp] theorem State.writeMem_mcycle (a : Nat) (b : List Byte) : (s.writeMem a b).mcycle = s.mcycle := rfl
@[simp] theorem State.writeMem_ticks (a : Nat) (b : List Byte) : (s.writeMem a b).ticks = s.ticks := rfl
@[simp] theorem State.writeMem_phase (a : Nat) (b : List Byte) : (s.writeMem a b).phase = s.phase := rfl
@[simp] theorem State.writeMem_module (a : Nat) (b : List Byte) : (s.writeMem a b).module = s.module := rfl
@[simp] theorem State.writeMem_members (a : Nat) (b : List Byte) : (s.writeMem a b).members = s.members := rfl
@[simp] theorem State.writeMem_snapTime (a : Nat) (b : List Byte) : (s.writeMem a b).snapTime = s.snapTime := rfl
@[simp] theorem State.writeMem_fe (a : Nat) (b : List Byte) : (s.writeMem a b).fe = s.fe := rfl
@[simp] theorem State.writeMem_slotMem (a : Nat) (b : List Byte) : (s.writeMem a b).slotMem = s.slotMem := rfl
@[simp] theorem State.writeMem_acc (a : Nat) (b : List Byte) : (s.writeMem a b).acc = s.acc := rfl
@[simp] theorem State.writeMem_hostMem (a : Nat) (b : List Byte) : (s.writeMem a b).hostMem = s.hostMem := rfl
@[simp] theorem State.writeMem_msix (a : Nat) (b : List Byte) : (s.writeMem a b).msix = s.msix := rfl
@[simp] theorem State.writeMem_remap (a : Nat) (b : List Byte) : (s.writeMem a b).remap = s.remap := rfl
@[simp] theorem State.writeMem_buckets (a : Nat) (b : List Byte) : (s.writeMem a b).buckets = s.buckets := rfl
@[simp] theorem State.writeMem_move (a : Nat) (b : List Byte) : (s.writeMem a b).move = s.move := rfl
@[simp] theorem State.writeMem_bcount (a : Nat) (b : List Byte) : (s.writeMem a b).bcount = s.bcount := rfl
@[simp] theorem State.writeMem_bmoved (a : Nat) (b : List Byte) : (s.writeMem a b).bmoved = s.bmoved := rfl
@[simp] theorem State.writeMem_epoch (a : Nat) (b : List Byte) : (s.writeMem a b).epoch = s.epoch := rfl
@[simp] theorem State.writeMem_lines (a : Nat) (b : List Byte) : (s.writeMem a b).lines = s.lines := rfl
@[simp] theorem State.writeMem_owned (a : Nat) (b : List Byte) : (s.writeMem a b).owned = s.owned := rfl
@[simp] theorem State.writeMem_gone (a : Nat) (b : List Byte) : (s.writeMem a b).gone = s.gone := rfl
@[simp] theorem State.writeMem_inval (a : Nat) (b : List Byte) : (s.writeMem a b).inval = s.inval := rfl
@[simp] theorem State.writeMem_invalQ (a : Nat) (b : List Byte) : (s.writeMem a b).invalQ = s.invalQ := rfl
@[simp] theorem State.writeMem_groups (a : Nat) (b : List Byte) : (s.writeMem a b).groups = s.groups := rfl
@[simp] theorem State.writeMem_regs (a : Nat) (b : List Byte) : (s.writeMem a b).regs = s.regs := rfl
@[simp] theorem State.writeMem_released (a : Nat) (b : List Byte) : (s.writeMem a b).released = s.released := rfl
@[simp] theorem State.writeMem_fillNo (a : Nat) (b : List Byte) : (s.writeMem a b).fillNo = s.fillNo := rfl
@[simp] theorem State.writeMem_light (a : Nat) (b : List Byte) : (s.writeMem a b).light = s.light := rfl
@[simp] theorem State.writeMem_tiles (a : Nat) (b : List Byte) : (s.writeMem a b).tiles = s.tiles := rfl
@[simp] theorem State.writeMem_stations (a : Nat) (b : List Byte) : (s.writeMem a b).stations = s.stations := rfl
@[simp] theorem State.writeMem_portSts (a : Nat) (b : List Byte) : (s.writeMem a b).portSts = s.portSts := rfl
@[simp] theorem State.writeMem_routers (a : Nat) (b : List Byte) : (s.writeMem a b).routers = s.routers := rfl
@[simp] theorem State.writeMem_services (a : Nat) (b : List Byte) : (s.writeMem a b).services = s.services := rfl
@[simp] theorem State.writeMem_launches (a : Nat) (b : List Byte) : (s.writeMem a b).launches = s.launches := rfl
@[simp] theorem State.writeMem_regions (a : Nat) (b : List Byte) : (s.writeMem a b).regions = s.regions := rfl
@[simp] theorem State.writeMem_bands (a : Nat) (b : List Byte) : (s.writeMem a b).bands = s.bands := rfl
@[simp] theorem State.writeMem_nextId (a : Nat) (b : List Byte) : (s.writeMem a b).nextId = s.nextId := rfl
@[simp] theorem State.writeMem_handlers (a : Nat) (b : List Byte) : (s.writeMem a b).handlers = s.handlers := rfl
@[simp] theorem State.writeMem_removals (a : Nat) (b : List Byte) : (s.writeMem a b).removals = s.removals := rfl
@[simp] theorem State.writeMem_images (a : Nat) (b : List Byte) : (s.writeMem a b).images = s.images := rfl
@[simp] theorem State.writeMem_arrErr (a : Nat) (b : List Byte) : (s.writeMem a b).arrErr = s.arrErr := rfl
@[simp] theorem State.writeMem_busErr (a : Nat) (b : List Byte) : (s.writeMem a b).busErr = s.busErr := rfl
@[simp] theorem State.writeMem_laneErr (a : Nat) (b : List Byte) : (s.writeMem a b).laneErr = s.laneErr := rfl
@[simp] theorem State.writeMem_bad (a : Nat) (b : List Byte) : (s.writeMem a b).bad = s.bad := rfl
@[simp] theorem State.writeMem_flips (a : Nat) (b : List Byte) : (s.writeMem a b).flips = s.flips := rfl
@[simp] theorem State.writeMem_fixed (a : Nat) (b : List Byte) : (s.writeMem a b).fixed = s.fixed := rfl
@[simp] theorem State.writeMem_temps (a : Nat) (b : List Byte) : (s.writeMem a b).temps = s.temps := rfl
@[simp] theorem State.writeMem_hot (a : Nat) (b : List Byte) : (s.writeMem a b).hot = s.hot := rfl
@[simp] theorem State.writeMem_appeals (a : Nat) (b : List Byte) : (s.writeMem a b).appeals = s.appeals := rfl
@[simp] theorem State.writeMem_herdOut (a : Nat) (b : List Byte) : (s.writeMem a b).herdOut = s.herdOut := rfl
@[simp] theorem State.writeMem_pcieOut (a : Nat) (b : List Byte) : (s.writeMem a b).pcieOut = s.pcieOut := rfl
@[simp] theorem State.writeMem_log (a : Nat) (b : List Byte) : (s.writeMem a b).log = s.log := rfl
@[simp] theorem State.writeMem_mgmtOut (a : Nat) (b : List Byte) : (s.writeMem a b).mgmtOut = s.mgmtOut := rfl
@[simp] theorem State.writeMem_flight (a : Nat) (b : List Byte) : (s.writeMem a b).flight = s.flight := rfl
@[simp] theorem State.writeMem_timers (a : Nat) (b : List Byte) : (s.writeMem a b).timers = s.timers := rfl
@[simp] theorem State.writeMem_inputs (a : Nat) (b : List Byte) : (s.writeMem a b).inputs = s.inputs := rfl
@[simp] theorem State.writeMem_free (a : Nat) (b : List Byte) : (s.writeMem a b).free = s.free := rfl
@[simp] theorem State.writeMem_cur (a : Nat) (b : List Byte) : (s.writeMem a b).cur = s.cur := rfl
@[simp] theorem State.writeMem_cursor (a : Nat) (b : List Byte) : (s.writeMem a b).cursor = s.cursor := rfl

/-! ### setFe -/
@[simp] theorem State.setFe_time (T off : Nat) (v : Bool) : (s.setFe T off v).time = s.time := rfl
@[simp] theorem State.setFe_tcycle (T off : Nat) (v : Bool) : (s.setFe T off v).tcycle = s.tcycle := rfl
@[simp] theorem State.setFe_mcycle (T off : Nat) (v : Bool) : (s.setFe T off v).mcycle = s.mcycle := rfl
@[simp] theorem State.setFe_ticks (T off : Nat) (v : Bool) : (s.setFe T off v).ticks = s.ticks := rfl
@[simp] theorem State.setFe_phase (T off : Nat) (v : Bool) : (s.setFe T off v).phase = s.phase := rfl
@[simp] theorem State.setFe_module (T off : Nat) (v : Bool) : (s.setFe T off v).module = s.module := rfl
@[simp] theorem State.setFe_members (T off : Nat) (v : Bool) : (s.setFe T off v).members = s.members := rfl
@[simp] theorem State.setFe_snapTime (T off : Nat) (v : Bool) : (s.setFe T off v).snapTime = s.snapTime := rfl
@[simp] theorem State.setFe_mem (T off : Nat) (v : Bool) : (s.setFe T off v).mem = s.mem := rfl
@[simp] theorem State.setFe_slotMem (T off : Nat) (v : Bool) : (s.setFe T off v).slotMem = s.slotMem := rfl
@[simp] theorem State.setFe_acc (T off : Nat) (v : Bool) : (s.setFe T off v).acc = s.acc := rfl
@[simp] theorem State.setFe_hostMem (T off : Nat) (v : Bool) : (s.setFe T off v).hostMem = s.hostMem := rfl
@[simp] theorem State.setFe_msix (T off : Nat) (v : Bool) : (s.setFe T off v).msix = s.msix := rfl
@[simp] theorem State.setFe_remap (T off : Nat) (v : Bool) : (s.setFe T off v).remap = s.remap := rfl
@[simp] theorem State.setFe_buckets (T off : Nat) (v : Bool) : (s.setFe T off v).buckets = s.buckets := rfl
@[simp] theorem State.setFe_move (T off : Nat) (v : Bool) : (s.setFe T off v).move = s.move := rfl
@[simp] theorem State.setFe_bcount (T off : Nat) (v : Bool) : (s.setFe T off v).bcount = s.bcount := rfl
@[simp] theorem State.setFe_bmoved (T off : Nat) (v : Bool) : (s.setFe T off v).bmoved = s.bmoved := rfl
@[simp] theorem State.setFe_epoch (T off : Nat) (v : Bool) : (s.setFe T off v).epoch = s.epoch := rfl
@[simp] theorem State.setFe_lines (T off : Nat) (v : Bool) : (s.setFe T off v).lines = s.lines := rfl
@[simp] theorem State.setFe_owned (T off : Nat) (v : Bool) : (s.setFe T off v).owned = s.owned := rfl
@[simp] theorem State.setFe_gone (T off : Nat) (v : Bool) : (s.setFe T off v).gone = s.gone := rfl
@[simp] theorem State.setFe_inval (T off : Nat) (v : Bool) : (s.setFe T off v).inval = s.inval := rfl
@[simp] theorem State.setFe_invalQ (T off : Nat) (v : Bool) : (s.setFe T off v).invalQ = s.invalQ := rfl
@[simp] theorem State.setFe_groups (T off : Nat) (v : Bool) : (s.setFe T off v).groups = s.groups := rfl
@[simp] theorem State.setFe_regs (T off : Nat) (v : Bool) : (s.setFe T off v).regs = s.regs := rfl
@[simp] theorem State.setFe_released (T off : Nat) (v : Bool) : (s.setFe T off v).released = s.released := rfl
@[simp] theorem State.setFe_fillNo (T off : Nat) (v : Bool) : (s.setFe T off v).fillNo = s.fillNo := rfl
@[simp] theorem State.setFe_light (T off : Nat) (v : Bool) : (s.setFe T off v).light = s.light := rfl
@[simp] theorem State.setFe_tiles (T off : Nat) (v : Bool) : (s.setFe T off v).tiles = s.tiles := rfl
@[simp] theorem State.setFe_stations (T off : Nat) (v : Bool) : (s.setFe T off v).stations = s.stations := rfl
@[simp] theorem State.setFe_portSts (T off : Nat) (v : Bool) : (s.setFe T off v).portSts = s.portSts := rfl
@[simp] theorem State.setFe_routers (T off : Nat) (v : Bool) : (s.setFe T off v).routers = s.routers := rfl
@[simp] theorem State.setFe_services (T off : Nat) (v : Bool) : (s.setFe T off v).services = s.services := rfl
@[simp] theorem State.setFe_launches (T off : Nat) (v : Bool) : (s.setFe T off v).launches = s.launches := rfl
@[simp] theorem State.setFe_regions (T off : Nat) (v : Bool) : (s.setFe T off v).regions = s.regions := rfl
@[simp] theorem State.setFe_bands (T off : Nat) (v : Bool) : (s.setFe T off v).bands = s.bands := rfl
@[simp] theorem State.setFe_nextId (T off : Nat) (v : Bool) : (s.setFe T off v).nextId = s.nextId := rfl
@[simp] theorem State.setFe_handlers (T off : Nat) (v : Bool) : (s.setFe T off v).handlers = s.handlers := rfl
@[simp] theorem State.setFe_removals (T off : Nat) (v : Bool) : (s.setFe T off v).removals = s.removals := rfl
@[simp] theorem State.setFe_images (T off : Nat) (v : Bool) : (s.setFe T off v).images = s.images := rfl
@[simp] theorem State.setFe_arrErr (T off : Nat) (v : Bool) : (s.setFe T off v).arrErr = s.arrErr := rfl
@[simp] theorem State.setFe_busErr (T off : Nat) (v : Bool) : (s.setFe T off v).busErr = s.busErr := rfl
@[simp] theorem State.setFe_laneErr (T off : Nat) (v : Bool) : (s.setFe T off v).laneErr = s.laneErr := rfl
@[simp] theorem State.setFe_bad (T off : Nat) (v : Bool) : (s.setFe T off v).bad = s.bad := rfl
@[simp] theorem State.setFe_flips (T off : Nat) (v : Bool) : (s.setFe T off v).flips = s.flips := rfl
@[simp] theorem State.setFe_fixed (T off : Nat) (v : Bool) : (s.setFe T off v).fixed = s.fixed := rfl
@[simp] theorem State.setFe_temps (T off : Nat) (v : Bool) : (s.setFe T off v).temps = s.temps := rfl
@[simp] theorem State.setFe_hot (T off : Nat) (v : Bool) : (s.setFe T off v).hot = s.hot := rfl
@[simp] theorem State.setFe_appeals (T off : Nat) (v : Bool) : (s.setFe T off v).appeals = s.appeals := rfl
@[simp] theorem State.setFe_herdOut (T off : Nat) (v : Bool) : (s.setFe T off v).herdOut = s.herdOut := rfl
@[simp] theorem State.setFe_pcieOut (T off : Nat) (v : Bool) : (s.setFe T off v).pcieOut = s.pcieOut := rfl
@[simp] theorem State.setFe_log (T off : Nat) (v : Bool) : (s.setFe T off v).log = s.log := rfl
@[simp] theorem State.setFe_mgmtOut (T off : Nat) (v : Bool) : (s.setFe T off v).mgmtOut = s.mgmtOut := rfl
@[simp] theorem State.setFe_flight (T off : Nat) (v : Bool) : (s.setFe T off v).flight = s.flight := rfl
@[simp] theorem State.setFe_timers (T off : Nat) (v : Bool) : (s.setFe T off v).timers = s.timers := rfl
@[simp] theorem State.setFe_inputs (T off : Nat) (v : Bool) : (s.setFe T off v).inputs = s.inputs := rfl
@[simp] theorem State.setFe_free (T off : Nat) (v : Bool) : (s.setFe T off v).free = s.free := rfl
@[simp] theorem State.setFe_cur (T off : Nat) (v : Bool) : (s.setFe T off v).cur = s.cur := rfl
@[simp] theorem State.setFe_cursor (T off : Nat) (v : Bool) : (s.setFe T off v).cursor = s.cursor := rfl

/-! ### lsClear -/
@[simp] theorem State.lsClear_time (T off n : Nat) : (s.lsClear T off n).time = s.time := rfl
@[simp] theorem State.lsClear_tcycle (T off n : Nat) : (s.lsClear T off n).tcycle = s.tcycle := rfl
@[simp] theorem State.lsClear_mcycle (T off n : Nat) : (s.lsClear T off n).mcycle = s.mcycle := rfl
@[simp] theorem State.lsClear_ticks (T off n : Nat) : (s.lsClear T off n).ticks = s.ticks := rfl
@[simp] theorem State.lsClear_phase (T off n : Nat) : (s.lsClear T off n).phase = s.phase := rfl
@[simp] theorem State.lsClear_module (T off n : Nat) : (s.lsClear T off n).module = s.module := rfl
@[simp] theorem State.lsClear_members (T off n : Nat) : (s.lsClear T off n).members = s.members := rfl
@[simp] theorem State.lsClear_snapTime (T off n : Nat) : (s.lsClear T off n).snapTime = s.snapTime := rfl
@[simp] theorem State.lsClear_slotMem (T off n : Nat) : (s.lsClear T off n).slotMem = s.slotMem := rfl
@[simp] theorem State.lsClear_acc (T off n : Nat) : (s.lsClear T off n).acc = s.acc := rfl
@[simp] theorem State.lsClear_hostMem (T off n : Nat) : (s.lsClear T off n).hostMem = s.hostMem := rfl
@[simp] theorem State.lsClear_msix (T off n : Nat) : (s.lsClear T off n).msix = s.msix := rfl
@[simp] theorem State.lsClear_remap (T off n : Nat) : (s.lsClear T off n).remap = s.remap := rfl
@[simp] theorem State.lsClear_buckets (T off n : Nat) : (s.lsClear T off n).buckets = s.buckets := rfl
@[simp] theorem State.lsClear_move (T off n : Nat) : (s.lsClear T off n).move = s.move := rfl
@[simp] theorem State.lsClear_bcount (T off n : Nat) : (s.lsClear T off n).bcount = s.bcount := rfl
@[simp] theorem State.lsClear_bmoved (T off n : Nat) : (s.lsClear T off n).bmoved = s.bmoved := rfl
@[simp] theorem State.lsClear_epoch (T off n : Nat) : (s.lsClear T off n).epoch = s.epoch := rfl
@[simp] theorem State.lsClear_lines (T off n : Nat) : (s.lsClear T off n).lines = s.lines := rfl
@[simp] theorem State.lsClear_owned (T off n : Nat) : (s.lsClear T off n).owned = s.owned := rfl
@[simp] theorem State.lsClear_gone (T off n : Nat) : (s.lsClear T off n).gone = s.gone := rfl
@[simp] theorem State.lsClear_inval (T off n : Nat) : (s.lsClear T off n).inval = s.inval := rfl
@[simp] theorem State.lsClear_invalQ (T off n : Nat) : (s.lsClear T off n).invalQ = s.invalQ := rfl
@[simp] theorem State.lsClear_groups (T off n : Nat) : (s.lsClear T off n).groups = s.groups := rfl
@[simp] theorem State.lsClear_regs (T off n : Nat) : (s.lsClear T off n).regs = s.regs := rfl
@[simp] theorem State.lsClear_released (T off n : Nat) : (s.lsClear T off n).released = s.released := rfl
@[simp] theorem State.lsClear_fillNo (T off n : Nat) : (s.lsClear T off n).fillNo = s.fillNo := rfl
@[simp] theorem State.lsClear_light (T off n : Nat) : (s.lsClear T off n).light = s.light := rfl
@[simp] theorem State.lsClear_tiles (T off n : Nat) : (s.lsClear T off n).tiles = s.tiles := rfl
@[simp] theorem State.lsClear_stations (T off n : Nat) : (s.lsClear T off n).stations = s.stations := rfl
@[simp] theorem State.lsClear_portSts (T off n : Nat) : (s.lsClear T off n).portSts = s.portSts := rfl
@[simp] theorem State.lsClear_routers (T off n : Nat) : (s.lsClear T off n).routers = s.routers := rfl
@[simp] theorem State.lsClear_services (T off n : Nat) : (s.lsClear T off n).services = s.services := rfl
@[simp] theorem State.lsClear_launches (T off n : Nat) : (s.lsClear T off n).launches = s.launches := rfl
@[simp] theorem State.lsClear_regions (T off n : Nat) : (s.lsClear T off n).regions = s.regions := rfl
@[simp] theorem State.lsClear_bands (T off n : Nat) : (s.lsClear T off n).bands = s.bands := rfl
@[simp] theorem State.lsClear_nextId (T off n : Nat) : (s.lsClear T off n).nextId = s.nextId := rfl
@[simp] theorem State.lsClear_handlers (T off n : Nat) : (s.lsClear T off n).handlers = s.handlers := rfl
@[simp] theorem State.lsClear_removals (T off n : Nat) : (s.lsClear T off n).removals = s.removals := rfl
@[simp] theorem State.lsClear_images (T off n : Nat) : (s.lsClear T off n).images = s.images := rfl
@[simp] theorem State.lsClear_arrErr (T off n : Nat) : (s.lsClear T off n).arrErr = s.arrErr := rfl
@[simp] theorem State.lsClear_busErr (T off n : Nat) : (s.lsClear T off n).busErr = s.busErr := rfl
@[simp] theorem State.lsClear_laneErr (T off n : Nat) : (s.lsClear T off n).laneErr = s.laneErr := rfl
@[simp] theorem State.lsClear_fixed (T off n : Nat) : (s.lsClear T off n).fixed = s.fixed := rfl
@[simp] theorem State.lsClear_temps (T off n : Nat) : (s.lsClear T off n).temps = s.temps := rfl
@[simp] theorem State.lsClear_hot (T off n : Nat) : (s.lsClear T off n).hot = s.hot := rfl
@[simp] theorem State.lsClear_appeals (T off n : Nat) : (s.lsClear T off n).appeals = s.appeals := rfl
@[simp] theorem State.lsClear_herdOut (T off n : Nat) : (s.lsClear T off n).herdOut = s.herdOut := rfl
@[simp] theorem State.lsClear_pcieOut (T off n : Nat) : (s.lsClear T off n).pcieOut = s.pcieOut := rfl
@[simp] theorem State.lsClear_log (T off n : Nat) : (s.lsClear T off n).log = s.log := rfl
@[simp] theorem State.lsClear_mgmtOut (T off n : Nat) : (s.lsClear T off n).mgmtOut = s.mgmtOut := rfl
@[simp] theorem State.lsClear_flight (T off n : Nat) : (s.lsClear T off n).flight = s.flight := rfl
@[simp] theorem State.lsClear_timers (T off n : Nat) : (s.lsClear T off n).timers = s.timers := rfl
@[simp] theorem State.lsClear_inputs (T off n : Nat) : (s.lsClear T off n).inputs = s.inputs := rfl
@[simp] theorem State.lsClear_free (T off n : Nat) : (s.lsClear T off n).free = s.free := rfl
@[simp] theorem State.lsClear_cur (T off n : Nat) : (s.lsClear T off n).cur = s.cur := rfl
@[simp] theorem State.lsClear_cursor (T off n : Nat) : (s.lsClear T off n).cursor = s.cursor := rfl

/-! ### setAcc -/
@[simp] theorem State.setAcc_time (T n row col : Nat) (v : W32) : (s.setAcc T n row col v).time = s.time := rfl
@[simp] theorem State.setAcc_tcycle (T n row col : Nat) (v : W32) : (s.setAcc T n row col v).tcycle = s.tcycle := rfl
@[simp] theorem State.setAcc_mcycle (T n row col : Nat) (v : W32) : (s.setAcc T n row col v).mcycle = s.mcycle := rfl
@[simp] theorem State.setAcc_ticks (T n row col : Nat) (v : W32) : (s.setAcc T n row col v).ticks = s.ticks := rfl
@[simp] theorem State.setAcc_phase (T n row col : Nat) (v : W32) : (s.setAcc T n row col v).phase = s.phase := rfl
@[simp] theorem State.setAcc_module (T n row col : Nat) (v : W32) : (s.setAcc T n row col v).module = s.module := rfl
@[simp] theorem State.setAcc_members (T n row col : Nat) (v : W32) : (s.setAcc T n row col v).members = s.members := rfl
@[simp] theorem State.setAcc_snapTime (T n row col : Nat) (v : W32) : (s.setAcc T n row col v).snapTime = s.snapTime := rfl
@[simp] theorem State.setAcc_mem (T n row col : Nat) (v : W32) : (s.setAcc T n row col v).mem = s.mem := rfl
@[simp] theorem State.setAcc_fe (T n row col : Nat) (v : W32) : (s.setAcc T n row col v).fe = s.fe := rfl
@[simp] theorem State.setAcc_slotMem (T n row col : Nat) (v : W32) : (s.setAcc T n row col v).slotMem = s.slotMem := rfl
@[simp] theorem State.setAcc_hostMem (T n row col : Nat) (v : W32) : (s.setAcc T n row col v).hostMem = s.hostMem := rfl
@[simp] theorem State.setAcc_msix (T n row col : Nat) (v : W32) : (s.setAcc T n row col v).msix = s.msix := rfl
@[simp] theorem State.setAcc_remap (T n row col : Nat) (v : W32) : (s.setAcc T n row col v).remap = s.remap := rfl
@[simp] theorem State.setAcc_buckets (T n row col : Nat) (v : W32) : (s.setAcc T n row col v).buckets = s.buckets := rfl
@[simp] theorem State.setAcc_move (T n row col : Nat) (v : W32) : (s.setAcc T n row col v).move = s.move := rfl
@[simp] theorem State.setAcc_bcount (T n row col : Nat) (v : W32) : (s.setAcc T n row col v).bcount = s.bcount := rfl
@[simp] theorem State.setAcc_bmoved (T n row col : Nat) (v : W32) : (s.setAcc T n row col v).bmoved = s.bmoved := rfl
@[simp] theorem State.setAcc_epoch (T n row col : Nat) (v : W32) : (s.setAcc T n row col v).epoch = s.epoch := rfl
@[simp] theorem State.setAcc_lines (T n row col : Nat) (v : W32) : (s.setAcc T n row col v).lines = s.lines := rfl
@[simp] theorem State.setAcc_owned (T n row col : Nat) (v : W32) : (s.setAcc T n row col v).owned = s.owned := rfl
@[simp] theorem State.setAcc_gone (T n row col : Nat) (v : W32) : (s.setAcc T n row col v).gone = s.gone := rfl
@[simp] theorem State.setAcc_inval (T n row col : Nat) (v : W32) : (s.setAcc T n row col v).inval = s.inval := rfl
@[simp] theorem State.setAcc_invalQ (T n row col : Nat) (v : W32) : (s.setAcc T n row col v).invalQ = s.invalQ := rfl
@[simp] theorem State.setAcc_groups (T n row col : Nat) (v : W32) : (s.setAcc T n row col v).groups = s.groups := rfl
@[simp] theorem State.setAcc_regs (T n row col : Nat) (v : W32) : (s.setAcc T n row col v).regs = s.regs := rfl
@[simp] theorem State.setAcc_released (T n row col : Nat) (v : W32) : (s.setAcc T n row col v).released = s.released := rfl
@[simp] theorem State.setAcc_fillNo (T n row col : Nat) (v : W32) : (s.setAcc T n row col v).fillNo = s.fillNo := rfl
@[simp] theorem State.setAcc_light (T n row col : Nat) (v : W32) : (s.setAcc T n row col v).light = s.light := rfl
@[simp] theorem State.setAcc_tiles (T n row col : Nat) (v : W32) : (s.setAcc T n row col v).tiles = s.tiles := rfl
@[simp] theorem State.setAcc_stations (T n row col : Nat) (v : W32) : (s.setAcc T n row col v).stations = s.stations := rfl
@[simp] theorem State.setAcc_portSts (T n row col : Nat) (v : W32) : (s.setAcc T n row col v).portSts = s.portSts := rfl
@[simp] theorem State.setAcc_routers (T n row col : Nat) (v : W32) : (s.setAcc T n row col v).routers = s.routers := rfl
@[simp] theorem State.setAcc_services (T n row col : Nat) (v : W32) : (s.setAcc T n row col v).services = s.services := rfl
@[simp] theorem State.setAcc_launches (T n row col : Nat) (v : W32) : (s.setAcc T n row col v).launches = s.launches := rfl
@[simp] theorem State.setAcc_regions (T n row col : Nat) (v : W32) : (s.setAcc T n row col v).regions = s.regions := rfl
@[simp] theorem State.setAcc_bands (T n row col : Nat) (v : W32) : (s.setAcc T n row col v).bands = s.bands := rfl
@[simp] theorem State.setAcc_nextId (T n row col : Nat) (v : W32) : (s.setAcc T n row col v).nextId = s.nextId := rfl
@[simp] theorem State.setAcc_handlers (T n row col : Nat) (v : W32) : (s.setAcc T n row col v).handlers = s.handlers := rfl
@[simp] theorem State.setAcc_removals (T n row col : Nat) (v : W32) : (s.setAcc T n row col v).removals = s.removals := rfl
@[simp] theorem State.setAcc_images (T n row col : Nat) (v : W32) : (s.setAcc T n row col v).images = s.images := rfl
@[simp] theorem State.setAcc_arrErr (T n row col : Nat) (v : W32) : (s.setAcc T n row col v).arrErr = s.arrErr := rfl
@[simp] theorem State.setAcc_busErr (T n row col : Nat) (v : W32) : (s.setAcc T n row col v).busErr = s.busErr := rfl
@[simp] theorem State.setAcc_laneErr (T n row col : Nat) (v : W32) : (s.setAcc T n row col v).laneErr = s.laneErr := rfl
@[simp] theorem State.setAcc_bad (T n row col : Nat) (v : W32) : (s.setAcc T n row col v).bad = s.bad := rfl
@[simp] theorem State.setAcc_flips (T n row col : Nat) (v : W32) : (s.setAcc T n row col v).flips = s.flips := rfl
@[simp] theorem State.setAcc_fixed (T n row col : Nat) (v : W32) : (s.setAcc T n row col v).fixed = s.fixed := rfl
@[simp] theorem State.setAcc_temps (T n row col : Nat) (v : W32) : (s.setAcc T n row col v).temps = s.temps := rfl
@[simp] theorem State.setAcc_hot (T n row col : Nat) (v : W32) : (s.setAcc T n row col v).hot = s.hot := rfl
@[simp] theorem State.setAcc_appeals (T n row col : Nat) (v : W32) : (s.setAcc T n row col v).appeals = s.appeals := rfl
@[simp] theorem State.setAcc_herdOut (T n row col : Nat) (v : W32) : (s.setAcc T n row col v).herdOut = s.herdOut := rfl
@[simp] theorem State.setAcc_pcieOut (T n row col : Nat) (v : W32) : (s.setAcc T n row col v).pcieOut = s.pcieOut := rfl
@[simp] theorem State.setAcc_log (T n row col : Nat) (v : W32) : (s.setAcc T n row col v).log = s.log := rfl
@[simp] theorem State.setAcc_mgmtOut (T n row col : Nat) (v : W32) : (s.setAcc T n row col v).mgmtOut = s.mgmtOut := rfl
@[simp] theorem State.setAcc_flight (T n row col : Nat) (v : W32) : (s.setAcc T n row col v).flight = s.flight := rfl
@[simp] theorem State.setAcc_timers (T n row col : Nat) (v : W32) : (s.setAcc T n row col v).timers = s.timers := rfl
@[simp] theorem State.setAcc_inputs (T n row col : Nat) (v : W32) : (s.setAcc T n row col v).inputs = s.inputs := rfl
@[simp] theorem State.setAcc_free (T n row col : Nat) (v : W32) : (s.setAcc T n row col v).free = s.free := rfl
@[simp] theorem State.setAcc_cur (T n row col : Nat) (v : W32) : (s.setAcc T n row col v).cur = s.cur := rfl
@[simp] theorem State.setAcc_cursor (T n row col : Nat) (v : W32) : (s.setAcc T n row col v).cursor = s.cursor := rfl

/-! ### setRegRaw -/
@[simp] theorem State.setRegRaw_time (a : Nat) (v : W64) : (s.setRegRaw a v).time = s.time := rfl
@[simp] theorem State.setRegRaw_tcycle (a : Nat) (v : W64) : (s.setRegRaw a v).tcycle = s.tcycle := rfl
@[simp] theorem State.setRegRaw_mcycle (a : Nat) (v : W64) : (s.setRegRaw a v).mcycle = s.mcycle := rfl
@[simp] theorem State.setRegRaw_ticks (a : Nat) (v : W64) : (s.setRegRaw a v).ticks = s.ticks := rfl
@[simp] theorem State.setRegRaw_phase (a : Nat) (v : W64) : (s.setRegRaw a v).phase = s.phase := rfl
@[simp] theorem State.setRegRaw_module (a : Nat) (v : W64) : (s.setRegRaw a v).module = s.module := rfl
@[simp] theorem State.setRegRaw_members (a : Nat) (v : W64) : (s.setRegRaw a v).members = s.members := rfl
@[simp] theorem State.setRegRaw_snapTime (a : Nat) (v : W64) : (s.setRegRaw a v).snapTime = s.snapTime := rfl
@[simp] theorem State.setRegRaw_mem (a : Nat) (v : W64) : (s.setRegRaw a v).mem = s.mem := rfl
@[simp] theorem State.setRegRaw_fe (a : Nat) (v : W64) : (s.setRegRaw a v).fe = s.fe := rfl
@[simp] theorem State.setRegRaw_slotMem (a : Nat) (v : W64) : (s.setRegRaw a v).slotMem = s.slotMem := rfl
@[simp] theorem State.setRegRaw_acc (a : Nat) (v : W64) : (s.setRegRaw a v).acc = s.acc := rfl
@[simp] theorem State.setRegRaw_hostMem (a : Nat) (v : W64) : (s.setRegRaw a v).hostMem = s.hostMem := rfl
@[simp] theorem State.setRegRaw_msix (a : Nat) (v : W64) : (s.setRegRaw a v).msix = s.msix := rfl
@[simp] theorem State.setRegRaw_remap (a : Nat) (v : W64) : (s.setRegRaw a v).remap = s.remap := rfl
@[simp] theorem State.setRegRaw_buckets (a : Nat) (v : W64) : (s.setRegRaw a v).buckets = s.buckets := rfl
@[simp] theorem State.setRegRaw_move (a : Nat) (v : W64) : (s.setRegRaw a v).move = s.move := rfl
@[simp] theorem State.setRegRaw_bcount (a : Nat) (v : W64) : (s.setRegRaw a v).bcount = s.bcount := rfl
@[simp] theorem State.setRegRaw_bmoved (a : Nat) (v : W64) : (s.setRegRaw a v).bmoved = s.bmoved := rfl
@[simp] theorem State.setRegRaw_epoch (a : Nat) (v : W64) : (s.setRegRaw a v).epoch = s.epoch := rfl
@[simp] theorem State.setRegRaw_lines (a : Nat) (v : W64) : (s.setRegRaw a v).lines = s.lines := rfl
@[simp] theorem State.setRegRaw_owned (a : Nat) (v : W64) : (s.setRegRaw a v).owned = s.owned := rfl
@[simp] theorem State.setRegRaw_gone (a : Nat) (v : W64) : (s.setRegRaw a v).gone = s.gone := rfl
@[simp] theorem State.setRegRaw_inval (a : Nat) (v : W64) : (s.setRegRaw a v).inval = s.inval := rfl
@[simp] theorem State.setRegRaw_invalQ (a : Nat) (v : W64) : (s.setRegRaw a v).invalQ = s.invalQ := rfl
@[simp] theorem State.setRegRaw_groups (a : Nat) (v : W64) : (s.setRegRaw a v).groups = s.groups := rfl
@[simp] theorem State.setRegRaw_released (a : Nat) (v : W64) : (s.setRegRaw a v).released = s.released := rfl
@[simp] theorem State.setRegRaw_fillNo (a : Nat) (v : W64) : (s.setRegRaw a v).fillNo = s.fillNo := rfl
@[simp] theorem State.setRegRaw_light (a : Nat) (v : W64) : (s.setRegRaw a v).light = s.light := rfl
@[simp] theorem State.setRegRaw_tiles (a : Nat) (v : W64) : (s.setRegRaw a v).tiles = s.tiles := rfl
@[simp] theorem State.setRegRaw_stations (a : Nat) (v : W64) : (s.setRegRaw a v).stations = s.stations := rfl
@[simp] theorem State.setRegRaw_portSts (a : Nat) (v : W64) : (s.setRegRaw a v).portSts = s.portSts := rfl
@[simp] theorem State.setRegRaw_routers (a : Nat) (v : W64) : (s.setRegRaw a v).routers = s.routers := rfl
@[simp] theorem State.setRegRaw_services (a : Nat) (v : W64) : (s.setRegRaw a v).services = s.services := rfl
@[simp] theorem State.setRegRaw_launches (a : Nat) (v : W64) : (s.setRegRaw a v).launches = s.launches := rfl
@[simp] theorem State.setRegRaw_regions (a : Nat) (v : W64) : (s.setRegRaw a v).regions = s.regions := rfl
@[simp] theorem State.setRegRaw_bands (a : Nat) (v : W64) : (s.setRegRaw a v).bands = s.bands := rfl
@[simp] theorem State.setRegRaw_nextId (a : Nat) (v : W64) : (s.setRegRaw a v).nextId = s.nextId := rfl
@[simp] theorem State.setRegRaw_handlers (a : Nat) (v : W64) : (s.setRegRaw a v).handlers = s.handlers := rfl
@[simp] theorem State.setRegRaw_removals (a : Nat) (v : W64) : (s.setRegRaw a v).removals = s.removals := rfl
@[simp] theorem State.setRegRaw_images (a : Nat) (v : W64) : (s.setRegRaw a v).images = s.images := rfl
@[simp] theorem State.setRegRaw_arrErr (a : Nat) (v : W64) : (s.setRegRaw a v).arrErr = s.arrErr := rfl
@[simp] theorem State.setRegRaw_busErr (a : Nat) (v : W64) : (s.setRegRaw a v).busErr = s.busErr := rfl
@[simp] theorem State.setRegRaw_laneErr (a : Nat) (v : W64) : (s.setRegRaw a v).laneErr = s.laneErr := rfl
@[simp] theorem State.setRegRaw_bad (a : Nat) (v : W64) : (s.setRegRaw a v).bad = s.bad := rfl
@[simp] theorem State.setRegRaw_flips (a : Nat) (v : W64) : (s.setRegRaw a v).flips = s.flips := rfl
@[simp] theorem State.setRegRaw_fixed (a : Nat) (v : W64) : (s.setRegRaw a v).fixed = s.fixed := rfl
@[simp] theorem State.setRegRaw_temps (a : Nat) (v : W64) : (s.setRegRaw a v).temps = s.temps := rfl
@[simp] theorem State.setRegRaw_hot (a : Nat) (v : W64) : (s.setRegRaw a v).hot = s.hot := rfl
@[simp] theorem State.setRegRaw_appeals (a : Nat) (v : W64) : (s.setRegRaw a v).appeals = s.appeals := rfl
@[simp] theorem State.setRegRaw_herdOut (a : Nat) (v : W64) : (s.setRegRaw a v).herdOut = s.herdOut := rfl
@[simp] theorem State.setRegRaw_pcieOut (a : Nat) (v : W64) : (s.setRegRaw a v).pcieOut = s.pcieOut := rfl
@[simp] theorem State.setRegRaw_log (a : Nat) (v : W64) : (s.setRegRaw a v).log = s.log := rfl
@[simp] theorem State.setRegRaw_mgmtOut (a : Nat) (v : W64) : (s.setRegRaw a v).mgmtOut = s.mgmtOut := rfl
@[simp] theorem State.setRegRaw_flight (a : Nat) (v : W64) : (s.setRegRaw a v).flight = s.flight := rfl
@[simp] theorem State.setRegRaw_timers (a : Nat) (v : W64) : (s.setRegRaw a v).timers = s.timers := rfl
@[simp] theorem State.setRegRaw_inputs (a : Nat) (v : W64) : (s.setRegRaw a v).inputs = s.inputs := rfl
@[simp] theorem State.setRegRaw_free (a : Nat) (v : W64) : (s.setRegRaw a v).free = s.free := rfl
@[simp] theorem State.setRegRaw_cur (a : Nat) (v : W64) : (s.setRegRaw a v).cur = s.cur := rfl
@[simp] theorem State.setRegRaw_cursor (a : Nat) (v : W64) : (s.setRegRaw a v).cursor = s.cursor := rfl

/-! ### modTile -/
@[simp] theorem State.modTile_time (T : Nat) (f : Tile → Tile) : (s.modTile T f).time = s.time := rfl
@[simp] theorem State.modTile_tcycle (T : Nat) (f : Tile → Tile) : (s.modTile T f).tcycle = s.tcycle := rfl
@[simp] theorem State.modTile_mcycle (T : Nat) (f : Tile → Tile) : (s.modTile T f).mcycle = s.mcycle := rfl
@[simp] theorem State.modTile_ticks (T : Nat) (f : Tile → Tile) : (s.modTile T f).ticks = s.ticks := rfl
@[simp] theorem State.modTile_module (T : Nat) (f : Tile → Tile) : (s.modTile T f).module = s.module := rfl
@[simp] theorem State.modTile_members (T : Nat) (f : Tile → Tile) : (s.modTile T f).members = s.members := rfl
@[simp] theorem State.modTile_snapTime (T : Nat) (f : Tile → Tile) : (s.modTile T f).snapTime = s.snapTime := rfl
@[simp] theorem State.modTile_mem (T : Nat) (f : Tile → Tile) : (s.modTile T f).mem = s.mem := rfl
@[simp] theorem State.modTile_fe (T : Nat) (f : Tile → Tile) : (s.modTile T f).fe = s.fe := rfl
@[simp] theorem State.modTile_slotMem (T : Nat) (f : Tile → Tile) : (s.modTile T f).slotMem = s.slotMem := rfl
@[simp] theorem State.modTile_acc (T : Nat) (f : Tile → Tile) : (s.modTile T f).acc = s.acc := rfl
@[simp] theorem State.modTile_hostMem (T : Nat) (f : Tile → Tile) : (s.modTile T f).hostMem = s.hostMem := rfl
@[simp] theorem State.modTile_remap (T : Nat) (f : Tile → Tile) : (s.modTile T f).remap = s.remap := rfl
@[simp] theorem State.modTile_buckets (T : Nat) (f : Tile → Tile) : (s.modTile T f).buckets = s.buckets := rfl
@[simp] theorem State.modTile_lines (T : Nat) (f : Tile → Tile) : (s.modTile T f).lines = s.lines := rfl
@[simp] theorem State.modTile_owned (T : Nat) (f : Tile → Tile) : (s.modTile T f).owned = s.owned := rfl
@[simp] theorem State.modTile_groups (T : Nat) (f : Tile → Tile) : (s.modTile T f).groups = s.groups := rfl
@[simp] theorem State.modTile_regs (T : Nat) (f : Tile → Tile) : (s.modTile T f).regs = s.regs := rfl
@[simp] theorem State.modTile_stations (T : Nat) (f : Tile → Tile) : (s.modTile T f).stations = s.stations := rfl
@[simp] theorem State.modTile_portSts (T : Nat) (f : Tile → Tile) : (s.modTile T f).portSts = s.portSts := rfl
@[simp] theorem State.modTile_routers (T : Nat) (f : Tile → Tile) : (s.modTile T f).routers = s.routers := rfl
@[simp] theorem State.modTile_services (T : Nat) (f : Tile → Tile) : (s.modTile T f).services = s.services := rfl
@[simp] theorem State.modTile_launches (T : Nat) (f : Tile → Tile) : (s.modTile T f).launches = s.launches := rfl
@[simp] theorem State.modTile_regions (T : Nat) (f : Tile → Tile) : (s.modTile T f).regions = s.regions := rfl
@[simp] theorem State.modTile_bands (T : Nat) (f : Tile → Tile) : (s.modTile T f).bands = s.bands := rfl
@[simp] theorem State.modTile_bad (T : Nat) (f : Tile → Tile) : (s.modTile T f).bad = s.bad := rfl
@[simp] theorem State.modTile_flight (T : Nat) (f : Tile → Tile) : (s.modTile T f).flight = s.flight := rfl
@[simp] theorem State.modTile_timers (T : Nat) (f : Tile → Tile) : (s.modTile T f).timers = s.timers := rfl
@[simp] theorem State.modTile_inputs (T : Nat) (f : Tile → Tile) : (s.modTile T f).inputs = s.inputs := rfl
@[simp] theorem State.modTile_free (T : Nat) (f : Tile → Tile) : (s.modTile T f).free = s.free := rfl
@[simp] theorem State.modTile_cur (T : Nat) (f : Tile → Tile) : (s.modTile T f).cur = s.cur := rfl
@[simp] theorem State.modTile_cursor (T : Nat) (f : Tile → Tile) : (s.modTile T f).cursor = s.cursor := rfl
@[simp] theorem State.modTile_log (T : Nat) (f : Tile → Tile) : (s.modTile T f).log = s.log := rfl

/-! ### setThread -/
@[simp] theorem State.setThread_time (T h : Nat) (t : Thread) : (s.setThread T h t).time = s.time := rfl
@[simp] theorem State.setThread_tcycle (T h : Nat) (t : Thread) : (s.setThread T h t).tcycle = s.tcycle := rfl
@[simp] theorem State.setThread_mcycle (T h : Nat) (t : Thread) : (s.setThread T h t).mcycle = s.mcycle := rfl
@[simp] theorem State.setThread_ticks (T h : Nat) (t : Thread) : (s.setThread T h t).ticks = s.ticks := rfl
@[simp] theorem State.setThread_module (T h : Nat) (t : Thread) : (s.setThread T h t).module = s.module := rfl
@[simp] theorem State.setThread_members (T h : Nat) (t : Thread) : (s.setThread T h t).members = s.members := rfl
@[simp] theorem State.setThread_snapTime (T h : Nat) (t : Thread) : (s.setThread T h t).snapTime = s.snapTime := rfl
@[simp] theorem State.setThread_mem (T h : Nat) (t : Thread) : (s.setThread T h t).mem = s.mem := rfl
@[simp] theorem State.setThread_fe (T h : Nat) (t : Thread) : (s.setThread T h t).fe = s.fe := rfl
@[simp] theorem State.setThread_slotMem (T h : Nat) (t : Thread) : (s.setThread T h t).slotMem = s.slotMem := rfl
@[simp] theorem State.setThread_acc (T h : Nat) (t : Thread) : (s.setThread T h t).acc = s.acc := rfl
@[simp] theorem State.setThread_hostMem (T h : Nat) (t : Thread) : (s.setThread T h t).hostMem = s.hostMem := rfl
@[simp] theorem State.setThread_remap (T h : Nat) (t : Thread) : (s.setThread T h t).remap = s.remap := rfl
@[simp] theorem State.setThread_buckets (T h : Nat) (t : Thread) : (s.setThread T h t).buckets = s.buckets := rfl
@[simp] theorem State.setThread_lines (T h : Nat) (t : Thread) : (s.setThread T h t).lines = s.lines := rfl
@[simp] theorem State.setThread_owned (T h : Nat) (t : Thread) : (s.setThread T h t).owned = s.owned := rfl
@[simp] theorem State.setThread_groups (T h : Nat) (t : Thread) : (s.setThread T h t).groups = s.groups := rfl
@[simp] theorem State.setThread_regs (T h : Nat) (t : Thread) : (s.setThread T h t).regs = s.regs := rfl
@[simp] theorem State.setThread_stations (T h : Nat) (t : Thread) : (s.setThread T h t).stations = s.stations := rfl
@[simp] theorem State.setThread_portSts (T h : Nat) (t : Thread) : (s.setThread T h t).portSts = s.portSts := rfl
@[simp] theorem State.setThread_routers (T h : Nat) (t : Thread) : (s.setThread T h t).routers = s.routers := rfl
@[simp] theorem State.setThread_services (T h : Nat) (t : Thread) : (s.setThread T h t).services = s.services := rfl
@[simp] theorem State.setThread_launches (T h : Nat) (t : Thread) : (s.setThread T h t).launches = s.launches := rfl
@[simp] theorem State.setThread_regions (T h : Nat) (t : Thread) : (s.setThread T h t).regions = s.regions := rfl
@[simp] theorem State.setThread_bands (T h : Nat) (t : Thread) : (s.setThread T h t).bands = s.bands := rfl
@[simp] theorem State.setThread_bad (T h : Nat) (t : Thread) : (s.setThread T h t).bad = s.bad := rfl
@[simp] theorem State.setThread_flight (T h : Nat) (t : Thread) : (s.setThread T h t).flight = s.flight := rfl
@[simp] theorem State.setThread_timers (T h : Nat) (t : Thread) : (s.setThread T h t).timers = s.timers := rfl
@[simp] theorem State.setThread_inputs (T h : Nat) (t : Thread) : (s.setThread T h t).inputs = s.inputs := rfl
@[simp] theorem State.setThread_free (T h : Nat) (t : Thread) : (s.setThread T h t).free = s.free := rfl
@[simp] theorem State.setThread_cur (T h : Nat) (t : Thread) : (s.setThread T h t).cur = s.cur := rfl
@[simp] theorem State.setThread_cursor (T h : Nat) (t : Thread) : (s.setThread T h t).cursor = s.cursor := rfl
@[simp] theorem State.setThread_log (T h : Nat) (t : Thread) : (s.setThread T h t).log = s.log := rfl

/-! ### modThread -/
@[simp] theorem State.modThread_time (T h : Nat) (f : Thread → Thread) : (s.modThread T h f).time = s.time := rfl
@[simp] theorem State.modThread_tcycle (T h : Nat) (f : Thread → Thread) : (s.modThread T h f).tcycle = s.tcycle := rfl
@[simp] theorem State.modThread_mcycle (T h : Nat) (f : Thread → Thread) : (s.modThread T h f).mcycle = s.mcycle := rfl
@[simp] theorem State.modThread_ticks (T h : Nat) (f : Thread → Thread) : (s.modThread T h f).ticks = s.ticks := rfl
@[simp] theorem State.modThread_module (T h : Nat) (f : Thread → Thread) : (s.modThread T h f).module = s.module := rfl
@[simp] theorem State.modThread_members (T h : Nat) (f : Thread → Thread) : (s.modThread T h f).members = s.members := rfl
@[simp] theorem State.modThread_snapTime (T h : Nat) (f : Thread → Thread) : (s.modThread T h f).snapTime = s.snapTime := rfl
@[simp] theorem State.modThread_mem (T h : Nat) (f : Thread → Thread) : (s.modThread T h f).mem = s.mem := rfl
@[simp] theorem State.modThread_fe (T h : Nat) (f : Thread → Thread) : (s.modThread T h f).fe = s.fe := rfl
@[simp] theorem State.modThread_slotMem (T h : Nat) (f : Thread → Thread) : (s.modThread T h f).slotMem = s.slotMem := rfl
@[simp] theorem State.modThread_acc (T h : Nat) (f : Thread → Thread) : (s.modThread T h f).acc = s.acc := rfl
@[simp] theorem State.modThread_hostMem (T h : Nat) (f : Thread → Thread) : (s.modThread T h f).hostMem = s.hostMem := rfl
@[simp] theorem State.modThread_remap (T h : Nat) (f : Thread → Thread) : (s.modThread T h f).remap = s.remap := rfl
@[simp] theorem State.modThread_buckets (T h : Nat) (f : Thread → Thread) : (s.modThread T h f).buckets = s.buckets := rfl
@[simp] theorem State.modThread_lines (T h : Nat) (f : Thread → Thread) : (s.modThread T h f).lines = s.lines := rfl
@[simp] theorem State.modThread_owned (T h : Nat) (f : Thread → Thread) : (s.modThread T h f).owned = s.owned := rfl
@[simp] theorem State.modThread_groups (T h : Nat) (f : Thread → Thread) : (s.modThread T h f).groups = s.groups := rfl
@[simp] theorem State.modThread_regs (T h : Nat) (f : Thread → Thread) : (s.modThread T h f).regs = s.regs := rfl
@[simp] theorem State.modThread_stations (T h : Nat) (f : Thread → Thread) : (s.modThread T h f).stations = s.stations := rfl
@[simp] theorem State.modThread_portSts (T h : Nat) (f : Thread → Thread) : (s.modThread T h f).portSts = s.portSts := rfl
@[simp] theorem State.modThread_routers (T h : Nat) (f : Thread → Thread) : (s.modThread T h f).routers = s.routers := rfl
@[simp] theorem State.modThread_services (T h : Nat) (f : Thread → Thread) : (s.modThread T h f).services = s.services := rfl
@[simp] theorem State.modThread_launches (T h : Nat) (f : Thread → Thread) : (s.modThread T h f).launches = s.launches := rfl
@[simp] theorem State.modThread_regions (T h : Nat) (f : Thread → Thread) : (s.modThread T h f).regions = s.regions := rfl
@[simp] theorem State.modThread_bands (T h : Nat) (f : Thread → Thread) : (s.modThread T h f).bands = s.bands := rfl
@[simp] theorem State.modThread_bad (T h : Nat) (f : Thread → Thread) : (s.modThread T h f).bad = s.bad := rfl
@[simp] theorem State.modThread_flight (T h : Nat) (f : Thread → Thread) : (s.modThread T h f).flight = s.flight := rfl
@[simp] theorem State.modThread_timers (T h : Nat) (f : Thread → Thread) : (s.modThread T h f).timers = s.timers := rfl
@[simp] theorem State.modThread_inputs (T h : Nat) (f : Thread → Thread) : (s.modThread T h f).inputs = s.inputs := rfl
@[simp] theorem State.modThread_free (T h : Nat) (f : Thread → Thread) : (s.modThread T h f).free = s.free := rfl
@[simp] theorem State.modThread_cur (T h : Nat) (f : Thread → Thread) : (s.modThread T h f).cur = s.cur := rfl
@[simp] theorem State.modThread_cursor (T h : Nat) (f : Thread → Thread) : (s.modThread T h f).cursor = s.cursor := rfl
@[simp] theorem State.modThread_log (T h : Nat) (f : Thread → Thread) : (s.modThread T h f).log = s.log := rfl

/-! ### setDom -/
@[simp] theorem State.setDom_time (T d : Nat) (v : Dom) : (s.setDom T d v).time = s.time := rfl
@[simp] theorem State.setDom_tcycle (T d : Nat) (v : Dom) : (s.setDom T d v).tcycle = s.tcycle := rfl
@[simp] theorem State.setDom_mcycle (T d : Nat) (v : Dom) : (s.setDom T d v).mcycle = s.mcycle := rfl
@[simp] theorem State.setDom_ticks (T d : Nat) (v : Dom) : (s.setDom T d v).ticks = s.ticks := rfl
@[simp] theorem State.setDom_module (T d : Nat) (v : Dom) : (s.setDom T d v).module = s.module := rfl
@[simp] theorem State.setDom_members (T d : Nat) (v : Dom) : (s.setDom T d v).members = s.members := rfl
@[simp] theorem State.setDom_snapTime (T d : Nat) (v : Dom) : (s.setDom T d v).snapTime = s.snapTime := rfl
@[simp] theorem State.setDom_mem (T d : Nat) (v : Dom) : (s.setDom T d v).mem = s.mem := rfl
@[simp] theorem State.setDom_fe (T d : Nat) (v : Dom) : (s.setDom T d v).fe = s.fe := rfl
@[simp] theorem State.setDom_slotMem (T d : Nat) (v : Dom) : (s.setDom T d v).slotMem = s.slotMem := rfl
@[simp] theorem State.setDom_acc (T d : Nat) (v : Dom) : (s.setDom T d v).acc = s.acc := rfl
@[simp] theorem State.setDom_hostMem (T d : Nat) (v : Dom) : (s.setDom T d v).hostMem = s.hostMem := rfl
@[simp] theorem State.setDom_remap (T d : Nat) (v : Dom) : (s.setDom T d v).remap = s.remap := rfl
@[simp] theorem State.setDom_buckets (T d : Nat) (v : Dom) : (s.setDom T d v).buckets = s.buckets := rfl
@[simp] theorem State.setDom_lines (T d : Nat) (v : Dom) : (s.setDom T d v).lines = s.lines := rfl
@[simp] theorem State.setDom_owned (T d : Nat) (v : Dom) : (s.setDom T d v).owned = s.owned := rfl
@[simp] theorem State.setDom_groups (T d : Nat) (v : Dom) : (s.setDom T d v).groups = s.groups := rfl
@[simp] theorem State.setDom_regs (T d : Nat) (v : Dom) : (s.setDom T d v).regs = s.regs := rfl
@[simp] theorem State.setDom_stations (T d : Nat) (v : Dom) : (s.setDom T d v).stations = s.stations := rfl
@[simp] theorem State.setDom_portSts (T d : Nat) (v : Dom) : (s.setDom T d v).portSts = s.portSts := rfl
@[simp] theorem State.setDom_routers (T d : Nat) (v : Dom) : (s.setDom T d v).routers = s.routers := rfl
@[simp] theorem State.setDom_services (T d : Nat) (v : Dom) : (s.setDom T d v).services = s.services := rfl
@[simp] theorem State.setDom_launches (T d : Nat) (v : Dom) : (s.setDom T d v).launches = s.launches := rfl
@[simp] theorem State.setDom_regions (T d : Nat) (v : Dom) : (s.setDom T d v).regions = s.regions := rfl
@[simp] theorem State.setDom_bands (T d : Nat) (v : Dom) : (s.setDom T d v).bands = s.bands := rfl
@[simp] theorem State.setDom_bad (T d : Nat) (v : Dom) : (s.setDom T d v).bad = s.bad := rfl
@[simp] theorem State.setDom_flight (T d : Nat) (v : Dom) : (s.setDom T d v).flight = s.flight := rfl
@[simp] theorem State.setDom_timers (T d : Nat) (v : Dom) : (s.setDom T d v).timers = s.timers := rfl
@[simp] theorem State.setDom_inputs (T d : Nat) (v : Dom) : (s.setDom T d v).inputs = s.inputs := rfl
@[simp] theorem State.setDom_free (T d : Nat) (v : Dom) : (s.setDom T d v).free = s.free := rfl
@[simp] theorem State.setDom_cur (T d : Nat) (v : Dom) : (s.setDom T d v).cur = s.cur := rfl
@[simp] theorem State.setDom_cursor (T d : Nat) (v : Dom) : (s.setDom T d v).cursor = s.cursor := rfl
@[simp] theorem State.setDom_log (T d : Nat) (v : Dom) : (s.setDom T d v).log = s.log := rfl

/-! ### modDom -/
@[simp] theorem State.modDom_time (T d : Nat) (f : Dom → Dom) : (s.modDom T d f).time = s.time := rfl
@[simp] theorem State.modDom_tcycle (T d : Nat) (f : Dom → Dom) : (s.modDom T d f).tcycle = s.tcycle := rfl
@[simp] theorem State.modDom_mcycle (T d : Nat) (f : Dom → Dom) : (s.modDom T d f).mcycle = s.mcycle := rfl
@[simp] theorem State.modDom_ticks (T d : Nat) (f : Dom → Dom) : (s.modDom T d f).ticks = s.ticks := rfl
@[simp] theorem State.modDom_module (T d : Nat) (f : Dom → Dom) : (s.modDom T d f).module = s.module := rfl
@[simp] theorem State.modDom_members (T d : Nat) (f : Dom → Dom) : (s.modDom T d f).members = s.members := rfl
@[simp] theorem State.modDom_snapTime (T d : Nat) (f : Dom → Dom) : (s.modDom T d f).snapTime = s.snapTime := rfl
@[simp] theorem State.modDom_mem (T d : Nat) (f : Dom → Dom) : (s.modDom T d f).mem = s.mem := rfl
@[simp] theorem State.modDom_fe (T d : Nat) (f : Dom → Dom) : (s.modDom T d f).fe = s.fe := rfl
@[simp] theorem State.modDom_slotMem (T d : Nat) (f : Dom → Dom) : (s.modDom T d f).slotMem = s.slotMem := rfl
@[simp] theorem State.modDom_acc (T d : Nat) (f : Dom → Dom) : (s.modDom T d f).acc = s.acc := rfl
@[simp] theorem State.modDom_hostMem (T d : Nat) (f : Dom → Dom) : (s.modDom T d f).hostMem = s.hostMem := rfl
@[simp] theorem State.modDom_remap (T d : Nat) (f : Dom → Dom) : (s.modDom T d f).remap = s.remap := rfl
@[simp] theorem State.modDom_buckets (T d : Nat) (f : Dom → Dom) : (s.modDom T d f).buckets = s.buckets := rfl
@[simp] theorem State.modDom_lines (T d : Nat) (f : Dom → Dom) : (s.modDom T d f).lines = s.lines := rfl
@[simp] theorem State.modDom_owned (T d : Nat) (f : Dom → Dom) : (s.modDom T d f).owned = s.owned := rfl
@[simp] theorem State.modDom_groups (T d : Nat) (f : Dom → Dom) : (s.modDom T d f).groups = s.groups := rfl
@[simp] theorem State.modDom_regs (T d : Nat) (f : Dom → Dom) : (s.modDom T d f).regs = s.regs := rfl
@[simp] theorem State.modDom_stations (T d : Nat) (f : Dom → Dom) : (s.modDom T d f).stations = s.stations := rfl
@[simp] theorem State.modDom_portSts (T d : Nat) (f : Dom → Dom) : (s.modDom T d f).portSts = s.portSts := rfl
@[simp] theorem State.modDom_routers (T d : Nat) (f : Dom → Dom) : (s.modDom T d f).routers = s.routers := rfl
@[simp] theorem State.modDom_services (T d : Nat) (f : Dom → Dom) : (s.modDom T d f).services = s.services := rfl
@[simp] theorem State.modDom_launches (T d : Nat) (f : Dom → Dom) : (s.modDom T d f).launches = s.launches := rfl
@[simp] theorem State.modDom_regions (T d : Nat) (f : Dom → Dom) : (s.modDom T d f).regions = s.regions := rfl
@[simp] theorem State.modDom_bands (T d : Nat) (f : Dom → Dom) : (s.modDom T d f).bands = s.bands := rfl
@[simp] theorem State.modDom_bad (T d : Nat) (f : Dom → Dom) : (s.modDom T d f).bad = s.bad := rfl
@[simp] theorem State.modDom_flight (T d : Nat) (f : Dom → Dom) : (s.modDom T d f).flight = s.flight := rfl
@[simp] theorem State.modDom_timers (T d : Nat) (f : Dom → Dom) : (s.modDom T d f).timers = s.timers := rfl
@[simp] theorem State.modDom_inputs (T d : Nat) (f : Dom → Dom) : (s.modDom T d f).inputs = s.inputs := rfl
@[simp] theorem State.modDom_free (T d : Nat) (f : Dom → Dom) : (s.modDom T d f).free = s.free := rfl
@[simp] theorem State.modDom_cur (T d : Nat) (f : Dom → Dom) : (s.modDom T d f).cur = s.cur := rfl
@[simp] theorem State.modDom_cursor (T d : Nat) (f : Dom → Dom) : (s.modDom T d f).cursor = s.cursor := rfl
@[simp] theorem State.modDom_log (T d : Nat) (f : Dom → Dom) : (s.modDom T d f).log = s.log := rfl

/-! ### setSlot -/
@[simp] theorem State.setSlot_time (T n : Nat) (v : Slot) : (s.setSlot T n v).time = s.time := rfl
@[simp] theorem State.setSlot_tcycle (T n : Nat) (v : Slot) : (s.setSlot T n v).tcycle = s.tcycle := rfl
@[simp] theorem State.setSlot_mcycle (T n : Nat) (v : Slot) : (s.setSlot T n v).mcycle = s.mcycle := rfl
@[simp] theorem State.setSlot_ticks (T n : Nat) (v : Slot) : (s.setSlot T n v).ticks = s.ticks := rfl
@[simp] theorem State.setSlot_module (T n : Nat) (v : Slot) : (s.setSlot T n v).module = s.module := rfl
@[simp] theorem State.setSlot_members (T n : Nat) (v : Slot) : (s.setSlot T n v).members = s.members := rfl
@[simp] theorem State.setSlot_snapTime (T n : Nat) (v : Slot) : (s.setSlot T n v).snapTime = s.snapTime := rfl
@[simp] theorem State.setSlot_mem (T n : Nat) (v : Slot) : (s.setSlot T n v).mem = s.mem := rfl
@[simp] theorem State.setSlot_fe (T n : Nat) (v : Slot) : (s.setSlot T n v).fe = s.fe := rfl
@[simp] theorem State.setSlot_slotMem (T n : Nat) (v : Slot) : (s.setSlot T n v).slotMem = s.slotMem := rfl
@[simp] theorem State.setSlot_acc (T n : Nat) (v : Slot) : (s.setSlot T n v).acc = s.acc := rfl
@[simp] theorem State.setSlot_hostMem (T n : Nat) (v : Slot) : (s.setSlot T n v).hostMem = s.hostMem := rfl
@[simp] theorem State.setSlot_remap (T n : Nat) (v : Slot) : (s.setSlot T n v).remap = s.remap := rfl
@[simp] theorem State.setSlot_buckets (T n : Nat) (v : Slot) : (s.setSlot T n v).buckets = s.buckets := rfl
@[simp] theorem State.setSlot_lines (T n : Nat) (v : Slot) : (s.setSlot T n v).lines = s.lines := rfl
@[simp] theorem State.setSlot_owned (T n : Nat) (v : Slot) : (s.setSlot T n v).owned = s.owned := rfl
@[simp] theorem State.setSlot_groups (T n : Nat) (v : Slot) : (s.setSlot T n v).groups = s.groups := rfl
@[simp] theorem State.setSlot_regs (T n : Nat) (v : Slot) : (s.setSlot T n v).regs = s.regs := rfl
@[simp] theorem State.setSlot_stations (T n : Nat) (v : Slot) : (s.setSlot T n v).stations = s.stations := rfl
@[simp] theorem State.setSlot_portSts (T n : Nat) (v : Slot) : (s.setSlot T n v).portSts = s.portSts := rfl
@[simp] theorem State.setSlot_routers (T n : Nat) (v : Slot) : (s.setSlot T n v).routers = s.routers := rfl
@[simp] theorem State.setSlot_services (T n : Nat) (v : Slot) : (s.setSlot T n v).services = s.services := rfl
@[simp] theorem State.setSlot_launches (T n : Nat) (v : Slot) : (s.setSlot T n v).launches = s.launches := rfl
@[simp] theorem State.setSlot_regions (T n : Nat) (v : Slot) : (s.setSlot T n v).regions = s.regions := rfl
@[simp] theorem State.setSlot_bands (T n : Nat) (v : Slot) : (s.setSlot T n v).bands = s.bands := rfl
@[simp] theorem State.setSlot_bad (T n : Nat) (v : Slot) : (s.setSlot T n v).bad = s.bad := rfl
@[simp] theorem State.setSlot_flight (T n : Nat) (v : Slot) : (s.setSlot T n v).flight = s.flight := rfl
@[simp] theorem State.setSlot_timers (T n : Nat) (v : Slot) : (s.setSlot T n v).timers = s.timers := rfl
@[simp] theorem State.setSlot_inputs (T n : Nat) (v : Slot) : (s.setSlot T n v).inputs = s.inputs := rfl
@[simp] theorem State.setSlot_free (T n : Nat) (v : Slot) : (s.setSlot T n v).free = s.free := rfl
@[simp] theorem State.setSlot_cur (T n : Nat) (v : Slot) : (s.setSlot T n v).cur = s.cur := rfl
@[simp] theorem State.setSlot_cursor (T n : Nat) (v : Slot) : (s.setSlot T n v).cursor = s.cursor := rfl
@[simp] theorem State.setSlot_log (T n : Nat) (v : Slot) : (s.setSlot T n v).log = s.log := rfl

/-! ### setBar -/
@[simp] theorem State.setBar_time (T b : Nat) (v : Barrier) : (s.setBar T b v).time = s.time := rfl
@[simp] theorem State.setBar_tcycle (T b : Nat) (v : Barrier) : (s.setBar T b v).tcycle = s.tcycle := rfl
@[simp] theorem State.setBar_mcycle (T b : Nat) (v : Barrier) : (s.setBar T b v).mcycle = s.mcycle := rfl
@[simp] theorem State.setBar_ticks (T b : Nat) (v : Barrier) : (s.setBar T b v).ticks = s.ticks := rfl
@[simp] theorem State.setBar_module (T b : Nat) (v : Barrier) : (s.setBar T b v).module = s.module := rfl
@[simp] theorem State.setBar_members (T b : Nat) (v : Barrier) : (s.setBar T b v).members = s.members := rfl
@[simp] theorem State.setBar_snapTime (T b : Nat) (v : Barrier) : (s.setBar T b v).snapTime = s.snapTime := rfl
@[simp] theorem State.setBar_mem (T b : Nat) (v : Barrier) : (s.setBar T b v).mem = s.mem := rfl
@[simp] theorem State.setBar_fe (T b : Nat) (v : Barrier) : (s.setBar T b v).fe = s.fe := rfl
@[simp] theorem State.setBar_slotMem (T b : Nat) (v : Barrier) : (s.setBar T b v).slotMem = s.slotMem := rfl
@[simp] theorem State.setBar_acc (T b : Nat) (v : Barrier) : (s.setBar T b v).acc = s.acc := rfl
@[simp] theorem State.setBar_hostMem (T b : Nat) (v : Barrier) : (s.setBar T b v).hostMem = s.hostMem := rfl
@[simp] theorem State.setBar_remap (T b : Nat) (v : Barrier) : (s.setBar T b v).remap = s.remap := rfl
@[simp] theorem State.setBar_buckets (T b : Nat) (v : Barrier) : (s.setBar T b v).buckets = s.buckets := rfl
@[simp] theorem State.setBar_lines (T b : Nat) (v : Barrier) : (s.setBar T b v).lines = s.lines := rfl
@[simp] theorem State.setBar_owned (T b : Nat) (v : Barrier) : (s.setBar T b v).owned = s.owned := rfl
@[simp] theorem State.setBar_groups (T b : Nat) (v : Barrier) : (s.setBar T b v).groups = s.groups := rfl
@[simp] theorem State.setBar_regs (T b : Nat) (v : Barrier) : (s.setBar T b v).regs = s.regs := rfl
@[simp] theorem State.setBar_stations (T b : Nat) (v : Barrier) : (s.setBar T b v).stations = s.stations := rfl
@[simp] theorem State.setBar_portSts (T b : Nat) (v : Barrier) : (s.setBar T b v).portSts = s.portSts := rfl
@[simp] theorem State.setBar_routers (T b : Nat) (v : Barrier) : (s.setBar T b v).routers = s.routers := rfl
@[simp] theorem State.setBar_services (T b : Nat) (v : Barrier) : (s.setBar T b v).services = s.services := rfl
@[simp] theorem State.setBar_launches (T b : Nat) (v : Barrier) : (s.setBar T b v).launches = s.launches := rfl
@[simp] theorem State.setBar_regions (T b : Nat) (v : Barrier) : (s.setBar T b v).regions = s.regions := rfl
@[simp] theorem State.setBar_bands (T b : Nat) (v : Barrier) : (s.setBar T b v).bands = s.bands := rfl
@[simp] theorem State.setBar_bad (T b : Nat) (v : Barrier) : (s.setBar T b v).bad = s.bad := rfl
@[simp] theorem State.setBar_flight (T b : Nat) (v : Barrier) : (s.setBar T b v).flight = s.flight := rfl
@[simp] theorem State.setBar_timers (T b : Nat) (v : Barrier) : (s.setBar T b v).timers = s.timers := rfl
@[simp] theorem State.setBar_inputs (T b : Nat) (v : Barrier) : (s.setBar T b v).inputs = s.inputs := rfl
@[simp] theorem State.setBar_free (T b : Nat) (v : Barrier) : (s.setBar T b v).free = s.free := rfl
@[simp] theorem State.setBar_cur (T b : Nat) (v : Barrier) : (s.setBar T b v).cur = s.cur := rfl
@[simp] theorem State.setBar_cursor (T b : Nat) (v : Barrier) : (s.setBar T b v).cursor = s.cursor := rfl
@[simp] theorem State.setBar_log (T b : Nat) (v : Barrier) : (s.setBar T b v).log = s.log := rfl

/-! ### setPort -/
@[simp] theorem State.setPort_time (T p : Nat) (v : SPort) : (s.setPort T p v).time = s.time := rfl
@[simp] theorem State.setPort_tcycle (T p : Nat) (v : SPort) : (s.setPort T p v).tcycle = s.tcycle := rfl
@[simp] theorem State.setPort_mcycle (T p : Nat) (v : SPort) : (s.setPort T p v).mcycle = s.mcycle := rfl
@[simp] theorem State.setPort_ticks (T p : Nat) (v : SPort) : (s.setPort T p v).ticks = s.ticks := rfl
@[simp] theorem State.setPort_module (T p : Nat) (v : SPort) : (s.setPort T p v).module = s.module := rfl
@[simp] theorem State.setPort_members (T p : Nat) (v : SPort) : (s.setPort T p v).members = s.members := rfl
@[simp] theorem State.setPort_snapTime (T p : Nat) (v : SPort) : (s.setPort T p v).snapTime = s.snapTime := rfl
@[simp] theorem State.setPort_mem (T p : Nat) (v : SPort) : (s.setPort T p v).mem = s.mem := rfl
@[simp] theorem State.setPort_fe (T p : Nat) (v : SPort) : (s.setPort T p v).fe = s.fe := rfl
@[simp] theorem State.setPort_slotMem (T p : Nat) (v : SPort) : (s.setPort T p v).slotMem = s.slotMem := rfl
@[simp] theorem State.setPort_acc (T p : Nat) (v : SPort) : (s.setPort T p v).acc = s.acc := rfl
@[simp] theorem State.setPort_hostMem (T p : Nat) (v : SPort) : (s.setPort T p v).hostMem = s.hostMem := rfl
@[simp] theorem State.setPort_remap (T p : Nat) (v : SPort) : (s.setPort T p v).remap = s.remap := rfl
@[simp] theorem State.setPort_buckets (T p : Nat) (v : SPort) : (s.setPort T p v).buckets = s.buckets := rfl
@[simp] theorem State.setPort_lines (T p : Nat) (v : SPort) : (s.setPort T p v).lines = s.lines := rfl
@[simp] theorem State.setPort_owned (T p : Nat) (v : SPort) : (s.setPort T p v).owned = s.owned := rfl
@[simp] theorem State.setPort_groups (T p : Nat) (v : SPort) : (s.setPort T p v).groups = s.groups := rfl
@[simp] theorem State.setPort_regs (T p : Nat) (v : SPort) : (s.setPort T p v).regs = s.regs := rfl
@[simp] theorem State.setPort_stations (T p : Nat) (v : SPort) : (s.setPort T p v).stations = s.stations := rfl
@[simp] theorem State.setPort_portSts (T p : Nat) (v : SPort) : (s.setPort T p v).portSts = s.portSts := rfl
@[simp] theorem State.setPort_routers (T p : Nat) (v : SPort) : (s.setPort T p v).routers = s.routers := rfl
@[simp] theorem State.setPort_services (T p : Nat) (v : SPort) : (s.setPort T p v).services = s.services := rfl
@[simp] theorem State.setPort_launches (T p : Nat) (v : SPort) : (s.setPort T p v).launches = s.launches := rfl
@[simp] theorem State.setPort_regions (T p : Nat) (v : SPort) : (s.setPort T p v).regions = s.regions := rfl
@[simp] theorem State.setPort_bands (T p : Nat) (v : SPort) : (s.setPort T p v).bands = s.bands := rfl
@[simp] theorem State.setPort_bad (T p : Nat) (v : SPort) : (s.setPort T p v).bad = s.bad := rfl
@[simp] theorem State.setPort_flight (T p : Nat) (v : SPort) : (s.setPort T p v).flight = s.flight := rfl
@[simp] theorem State.setPort_timers (T p : Nat) (v : SPort) : (s.setPort T p v).timers = s.timers := rfl
@[simp] theorem State.setPort_inputs (T p : Nat) (v : SPort) : (s.setPort T p v).inputs = s.inputs := rfl
@[simp] theorem State.setPort_free (T p : Nat) (v : SPort) : (s.setPort T p v).free = s.free := rfl
@[simp] theorem State.setPort_cur (T p : Nat) (v : SPort) : (s.setPort T p v).cur = s.cur := rfl
@[simp] theorem State.setPort_cursor (T p : Nat) (v : SPort) : (s.setPort T p v).cursor = s.cursor := rfl
@[simp] theorem State.setPort_log (T p : Nat) (v : SPort) : (s.setPort T p v).log = s.log := rfl

/-! ### modMe -/
@[simp] theorem State.modMe_time (f : Thread → Thread) : (s.modMe f).time = s.time := rfl
@[simp] theorem State.modMe_tcycle (f : Thread → Thread) : (s.modMe f).tcycle = s.tcycle := rfl
@[simp] theorem State.modMe_mcycle (f : Thread → Thread) : (s.modMe f).mcycle = s.mcycle := rfl
@[simp] theorem State.modMe_ticks (f : Thread → Thread) : (s.modMe f).ticks = s.ticks := rfl
@[simp] theorem State.modMe_module (f : Thread → Thread) : (s.modMe f).module = s.module := rfl
@[simp] theorem State.modMe_members (f : Thread → Thread) : (s.modMe f).members = s.members := rfl
@[simp] theorem State.modMe_snapTime (f : Thread → Thread) : (s.modMe f).snapTime = s.snapTime := rfl
@[simp] theorem State.modMe_mem (f : Thread → Thread) : (s.modMe f).mem = s.mem := rfl
@[simp] theorem State.modMe_fe (f : Thread → Thread) : (s.modMe f).fe = s.fe := rfl
@[simp] theorem State.modMe_slotMem (f : Thread → Thread) : (s.modMe f).slotMem = s.slotMem := rfl
@[simp] theorem State.modMe_acc (f : Thread → Thread) : (s.modMe f).acc = s.acc := rfl
@[simp] theorem State.modMe_hostMem (f : Thread → Thread) : (s.modMe f).hostMem = s.hostMem := rfl
@[simp] theorem State.modMe_remap (f : Thread → Thread) : (s.modMe f).remap = s.remap := rfl
@[simp] theorem State.modMe_buckets (f : Thread → Thread) : (s.modMe f).buckets = s.buckets := rfl
@[simp] theorem State.modMe_lines (f : Thread → Thread) : (s.modMe f).lines = s.lines := rfl
@[simp] theorem State.modMe_owned (f : Thread → Thread) : (s.modMe f).owned = s.owned := rfl
@[simp] theorem State.modMe_groups (f : Thread → Thread) : (s.modMe f).groups = s.groups := rfl
@[simp] theorem State.modMe_regs (f : Thread → Thread) : (s.modMe f).regs = s.regs := rfl
@[simp] theorem State.modMe_stations (f : Thread → Thread) : (s.modMe f).stations = s.stations := rfl
@[simp] theorem State.modMe_portSts (f : Thread → Thread) : (s.modMe f).portSts = s.portSts := rfl
@[simp] theorem State.modMe_routers (f : Thread → Thread) : (s.modMe f).routers = s.routers := rfl
@[simp] theorem State.modMe_services (f : Thread → Thread) : (s.modMe f).services = s.services := rfl
@[simp] theorem State.modMe_launches (f : Thread → Thread) : (s.modMe f).launches = s.launches := rfl
@[simp] theorem State.modMe_regions (f : Thread → Thread) : (s.modMe f).regions = s.regions := rfl
@[simp] theorem State.modMe_bands (f : Thread → Thread) : (s.modMe f).bands = s.bands := rfl
@[simp] theorem State.modMe_bad (f : Thread → Thread) : (s.modMe f).bad = s.bad := rfl
@[simp] theorem State.modMe_flight (f : Thread → Thread) : (s.modMe f).flight = s.flight := rfl
@[simp] theorem State.modMe_timers (f : Thread → Thread) : (s.modMe f).timers = s.timers := rfl
@[simp] theorem State.modMe_inputs (f : Thread → Thread) : (s.modMe f).inputs = s.inputs := rfl
@[simp] theorem State.modMe_free (f : Thread → Thread) : (s.modMe f).free = s.free := rfl
@[simp] theorem State.modMe_cur (f : Thread → Thread) : (s.modMe f).cur = s.cur := rfl
@[simp] theorem State.modMe_cursor (f : Thread → Thread) : (s.modMe f).cursor = s.cursor := rfl
@[simp] theorem State.modMe_log (f : Thread → Thread) : (s.modMe f).log = s.log := rfl

/-! ### wx -/
@[simp] theorem State.wx_time (r : XReg) (v : W64) : (s.wx r v).time = s.time := rfl
@[simp] theorem State.wx_tcycle (r : XReg) (v : W64) : (s.wx r v).tcycle = s.tcycle := rfl
@[simp] theorem State.wx_mcycle (r : XReg) (v : W64) : (s.wx r v).mcycle = s.mcycle := rfl
@[simp] theorem State.wx_ticks (r : XReg) (v : W64) : (s.wx r v).ticks = s.ticks := rfl
@[simp] theorem State.wx_module (r : XReg) (v : W64) : (s.wx r v).module = s.module := rfl
@[simp] theorem State.wx_members (r : XReg) (v : W64) : (s.wx r v).members = s.members := rfl
@[simp] theorem State.wx_snapTime (r : XReg) (v : W64) : (s.wx r v).snapTime = s.snapTime := rfl
@[simp] theorem State.wx_mem (r : XReg) (v : W64) : (s.wx r v).mem = s.mem := rfl
@[simp] theorem State.wx_fe (r : XReg) (v : W64) : (s.wx r v).fe = s.fe := rfl
@[simp] theorem State.wx_slotMem (r : XReg) (v : W64) : (s.wx r v).slotMem = s.slotMem := rfl
@[simp] theorem State.wx_acc (r : XReg) (v : W64) : (s.wx r v).acc = s.acc := rfl
@[simp] theorem State.wx_hostMem (r : XReg) (v : W64) : (s.wx r v).hostMem = s.hostMem := rfl
@[simp] theorem State.wx_remap (r : XReg) (v : W64) : (s.wx r v).remap = s.remap := rfl
@[simp] theorem State.wx_buckets (r : XReg) (v : W64) : (s.wx r v).buckets = s.buckets := rfl
@[simp] theorem State.wx_lines (r : XReg) (v : W64) : (s.wx r v).lines = s.lines := rfl
@[simp] theorem State.wx_owned (r : XReg) (v : W64) : (s.wx r v).owned = s.owned := rfl
@[simp] theorem State.wx_groups (r : XReg) (v : W64) : (s.wx r v).groups = s.groups := rfl
@[simp] theorem State.wx_regs (r : XReg) (v : W64) : (s.wx r v).regs = s.regs := rfl
@[simp] theorem State.wx_stations (r : XReg) (v : W64) : (s.wx r v).stations = s.stations := rfl
@[simp] theorem State.wx_portSts (r : XReg) (v : W64) : (s.wx r v).portSts = s.portSts := rfl
@[simp] theorem State.wx_routers (r : XReg) (v : W64) : (s.wx r v).routers = s.routers := rfl
@[simp] theorem State.wx_services (r : XReg) (v : W64) : (s.wx r v).services = s.services := rfl
@[simp] theorem State.wx_launches (r : XReg) (v : W64) : (s.wx r v).launches = s.launches := rfl
@[simp] theorem State.wx_regions (r : XReg) (v : W64) : (s.wx r v).regions = s.regions := rfl
@[simp] theorem State.wx_bands (r : XReg) (v : W64) : (s.wx r v).bands = s.bands := rfl
@[simp] theorem State.wx_bad (r : XReg) (v : W64) : (s.wx r v).bad = s.bad := rfl
@[simp] theorem State.wx_flight (r : XReg) (v : W64) : (s.wx r v).flight = s.flight := rfl
@[simp] theorem State.wx_timers (r : XReg) (v : W64) : (s.wx r v).timers = s.timers := rfl
@[simp] theorem State.wx_inputs (r : XReg) (v : W64) : (s.wx r v).inputs = s.inputs := rfl
@[simp] theorem State.wx_free (r : XReg) (v : W64) : (s.wx r v).free = s.free := rfl
@[simp] theorem State.wx_cur (r : XReg) (v : W64) : (s.wx r v).cur = s.cur := rfl
@[simp] theorem State.wx_cursor (r : XReg) (v : W64) : (s.wx r v).cursor = s.cursor := rfl
@[simp] theorem State.wx_log (r : XReg) (v : W64) : (s.wx r v).log = s.log := rfl

/-! ### wp -/
@[simp] theorem State.wp_time (p : PReg) (v : Bool) : (s.wp p v).time = s.time := rfl
@[simp] theorem State.wp_tcycle (p : PReg) (v : Bool) : (s.wp p v).tcycle = s.tcycle := rfl
@[simp] theorem State.wp_mcycle (p : PReg) (v : Bool) : (s.wp p v).mcycle = s.mcycle := rfl
@[simp] theorem State.wp_ticks (p : PReg) (v : Bool) : (s.wp p v).ticks = s.ticks := rfl
@[simp] theorem State.wp_module (p : PReg) (v : Bool) : (s.wp p v).module = s.module := rfl
@[simp] theorem State.wp_members (p : PReg) (v : Bool) : (s.wp p v).members = s.members := rfl
@[simp] theorem State.wp_snapTime (p : PReg) (v : Bool) : (s.wp p v).snapTime = s.snapTime := rfl
@[simp] theorem State.wp_mem (p : PReg) (v : Bool) : (s.wp p v).mem = s.mem := rfl
@[simp] theorem State.wp_fe (p : PReg) (v : Bool) : (s.wp p v).fe = s.fe := rfl
@[simp] theorem State.wp_slotMem (p : PReg) (v : Bool) : (s.wp p v).slotMem = s.slotMem := rfl
@[simp] theorem State.wp_acc (p : PReg) (v : Bool) : (s.wp p v).acc = s.acc := rfl
@[simp] theorem State.wp_hostMem (p : PReg) (v : Bool) : (s.wp p v).hostMem = s.hostMem := rfl
@[simp] theorem State.wp_remap (p : PReg) (v : Bool) : (s.wp p v).remap = s.remap := rfl
@[simp] theorem State.wp_buckets (p : PReg) (v : Bool) : (s.wp p v).buckets = s.buckets := rfl
@[simp] theorem State.wp_lines (p : PReg) (v : Bool) : (s.wp p v).lines = s.lines := rfl
@[simp] theorem State.wp_owned (p : PReg) (v : Bool) : (s.wp p v).owned = s.owned := rfl
@[simp] theorem State.wp_groups (p : PReg) (v : Bool) : (s.wp p v).groups = s.groups := rfl
@[simp] theorem State.wp_regs (p : PReg) (v : Bool) : (s.wp p v).regs = s.regs := rfl
@[simp] theorem State.wp_stations (p : PReg) (v : Bool) : (s.wp p v).stations = s.stations := rfl
@[simp] theorem State.wp_portSts (p : PReg) (v : Bool) : (s.wp p v).portSts = s.portSts := rfl
@[simp] theorem State.wp_routers (p : PReg) (v : Bool) : (s.wp p v).routers = s.routers := rfl
@[simp] theorem State.wp_services (p : PReg) (v : Bool) : (s.wp p v).services = s.services := rfl
@[simp] theorem State.wp_launches (p : PReg) (v : Bool) : (s.wp p v).launches = s.launches := rfl
@[simp] theorem State.wp_regions (p : PReg) (v : Bool) : (s.wp p v).regions = s.regions := rfl
@[simp] theorem State.wp_bands (p : PReg) (v : Bool) : (s.wp p v).bands = s.bands := rfl
@[simp] theorem State.wp_bad (p : PReg) (v : Bool) : (s.wp p v).bad = s.bad := rfl
@[simp] theorem State.wp_flight (p : PReg) (v : Bool) : (s.wp p v).flight = s.flight := rfl
@[simp] theorem State.wp_timers (p : PReg) (v : Bool) : (s.wp p v).timers = s.timers := rfl
@[simp] theorem State.wp_inputs (p : PReg) (v : Bool) : (s.wp p v).inputs = s.inputs := rfl
@[simp] theorem State.wp_free (p : PReg) (v : Bool) : (s.wp p v).free = s.free := rfl
@[simp] theorem State.wp_cur (p : PReg) (v : Bool) : (s.wp p v).cur = s.cur := rfl
@[simp] theorem State.wp_cursor (p : PReg) (v : Bool) : (s.wp p v).cursor = s.cursor := rfl
@[simp] theorem State.wp_log (p : PReg) (v : Bool) : (s.wp p v).log = s.log := rfl

/-! ### goto -/
@[simp] theorem State.goto_time (pc : W64) : (s.goto pc).time = s.time := rfl
@[simp] theorem State.goto_tcycle (pc : W64) : (s.goto pc).tcycle = s.tcycle := rfl
@[simp] theorem State.goto_mcycle (pc : W64) : (s.goto pc).mcycle = s.mcycle := rfl
@[simp] theorem State.goto_ticks (pc : W64) : (s.goto pc).ticks = s.ticks := rfl
@[simp] theorem State.goto_module (pc : W64) : (s.goto pc).module = s.module := rfl
@[simp] theorem State.goto_members (pc : W64) : (s.goto pc).members = s.members := rfl
@[simp] theorem State.goto_snapTime (pc : W64) : (s.goto pc).snapTime = s.snapTime := rfl
@[simp] theorem State.goto_mem (pc : W64) : (s.goto pc).mem = s.mem := rfl
@[simp] theorem State.goto_fe (pc : W64) : (s.goto pc).fe = s.fe := rfl
@[simp] theorem State.goto_slotMem (pc : W64) : (s.goto pc).slotMem = s.slotMem := rfl
@[simp] theorem State.goto_acc (pc : W64) : (s.goto pc).acc = s.acc := rfl
@[simp] theorem State.goto_hostMem (pc : W64) : (s.goto pc).hostMem = s.hostMem := rfl
@[simp] theorem State.goto_remap (pc : W64) : (s.goto pc).remap = s.remap := rfl
@[simp] theorem State.goto_buckets (pc : W64) : (s.goto pc).buckets = s.buckets := rfl
@[simp] theorem State.goto_lines (pc : W64) : (s.goto pc).lines = s.lines := rfl
@[simp] theorem State.goto_owned (pc : W64) : (s.goto pc).owned = s.owned := rfl
@[simp] theorem State.goto_groups (pc : W64) : (s.goto pc).groups = s.groups := rfl
@[simp] theorem State.goto_regs (pc : W64) : (s.goto pc).regs = s.regs := rfl
@[simp] theorem State.goto_stations (pc : W64) : (s.goto pc).stations = s.stations := rfl
@[simp] theorem State.goto_portSts (pc : W64) : (s.goto pc).portSts = s.portSts := rfl
@[simp] theorem State.goto_routers (pc : W64) : (s.goto pc).routers = s.routers := rfl
@[simp] theorem State.goto_services (pc : W64) : (s.goto pc).services = s.services := rfl
@[simp] theorem State.goto_launches (pc : W64) : (s.goto pc).launches = s.launches := rfl
@[simp] theorem State.goto_regions (pc : W64) : (s.goto pc).regions = s.regions := rfl
@[simp] theorem State.goto_bands (pc : W64) : (s.goto pc).bands = s.bands := rfl
@[simp] theorem State.goto_bad (pc : W64) : (s.goto pc).bad = s.bad := rfl
@[simp] theorem State.goto_flight (pc : W64) : (s.goto pc).flight = s.flight := rfl
@[simp] theorem State.goto_timers (pc : W64) : (s.goto pc).timers = s.timers := rfl
@[simp] theorem State.goto_inputs (pc : W64) : (s.goto pc).inputs = s.inputs := rfl
@[simp] theorem State.goto_free (pc : W64) : (s.goto pc).free = s.free := rfl
@[simp] theorem State.goto_cur (pc : W64) : (s.goto pc).cur = s.cur := rfl
@[simp] theorem State.goto_cursor (pc : W64) : (s.goto pc).cursor = s.cursor := rfl
@[simp] theorem State.goto_log (pc : W64) : (s.goto pc).log = s.log := rfl

/-! ### advance -/
@[simp] theorem State.advance_time : (s.advance).time = s.time := rfl
@[simp] theorem State.advance_tcycle : (s.advance).tcycle = s.tcycle := rfl
@[simp] theorem State.advance_mcycle : (s.advance).mcycle = s.mcycle := rfl
@[simp] theorem State.advance_ticks : (s.advance).ticks = s.ticks := rfl
@[simp] theorem State.advance_module : (s.advance).module = s.module := rfl
@[simp] theorem State.advance_members : (s.advance).members = s.members := rfl
@[simp] theorem State.advance_snapTime : (s.advance).snapTime = s.snapTime := rfl
@[simp] theorem State.advance_mem : (s.advance).mem = s.mem := rfl
@[simp] theorem State.advance_fe : (s.advance).fe = s.fe := rfl
@[simp] theorem State.advance_slotMem : (s.advance).slotMem = s.slotMem := rfl
@[simp] theorem State.advance_acc : (s.advance).acc = s.acc := rfl
@[simp] theorem State.advance_hostMem : (s.advance).hostMem = s.hostMem := rfl
@[simp] theorem State.advance_remap : (s.advance).remap = s.remap := rfl
@[simp] theorem State.advance_buckets : (s.advance).buckets = s.buckets := rfl
@[simp] theorem State.advance_lines : (s.advance).lines = s.lines := rfl
@[simp] theorem State.advance_owned : (s.advance).owned = s.owned := rfl
@[simp] theorem State.advance_groups : (s.advance).groups = s.groups := rfl
@[simp] theorem State.advance_regs : (s.advance).regs = s.regs := rfl
@[simp] theorem State.advance_stations : (s.advance).stations = s.stations := rfl
@[simp] theorem State.advance_portSts : (s.advance).portSts = s.portSts := rfl
@[simp] theorem State.advance_routers : (s.advance).routers = s.routers := rfl
@[simp] theorem State.advance_services : (s.advance).services = s.services := rfl
@[simp] theorem State.advance_launches : (s.advance).launches = s.launches := rfl
@[simp] theorem State.advance_regions : (s.advance).regions = s.regions := rfl
@[simp] theorem State.advance_bands : (s.advance).bands = s.bands := rfl
@[simp] theorem State.advance_bad : (s.advance).bad = s.bad := rfl
@[simp] theorem State.advance_flight : (s.advance).flight = s.flight := rfl
@[simp] theorem State.advance_timers : (s.advance).timers = s.timers := rfl
@[simp] theorem State.advance_inputs : (s.advance).inputs = s.inputs := rfl
@[simp] theorem State.advance_free : (s.advance).free = s.free := rfl
@[simp] theorem State.advance_cur : (s.advance).cur = s.cur := rfl
@[simp] theorem State.advance_cursor : (s.advance).cursor = s.cursor := rfl
@[simp] theorem State.advance_log : (s.advance).log = s.log := rfl

/-! ### park -/
@[simp] theorem State.park_time (i : Instr) (w : Wait) : (s.park i w).time = s.time := rfl
@[simp] theorem State.park_tcycle (i : Instr) (w : Wait) : (s.park i w).tcycle = s.tcycle := rfl
@[simp] theorem State.park_mcycle (i : Instr) (w : Wait) : (s.park i w).mcycle = s.mcycle := rfl
@[simp] theorem State.park_ticks (i : Instr) (w : Wait) : (s.park i w).ticks = s.ticks := rfl
@[simp] theorem State.park_module (i : Instr) (w : Wait) : (s.park i w).module = s.module := rfl
@[simp] theorem State.park_members (i : Instr) (w : Wait) : (s.park i w).members = s.members := rfl
@[simp] theorem State.park_snapTime (i : Instr) (w : Wait) : (s.park i w).snapTime = s.snapTime := rfl
@[simp] theorem State.park_mem (i : Instr) (w : Wait) : (s.park i w).mem = s.mem := rfl
@[simp] theorem State.park_fe (i : Instr) (w : Wait) : (s.park i w).fe = s.fe := rfl
@[simp] theorem State.park_slotMem (i : Instr) (w : Wait) : (s.park i w).slotMem = s.slotMem := rfl
@[simp] theorem State.park_acc (i : Instr) (w : Wait) : (s.park i w).acc = s.acc := rfl
@[simp] theorem State.park_hostMem (i : Instr) (w : Wait) : (s.park i w).hostMem = s.hostMem := rfl
@[simp] theorem State.park_remap (i : Instr) (w : Wait) : (s.park i w).remap = s.remap := rfl
@[simp] theorem State.park_buckets (i : Instr) (w : Wait) : (s.park i w).buckets = s.buckets := rfl
@[simp] theorem State.park_lines (i : Instr) (w : Wait) : (s.park i w).lines = s.lines := rfl
@[simp] theorem State.park_owned (i : Instr) (w : Wait) : (s.park i w).owned = s.owned := rfl
@[simp] theorem State.park_groups (i : Instr) (w : Wait) : (s.park i w).groups = s.groups := rfl
@[simp] theorem State.park_regs (i : Instr) (w : Wait) : (s.park i w).regs = s.regs := rfl
@[simp] theorem State.park_stations (i : Instr) (w : Wait) : (s.park i w).stations = s.stations := rfl
@[simp] theorem State.park_portSts (i : Instr) (w : Wait) : (s.park i w).portSts = s.portSts := rfl
@[simp] theorem State.park_routers (i : Instr) (w : Wait) : (s.park i w).routers = s.routers := rfl
@[simp] theorem State.park_services (i : Instr) (w : Wait) : (s.park i w).services = s.services := rfl
@[simp] theorem State.park_launches (i : Instr) (w : Wait) : (s.park i w).launches = s.launches := rfl
@[simp] theorem State.park_regions (i : Instr) (w : Wait) : (s.park i w).regions = s.regions := rfl
@[simp] theorem State.park_bands (i : Instr) (w : Wait) : (s.park i w).bands = s.bands := rfl
@[simp] theorem State.park_bad (i : Instr) (w : Wait) : (s.park i w).bad = s.bad := rfl
@[simp] theorem State.park_flight (i : Instr) (w : Wait) : (s.park i w).flight = s.flight := rfl
@[simp] theorem State.park_timers (i : Instr) (w : Wait) : (s.park i w).timers = s.timers := rfl
@[simp] theorem State.park_inputs (i : Instr) (w : Wait) : (s.park i w).inputs = s.inputs := rfl
@[simp] theorem State.park_free (i : Instr) (w : Wait) : (s.park i w).free = s.free := rfl
@[simp] theorem State.park_cur (i : Instr) (w : Wait) : (s.park i w).cur = s.cur := rfl
@[simp] theorem State.park_cursor (i : Instr) (w : Wait) : (s.park i w).cursor = s.cursor := rfl
@[simp] theorem State.park_log (i : Instr) (w : Wait) : (s.park i w).log = s.log := rfl

/-! ### finish -/
@[simp] theorem State.finish_time (T h : Nat) (f : Thread → Thread) : (s.finish T h f).time = s.time := rfl
@[simp] theorem State.finish_tcycle (T h : Nat) (f : Thread → Thread) : (s.finish T h f).tcycle = s.tcycle := rfl
@[simp] theorem State.finish_mcycle (T h : Nat) (f : Thread → Thread) : (s.finish T h f).mcycle = s.mcycle := rfl
@[simp] theorem State.finish_ticks (T h : Nat) (f : Thread → Thread) : (s.finish T h f).ticks = s.ticks := rfl
@[simp] theorem State.finish_module (T h : Nat) (f : Thread → Thread) : (s.finish T h f).module = s.module := rfl
@[simp] theorem State.finish_members (T h : Nat) (f : Thread → Thread) : (s.finish T h f).members = s.members := rfl
@[simp] theorem State.finish_snapTime (T h : Nat) (f : Thread → Thread) : (s.finish T h f).snapTime = s.snapTime := rfl
@[simp] theorem State.finish_mem (T h : Nat) (f : Thread → Thread) : (s.finish T h f).mem = s.mem := rfl
@[simp] theorem State.finish_fe (T h : Nat) (f : Thread → Thread) : (s.finish T h f).fe = s.fe := rfl
@[simp] theorem State.finish_slotMem (T h : Nat) (f : Thread → Thread) : (s.finish T h f).slotMem = s.slotMem := rfl
@[simp] theorem State.finish_acc (T h : Nat) (f : Thread → Thread) : (s.finish T h f).acc = s.acc := rfl
@[simp] theorem State.finish_hostMem (T h : Nat) (f : Thread → Thread) : (s.finish T h f).hostMem = s.hostMem := rfl
@[simp] theorem State.finish_remap (T h : Nat) (f : Thread → Thread) : (s.finish T h f).remap = s.remap := rfl
@[simp] theorem State.finish_buckets (T h : Nat) (f : Thread → Thread) : (s.finish T h f).buckets = s.buckets := rfl
@[simp] theorem State.finish_lines (T h : Nat) (f : Thread → Thread) : (s.finish T h f).lines = s.lines := rfl
@[simp] theorem State.finish_owned (T h : Nat) (f : Thread → Thread) : (s.finish T h f).owned = s.owned := rfl
@[simp] theorem State.finish_groups (T h : Nat) (f : Thread → Thread) : (s.finish T h f).groups = s.groups := rfl
@[simp] theorem State.finish_regs (T h : Nat) (f : Thread → Thread) : (s.finish T h f).regs = s.regs := rfl
@[simp] theorem State.finish_stations (T h : Nat) (f : Thread → Thread) : (s.finish T h f).stations = s.stations := rfl
@[simp] theorem State.finish_portSts (T h : Nat) (f : Thread → Thread) : (s.finish T h f).portSts = s.portSts := rfl
@[simp] theorem State.finish_routers (T h : Nat) (f : Thread → Thread) : (s.finish T h f).routers = s.routers := rfl
@[simp] theorem State.finish_services (T h : Nat) (f : Thread → Thread) : (s.finish T h f).services = s.services := rfl
@[simp] theorem State.finish_launches (T h : Nat) (f : Thread → Thread) : (s.finish T h f).launches = s.launches := rfl
@[simp] theorem State.finish_regions (T h : Nat) (f : Thread → Thread) : (s.finish T h f).regions = s.regions := rfl
@[simp] theorem State.finish_bands (T h : Nat) (f : Thread → Thread) : (s.finish T h f).bands = s.bands := rfl
@[simp] theorem State.finish_bad (T h : Nat) (f : Thread → Thread) : (s.finish T h f).bad = s.bad := rfl
@[simp] theorem State.finish_flight (T h : Nat) (f : Thread → Thread) : (s.finish T h f).flight = s.flight := rfl
@[simp] theorem State.finish_timers (T h : Nat) (f : Thread → Thread) : (s.finish T h f).timers = s.timers := rfl
@[simp] theorem State.finish_inputs (T h : Nat) (f : Thread → Thread) : (s.finish T h f).inputs = s.inputs := rfl
@[simp] theorem State.finish_free (T h : Nat) (f : Thread → Thread) : (s.finish T h f).free = s.free := rfl
@[simp] theorem State.finish_cur (T h : Nat) (f : Thread → Thread) : (s.finish T h f).cur = s.cur := rfl
@[simp] theorem State.finish_cursor (T h : Nat) (f : Thread → Thread) : (s.finish T h f).cursor = s.cursor := rfl
@[simp] theorem State.finish_log (T h : Nat) (f : Thread → Thread) : (s.finish T h f).log = s.log := rfl

/-! ### modStation -/
@[simp] theorem State.modStation_time (n : Nat) (f : Station → Station) : (s.modStation n f).time = s.time := rfl
@[simp] theorem State.modStation_tcycle (n : Nat) (f : Station → Station) : (s.modStation n f).tcycle = s.tcycle := rfl
@[simp] theorem State.modStation_mcycle (n : Nat) (f : Station → Station) : (s.modStation n f).mcycle = s.mcycle := rfl
@[simp] theorem State.modStation_ticks (n : Nat) (f : Station → Station) : (s.modStation n f).ticks = s.ticks := rfl
@[simp] theorem State.modStation_module (n : Nat) (f : Station → Station) : (s.modStation n f).module = s.module := rfl
@[simp] theorem State.modStation_members (n : Nat) (f : Station → Station) : (s.modStation n f).members = s.members := rfl
@[simp] theorem State.modStation_snapTime (n : Nat) (f : Station → Station) : (s.modStation n f).snapTime = s.snapTime := rfl
@[simp] theorem State.modStation_mem (n : Nat) (f : Station → Station) : (s.modStation n f).mem = s.mem := rfl
@[simp] theorem State.modStation_fe (n : Nat) (f : Station → Station) : (s.modStation n f).fe = s.fe := rfl
@[simp] theorem State.modStation_slotMem (n : Nat) (f : Station → Station) : (s.modStation n f).slotMem = s.slotMem := rfl
@[simp] theorem State.modStation_acc (n : Nat) (f : Station → Station) : (s.modStation n f).acc = s.acc := rfl
@[simp] theorem State.modStation_hostMem (n : Nat) (f : Station → Station) : (s.modStation n f).hostMem = s.hostMem := rfl
@[simp] theorem State.modStation_remap (n : Nat) (f : Station → Station) : (s.modStation n f).remap = s.remap := rfl
@[simp] theorem State.modStation_buckets (n : Nat) (f : Station → Station) : (s.modStation n f).buckets = s.buckets := rfl
@[simp] theorem State.modStation_lines (n : Nat) (f : Station → Station) : (s.modStation n f).lines = s.lines := rfl
@[simp] theorem State.modStation_owned (n : Nat) (f : Station → Station) : (s.modStation n f).owned = s.owned := rfl
@[simp] theorem State.modStation_groups (n : Nat) (f : Station → Station) : (s.modStation n f).groups = s.groups := rfl
@[simp] theorem State.modStation_regs (n : Nat) (f : Station → Station) : (s.modStation n f).regs = s.regs := rfl
@[simp] theorem State.modStation_portSts (n : Nat) (f : Station → Station) : (s.modStation n f).portSts = s.portSts := rfl
@[simp] theorem State.modStation_routers (n : Nat) (f : Station → Station) : (s.modStation n f).routers = s.routers := rfl
@[simp] theorem State.modStation_services (n : Nat) (f : Station → Station) : (s.modStation n f).services = s.services := rfl
@[simp] theorem State.modStation_launches (n : Nat) (f : Station → Station) : (s.modStation n f).launches = s.launches := rfl
@[simp] theorem State.modStation_regions (n : Nat) (f : Station → Station) : (s.modStation n f).regions = s.regions := rfl
@[simp] theorem State.modStation_bands (n : Nat) (f : Station → Station) : (s.modStation n f).bands = s.bands := rfl
@[simp] theorem State.modStation_bad (n : Nat) (f : Station → Station) : (s.modStation n f).bad = s.bad := rfl
@[simp] theorem State.modStation_flight (n : Nat) (f : Station → Station) : (s.modStation n f).flight = s.flight := rfl
@[simp] theorem State.modStation_timers (n : Nat) (f : Station → Station) : (s.modStation n f).timers = s.timers := rfl
@[simp] theorem State.modStation_inputs (n : Nat) (f : Station → Station) : (s.modStation n f).inputs = s.inputs := rfl
@[simp] theorem State.modStation_free (n : Nat) (f : Station → Station) : (s.modStation n f).free = s.free := rfl
@[simp] theorem State.modStation_cur (n : Nat) (f : Station → Station) : (s.modStation n f).cur = s.cur := rfl
@[simp] theorem State.modStation_cursor (n : Nat) (f : Station → Station) : (s.modStation n f).cursor = s.cursor := rfl
@[simp] theorem State.modStation_log (n : Nat) (f : Station → Station) : (s.modStation n f).log = s.log := rfl

/-! ### modPortSt -/
@[simp] theorem State.modPortSt_time (p : Nat) (f : PortSt → PortSt) : (s.modPortSt p f).time = s.time := rfl
@[simp] theorem State.modPortSt_tcycle (p : Nat) (f : PortSt → PortSt) : (s.modPortSt p f).tcycle = s.tcycle := rfl
@[simp] theorem State.modPortSt_mcycle (p : Nat) (f : PortSt → PortSt) : (s.modPortSt p f).mcycle = s.mcycle := rfl
@[simp] theorem State.modPortSt_ticks (p : Nat) (f : PortSt → PortSt) : (s.modPortSt p f).ticks = s.ticks := rfl
@[simp] theorem State.modPortSt_module (p : Nat) (f : PortSt → PortSt) : (s.modPortSt p f).module = s.module := rfl
@[simp] theorem State.modPortSt_members (p : Nat) (f : PortSt → PortSt) : (s.modPortSt p f).members = s.members := rfl
@[simp] theorem State.modPortSt_snapTime (p : Nat) (f : PortSt → PortSt) : (s.modPortSt p f).snapTime = s.snapTime := rfl
@[simp] theorem State.modPortSt_mem (p : Nat) (f : PortSt → PortSt) : (s.modPortSt p f).mem = s.mem := rfl
@[simp] theorem State.modPortSt_fe (p : Nat) (f : PortSt → PortSt) : (s.modPortSt p f).fe = s.fe := rfl
@[simp] theorem State.modPortSt_slotMem (p : Nat) (f : PortSt → PortSt) : (s.modPortSt p f).slotMem = s.slotMem := rfl
@[simp] theorem State.modPortSt_acc (p : Nat) (f : PortSt → PortSt) : (s.modPortSt p f).acc = s.acc := rfl
@[simp] theorem State.modPortSt_hostMem (p : Nat) (f : PortSt → PortSt) : (s.modPortSt p f).hostMem = s.hostMem := rfl
@[simp] theorem State.modPortSt_remap (p : Nat) (f : PortSt → PortSt) : (s.modPortSt p f).remap = s.remap := rfl
@[simp] theorem State.modPortSt_buckets (p : Nat) (f : PortSt → PortSt) : (s.modPortSt p f).buckets = s.buckets := rfl
@[simp] theorem State.modPortSt_lines (p : Nat) (f : PortSt → PortSt) : (s.modPortSt p f).lines = s.lines := rfl
@[simp] theorem State.modPortSt_owned (p : Nat) (f : PortSt → PortSt) : (s.modPortSt p f).owned = s.owned := rfl
@[simp] theorem State.modPortSt_groups (p : Nat) (f : PortSt → PortSt) : (s.modPortSt p f).groups = s.groups := rfl
@[simp] theorem State.modPortSt_regs (p : Nat) (f : PortSt → PortSt) : (s.modPortSt p f).regs = s.regs := rfl
@[simp] theorem State.modPortSt_stations (p : Nat) (f : PortSt → PortSt) : (s.modPortSt p f).stations = s.stations := rfl
@[simp] theorem State.modPortSt_routers (p : Nat) (f : PortSt → PortSt) : (s.modPortSt p f).routers = s.routers := rfl
@[simp] theorem State.modPortSt_services (p : Nat) (f : PortSt → PortSt) : (s.modPortSt p f).services = s.services := rfl
@[simp] theorem State.modPortSt_launches (p : Nat) (f : PortSt → PortSt) : (s.modPortSt p f).launches = s.launches := rfl
@[simp] theorem State.modPortSt_regions (p : Nat) (f : PortSt → PortSt) : (s.modPortSt p f).regions = s.regions := rfl
@[simp] theorem State.modPortSt_bands (p : Nat) (f : PortSt → PortSt) : (s.modPortSt p f).bands = s.bands := rfl
@[simp] theorem State.modPortSt_bad (p : Nat) (f : PortSt → PortSt) : (s.modPortSt p f).bad = s.bad := rfl
@[simp] theorem State.modPortSt_flight (p : Nat) (f : PortSt → PortSt) : (s.modPortSt p f).flight = s.flight := rfl
@[simp] theorem State.modPortSt_timers (p : Nat) (f : PortSt → PortSt) : (s.modPortSt p f).timers = s.timers := rfl
@[simp] theorem State.modPortSt_inputs (p : Nat) (f : PortSt → PortSt) : (s.modPortSt p f).inputs = s.inputs := rfl
@[simp] theorem State.modPortSt_free (p : Nat) (f : PortSt → PortSt) : (s.modPortSt p f).free = s.free := rfl
@[simp] theorem State.modPortSt_cur (p : Nat) (f : PortSt → PortSt) : (s.modPortSt p f).cur = s.cur := rfl
@[simp] theorem State.modPortSt_cursor (p : Nat) (f : PortSt → PortSt) : (s.modPortSt p f).cursor = s.cursor := rfl
@[simp] theorem State.modPortSt_log (p : Nat) (f : PortSt → PortSt) : (s.modPortSt p f).log = s.log := rfl

/-! ### modRouter -/
@[simp] theorem State.modRouter_time (r : Nat) (f : Router → Router) : (s.modRouter r f).time = s.time := rfl
@[simp] theorem State.modRouter_tcycle (r : Nat) (f : Router → Router) : (s.modRouter r f).tcycle = s.tcycle := rfl
@[simp] theorem State.modRouter_mcycle (r : Nat) (f : Router → Router) : (s.modRouter r f).mcycle = s.mcycle := rfl
@[simp] theorem State.modRouter_ticks (r : Nat) (f : Router → Router) : (s.modRouter r f).ticks = s.ticks := rfl
@[simp] theorem State.modRouter_module (r : Nat) (f : Router → Router) : (s.modRouter r f).module = s.module := rfl
@[simp] theorem State.modRouter_members (r : Nat) (f : Router → Router) : (s.modRouter r f).members = s.members := rfl
@[simp] theorem State.modRouter_snapTime (r : Nat) (f : Router → Router) : (s.modRouter r f).snapTime = s.snapTime := rfl
@[simp] theorem State.modRouter_mem (r : Nat) (f : Router → Router) : (s.modRouter r f).mem = s.mem := rfl
@[simp] theorem State.modRouter_fe (r : Nat) (f : Router → Router) : (s.modRouter r f).fe = s.fe := rfl
@[simp] theorem State.modRouter_slotMem (r : Nat) (f : Router → Router) : (s.modRouter r f).slotMem = s.slotMem := rfl
@[simp] theorem State.modRouter_acc (r : Nat) (f : Router → Router) : (s.modRouter r f).acc = s.acc := rfl
@[simp] theorem State.modRouter_hostMem (r : Nat) (f : Router → Router) : (s.modRouter r f).hostMem = s.hostMem := rfl
@[simp] theorem State.modRouter_remap (r : Nat) (f : Router → Router) : (s.modRouter r f).remap = s.remap := rfl
@[simp] theorem State.modRouter_buckets (r : Nat) (f : Router → Router) : (s.modRouter r f).buckets = s.buckets := rfl
@[simp] theorem State.modRouter_lines (r : Nat) (f : Router → Router) : (s.modRouter r f).lines = s.lines := rfl
@[simp] theorem State.modRouter_owned (r : Nat) (f : Router → Router) : (s.modRouter r f).owned = s.owned := rfl
@[simp] theorem State.modRouter_groups (r : Nat) (f : Router → Router) : (s.modRouter r f).groups = s.groups := rfl
@[simp] theorem State.modRouter_regs (r : Nat) (f : Router → Router) : (s.modRouter r f).regs = s.regs := rfl
@[simp] theorem State.modRouter_stations (r : Nat) (f : Router → Router) : (s.modRouter r f).stations = s.stations := rfl
@[simp] theorem State.modRouter_portSts (r : Nat) (f : Router → Router) : (s.modRouter r f).portSts = s.portSts := rfl
@[simp] theorem State.modRouter_services (r : Nat) (f : Router → Router) : (s.modRouter r f).services = s.services := rfl
@[simp] theorem State.modRouter_launches (r : Nat) (f : Router → Router) : (s.modRouter r f).launches = s.launches := rfl
@[simp] theorem State.modRouter_regions (r : Nat) (f : Router → Router) : (s.modRouter r f).regions = s.regions := rfl
@[simp] theorem State.modRouter_bands (r : Nat) (f : Router → Router) : (s.modRouter r f).bands = s.bands := rfl
@[simp] theorem State.modRouter_bad (r : Nat) (f : Router → Router) : (s.modRouter r f).bad = s.bad := rfl
@[simp] theorem State.modRouter_flight (r : Nat) (f : Router → Router) : (s.modRouter r f).flight = s.flight := rfl
@[simp] theorem State.modRouter_timers (r : Nat) (f : Router → Router) : (s.modRouter r f).timers = s.timers := rfl
@[simp] theorem State.modRouter_inputs (r : Nat) (f : Router → Router) : (s.modRouter r f).inputs = s.inputs := rfl
@[simp] theorem State.modRouter_free (r : Nat) (f : Router → Router) : (s.modRouter r f).free = s.free := rfl
@[simp] theorem State.modRouter_cur (r : Nat) (f : Router → Router) : (s.modRouter r f).cur = s.cur := rfl
@[simp] theorem State.modRouter_cursor (r : Nat) (f : Router → Router) : (s.modRouter r f).cursor = s.cursor := rfl
@[simp] theorem State.modRouter_log (r : Nat) (f : Router → Router) : (s.modRouter r f).log = s.log := rfl

/-! ### modService -/
@[simp] theorem State.modService_time (k : Nat) (f : Service → Service) : (s.modService k f).time = s.time := rfl
@[simp] theorem State.modService_tcycle (k : Nat) (f : Service → Service) : (s.modService k f).tcycle = s.tcycle := rfl
@[simp] theorem State.modService_mcycle (k : Nat) (f : Service → Service) : (s.modService k f).mcycle = s.mcycle := rfl
@[simp] theorem State.modService_ticks (k : Nat) (f : Service → Service) : (s.modService k f).ticks = s.ticks := rfl
@[simp] theorem State.modService_module (k : Nat) (f : Service → Service) : (s.modService k f).module = s.module := rfl
@[simp] theorem State.modService_members (k : Nat) (f : Service → Service) : (s.modService k f).members = s.members := rfl
@[simp] theorem State.modService_snapTime (k : Nat) (f : Service → Service) : (s.modService k f).snapTime = s.snapTime := rfl
@[simp] theorem State.modService_mem (k : Nat) (f : Service → Service) : (s.modService k f).mem = s.mem := rfl
@[simp] theorem State.modService_fe (k : Nat) (f : Service → Service) : (s.modService k f).fe = s.fe := rfl
@[simp] theorem State.modService_slotMem (k : Nat) (f : Service → Service) : (s.modService k f).slotMem = s.slotMem := rfl
@[simp] theorem State.modService_acc (k : Nat) (f : Service → Service) : (s.modService k f).acc = s.acc := rfl
@[simp] theorem State.modService_hostMem (k : Nat) (f : Service → Service) : (s.modService k f).hostMem = s.hostMem := rfl
@[simp] theorem State.modService_remap (k : Nat) (f : Service → Service) : (s.modService k f).remap = s.remap := rfl
@[simp] theorem State.modService_buckets (k : Nat) (f : Service → Service) : (s.modService k f).buckets = s.buckets := rfl
@[simp] theorem State.modService_lines (k : Nat) (f : Service → Service) : (s.modService k f).lines = s.lines := rfl
@[simp] theorem State.modService_owned (k : Nat) (f : Service → Service) : (s.modService k f).owned = s.owned := rfl
@[simp] theorem State.modService_groups (k : Nat) (f : Service → Service) : (s.modService k f).groups = s.groups := rfl
@[simp] theorem State.modService_regs (k : Nat) (f : Service → Service) : (s.modService k f).regs = s.regs := rfl
@[simp] theorem State.modService_stations (k : Nat) (f : Service → Service) : (s.modService k f).stations = s.stations := rfl
@[simp] theorem State.modService_portSts (k : Nat) (f : Service → Service) : (s.modService k f).portSts = s.portSts := rfl
@[simp] theorem State.modService_routers (k : Nat) (f : Service → Service) : (s.modService k f).routers = s.routers := rfl
@[simp] theorem State.modService_launches (k : Nat) (f : Service → Service) : (s.modService k f).launches = s.launches := rfl
@[simp] theorem State.modService_regions (k : Nat) (f : Service → Service) : (s.modService k f).regions = s.regions := rfl
@[simp] theorem State.modService_bands (k : Nat) (f : Service → Service) : (s.modService k f).bands = s.bands := rfl
@[simp] theorem State.modService_bad (k : Nat) (f : Service → Service) : (s.modService k f).bad = s.bad := rfl
@[simp] theorem State.modService_flight (k : Nat) (f : Service → Service) : (s.modService k f).flight = s.flight := rfl
@[simp] theorem State.modService_timers (k : Nat) (f : Service → Service) : (s.modService k f).timers = s.timers := rfl
@[simp] theorem State.modService_inputs (k : Nat) (f : Service → Service) : (s.modService k f).inputs = s.inputs := rfl
@[simp] theorem State.modService_free (k : Nat) (f : Service → Service) : (s.modService k f).free = s.free := rfl
@[simp] theorem State.modService_cur (k : Nat) (f : Service → Service) : (s.modService k f).cur = s.cur := rfl
@[simp] theorem State.modService_cursor (k : Nat) (f : Service → Service) : (s.modService k f).cursor = s.cursor := rfl
@[simp] theorem State.modService_log (k : Nat) (f : Service → Service) : (s.modService k f).log = s.log := rfl

/-! ### lsWrite -/
@[simp] theorem State.lsWrite_time (T off : Nat) (b : List Byte) : (s.lsWrite T off b).time = s.time := rfl
@[simp] theorem State.lsWrite_tcycle (T off : Nat) (b : List Byte) : (s.lsWrite T off b).tcycle = s.tcycle := rfl
@[simp] theorem State.lsWrite_mcycle (T off : Nat) (b : List Byte) : (s.lsWrite T off b).mcycle = s.mcycle := rfl
@[simp] theorem State.lsWrite_ticks (T off : Nat) (b : List Byte) : (s.lsWrite T off b).ticks = s.ticks := rfl
@[simp] theorem State.lsWrite_module (T off : Nat) (b : List Byte) : (s.lsWrite T off b).module = s.module := rfl
@[simp] theorem State.lsWrite_members (T off : Nat) (b : List Byte) : (s.lsWrite T off b).members = s.members := rfl
@[simp] theorem State.lsWrite_snapTime (T off : Nat) (b : List Byte) : (s.lsWrite T off b).snapTime = s.snapTime := rfl
@[simp] theorem State.lsWrite_fe (T off : Nat) (b : List Byte) : (s.lsWrite T off b).fe = s.fe := rfl
@[simp] theorem State.lsWrite_slotMem (T off : Nat) (b : List Byte) : (s.lsWrite T off b).slotMem = s.slotMem := rfl
@[simp] theorem State.lsWrite_acc (T off : Nat) (b : List Byte) : (s.lsWrite T off b).acc = s.acc := rfl
@[simp] theorem State.lsWrite_hostMem (T off : Nat) (b : List Byte) : (s.lsWrite T off b).hostMem = s.hostMem := rfl
@[simp] theorem State.lsWrite_remap (T off : Nat) (b : List Byte) : (s.lsWrite T off b).remap = s.remap := rfl
@[simp] theorem State.lsWrite_buckets (T off : Nat) (b : List Byte) : (s.lsWrite T off b).buckets = s.buckets := rfl
@[simp] theorem State.lsWrite_lines (T off : Nat) (b : List Byte) : (s.lsWrite T off b).lines = s.lines := rfl
@[simp] theorem State.lsWrite_owned (T off : Nat) (b : List Byte) : (s.lsWrite T off b).owned = s.owned := rfl
@[simp] theorem State.lsWrite_groups (T off : Nat) (b : List Byte) : (s.lsWrite T off b).groups = s.groups := rfl
@[simp] theorem State.lsWrite_regs (T off : Nat) (b : List Byte) : (s.lsWrite T off b).regs = s.regs := rfl
@[simp] theorem State.lsWrite_stations (T off : Nat) (b : List Byte) : (s.lsWrite T off b).stations = s.stations := rfl
@[simp] theorem State.lsWrite_portSts (T off : Nat) (b : List Byte) : (s.lsWrite T off b).portSts = s.portSts := rfl
@[simp] theorem State.lsWrite_routers (T off : Nat) (b : List Byte) : (s.lsWrite T off b).routers = s.routers := rfl
@[simp] theorem State.lsWrite_services (T off : Nat) (b : List Byte) : (s.lsWrite T off b).services = s.services := rfl
@[simp] theorem State.lsWrite_launches (T off : Nat) (b : List Byte) : (s.lsWrite T off b).launches = s.launches := rfl
@[simp] theorem State.lsWrite_regions (T off : Nat) (b : List Byte) : (s.lsWrite T off b).regions = s.regions := rfl
@[simp] theorem State.lsWrite_bands (T off : Nat) (b : List Byte) : (s.lsWrite T off b).bands = s.bands := rfl
@[simp] theorem State.lsWrite_bad (T off : Nat) (b : List Byte) : (s.lsWrite T off b).bad = s.bad := rfl
@[simp] theorem State.lsWrite_flight (T off : Nat) (b : List Byte) : (s.lsWrite T off b).flight = s.flight := rfl
@[simp] theorem State.lsWrite_timers (T off : Nat) (b : List Byte) : (s.lsWrite T off b).timers = s.timers := rfl
@[simp] theorem State.lsWrite_inputs (T off : Nat) (b : List Byte) : (s.lsWrite T off b).inputs = s.inputs := rfl
@[simp] theorem State.lsWrite_free (T off : Nat) (b : List Byte) : (s.lsWrite T off b).free = s.free := rfl
@[simp] theorem State.lsWrite_cur (T off : Nat) (b : List Byte) : (s.lsWrite T off b).cur = s.cur := rfl
@[simp] theorem State.lsWrite_cursor (T off : Nat) (b : List Byte) : (s.lsWrite T off b).cursor = s.cursor := rfl
@[simp] theorem State.lsWrite_log (T off : Nat) (b : List Byte) : (s.lsWrite T off b).log = s.log := rfl

/-! ### send -/
@[simp] theorem State.send_time (m : Msg) : (s.send m).time = s.time := rfl
@[simp] theorem State.send_tcycle (m : Msg) : (s.send m).tcycle = s.tcycle := rfl
@[simp] theorem State.send_mcycle (m : Msg) : (s.send m).mcycle = s.mcycle := rfl
@[simp] theorem State.send_ticks (m : Msg) : (s.send m).ticks = s.ticks := rfl
@[simp] theorem State.send_module (m : Msg) : (s.send m).module = s.module := rfl
@[simp] theorem State.send_members (m : Msg) : (s.send m).members = s.members := rfl
@[simp] theorem State.send_snapTime (m : Msg) : (s.send m).snapTime = s.snapTime := rfl
@[simp] theorem State.send_mem (m : Msg) : (s.send m).mem = s.mem := rfl
@[simp] theorem State.send_fe (m : Msg) : (s.send m).fe = s.fe := rfl
@[simp] theorem State.send_slotMem (m : Msg) : (s.send m).slotMem = s.slotMem := rfl
@[simp] theorem State.send_acc (m : Msg) : (s.send m).acc = s.acc := rfl
@[simp] theorem State.send_hostMem (m : Msg) : (s.send m).hostMem = s.hostMem := rfl
@[simp] theorem State.send_remap (m : Msg) : (s.send m).remap = s.remap := rfl
@[simp] theorem State.send_buckets (m : Msg) : (s.send m).buckets = s.buckets := rfl
@[simp] theorem State.send_lines (m : Msg) : (s.send m).lines = s.lines := rfl
@[simp] theorem State.send_owned (m : Msg) : (s.send m).owned = s.owned := rfl
@[simp] theorem State.send_groups (m : Msg) : (s.send m).groups = s.groups := rfl
@[simp] theorem State.send_regs (m : Msg) : (s.send m).regs = s.regs := rfl
@[simp] theorem State.send_stations (m : Msg) : (s.send m).stations = s.stations := rfl
@[simp] theorem State.send_portSts (m : Msg) : (s.send m).portSts = s.portSts := rfl
@[simp] theorem State.send_routers (m : Msg) : (s.send m).routers = s.routers := rfl
@[simp] theorem State.send_services (m : Msg) : (s.send m).services = s.services := rfl
@[simp] theorem State.send_launches (m : Msg) : (s.send m).launches = s.launches := rfl
@[simp] theorem State.send_regions (m : Msg) : (s.send m).regions = s.regions := rfl
@[simp] theorem State.send_bands (m : Msg) : (s.send m).bands = s.bands := rfl
@[simp] theorem State.send_bad (m : Msg) : (s.send m).bad = s.bad := rfl
@[simp] theorem State.send_timers (m : Msg) : (s.send m).timers = s.timers := rfl
@[simp] theorem State.send_inputs (m : Msg) : (s.send m).inputs = s.inputs := rfl
@[simp] theorem State.send_free (m : Msg) : (s.send m).free = s.free := rfl
@[simp] theorem State.send_cur (m : Msg) : (s.send m).cur = s.cur := rfl
@[simp] theorem State.send_cursor (m : Msg) : (s.send m).cursor = s.cursor := rfl
@[simp] theorem State.send_log (m : Msg) : (s.send m).log = s.log := rfl

end Sys2Proof.Machine
end

