-- ==== Sys2Proof/Laws/Table.lean ====
section
/-! SUPPORT. Sparse tables: reading after writing, and the canonical form, which every table operation keeps. -/

namespace Sys2Proof.Table

variable {α : Type}

theorem get_del_self (d : α) (t : Tbl α) (k : Nat) : get d (del t k) k = d := by
  induction t with
  | nil => rfl
  | cons e t ih =>
    obtain ⟨k', v⟩ := e
    by_cases h : k' = k
    · simp [del, h, ih]
    · simp [del, get, h, ih]

theorem get_del_ne (d : α) (t : Tbl α) {k j : Nat} (h : j ≠ k) : get d (del t k) j = get d t j := by
  induction t with
  | nil => rfl
  | cons e t ih =>
    obtain ⟨k', v⟩ := e
    by_cases hk : k' = k
    · have : k ≠ j := fun e => h e.symm
      simp [del, get, hk, this, ih]
    · simp [del, get, hk, ih]

theorem get_put_ne (d : α) (t : Tbl α) {k j : Nat} (v : α) (h : j ≠ k) : get d (put t k v) j = get d t j := by
  have hk : k ≠ j := fun e => h e.symm
  induction t with
  | nil => simp [put, get, hk]
  | cons e t ih =>
    obtain ⟨k', v'⟩ := e
    by_cases hlt : k < k'
    · simp [put, hlt, get, hk]
    · simp [put, hlt, get, ih]

theorem get_put_del_self (d : α) (t : Tbl α) (k : Nat) (v : α) : get d (put (del t k) k v) k = v := by
  induction t with
  | nil => simp [del, put, get]
  | cons e t ih =>
    obtain ⟨k', v'⟩ := e
    by_cases hk : k' = k
    · simp [del, hk, ih]
    · by_cases hlt : k < k'
      · simp [del, hk, put, hlt, get]
      · simp [del, hk, put, hlt, get, ih]

/-- What is written at a key is read there, and every other key reads as before. -/
theorem get_set [DecidableEq α] (d : α) (t : Tbl α) (k j : Nat) (v : α) :
    get d (set d t k v) j = if j = k then v else get d t j := by
  unfold set
  by_cases hj : j = k
  · subst hj
    by_cases hv : v = d
    · simp [hv, get_del_self]
    · simp [hv, get_put_del_self]
  · by_cases hv : v = d
    · simp [hv, hj, get_del_ne d t hj]
    · simp [hv, hj, get_put_ne d _ v hj, get_del_ne d t hj]

@[simp] theorem get_set_self [DecidableEq α] (d : α) (t : Tbl α) (k : Nat) (v : α) : get d (set d t k v) k = v := by
  simp [get_set]

theorem get_set_ne [DecidableEq α] (d : α) (t : Tbl α) {k j : Nat} (v : α) (h : j ≠ k) :
    get d (set d t k v) j = get d t j := by
  simp [get_set, h]

variable [DecidableEq α]

theorem okFrom_mono (d : α) {m n : Nat} {t : Tbl α} (h : m ≤ n) (ok : okFrom d n t = true) : okFrom d m t = true := by
  cases t with
  | nil => rfl
  | cons e t =>
    obtain ⟨k, v⟩ := e
    simp only [okFrom, Bool.and_eq_true, decide_eq_true_eq] at ok ⊢
    exact ⟨⟨by omega, ok.1.2⟩, ok.2⟩

theorem okFrom_del (d : α) {n : Nat} {t : Tbl α} (k : Nat) (ok : okFrom d n t = true) : okFrom d n (del t k) = true := by
  induction t generalizing n with
  | nil => rfl
  | cons e t ih =>
    obtain ⟨k', v⟩ := e
    simp only [okFrom, Bool.and_eq_true, decide_eq_true_eq] at ok
    by_cases hk : k' = k
    · simp only [del, hk, if_true]
      exact okFrom_mono d (by omega) (ih ok.2)
    · simp only [del, hk, if_false, okFrom, Bool.and_eq_true, decide_eq_true_eq]
      exact ⟨ok.1, ih ok.2⟩

theorem okFrom_put_del (d : α) {n : Nat} {t : Tbl α} {k : Nat} {v : α} (hn : n ≤ k) (hv : v ≠ d)
    (ok : okFrom d n t = true) : okFrom d n (put (del t k) k v) = true := by
  induction t generalizing n with
  | nil => simp [del, put, okFrom, hn, hv]
  | cons e t ih =>
    obtain ⟨k', v'⟩ := e
    simp only [okFrom, Bool.and_eq_true, decide_eq_true_eq] at ok
    by_cases hk : k' = k
    · simp only [del, hk, if_true]
      exact ih hn (okFrom_mono d (by omega) ok.2)
    · by_cases hlt : k < k'
      · simp only [del, hk, if_false, put, hlt, if_true, okFrom, Bool.and_eq_true, decide_eq_true_eq]
        exact ⟨⟨hn, hv⟩, ⟨⟨by omega, ok.1.2⟩, okFrom_del d k ok.2⟩⟩
      · simp only [del, hk, if_false, put, hlt, okFrom, Bool.and_eq_true, decide_eq_true_eq]
        exact ⟨ok.1, ih (by omega) ok.2⟩

/-- Writing a key keeps the canonical form. -/
theorem ok_set (d : α) {t : Tbl α} (k : Nat) (v : α) (h : ok d t = true) : ok d (set d t k v) = true := by
  unfold set
  by_cases hv : v = d
  · simpa [hv, ok] using okFrom_del d k h
  · simpa [hv, ok] using okFrom_put_del d (Nat.zero_le k) hv h

theorem okFrom_filter (d : α) (f : Nat × α → Bool) {n : Nat} {t : Tbl α} (h : okFrom d n t = true) :
    okFrom d n (t.filter f) = true := by
  induction t generalizing n with
  | nil => rfl
  | cons e t ih =>
    obtain ⟨k, v⟩ := e
    simp only [okFrom, Bool.and_eq_true, decide_eq_true_eq] at h
    by_cases hf : f (k, v) = true
    · simp only [List.filter, hf, okFrom, Bool.and_eq_true, decide_eq_true_eq]
      exact ⟨h.1, ih h.2⟩
    · simp only [List.filter, hf]
      exact okFrom_mono d (by omega) (ih h.2)

/-- Dropping entries keeps the canonical form. -/
theorem ok_filter (d : α) (f : Nat × α → Bool) {t : Tbl α} (h : ok d t = true) : ok d (t.filter f) = true :=
  okFrom_filter d f h

/-- The empty table is canonical. -/
theorem ok_nil (d : α) : ok d ([] : Tbl α) = true := rfl

end Sys2Proof.Table
end

