-- ==== Sys2Proof/Laws/Threads.lean ====
section
/-! SUPPORT. Tiles, threads, domains and the issuing thread: what is read after an update, one lemma for each reader and
update. -/

namespace Sys2Proof.Machine

variable (s : State)

/-! ### Tiles -/

theorem State.tile_setTile (T T' : Nat) (t : Tile) : (s.setTile T t).tile T' = if T' = T then t else s.tile T' := by
  simp [State.tile, State.setTile, Table.get_set]

@[simp] theorem State.tile_setTile_self (T : Nat) (t : Tile) : (s.setTile T t).tile T = t := by
  simp [State.tile_setTile]

theorem State.tile_setTile_ne {T T' : Nat} (t : Tile) (h : T' ≠ T) : (s.setTile T t).tile T' = s.tile T' := by
  simp [State.tile_setTile, h]

theorem State.tile_modTile (T T' : Nat) (f : Tile → Tile) :
    (s.modTile T f).tile T' = if T' = T then f (s.tile T) else s.tile T' := by
  simp [State.modTile, State.tile_setTile]

@[simp] theorem State.tile_modTile_self (T : Nat) (f : Tile → Tile) : (s.modTile T f).tile T = f (s.tile T) := by
  simp [State.tile_modTile]

/-! ### Thread -/

theorem State.thread_setThread (T h T' h' : Nat) (v : Thread) :
    (s.setThread T h v).thread T' h' = if T' = T ∧ h' = h then v else s.thread T' h' := by
  unfold State.thread State.setThread
  rw [State.tile_modTile]
  by_cases hT : T' = T
  · subst hT; simp [Table.get_set]
  · simp [hT]

@[simp] theorem State.thread_setThread_self (T h : Nat) (v : Thread) : (s.setThread T h v).thread T h = v := by
  simp [State.thread_setThread]

@[simp] theorem State.dom_setThread (T h : Nat) (v : Thread) (T' k' : Nat) :
    (s.setThread T h v).dom T' k' = s.dom T' k' := by
  unfold State.dom State.setThread
  rw [State.tile_modTile]
  by_cases hT : T' = T
  · subst hT; simp
  · simp [hT]

@[simp] theorem State.slot_setThread (T h : Nat) (v : Thread) (T' k' : Nat) :
    (s.setThread T h v).slot T' k' = s.slot T' k' := by
  unfold State.slot State.setThread
  rw [State.tile_modTile]
  by_cases hT : T' = T
  · subst hT; simp
  · simp [hT]

@[simp] theorem State.bar_setThread (T h : Nat) (v : Thread) (T' k' : Nat) :
    (s.setThread T h v).bar T' k' = s.bar T' k' := by
  unfold State.bar State.setThread
  rw [State.tile_modTile]
  by_cases hT : T' = T
  · subst hT; simp
  · simp [hT]

@[simp] theorem State.port_setThread (T h : Nat) (v : Thread) (T' k' : Nat) :
    (s.setThread T h v).port T' k' = s.port T' k' := by
  unfold State.port State.setThread
  rw [State.tile_modTile]
  by_cases hT : T' = T
  · subst hT; simp
  · simp [hT]

/-! ### Dom -/

theorem State.dom_setDom (T d T' d' : Nat) (v : Dom) :
    (s.setDom T d v).dom T' d' = if T' = T ∧ d' = d then v else s.dom T' d' := by
  unfold State.dom State.setDom
  rw [State.tile_modTile]
  by_cases hT : T' = T
  · subst hT; simp [Table.get_set]
  · simp [hT]

@[simp] theorem State.dom_setDom_self (T d : Nat) (v : Dom) : (s.setDom T d v).dom T d = v := by
  simp [State.dom_setDom]

@[simp] theorem State.thread_setDom (T d : Nat) (v : Dom) (T' k' : Nat) :
    (s.setDom T d v).thread T' k' = s.thread T' k' := by
  unfold State.thread State.setDom
  rw [State.tile_modTile]
  by_cases hT : T' = T
  · subst hT; simp
  · simp [hT]

@[simp] theorem State.slot_setDom (T d : Nat) (v : Dom) (T' k' : Nat) :
    (s.setDom T d v).slot T' k' = s.slot T' k' := by
  unfold State.slot State.setDom
  rw [State.tile_modTile]
  by_cases hT : T' = T
  · subst hT; simp
  · simp [hT]

@[simp] theorem State.bar_setDom (T d : Nat) (v : Dom) (T' k' : Nat) :
    (s.setDom T d v).bar T' k' = s.bar T' k' := by
  unfold State.bar State.setDom
  rw [State.tile_modTile]
  by_cases hT : T' = T
  · subst hT; simp
  · simp [hT]

@[simp] theorem State.port_setDom (T d : Nat) (v : Dom) (T' k' : Nat) :
    (s.setDom T d v).port T' k' = s.port T' k' := by
  unfold State.port State.setDom
  rw [State.tile_modTile]
  by_cases hT : T' = T
  · subst hT; simp
  · simp [hT]

/-! ### Slot -/

theorem State.slot_setSlot (T n T' n' : Nat) (v : Slot) :
    (s.setSlot T n v).slot T' n' = if T' = T ∧ n' = n then v else s.slot T' n' := by
  unfold State.slot State.setSlot
  rw [State.tile_modTile]
  by_cases hT : T' = T
  · subst hT; simp [Table.get_set]
  · simp [hT]

@[simp] theorem State.slot_setSlot_self (T n : Nat) (v : Slot) : (s.setSlot T n v).slot T n = v := by
  simp [State.slot_setSlot]

@[simp] theorem State.thread_setSlot (T n : Nat) (v : Slot) (T' k' : Nat) :
    (s.setSlot T n v).thread T' k' = s.thread T' k' := by
  unfold State.thread State.setSlot
  rw [State.tile_modTile]
  by_cases hT : T' = T
  · subst hT; simp
  · simp [hT]

@[simp] theorem State.dom_setSlot (T n : Nat) (v : Slot) (T' k' : Nat) :
    (s.setSlot T n v).dom T' k' = s.dom T' k' := by
  unfold State.dom State.setSlot
  rw [State.tile_modTile]
  by_cases hT : T' = T
  · subst hT; simp
  · simp [hT]

@[simp] theorem State.bar_setSlot (T n : Nat) (v : Slot) (T' k' : Nat) :
    (s.setSlot T n v).bar T' k' = s.bar T' k' := by
  unfold State.bar State.setSlot
  rw [State.tile_modTile]
  by_cases hT : T' = T
  · subst hT; simp
  · simp [hT]

@[simp] theorem State.port_setSlot (T n : Nat) (v : Slot) (T' k' : Nat) :
    (s.setSlot T n v).port T' k' = s.port T' k' := by
  unfold State.port State.setSlot
  rw [State.tile_modTile]
  by_cases hT : T' = T
  · subst hT; simp
  · simp [hT]

/-! ### Bar -/

theorem State.bar_setBar (T b T' b' : Nat) (v : Barrier) :
    (s.setBar T b v).bar T' b' = if T' = T ∧ b' = b then v else s.bar T' b' := by
  unfold State.bar State.setBar
  rw [State.tile_modTile]
  by_cases hT : T' = T
  · subst hT; simp [Table.get_set]
  · simp [hT]

@[simp] theorem State.bar_setBar_self (T b : Nat) (v : Barrier) : (s.setBar T b v).bar T b = v := by
  simp [State.bar_setBar]

@[simp] theorem State.thread_setBar (T b : Nat) (v : Barrier) (T' k' : Nat) :
    (s.setBar T b v).thread T' k' = s.thread T' k' := by
  unfold State.thread State.setBar
  rw [State.tile_modTile]
  by_cases hT : T' = T
  · subst hT; simp
  · simp [hT]

@[simp] theorem State.dom_setBar (T b : Nat) (v : Barrier) (T' k' : Nat) :
    (s.setBar T b v).dom T' k' = s.dom T' k' := by
  unfold State.dom State.setBar
  rw [State.tile_modTile]
  by_cases hT : T' = T
  · subst hT; simp
  · simp [hT]

@[simp] theorem State.slot_setBar (T b : Nat) (v : Barrier) (T' k' : Nat) :
    (s.setBar T b v).slot T' k' = s.slot T' k' := by
  unfold State.slot State.setBar
  rw [State.tile_modTile]
  by_cases hT : T' = T
  · subst hT; simp
  · simp [hT]

@[simp] theorem State.port_setBar (T b : Nat) (v : Barrier) (T' k' : Nat) :
    (s.setBar T b v).port T' k' = s.port T' k' := by
  unfold State.port State.setBar
  rw [State.tile_modTile]
  by_cases hT : T' = T
  · subst hT; simp
  · simp [hT]

/-! ### Port -/

theorem State.port_setPort (T p T' p' : Nat) (v : SPort) :
    (s.setPort T p v).port T' p' = if T' = T ∧ p' = p then v else s.port T' p' := by
  unfold State.port State.setPort
  rw [State.tile_modTile]
  by_cases hT : T' = T
  · subst hT; simp [Table.get_set]
  · simp [hT]

@[simp] theorem State.port_setPort_self (T p : Nat) (v : SPort) : (s.setPort T p v).port T p = v := by
  simp [State.port_setPort]

@[simp] theorem State.thread_setPort (T p : Nat) (v : SPort) (T' k' : Nat) :
    (s.setPort T p v).thread T' k' = s.thread T' k' := by
  unfold State.thread State.setPort
  rw [State.tile_modTile]
  by_cases hT : T' = T
  · subst hT; simp
  · simp [hT]

@[simp] theorem State.dom_setPort (T p : Nat) (v : SPort) (T' k' : Nat) :
    (s.setPort T p v).dom T' k' = s.dom T' k' := by
  unfold State.dom State.setPort
  rw [State.tile_modTile]
  by_cases hT : T' = T
  · subst hT; simp
  · simp [hT]

@[simp] theorem State.slot_setPort (T p : Nat) (v : SPort) (T' k' : Nat) :
    (s.setPort T p v).slot T' k' = s.slot T' k' := by
  unfold State.slot State.setPort
  rw [State.tile_modTile]
  by_cases hT : T' = T
  · subst hT; simp
  · simp [hT]

@[simp] theorem State.bar_setPort (T p : Nat) (v : SPort) (T' k' : Nat) :
    (s.setPort T p v).bar T' k' = s.bar T' k' := by
  unfold State.bar State.setPort
  rw [State.tile_modTile]
  by_cases hT : T' = T
  · subst hT; simp
  · simp [hT]

theorem State.thread_modThread (T h T' h' : Nat) (f : Thread → Thread) :
    (s.modThread T h f).thread T' h' = if T' = T ∧ h' = h then f (s.thread T h) else s.thread T' h' := by
  simp [State.modThread, State.thread_setThread]

@[simp] theorem State.thread_modThread_self (T h : Nat) (f : Thread → Thread) :
    (s.modThread T h f).thread T h = f (s.thread T h) := by
  simp [State.thread_modThread]

@[simp] theorem State.dom_modThread (T h : Nat) (f : Thread → Thread) (T' k' : Nat) :
    (s.modThread T h f).dom T' k' = s.dom T' k' := by
  simp [State.modThread]

@[simp] theorem State.slot_modThread (T h : Nat) (f : Thread → Thread) (T' k' : Nat) :
    (s.modThread T h f).slot T' k' = s.slot T' k' := by
  simp [State.modThread]

@[simp] theorem State.bar_modThread (T h : Nat) (f : Thread → Thread) (T' k' : Nat) :
    (s.modThread T h f).bar T' k' = s.bar T' k' := by
  simp [State.modThread]

@[simp] theorem State.port_modThread (T h : Nat) (f : Thread → Thread) (T' k' : Nat) :
    (s.modThread T h f).port T' k' = s.port T' k' := by
  simp [State.modThread]

theorem State.dom_modDom (T d T' d' : Nat) (f : Dom → Dom) :
    (s.modDom T d f).dom T' d' = if T' = T ∧ d' = d then f (s.dom T d) else s.dom T' d' := by
  simp [State.modDom, State.dom_setDom]

@[simp] theorem State.dom_modDom_self (T d : Nat) (f : Dom → Dom) :
    (s.modDom T d f).dom T d = f (s.dom T d) := by
  simp [State.dom_modDom]

@[simp] theorem State.thread_modDom (T d : Nat) (f : Dom → Dom) (T' k' : Nat) :
    (s.modDom T d f).thread T' k' = s.thread T' k' := by
  simp [State.modDom]

@[simp] theorem State.slot_modDom (T d : Nat) (f : Dom → Dom) (T' k' : Nat) :
    (s.modDom T d f).slot T' k' = s.slot T' k' := by
  simp [State.modDom]

@[simp] theorem State.bar_modDom (T d : Nat) (f : Dom → Dom) (T' k' : Nat) :
    (s.modDom T d f).bar T' k' = s.bar T' k' := by
  simp [State.modDom]

@[simp] theorem State.port_modDom (T d : Nat) (f : Dom → Dom) (T' k' : Nat) :
    (s.modDom T d f).port T' k' = s.port T' k' := by
  simp [State.modDom]

/-! ### Domain of a thread -/

@[simp] theorem State.domNo_setThread (T h : Nat) (t : Thread) (T' h' : Nat) :
    (s.setThread T h t).domNo T' h' = s.domNo T' h' := by
  simp [State.domNo]

@[simp] theorem State.domNo_modThread (T h : Nat) (f : Thread → Thread) (T' h' : Nat) :
    (s.modThread T h f).domNo T' h' = s.domNo T' h' := by
  simp [State.modThread]

/-! ### The issuing thread -/

theorem State.me_def : s.me = s.thread s.cur.1 s.cur.2 := rfl

@[simp] theorem State.me_modMe (f : Thread → Thread) : (s.modMe f).me = f s.me := by
  simp [State.me, State.modMe]

theorem State.thread_modMe (f : Thread → Thread) (T h : Nat) :
    (s.modMe f).thread T h = if (T, h) = s.cur then f s.me else s.thread T h := by
  by_cases hc : (T, h) = s.cur
  · simp [State.modMe, State.me, ← hc]
  · have : ¬(T = s.cur.1 ∧ h = s.cur.2) := fun e => hc (Prod.ext e.1 e.2)
    simp [State.modMe, State.thread_modThread, this, hc]

@[simp] theorem State.dom_modMe (f : Thread → Thread) (T d : Nat) : (s.modMe f).dom T d = s.dom T d := by
  simp [State.modMe]

@[simp] theorem State.slot_modMe (f : Thread → Thread) (T n : Nat) : (s.modMe f).slot T n = s.slot T n := by
  simp [State.modMe]

@[simp] theorem State.bar_modMe (f : Thread → Thread) (T b : Nat) : (s.modMe f).bar T b = s.bar T b := by
  simp [State.modMe]

@[simp] theorem State.port_modMe (f : Thread → Thread) (T p : Nat) : (s.modMe f).port T p = s.port T p := by
  simp [State.modMe]

@[simp] theorem State.domNo_modMe (f : Thread → Thread) (T h : Nat) : (s.modMe f).domNo T h = s.domNo T h := by
  simp [State.modMe]

@[simp] theorem State.myDomNo_modMe (f : Thread → Thread) : (s.modMe f).myDomNo = s.myDomNo := by
  simp [State.myDomNo]

@[simp] theorem State.myDom_modMe (f : Thread → Thread) : (s.modMe f).myDom = s.myDom := by
  simp [State.myDom]

@[simp] theorem State.myMode_modMe (f : Thread → Thread) : (s.modMe f).myMode = s.myMode := by
  simp [State.myMode, State.modMe, State.modThread, State.setThread]

/-! ### Registers of a thread (R197, R198) -/

/-- x0 reads as zero. -/
@[simp] theorem Thread.rx_zero (t : Thread) : t.rx 0 = 0 := rfl
/-- p0 reads as true. -/
@[simp] theorem Thread.rp_zero (t : Thread) : t.rp 0 = true := rfl
/-- m0 reads as all ones. -/
@[simp] theorem Thread.rm_zero (t : Thread) : t.rm 0 = BitVec.allOnes 64 := rfl

/-- A scalar register after a write: the written one holds the value, unless it is x0; the others keep theirs. -/
theorem Thread.rx_wx (t : Thread) (r q : Nat) (v : W64) :
    (t.wx r v).rx q = if q = r ∧ r ≠ 0 then v else t.rx q := by
  unfold Thread.wx Thread.rx
  by_cases hr : r = 0
  · simp [hr]
  · by_cases hq : q = 0
    · simp [hr, hq, Ne.symm hr]
    · by_cases e : q = r <;> simp [hr, hq, e, Table.get_set]

/-- A mask register after a write. -/
theorem Thread.rm_wm (t : Thread) (r q : Nat) (v : W64) :
    (t.wm r v).rm q = if q = r ∧ r ≠ 0 then v else t.rm q := by
  unfold Thread.wm Thread.rm
  by_cases hr : r = 0
  · simp [hr]
  · by_cases hq : q = 0
    · simp [hr, hq, Ne.symm hr]
    · by_cases e : q = r <;> simp [hr, hq, e, Table.get_set]

/-- A vector register after a write. -/
theorem Thread.rv_wv (t : Thread) (r q : Nat) (v : BitVec 2048) :
    (t.wv r v).rv q = if q = r then v else t.rv q := by
  simp [Thread.wv, Thread.rv, Table.get_set]

/-! ### Fields of a thread after wx -/

@[simp] theorem Thread.wx_pc (t : Thread) (r : Nat) (v : W64) : (t.wx r v).pc = t.pc := by unfold Thread.wx; split <;> rfl
@[simp] theorem Thread.wx_p (t : Thread) (r : Nat) (v : W64) : (t.wx r v).p = t.p := by unfold Thread.wx; split <;> rfl
@[simp] theorem Thread.wx_m (t : Thread) (r : Nat) (v : W64) : (t.wx r v).m = t.m := by unfold Thread.wx; split <;> rfl
@[simp] theorem Thread.wx_v (t : Thread) (r : Nat) (v : W64) : (t.wx r v).v = t.v := by unfold Thread.wx; split <;> rfl
@[simp] theorem Thread.wx_priv (t : Thread) (r : Nat) (v : W64) : (t.wx r v).priv = t.priv := by unfold Thread.wx; split <;> rfl
@[simp] theorem Thread.wx_pprv (t : Thread) (r : Nat) (v : W64) : (t.wx r v).pprv = t.pprv := by unfold Thread.wx; split <;> rfl
@[simp] theorem Thread.wx_cause (t : Thread) (r : Nat) (v : W64) : (t.wx r v).cause = t.cause := by unfold Thread.wx; split <;> rfl
@[simp] theorem Thread.wx_trapPc (t : Thread) (r : Nat) (v : W64) : (t.wx r v).trapPc = t.trapPc := by unfold Thread.wx; split <;> rfl
@[simp] theorem Thread.wx_trapVal (t : Thread) (r : Nat) (v : W64) : (t.wx r v).trapVal = t.trapVal := by unfold Thread.wx; split <;> rfl
@[simp] theorem Thread.wx_fmtA (t : Thread) (r : Nat) (v : W64) : (t.wx r v).fmtA = t.fmtA := by unfold Thread.wx; split <;> rfl
@[simp] theorem Thread.wx_fmtB (t : Thread) (r : Nat) (v : W64) : (t.wx r v).fmtB = t.fmtB := by unfold Thread.wx; split <;> rfl
@[simp] theorem Thread.wx_scaleA (t : Thread) (r : Nat) (v : W64) : (t.wx r v).scaleA = t.scaleA := by unfold Thread.wx; split <;> rfl
@[simp] theorem Thread.wx_scaleB (t : Thread) (r : Nat) (v : W64) : (t.wx r v).scaleB = t.scaleB := by unfold Thread.wx; split <;> rfl
@[simp] theorem Thread.wx_idx (t : Thread) (r : Nat) (v : W64) : (t.wx r v).idx = t.idx := by unfold Thread.wx; split <;> rfl
@[simp] theorem Thread.wx_run (t : Thread) (r : Nat) (v : W64) : (t.wx r v).run = t.run := by unfold Thread.wx; split <;> rfl
@[simp] theorem Thread.wx_readyAt (t : Thread) (r : Nat) (v : W64) : (t.wx r v).readyAt = t.readyAt := by unfold Thread.wx; split <;> rfl
@[simp] theorem Thread.wx_pend (t : Thread) (r : Nat) (v : W64) : (t.wx r v).pend = t.pend := by unfold Thread.wx; split <;> rfl
@[simp] theorem Thread.wx_outst (t : Thread) (r : Nat) (v : W64) : (t.wx r v).outst = t.outst := by unfold Thread.wx; split <;> rfl
@[simp] theorem Thread.wx_seq (t : Thread) (r : Nat) (v : W64) : (t.wx r v).seq = t.seq := by unfold Thread.wx; split <;> rfl
@[simp] theorem Thread.wx_got (t : Thread) (r : Nat) (v : W64) : (t.wx r v).got = t.got := by unfold Thread.wx; split <;> rfl
@[simp] theorem Thread.wx_bad (t : Thread) (r : Nat) (v : W64) : (t.wx r v).bad = t.bad := by unfold Thread.wx; split <;> rfl
@[simp] theorem Thread.wx_mfail (t : Thread) (r : Nat) (v : W64) : (t.wx r v).mfail = t.mfail := by unfold Thread.wx; split <;> rfl
@[simp] theorem Thread.wx_overrun (t : Thread) (r : Nat) (v : W64) : (t.wx r v).overrun = t.overrun := by unfold Thread.wx; split <;> rfl
@[simp] theorem Thread.wx_yielded (t : Thread) (r : Nat) (v : W64) : (t.wx r v).yielded = t.yielded := by unfold Thread.wx; split <;> rfl
theorem Thread.wx_parity (t : Thread) (r : Nat) (v : W64) :
    (t.wx r v).parity = if r = 0 then t.parity else t.parity.filter fun k => k != r := by unfold Thread.wx; split <;> rfl
@[simp] theorem Thread.wx_missed (t : Thread) (r : Nat) (v : W64) : (t.wx r v).missed = t.missed := by unfold Thread.wx; split <;> rfl
@[simp] theorem Thread.wx_hold (t : Thread) (r : Nat) (v : W64) : (t.wx r v).hold = t.hold := by unfold Thread.wx; split <;> rfl
@[simp] theorem Thread.wx_saving (t : Thread) (r : Nat) (v : W64) : (t.wx r v).saving = t.saving := by unfold Thread.wx; split <;> rfl
@[simp] theorem Thread.wx_owed (t : Thread) (r : Nat) (v : W64) : (t.wx r v).owed = t.owed := by unfold Thread.wx; split <;> rfl
@[simp] theorem Thread.wx_after (t : Thread) (r : Nat) (v : W64) : (t.wx r v).after = t.after := by unfold Thread.wx; split <;> rfl
@[simp] theorem Thread.wx_unfl (t : Thread) (r : Nat) (v : W64) : (t.wx r v).unfl = t.unfl := by unfold Thread.wx; split <;> rfl

/-! ### Fields of a thread after wp -/

@[simp] theorem Thread.wp_pc (t : Thread) (p : Nat) (v : Bool) : (t.wp p v).pc = t.pc := by unfold Thread.wp; split <;> rfl
@[simp] theorem Thread.wp_x (t : Thread) (p : Nat) (v : Bool) : (t.wp p v).x = t.x := by unfold Thread.wp; split <;> rfl
@[simp] theorem Thread.wp_m (t : Thread) (p : Nat) (v : Bool) : (t.wp p v).m = t.m := by unfold Thread.wp; split <;> rfl
@[simp] theorem Thread.wp_v (t : Thread) (p : Nat) (v : Bool) : (t.wp p v).v = t.v := by unfold Thread.wp; split <;> rfl
@[simp] theorem Thread.wp_priv (t : Thread) (p : Nat) (v : Bool) : (t.wp p v).priv = t.priv := by unfold Thread.wp; split <;> rfl
@[simp] theorem Thread.wp_pprv (t : Thread) (p : Nat) (v : Bool) : (t.wp p v).pprv = t.pprv := by unfold Thread.wp; split <;> rfl
@[simp] theorem Thread.wp_cause (t : Thread) (p : Nat) (v : Bool) : (t.wp p v).cause = t.cause := by unfold Thread.wp; split <;> rfl
@[simp] theorem Thread.wp_trapPc (t : Thread) (p : Nat) (v : Bool) : (t.wp p v).trapPc = t.trapPc := by unfold Thread.wp; split <;> rfl
@[simp] theorem Thread.wp_trapVal (t : Thread) (p : Nat) (v : Bool) : (t.wp p v).trapVal = t.trapVal := by unfold Thread.wp; split <;> rfl
@[simp] theorem Thread.wp_fmtA (t : Thread) (p : Nat) (v : Bool) : (t.wp p v).fmtA = t.fmtA := by unfold Thread.wp; split <;> rfl
@[simp] theorem Thread.wp_fmtB (t : Thread) (p : Nat) (v : Bool) : (t.wp p v).fmtB = t.fmtB := by unfold Thread.wp; split <;> rfl
@[simp] theorem Thread.wp_scaleA (t : Thread) (p : Nat) (v : Bool) : (t.wp p v).scaleA = t.scaleA := by unfold Thread.wp; split <;> rfl
@[simp] theorem Thread.wp_scaleB (t : Thread) (p : Nat) (v : Bool) : (t.wp p v).scaleB = t.scaleB := by unfold Thread.wp; split <;> rfl
@[simp] theorem Thread.wp_idx (t : Thread) (p : Nat) (v : Bool) : (t.wp p v).idx = t.idx := by unfold Thread.wp; split <;> rfl
@[simp] theorem Thread.wp_run (t : Thread) (p : Nat) (v : Bool) : (t.wp p v).run = t.run := by unfold Thread.wp; split <;> rfl
@[simp] theorem Thread.wp_readyAt (t : Thread) (p : Nat) (v : Bool) : (t.wp p v).readyAt = t.readyAt := by unfold Thread.wp; split <;> rfl
@[simp] theorem Thread.wp_pend (t : Thread) (p : Nat) (v : Bool) : (t.wp p v).pend = t.pend := by unfold Thread.wp; split <;> rfl
@[simp] theorem Thread.wp_outst (t : Thread) (p : Nat) (v : Bool) : (t.wp p v).outst = t.outst := by unfold Thread.wp; split <;> rfl
@[simp] theorem Thread.wp_seq (t : Thread) (p : Nat) (v : Bool) : (t.wp p v).seq = t.seq := by unfold Thread.wp; split <;> rfl
@[simp] theorem Thread.wp_got (t : Thread) (p : Nat) (v : Bool) : (t.wp p v).got = t.got := by unfold Thread.wp; split <;> rfl
@[simp] theorem Thread.wp_bad (t : Thread) (p : Nat) (v : Bool) : (t.wp p v).bad = t.bad := by unfold Thread.wp; split <;> rfl
@[simp] theorem Thread.wp_mfail (t : Thread) (p : Nat) (v : Bool) : (t.wp p v).mfail = t.mfail := by unfold Thread.wp; split <;> rfl
@[simp] theorem Thread.wp_overrun (t : Thread) (p : Nat) (v : Bool) : (t.wp p v).overrun = t.overrun := by unfold Thread.wp; split <;> rfl
@[simp] theorem Thread.wp_yielded (t : Thread) (p : Nat) (v : Bool) : (t.wp p v).yielded = t.yielded := by unfold Thread.wp; split <;> rfl
@[simp] theorem Thread.wp_parity (t : Thread) (p : Nat) (v : Bool) : (t.wp p v).parity = t.parity := by unfold Thread.wp; split <;> rfl
@[simp] theorem Thread.wp_missed (t : Thread) (p : Nat) (v : Bool) : (t.wp p v).missed = t.missed := by unfold Thread.wp; split <;> rfl
@[simp] theorem Thread.wp_hold (t : Thread) (p : Nat) (v : Bool) : (t.wp p v).hold = t.hold := by unfold Thread.wp; split <;> rfl
@[simp] theorem Thread.wp_saving (t : Thread) (p : Nat) (v : Bool) : (t.wp p v).saving = t.saving := by unfold Thread.wp; split <;> rfl
@[simp] theorem Thread.wp_owed (t : Thread) (p : Nat) (v : Bool) : (t.wp p v).owed = t.owed := by unfold Thread.wp; split <;> rfl
@[simp] theorem Thread.wp_after (t : Thread) (p : Nat) (v : Bool) : (t.wp p v).after = t.after := by unfold Thread.wp; split <;> rfl
@[simp] theorem Thread.wp_unfl (t : Thread) (p : Nat) (v : Bool) : (t.wp p v).unfl = t.unfl := by unfold Thread.wp; split <;> rfl

/-! ### Fields of a thread after wm -/

@[simp] theorem Thread.wm_pc (t : Thread) (m : Nat) (v : W64) : (t.wm m v).pc = t.pc := by unfold Thread.wm; split <;> rfl
@[simp] theorem Thread.wm_x (t : Thread) (m : Nat) (v : W64) : (t.wm m v).x = t.x := by unfold Thread.wm; split <;> rfl
@[simp] theorem Thread.wm_p (t : Thread) (m : Nat) (v : W64) : (t.wm m v).p = t.p := by unfold Thread.wm; split <;> rfl
@[simp] theorem Thread.wm_v (t : Thread) (m : Nat) (v : W64) : (t.wm m v).v = t.v := by unfold Thread.wm; split <;> rfl
@[simp] theorem Thread.wm_priv (t : Thread) (m : Nat) (v : W64) : (t.wm m v).priv = t.priv := by unfold Thread.wm; split <;> rfl
@[simp] theorem Thread.wm_pprv (t : Thread) (m : Nat) (v : W64) : (t.wm m v).pprv = t.pprv := by unfold Thread.wm; split <;> rfl
@[simp] theorem Thread.wm_cause (t : Thread) (m : Nat) (v : W64) : (t.wm m v).cause = t.cause := by unfold Thread.wm; split <;> rfl
@[simp] theorem Thread.wm_trapPc (t : Thread) (m : Nat) (v : W64) : (t.wm m v).trapPc = t.trapPc := by unfold Thread.wm; split <;> rfl
@[simp] theorem Thread.wm_trapVal (t : Thread) (m : Nat) (v : W64) : (t.wm m v).trapVal = t.trapVal := by unfold Thread.wm; split <;> rfl
@[simp] theorem Thread.wm_fmtA (t : Thread) (m : Nat) (v : W64) : (t.wm m v).fmtA = t.fmtA := by unfold Thread.wm; split <;> rfl
@[simp] theorem Thread.wm_fmtB (t : Thread) (m : Nat) (v : W64) : (t.wm m v).fmtB = t.fmtB := by unfold Thread.wm; split <;> rfl
@[simp] theorem Thread.wm_scaleA (t : Thread) (m : Nat) (v : W64) : (t.wm m v).scaleA = t.scaleA := by unfold Thread.wm; split <;> rfl
@[simp] theorem Thread.wm_scaleB (t : Thread) (m : Nat) (v : W64) : (t.wm m v).scaleB = t.scaleB := by unfold Thread.wm; split <;> rfl
@[simp] theorem Thread.wm_idx (t : Thread) (m : Nat) (v : W64) : (t.wm m v).idx = t.idx := by unfold Thread.wm; split <;> rfl
@[simp] theorem Thread.wm_run (t : Thread) (m : Nat) (v : W64) : (t.wm m v).run = t.run := by unfold Thread.wm; split <;> rfl
@[simp] theorem Thread.wm_readyAt (t : Thread) (m : Nat) (v : W64) : (t.wm m v).readyAt = t.readyAt := by unfold Thread.wm; split <;> rfl
@[simp] theorem Thread.wm_pend (t : Thread) (m : Nat) (v : W64) : (t.wm m v).pend = t.pend := by unfold Thread.wm; split <;> rfl
@[simp] theorem Thread.wm_outst (t : Thread) (m : Nat) (v : W64) : (t.wm m v).outst = t.outst := by unfold Thread.wm; split <;> rfl
@[simp] theorem Thread.wm_seq (t : Thread) (m : Nat) (v : W64) : (t.wm m v).seq = t.seq := by unfold Thread.wm; split <;> rfl
@[simp] theorem Thread.wm_got (t : Thread) (m : Nat) (v : W64) : (t.wm m v).got = t.got := by unfold Thread.wm; split <;> rfl
@[simp] theorem Thread.wm_bad (t : Thread) (m : Nat) (v : W64) : (t.wm m v).bad = t.bad := by unfold Thread.wm; split <;> rfl
@[simp] theorem Thread.wm_mfail (t : Thread) (m : Nat) (v : W64) : (t.wm m v).mfail = t.mfail := by unfold Thread.wm; split <;> rfl
@[simp] theorem Thread.wm_overrun (t : Thread) (m : Nat) (v : W64) : (t.wm m v).overrun = t.overrun := by unfold Thread.wm; split <;> rfl
@[simp] theorem Thread.wm_yielded (t : Thread) (m : Nat) (v : W64) : (t.wm m v).yielded = t.yielded := by unfold Thread.wm; split <;> rfl
@[simp] theorem Thread.wm_parity (t : Thread) (m : Nat) (v : W64) : (t.wm m v).parity = t.parity := by unfold Thread.wm; split <;> rfl
@[simp] theorem Thread.wm_missed (t : Thread) (m : Nat) (v : W64) : (t.wm m v).missed = t.missed := by unfold Thread.wm; split <;> rfl
@[simp] theorem Thread.wm_hold (t : Thread) (m : Nat) (v : W64) : (t.wm m v).hold = t.hold := by unfold Thread.wm; split <;> rfl
@[simp] theorem Thread.wm_saving (t : Thread) (m : Nat) (v : W64) : (t.wm m v).saving = t.saving := by unfold Thread.wm; split <;> rfl
@[simp] theorem Thread.wm_owed (t : Thread) (m : Nat) (v : W64) : (t.wm m v).owed = t.owed := by unfold Thread.wm; split <;> rfl
@[simp] theorem Thread.wm_after (t : Thread) (m : Nat) (v : W64) : (t.wm m v).after = t.after := by unfold Thread.wm; split <;> rfl
@[simp] theorem Thread.wm_unfl (t : Thread) (m : Nat) (v : W64) : (t.wm m v).unfl = t.unfl := by unfold Thread.wm; split <;> rfl

/-! ### Fields of a thread after wv and retire -/

@[simp] theorem Thread.wv_pc (t : Thread) (n : Nat) (v : BitVec 2048) : (t.wv n v).pc = t.pc := rfl
@[simp] theorem Thread.wv_x (t : Thread) (n : Nat) (v : BitVec 2048) : (t.wv n v).x = t.x := rfl
@[simp] theorem Thread.wv_p (t : Thread) (n : Nat) (v : BitVec 2048) : (t.wv n v).p = t.p := rfl
@[simp] theorem Thread.wv_m (t : Thread) (n : Nat) (v : BitVec 2048) : (t.wv n v).m = t.m := rfl
@[simp] theorem Thread.wv_priv (t : Thread) (n : Nat) (v : BitVec 2048) : (t.wv n v).priv = t.priv := rfl
@[simp] theorem Thread.wv_pprv (t : Thread) (n : Nat) (v : BitVec 2048) : (t.wv n v).pprv = t.pprv := rfl
@[simp] theorem Thread.wv_cause (t : Thread) (n : Nat) (v : BitVec 2048) : (t.wv n v).cause = t.cause := rfl
@[simp] theorem Thread.wv_trapPc (t : Thread) (n : Nat) (v : BitVec 2048) : (t.wv n v).trapPc = t.trapPc := rfl
@[simp] theorem Thread.wv_trapVal (t : Thread) (n : Nat) (v : BitVec 2048) : (t.wv n v).trapVal = t.trapVal := rfl
@[simp] theorem Thread.wv_fmtA (t : Thread) (n : Nat) (v : BitVec 2048) : (t.wv n v).fmtA = t.fmtA := rfl
@[simp] theorem Thread.wv_fmtB (t : Thread) (n : Nat) (v : BitVec 2048) : (t.wv n v).fmtB = t.fmtB := rfl
@[simp] theorem Thread.wv_scaleA (t : Thread) (n : Nat) (v : BitVec 2048) : (t.wv n v).scaleA = t.scaleA := rfl
@[simp] theorem Thread.wv_scaleB (t : Thread) (n : Nat) (v : BitVec 2048) : (t.wv n v).scaleB = t.scaleB := rfl
@[simp] theorem Thread.wv_idx (t : Thread) (n : Nat) (v : BitVec 2048) : (t.wv n v).idx = t.idx := rfl
@[simp] theorem Thread.wv_run (t : Thread) (n : Nat) (v : BitVec 2048) : (t.wv n v).run = t.run := rfl
@[simp] theorem Thread.wv_readyAt (t : Thread) (n : Nat) (v : BitVec 2048) : (t.wv n v).readyAt = t.readyAt := rfl
@[simp] theorem Thread.wv_pend (t : Thread) (n : Nat) (v : BitVec 2048) : (t.wv n v).pend = t.pend := rfl
@[simp] theorem Thread.wv_outst (t : Thread) (n : Nat) (v : BitVec 2048) : (t.wv n v).outst = t.outst := rfl
@[simp] theorem Thread.wv_seq (t : Thread) (n : Nat) (v : BitVec 2048) : (t.wv n v).seq = t.seq := rfl
@[simp] theorem Thread.wv_got (t : Thread) (n : Nat) (v : BitVec 2048) : (t.wv n v).got = t.got := rfl
@[simp] theorem Thread.wv_bad (t : Thread) (n : Nat) (v : BitVec 2048) : (t.wv n v).bad = t.bad := rfl
@[simp] theorem Thread.wv_mfail (t : Thread) (n : Nat) (v : BitVec 2048) : (t.wv n v).mfail = t.mfail := rfl
@[simp] theorem Thread.wv_overrun (t : Thread) (n : Nat) (v : BitVec 2048) : (t.wv n v).overrun = t.overrun := rfl
@[simp] theorem Thread.wv_yielded (t : Thread) (n : Nat) (v : BitVec 2048) : (t.wv n v).yielded = t.yielded := rfl
theorem Thread.wv_parity (t : Thread) (n : Nat) (v : BitVec 2048) :
    (t.wv n v).parity = t.parity.filter fun k => k / 32 != n + 2 := rfl
@[simp] theorem Thread.wv_missed (t : Thread) (n : Nat) (v : BitVec 2048) : (t.wv n v).missed = t.missed := rfl
@[simp] theorem Thread.wv_hold (t : Thread) (n : Nat) (v : BitVec 2048) : (t.wv n v).hold = t.hold := rfl
@[simp] theorem Thread.wv_saving (t : Thread) (n : Nat) (v : BitVec 2048) : (t.wv n v).saving = t.saving := rfl
@[simp] theorem Thread.wv_owed (t : Thread) (n : Nat) (v : BitVec 2048) : (t.wv n v).owed = t.owed := rfl
@[simp] theorem Thread.wv_after (t : Thread) (n : Nat) (v : BitVec 2048) : (t.wv n v).after = t.after := rfl
@[simp] theorem Thread.wv_unfl (t : Thread) (n : Nat) (v : BitVec 2048) : (t.wv n v).unfl = t.unfl := rfl
@[simp] theorem Thread.retire_x (t : Thread) (now : Nat) (pc : W64) : (t.retire now pc).x = t.x := rfl
@[simp] theorem Thread.retire_p (t : Thread) (now : Nat) (pc : W64) : (t.retire now pc).p = t.p := rfl
@[simp] theorem Thread.retire_m (t : Thread) (now : Nat) (pc : W64) : (t.retire now pc).m = t.m := rfl
@[simp] theorem Thread.retire_v (t : Thread) (now : Nat) (pc : W64) : (t.retire now pc).v = t.v := rfl
@[simp] theorem Thread.retire_priv (t : Thread) (now : Nat) (pc : W64) : (t.retire now pc).priv = t.priv := rfl
@[simp] theorem Thread.retire_pprv (t : Thread) (now : Nat) (pc : W64) : (t.retire now pc).pprv = t.pprv := rfl
@[simp] theorem Thread.retire_cause (t : Thread) (now : Nat) (pc : W64) : (t.retire now pc).cause = t.cause := rfl
@[simp] theorem Thread.retire_trapPc (t : Thread) (now : Nat) (pc : W64) : (t.retire now pc).trapPc = t.trapPc := rfl
@[simp] theorem Thread.retire_trapVal (t : Thread) (now : Nat) (pc : W64) : (t.retire now pc).trapVal = t.trapVal := rfl
@[simp] theorem Thread.retire_fmtA (t : Thread) (now : Nat) (pc : W64) : (t.retire now pc).fmtA = t.fmtA := rfl
@[simp] theorem Thread.retire_fmtB (t : Thread) (now : Nat) (pc : W64) : (t.retire now pc).fmtB = t.fmtB := rfl
@[simp] theorem Thread.retire_scaleA (t : Thread) (now : Nat) (pc : W64) : (t.retire now pc).scaleA = t.scaleA := rfl
@[simp] theorem Thread.retire_scaleB (t : Thread) (now : Nat) (pc : W64) : (t.retire now pc).scaleB = t.scaleB := rfl
@[simp] theorem Thread.retire_idx (t : Thread) (now : Nat) (pc : W64) : (t.retire now pc).idx = t.idx := rfl
@[simp] theorem Thread.retire_outst (t : Thread) (now : Nat) (pc : W64) : (t.retire now pc).outst = t.outst := rfl
@[simp] theorem Thread.retire_seq (t : Thread) (now : Nat) (pc : W64) : (t.retire now pc).seq = t.seq := rfl
@[simp] theorem Thread.retire_mfail (t : Thread) (now : Nat) (pc : W64) : (t.retire now pc).mfail = t.mfail := rfl
@[simp] theorem Thread.retire_overrun (t : Thread) (now : Nat) (pc : W64) : (t.retire now pc).overrun = t.overrun := rfl
@[simp] theorem Thread.retire_yielded (t : Thread) (now : Nat) (pc : W64) : (t.retire now pc).yielded = t.yielded := rfl
@[simp] theorem Thread.retire_parity (t : Thread) (now : Nat) (pc : W64) : (t.retire now pc).parity = t.parity := rfl
@[simp] theorem Thread.retire_hold (t : Thread) (now : Nat) (pc : W64) : (t.retire now pc).hold = t.hold := rfl
@[simp] theorem Thread.retire_saving (t : Thread) (now : Nat) (pc : W64) : (t.retire now pc).saving = t.saving := rfl
@[simp] theorem Thread.retire_owed (t : Thread) (now : Nat) (pc : W64) : (t.retire now pc).owed = t.owed := rfl
@[simp] theorem Thread.retire_after (t : Thread) (now : Nat) (pc : W64) : (t.retire now pc).after = t.after := rfl
@[simp] theorem Thread.retire_unfl (t : Thread) (now : Nat) (pc : W64) : (t.retire now pc).unfl = t.unfl := rfl

end Sys2Proof.Machine
end

