-- ==== Sys2Proof/Laws/Issue.lean ====
section
/-! SUPPORT. Issuing and retiring: everything that `issue`, `complete`, `advance`, `raise` and the shared shapes of
instructions can do. -/

namespace Sys2Proof.Machine

open Bits

variable {s : State} {g : Guard} {regs : List XReg} {grid : Bool} {priv : Nat} {i : Instr}

/-! ### Issue (R209, R210, R354) -/

/-- Everything that issuing an instruction can do. -/
theorem State.issue_cases (body : State → State) :
    s.issue i g regs grid priv body = s.raise 0x03 (encode i) ∨
      s.issue i g regs grid priv body = s.raise 0x0D (encode i) ∨
      s.issue i g regs grid priv body = s.raise 0x04 (encode i) ∨
      (s.guardHolds g = false ∧ s.issue i g regs grid priv body = s.advance) ∨
      (s.parityHit i = true ∧ s.issue i g regs grid priv body = s.raise 0x13 s.me.pc) ∨
      (s.parityHit i = false ∧ s.guardHolds g = true ∧ s.issue i g regs grid priv body = body s) := by
  unfold State.issue
  by_cases h1 : s.regsOk regs = true <;> by_cases h2 : grid = true <;> by_cases h3 : s.me.priv.toNat < priv <;>
    by_cases h4 : s.guardHolds g = true <;> by_cases h5 : s.parityHit i = true <;> simp_all

/-- An instruction whose checks pass does its own work. -/
theorem State.issue_clear {body : State → State} (h : s.clear g regs grid priv = true) :
    s.issue i g regs grid priv body = body s := by
  unfold State.clear at h
  unfold State.issue
  simp only [Bool.and_eq_true, decide_eq_true_eq] at h
  simp [State.parityHit, h, Nat.not_lt.mpr h.1.1.2]

/-- The guard is false and the checks of the word pass: the pc advances and nothing else happens (R210). -/
theorem State.issue_guard {body : State → State} (h1 : s.regsOk regs = true) (h2 : grid = true)
    (h3 : priv ≤ s.me.priv.toNat) (h4 : s.guardHolds g = false) :
    s.issue i g regs grid priv body = s.advance := by
  simp [State.issue, h1, h2, h4, Nat.not_lt.mpr h3]

theorem State.runs_clear (h : s.runs g regs grid priv = true) : s.clear g regs grid priv = true := by
  simp only [State.runs, Bool.and_eq_true] at h
  exact h.1

theorem State.runs_next (h : s.runs g regs grid priv = true) : s.nextOk = true := by
  simp only [State.runs, Bool.and_eq_true] at h
  exact h.2

theorem State.complete_next {f : State → State} (h : s.nextOk = true) : s.complete f = (f s).advance := by
  simp [State.complete, h]

theorem State.ranged_next {f : State → State} (h : s.nextOk = true) : s.ranged f = f s := by
  simp [State.ranged, h]

/-- A register instruction that runs writes and retires. -/
theorem regInstr_runs {f : State → State} (h : s.runs g regs true 0 = true) :
    regInstr i g regs f s = .next (f s).advance := by
  simp only [regInstr]
  rw [State.issue_clear (State.runs_clear h), State.complete_next (State.runs_next h)]

/-- A vector instruction that runs writes and retires on the vector unit's time. -/
theorem vecInstr_runs {f : State → State} {n : Nat} (h : s.runs g regs grid 0 = true) :
    vecInstr i g regs grid n f s = .next ((f s).vecRetire n) := by
  simp only [vecInstr]
  rw [State.issue_clear (State.runs_clear h), State.ranged_next (State.runs_next h)]

/-! ### Retiring (R54, R195) -/

@[simp] theorem State.me_goto (s : State) (pc : W64) :
    (s.goto pc).me = ({ s.me with readyAt := s.tcycle + 8 } : Thread).retire s.tcycle pc := by
  simp [State.goto]

@[simp] theorem State.me_advance (s : State) :
    s.advance.me = ({ s.me with readyAt := s.tcycle + 8 } : Thread).retire s.tcycle (s.me.pc + 8) := by
  simp [State.advance]

theorem State.thread_goto (s : State) (pc : W64) {T h : Nat} (hc : (T, h) ≠ s.cur) :
    (s.goto pc).thread T h = s.thread T h := by
  simp [State.goto, State.thread_modMe, hc]

theorem State.thread_advance (s : State) {T h : Nat} (hc : (T, h) ≠ s.cur) :
    s.advance.thread T h = s.thread T h :=
  s.thread_goto _ hc

@[simp] theorem State.dom_goto (s : State) (pc : W64) (T d : Nat) : (s.goto pc).dom T d = s.dom T d := by
  simp [State.goto]
@[simp] theorem State.dom_advance (s : State) (T d : Nat) : s.advance.dom T d = s.dom T d := by
  simp [State.advance]
@[simp] theorem State.slot_goto (s : State) (pc : W64) (T n : Nat) : (s.goto pc).slot T n = s.slot T n := by
  simp [State.goto]
@[simp] theorem State.slot_advance (s : State) (T n : Nat) : s.advance.slot T n = s.slot T n := by
  simp [State.advance]
@[simp] theorem State.bar_goto (s : State) (pc : W64) (T b : Nat) : (s.goto pc).bar T b = s.bar T b := by
  simp [State.goto]
@[simp] theorem State.bar_advance (s : State) (T b : Nat) : s.advance.bar T b = s.bar T b := by
  simp [State.advance]
@[simp] theorem State.port_goto (s : State) (pc : W64) (T p : Nat) : (s.goto pc).port T p = s.port T p := by
  simp [State.goto]
@[simp] theorem State.port_advance (s : State) (T p : Nat) : s.advance.port T p = s.port T p := by
  simp [State.advance]

@[simp] theorem State.me_wx (s : State) (d : XReg) (v : W64) : (s.wx d v).me = s.me.wx d.toNat v := by
  simp [State.wx]
@[simp] theorem State.me_wp (s : State) (p : PReg) (v : Bool) : (s.wp p v).me = s.me.wp p.toNat v := by
  simp [State.wp]

end Sys2Proof.Machine
end

