-- ==== Sys2Proof/Laws/Memory.lean ====
section
/-! SUPPORT. Memory: reading after writing, and the canonical form, which every memory operation keeps. -/

namespace Sys2Proof.Machine

theorem Memory.get_set (m : List Host.Cell) (a b : Nat) (v : Byte) :
    Memory.get (Memory.set m a v) b = if b = a then v else Memory.get m b :=
  Table.get_set _ m a b v

/-- A byte outside the written range reads as before. -/
theorem Memory.get_write_out (m : List Host.Cell) (a b : Nat) (l : List Byte) (h : b < a ∨ a + l.length ≤ b) :
    Memory.get (Memory.write m a l) b = Memory.get m b := by
  induction l generalizing m a with
  | nil => rfl
  | cons x l ih =>
    simp only [List.length_cons] at h
    rw [Memory.write, ih _ _ (by omega), Memory.get_set, if_neg (by omega)]

/-- Byte i of the written range reads as byte i of what was written. -/
theorem Memory.get_write_in (m : List Host.Cell) (a i : Nat) (l : List Byte) (h : i < l.length) :
    Memory.get (Memory.write m a l) (a + i) = l[i] := by
  induction l generalizing m a i with
  | nil => simp at h
  | cons x l ih =>
    cases i with
    | zero =>
      rw [Memory.write, Memory.get_write_out _ _ _ _ (by omega), Memory.get_set, if_pos (by omega)]
      rfl
    | succ i =>
      simp only [List.length_cons] at h
      rw [Memory.write, show a + (i + 1) = a + 1 + i from by omega, ih _ _ _ (by omega)]
      rfl

/-- What a range that was just written reads as. -/
theorem Memory.read_write_self (m : List Host.Cell) (a : Nat) (l : List Byte) :
    Memory.read (Memory.write m a l) a l.length = l := by
  apply List.ext_getElem
  · simp [Memory.read]
  · intro i h1 h2
    simp only [Memory.read, List.getElem_map, List.getElem_range]
    exact Memory.get_write_in m a i l h2

theorem Memory.wf_nil : Memory.wf [] = true := rfl

theorem Memory.wf_set {m : List Host.Cell} (a : Nat) (v : Byte) (h : Memory.wf m = true) :
    Memory.wf (Memory.set m a v) = true :=
  Table.ok_set _ a v h

theorem Memory.wf_write {m : List Host.Cell} (a : Nat) (l : List Byte) (h : Memory.wf m = true) :
    Memory.wf (Memory.write m a l) = true := by
  induction l generalizing m a with
  | nil => exact h
  | cons x l ih => exact ih _ (Memory.wf_set a x h)

theorem Memory.wf_filter {m : List Host.Cell} (f : Host.Cell → Bool) (h : Memory.wf m = true) :
    Memory.wf (m.filter f) = true :=
  Table.ok_filter _ f h

variable {s : State}

theorem State.wf_writeMem (a : Nat) (b : List Byte) (h : Memory.wf s.mem = true) :
    Memory.wf (s.writeMem a b).mem = true :=
  Memory.wf_write a b h

theorem State.wf_lsWrite (T off : Nat) (b : List Byte) (h : Memory.wf s.mem = true) :
    Memory.wf (s.lsWrite T off b).mem = true :=
  Memory.wf_write _ b h

theorem State.wf_lsClear (T off n : Nat) (h : Memory.wf s.mem = true) : Memory.wf (s.lsClear T off n).mem = true :=
  Memory.wf_filter _ h

/-- A byte outside the written range of memory reads as before. -/
theorem State.byte_writeMem_out (s : State) (a b : Nat) (l : List Byte) (h : b < a ∨ a + l.length ≤ b) :
    (s.writeMem a l).byte b = s.byte b :=
  Memory.get_write_out _ a b l h

/-- Byte i of the written range of memory. -/
theorem State.byte_writeMem_in (s : State) (a i : Nat) (l : List Byte) (h : i < l.length) :
    (s.writeMem a l).byte (a + i) = l[i] :=
  Memory.get_write_in _ a i l h

end Sys2Proof.Machine
end

