-- ==== Sys2Proof/Laws/Vector.lean ====
section
/-! SUPPORT. Vector registers: the lanes of a register that lanes were written to, and the registers that a block write
changes. -/

namespace Sys2Proof.Bits

theorem ofBytes_append (a b : List Byte) : ofBytes (a ++ b) = ofBytes a + 256 ^ a.length * ofBytes b := by
  induction a with
  | nil => simp [ofBytes]
  | cons x a ih =>
    simp only [List.cons_append, ofBytes, ih, List.length_cons, Nat.pow_succ]
    ring

theorem toBytes_succ (n v : Nat) : toBytes (n + 1) v = BitVec.ofNat 8 v :: toBytes n (v / 256) := by
  unfold toBytes
  rw [List.range_succ_eq_map, List.map_cons, List.map_map]
  congr 1
  apply List.map_congr_left
  intro i _
  simp only [Function.comp, Nat.shiftRight_eq_div_pow]
  rw [Nat.div_div_eq_div_mul, show 2 ^ (8 * i.succ) = 256 * 2 ^ (8 * i) by
    rw [Nat.mul_succ, Nat.add_comm, Nat.pow_add]]

@[simp] theorem length_toBytes (n v : Nat) : (toBytes n v).length = n := by simp [toBytes]

/-- The number that n bytes of a number spell. -/
theorem ofBytes_toBytes (n v : Nat) : ofBytes (toBytes n v) = v % 256 ^ n := by
  induction n generalizing v with
  | zero => simp [toBytes, ofBytes, Nat.mod_one]
  | succ n ih =>
    rw [toBytes_succ, ofBytes, ih, BitVec.toNat_ofNat]
    rw [show (2 : Nat) ^ 8 = 256 from rfl, Nat.pow_succ', Nat.mod_mul (a := 256) (b := 256 ^ n) (x := v)]

theorem ofBytes_lt (l : List Byte) : ofBytes l < 256 ^ l.length := by
  induction l with
  | nil => simp [ofBytes]
  | cons b l ih =>
    simp only [ofBytes, List.length_cons, Nat.pow_succ]
    have := b.isLt
    omega

end Sys2Proof.Bits

namespace Sys2Proof.Machine

open Bits

/-- The number that lanes spell, one lane after another. -/
theorem ofBytes_lanes (l : List W32) :
    ofBytes (l.flatMap fun w => toBytes 4 w.toNat) % 2 ^ 32 = (l.headD 0).toNat ∧
      ofBytes (l.flatMap fun w => toBytes 4 w.toNat) / 2 ^ 32 = ofBytes (l.tail.flatMap fun w => toBytes 4 w.toNat) := by
  cases l with
  | nil => simp [ofBytes]
  | cons w l =>
    simp only [List.flatMap_cons, ofBytes_append, ofBytes_toBytes, length_toBytes, List.headD_cons, List.tail_cons]
    have := w.isLt
    norm_num at *
    constructor <;> omega

theorem lanes_shift (l : List W32) (k : Nat) :
    ofBytes (l.flatMap fun w => toBytes 4 w.toNat) / 2 ^ (32 * k) % 2 ^ 32 = (l.getD k 0).toNat := by
  induction k generalizing l with
  | zero =>
    rw [Nat.mul_zero, Nat.pow_zero, Nat.div_one, (ofBytes_lanes l).1]
    cases l <;> rfl
  | succ k ih =>
    rw [Nat.mul_succ, Nat.add_comm, Nat.pow_add, ← Nat.div_div_eq_div_mul, (ofBytes_lanes l).2, ih]
    cases l <;> simp

/-- Lane k of a register made of lanes. -/
theorem lane_ofLanes (l : List W32) {k : Nat} (hk : k < 64) : (ofLanes l).extractLsb' (32 * k) 32 = l.getD k 0 := by
  have h2048 : (2 : Nat) ^ 2048 = 2 ^ (32 * k) * 2 ^ (2048 - 32 * k) := by
    rw [← Nat.pow_add]; congr 1; omega
  apply BitVec.eq_of_toNat_eq
  rw [BitVec.extractLsb'_toNat, ofLanes, BitVec.toNat_ofNat, Nat.shiftRight_eq_div_pow, ← lanes_shift]
  rw [h2048, Nat.mod_mul_right_div_self]
  rw [Nat.mod_mod_of_dvd]
  exact Nat.pow_dvd_pow 2 (by omega)

@[simp] theorem length_lanesOf (v : BitVec 2048) : (lanesOf v).length = 64 := by simp [lanesOf]

theorem getD_lanesOf (v : BitVec 2048) {k : Nat} (hk : k < 64) : (lanesOf v).getD k 0 = v.extractLsb' (32 * k) 32 := by
  simp [lanesOf, List.getD, hk]

/-- A register of which lanes are written reads as what was written; every other keeps its value. -/
@[simp] theorem Thread.rv_wvLanes (t : Thread) (n k : Nat) (v : BitVec 2048) (f : Nat → Bool) :
    (t.wvLanes n v f).rv k = if k = n then v else t.rv k := by
  have := Thread.rv_wv t n k v
  simpa [Thread.wvLanes, Thread.wv, Thread.rv] using this

/-- Writes of registers: one that is not named keeps its value. -/
theorem rv_foldl_out (l : List (Nat × BitVec 2048 × (Nat → Bool))) (t : Thread) (n : Nat) (h : ∀ w ∈ l, w.1 ≠ n) :
    (l.foldl (fun t w => t.wvLanes w.1 w.2.1 w.2.2) t).rv n = t.rv n := by
  induction l generalizing t with
  | nil => rfl
  | cons w l ih =>
    rw [List.foldl_cons, ih _ (fun w hw => h w (List.mem_cons_of_mem _ hw)), Thread.rv_wvLanes,
      if_neg (Ne.symm (h w (List.mem_cons_self)))]

/-- Writes of distinct registers: one that is named holds what was written. -/
theorem rv_foldl_in (l : List (Nat × BitVec 2048 × (Nat → Bool))) (t : Thread) {w : Nat × BitVec 2048 × (Nat → Bool)}
    (hw : w ∈ l) (hd : l.Pairwise fun a b => a.1 ≠ b.1) :
    (l.foldl (fun t w => t.wvLanes w.1 w.2.1 w.2.2) t).rv w.1 = w.2.1 := by
  induction l generalizing t with
  | nil => cases hw
  | cons x l ih =>
    rw [List.pairwise_cons] at hd
    rw [List.foldl_cons]
    rcases List.mem_cons.mp hw with rfl | hw
    · rw [rv_foldl_out _ _ _ (fun y hy => Ne.symm (hd.1 y hy)), Thread.rv_wvLanes, if_pos rfl]
    · exact ih _ hw hd.2

/-- What a block write leaves alone in the thread. -/
theorem foldl_wv_fields (l : List (Nat × BitVec 2048 × (Nat → Bool))) (t : Thread) :
    ∃ v ps, l.foldl (fun t w => t.wvLanes w.1 w.2.1 w.2.2) t = { t with v := v, parity := ps } := by
  induction l generalizing t with
  | nil => exact ⟨t.v, t.parity, rfl⟩
  | cons w l ih =>
    obtain ⟨v, ps, hv⟩ := ih (t.wvLanes w.1 w.2.1 w.2.2)
    exact ⟨v, ps, by rw [List.foldl_cons, hv]; rfl⟩

theorem mem_blkCells {d : VBlock} {p : Nat × Nat} : p ∈ blkCells d ↔ p.1 < blkH d ∧ p.2 < blkW d := by
  obtain ⟨r, c⟩ := p
  simp [blkCells]

/-- The registers of a block that lies in the grid are distinct. -/
theorem blkCells_distinct {s : State} {d : VBlock} (h : s.dstOk d = true) :
    (blkCells d).Pairwise fun p q =>
      s.vnum (d.row.toNat + p.1) (d.col.toNat + p.2) ≠ s.vnum (d.row.toNat + q.1) (d.col.toNat + q.2) := by
  simp only [State.dstOk, State.blockOk, Bool.and_eq_true, decide_eq_true_eq] at h
  have hn : (blkCells d).Nodup := by
    unfold blkCells
    rw [List.nodup_flatMap]
    refine ⟨fun r _ => (List.nodup_range).map (fun a b e => by simpa using e), ?_⟩
    refine List.Pairwise.imp ?_ List.nodup_range
    intro a b hab x hx hy
    simp only [List.mem_map] at hx hy
    obtain ⟨c, _, rfl⟩ := hx
    obtain ⟨c', _, e⟩ := hy
    exact hab (by simpa using (congrArg Prod.fst e).symm)
  refine List.Pairwise.imp_of_mem ?_ hn
  intro p q hp hq hpq e
  rw [mem_blkCells] at hp hq
  unfold State.vnum at e
  have hc : 0 < modeCols s.myMode := by unfold modeCols; split <;> decide
  have h1 : d.col.toNat + p.2 < modeCols s.myMode := by omega
  have h2 : d.col.toNat + q.2 < modeCols s.myMode := by omega
  have er : d.row.toNat + p.1 = d.row.toNat + q.1 := by
    have := congrArg (· / modeCols s.myMode) e
    simpa [Nat.mul_comm _ (modeCols s.myMode), Nat.mul_add_div hc, Nat.div_eq_of_lt h1, Nat.div_eq_of_lt h2] using this
  rw [er] at e
  exact hpq (Prod.ext (by omega) (by omega))

/-- A register of a written block. -/
theorem State.rv_writeBlock_in {s : State} {d : VBlock} (h : s.dstOk d = true) (f : Nat × Nat → List W32 → List W32)
    {p : Nat × Nat} (hp : p ∈ blkCells d) :
    (s.writeBlock d f).me.rv (s.vnum (d.row.toNat + p.1) (d.col.toNat + p.2)) =
      ofLanes (f p (lanesOf (s.me.rv (s.vnum (d.row.toNat + p.1) (d.col.toNat + p.2))))) := by
  unfold State.writeBlock
  simp only [State.me_modMe]
  exact rv_foldl_in ((blkCells d).map fun p =>
      let n := s.vnum (d.row.toNat + p.1) (d.col.toNat + p.2)
      let old := lanesOf (s.me.rv n)
      let new := f p old
      (n, ofLanes new, fun i => s.me.parity.isEmpty || (f p (old.map fun w => ~~~w))[i]? == new[i]?)) s.me
    (List.mem_map_of_mem hp) (by rw [List.pairwise_map]; exact blkCells_distinct h)

/-- A register outside a written block. -/
theorem State.rv_writeBlock_out {s : State} {d : VBlock} (f : Nat × Nat → List W32 → List W32) {n : Nat}
    (h : ∀ p ∈ blkCells d, s.vnum (d.row.toNat + p.1) (d.col.toNat + p.2) ≠ n) :
    (s.writeBlock d f).me.rv n = s.me.rv n := by
  unfold State.writeBlock
  simp only [State.me_modMe]
  apply rv_foldl_out
  intro w hw
  obtain ⟨p, hp, rfl⟩ := List.mem_map.mp hw
  exact h p hp

/-- A block write changes nothing but the vector registers of the issuing thread. -/
theorem State.me_writeBlock (s : State) (d : VBlock) (f : Nat × Nat → List W32 → List W32) :
    ∃ v ps, (s.writeBlock d f).me = { s.me with v := v, parity := ps } := by
  unfold State.writeBlock
  simp only [State.me_modMe]
  exact foldl_wv_fields _ _

@[simp] theorem State.me_modDom (s : State) (T d : Nat) (f : Dom → Dom) : (s.modDom T d f).me = s.me :=
  s.thread_modDom T d f _ _

/-- Retirement on the vector unit's time changes nothing of the thread but what retirement changes. -/
theorem State.me_vecRetire (s : State) (n : Nat) :
    ∃ c, (s.vecRetire n).me = { s.me.retire s.tcycle (s.me.pc + 8) with readyAt := c } := by
  unfold State.vecRetire
  rw [State.me_advance, State.me_modDom, State.modDom_tcycle]
  exact ⟨_, rfl⟩

theorem State.onlyMeVec_vq (s : State) (T d : Nat) (q : Nat × Nat) :
    s.onlyMeVec (s.modDom T d fun x => { x with vq := x.vq ++ [q] }).advance := by
  unfold State.advance State.goto
  refine ⟨⟨fun _ => by simp [State.byte], by simp, by simp, by simp⟩, ?_, by simp [State.sameBlocks],
    ⟨by simp, by simp, by simp, rfl⟩, ?_, ?_, ?_, by simp, by simp, by simp⟩
  · intro T h hc
    rw [State.thread_modMe, if_neg (by simpa using hc), State.thread_modDom]
  all_goals intro T n; simp

theorem State.vecRetire_frame (s : State) (n : Nat) : s.onlyMeVec (s.vecRetire n) :=
  s.onlyMeVec_vq _ _ _

@[simp] theorem State.myMode_modDom (s : State) (T d : Nat) (f : Dom → Dom) : (s.modDom T d f).myMode = s.myMode := by
  show ((s.setDom T d (f (s.dom T d))).tile s.cur.1).mode = _
  unfold State.setDom
  rw [State.tile_modTile]
  split <;> rename_i h
  · rw [← h]; rfl
  · rfl

@[simp] theorem State.myMode_vecRetire (s : State) (n : Nat) : (s.vecRetire n).myMode = s.myMode := by
  unfold State.vecRetire
  simp only [State.advance, State.goto, State.myMode_modMe, State.myMode_modDom]

@[simp] theorem State.myMode_writeBlock (s : State) (d : VBlock) (f : Nat × Nat → List W32 → List W32) :
    (s.writeBlock d f).myMode = s.myMode := by
  unfold State.writeBlock
  simp only [State.myMode_modMe]

theorem State.writeBlock_frame (s : State) (d : VBlock) (f : Nat × Nat → List W32 → List W32) :
    s.onlyMe (s.writeBlock d f) := by
  unfold State.writeBlock
  refine ⟨⟨fun _ => rfl, rfl, rfl, rfl⟩, ?_, ⟨?_, ?_, ?_, ?_⟩, ⟨rfl, rfl, rfl, rfl, rfl, rfl, rfl, rfl⟩,
    ⟨rfl, rfl, rfl, rfl⟩, rfl, rfl, rfl⟩
  · intro T h hc
    rw [State.thread_modMe, if_neg hc]
  all_goals intro T n; simp

theorem State.onlyMeVec_trans {s t u : State} (h : s.onlyMe t) (hc : t.cur = s.cur) (k : t.onlyMeVec u) :
    s.onlyMeVec u := by
  obtain ⟨⟨a1, a2, a3, a4⟩, b, ⟨c1, c2, c3, c4⟩, ⟨d1, d2, d3, d4, d5, d6, d7, d8⟩, ⟨e1, e2, e3, e4⟩, f1, f2, f3⟩ := h
  obtain ⟨⟨a1', a2', a3', a4'⟩, b', ⟨d1', d2', d3', d4', d5', d6', d7', d8'⟩, ⟨e1', e2', e3', e4'⟩, c2', c3', c4',
    f1', f2', f3'⟩ := k
  rw [hc] at b'
  refine ⟨⟨fun a => (a1' a).trans (a1 a), a2'.trans a2, a3'.trans a3, a4'.trans a4⟩,
    fun T h hh => (b' T h hh).trans (b T h hh), ?_, ?_, fun T n => (c2' T n).trans (c2 T n),
    fun T n => (c3' T n).trans (c3 T n), fun T n => (c4' T n).trans (c4 T n), f1'.trans f1, f2'.trans f2, f3'.trans f3⟩
  · exact ⟨d1'.trans d1, d2'.trans d2, d3'.trans d3, d4'.trans d4, d5'.trans d5, d6'.trans d6, d7'.trans d7,
      d8'.trans d8⟩
  · exact ⟨e1'.trans e1, e2'.trans e2, e3'.trans e3, e4'.trans e4⟩

/-- A vector instruction that writes a block: the lanes written, and everything else as it was. -/
theorem vecInstr_written {i : Instr} {g : Guard} {regs : List XReg} {grid : Bool} {s : State} {d : VBlock} {n : Nat}
    {F : State → Nat × Nat → List W32 → List W32} (h : s.runs g regs grid 0 = true) (hd : s.dstOk d = true) :
    ∃ t, vecInstr i g regs grid n (fun s => s.writeBlock d (F s)) s = .next t ∧
      s.blockWritten t d fun p k => (F s p (lanesOf (s.blockReg d.row d.col p))).getD k 0 := by
  refine ⟨_, vecInstr_runs h, ?_⟩
  obtain ⟨c, hc⟩ := State.me_vecRetire (s.writeBlock d (F s)) n
  obtain ⟨v, ps, hv⟩ := State.me_writeBlock s d (F s)
  have hm : ∀ r q, ((s.writeBlock d (F s)).vecRetire n).vnum r q = s.vnum r q := by
    intro r q
    unfold State.vnum
    rw [State.myMode_vecRetire, State.myMode_writeBlock]
  refine ⟨?_, ?_, ?_, ?_, ?_, ?_, ?_, State.onlyMeVec_trans (State.writeBlock_frame s d (F s)) rfl
    (State.vecRetire_frame _ n)⟩
  · intro p h1 h2 k hk
    have := State.rv_writeBlock_in hd (F s) (p := p) (mem_blkCells.mpr ⟨h1, h2⟩)
    unfold State.dLane State.blockReg
    rw [hm, hc]
    change ((s.writeBlock d (F s)).me.rv _).extractLsb' _ _ = _
    rw [this, lane_ofLanes _ hk]
  · intro m hm'
    rw [hc]
    change (s.writeBlock d (F s)).me.rv m = _
    exact State.rv_writeBlock_out (F s) fun p hp => hm' p (mem_blkCells.mp hp).1 (mem_blkCells.mp hp).2
  all_goals rw [hc, hv]
  · rfl
  · rfl
  · rfl
  · rfl
  · exact ⟨rfl, rfl, rfl, rfl, rfl, rfl, rfl, rfl, rfl, rfl⟩

end Sys2Proof.Machine
end

