-- ==== Sys2Proof/Tests/Slice0.lean ====
section
/-! SUPPORT. Tests on fixed values: ill-formed terms that WellFormed refuses, words of the spec and what they decode to,
single steps with results that the spec states, and for the statements with hypotheses a state and operands that meet
them. -/

namespace Sys2Proof.Tests

open Sys2Proof.Machine Bits

set_option Elab.async false

def g0 : Guard := ⟨false, 0⟩

/-! ## WellFormed: an ill-formed term for each check, and a well-formed neighbour -/

theorem test_wf_cmp_type : (Instr.cmp g0 .w8 1 2 3 .eq).wf = false ∧ (Instr.cmp g0 .i64 1 2 3 .eq).wf = true := by decide
theorem test_wf_fcvt_pair : (Instr.fcvt g0 (.int .i32) (.int .i32) .rne false 1 2).wf = false ∧
    (Instr.fcvt g0 (.int .i32) (.flt .f32) .rz false 1 2).wf = true := by decide
theorem test_wf_order_scope : (Instr.ld g0 false .b4 ⟨.plain, 3⟩ 1 ⟨2, 0, 0⟩).wf = false ∧
    (Instr.ld g0 false .b4 ⟨.plain, 0⟩ 1 ⟨2, 0, 0⟩).wf = true := by decide
theorem test_wf_load_order : (Instr.ld g0 false .b4 ⟨.rel, 3⟩ 1 ⟨2, 0, 0⟩).wf = false ∧
    (Instr.vld g0 .b1 ⟨.rel, 3⟩ ⟨0, 0⟩ ⟨2, 0, 0⟩).wf = false := by decide
theorem test_wf_store_order : (Instr.st g0 .b4 ⟨.acq, 3⟩ 1 ⟨2, 0, 0⟩).wf = false ∧
    (Instr.vst g0 .b1 ⟨.acq, 3⟩ ⟨0, 0⟩ ⟨2, 0, 0⟩).wf = false := by decide
theorem test_wf_ldfe_mode : (Instr.ldfe g0 .wef ⟨.plain, 0⟩ 1 ⟨2, 0, 0⟩).wf = false := by decide
theorem test_wf_stfe_mode : (Instr.stfe g0 .wff ⟨.plain, 0⟩ 1 ⟨2, 0, 0⟩).wf = false ∧
    (Instr.stfe g0 .wfe ⟨.plain, 0⟩ 1 ⟨2, 0, 0⟩).wf = false := by decide
theorem test_wf_fetest_feset : (Instr.fetest g0 ⟨.plain, 1⟩ 1 ⟨2, 0, 0⟩).wf = false ∧
    (Instr.feset g0 true ⟨.plain, 1⟩ ⟨2, 0, 0⟩).wf = false := by decide
theorem test_wf_fence_order : (Instr.fence g0 ⟨.plain, 0⟩).wf = false ∧ (Instr.fence g0 ⟨.ar, 3⟩).wf = true := by decide
theorem test_wf_atomic_size : (Instr.amoadd g0 false .b2 false ⟨.plain, 0⟩ 1 ⟨2, 0, 0⟩).wf = false ∧
    (Instr.amoswap g0 false .b1 true ⟨.plain, 0⟩ 1 ⟨2, 0, 0⟩).wf = false ∧
    (Instr.amocas g0 false .b2 ⟨.plain, 0⟩ 1 ⟨2, 0, 0⟩).wf = false := by decide
theorem test_wf_amofadd_order : (Instr.amofadd g0 false ⟨.plain, 2⟩ 1 ⟨2, 0, 0⟩).wf = false := by decide
theorem test_wf_lane_size : (Instr.vldg g0 false .b8 0 ⟨.plain, 0⟩ ⟨0, 0⟩ 2 ⟨1, 0⟩ 0).wf = false ∧
    (Instr.vsts g0 .b8 0 ⟨.plain, 0⟩ ⟨0, 0⟩ 2 ⟨1, 0⟩ 0).wf = false := by decide
theorem test_wf_vector_rounding : (Instr.vadd g0 .i32 .rz false ⟨0, 0, 0, 0⟩ ⟨0, 0⟩ (.blk ⟨0, 0⟩) 0).wf = false := by decide
theorem test_wf_vector_sign_saturation : (Instr.vabs g0 (.flt .f32) true ⟨0, 0, 0, 0⟩ ⟨0, 0⟩ 0).wf = false := by decide
theorem test_wf_vector_shift_type : (Instr.vshl g0 (.flt .f32) ⟨0, 0, 0, 0⟩ ⟨0, 0⟩ (.blk ⟨0, 0⟩) 0).wf = false := by decide
theorem test_wf_vcmp_condition : (Instr.vcmp g0 .i32 .un 1 ⟨0, 0⟩ (.blk ⟨0, 0⟩) 0).wf = false := by decide
theorem test_wf_vcvt_lane : (Instr.vcvt g0 (.int .i64) (.flt .f32) .rne false ⟨0, 0, 0, 0⟩ ⟨0, 0⟩ 0).wf = false := by decide
theorem test_wf_reduction_type : (Instr.vredmax g0 .i8 ⟨0, 0, 0, 0⟩ ⟨0, 0⟩ 0).wf = false ∧
    (Instr.vscan g0 (.flt .f32) .rne true ⟨0, 0, 0, 0⟩ ⟨0, 0⟩ 0).wf = false := by decide
theorem test_wf_vshuf_pattern : (Instr.vshuf g0 ⟨0, 0, 0, 0⟩ ⟨0, 0⟩ ⟨0, 0⟩ 5 0).wf = false := by decide
theorem test_wf_vcompress_group : (Instr.vcompressMag g0 ⟨0, 0, 0, 0⟩ ⟨0, 0⟩ 0 0).wf = false ∧
    (Instr.vcompressMag g0 ⟨0, 0, 0, 0⟩ ⟨0, 0⟩ 1 2).wf = false := by decide
theorem test_wf_mdrain_saturation : (Instr.mdrain g0 .none true 0 1 2 0).wf = false := by decide
theorem test_wf_mdrainv_count : (Instr.mdrainv g0 .none false ⟨0, 0⟩ 0 1 64).wf = false ∧
    (Instr.mdrainv g0 .none false ⟨0, 0⟩ 0 1 63).wf = true := by decide
theorem test_wf_sort_group : (Instr.msort g0 .f32 13 1 2 0).wf = false ∧ (Instr.mtopk g0 .f32 3 8 1 2 0).wf = false := by decide
theorem test_wf_mailbox_register : (Instr.take g0 6 1 0).wf = false ∧ (Instr.await g0 8 1 0).wf = true := by decide
theorem test_wf_status_register : (Instr.csrr g0 1 0x014).wf = false ∧ (Instr.csrw g0 1 2 0x000).wf = false := by decide
theorem test_wf_repart_mode : (Instr.repart g0 1 2 3).wf = false := by decide
theorem test_wf_request_code : (Instr.launch 0 false 2).wf = false ∧ (Instr.launch 4 false 1).wf = false ∧
    (Instr.launch 0 false 1).wf = true := by decide +kernel

/-! ## Words that the spec writes out -/

/-- R231, R232, R224: immediate and ALU words (08_scalar.md, 09_control.md). -/
theorem test_decode_integer : decode 0x3800E1C0FFFFFFF8#64 = .ok (.addi g0 7 7 0xFFFFFFF8) ∧
    decode 0x4000A00000004000#64 = .ok (.movi g0 5 0x4000) ∧ decode 0x4100BC4000000000#64 = .ok (.movhi g0 5 0x1C4000000000) ∧
    decode 0x1700C10280001800#64 = .ok (.rem g0 .i64 6 4 5) ∧ decode 0x1000814000001800#64 = .ok (.add g0 .i64 false 4 5 0) := by
  decide
/-- R233: compares. -/
theorem test_decode_compare : decode 0x4800010280221000#64 = .ok (.cmp g0 .i32 2 4 5 .lt) ∧
    decode 0x4900014100000000#64 = .ok (.cmpi g0 1 5 0 .eq) := by decide
/-- R241 to R247: the words of the gcd routine, and `trap`. -/
theorem test_decode_control : decode 0x0303E00000000002#64 = .ok (.call g0 31 2) ∧ decode 0x0800000000000000#64 = .ok (.exit g0) ∧
    decode 0x041007C000000000#64 = .ok (.jr ⟨false, 1⟩ 0 31) ∧
    decode 0x02001FFFFFFFFFFB#64 = .ok (.br g0 0x1FFFFFFFFFFB) ∧ decode 0x0A00000000000001#64 = .ok (.trap g0 1) := by decide
/-- R270, R271: scalar float words. -/
theorem test_decode_float : decode 0x6C00A18010001200#64 = .ok (.fcvt g0 (.int .i32) (.flt .f32) .rz false 5 6) ∧
    decode 0x6300610286008000#64 = .ok (.ffma g0 .f32 .rne false 3 4 5 6) := by decide
/-- R207, R251, R253, R257: memory words. -/
theorem test_decode_memory : decode 0x70B0628035800010#64 = .ok (.ld ⟨true, 3⟩ false .b8 ⟨.acq, 3⟩ 3 ⟨10, 0, 16⟩) ∧
    decode 0x7300828039A00000#64 = .ok (.stfe g0 .wef ⟨.rel, 3⟩ 4 ⟨10, 0, 0⟩) ∧
    decode 0x7200A2C035900000#64 = .ok (.ldfe g0 .wfe ⟨.acq, 3⟩ 5 ⟨11, 0, 0⟩) ∧
    decode 0x8200C283BD800000#64 = .ok (.amocas g0 false .b8 ⟨.ar, 3⟩ 6 ⟨10, 7, 0⟩) ∧
    decode 0x7100828001400000#64 = .ok (.stWc g0 .b4 4 ⟨10, 0, 0⟩) ∧ decode 0x770000003C000000#64 = .ok (.fence g0 ⟨.ar, 3⟩) := by
  decide
/-- R259, R277, R286, R289: vector and mask words. -/
theorem test_decode_vector : decode 0x8802028001000000#64 = .ok (.vld g0 .b4 ⟨.plain, 0⟩ ⟨2, 0⟩ ⟨10, 0, 0⟩) ∧
    decode 0x9000013204000000#64 = .ok (.vadd g0 (.flt .f32) .rne false ⟨0, 0, 1, 3⟩ ⟨2, 0⟩ (.blk ⟨4, 0⟩) 0) ∧
    decode 0xA002200001000000#64 = .ok (.vcmp g0 (.flt .f32) .lt 2 ⟨0, 0⟩ (.blk ⟨1, 0⟩) 0) ∧
    decode 0xB401000000000421#64 = .ok (.vcompressMag g0 ⟨1, 0, 0, 0⟩ ⟨0, 0⟩ 2 1) ∧
    decode 0xA300000000000104#64 = .ok (.vbcast g0 ⟨0, 0, 0, 0⟩ 4 0) ∧
    decode 0xA301000100000000#64 = .ok (.vbcastLane g0 ⟨1, 0, 0, 0⟩ ⟨1, 0⟩ 0 0) ∧
    decode 0xAE01000000000000#64 = .ok (.vredmax g0 (.flt .f32) ⟨1, 0, 0, 0⟩ ⟨0, 0⟩ 0) ∧
    decode 0xB703000102000000#64 = .ok (.mand g0 3 1 2) ∧ decode 0xBB00000300000005#64 = .ok (.mpop g0 5 3) := by decide
/-- R294, R299, R305: matrix words. -/
theorem test_decode_matrix : decode 0xC001400520010000#64 = .ok (.mstep g0 5 2 10 1) ∧
    decode 0xCA00C00020000100#64 = .ok (.wstatWait g0 6 2) ∧
    decode 0xC60142C200003000#64 = .ok (.mtopk g0 .f32 3 2 11 10 0) := by decide
/-- R261 to R263, R313: mailbox, barrier and status register words. -/
theorem test_decode_sync_and_system : decode 0xD300028205003100#64 = .ok (.post g0 10 4 5 0x0031) ∧
    decode 0xD6010000FFFF0031#64 = .ok (.await g0 8 0 0xFFFF0031) ∧ decode 0xD800014000000012#64 = .ok (.barexp g0 5 2 true) ∧
    decode 0xE800A00011000000#64 = .ok (.csrr g0 5 0x011) := by decide
/-- R212: an opcode that the map leaves empty, a nonzero reserved field, and a condition that `cmp` does not accept. -/
theorem test_decode_refuses : decode 0x0B00000000000000#64 = .error .illegal ∧ decode 0x0100000000000001#64 = .error .reserved ∧
    decode 0x4800010280821000#64 = .error .unaccepted := by decide

/-! ## Single steps with results that the spec states -/

/-- Thread 0 of tile 0, alone on its tile, with a stage record: one thread, a saddle of 128 bytes, a private area of 2048
bytes at 0x1000, a domain of 64 KiB with a code image of 1 KiB. -/
def base : State :=
  let s := ({ State.reset with timers := [] } : State).withProgram
  { s.modDom 0 0 fun d => { d with srec := (0x800#24 ++ 0x1000#24 ++ 0#203 ++ 128#13 ++ 0#35 ++ 1#5).setWidth 2048,
                                   accMask := BitVec.allOnes 64, slotMask := 1, commitKib := 1, trapBase := 0x200 } with
    cur := (0, 0) }
/-- The same with registers of the thread, a list that rises in the register number. -/
def withX (l : Tbl W64) : State := base.modMe fun t => { t with x := l }
def withMe (f : Thread → Thread) : State := base.modMe f
def withDom (f : Dom → Dom) : State := base.modDom 0 0 f
def after (i : Instr) (s : State) : State :=
  match exec i s with
  | .next t => t
  | _ => s
/-- x3 after an instruction with these registers. -/
def x3 (i : Instr) (l : Tbl W64) : W64 := (after i (withX l)).rx 3
def org : Nat → VOrg := fun r => ⟨BitVec.ofNat 4 r, 0⟩
def one (r : Nat) : VBlock := ⟨BitVec.ofNat 4 r, 0, 0, 0⟩
def plain : Order := ⟨.plain, 0⟩
/-- The private address of offset 0. -/
def priv0 : W64 := 0xE000000000000000

/-- R225: the table of sums. -/
theorem test_add_and_saturation : x3 (.add g0 .i8 false 3 4 5) [(4, 100), (5, 100)] = 0xFFFFFFFFFFFFFFC8 ∧
    x3 (.add g0 .i8 true 3 4 5) [(4, 100), (5, 100)] = 0x7F ∧ x3 (.add g0 .w8 true 3 4 5) [(4, 200), (5, 100)] = 0xFF ∧
    x3 (.sub g0 .w64 true 3 4 5) [(4, 3), (5, 5)] = 0 := by decide
/-- R225, R228: the most negative number. -/
theorem test_neg_and_abs : x3 (.neg g0 .i64 false 3 4) [(4, 0x8000000000000000)] = 0x8000000000000000 ∧
    x3 (.neg g0 .i64 true 3 4) [(4, 0x8000000000000000)] = 0x7FFFFFFFFFFFFFFF ∧
    x3 (.abs g0 .i64 false 3 4) [(4, 0x8000000000000000)] = 0x8000000000000000 ∧
    x3 (.neg g0 .w64 true 3 4) [(4, 1)] = 0 := by decide
/-- R227: the table of quotients and remainders. -/
theorem test_divide : x3 (.div g0 .i64 3 4 5) [(4, 7), (5, -2)] = -3 ∧ x3 (.rem g0 .i64 3 4 5) [(4, 7), (5, -2)] = 1 ∧
    x3 (.rem g0 .i64 3 4 5) [(4, -7), (5, 2)] = -1 ∧ x3 (.div g0 .i64 3 4 5) [(4, 5)] = -1 ∧
    x3 (.rem g0 .i64 3 4 5) [(4, 5)] = 5 ∧ x3 (.divw g0 .i64 3 4 5) [(4, 7)] = -1 ∧
    x3 (.div g0 .i64 3 4 5) [(4, 0x8000000000000000), (5, -1)] = 0x8000000000000000 ∧
    x3 (.div g0 .i32 3 4 5) [(4, 0x80000000), (5, -1)] = 0xFFFFFFFF80000000 ∧
    x3 (.divw g0 .w32 3 4 5) [(4, 0x100000007), (5, 2)] = 3 := by decide
/-- R229: the example of the bit-field instructions. -/
theorem test_bit_fields : x3 (.bfx g0 .i64 3 4 5 6) [(4, 0xF0A5), (5, 4), (6, 8)] = 0x0A ∧
    x3 (.bfx g0 .i64 3 4 5 6) [(4, 0xF0A5), (5, 8), (6, 8)] = 0xFFFFFFFFFFFFFFF0 ∧
    x3 (.bfxw g0 .i64 3 4 5 6) [(4, 0xF0A5), (5, 8), (6, 8)] = 0xF0 ∧
    x3 (.bfx g0 .i64 3 4 5 6) [(4, 0xF0A5), (5, 60), (6, 8)] = 0 := by decide
/-- R231, R232: sign extension of immediates, and `movhi` after `movi`. -/
theorem test_immediates : x3 (.andi g0 3 4 0xFFFFFFF8) [(4, 0xFFFFFFFFFF)] = 0xFFFFFFFFF8 ∧
    x3 (.ori g0 3 4 0xFFFFFFFF) [] = 0xFFFFFFFF ∧ x3 (.movi g0 3 0x4000) [] = 0x4000 ∧
    x3 (.movhi g0 3 0x1C4000000000) [(3, 0x4000)] = 0xE200000000004000 := by decide
/-- R240: `mkshr` ignores the bits above the fields. -/
theorem test_mkshr : x3 (.mkshr g0 3 4 5) [(4, 0xFFFFF045), (5, 0xFF010410)] = 0xE200045000010410 := by decide
/-- R238, R239: the conversions of a private address, here with the private area of `base`. -/
theorem test_spctest_spcast : x3 (.spctest g0 3 2 4) [(4, 0xE000000000000010)] = 1 ∧
    x3 (.spcast g0 3 2 4 .loc) [(4, 0xE000000000000010)] = 0xE100000000001010 ∧
    x3 (.spcast g0 3 2 4 .dev) [(4, 0xE000000000000010)] = 0xFF00700000001010 ∧
    x3 (.spcast g0 3 2 4 .loc) [(4, 0x10)] = 0 := by decide
/-- R270: the table of conversions. -/
theorem test_fcvt : x3 (.fcvt g0 (.int .i32) (.flt .f32) .rz false 3 4) [(4, 0xC02CCCCD)] = -2 ∧
    x3 (.fcvt g0 (.int .i32) (.flt .f32) .rne false 3 4) [(4, 0xC02CCCCD)] = -3 ∧
    x3 (.fcvt g0 (.int .w8) (.flt .f32) .rne false 3 4) [(4, 0x43960000)] = 0xFF ∧
    x3 (.fcvt g0 (.flt .bf16) (.flt .f32) .rne false 3 4) [(4, 0x3F808000)] = 0x3F80 ∧
    x3 (.fcvt g0 (.flt .f32) (.int .i32) .rne false 3 4) [(4, 16777217)] = 0x4B800000 := by decide +kernel
/-- R272: rounding to an integral value. -/
theorem test_frnd : x3 (.frnd g0 .f32 .rne 3 4) [(4, 0x40200000)] = 0x40000000 ∧
    x3 (.frnd g0 .f32 .ru 3 4) [(4, 0x40200000)] = 0x40400000 ∧ x3 (.frnd g0 .f32 .rz 3 4) [(4, 0xBF000000)] = 0x80000000 := by
  decide +kernel
/-- R243: `loop` entered with 1 falls through, with 0 it branches. -/
theorem test_loop : (after (.loop g0 9 0x1FFFFFFFFFFF) (withX [(9, 1)])).me.pc = 8 ∧
    (after (.loop g0 9 2) (withX [])).me.pc = 16 ∧ (after (.loop g0 9 2) (withX [])).rx 9 = -1 := by decide
/-- R61, R250: bytes lie least significant first; a narrow load extends by its sign form. -/
theorem test_store_then_load : let s := after (.st g0 .b4 plain 4 ⟨10, 0, 0⟩) (withX [(4, 0x80FF), (10, priv0)])
    s.byte (lsAddr 0 0x1000) = 0xFF ∧ s.byte (lsAddr 0 0x1001) = 0x80 ∧
    (after (.ld g0 true .b2 plain 3 ⟨10, 0, 0⟩) s).rx 3 = 0xFFFFFFFFFFFF80FF := by decide
/-- R257: an atomic returns the old value. -/
theorem test_amoadd : let s := after (.amoadd g0 false .b8 false plain 3 ⟨10, 0, 0⟩) (withX [(3, 1), (10, priv0)])
    s.rx 3 = 0 ∧ s.byte (lsAddr 0 0x1000) = 1 := by decide
/-- R253: a full-empty store into an empty word fills it. -/
theorem test_stfe : let s := after (.stfe g0 .wef plain 4 ⟨10, 0, 0⟩) (withX [(4, 42), (10, priv0)])
    s.feBit 0 0x1000 = true ∧ s.byte (lsAddr 0 0x1000) = 42 ∧
      (after (.ldfe g0 .wfe plain 5 ⟨10, 0, 0⟩) s).rx 5 = 42 := by decide
/-- R345, R346: a misaligned load enters the handler with its cause and address. -/
theorem test_misaligned_load : let s := after (.ld g0 false .b4 plain 3 ⟨10, 0, 1⟩) (withX [(10, priv0)])
    s.me.cause = 0x05 ∧ s.me.trapVal = 0xE000000000000001 ∧ s.me.pc = 0x200 ∧ s.me.priv = 1 := by decide
/-- R286: the example with n = 2 and g = 4, lanes 0.5, -3, 0x7FC00000, 2. -/
theorem test_vcompress :
    let v : BitVec 2048 := 0x40000000#32 ++ 0x7FC00000#32 ++ 0xC0400000#32 ++ 0x3F000000#32
      |>.setWidth 2048
    let s := withMe fun t => { t with v := [(0, v)] }
    ((after (.vcompressMag g0 (one 1) (org 0) 2 1) s).me.rv 4).extractLsb' 0 128 =
        0#32 ++ 0x7FC00000#32 ++ 0xC0400000#32 ++ 0#32 ∧
      ((after (.vcompressTop g0 .f32 (one 1) (org 0) 2 1) s).me.rv 4).extractLsb' 0 128 =
        0x40000000#32 ++ 0x7FC00000#32 ++ 0#32 ++ 0#32 := by decide +kernel
/-- R179, R263: arming a barrier with nothing pending completes it. -/
theorem test_barexp_arm : ((after (.barexp g0 5 2 true) (base.setBar 0 2 { Barrier.reset with owner := 1 })).bar 0 2).done =
    true := by decide
/-- R317: `csrr` reads the cause field. -/
theorem test_csrr : (after (.csrr g0 3 0x011) (withMe fun t => { t with cause := 9, pprv := 1, priv := 1 })).rx 3 = 0x49 := by
  decide

/-! ## States and operands that meet the hypotheses of the statements: thread instructions -/

theorem test_meets_IntegerResults : base.runs g0 [3, 4, 5] true 0 = true ∧ base.runs g0 [3, 4] true 0 = true := by decide
theorem test_meets_BitAndImmediateForms : base.runs g0 [3, 4, 5, 6] true 0 = true ∧ base.runs g0 [3, 4] true 0 = true ∧
    base.runs g0 [3] true 0 = true ∧ fieldBits 64 64 1 = 0 ∧ fieldBits 64 63 8 = 1 ∧ fieldBits 8 0 64 = 8 ∧ fieldBits 8 7 0 = 0 := by
  decide
theorem test_meets_ComparesAndPredicates : base.runs g0 [3, 4, 5] true 0 = true := by decide
theorem test_meets_GenericAddresses : let s := withX [(4, 0xE0000000000007FF)]
    s.runs g0 [3, 4, 0] true 0 = true ∧ s.runs g0 [3, 4, 5] true 0 = true ∧ s.localOf (s.rx 4) = some (0, 0x17FF) ∧
    s.castTo .loc (0, 0x17FF) = some 0xE1000000000017FF ∧ s.castTo .priv (0, 0x17FF) = some 0xE0000000000007FF ∧
    s.castTo .priv (0, 0x1800) = none ∧ s.localOf 0 = none := by decide
theorem test_meets_ScalarFloat : base.runs g0 [3, 4, 5, 6] true 0 = true ∧ base.runs g0 [3, 4, 5] true 0 = true ∧
    base.runs g0 [3, 4] true 0 = true := by decide
theorem test_meets_ScalarFloatCompletes : base.runs g0 [31, 0, 31, 7] true 0 = true ∧ base.runs g0 [31, 0, 31] true 0 = true ∧
    base.runs g0 [31, 0] true 0 = true := by decide
theorem test_meets_VectorLanes : base.runs2 g0 (one 0) (org 1) (.blk (org 2)) = true ∧
    base.runs2 g0 (one 7) (org 6) (.bcast 5) = true ∧ base.runs1 g0 [] (one 0) (org 1) = true := by decide
theorem test_meets_VectorMoves : base.runs2 g0 (one 0) (org 1) (.blk (org 2)) = true ∧
    base.runs g0 [5] (base.dstOk (one 0)) 0 = true ∧ base.runs1 g0 [] (one 0) (org 1) = true := by decide
theorem test_meets_VectorFolds : base.runs1 g0 [] (one 0) (org 1) = true ∧ (base.me.rm 0).getLsbD 63 = true ∧
    (base.me.rm 1).getLsbD 63 = false := by decide
theorem test_meets_VectorPermutesAndBlocks : base.runs2 g0 (one 0) (org 1) (.blk (org 2)) = true ∧
    base.runs g0 [5] (base.dstOk (one 0) && base.orgOk (one 0) (org 1)) 0 = true ∧ (4#7).toNat < 5 ∧
    base.runs g0 [] (base.dstOk (one 0) && base.orgOk (one 0) (org 1) && base.orgOk (one 0) (org 2)) 0 = true ∧
    base.runs1 g0 [] (one 0) (org 1) = true ∧ 1 ≤ (1#3).toNat ∧ (6#3).toNat ≤ 6 := by decide
theorem test_meets_MaskInstructions :
    base.runs g0 (vbRegs (.bcast 5)) (base.orgOk oneBlock (org 1) && base.vbOk oneBlock (.bcast 5)) 0 = true ∧
    base.runs g0 [] true 0 = true ∧ base.runs g0 [3] true 0 = true := by decide

/-- x10 names the private area's first byte, x11 its last doubleword. -/
def mem : State := withX [(4, 0x1234), (10, priv0), (11, priv0 + 0x7F8)]

theorem test_meets_LoadAndStore : mem.runs g0 [4, 11, 0] true 0 = true ∧
    mem.ownOffset (mem.rx 11 + mem.rx 0 + (0#20).signExtend 64) 8 = some 0x17F8 ∧ mem.orderMet plain = true ∧
    mem.orderMet ⟨.rel, 3⟩ = true ∧ mem.alone 0x17F8 8 = true ∧ mem.intact 0x17F8 8 = true := by decide
theorem test_meets_Atomics : mem.runs g0 [4, 10, 5] true 0 = true ∧ mem.orderMet ⟨.ar, 3⟩ = true ∧
    mem.ownOffset (mem.rx 10 + mem.rx 5 + (0#20).signExtend 64) 4 = some 0x1000 ∧
    mem.ownOffset (mem.rx 10 + (0#20).signExtend 64) 8 = some 0x1000 ∧ mem.alone 0x1000 8 = true ∧
    mem.intact 0x1000 8 = true := by decide
theorem test_meets_VectorLoadStore : mem.runs g0 [10, 0] (mem.vregOk ⟨0, 3⟩ && decide (3 + 1 ≤ modeCols mem.myMode)) 0 = true ∧
    (∀ k < 32, mem.ownOffset (mem.rx 10 + mem.rx 0 + (0#20).signExtend 64 + BitVec.ofNat 64 (8 * k)) 8 =
      some (0x1000 + 8 * k) ∧ mem.alone (0x1000 + 8 * k) 8 = true) ∧ ∀ k < 32, mem.intact (0x1000 + 8 * k) 8 = true := by
  decide
theorem test_meets_VectorLanesMemory : mem.runs g0 [10] (mem.vregOk ⟨0, 0⟩ && mem.vregOk ⟨1, 0⟩) 0 = true ∧
    mem.lanesReach 0 4 (fun i => mem.rx 10 + (0#20).signExtend 64 + (mem.lane ⟨1, 0⟩ i).signExtend 64) (fun _ => 0x1000) ∧
    mem.lanesReach 0 4 (fun i => mem.rx 10 + (0#20).signExtend 64 + BitVec.ofNat 64 i * mem.rx 0) (fun _ => 0x1000) ∧
    mem.runs g0 [10, 0] (mem.vregOk ⟨0, 0⟩) 0 = true ∧ mem.intact 0x1000 4 = true := by
  unfold State.lanesReach; decide +kernel
theorem test_meets_AccessesThatLeave : let s := withX [(10, 0xE200000000BFFFF8), (11, 0x10000)]
    s.runs g0 [4, 10, 0] true 0 = true ∧ s.me.outst = [] ∧
    s.awayAt (s.rx 10) 8 = some (s.nodeOf 0, lsAddr 0 0xBFFFF8) ∧
    s.awayAt (s.rx 11) 8 = some (.station (xlatStation 1 0x10000), 0x10000) := by decide
/-- One address for each clause, at a boundary of its window: a private and a saddle access that ends past its area, a
local one just below and just past the allotment, shared ones past the tile's store and of a tile next to the fabric. -/
theorem test_meets_AccessCauses : let s := withDom fun d => { d with lsBase := 0x100, lsSize := 0x100 }
    s.clear g0 [4, 10, 0] true 0 = true ∧ s.myDom.privSize < 0x7FC + 8 ∧ ¬ s.myDom.privSize < 0x7F8 + 8 ∧
    0xF8 < s.myDom.lsBase ∧ s.myDom.lsBase + s.myDom.lsSize < 0x1FC + 8 ∧ 0xC00000 < 0xBFFFFC + 8 ∧ s.myDom.fheight ≤ 64 / 64 ∧
    s.myDom.fwidth ≤ 1 % 64 ∧ s.myDom.saddleSize < 0x7C + 8 ∧ s.me.priv = 0 ∧ placeOf 0 = .dram 0 ∧
    placeOf (lsAddr 0 0) = .store 0 0 := by decide
theorem test_meets_FullEmpty : let s := mem.setFe 0 0x1000 true
    mem.runs g0 [4, 10, 0] true 0 = true ∧ mem.ownOffset (mem.rx 10) 8 = some 0x1000 ∧ (mem.tile 0).feq = [] ∧
    mem.feBit 0 0x1000 = false ∧ s.feBit 0 0x1000 = true ∧ s.ownOffset (s.rx 10) 8 = some 0x1000 ∧ s.alone 0x1000 8 = true ∧
    s.lsBad 0 0x1000 8 = false ∧ (s.rx 10).extractLsb' 56 8 ≠ 0xE3 := by decide
theorem test_meets_FullEmptyElsewhere : let s := withX [(10, 0xE200000000001000), (11, 0xE300000000000000)]
    s.clear g0 [4, 10, 0] true 0 = true ∧ s.nextOk = true ∧ s.awayAt (s.rx 10) 8 = some (s.nodeOf 0, lsAddr 0 0x1000) ∧
    (s.rx 11).extractLsb' 56 8 ∉ [0xE0, 0xE1, 0xE2] := by decide
theorem test_meets_WaveCommitStore : let s := withX [(10, 0xE100000000000100), (11, 0xE200000000BFFFFC), (12, 0x100)]
    s.runs g0 [4, 10, 0] true 0 = true ∧ (s.ownOffset (s.rx 10) 4).isSome = true ∧ s.myDom.commit0 < s.myDom.commitKib * 32 ∧
    (s.rx 11).extractLsb' 0 24 = 0xBFFFFC ∧ (s.rx 12).extractLsb' 56 8 = 0 ∧
    ((withDom fun d => { d with commit0 := 32 }).myDom.commitKib * 32 ≤ 32) := by decide
theorem test_meets_FenceAndPrefetch : let s := withMe fun t => { t with outst := [⟨0, 0x10000, 8, false⟩] }
    base.runs g0 [] true 0 = true ∧ base.orderMet ⟨.ar, 3⟩ = true ∧ s.priorDone 0 0 = false ∧ base.runs g0 [10, 0] true 0 = true := by
  decide
theorem test_meets_ControlTransfers : let s := withX [(10, 0x3F8), (11, 0x3FC), (12, 0x400)]
    s.runs g0 [] true 0 = true ∧ s.clear g0 [1] true 0 = true ∧ s.clear g0 [1, 10] true 0 = true ∧ s.myDom.codeSize = 0x400 ∧
    (s.rx 10).toNat < 0x400 ∧ (s.rx 11).toNat % 8 ≠ 0 ∧ 0x400 ≤ (s.rx 12).toNat := by decide
theorem test_meets_LoopCounts : base.clear g0 [9] true 0 = true ∧ (base.me.pc + (0x7F#45).signExtend 64 * 8).toNat < 0x400 := by
  decide
theorem test_meets_WaitsAndStepEnds : let s := withMe fun t => { t with outst := [⟨0, 0x10000, 8, false⟩] }
    base.runs g0 [3, 4] true 0 = true ∧ (base.rx 4).toNat ≤ base.time.toNat ∧ base.time.toNat < ((1#32).setWidth 64 : W64).toNat ∧
    base.priorDone 0 0 = true ∧ s.priorDone 0 0 = false ∧ s.runs g0 [] true 0 = true ∧ base.me.mfail = [] ∧
    (withMe fun t => { t with mfail := [8] }).me.mfail = [8] ∧ base.myDom.nThreads = 1 ∧
    ((base.modDom 0 0 fun d => { d with srec := 2, thrCount := 2 }).thread 0 1).run ≠ .done := by decide
theorem test_meets_TrapEntry : base.myDom.trapBase ≠ 0 ∧ base.me.cause = 0 ∧ (withDom fun d => { d with trapBase := 0 }).myDom.trapBase = 0 ∧
    (withMe fun t => { t with cause := 9 }).me.cause ≠ 0 := by decide
theorem test_meets_TrapInstructions : base.clear g0 [] true 0 = true ∧ base.me.priv = 0 ∧
    (withMe fun t => { t with priv := 1 }).clear g0 [] true 0 = true ∧ (withMe fun t => { t with priv := 1 }).nextOk = true := by
  decide
theorem test_meets_TrapReturn : (withMe fun t => { t with priv := 1, trapPc := 0x3F8 }).clear g0 [] true 1 = true ∧
    (withMe fun t => { t with priv := 1, trapPc := 0x3F8 }).me.trapPc.toNat < base.myDom.codeSize ∧
    (0x3FC#32).toNat % 8 ≠ 0 ∧ base.myDom.codeSize ≤ (0x400#32).toNat ∧ base.me.priv = 0 := by decide
theorem test_meets_GuardedOff : let i : Instr := .add ⟨true, 0⟩ .i64 false 3 4 5
    i.hasWord = true ∧ (∀ r, i ≠ .ill r) ∧ base.guardHolds ⟨(encode i).getLsbD 55, (encode i).extractLsb' 52 3⟩ = false :=
  ⟨by decide, by intro r; exact Instr.noConfusion, by decide⟩
theorem test_meets_StatusRegisters : let s := withMe fun t => { t with priv := 1 }
    base.runs g0 [3] true 0 = true ∧ s.runs g0 [3] true 1 = true ∧ base.regsOk [3] = true ∧ base.me.priv = 0 ∧
    base.runs g0 [3, 4] true (csrNeeds 0x023) = true ∧ s.runs g0 [3, 4] true (csrNeeds 0x013) = true := by decide
theorem test_meets_MailboxReads : let e : BitVec 256 := 0x0031#64 ++ 0#192 |>.rotateRight 128
    let s := withDom fun d => { d with mbox := [e] }
    s.runs g0 [8 + 3, 0] true 0 = true ∧ (base.oldest 0xFFFF0031 = none) ∧ s.oldest 0 = some e := by decide
theorem test_meets_MailboxPost : let s := withX [(10, 0xE200000000000000), (11, 0xE200001000000000)]
    let m : Msg := blockMsg (.router 1 0) (.router 2 0) 0x05 1 0 (.words 0 0)
    let h : Held := ⟨m, 0xE200000000000000, 0⟩
    s.clear g0 [10, 4, 5] true 0 = true ∧ (base.rx 10).extractLsb' 56 8 ≠ 0xE2 ∧ s.myDom.fwidth ≤ 1 ∧ s.myDom.held = [] ∧
    s.nextOk = true ∧ s.priorDone 0 0 = true ∧ (∃ y ∈ [h], y.since + 0x10000 ≤ 0x10000) ∧
    (withDom fun d => { d with held := [h, h, h, h] }).myDom.held.length = 4 ∧ base.mcycle < h.since + 0x10000 := by decide
theorem test_meets_Barriers : let o : Barrier := { Barrier.reset with owner := 1 }
    let s := base.setBar 0 2 o
    s.runs g0 [3, 4] true 0 = true ∧ (s.bar 0 2).owner = s.myDomNo + 1 ∧ (s.bar 0 3).owner ≠ s.myDomNo + 1 ∧
    overcounted o = false ∧ overcounted { o with armed := true, pending := -1 } = true ∧
    overcounted { o with armed := true, pending := 0x7FFFFFFFF } = false := by decide
theorem test_meets_BarrierWakes : let s := base.setBar 0 2 { Barrier.reset with owner := 1, armed := true, pending := 4 }
    (s.bar 0 2).armed = true ∧ (s.bar 0 2).pending - BitVec.ofNat 36 4 = 0 ∧
    ((s.modThread 0 1 fun t => { t with run := .parked (.bar 2) 0 }).thread 0 1).run = .parked (.bar 2) 0 := by decide
theorem test_meets_Markers : base.runs g0 [4] true 0 = true ∧ base.priorDone 0 0 = true ∧
    base.myDom.marker.toNat < (1#64).toNat ∧ (0#64).toNat ≤ base.myDom.marker.toNat ∧
    (withMe fun t => { t with outst := [⟨0, 0x10000, 8, false⟩] }).priorDone 0 0 = false := by decide
theorem test_meets_Configuration : let s := withMe fun t => { t with priv := 2, x := [(4, 2047)] }
    let u := withMe fun t => { t with priv := 1, x := [(4, 1)] }
    s.runs g0 [3, 4] true 2 = true ∧ ((s.rx 4).extractLsb' 0 12).toNat < 2048 ∧ 2 ≤ s.me.priv.toNat ∧ u.runs g0 [3, 4] true 1 = true ∧
    ((u.rx 4).extractLsb' 0 16).toNat = u.myDom.pid ∧ u.me.priv.toNat < 2 ∧ ((0#64).extractLsb' 0 16).toNat ≠ u.myDom.pid ∧
    base.me.priv = 0 ∧ base.regsOk [3, 4] = true := by decide
/-- Thread 1 of the domain, stopped or ready, named by x4 with a backing area at 0x4000. -/
def ctx (r : Run) : State :=
  let s := withDom fun d => { d with thrCount := 2 }
  (s.modMe fun t => { t with priv := 1, x := [(4, 0x4001)] }).modThread 0 1 fun t => { t with run := r }
theorem test_meets_Contexts : (ctx .ready).runs g0 [4] true 1 = true ∧ (ctx .ready).namesContext ((ctx .ready).rx 4) 1 0x4000 ∧
    (ctx .ready).quiet 0 1 = true ∧ ((ctx .ready).thread 0 1).priv = 0 ∧ (ctx .stopped).namesContext ((ctx .stopped).rx 4) 1 0x4000 ∧
    ((ctx .stopped).thread 0 1).run = .stopped ∧ (ctx .stopped).myDom.ctx0 = none ∧
    ((ctx .ready).modThread 0 1 fun t => { t with cause := 9 }).quiet 0 1 = true ∧
    ((ctx .ready).modThread 0 1 fun t => { t with outst := [⟨0, 0x10000, 8, false⟩] }).quiet 0 1 = false := by
  unfold State.namesContext; decide +kernel

/-! ## Matrix commands and movement -/

/-- x10 and x11 name the private area, x12 a record of one row, K, rows and columns of 1 with FP32 operands. -/
def mat : State := withX [(10, priv0), (11, priv0 + 0x400), (12, priv0 + 0x40)]
/-- A command with one array cycle left at the head of the queue of domain 0. -/
def cmd (i : Instr) : MCmd :=
  { ins := i, hw := 0, pc := 0, ticket := 0, prior := 0, bytes := [], a := 0x1000, b := 0x1400, st := 256, fa := 8, fb := 8,
    sa := 0, sb := 0, left := 1, fini := false, stall := none, lost := false }
def running (i : Instr) : State :=
  (withDom fun d => { d with mq := [cmd i], mticket := 1 }).setSlot 0 0 { Slot.reset with full := true, len := 0x20000 }

theorem test_meets_MatrixCommands : mat.runs g0 [10, 11] true 0 = true ∧ mat.queueOpen ∧ mat.myDom.resid = [] ∧
    mat.ownsTiles 63 1 2 ∧ mat.ownsTiles 63 1 1 ∧ mat.drainGrid ⟨0, 3⟩ 1 = true ∧ mat.heldAt (mat.rx 10) (4 * 8 * 2) 0x1000 ∧
    mat.heldAt (mat.rx 11) (8 * 8 * 2) 0x1400 ∧ (mat.rx 10).toNat % 64 = 0 ∧
    (withDom fun d => { d with accMask := 0 }).myDom.accMask.getLsbD 5 = false := by
  unfold State.queueOpen State.ownsTiles State.heldAt; decide +kernel
/-- `mload` and `mdrain` name more than the private area: a local address. -/
theorem test_meets_MatrixCommands_areas : let s := withX [(10, 0xE100000000000000)]
    s.heldAt (s.rx 10) (16384 * 4) 0 ∧ (s.rx 10).toNat % 64 = 0 ∧ s.heldAt (s.rx 10) (64 * 256 * 0 + 63 * 256 + 64 * 4) 0 ∧
    s.runs g0 [10, 0] true 0 = true ∧ s.queueOpen ∧ s.ownsTiles 0 1 4 := by
  unfold State.queueOpen State.ownsTiles State.heldAt; decide +kernel
theorem test_meets_MatrixQueueFull : let s := withDom fun d => { d with mq := List.replicate 16 (cmd (.mzero g0 0 0)) }
    s.runs g0 [] true 0 = true ∧ 16 ≤ s.myDom.mq.length ∧ s.ownsTiles 0 1 1 := by unfold State.ownsTiles; decide +kernel
/-- A record of zeros has K, rows and columns of 1 and FP32 operands; one with a reserved bit set is refused. -/
theorem test_meets_MatrixRecords : mat.runs g0 [11, 12] true 0 = true ∧ mat.queueOpen ∧
    mat.heldAt (mat.rx 12) 32 0x1040 ∧ (mat.rx 12).toNat % 32 = 0 ∧ mat.readableAt 0x1040 32 ∧
    mat.myDom.slotMask.getLsbD 0 = true ∧ mat.ownsTiles 0 (mat.rowAt 0x1040).accStep 1 ∧
    (mat.rx 11).toNat % 8 = 0 ∧ (mat.rangeAt (mat.rx 11) 8).isSome = true ∧ (mat.rowAt 0x1040).okMul 0 0 = true ∧ isMx 0 = false ∧
    (mat.rowAt 0x1040).transA = false ∧ (mat.slot 0 0).due = none ∧ mat.covers 0 0 1 4 ∧ (pairRate 0 0).isSome = true ∧
    (mat.rowAt 0x1040).okSort false = true ∧ (mat.rowAt 0x1040).okSort true = true ∧ mat.heldAt (mat.rx 11) 8 0x1400 ∧
    ((mat.lsWrite 0 0x1040 [1]).rowAt 0x1040).okMul 0 0 = false ∧ ((mat.lsWrite 0 0x1040 [1]).rowAt 0x1040).okSort false = false := by
  unfold State.queueOpen State.ownsTiles State.heldAt State.readableAt State.covers; decide +kernel
theorem test_meets_MatrixConfiguration : let s := mat.lsWrite 0 0x1000 [1, 0, 1, 0, 0, 0]
    s.runs g0 [10] true 0 = true ∧ s.myDom.mq = [] ∧ (s.rx 10).toNat % 2 = 0 ∧ s.heldAt (s.rx 10) (4 + 2 * 1) 0x1000 ∧
    s.readableAt 0x1000 6 ∧ s.lsRead 0 0x1000 6 = [1, 0, 1, 0, 0, 0] ∧
    mat.lsRead 0 0x1000 4 = [0, 0, 0, 0] := by unfold State.heldAt State.readableAt; decide +kernel
theorem test_meets_MatrixEffects (i : Instr)
    (h : i = .mzero g0 63 1 ∨ i = .mload g0 0 10 63 ∨ i = .mdrain g0 .none false 0 10 11 0 ∨ i = .mstep g0 0 0 12 0 ∨
      i = .msort g0 .f32 12 11 10 0 ∨ i = .mtopk g0 .f32 6 63 11 10 0) : (running i).lastCycle 0 0 (cmd i) := by
  have hq : ((running i).dom 0 0).mq = [cmd i] := by rcases h with h | h | h | h | h | h <;> subst h <;> decide +kernel
  refine ⟨⟨[], hq, by simp⟩, rfl, rfl, rfl, ?_, ?_⟩ <;> rcases h with h | h | h | h | h | h <;> subst h <;> decide +kernel
theorem test_meets_MatrixWaitsAndSlots : let s := withDom fun d => { d with mq := [cmd (.mstep g0 0 0 12 0)], mticket := 1 }
    base.runs g0 [3] true 0 = true ∧ (0#8).toNat < (s.myDom.mq.filter fun c => decide (c.hw = s.cur.2)).length ∧
    base.me.mfail = [] ∧ base.myDom.slotMask.getLsbD 1 = false ∧ base.myDom.slotMask.getLsbD 0 = true ∧ base.myDom.wrels = [] ∧
    (base.setSlot 0 0 { Slot.reset with full := true }).slot 0 0 = { Slot.reset with full := true } ∧
    (base.slot 0 0).full = false ∧ (base.slot 0 0).lost = false ∧ base.myDom.mq = [] ∧ (base.slot 0 0).due = none ∧ (base.slot 0 0).len < 2 ^ 18 ∧
    slotRead (.mstep g0 0 0 12 0) = some 0 ∧ base.me.missed = false := by decide +kernel
theorem test_meets_RecordsSent : mat.runs g0 [10, 4] true 0 = true ∧ (mat.rx 10).toNat % 64 = 0 ∧ mat.recordAt (mat.rx 10) 8 8 0x1000 ∧
    (mat.port 0 7).queue.length < 4 ∧ (priv0 + 8).toNat % 64 ≠ 0 ∧ mat.me.got = [] ∧ mat.me.run = .ready ∧
    (mat.port 0 7).queue ++ (mat.port 0 7).cur.toList = [] := by unfold State.recordAt; decide +kernel
/-- Group 0 of the tile's router in force, with one element and a local child. -/
def grouped : State := mat.setRouter (nodeKey (mat.nodeOf 0)) { Router.reset with red := [(0, BitVec.ofNat 64 (3 * 2 ^ 62))] }
theorem test_meets_ReductionAndCollective : grouped.runs g0 [10, 4] true 0 = true ∧ grouped.recordAt (grouped.rx 10) 1 4 0x1000 ∧
    (grouped.redEntry (grouped.nodeOf 0) 0).getLsbD 63 = true ∧ (grouped.redEntry (grouped.nodeOf 0) 0).getLsbD 62 = true ∧
    (grouped.redEntry (grouped.nodeOf 0) 1).getLsbD 63 = false ∧ mat.recordAt (mat.rx 10) 8 8 0x1000 ∧
    holdsGraph [(0, { Graph.reset with loaded := true, header := BitVec.ofNat 256 (1 * 2 ^ 16) })] 0 1 = true ∧
    holdsGraph (mat.station 0).graphs 0 1 = false := by unfold State.recordAt; decide +kernel

/-! ## Events of the tile and messages -/

def iss0 : Issuer := ⟨0, 0, 0, 0, 0, 0, true⟩
/-- A band of one row, one stage and two waves on tile 0, of job 1, with its region and launch. -/
def rcb0 : BitVec 1024 := put (put (put (put 0 0 2 3) 24 16 1) 640 16 1) 704 32 2
def band0 : Band :=
  { live := true, region := 1, addr := 0, rcb := rcb0, stride := 0, edges := [], step := 0, started := true, startAt := 0,
    stopWave := none, readyT := [], commits := 0, progress := (0, 0), overrun := false, holding := false, finished := false,
    replay := none, again := [] }
def region0 : Region :=
  { live := true, launch := 1, addr := 0, rcb := rcb0, jobAddr := 0, phase := 0, req := none, limit := 0, groups := [], reds := [] }
def launch0 : Launch := { live := true, sv := 0, req := 0, rcbs := [], started := true, notices := 0, status := 0, plan := ⟨[], [], []⟩, loads := [] }
/-- `base` with that band as number 0, region 1 and launch 1, and a stage record at address 0: one thread, a saddle of 128
bytes. -/
def inBand (b : Band) (f : Dom → Dom) : State :=
  { withDom (fun d => f { d with band := 1, region := 1, launch := 1, fdPolicy := 4 }) with
    mem := [(0, 1), (5, 128)], bands := [(0, some b)], regions := [(1, some region0)], launches := [(1, some launch0)] }

theorem test_meets_SlotTable : 0 ∈ Table.keys base.tiles ∧ (base.dom 0 0).present = true ∧ (base.dom 0 0).weight = 1 ∧
    (base.dom 0 3).present = false := by decide
theorem test_meets_TileEvents_waits : let s := withMe fun t => { t with run := .parked (.waitc 0) 5, pend := some (.waitc g0 3 4 0) }
    let fe := withMe fun t => { t with run := .parked (.fe priv0) 5, after := some (0x0C, priv0) }
    let q : FeReq := ⟨0x1000, .wff, true, ⟨0, priv0, 0, 8, 0, 0⟩, iss0, none⟩
    (s.thread 0 0).run = .parked (.waitc 0) 5 ∧ (s.thread 0 0).pend = some (.waitc g0 3 4 0) ∧ (0#64).toNat ≤ s.time.toNat ∧
    ((withMe fun t => { t with run := .entering 0x31 }).thread 0 0).run = .entering 0x31 ∧
    (fe.thread 0 0).run = .parked (.fe priv0) 5 ∧ ((fe.modTile 0 fun t => { t with feq := [q] }).tile 0).feq = [] ++ q :: [] ∧
    q.iss.hw = 0 ∧ q.msg = none ∧ (fe.dom 0 (fe.domNo 0 0)).trapBase ≠ 0 ∧ (fe.thread 0 0).cause = 0 ∧
    (fe.thread 0 0).after = some (0x0C, priv0) := by decide +kernel
theorem test_meets_TileEvents_watchdog : let a := tileReg 0 0x100
    let s := { (withDom fun d => { d with idleAt := some 0 }).setReg a 1 with tcycle := 1 }
    let u := s.modMe fun t => { t with run := .parked (.bar 0) 0 }
    (u.reg a).extractLsb' 0 32 ≠ 0 ∧ (u.reg a).getLsbD 63 = false ∧ (u.dom 0 0).idleAt = some 0 ∧ 0 + 1 ≤ u.tcycle ∧ u.allParked 0 0 = true := by
  decide +kernel
/-- A post of tile 0 to itself, held and tried again: there is room for it, or sixteen entries. -/
def post0 : Msg := base.tileMsg 0 0 0x05 (base.nodeOf 0) 0x31 (.post 1 2 0xE200000000000000 iss0)
theorem test_meets_TileEvents_retry : let x : Held := ⟨post0, 0, 0⟩
    let s := withDom fun d => { d with held := [x], permMask := 2 }
    (s.dom 0 0).held = [x] ∧ s.tileAt x.msg.dst = some 0 ∧ s.domOf 0 x.msg.pid.toNat = some 0 ∧
    (s.dom 0 0).permMask.getLsbD 1 = true ∧ (s.dom 0 0).mbox.length < 16 ∧ s.timers = [] ∧
    ((withDom fun d => { d with mbox := List.replicate 16 0 }).dom 0 0).mbox.length = 16 := by decide +kernel
theorem test_meets_noAwait : base.noAwait 0 0 := by
  intro i hi k c h
  have : (base.dom 0 0).thrCount = 1 := by decide
  obtain rfl : i = 0 := by omega
  have hr : (base.thread 0 ((base.dom 0 0).thrFirst + 0)).run = .ready := by decide
  rw [hr] at h; cases h
def access (k : AccKind) (phys : Bool) (loc : W64) : Access :=
  { kind := k, elems := [⟨0, 0x100, loc, 8, 5, 0⟩], iss := iss0, phys := phys, cache := 0, shr := false, dev := false, retried := false }
def request (k : AccKind) : Msg := base.tileMsg 0 0 0x01 (base.nodeOf 0) 0 (.access (access k false (BitVec.ofNat 64 (lsAddr 0 0xBFFFF8))))
theorem test_meets_RequestsAtTheirHomes_tile : let s := withDom fun d => { d with lsSize := 0xC00000, permMask := 0xF }
    let e : Elem := ⟨0, 0x100, BitVec.ofNat 64 (lsAddr 0 0xBFFFF8), 8, 5, 0⟩
    s.reachesTile (request .read) (access .read false e.loc) e 0 0xBFFFF8 ∧ (s.tile 0).fenced = false ∧
    s.domOf 0 (request .read).pid.toNat = some 0 ∧ (s.dom 0 0).permMask.getLsbD 2 = true ∧
    0xBFFFF8 + 8 ≤ (s.dom 0 0).lsBase + (s.dom 0 0).lsSize ∧ s.lsBad 0 0xBFFFF8 8 = false ∧
    (base.dom 0 0).permMask = 0 ∧ (base.dom 0 0).lsBase + (base.dom 0 0).lsSize < 0xBFFFF8 + 8 ∧ base.domOf 0 2 = none := by
  unfold State.reachesTile; decide +kernel
theorem test_meets_RequestsAtTheirHomes_slice : let e : Elem := ⟨0, 0x100, 0x78, 8, 5, 0⟩
    let n := base.bucketStation (base.bucketOf 1 false 0x78)
    let s : State := { base with lines := [(0, some ⟨false, 1, 0⟩)] }
    let m := blockMsg (base.nodeOf 0) (.station n) 0x01 1 0 (.access (access .read true 0x78))
    m.pay = .access (access .read true 0x78) ∧ m.dst = .station n ∧ e.loc.toNat % 128 + e.size ≤ 128 ∧ s.move = none ∧
    s.isOwned 0 = false ∧ s.lostAt 0 = none ∧ Table.get none s.lines 0 = some ⟨false, 1, 0⟩ ∧ s.bad = [] := by decide +kernel
def waiting : State :=
  withMe fun t => { t with run := .parked .reply 5, pend := some (.ld g0 false .b8 plain 3 ⟨10, 0, 0⟩), outst := [⟨0, 0x100, 8, true⟩] }
theorem test_meets_RepliesAtRequesters : let r : Reply := ⟨0, 0, 0x100, [⟨0, 0x100, 0x100, 8, 5, 0⟩], iss0⟩
    let m := blockMsg (.station 0) (base.nodeOf 0) 0x08 1 0 (.reply r)
    m.pay = .reply r ∧ (waiting.thread 0 0).outst = [⟨0, 0x100, 8, true⟩] ∧ (waiting.dom 0 (waiting.domNo 0 0)).pid = m.pid.toNat ∧
    (waiting.thread 0 0).after = none ∧ (waiting.thread 0 0).run = .parked .reply 5 ∧
    (waiting.thread 0 0).pend = some (.ld g0 false .b8 plain 3 ⟨10, 0, 0⟩) ∧ (waiting.thread 0 0).got = [] ∧
    (waiting.thread 0 0).bad = [] ∧ (waiting.dom 0 (waiting.domNo 0 0)).trapBase ≠ 0 ∧ (waiting.thread 0 0).cause = 0 ∧
    ((withMe fun t => { t with outst := [⟨0, 0x100, 8, false⟩] }).thread 0 0).outst = [⟨0, 0x100, 8, false⟩] := by decide +kernel
theorem test_meets_MessagesAtTiles : let open_ := withDom fun d => { d with permMask := 0xF, codeSize := 0 }
    let s := open_.modTile 0 fun t => { t with txStreams := [⟨0, post0.src, 4, 3, 1, 0, [post0]⟩] }
    let ack := blockMsg (base.nodeOf 0) (base.nodeOf 0) 0x0E 1 0x20000 (.words 0 0)
    s.tileAt post0.dst = some 0 ∧ s.domOf 0 post0.pid.toNat = some 0 ∧ (s.dom 0 0).permMask.getLsbD 1 = true ∧
    (s.dom 0 0).codeSize = 0 ∧ (s.tile 0).fenced = false ∧ (s.dom 0 0).mbox.length < 16 ∧
    (s.tile 0).txStreams = [⟨0, post0.src, 4, 3, 1, 0, [post0]⟩] ∧ (0 : Nat) = (ack.arg.extractLsb' 0 8).toNat ∧
    ((ack.arg.extractLsb' 16 16).toNat + 1) % 65536 = (1 + 2) % 65536 ∧ (2 : Nat) ≤ 3 - 1 ∧ (s.dom 1 0).present = false ∧
    (s.dom 0 0).present = true ∧ s.removals = [] := by decide +kernel
theorem test_meets_MessageRouting : let m := blockMsg (base.nodeOf 0) (.router 3 1) 0x01 1 0 (.access (access .read false 0))
    let clean : State := { base with routers := [], regs := [] }
    clean.sweeping (base.nodeOf 0) 1 = false ∧ clean.nodeFenced (base.nodeOf 0) = false ∧
    clean.nextHop (.router 1 0) m = some (.router 2 0) ∧ clean.nodeFenced (.router 2 0) = false ∧
    clean.guardDrop (.router 1 0) (.router 2 0) m = none ∧ clean.linkDrop (.router 1 0) (.router 2 0) m = false ∧
    clean.linkState 1 0 3 ≠ 3 ∧ 1 ≤ ((clean.reg (routerReg 1 0 0x200)).extractLsb' 0 16).toNat ∧
    m.typ ∈ [1, 2, 3] := by decide +kernel

/-! ## The scroll -/

theorem test_meets_ScrollSteps_ready : let s := inBand band0 id
    s.bandAt 0 0 = some (0, band0) ∧ (s.tile 0).fenced = false ∧ band0.finished = false ∧ band0.replay = none ∧
    (s.dom 0 0).isReady = false ∧ ({ band0 with rcb := put rcb0 661 5 1 } : Band).rowOf 1 ≠ band0.rowOf 0 ∧
    band0.runAt 0 0 = some (0, 0) ∧ s.ranOut 0 0 0 0 0 = true ∧
    (∃ x ∈ s.expects band0 1 0, Table.get 0 (s.dom 0 0).due x.1 < x.2) ∧
    ∀ x ∈ (inBand band0 fun d => { d with due := [(saddleKey 1, 4096)] }).expects band0 1 0,
      x.2 ≤ Table.get 0 ((inBand band0 fun d => { d with due := [(saddleKey 1, 4096)] }).dom 0 0).due x.1 := by decide +kernel
theorem test_meets_ScrollSteps_entry : let s := inBand { band0 with step := 1 } id
    ({ band0 with step := 1 } : Band).present 0 = some (0, 1, 1) ∧ s.inRun 0 0 0 1 1 = false ∧ (s.dom 0 0).halfCount 1 = 0 ∧
    (s.stageRec band0 0).isSome = true := by decide +kernel
theorem test_meets_ScrollSteps_done : let s := inBand band0 fun d => { d with running := true }
    let u := s.modMe fun t => { t with run := .done }
    s.inRun 0 0 0 0 0 = true ∧ (s.dom 0 0).running = true ∧ (s.dom 0 0).nThreads = 1 ∧ (s.thread 0 0).run ≠ .done ∧
    (u.thread 0 0).run = .done ∧ u.cursorOf 0 0 0 0 0 = none ∧ u.cursorOf 32 0 0 0 0 = none := by decide +kernel
/-- A cursor of the row's stage at marker 1, with a kind-1 occurrence that has begun. -/
def cur0 : Cursor :=
  { band := 0, row := 0, stage := 0, wave := 0, mIn := 0, mark := 1, entered := true, final := none, base := 0, period := 1,
    prime := 0, entries := [], begun := [(0, 1)], done := [], left := [], skip := [], shut := false }
theorem test_meets_ScrollSteps_step : let s := ((inBand { band0 with readyT := [(0, 0)] } fun d => { d with isReady := true }).modStation 0
      fun t => { t with cursors := [{ cur0 with wave := 1, begun := [] }] }).modStation 32 fun t =>
      { t with cursors := [{ cur0 with wave := 1, begun := [] }] }
    let fresh := inBand { band0 with started := false } id
    s.bandDom 0 0 = some 0 ∧ (s.dom 0 0).isReady = true ∧ band0.readyT = [] ∧ s.liveTiles band0 0 = [0] ∧
    s.bandPrimed 0 { band0 with readyT := [(0, 0)] } = true ∧ band0.startAt + band0.gaitMin ≤ s.mcycle ∧ band0.saddleInit = 0 ∧ s.loadsOf band0 = [] ∧
    ({ band0 with started := false } : Band).nextStep = 0 ∧ ({ band0 with started := false } : Band).runAt 0 0 = some (0, 0) ∧
    (fresh.domOf 0 band0.pid).isSome = true ∧ fresh.hasSaddle 0 band0 0 0 0 = false ∧ band0.runAt band0.nextStep 0 = some (0, 1) ∧
    ((s.liveTiles band0 0).filter fun x => !s.hasSaddle 0 band0 x band0.nextStep 0) = [0] := by decide +kernel
theorem test_meets_ScrollEnds : let s := inBand band0 id
    let late : Band := { band0 with step := 1, commits := 2 }
    s.waveRan 0 band0 0 = true ∧ (band0.rowTiles 0)[1]? = none ∧ (band0.rowTiles 0)[0]? = some 0 ∧
    s.domOf 0 (s.dom 0 0).pid = some 0 ∧ 0 < ((inBand band0 fun d => { d with commit0 := 1 }).dom 0 0).halfCount 0 ∧
    late.over_ = true ∧ late.total.getD 0 ≤ late.commits ∧ late.saddleOut = 0 ∧ s.regionOf 1 = some region0 ∧
    s.launchOf 1 = some launch0 ∧ launch0.started = true ∧
    ({ band0 with rcb := put rcb0 800 32 5 } : Band).gaitMax = 5 ∧ s.unfinished 0 0 = [0] ∧
    (s.unfinished 0 0 ≠ [] ∧ (s.dom 0 0).running = false) ∧ (s.thread 0 0).run = .ready ∧ (s.dom 0 0).step.toNat = 0 ∧
    s.regionBands 1 = [(0, band0)] ∧ ({ s with bands := [] } : State).regionBands 1 = [] ∧ s.regionQuiet 1 = true ∧
    ({ s with bands := [(0, some { late with finished := true })] } : State).bandsOf 1 = [(0, { late with finished := true })] := by
  decide +kernel
/-- Regions in the phases of the clauses, and a launch whose bands have finished. -/
theorem test_meets_ScrollEnds_requests : let s := { inBand { band0 with finished := true } id with
      regions := [(1, some { region0 with phase := 1, req := some (0, 2) })] }
    let z := { inBand band0 id with regions := [(1, some { region0 with phase := 2, req := some (0, 3), limit := 1 })], mcycle := 1 }
    s.regionOf 1 = some { region0 with phase := 1, req := some (0, 2) } ∧ (s.fwRead 0 128).isSome = true ∧
    z.regionOf 1 = some { region0 with phase := 2, req := some (0, 3), limit := 1 } ∧ (1 : Nat) ≤ z.mcycle ∧
    (inBand { band0 with finished := true } id).regionsOf 1 = [(1, region0)] ∧ region0.phase = 0 ∧ base.removals = [] := by
  decide +kernel
def occ0 (e : BitVec 256) : Occ := ⟨0, 0, 0, 0, e, 64, 1, 1⟩
def timed : State := ((inBand band0 id).modStation 0 fun t => { t with cursors := [cur0] }).modStation 32 fun t =>
  { t with cursors := [cur0] }
theorem test_meets_Timetable : band0.admits 1 = true ∧ band0.admits 2 = false ∧ (inBand band0 id).cursorOf 0 0 0 0 0 = none ∧
    (inBand band0 id).cursorOf 32 0 0 0 0 = none ∧ rowStations (band0.rowOf 0) = [0, 32] ∧ band0.present 0 = some (0, 0, 0) ∧ timed.cursorOf 0 0 0 0 0 = some cur0 ∧ timed.cursorOf 32 0 0 0 0 = some cur0 ∧
    timed.inRun 0 0 0 0 0 = true ∧ (timed.dom 0 0).marker.toNat = 0 ∧ timed.occLive (occ0 0) = some (band0, 0) ∧
    timed.liveTiles band0 0 = [0] ∧ timed.lsBad 0 0 0 = false ∧ timed.bandDom 0 0 = some 0 ∧ (timed.slot 0 0).full = false ∧
    timed.slotRow 0 0 = some (0, 0) ∧ (timed.rel 0 0 0).free = false ∧ base.slotRow 0 1 = none ∧
    ((timed.stageRec band0 0).map fun r => r.extractLsb' 512 64) = some 0 := by decide +kernel
/-- Group 0 drops at physical column 1 of row 0 for job 1, slot 0; receiver 0 of tile 0 is tuned to wavelength 0 of it. -/
def lit : State := { base.modTile 0 fun t => { t with rx := [(0, 96)] } with
  groups := [(0, put (put (put (put (put 0 255 1 1) 236 16 1) 105 1 1) 77 1 1) 176 1 1)] }
theorem test_meets_Timetable_light : let f : Frame := ⟨0, 0, 1, 0, true, 0, 0, [1, 2], 0, 0, true⟩
    lit.takesLight 0 f = true ∧ (lit.groupEntry 0).getLsbD 176 = true ∧ (lit.lightDom 0 0 0).isSome = true ∧
    (lit.slot 0 0).taken = [] ∧ Table.get 0 (lit.slot 0 0).repairs 0 < 3 := by decide +kernel

/-! ## Engines, ports, reductions and collectives -/

/-- A record of one unit of 4 bytes from global address 0 to global address 0x80. -/
def eng0 : EngCmd := ⟨put (put 0 384 64 0x80) 224 16 1, 0, iss0⟩
def engine0 : EngRun := ⟨eng0, 1, [1], 0, [], 0, 0, 0, none, none⟩
/-- Station 0 translates the first 512 MiB of job 1, and runs that record in engine 0. -/
def mapped : State := base.modStation 0 fun t => { t with xlat := [⟨1, 0, true, 0x3F, 0⟩], engines := [(0, some engine0)] }
theorem test_meets_EnginesAndPorts_commands : let m := blockMsg (base.nodeOf 0) (.station 0) 0x14 1 0 (.eng eng0)
    let full := base.modStation 0 fun t => { t with queue := List.replicate 64 (eng0, 1, []) }
    m.dst = .station 0 ∧ m.pay = .eng eng0 ∧ (base.station 0).queue.length < 64 ∧ 0 < base.queueShare ∧
    base.recordCode eng0 false [] = 0 ∧ base.recordCode ⟨1, 0, iss0⟩ false [] = 1 ∧ 64 ≤ (full.station 0).queue.length ∧
    base.engine 0 0 = none ∧ (base.station 0).queue = [] := by decide +kernel
theorem test_meets_EnginesAndPorts_transfers : let l := layoutOf eng0.desc
    let lost := mapped.modStation 0 fun t => { t with lost := [(0, some ⟨0, 1, 0, 0⟩)] }
    let done : EngRun := { engine0 with pos := 1 }
    mapped.engine 0 0 = some engine0 ∧ engine0.pos + 1 = l.units ∧ l.offsets 0 = (0, 0) ∧ windowOf l.src = .global ∧
    windowOf l.dst = .global ∧ l.ordered = false ∧ engine0.dels = [] ∧ engine0.park = none ∧
    (mapped.greadAs 0 1 true [1] 0 4).2 = .ok [0, 0, 0, 0] ∧
    ((mapped.greadAs 0 1 true [1] 0 4).1.gwrite 0 1 true [1] 0x80 [0, 0, 0, 0]).2 = .ok [] ∧ engine0.sent ≤ engine0.acked ∧
    (lost.greadAs 0 1 true [1] 0 4).2 = .lost 0 ∧ engine0.fail = none ∧
    ((base.setEngine 0 0 (some engine0)).greadAs 0 1 true [1] 0 4).2 = .fault 0x0A 0 ∧
    ({ mapped with owned := [(0, 1)] }.greadAs 0 1 true [1] 0 4).2 = .wait ∧ done.pos = l.units ∧ l.mboxEn = false ∧
    (put eng0.desc 156 1 1).getLsbD 156 = true := by decide +kernel
/-- A pattern of one unit of 4 bytes from offset 0 of tile 0 to offset 0x20 of tile 1. -/
def pat0 : EngCmd := ⟨put (put (put 0 448 64 0xE100000000000000) 384 64 0xE200001000000020) 224 16 1, 0, iss0⟩
theorem test_meets_EnginesAndPorts_patterns : let x : Pattern := ⟨pat0, 0, 0, 0, 0, 0, none⟩
    let l := layoutOf pat0.desc
    let wide := withDom fun d => { d with fwidth := 2 }
    let s := wide.modTile 0 fun t => { t with ports := [(0, { SPort.reset with cur := some x })] }
    let q := base.modTile 0 fun t => { t with ports := [(0, { SPort.reset with queue := [{ x with cmd := ⟨1, 0, iss0⟩ }] })] }
    (q.port 0 0).cur = none ∧ (q.port 0 0).queue = [{ x with cmd := ⟨1, 0, iss0⟩ }] ∧ q.recordCode ⟨1, 0, iss0⟩ true [] = 1 ∧
    (s.port 0 0).cur = some x ∧ l.units = x.pos + 1 ∧ l.ordered = false ∧ l.mcast = 0 ∧ s.timers = [] ∧ l.offsets 0 = (0, 0) ∧
    s.unitRead 0 1 pat0 (s.thirdParty l pat0) [] (l.src + BitVec.ofInt 64 (l.offsets 0).1) 4 = (s, .none, [0, 0, 0, 0]) ∧
    s.sideOf pat0 (l.dst + BitVec.ofInt 64 (l.offsets 0).2) = .tile 1 0x20 true := by decide +kernel
theorem test_meets_EnginesAndPorts_matrix : let k : MCmd :=
      { ins := .mdrainv g0 .i8 false ⟨4, 0⟩ 0 3 0, hw := 0, pc := 0, ticket := 1, prior := 0, bytes := [], a := 0, b := 0, st := 0,
        fa := 0, fb := 0, sa := 0, sb := 0, left := 0, fini := true, lost := false, stall := none }
    let s := (withMe fun t => { t with run := .parked (.drainv 1) 5 }).modDom 0 0 fun d => { d with mq := [k] }
    (s.dom 0 0).mq = [k] ∧ (s.dom 0 0).wrels = [] ∧ k.fini = true ∧ k.lost = false ∧ (s.thread 0 0).run = .parked (.drainv 1) 5 ∧
    (base.thread 0 0).run = .ready := by decide +kernel

/-- Group 2 at router (1, 0): valid, contributions of the tile and of port 1, sum; root of its tree, results to offset 0. -/
def red0 : BitVec 64 := put (put 0 63 1 1) 62 1 1
def ctx0 : RedCtx := ⟨2, 7, [(0, [1])], 1, 0⟩
def word0 : Msg := { blockMsg (.router 2 0) (.router 1 0) 0x10 1 (2 * 2 ^ 26 + 7 * 2 ^ 10) (.elems [5]) with stream := 0 }
def reducing (e : BitVec 64) : State :=
  (base.setRouter 1 { base.router 1 with red := [(2, e)], ctxs := [ctx0] }).setRouter 2 { base.router 2 with up := [(2, some 0)] }
theorem test_meets_Reductions : let s := reducing red0
    let up := put red0 55 3 1
    let u := (reducing up).setRouter 1 { (reducing up).router 1 with up := [(2, some 1)] }
    word0.pay = .elems [5] ∧ (word0.arg.extractLsb' 26 6).toNat = 2 ∧ (word0.arg.extractLsb' 10 16).toNat = 7 ∧
    (Table.get 0 (s.router 1).red 2).getLsbD 63 = true ∧ (Table.get 0 (base.router 1).red 2).getLsbD 63 = false ∧
    s.isRedAborted (.router 1 0) 2 7 = false ∧ s.nodeFenced word0.src = false ∧ (s.router 1).ctxs = [ctx0] ∧
    ctx0.contrib = [(0, [1])] ∧ (s.router 1).waitRed = [] ∧
    s.redFull (.router 1 0) red0 { ctx0 with contrib := [(0, [1]), (3, [5])] } = true ∧
    s.redFull (.router 1 0) red0 ⟨2, 8, [(3, [5])], 1, 0⟩ = false ∧ s.logical 1 0 = some 0 ∧ red0.extractLsb' 55 3 = 0 ∧
    red0.getLsbD 32 = false ∧ (s.router 1).moved = [] ∧ (u.router 1).up = [(2, some 1)] ∧ up.extractLsb' 55 3 ≠ 0 ∧
    ((1 : Nat) < (red0.extractLsb' 41 2).toNat + 1) = False ∧ (s.router 1).holds = [] ∧ ctx0.since = 0 ∧
    s.redComing (.router 1 0) word0 = false ∧ ({ s with flight := [.meshRoute (.router 1 0) { word0 with arg := BitVec.ofNat 32 (2 * 2 ^ 26 + 6 * 2 ^ 10) }] } : State).redComing
      (.router 1 0) word0 = true ∧ s.redNext (.router 1 0) red0 2 = none ∧ s.sweeping (.router 1 0) 1 = false ∧
    (s.domOf 0 1).isSome = true ∧ (s.dom 0 0).touchesCode 0x4000 4 = false ∧ (s.dom 0 0).touchesCode (s.dom 0 0).codeBase 4 = true := by decide +kernel

/-- A graph of job 1 with one operation of kind k on 4 bytes at address 0, and its launch as instance 0. -/
def hdr0 : BitVec 256 := put (put 0 16 16 1) 64 16 1
def op0 (k peer : Nat) : BitVec 256 := put (put (put (put 0 224 32 0xFFFFFFFF) 168 4 k) 128 32 4) 192 16 peer
def graph0 (o : BitVec 256) : Graph :=
  { Graph.reset with loaded := true, header := hdr0, ops := [o], launch := some 0, iss := iss0 }
def withGraph (g : Graph) : State := mapped.setGraph (.station 0) 0 g
theorem test_meets_Collectives_load :
    let s : State := { base with mem := [(2, 1), (8, 1), (60, 255), (61, 255), (62, 255), (63, 255)] }
    let h := BitVec.ofNat 256 (ofBytes ((s.fwRead 0 32).getD []))
    (base.physAll 0 1 0 32).2 = (.ok, List.replicate 32 0) ∧ h = hdr0 ∧ (s.physAll 0 1 0 32).2.1 = .ok ∧
    ((s.physAll 0 1 0 32).1.physAll 0 1 0 64).2.1 = .ok ∧
    (graphsOf s (.station 0)).all (fun e => e.2.ops = []) = true ∧
    graphOk h (((chunks 32 4096 ((s.fwRead 32 32).getD [])).map fun c => BitVec.ofNat 256 (ofBytes c))) 0 1 false = true := by
  decide +kernel
theorem test_meets_Collectives_launch : let g := graph0 (op0 5 0)
    let s := withGraph { g with launch := none }
    let m := blockMsg (.router 1 0) (.station 0) 0x19 1 0 (.launch 0 iss0)
    s.graph (.station 0) 0 = { g with launch := none } ∧ m.pay = .launch 0 iss0 ∧ g.loaded = true ∧
    (hdr0.extractLsb' 16 16).toNat = m.pid.toNat ∧ (hdr0.extractLsb' 52 12).toNat + 1 = 1 ∧
    s.chunkBit (.station 0) 0x8000 0 0 = false ∧ opDeps (op0 5 0) = 0 ∧ (withGraph g).graph (.station 0) 0 = g ∧
    g.stopped = false ∧ g.done.length ≠ g.ops.length ∧
    holdsGraph (graphsOf (s.setGraph (.station 1) 0 { g with launch := none }) (.station 1)) 0 1 = true := by decide +kernel
/-- The state in which the operation runs. -/
def opRuns (k peer : Nat) : State := withGraph { graph0 (op0 k peer) with ran := [0] }
theorem test_meets_Collectives_operations : let user := (graph0 0).iss.priv == 0
    let st := engStation (.station 0) 1 0
    ((opRuns 0 0x4002).gread st 1 user 0 4).2 = .ok [0, 0, 0, 0] ∧ peerNode (opPeer (op0 0 0x4002)) = some (.station 2) ∧
    peerNode (opPeer (op0 0 0x100)) = none ∧ (mapped.reg (nodeReg (.station 0) 0x4008)).getLsbD 63 = false ∧
    ((opRuns 1 0).gwrite st 1 user [] 0 [0, 0, 0, 0]).2 = .ok [] ∧ ((opRuns 2 0).gread st 1 user 0 4).2 = .ok [0, 0, 0, 0] ∧
    ((opRuns 3 0).gwrite st 1 user [] 0 []).2 = .ok [] ∧ ((opRuns 4 0).gwrite st 1 user [] 0 (toBytes 8 0)).2 = .ok [] ∧
    (((base.setGraph (.station 0) 0 { graph0 (op0 1 0) with ran := [0] })).gwrite st 1 user [] 0 [0, 0, 0, 0]).2 =
      .fault 0x0A 0 := by decide +kernel
theorem test_meets_Collectives_completed : let o := put (op0 5 0) 224 16 1
    let g : Graph := { graph0 o with ops := [o, op0 5 0], count := [(1, 1)] }
    g.ops[0]? = some o ∧ opSucc o 0 = 1 ∧ opSucc o 1 = 0xFFFF ∧ Table.get 0 g.count 1 = 1 ∧ g.done = [] ∧ g.ran = [] ∧
    opChunk (op0 5 0) = opChunk o := by decide +kernel
theorem test_meets_Collectives_data : let g : Graph := { graph0 (op0 1 0) with count := [(0, 1)] }
    let s := withGraph g
    let m := { blockMsg (.station 2) (.station 0) 0x1A 1 0 (.bytes (toBytes 8 0 ++ [1, 2, 3, 4])) with stream := 0 }
    let sent := graph0 (op0 0 0x4002)
    let r := { blockMsg (.station 0) (.station 0) 0x10 1 (2 * 2 ^ 26) (.elems [5]) with stream := 0 }
    graphsOf mapped (.station 0) = [] ∧ mapped.buffered (.station 0) + 4 ≤ 0x40000 ∧ mapped.sweeping (.station 0) 1 = false ∧
    graphsOf s (.station 0) = [(0, g)] ∧ s.graph (.station 0) 0 = g ∧ g.loaded = true ∧ (g.header.extractLsb' 16 16).toNat = 1 ∧ g.launch = some 0 ∧ 0 ∉ g.done ∧ g.ops[0]? = some (op0 1 0) ∧ opKind (op0 1 0) = 1 ∧ m.typ = 0x1A ∧ opLen (op0 1 0) ≤ [1#8, 2, 3, 4].length ∧ Table.get 0 g.count 0 = 1 ∧
    g.arrive = [] ∧ { sent with ran := [0] }.ops[0]? = some (op0 0 0x4002) ∧ opKind (op0 0 0x4002) = 0 ∧
    peerNode (opPeer (op0 0 0x4002)) = some m.src ∧ opPeerOp (op0 0 0x4002) = 0 ∧ opPeer (op0 3 2) % 64 = 2 ∧ opKind (op0 3 2) = 3 ∧
    (r.arg.extractLsb' 26 6).toNat = 2 ∧ (r.arg.extractLsb' 10 16).toNat = 0 := by decide +kernel
/-- The arrival buffer is full: 259 messages with 1,016 bytes of data. -/
theorem test_meets_Collectives_full : let m := blockMsg (.station 2) (.station 0) 0x1A 1 0 (.bytes (List.replicate 1024 0))
    let s := mapped.setEarly (.station 0) (List.replicate 259 m)
    graphsOf s (.station 0) = [] ∧ s.sweeping (.station 0) 1 = false ∧ 0x40000 < s.buffered (.station 0) + (1024 - 8) := by decide +kernel
theorem test_meets_Collectives_faults : let f : EngFault := ⟨0, 0, 0, false, 0x0A, 1, 2, true, 7, 0, 0, 0, some (.blockTransferStart 0 0)⟩
    let s := (mapped.modStation 5 fun t => { t with faults := [(0, some f)] }).setRouter 1 { mapped.router 1 with holds := [(2, 7)] }
    Table.get none (s.station 5).faults 0 = some f ∧ (f.group, f.rseq) ∈ (s.router 1).holds ∧ s.engine 0 0 = some engine0 ∧
    engine0.fail = none ∧ Table.get none (s.station 4).faults 0 = none := by decide +kernel

/-! ## Removal, registers and buckets, escalations, fencing -/

def removal0 : Removal := ⟨1, none, 1, 0x21, [.router 1 0]⟩
theorem test_meets_Removal : let s := { inBand band0 id with removals := [removal0] }
    let swept := s.setRouter 1 { s.router 1 with sweeps := [(1, 0)] }
    let last := { inBand band0 id with removals := [{ removal0 with blocks := [] }]
                                       regions := [(1, some { region0 with req := some (0, 2) })] }
    (∀ r ∈ base.removals, r.pid ≠ 1) ∧ (∃ r ∈ s.removals, r.pid = 1 ∧ r.region = none) ∧ s.logical 1 0 = some 0 ∧
    s.domOf 0 1 = some 0 ∧ (s.setRouter 1 { s.router 1 with sweeps := [(1, 1)] }).mcycle < 1 ∧
    (swept.router (nodeKey (.router 1 0))).sweeps = [(1, 0)] ∧ (0 : Nat) ≤ swept.mcycle ∧ swept.removals = [removal0] ∧
    last.removals = [{ removal0 with blocks := [] }] ∧ last.launchOf 1 = some launch0 ∧
    last.regionOf 1 = some { region0 with req := some (0, 2) } ∧ (region0.rcb.extractLsb' 24 16).toNat = 1 := by decide +kernel

theorem test_meets_RegistersAndBuckets_registers :
    ({ base with inval := some (1, [0]) } : State).inval = some (1, [0]) ∧ base.inval = none ∧ base.hasTranslated 1 = false ∧
    ({ base with flight := [.meshRoute (.router 1 0) { request .read with pay := .access (access .read true 0) }],
                  stations := [(xlatStation 1 0x100, { base.station 0 with era := 1 })] } : State).hasTranslated (1 ||| 1#64 <<< 62) = true ∧
    (match blockOf (controlReg 0x100) with | (.groups _, _) => false | (.none, _) => false | _ => true) = true ∧
    base.logical 0 31 = none ∧ base.logical 65 31 = none ∧ base.logical 1 0 = some 0 ∧ base.regionsAt (31 * 64 + 63) = [] ∧
    base.physX 31 63 = 64 ∧ base.regionsAt 0 = [0] ∧ base.regionHeld 0 = true ∧
    (inBand { band0 with holding := false } id).regionsAt 0 = [1] ∧ (inBand band0 id).regionHeld 1 = false := by decide +kernel
theorem test_meets_RegistersAndBuckets_buckets : let f := base.sharedRange.1
    let mv : Move := ⟨f, base.bucketStation f, 6, 0, 2111, []⟩
    let s := { base with move := some mv }
    let b := base.epochRange.1.1
    let n := base.bucketStation b
    s.move = some mv ∧ s.owned = [] ∧ base.move = none ∧ n < 64 ∧ 64 + 2048 ≤ mv.told + 1 ∧ ({ mv with told := 0 } : Move).told + 1 < 64 + 2048 ∧
    ({ s with owned := [(5, f + 1)] } : State).owned = [(5, f + 1)] ∧ ({ s with lines := [(5, some ⟨false, 1, f⟩)] } : State).lines ≠ [] ∧ 0 < base.epochRange.1.2 ∧
    Table.get none ((base.modStation 0 fun t => { t with swaps := [(3, some (7, 0, 0))] }).station 0).swaps 3 = some (7, 0, 0) ∧
    Table.get none (base.station 0).swaps 3 = none := by decide +kernel
/-- A count on one bucket of a range of more than one. -/
theorem test_meets_RegistersAndBuckets_epoch : let b := base.epochRange.1.1
    let s := { base with bcount := [(b, 1)] }
    s.move = none ∧ s.bmoved = [] ∧ s.epochRange.1.1 = b ∧ 2 ≤ s.epochRange.1.2 ∧ s.bucketStation b ≠ s.bucketStation (b + 1) := by
  decide +kernel

theorem test_meets_Escalations : let launch : Launch := { launch0 with rcbs := [(0, put (put 0 0 2 1) 24 16 1)] }
    let s := { inBand band0 id with launches := [(1, some launch)] }
    let m := blockMsg (base.nodeOf 0) (.service 0) 0x0F 1 0x33 (.words 0 0)
    let p := s.modMe fun t => { t with run := .stopped, owed := true }
    m.dst = .service 0 ∧ m.pay = .words 0 0 ∧ base.jobOf 1 = none ∧ (s.jobOf m.pid.toNat).isSome = true ∧
    s.launchOf 1 = some launch ∧ launch.sv = 0 ∧ (m.arg.extractLsb' 0 6).toNat = 0x33 ∧ (p.thread 0 0).run = .stopped ∧ (p.thread 0 0).owed = true ∧
    (0x8000000000000000#64).extractLsb' 62 2 = 2 ∧ (s.policyAt 1 0 0).testBit 2 = true ∧ s.bandAt 0 0 = some (0, band0) ∧
    (∀ r ∈ s.removals, r.pid ≠ 1) ∧ s.fatalScope 1 0 0 = none ∧
    ((inBand band0 fun d => { d with fdPolicy := 1 }).fatalScope 1 0 0) = some 1 ∧ s.regionOf 1 = some region0 := by decide +kernel

/-- Tile (1, 0) accused by router (2, 0) in router (1, 1), which is its neighbour. -/
def acc0 (by_ : Node) : Accuse := ⟨1, 0, by_, .silent, 0⟩
def accused0 (x y : Nat) (l : List Accuse) : State := base.setRouter (y * 66 + x) { base.router (y * 66 + x) with accuse := l }
theorem test_meets_HeartbeatsAndAccusations :
    let s := base.setReg (linkStat 1 1 2) 0x10000
    let t := (accused0 1 1 [acc0 (.router 1 1)]).setReg (linkStat 1 1 2) 0x10000
    base.linkState 1 1 2 = 0 ∧ s.linkState 1 1 2 = 1 ∧ (base.setReg (linkStat 1 1 2) 0x30000).linkState 1 1 2 = 3 ∧
    (base.setReg (linkStat 1 1 2) 0x20000).linkState 1 1 2 = 2 ∧ tileBeyond 1 1 2 = some (1, 0) ∧ linkTo 1 1 1 0 = 2 ∧
    base.knowsFenced 1 1 1 0 = false ∧ base.deadLink 1 1 2 1 0 = false ∧ Table.get 0 (base.router 67).heard 2 < 2 ∧
    2 ≤ (s.liveAround 1 1 1 0).length ∧ (t.liveAround 1 1 1 0) ≠ [] ∧
    (accused0 1 1 [acc0 (.router 1 1)]).mcycle + 1 < 0 + 12288 ∧ ({ base with mcycle := 65536 } : State).mcycle = 65536 ∧
    (({ base with mcycle := 16384 } : State).setReg (linkStat 1 1 2) 0x30000).mcycle + 1 > 4096 ∧
    (t.router 67).accuse = [acc0 (.router 1 1)] := by decide +kernel
/-- In the corner (0, 31) of the grid one neighbour of (1, 31) is left when the others are fenced. -/
theorem test_meets_HeartbeatsAndAccusations_hold : let f := [(31 * 66 + 2, 1), (30 * 66 + 1, 1)]
    let a : Accuse := ⟨1, 31, .router 0 31, .silent, 0⟩
    let s := ((base.setRouter (31 * 66) { base.router (31 * 66) with fences := f, accuse := [a] }).setReg (linkStat 0 31 3) 0x10000)
    s.linkState 0 31 (linkTo 0 31 1 31) = 1 ∧ (s.liveAround 0 31 1 31).length = 1 ∧
    ({ s with mcycle := 65536 } : State).mcycle = 65536 ∧ (s.router (31 * 66)).accuse = [a] := by decide +kernel

theorem test_meets_FencesAndReadmission_notice : let s := inBand band0 id
    Table.get 0 (base.router 67).fences 67 = 0 ∧ (base.router 67).fences.length < 64 ∧
    ((base.setRouter 67 { base.router 67 with fences := (List.range 64).map fun i => (i, 1) }).router 67).fences.length = 64 ∧
    (inBand band0 id).regions = [(1, some region0)] ∧ region0.phase = 0 ∧ base.logical 1 0 = some 0 ∧ (1, 1) ∈ adjacent 1 0 ∧
    quadrant 1 0 = 0 ∧ s.logical 1 0 = some 0 ∧ (s.dom 0 0).present = true ∧ (s.dom 0 1).present = false ∧
    (s.dom 0 2).present = false ∧ (s.dom 0 3).present = false ∧ s.launchOf (s.dom 0 0).launch = some launch0 ∧
    (s.policyAt (s.dom 0 0).pid 0 0).testBit 2 = true ∧ s.bandAt 0 0 = some (0, band0) ∧ band0.region = (s.dom 0 0).region ∧
    (s.dom 0 0).band = 1 := by decide +kernel
def fenced0 : State :=
  let s := inBand { band0 with holding := true, started := false } id
  (s.setRouter 1 { s.router 1 with fences := [(1, 1)] }).modTile 0 fun t => { t with fenced := true }
theorem test_meets_FencesAndReadmission_spare : fenced0.physX 0 0 = 1 ∧ fenced0.isFenced 1 0 = true ∧
    fenced0.nearSpare 0 1 = some 0 ∧ base.isFenced 1 0 = false ∧ fenced0.regionsAt 0 = [1] ∧ fenced0.regionHeld 1 = true ∧
    fenced0.abortsOld 1 = true ∧ (fenced0.policyAt 1 0 0).testBit 2 = true ∧
    ((fenced0.setRouter 0 { fenced0.router 0 with fences := [(0, 1)] }).setRouter 65 { fenced0.router 65 with fences := [(65, 1)] }).nearSpare
      0 1 = none ∧ (inBand band0 id).mayRemap ((inBand band0 id).regionsAt 0) = false := by decide +kernel
theorem test_meets_FencesAndReadmission_copied : ((fenced0.substitute 0 0 0).copyCode 0 0).isSome = true ∧
    (match (fenced0.substitute 0 0 0).copyCode 0 0 with
      | some t => t.bandAt 0 0 == some (0, { band0 with holding := true, started := false }) &&
          t.bandOf 0 == some { band0 with holding := true, started := false }
      | none => false) = true := by decide +kernel
theorem test_meets_FencesAndReadmission_replay : let rp : Replay := ⟨0, [(0, 1)], 0, 1, []⟩
    let b : Band := { band0 with holding := true, replay := some rp }
    let s := inBand b id
    let primed := (s.modStation 0 fun t => { t with cursors := [{ cur0 with begun := [] }] }).modStation 32 fun t =>
      { t with cursors := [{ cur0 with begun := [] }] }
    s.bandOf 0 = some b ∧ s.timers = [] ∧ s.rowPrimed 0 b 0 0 0 = false ∧ primed.rowPrimed 0 b 0 0 0 = true ∧
    s.liveTiles b 0 = [0] ∧ b.tau 0 0 = 0 ∧ s.ranOut 0 0 0 0 0 = true ∧
    (inBand b fun d => { d with running := true }).ranOut 0 0 0 0 0 = false ∧
    ({ b with replay := some ⟨0, [], 0, 0, []⟩ } : Band).again = [] := by decide +kernel
theorem test_meets_FencesAndReadmission_appeals : let s := base.setRouter 67 { base.router 67 with fences := [(67, 1)] }
    s.isFenced 1 1 = true ∧ base.isFenced 1 1 = false ∧ Table.get 0 base.appeals 67 = 0 ∧
    Table.get 0 ({ base with appeals := [(67, 3)] } : State).appeals 67 = 3 ∧ (base.setReg (linkStat 1 0 4) 0x20000).linkState 1 0 4 = 2 ∧
    (base.setReg (linkStat 1 0 4) 0x30000).linkState 1 0 4 = 3 ∧ base.linkState 1 0 4 = 0 ∧ tileBeyond 1 0 4 = some (1, 1) ∧
    (base.liveAround 1 0 1 1).length = 4 := by decide +kernel

/-! ## Ports, power and boot -/

/-- Port 0 with a value of PORT_LASER and a state of the link. -/
def laser (v : W64) (f : PortSt → PortSt) : State :=
  (base.setReg (portReg 0 0x400) v).modPortSt 0 f
theorem test_meets_PortsAndLasers : let s := laser 0 id
    base.laserCur 0 = 2 ∧ base.laserTarget 0 = 2 ∧ s.laserCur 0 = 0 ∧ s.laserTarget 0 = 0 ∧ (s.portSt 0).stripe = none ∧
    (s.portSt 0).down = false ∧ (s.portSt 0).attempts = 0 ∧ (s.portSt 0).replay = 0 ∧ (s.portSt 0).quiesced = false ∧
    (s.portSt 0).syncing = false ∧ (s.portSt 0).peerQuiesced = false ∧ s.timers = [] ∧
    (laser 0x10 id).laserCur 0 = 1 ∧ (laser 0x10 id).laserTarget 0 = 0 ∧ (laser 0x20 id).laserCur 0 = 2 ∧
    (laser 0x20 id).laserTarget 0 = 0 ∧ (laser 0x02 id).laserCur 0 = 0 ∧ (laser 0x02 id).laserTarget 0 = 2 ∧
    (laser 0x30 id).laserCur 0 = 3 ∧ (s.lanes 0).testBit 0 = true ∧
    ((List.range 16).filter fun i => (s.lanes 0).testBit i).length = 16 := by decide +kernel
theorem test_meets_PortsAndLasers_states :
    let st (f : PortSt → PortSt) : PortSt := (laser 0 f).portSt 0
    (st fun t => { t with replay := 3 }).replay ≠ 0 ∧ (st fun t => { t with down := true }).down = true ∧
    (st fun t => { t with down := true }).quiesced = false ∧ (st fun t => { t with attempts := 3 }).attempts = 3 ∧
    (st fun t => { t with attempts := 4 }).attempts = 4 ∧ (st fun t => { t with syncing := true }).syncing = true ∧
    (st fun t => { t with stripe := some ⟨some 0xFF, 0, true, none⟩ }).stripe = some ⟨some 0xFF, 0, true, none⟩ ∧
    (st fun t => { t with stripe := some ⟨none, 0, true, none⟩ }).stripe = some ⟨none, 0, true, none⟩ ∧
    (st fun t => { t with stripe := some ⟨none, 2, false, none⟩ }).stripe = some ⟨none, 2, false, none⟩ ∧ (st id).todo = [] ∧
    (st fun t => { t with quiesced := true }).quiesced = true ∧
    (((laser 0 id).setReg (portReg 0 0x500) 0xF0000).lanes 0).testBit 0 = true ∧
    ((List.range 16).filter fun i => (((laser 0 id).setReg (portReg 0 0x500) 0xF0000).lanes 0).testBit i).length = 4 ∧
    (((laser 0 id).setReg (portReg 0 0x500) 0xF0000).lanes 0).testBit 5 = false := by decide +kernel
/-- A sensor of row 31 that reads a temperature. -/
def warm (t : Int) : State := { base with temps := [(31 * 66 + 4, t - 40)] }
theorem test_meets_PowerAndBoot : let s := inBand band0 id
    let sv := (s.setService 0 { s.service 0 with running := 1 }).service 0
    let sw := (s.setService 0 { s.service 0 with running := 2 }).service 0
    s.regions = [(1, some region0)] ∧ region0.live = true ∧ region0.phase = 0 ∧ (rcbRect region0.rcb).1 = 0 ∧
    (warm 101).rowTemps 31 = [101] ∧ (warm 96).rowTemps 31 = [96] ∧ (warm 80).rowTemps 31 = [80] ∧ base.rowTemps 31 = [] ∧
    (warm 101).rowCovered 31 = false ∧ ({ warm 80 with hot := [31] } : State).hot = [31] ∧ 31 ∉ base.hot ∧
    ({ s with temps := [(2, 61)] } : State).rowTemps 0 = [101] ∧ base.snapTime = BitVec.allOnes 64 ∧
    ({ base with snapTime := 0 } : State).snapTime.toNat ≤ base.time.toNat ∧ sv.running = 1 ∧
    sw.running = 2 ∧ (1#32).getLsbD 1 = false ∧ (3#32).getLsbD 1 = true ∧ s.module = 0 := by decide +kernel

/-! ## Requests -/

/-- A root, a job of PID 2 with a region of one tile at row 0, column 0, and a band of one row and one stage; the stage
record is at 0x200 and the code image at 0x300. -/
def root0 : BitVec 1024 := put (put (put (put (put (put 0 320 24 0x10000) 348 5 1) 48 8 1) 428 13 1) 128 64 0x80) 2 3 1
def job0 (kids : Nat) : BitVec 1024 := put (put (put 0 0 2 1) 24 16 2) 128 64 kids
def tree (kids : Nat) : State :=
  let region := put (put (put 0 0 2 2) 64 64 0x80) 128 64 0x180
  let band := put (put (put (put (put (put 0 0 2 3) 64 64 0x100) 512 64 0x200) 576 64 0x300) 640 16 1) 666 22 8
  let bytes := [root0, job0 kids, region, band].flatMap fun r => toBytes 128 r.toNat
  { State.reset with
    mem := ((bytes.zipIdx.filter fun b => b.1 != 0).map fun b => (b.2, b.1)) ++ [(0x200, 1), (0x205, 128)] }
def isErr (c : Check Plan0) (e : Nat) : Bool := match c with | .error x => x == e | .ok _ => false
def isOk (c : Check Plan0) (f : Plan0 → Bool) : Bool := match c with | .error _ => false | .ok p => f p

/-- A request record of code c that names address p. -/
def record0 (c p : Nat) : BitVec 512 := put (put 0 0 8 c) 128 64 p
theorem test_meets_Requests_records : (record0 1 0).extractLsb' 288 224 = 0 ∧ (record0 9 0).extractLsb' 0 8 = 9 ∧
    (record0 1 0).extractLsb' 8 8 = 0 ∧ (record0 1 0).extractLsb' 192 64 = 0 ∧ (record0 1 0).extractLsb' 256 32 = 0 := by decide +kernel
theorem test_meets_Requests_launch_empty : isOk ((tree 0).validate 0 false) (fun p => p.bands.isEmpty) = true := by decide +kernel
theorem test_meets_Requests_launch_bad : isErr (base.validate 0x80 false) 4 = true ∧ isErr (base.validate 8 false) 2 = true ∧
    isErr (({ tree 0 with owned := [(0, 1)] } : State).validate 0 false) 0 = true := by decide +kernel
theorem test_meets_Requests_launch : isOk ((tree 0x100).validate 0 false) (fun p =>
    p.bands.length == 1 && (tree 0x100).rowsReady p && (tree 0x100).fits p && p.regions.all (fun r => r.reds.isEmpty) &&
    p.tiles.all fun T => !(tree 0x100).isFenced ((tree 0x100).physX (T / 64) (T % 64)) (T / 64) &&
      quadrantOf ((tree 0x100).nodeOf T) == 0) = true := by decide +kernel

/-- The tree beside a region on the same tile, of a priority and in a phase. -/
def crowded (prio phase : Nat) : State :=
  { tree 0x100 with
    regions := [(1, some { region0 with phase := phase })]
    launches := [(1, some { launch0 with rcbs := [(0, put (job0 0) 2 3 prio)] })] }
theorem test_meets_Requests_launch_full : isOk ((crowded 0 0).validate 0 false) (fun p =>
    (crowded 0 0).rowsReady p && !(crowded 0 0).fits p && rcbPriority root0 == 1 && (crowded 0 0).victim 1 == some 1 &&
    (crowded 1 0).victim 1 == none && !(crowded 0 1).fits p &&
    ((nodesOf p.nodes 1).foldl (fun m j => Nat.min m (rcbPriority j.eff)) 8 == 1)) = true := by decide +kernel
theorem test_meets_Requests_launch_rows : let s := (tree 0x100).setReg (controlReg 0x100) 1
    isOk (s.validate 0 false) (fun p => !s.rowsReady p) = true := by decide +kernel
/-- The region of `inBand` under a job RCB with bit 44 set, in a phase. -/
def placed (phase : Nat) : State :=
  { inBand band0 id with regions := [(1, some { region0 with rcb := put region0.rcb 44 1 1, phase := phase })] }
theorem test_meets_Requests_regions : base.regionAt 0 = none ∧ (inBand band0 id).regionAt 0 = some (1, region0) ∧
    (inBand band0 id).regionOf 1 = some region0 ∧ region0.phase = 0 ∧ region0.rcb.getLsbD 44 = false ∧
    ((placed 0).regionAt 0).isSome = true ∧ (put region0.rcb 44 1 1).getLsbD 44 = true ∧ (placed 2).regionsOf 1 ≠ [] ∧
    (placed 0).bandOf 0 = some band0 ∧ band0.region = 1 ∧ region0.req = none := by decide +kernel
def imageCode (c : Check (Option Nat)) : Nat := match c with | .error e => e | .ok none => 100 | .ok (some _) => 101
theorem test_meets_Requests_images : imageCode ((placed 2).imageAt 0x1000) = 100 ∧ imageCode ((placed 2).imageAt 0x030000000000) = 0x0B := by
  decide +kernel
def lookOk (c : Check (List Byte)) (n : Nat) : Bool := match c with | .error _ => false | .ok b => b.length == n
theorem test_meets_Requests_reads : base.readable 0 64 = true ∧ base.readable 0x030000000000 64 = false ∧
    lookOk (base.look 0 64 0x12) 64 = true ∧ lookOk ((tree 0x100).look 0x180 128 0x0A) 128 = true ∧
    lookOk (base.look 0 128 0x0A) 128 = true ∧ base.copyRange false 0 64 = true ∧ base.copyRange false 8 64 = false ∧
    base.copyRange true (lsAddr 0 0xBFFFC0) 64 = true ∧ placeOf (lsAddr 0 0xBFFFC0) = .store 0 0xBFFFC0 ∧ moduleOf (lsAddr 0 0xBFFFC0) = 0 ∧
    base.lsBad 0 0xBFFFC0 64 = false ∧ ({ base with bad := [lsAddr 0 0xBFFFC0 / 8] } : State).lsBad 0 0xBFFFC0 64 = true := by decide +kernel

/-- A state with an image of the region of `placed` in local store 100: its header names image 0. -/
def header0 : List Byte := (List.range 64).map fun o => Config.headerByte 0 0 o
def thread0 : Thread := { Thread.reset with pc := 0x40 }
def part0 : ImageTile := ⟨0, { (placed 2).dom 0 0 with lsSize := 0, accMask := 0, slotMask := 0 }, [(0, thread0)], [], [], []⟩
def image0 : Image := ⟨1, 1, [band0], [], [], [part0]⟩
def image_at : Nat := lsAddr 100 0
def frozen : State :=
  { (placed 2).modDom 0 0 (fun d => { d with lsSize := 0, accMask := 0, slotMask := 0 }) with
    images := [image0], mem := Memory.write [] image_at header0 }

theorem look_answers (s : State) (pa n st : Nat) (h : s.readable pa n = true)
    (hd : ∀ p ∈ linePieces pa n, (s.devRead p.1 p.2).2.1 = .ok) : ∃ b, s.look pa n st = .ok b := by
  have key : ∀ (l : List (Nat × Nat)) (acc : List Byte), (∀ p ∈ l, (s.devRead p.1 p.2).2.1 = .ok) →
      ∃ b, l.foldlM (fun (b : List Byte) p =>
        match s.devRead p.1 p.2 with
        | (_, .ok, b') => (.ok (b ++ b') : Check (List Byte))
        | (_, .wait, _) => .error 0
        | (_, .lost, _) => .error st) acc = .ok b := by
    intro l
    induction l with
    | nil => intro acc _; exact ⟨acc, rfl⟩
    | cons p l ih =>
      intro acc hl
      have hp := hl p (by simp)
      obtain ⟨b, hb⟩ := ih (acc ++ (s.devRead p.1 p.2).2.2) fun q hq => hl q (by simp [hq])
      refine ⟨b, ?_⟩
      rcases hr : s.devRead p.1 p.2 with ⟨s1, u, b'⟩
      rw [hr] at hp hb
      simp only at hp
      subst hp
      simp only [List.foldlM_cons, hr]
      exact hb
  obtain ⟨b, hb⟩ := key (linePieces pa n) [] hd
  refine ⟨b, ?_⟩
  unfold State.look
  rw [h]
  exact hb

theorem test_meets_Requests_restore_parts : ∃ b, frozen.imageParts [part0] image_at = .ok [b] := by
  obtain ⟨b, hb⟩ := look_answers frozen image_at (partSize part0) 0x12 (by decide +kernel) (by decide +kernel)
  exact ⟨b.drop 0x10000, by simp [State.imageParts, hb]; rfl⟩
theorem test_meets_Requests_restore_image : frozen.imageAt image_at = .ok (some 0) := by
  have hb : frozen.look image_at 64 0x12 = .ok header0 := by
    have hp : linePieces image_at 64 = [(image_at, 64)] := by decide +kernel
    have hd : frozen.devRead image_at 64 = (frozen, .ok, frozen.lsRead 100 0 64) := by
      have h1 : placeOf image_at = .store 100 0 := by decide +kernel
      have h2 : frozen.lsBad 100 0 64 = false := by decide +kernel
      have h4 : frozen.flips = [] := rfl
      simp [State.devRead, h1, h2, State.scrub, h4]
    have hr : frozen.lsRead 100 0 64 = header0 := Memory.read_write_self [] image_at header0
    have h3 : frozen.readable image_at 64 = true := by decide +kernel
    simp [State.look, h3, hp, hd, hr]
  have hi : frozen.images = [image0] := rfl
  have h3 : frozen.readable image_at 64 = true := by decide +kernel
  simp [State.imageAt, h3, hb, hi, header0, Except.map]
theorem test_meets_Requests_restore : frozen.images[0]? = some image0 ∧ frozen.imageTiles 1 = [(0, 0)] ∧ image0.tiles = [part0] ∧
    frozen.sameShape 1 { region0 with phase := 2 } image0 = true ∧ part0.threads = [(0, thread0)] ∧
    frozen.sameShape 1 { region0 with phase := 2 } { image0 with height := 2 } = false := by decide +kernel

/-! ## Words and steps -/

theorem test_meets_EncodeThenDecode : (Instr.addi g0 31 0 0xFFFFFFFF).wf = true ∧ (Instr.addi g0 31 0 0xFFFFFFFF).hasWord = true := by
  decide
theorem test_meets_DecodeThenEncode : (decode 0x3800E1C0FFFFFFF8#64).isOk = true := by decide
theorem test_meets_Selects : (withMe fun t => { t with p := 2 }).runs ⟨false, 1⟩ [31, 0, 4] true 0 = true ∧
    base.runs g0 [31, 0, 4] true 0 = true := by decide
/-- A word at the pc of `base`'s thread. -/
def word (w : Nat) : State := base.lsWrite 0 (base.dom 0 0).codeBase (toBytes 8 w)
theorem test_meets_StepRunsDecoded : base.flight = [] ∧ base.timers = [] ∧ base.inputs = [] ∧ base.nextService = none ∧
    base.nextTurn = some (0, 0) ∧ (base.thread 0 0).run = .ready ∧ (base.thread 0 0).overrun = false ∧ (base.thread 0 0).pend = none ∧
    decode ((word 0x3800E1C0FFFFFFF8).fetchWord 0 0) = .ok (.addi g0 7 7 0xFFFFFFF8) ∧
    decode ((word 0x0B00000000000000).fetchWord 0 0) = .error .illegal ∧ (word 0x0B00000000000000).nextTurn = some (0, 0) ∧
    (withMe fun t => { t with pc := 4 }).nextTurn = some (0, 0) ∧ (withMe fun t => { t with pc := 0x400 }).nextTurn = some (0, 0) ∧
    (base.dom 0 (base.domNo 0 0)).codeSize = 0x400 ∧ (withMe fun t => { t with pend := some (.fence g0 plain) }).nextTurn = some (0, 0) ∧
    (withMe fun t => { t with run := .done }).nextTurn = none := by decide +kernel
/-- The first word of the code has been lost, or is to arrive with a residency record. -/
theorem test_meets_StepRunsDecoded_fetch : let at_ := base.choose 0 0
    let late (f : Nat) := ((withDom fun d => { d with fdPolicy := f, resid := [⟨d.codeBase, 8, 0, 0, 0, 0⟩] }).choose 0 0)
    at_.fetchState = 1 ∧ ({ at_ with bad := [lsAddr 0 (base.dom 0 0).codeBase / 8] } : State).fetchState = 2 ∧
    (late 8).fetchState = 0 ∧ (late 8).myDom.fdPolicy.getLsbD 3 = true ∧ (late 0).fetchState = 0 ∧
    (late 0).myDom.fdPolicy.getLsbD 3 = false := by decide +kernel
theorem test_meets_StepRunsDecoded_events : ({ base with flight := [.xlatInvalDone] } : State).flight ≠ [] := by decide
theorem test_meets_MemoryInvariant : Memory.wf State.reset.mem = true ∧ ∃ t, step (withMe fun t => { t with run := .done }) = .next t :=
  ⟨rfl, _, rfl⟩

end Sys2Proof.Tests
end

/-! ## Tables, folds, stations and registers: what is read after an update -/

section

namespace Sys2Proof.Table

variable {α : Type}

/-- Another key reads as before a write, whatever default it is read with. -/
theorem get_set_ne_default [DecidableEq α] (d d' : α) (t : Tbl α) {k j : Nat} (v : α) (h : j ≠ k) :
    get d (set d' t k v) j = get d t j := by
  unfold set
  split
  · exact get_del_ne d t h
  · rw [get_put_ne d _ v h, get_del_ne d t h]

/-- With no key listed twice, an entry of the table is what its key reads as. -/
theorem get_eq_of_mem (d : α) {t : Tbl α} (hn : (t.map (·.1)).Nodup) {k : Nat} {v : α} (h : (k, v) ∈ t) :
    get d t k = v := by
  induction t with
  | nil => simp at h
  | cons e t ih =>
    obtain ⟨k', v'⟩ := e
    simp only [List.map_cons, List.nodup_cons, List.mem_map] at hn
    rcases List.mem_cons.1 h with h | h
    · cases h
      simp [get]
    · have hne : k' ≠ k := fun e => hn.1 ⟨(k, v), h, e.symm⟩
      rw [get, if_neg hne, ih hn.2 h]

/-- A key that does not read as the default is listed. -/
theorem mem_keys_of_get_ne (d : α) {t : Tbl α} {k : Nat} (h : get d t k ≠ d) : k ∈ keys t := by
  induction t with
  | nil => exact absurd rfl h
  | cons e t ih =>
    obtain ⟨k', v'⟩ := e
    by_cases hk : k' = k
    · simp [keys, hk]
    · rw [get, if_neg hk] at h
      exact List.mem_cons_of_mem _ (ih h)

/-- Keys that a test drops read as the default, the others as before. -/
theorem get_filter_key (d : α) (f : Nat → Bool) (t : Tbl α) (k : Nat) :
    get d (t.filter fun e => f e.1) k = if f k = true then get d t k else d := by
  induction t with
  | nil => simp [get]
  | cons e t ih =>
    obtain ⟨k', v'⟩ := e
    by_cases hk : k' = k
    · subst hk
      by_cases hf : f k' = true <;> simp [List.filter, hf, get, ih]
    · by_cases hf : f k' = true <;> simp [List.filter, hf, get, hk, ih]

end Sys2Proof.Table

namespace Sys2Proof.Machine

open Bits

/-- A relation that every step of a fold keeps, from any state to the next, holds from its start to its end. -/
theorem foldl_rel {σ β : Type} (R : σ → σ → Prop) (hr : ∀ s, R s s) (ht : ∀ s t u, R s t → R t u → R s u)
    (g : σ → β → σ) (hg : ∀ s x, R s (g s x)) (l : List β) (s : σ) : R s (l.foldl g s) := by
  induction l generalizing s with
  | nil => exact hr s
  | cons x l ih => exact ht _ _ _ (hg s x) (ih _)

/-- What every step of a fold leaves alone, the fold leaves alone. -/
theorem foldl_keeps {σ β γ : Type} (p : σ → γ) (g : σ → β → σ) (hg : ∀ s x, p (g s x) = p s) (l : List β) (s : σ) :
    p (l.foldl g s) = p s :=
  foldl_rel (fun s t => p t = p s) (fun _ => rfl) (fun _ _ _ h k => k.trans h) g hg l s

variable (s : State)

/-! ### Stations -/

theorem State.station_setStation (n k : Nat) (v : Station) :
    (s.setStation n v).station k = if k = n then v else s.station k := by
  simp [State.station, State.setStation, Table.get_set]

theorem State.station_modStation (n k : Nat) (f : Station → Station) :
    (s.modStation n f).station k = if k = n then f (s.station n) else s.station k := by
  simp [State.modStation, State.station_setStation]

@[simp] theorem State.station_modStation_self (n : Nat) (f : Station → Station) :
    (s.modStation n f).station n = f (s.station n) := by
  simp [State.station_modStation]

/-! ### Device registers -/

theorem State.reg_setReg (a b : Nat) (v : W64) : (s.setReg a v).reg b = if b = a then v else s.reg b := by
  by_cases h : b = a
  · simp [State.reg, State.setReg, State.setRegRaw, State.regRaw, h]
  · simp [State.reg, State.setReg, State.setRegRaw, State.regRaw, h, Table.get_set]

@[simp] theorem State.reg_setReg_self (a : Nat) (v : W64) : (s.setReg a v).reg a = v := by
  simp [State.reg_setReg]

theorem State.otherRegs_setReg (a : Nat) (v : W64) : s.otherRegs (s.setReg a v) a :=
  fun b h => by rw [State.reg_setReg, if_neg h]

theorem State.otherRegs_rfl (a : Nat) : s.otherRegs s a := fun _ _ => rfl

/-- A read clears the RC bits of its register and nothing else (R3). -/
theorem State.clearRc_spec (a : Nat) :
    (s.clearRc a).reg a = s.reg a &&& ~~~(regInfo a).rc ∧ s.otherRegs (s.clearRc a) a := by
  by_cases h : (regInfo a).rc = 0
  · rw [State.clearRc, if_pos h, h, show ~~~(0 : W64) = BitVec.allOnes 64 from rfl, BitVec.and_allOnes]
    exact ⟨rfl, s.otherRegs_rfl a⟩
  · rw [State.clearRc, if_neg h]
    exact ⟨s.reg_setReg_self a _, s.otherRegs_setReg a _⟩

/-- A write of a whole register at service privilege, bit by bit (R3). -/
theorem getLsbD_regMerge_service (i : RegInfo) (old v : W64) {k : Nat} (hk : k < 64) :
    (regMerge i 2 old v (BitVec.allOnes 64)).getLsbD k =
      (!(v.getLsbD k && i.w1c.getLsbD k) && if i.sv.getLsbD k = true then v.getLsbD k else old.getLsbD k) := by
  have hm : regMerge i 2 old v (BitVec.allOnes 64) = ((old &&& ~~~i.sv) ||| (v &&& i.sv)) &&& ~~~(v &&& i.w1c) := by
    simp only [regMerge, BitVec.and_allOnes, ge_iff_le, le_refl, if_true]
  rw [hm]
  simp only [BitVec.getLsbD_and, BitVec.getLsbD_or, BitVec.getLsbD_not, hk, decide_true, Bool.true_and]
  cases i.sv.getLsbD k <;> simp [Bool.and_comm]

/- `blockOf` of a variable address does not reduce, and comparing two matches on it makes Lean count down a literal of 47
bits in the attempt. So a function that matches on it is unfolded as a constant, before its arguments, and the block is
then named or made a variable. -/

/-- A register of a block other than the group table is merged and stored by itself. -/
theorem State.regStore_eq {a : Nat} (hg : ∀ i o, blockOf a ≠ (.groups i, o)) (hn : ∀ o, blockOf a ≠ (.none, o))
    (p : Nat) (v m : W64) : s.regStore a p v m = s.setReg a (regMerge (regInfo a) p (s.reg a) v m) := by
  rw [show @State.regStore = _ from by delta State.regStore; exact rfl]
  generalize s.setReg a (regMerge (regInfo a) p (s.reg a) v m) = x
  generalize blockOf a = q at *
  rcases q with ⟨b, o⟩
  cases b with
  | groups i => exact absurd rfl (hg i o)
  | none => exact absurd rfl (hn o)
  | _ => rfl

/-- A register whose write has no effect but on itself is stored. -/
theorem State.regWrite_plain {a : Nat} (h : plainReg a = true) (p : Nat) (v m : W64) (pid : BitVec 16) (free : Bool) :
    s.regWrite a p v m pid free = s.setReg a (regMerge (regInfo a) p (s.reg a) v m) := by
  rw [show @plainReg = _ from by delta plainReg; exact rfl] at h
  rw [← State.regStore_eq s (by rintro i o hb; simp [hb] at h) (by rintro o hb; simp [hb] at h)]
  rw [show @State.regWrite = _ from by delta State.regWrite; exact rfl]
  generalize s.regStore a p v m = stored
  generalize blockOf a = q at *
  rcases q with ⟨b, o⟩
  cases b with
  | station n =>
    obtain ⟨h1, h2, h3, h4, h5⟩ : o ≠ 0x108 ∧ o ≠ 0x180 ∧ o ≠ 0x200 ∧ o ≠ 0x208 ∧ o ≠ 0xF20 := by simpa using h
    simp only [h1, h2, h3, h4, h5, if_false]
  | port q =>
    obtain ⟨h1, h2, h3, h4, h5, h6⟩ : o ≠ 0x180 ∧ o ≠ 0x200 ∧ o ≠ 0x208 ∧ o ≠ 0x400 ∧ o ≠ 0x500 ∧ o ≠ 0x508 := by
      simpa using h
    simp only [h1, h2, h3, h4, h5, h6, if_false]
  | control =>
    have h' : ¬ (0x100 ≤ o ∧ o < 0x200) := by
      simp only [Bool.or_eq_true, decide_eq_true_eq] at h
      omega
    simp only [h', if_false]
  | tile t => rfl
  | router x y =>
    obtain ⟨h1, h2⟩ : o ≠ 0x180 ∧ o ≠ 0x1C0 := by simpa using h
    simp only [h1, h2, if_false]
  | groups i => simp at h
  | none => simp at h

/-- Where a station's registers lie (R68). -/
theorem blockOf_stationReg {n o : Nat} (hn : n < 64) (ho : o < 0x10000) :
    blockOf (stationReg n o) = (.station n, o) := by
  have e : stationReg n o - regBase = n * 0x10000 + o := by
    unfold stationReg
    omega
  unfold blockOf
  rw [e, if_pos (by omega), show (n * 0x10000 + o) / 0x10000 = n from by omega,
    show (n * 0x10000 + o) % 0x10000 = o from by omega]

/-- Where the module's control registers lie (R336). -/
theorem blockOf_controlReg {o : Nat} (ho : o < 0x10000) : blockOf (controlReg o) = (.control, o) := by
  have e : controlReg o - regBase = 0x800000 + o := by
    unfold controlReg
    omega
  unfold blockOf
  rw [e, if_neg (by omega), if_neg (by omega), if_pos (by omega), show (0x800000 + o) % 0x10000 = o from by omega]

/-- Where ROW_PWR of a row lies (R336). -/
theorem blockOf_rowPwr {row : Nat} (h : row < 32) : blockOf (controlReg (0x100 + 8 * row)) = (.control, 0x100 + 8 * row) :=
  blockOf_controlReg (by omega)

/-- A write to a station's KILL register starts the sweep there (R363). -/
theorem State.regWrite_stationKill {n : Nat} (hn : n < 64) (p : Nat) (v m : W64) (pid : BitVec 16) (free : Bool) :
    s.regWrite (stationReg n 0x180) p v m pid free = s.post (.killWrite (.station n) ((v &&& m).setWidth 16)) := by
  rw [show @State.regWrite = _ from by delta State.regWrite; exact rfl, blockOf_stationReg hn (by decide)]
  rfl

/-- A write to a station's graph-stop register stops the graph of that slot (R181). -/
theorem State.regWrite_stationStop {n : Nat} (hn : n < 64) (p : Nat) (v m : W64) (pid : BitVec 16) (free : Bool) :
    s.regWrite (stationReg n 0x208) p v m pid free =
      s.post (.collStop (.station n) ((v &&& m).extractLsb' 0 4).toNat) := by
  rw [show @State.regWrite = _ from by delta State.regWrite; exact rfl, blockOf_stationReg hn (by decide)]
  rfl

/-- Registers lie at multiples of 8 bytes. -/
theorem stationReg_aligned (n : Nat) {o : Nat} (ho : o % 8 = 0) : stationReg n o / 8 * 8 = stationReg n o := by
  unfold stationReg regBase
  omega

/-! ### Local stores -/

/-- A cleared range reads zero, and the rest of memory as before (R83). -/
theorem State.byte_lsClear (T off n a : Nat) :
    (s.lsClear T off n).byte a = if lsAddr T off ≤ a ∧ a < lsAddr T off + n then 0 else s.byte a := by
  have h := Table.get_filter_key Memory.unlisted (fun k => !(lsAddr T off ≤ k && k < lsAddr T off + n)) s.mem a
  refine Eq.trans (b := Table.get Memory.unlisted
    (s.mem.filter fun c => !(lsAddr T off ≤ c.1 && c.1 < lsAddr T off + n)) a) rfl (h.trans ?_)
  by_cases hc : lsAddr T off ≤ a ∧ a < lsAddr T off + n
  · simp [hc, Memory.unlisted]
  · rw [if_neg hc, if_pos]
    · rfl
    · simp only [Bool.not_eq_true', Bool.and_eq_false_iff, decide_eq_false_iff_not]
      omega

/-- The local stores of some tiles of a row are cleared: theirs read zero, the others of the row as before. -/
theorem State.byte_foldl_lsClear (row : Nat) (l : List Nat) (c : Nat) {o : Nat} (ho : o < 0xC00000) :
    (l.foldl (fun s c => s.lsClear (row * 64 + c) 0 0xC00000) s).byte (lsAddr (row * 64 + c) o) =
      if c ∈ l then 0 else s.byte (lsAddr (row * 64 + c) o) := by
  induction l generalizing s with
  | nil => rfl
  | cons x l ih =>
    rw [List.foldl_cons, ih, State.byte_lsClear]
    by_cases hx : c = x
    · subst hx
      simp [lsAddr, ho]
    · have hout : ¬ (lsAddr (row * 64 + x) 0 ≤ lsAddr (row * 64 + c) o ∧
          lsAddr (row * 64 + c) o < lsAddr (row * 64 + x) 0 + 0xC00000) := by
        unfold lsAddr
        omega
      simp [hout, hx]

theorem State.reg_foldl_lsClear (row : Nat) (l : List Nat) (a : Nat) :
    (l.foldl (fun s c => s.lsClear (row * 64 + c) 0 0xC00000) s).reg a = s.reg a := by
  rw [State.reg, State.reg, State.regRaw, State.regRaw]
  rw [foldl_keeps State.regs _ fun s c => s.lsClear_regs (row * 64 + c) 0 0xC00000]

/-! ### Steps held at stations are tried again -/

/-- One station's held steps are tried again. -/
def State.wakeStation (s : State) (n : Nat) : State :=
  { s.modStation n fun t => { t with waiting := [] } with flight := s.flight ++ (s.station n).waiting }

/-- One service tile's held request is tried again. -/
def State.wakeService (s : State) (k : Nat) : State :=
  if (s.service k).stalled then s.modService k fun v => { v with stalled := false } else s

theorem State.wake_eq_foldl :
    s.wake = [0, 1, 2, 3].foldl State.wakeService ((Table.keys s.stations).foldl State.wakeStation s) := rfl

/-- Nothing but stations, service tiles and what is under way is touched, and nothing under way is dropped. -/
def State.onlyWoken (s t : State) : Prop :=
  ∃ st sv w, t = { s with stations := st, services := sv, flight := s.flight ++ w }

theorem State.onlyWoken_rfl : s.onlyWoken s := ⟨s.stations, s.services, [], by simp⟩

theorem State.onlyWoken_trans (t u : State) (h : s.onlyWoken t) (k : t.onlyWoken u) : s.onlyWoken u := by
  obtain ⟨st, sv, w, rfl⟩ := h
  obtain ⟨st', sv', w', rfl⟩ := k
  exact ⟨st', sv', w ++ w', by simp⟩

theorem State.onlyWoken_wakeStation (n : Nat) : s.onlyWoken (s.wakeStation n) :=
  ⟨_, s.services, _, rfl⟩

theorem State.onlyWoken_wakeService (k : Nat) : s.onlyWoken (s.wakeService k) := by
  unfold State.wakeService
  split
  · exact ⟨s.stations, _, [], by rw [List.append_nil]; rfl⟩
  · exact s.onlyWoken_rfl

theorem State.onlyWoken_wake : s.onlyWoken s.wake := by
  rw [State.wake_eq_foldl]
  exact State.onlyWoken_trans _ _ _
    (foldl_rel _ State.onlyWoken_rfl State.onlyWoken_trans _ State.onlyWoken_wakeStation _ _)
    (foldl_rel _ State.onlyWoken_rfl State.onlyWoken_trans _ State.onlyWoken_wakeService _ _)

@[simp] theorem State.wake_mem : s.wake.mem = s.mem := by obtain ⟨_, _, _, h⟩ := s.onlyWoken_wake; rw [h]
@[simp] theorem State.wake_lines : s.wake.lines = s.lines := by obtain ⟨_, _, _, h⟩ := s.onlyWoken_wake; rw [h]
@[simp] theorem State.wake_move : s.wake.move = s.move := by obtain ⟨_, _, _, h⟩ := s.onlyWoken_wake; rw [h]
@[simp] theorem State.wake_buckets : s.wake.buckets = s.buckets := by obtain ⟨_, _, _, h⟩ := s.onlyWoken_wake; rw [h]

theorem State.sameMemory_wake : s.sameMemory s.wake := by
  obtain ⟨_, _, _, h⟩ := s.onlyWoken_wake
  rw [h]
  exact ⟨fun _ => rfl, rfl, rfl, rfl⟩

theorem State.station_wakeStation (n k : Nat) :
    (s.wakeStation n).station k = if k = n then { s.station n with waiting := [] } else s.station k :=
  s.station_modStation n k fun t => { t with waiting := [] }

theorem State.stations_wakeService (k : Nat) : (s.wakeService k).stations = s.stations := by
  unfold State.wakeService
  split <;> rfl

theorem State.flight_wakeService (k : Nat) : (s.wakeService k).flight = s.flight := by
  unfold State.wakeService
  split <;> rfl

theorem State.stations_wake :
    s.wake.stations = ((Table.keys s.stations).foldl State.wakeStation s).stations := by
  rw [State.wake_eq_foldl]
  exact foldl_keeps State.stations _ State.stations_wakeService _ _

theorem State.flight_wake : s.wake.flight = ((Table.keys s.stations).foldl State.wakeStation s).flight := by
  rw [State.wake_eq_foldl]
  exact foldl_keeps State.flight _ State.flight_wakeService _ _

/-- A station's record is the same after a wake, but for the held steps. -/
theorem State.station_wake (n : Nat) : ∃ w, s.wake.station n = { s.station n with waiting := w } := by
  unfold State.station
  rw [State.stations_wake]
  refine foldl_rel (fun s t => ∃ w, t.station n = { s.station n with waiting := w }) (fun s => ⟨_, rfl⟩) ?_ _ ?_ _ s
  · rintro s t u ⟨w, h⟩ ⟨w', h'⟩
    exact ⟨w', by rw [h', h]⟩
  · intro s k
    rw [State.station_wakeStation]
    split
    next h => exact ⟨[], by rw [h]⟩
    next => exact ⟨_, rfl⟩

/-- A step held at one of the stations tried is under way. -/
theorem State.mem_flight_foldl_wakeStation {e : Event} {n : Nat} (l : List Nat)
    (h : e ∈ s.flight ∨ n ∈ l ∧ e ∈ (s.station n).waiting) : e ∈ (l.foldl State.wakeStation s).flight := by
  induction l generalizing s with
  | nil => simpa using h
  | cons k l ih =>
    apply ih
    rcases h with h | ⟨hn, hw⟩
    · exact .inl (List.mem_append_left _ h)
    · by_cases hk : n = k
      · subst hk
        exact .inl (List.mem_append_right _ hw)
      · refine .inr ⟨(List.mem_cons.1 hn).resolve_left hk, ?_⟩
        rwa [State.station_wakeStation, if_neg hk]

/-- Every step held at a station is under way after a wake (R82, R104, R375). -/
theorem State.mem_flight_wake {e : Event} {n : Nat} (h : e ∈ (s.station n).waiting) : e ∈ s.wake.flight := by
  rw [State.flight_wake]
  refine State.mem_flight_foldl_wakeStation s _ (.inr ⟨?_, h⟩)
  apply Table.mem_keys_of_get_ne Station.reset
  intro hr
  rw [State.station, hr] at h
  simp [Station.reset] at h

end Sys2Proof.Machine

end
/-! ## Invalidations, register writes and row power -/

section

namespace Sys2Proof.Machine

open Bits

variable (s : State)

/-! ### Invalidations of translations (R75, R76) -/

theorem xlatInval_mask (v : W64) :
    v &&& (ones 62 1 ||| ones 16 39 ||| ones 0 16) = v &&& 0x407FFFFFFFFFFFFF#64 :=
  congrArg (v &&& ·) (by decide)

theorem State.foldl_post (f : Nat → Event) (l : List Nat) :
    l.foldl (fun s n => s.post (f n)) s = { s with flight := s.flight ++ l.map f } := by
  induction l generalizing s with
  | nil => simp
  | cons x l ih =>
    rw [List.foldl_cons, ih]
    simp [State.post]

/-- An invalidation that starts is on its way to every station. -/
theorem State.startInval_eq (v : W64) :
    s.startInval v = { s with inval := some (v, List.range 64)
                              flight := s.flight ++ (List.range 64).map fun n => .xlatInvalMessage n v } :=
  State.foldl_post _ _ _

theorem State.writeInval_busy (n : Nat) (v : W64) (h : s.inval.isSome = true) :
    completes (.xlatInvalWrite n v) s fun t => t.invalQ = s.invalQ ++ [(n, v &&& 0x407FFFFFFFFFFFFF#64)] ∧
      t.inval = s.inval ∧ t.flight = s.flight := by
  refine ⟨_, rfl, ?_⟩
  rw [State.writeInval, xlatInval_mask]
  simp [State.setReg, h]

theorem State.writeInval_free (n : Nat) (v : W64) (h : s.inval = none) :
    completes (.xlatInvalWrite n v) s fun t => t.inval = some (v &&& 0x407FFFFFFFFFFFFF#64, List.range 64) ∧
      ∀ k < 64, .xlatInvalMessage k (v &&& 0x407FFFFFFFFFFFFF#64) ∈ t.flight := by
  refine ⟨_, rfl, ?_⟩
  rw [State.writeInval, xlatInval_mask]
  simp +contextual [State.setReg, h, State.startInval_eq]

/-- The translations that an invalidation names, by PID and by page or all (R75). -/
theorem Xlat.hit_iff (x : Xlat) (v : W64) :
    x.hit v = true ↔ x.pid = (v.extractLsb' 0 16).toNat ∧ (v.getLsbD 62 = true ∨
      x.vpn = if x.big = true then (v.extractLsb' 16 39).toNat / 2 ^ 13 else (v.extractLsb' 16 39).toNat) := by
  have hb : fld v 16 39 * 2 ^ 16 / 2 ^ 29 = (v.extractLsb' 16 39).toNat / 2 ^ 13 := by
    unfold fld
    omega
  rw [show @Xlat.hit = _ from by delta Xlat.hit; exact rfl, hb]
  simp only [Bool.and_eq_true, Bool.or_eq_true, beq_iff_eq]
  rfl

/-- A station has dropped the translations that an invalidation names (R76). -/
def State.dropXlat (s : State) (n : Nat) (v : W64) : State :=
  s.modStation n fun t => { t with xlat := t.xlat.filter fun x => !x.hit v, era := t.era + 1 }

theorem State.dropXlat_inval (n : Nat) (v : W64) : (s.dropXlat n v).inval = s.inval := rfl

theorem State.mem_xlat_dropXlat (n : Nat) (v : W64) (x : Xlat) :
    x ∈ ((s.dropXlat n v).station n).xlat ↔ x ∈ (s.station n).xlat ∧ ¬ x.hit v = true := by
  simp [State.dropXlat]

/-- A message of an invalidation that is not the one under way. -/
theorem State.invalMessage_other (n : Nat) (v : W64) (h : ∀ l, s.inval ≠ some (v, l)) :
    exec (.xlatInvalMessage n v) s = .next (s.dropXlat n v) := by
  rw [exec_xlatInvalMessage, execXlatInvalMessage, ← State.dropXlat]
  rcases hi : s.inval with _ | ⟨w, l⟩
  · simp only [State.dropXlat_inval, hi]
  · have hw : w ≠ v := fun e => h l (by rw [hi, e])
    simp only [State.dropXlat_inval, hi, hw, if_false]

/-- A message of the invalidation under way: its station is off the list, and the last one ends it. -/
theorem State.invalMessage_own (n : Nat) (v : W64) {l : List Nat} (h : s.inval = some (v, l)) :
    let t : State := { s.dropXlat n v with inval := some (v, l.filter fun k => k != n) }
    exec (.xlatInvalMessage n v) s = .next (if (l.filter fun k => k != n).isEmpty then t.post .xlatInvalDone else t) := by
  rw [exec_xlatInvalMessage, execXlatInvalMessage, ← State.dropXlat]
  simp only [State.dropXlat_inval, h, if_true]

/-- A station drops the translations that an invalidation names, and the last one to do so ends it (R76). -/
theorem State.invalMessage_spec (n : Nat) (v : W64) (l : List Nat) :
    completes (.xlatInvalMessage n v) s fun t =>
      (∀ x, x ∈ (t.station n).xlat ↔ x ∈ (s.station n).xlat ∧ ¬ (x.pid = (v.extractLsb' 0 16).toNat ∧
        (v.getLsbD 62 = true ∨
          x.vpn = if x.big = true then (v.extractLsb' 16 39).toNat / 2 ^ 13 else (v.extractLsb' 16 39).toNat))) ∧
      (s.inval = some (v, l) → t.inval = some (v, l.filter fun k => k != n) ∧
        ((∀ k ∈ l, k = n) → .xlatInvalDone ∈ t.flight)) := by
  simp only [← Xlat.hit_iff]
  by_cases h : ∃ l', s.inval = some (v, l')
  · obtain ⟨l', h⟩ := h
    refine ⟨_, s.invalMessage_own n v h, ?_, fun hl => ?_⟩
    · split <;> exact s.mem_xlat_dropXlat n v
    · obtain rfl : l' = l := by simpa [h] using hl
      split
      next => exact ⟨rfl, fun _ => List.mem_append_right _ (List.mem_singleton.2 rfl)⟩
      next he =>
        refine ⟨rfl, fun hall => absurd ?_ he⟩
        rw [List.isEmpty_iff, List.filter_eq_nil_iff]
        simpa using hall
  · exact ⟨_, s.invalMessage_other n v (fun l' e => h ⟨l', e⟩), s.mem_xlat_dropXlat n v, fun e => absurd ⟨l, e⟩ h⟩

theorem State.invalDone_waits {w : W64} (h : s.inval = some (w, [])) (ht : s.hasTranslated w = true) :
    exec .xlatInvalDone s = .next (s.after 1 .xlatInvalDone) := by
  simp [execXlatInvalDone, h, ht]

theorem State.invalDone_ends {w : W64} (h : s.inval = some (w, [])) (ht : s.hasTranslated w = false)
    (hq : s.invalQ = []) : exec .xlatInvalDone s = .next { s with inval := none } := by
  simp [execXlatInvalDone, h, ht, hq]

theorem State.invalDone_next {w : W64} (h : s.inval = some (w, [])) (ht : s.hasTranslated w = false)
    {x : Nat × W64} {rest : List (Nat × W64)} (hq : s.invalQ = x :: rest) :
    completes .xlatInvalDone s fun t => t.inval = some (x.2, List.range 64) ∧ t.invalQ = rest := by
  refine ⟨({ s with inval := none, invalQ := rest } : State).startInval x.2, ?_, ?_⟩
  · simp [execXlatInvalDone, h, ht, hq]
  · simp [State.startInval_eq]

/-! ### Writes and reads by firmware (R3) -/

/-- A register without effects of its own takes the bits that the service may write and clears those written as 1. -/
theorem registerWrite_plain (a : Nat) (v : W64) (h : plainReg (a / 8 * 8) = true) :
    completes (.registerWrite a v) s fun t =>
      (∀ k < 64, (t.reg (a / 8 * 8)).getLsbD k = (!(v.getLsbD k && (regInfo (a / 8 * 8)).w1c.getLsbD k) &&
        if (regInfo (a / 8 * 8)).sv.getLsbD k = true then v.getLsbD k else (s.reg (a / 8 * 8)).getLsbD k)) ∧
      s.otherRegs t (a / 8 * 8) := by
  refine ⟨s.setReg (a / 8 * 8) (regMerge (regInfo (a / 8 * 8)) 2 (s.reg (a / 8 * 8)) v (BitVec.allOnes 64)), ?_,
    fun k hk => ?_, s.otherRegs_setReg _ _⟩
  · rw [exec_registerWrite, execRegisterWrite, s.regWrite_plain h]
  rw [State.reg_setReg_self]
  exact getLsbD_regMerge_service _ _ _ hk

theorem registerWrite_stationKill {k : Nat} (hk : k < 64) (v : W64) :
    exec (.registerWrite (stationReg k 0x180) v) s = .next (s.post (.killWrite (.station k) (v.setWidth 16))) := by
  rw [exec_registerWrite, execRegisterWrite, stationReg_aligned k rfl, s.regWrite_stationKill hk, BitVec.and_allOnes]

theorem registerWrite_stationStop {k : Nat} (hk : k < 64) (v : W64) :
    exec (.registerWrite (stationReg k 0x208) v) s =
      .next (s.post (.collStop (.station k) (v.extractLsb' 0 4).toNat)) := by
  rw [exec_registerWrite, execRegisterWrite, stationReg_aligned k rfl, s.regWrite_stationStop hk, BitVec.and_allOnes]

/-! ### Row power (R336) -/

theorem regMerge_rowPwr {row : Nat} (h : row < 32) (old v : W64) :
    regMerge (regInfo (controlReg (0x100 + 8 * row))) 2 old v (BitVec.allOnes 64) = (old &&& ~~~1#64) ||| (v &&& 1#64) := by
  have hi : regInfo (controlReg (0x100 + 8 * row)) = .svc (ones 63 1 ||| 1) 1 := by
    rw [show @regInfo = _ from by delta regInfo; exact rfl, blockOf_rowPwr h]
    show controlInfo _ = _
    rw [controlInfo, if_pos (by omega)]
  have h0 : ~~~(v &&& 0#64) = BitVec.allOnes 64 := by simp
  simp only [hi, regMerge, RegInfo.svc, BitVec.and_allOnes, ge_iff_le, le_refl, if_true]
  exact (congrArg _ h0).trans BitVec.and_allOnes

/-- ON goes to 0 only while no region covers the row (R336). -/
theorem State.writeRowPwr_eq {row : Nat} (h : row < 32) (v : W64) :
    s.writeRowPwr row 2 v (BitVec.allOnes 64) =
      if v.getLsbD 0 = false ∧ s.rowCovered row = true then s
      else (s.setReg (controlReg (0x100 + 8 * row))
        ((s.reg (controlReg (0x100 + 8 * row)) &&& ~~~1#64) ||| (v &&& 1#64))).afterTicks 20000 (.rowPowerSettled row) := by
  have hb := blockOf_rowPwr h
  rw [State.writeRowPwr, State.regStore_eq s (by simp [hb]) (by simp [hb]), regMerge_rowPwr h]
  simp [bit]

theorem rowPwrWrite_taken {row : Nat} (hrow : row < 32) {v : W64}
    (h : v.getLsbD 0 = true ∨ s.rowCovered row = false) :
    exec (.rowPwrWrite row v) s = .next ((s.setReg (controlReg (0x100 + 8 * row))
      ((s.reg (controlReg (0x100 + 8 * row)) &&& ~~~1#64) ||| (v &&& 1#64))).afterTicks 20000 (.rowPowerSettled row)) := by
  rw [exec_rowPwrWrite, execRowPwrWrite, s.writeRowPwr_eq hrow, if_neg]
  rintro ⟨hoff, hcov⟩
  rw [hoff, hcov] at h
  simp at h

theorem rowPwrWrite_refused {row : Nat} (hrow : row < 32) {v : W64} (hoff : v.getLsbD 0 = false)
    (hcov : s.rowCovered row = true) : exec (.rowPwrWrite row v) s = .next s := by
  rw [exec_rowPwrWrite, execRowPwrWrite, s.writeRowPwr_eq hrow, if_pos ⟨hoff, hcov⟩]

/-- The bits of a word after a field of it is replaced. -/
theorem getLsbD_put {n : Nat} (w : BitVec n) (lo len v : Nat) {k : Nat} (hk : k < n) :
    (put w lo len v).getLsbD k = if lo ≤ k ∧ k < lo + len then v.testBit (k - lo) else w.getLsbD k := by
  have h1 : (BitVec.ofNat n ((2 ^ len - 1) <<< lo)).getLsbD k = decide (lo ≤ k ∧ k < lo + len) := by
    rw [BitVec.getLsbD_ofNat, Nat.testBit_shiftLeft, Nat.testBit_two_pow_sub_one]
    by_cases h : lo ≤ k <;> simp [h, hk]
    omega
  have h2 : (BitVec.ofNat n ((v % 2 ^ len) <<< lo)).getLsbD k =
      (decide (lo ≤ k ∧ k < lo + len) && v.testBit (k - lo)) := by
    rw [BitVec.getLsbD_ofNat, Nat.testBit_shiftLeft, Nat.testBit_mod_two_pow]
    by_cases h : lo ≤ k <;> simp [h, hk]
    congr 2
    rw [eq_iff_iff]
    omega
  rw [put, BitVec.getLsbD_or, BitVec.getLsbD_and, BitVec.getLsbD_not, h1, h2]
  by_cases h : lo ≤ k ∧ k < lo + len <;> simp [h, hk]

theorem testBit_fld_zero (w : W64) : (fld w 0 1).testBit 0 = w.getLsbD 0 := by
  rw [fld, ← BitVec.getLsbD, BitVec.getLsbD_extractLsb']
  simp

/-- STATE follows ON, and a row powered again has its local stores cleared (R83, R336). -/
theorem rowPowerSettled_spec (row : Nat) :
    let r := controlReg (0x100 + 8 * row)
    completes (.rowPowerSettled row) s fun t => (t.reg r).getLsbD 63 = (s.reg r).getLsbD 0 ∧
        (∀ k < 63, (t.reg r).getLsbD k = (s.reg r).getLsbD k) ∧
        ∀ c < 64, ∀ o < 0xC00000, t.byte (lsAddr (row * 64 + c) o) =
          if (s.reg r).getLsbD 0 = true ∧ (s.reg r).getLsbD 63 = false then 0 else s.byte (lsAddr (row * 64 + c) o) := by
  intro r
  let s1 := s.setReg r (put (s.reg r) 63 1 (fld (s.reg r) 0 1))
  have hreg : ∀ k < 64, (s1.reg r).getLsbD k = if k = 63 then (s.reg r).getLsbD 0 else (s.reg r).getLsbD k := by
    intro k hk
    rw [State.reg_setReg_self, getLsbD_put _ _ _ _ hk]
    by_cases h : k = 63
    · subst h
      exact testBit_fld_zero _
    · rw [if_neg (by omega), if_neg h]
  by_cases hp : (s.reg r).getLsbD 0 = true ∧ (s.reg r).getLsbD 63 = false
  · let t := (List.range 64).foldl (fun s c => s.lsClear (row * 64 + c) 0 0xC00000) s1
    have ht : t.reg r = s1.reg r := s1.reg_foldl_lsClear row _ r
    refine ⟨t, ?_, ?_, fun k hk => ?_, fun c hc o ho => ?_⟩
    · show Host.Outcome.next (if (bit (s.reg r) 0 && !bit (s.reg r) 63) = true then t else s1) = _
      rw [if_pos (by simpa [bit] using hp)]
    · rw [ht, hreg 63 (by omega), if_pos rfl]
    · rw [ht, hreg k (by omega), if_neg (by omega)]
    · rw [if_pos hp, State.byte_foldl_lsClear s1 row _ c ho, if_pos (List.mem_range.2 hc)]
  · refine ⟨s1, ?_, ?_, fun k hk => ?_, fun c hc o ho => ?_⟩
    · show Host.Outcome.next (if (bit (s.reg r) 0 && !bit (s.reg r) 63) = true then _ else s1) = _
      rw [if_neg (by simpa [bit] using hp)]
    · rw [hreg 63 (by omega), if_pos rfl]
    · rw [hreg k (by omega), if_neg (by omega)]
    · rw [if_neg hp]
      rfl

end Sys2Proof.Machine

end
/-! ## Remap entries (R14 to R17) -/

section

namespace Sys2Proof.Machine

open Bits

variable (s : State)

theorem State.physX_setRemap (row col x : Nat) : (s.setRemap row col x).physX row col = x :=
  Table.get_set_self _ _ _ _

theorem State.physX_setRemap_ne {row col r c : Nat} (x : Nat) (hcol : col < 64) (hc : c < 64)
    (h : (r, c) ≠ (row, col)) : (s.setRemap row col x).physX r c = s.physX r c := by
  refine Table.get_set_ne_default _ _ _ _ fun e => h ?_
  rw [Prod.mk.injEq]
  omega

theorem State.moveReds_remap (old new : Nat) : (s.moveReds old new).remap = s.remap := by
  unfold State.moveReds
  refine (foldl_keeps State.remap _ ?_ _ _).trans rfl
  exact fun _ _ => rfl

/-- A substitution changes one remap entry and no other. -/
theorem State.substitute_remap (row col x : Nat) : (s.substitute row col x).remap = (s.setRemap row col x).remap := by
  simp only [State.substitute, State.setTile_remap, State.lsClear_remap, State.moveDrops, State.moveReds_remap]

theorem State.physX_substitute (row col x r c : Nat) :
    (s.substitute row col x).physX r c = (s.setRemap row col x).physX r c := by
  rw [State.physX, State.physX, State.substitute_remap]

/-- The spare starts with an empty local store (R16). -/
theorem State.byte_substitute (row col x : Nat) {o : Nat} (ho : o < 0xC00000) :
    (s.substitute row col x).byte (lsAddr (row * 64 + col) o) = 0 := by
  refine (State.byte_lsClear _ (row * 64 + col) 0 0x1000000 _).trans (if_pos ?_)
  unfold lsAddr
  omega

/-- An entry may be written while no region on the tile has started, or all are held (R16). -/
theorem State.mayRemap_iff (rs : List Nat) :
    s.mayRemap rs = true ↔ (∀ r ∈ rs, s.regionIdle r = true) ∨ ∀ r ∈ rs, s.regionHeld r = true := by
  simp [State.mayRemap]

/-- An entry out of range, a column already named, or a region that runs: nothing is written (R15, R16). -/
theorem remapEntryWrite_refused {row col px : Nat}
    (h : 31 < row ∨ 63 < col ∨ 65 < px ∨ (s.logical px row).isSome = true ∨
      ((∃ r ∈ s.regionsAt (row * 64 + col), s.regionHeld r = false) ∧
        ∃ r ∈ s.regionsAt (row * 64 + col), s.regionIdle r = false)) :
    exec (.remapEntryWrite row col px) s = .next s := by
  rw [exec_remapEntryWrite, execRemapEntryWrite]
  split
  next => rfl
  next hn =>
    simp only [not_or] at hn
    obtain ⟨h1, h2, h3, -, h5⟩ := hn
    simp only [h1, h2, h3, h5, Bool.false_eq_true, false_or] at h
    obtain ⟨⟨r, hr, hheld⟩, q, hq, hidle⟩ := h
    have hm : ¬ s.mayRemap (s.regionsAt (row * 64 + col)) = true := by
      rw [State.mayRemap_iff]
      rintro (hall | hall)
      · simp [hall q hq] at hidle
      · simp [hall r hr] at hheld
    simp [hm]

/-- One entry changes, and the spare starts with an empty local store (R14, R16). -/
theorem remapEntryWrite_written {row col px : Nat} (hrow : row < 32) (hcol : col < 64) (hpx : px < 66)
    (hne : s.physX row col ≠ px) (hfree : s.logical px row = none)
    (hmay : (∀ r ∈ s.regionsAt (row * 64 + col), s.regionHeld r = true) ∨
      ∀ r ∈ s.regionsAt (row * 64 + col), s.regionIdle r = true) :
    completes (.remapEntryWrite row col px) s fun t => t.physX row col = px ∧
      (∀ r c, c < 64 → (r, c) ≠ (row, col) → t.physX r c = s.physX r c) ∧
        ∀ o < 0xC00000, t.byte (lsAddr (row * 64 + col) o) = 0 := by
  refine ⟨s.substitute row col px, ?_, ?_, fun r c hc h => ?_, fun o ho => s.byte_substitute row col px ho⟩
  · have hm : s.mayRemap (s.regionsAt (row * 64 + col)) = true := (s.mayRemap_iff _).2 hmay.symm
    rw [exec_remapEntryWrite, execRemapEntryWrite, if_neg, hm]
    · rfl
    · simp only [hfree, hne, Option.isSome_none, Bool.false_eq_true, or_false]
      omega
  · rw [State.physX_substitute, State.physX_setRemap]
  · rw [State.physX_substitute, s.physX_setRemap_ne px hcol hc h]

end Sys2Proof.Machine

end

/-! ## The moves of buckets (R82, R384, R437) -/

section

namespace Sys2Proof.Machine

open Bits

variable (s : State)

/-! ### Choosing a move -/

/-- `bestBy` with "greater" is the list's first entry of largest score, and with "less" its first of smallest. -/
theorem bestBy_gt (l : List (Nat × Nat)) : bestBy (fun a b => b < a) l = l.argmax (·.2) := by
  unfold bestBy List.argmax
  congr 1
  funext b x
  cases b <;> simp [List.argAux]

theorem bestBy_lt (l : List (Nat × Nat)) : bestBy (fun a b => a < b) l = l.argmin (·.2) := by
  unfold bestBy List.argmin
  congr 1
  funext b x
  cases b <;> simp [List.argAux]

/-- A slice's load as the epoch counts it (R82). -/
theorem State.foldl_sliceLoad (first count n : Nat) :
    ((List.range count).map (first + ·)).foldl
      (fun a b => if s.bucketStation b = n then a + Table.get 0 s.bcount b else a) 0 = s.sliceLoad first count n := by
  induction count with
  | zero => rfl
  | succ c ih =>
    rw [List.range_succ, List.map_append, List.foldl_append, ih, State.sliceLoad, State.sliceLoad, Finset.sum_range_succ]
    simp only [List.map_cons, List.map_nil, List.foldl_cons, List.foldl_nil]
    split <;> rfl

/-- A slice with a load serves a bucket of the range. -/
theorem State.exists_bucket_of_sliceLoad {first count n : Nat} (h : 0 < s.sliceLoad first count n) :
    ∃ i < count, s.bucketStation (first + i) = n := by
  obtain ⟨i, hi, hne⟩ := Finset.exists_ne_zero_of_sum_ne_zero (Nat.ne_of_gt h)
  exact ⟨i, Finset.mem_range.1 hi, by_contra fun e => hne (if_neg e)⟩

/-- The slices with their loads. -/
def State.sliceLoads (s : State) (first count : Nat) : List (Nat × Nat) :=
  (List.range 64).map fun n => (n, s.sliceLoad first count n)

theorem State.mem_sliceLoads (first count : Nat) (x : Nat × Nat) :
    x ∈ s.sliceLoads first count ↔ x.1 < 64 ∧ x.2 = s.sliceLoad first count x.1 := by
  obtain ⟨n, v⟩ := x
  simp only [State.sliceLoads, List.mem_map, List.mem_range, Prod.mk.injEq]
  constructor
  · rintro ⟨k, hk, rfl, rfl⟩
    exact ⟨hk, rfl⟩
  · rintro ⟨hn, rfl⟩
    exact ⟨n, hn, rfl, rfl⟩

/-- The buckets of a range that a slice serves, with their counts. -/
def State.bucketsOf (s : State) (first count n : Nat) : List (Nat × Nat) :=
  (((List.range count).map (first + ·)).filter fun b => s.bucketStation b == n).map fun b => (b, Table.get 0 s.bcount b)

theorem State.mem_bucketsOf (first count n : Nat) (x : Nat × Nat) :
    x ∈ s.bucketsOf first count n ↔
      (first ≤ x.1 ∧ x.1 < first + count) ∧ s.bucketStation x.1 = n ∧ x.2 = Table.get 0 s.bcount x.1 := by
  obtain ⟨b, v⟩ := x
  simp only [State.bucketsOf, List.mem_map, List.mem_filter, List.mem_range, beq_iff_eq, Prod.mk.injEq]
  constructor
  · rintro ⟨_, ⟨⟨i, hi, rfl⟩, hst⟩, rfl, rfl⟩
    exact ⟨⟨by omega, by omega⟩, hst, rfl⟩
  · rintro ⟨⟨hlo, hhi⟩, hst, rfl⟩
    exact ⟨b, ⟨⟨b - first, by omega, by omega⟩, hst⟩, rfl, rfl⟩

/-- What an epoch picks, from the slices of largest and smallest load (R82, R437). -/
theorem State.pickMove_eq (r : Nat × Nat) : ∃ hi lo, (s.sliceLoads r.1 r.2).argmax (·.2) = some hi ∧
    (s.sliceLoads r.1 r.2).argmin (·.2) = some lo ∧
    s.pickMove r = if 2 * lo.2 < hi.2 then ((s.bucketsOf r.1 r.2 hi.1).argmax (·.2)).map fun b => (b.1, hi.1, lo.1)
      else none := by
  have hne : s.sliceLoads r.1 r.2 ≠ [] := by simp [State.sliceLoads]
  obtain ⟨hi, hhi⟩ := Option.ne_none_iff_exists'.1 (mt (List.argmax_eq_none (f := fun x : Nat × Nat => x.2)).1 hne)
  obtain ⟨lo, hlo⟩ := Option.ne_none_iff_exists'.1 (mt (List.argmin_eq_none (f := fun x : Nat × Nat => x.2)).1 hne)
  refine ⟨hi, lo, hhi, hlo, ?_⟩
  rw [show @State.pickMove = _ from by delta State.pickMove; exact rfl]
  simp only [State.foldl_sliceLoad, bestBy_gt, bestBy_lt]
  rw [← State.sliceLoads, hhi, hlo]
  dsimp only
  rw [← State.bucketsOf]
  rcases List.argmax (fun x : Nat × Nat => x.2) (s.bucketsOf r.1 r.2 hi.1) with _ | b <;> rfl

/-- A move picked is of a bucket with the most requests in a slice with the most, to one with the fewest (R82, R437). -/
theorem State.pickMove_some {r : Nat × Nat} {b old new : Nat} (h : s.pickMove r = some (b, old, new)) :
    let load := s.sliceLoad r.1 r.2
    (r.1 ≤ b ∧ b < r.1 + r.2) ∧ s.bucketStation b = old ∧ old < 64 ∧ new < 64 ∧ 2 * load new < load old ∧
      (∀ k < 64, load k ≤ load old ∧ load new ≤ load k) ∧
      ∀ x, r.1 ≤ x ∧ x < r.1 + r.2 → s.bucketStation x = old → Table.get 0 s.bcount x ≤ Table.get 0 s.bcount b := by
  obtain ⟨hi, lo, hhi, hlo, hp⟩ := s.pickMove_eq r
  obtain ⟨hi64, hiv⟩ := (s.mem_sliceLoads _ _ _).1 (List.argmax_mem hhi)
  obtain ⟨lo64, lov⟩ := (s.mem_sliceLoads _ _ _).1 (List.argmin_mem hlo)
  rw [h] at hp
  split at hp
  next hlt =>
    obtain ⟨best, hbest, he⟩ := Option.map_eq_some_iff.1 hp.symm
    cases he
    obtain ⟨hr, hst, hv⟩ := (s.mem_bucketsOf _ _ _ _).1 (List.argmax_mem hbest)
    rw [hiv, lov] at hlt
    refine ⟨hr, hst, hi64, lo64, hlt, fun k hk => ⟨?_, ?_⟩, fun x hx hxs => ?_⟩
    · rw [← hiv]
      exact List.le_of_mem_argmax ((s.mem_sliceLoads _ _ (k, _)).2 ⟨hk, rfl⟩) hhi
    · rw [← lov]
      exact List.le_of_mem_argmin ((s.mem_sliceLoads _ _ (k, _)).2 ⟨hk, rfl⟩) hlo
    · rw [← hv]
      exact List.le_of_mem_argmax ((s.mem_bucketsOf _ _ _ (x, _)).2 ⟨hx, hxs, rfl⟩) hbest
  next => cases hp

/-- Where a slice has more than twice the load of another, a move is picked. -/
theorem State.pickMove_ne_none {r : Nat × Nat}
    (h : ∃ i < 64, ∃ j < 64, 2 * s.sliceLoad r.1 r.2 i < s.sliceLoad r.1 r.2 j) : s.pickMove r ≠ none := by
  obtain ⟨i, hi, j, hj, hlt⟩ := h
  obtain ⟨hi', lo, hhi, hlo, hp⟩ := s.pickMove_eq r
  have hmax : s.sliceLoad r.1 r.2 j ≤ hi'.2 := List.le_of_mem_argmax ((s.mem_sliceLoads _ _ (j, _)).2 ⟨hj, rfl⟩) hhi
  have hmin : lo.2 ≤ s.sliceLoad r.1 r.2 i := List.le_of_mem_argmin ((s.mem_sliceLoads _ _ (i, _)).2 ⟨hi, rfl⟩) hlo
  obtain ⟨-, hiv⟩ := (s.mem_sliceLoads _ _ _).1 (List.argmax_mem hhi)
  obtain ⟨k, hk, hst⟩ := s.exists_bucket_of_sliceLoad (first := r.1) (count := r.2) (n := hi'.1) (by omega)
  have hmem := (s.mem_bucketsOf r.1 r.2 hi'.1 (r.1 + k, Table.get 0 s.bcount (r.1 + k))).2 ⟨⟨by omega, by omega⟩, hst, rfl⟩
  rw [hp, if_pos (by omega), ne_eq, Option.map_eq_none_iff, List.argmax_eq_none]
  exact List.ne_nil_of_mem hmem

/-! ### An epoch's end -/

/-- What the end of an epoch does whether or not it starts a move: counts anew, goes on to the next allotment, and is
due again. -/
def State.nextEpoch (s : State) : State :=
  { (if s.timers.any (fun t => t.2 == .rebalanceEpoch) then s else s.after (2 ^ 20) .rebalanceEpoch) with
    epoch := s.epochRange.2, bcount := [] }

theorem State.nextEpoch_move : s.nextEpoch.move = s.move := by
  unfold State.nextEpoch
  split <;> rfl

theorem State.nextEpoch_timers : .rebalanceEpoch ∈ s.nextEpoch.timers.map (·.2) := by
  unfold State.nextEpoch
  split
  next h =>
    obtain ⟨t, ht, he⟩ := List.any_eq_true.1 h
    exact List.mem_map.2 ⟨t, ht, eq_of_beq he⟩
  next => exact List.mem_map.2 ⟨_, List.mem_append_right _ (List.mem_singleton.2 rfl), rfl⟩

theorem rebalanceEpoch_busy (h : s.move.isSome = true) : exec .rebalanceEpoch s = .next s.nextEpoch := by
  simp only [exec_rebalanceEpoch, execRebalanceEpoch, h, if_true]
  rfl

theorem rebalanceEpoch_even (h : s.move = none) (hp : s.pickMove s.epochRange.1 = none) :
    exec .rebalanceEpoch s = .next s.nextEpoch := by
  simp only [exec_rebalanceEpoch, execRebalanceEpoch, h, hp, Option.isSome_none, Bool.false_eq_true, if_false]
  rfl

theorem rebalanceEpoch_picked (h : s.move = none) {b old new : Nat}
    (hp : s.pickMove s.epochRange.1 = some (b, old, new)) :
    exec .rebalanceEpoch s = .next (
      if Table.get 0 s.bmoved b ≠ 0 ∧ s.mcycle < Table.get 0 s.bmoved b + 2 ^ 21 then s.nextEpoch
      else ({ s.nextEpoch with move := some ⟨b, old, new, 0, 0, []⟩ } : State).post .bucketFlushed) := by
  simp only [exec_rebalanceEpoch, execRebalanceEpoch, h, hp, Option.isSome_none, Bool.false_eq_true, if_false]
  rfl

/-- The end of an epoch (R82, R384, R437). -/
theorem rebalanceEpoch_spec :
    let range := s.epochRange.1
    let load := s.sliceLoad range.1 range.2
    let inRange (x : Nat) : Prop := range.1 ≤ x ∧ x < range.1 + range.2
    completes .rebalanceEpoch s fun t => t.bcount = [] ∧ t.epoch = s.epochRange.2 ∧ .rebalanceEpoch ∈ t.timers.map (·.2) ∧
      (s.move.isSome = true → t.move = s.move) ∧
      (s.move = none → (∀ m, t.move = some m → inRange m.bucket ∧ s.bucketStation m.bucket = m.old ∧ m.old < 64 ∧ m.new < 64 ∧
        m.state = 0 ∧ 2 * load m.new < load m.old ∧ (∀ k < 64, load k ≤ load m.old ∧ load m.new ≤ load k) ∧
        (∀ x, inRange x → s.bucketStation x = m.old → Table.get 0 s.bcount x ≤ Table.get 0 s.bcount m.bucket) ∧
        .bucketFlushed ∈ t.flight) ∧
      ((∀ x, Table.get 0 s.bmoved x = 0) → (∃ i < 64, ∃ j < 64, 2 * load i < load j) → t.move ≠ none)) := by
  intro range load inRange
  rcases hm : s.move with _ | m
  case some =>
    refine ⟨_, rebalanceEpoch_busy s (by simp [hm]), rfl, rfl, s.nextEpoch_timers, fun _ => ?_, fun h => by simp at h⟩
    rw [State.nextEpoch_move, hm]
  have hstay : ∀ m, s.nextEpoch.move ≠ some m := by simp [State.nextEpoch_move, hm]
  rcases hp : s.pickMove range with _ | ⟨b, old, new⟩
  case none =>
    exact ⟨_, rebalanceEpoch_even s hm hp, rfl, rfl, s.nextEpoch_timers, fun h => by simp at h,
      fun _ => ⟨fun m h => absurd h (hstay m), fun _ h => absurd hp (s.pickMove_ne_none h)⟩⟩
  have hx := rebalanceEpoch_picked s hm hp
  by_cases hrest : Table.get 0 s.bmoved b ≠ 0 ∧ s.mcycle < Table.get 0 s.bmoved b + 2 ^ 21
  · rw [if_pos hrest] at hx
    exact ⟨_, hx, rfl, rfl, s.nextEpoch_timers, fun h => by simp at h,
      fun _ => ⟨fun m h => absurd h (hstay m), fun h => absurd (h b) hrest.1⟩⟩
  · rw [if_neg hrest] at hx
    refine ⟨_, hx, rfl, rfl, s.nextEpoch_timers, fun h => by simp at h, fun _ => ⟨fun m h => ?_, fun _ _ h => by cases h⟩⟩
    cases h
    obtain ⟨hr, hst, h1, h2, hlt, hall, hbest⟩ := s.pickMove_some hp
    exact ⟨hr, hst, h1, h2, rfl, hlt, hall, hbest, List.mem_append_right _ (List.mem_singleton.2 rfl)⟩

/-! ### The lines of the bucket leave the old slice -/

theorem State.recallL1_lines (k : Nat) (keep : Option (Nat × Nat)) : (s.recallL1 k keep).lines = s.lines := by
  refine foldl_keeps State.lines _ (fun s e => ?_) _ _
  split <;> rfl

theorem State.recallL1_mem (k : Nat) (keep : Option (Nat × Nat)) : (s.recallL1 k keep).mem = s.mem := by
  refine foldl_keeps State.mem _ (fun s e => ?_) _ _
  split <;> rfl

theorem State.freshWords_lines (f : Nat → Bool) : (s.freshWords f).lines = s.lines := by
  unfold State.freshWords
  split <;> rfl

theorem State.freshWords_mem (f : Nat → Bool) : (s.freshWords f).mem = s.mem := by
  unfold State.freshWords
  split <;> rfl

/-- A clean line, or none, leaves its slice at once, and no other line with it. -/
theorem State.flushLine_clean {k : Nat} (h : ∀ x, Table.get none s.lines k = some x → x.dirty = false) :
    (s.flushLine k).2 = true ∧ (s.flushLine k).1.mem = s.mem ∧
      ∀ j, Table.get none (s.flushLine k).1.lines j = if j = k then none else Table.get none s.lines j := by
  rw [State.flushLine, State.dropLine, State.recallL1_lines]
  rcases hk : Table.get none s.lines k with _ | x
  · refine ⟨rfl, s.recallL1_mem k none, fun j => ?_⟩
    simp only [State.recallL1_lines]
    split
    next hj => rw [hj, hk]
    next => rfl
  · simp only [h x hk, Bool.not_false, if_true, State.freshWords_mem, State.freshWords_lines, State.recallL1_mem,
      State.recallL1_lines, true_and]
    intro j
    split
    next hj => rw [hj, Table.get_del_self]
    next hj => exact Table.get_del_ne _ _ hj

/-- The old slice drops lines one after another; `false` once a channel takes no transfers. -/
def State.flushLines (s : State) (ls : List Nat) (ok : Bool) : State × Bool :=
  ls.foldl (fun acc l => ((acc.1.flushLine l).1, acc.2 && (acc.1.flushLine l).2)) (s, ok)

/-- Clean lines all leave their slice at once, and no others with them. -/
theorem State.flushLines_clean (ls : List Nat)
    (h : ∀ k ∈ ls, ∀ x, Table.get none s.lines k = some x → x.dirty = false) :
    (s.flushLines ls true).2 = true ∧ (s.flushLines ls true).1.mem = s.mem ∧
      ∀ j ∈ ls, Table.get none (s.flushLines ls true).1.lines j = none := by
  suffices hall : (s.flushLines ls true).2 = true ∧ (s.flushLines ls true).1.mem = s.mem ∧
      ∀ j, Table.get none (s.flushLines ls true).1.lines j = if j ∈ ls then none else Table.get none s.lines j from
    ⟨hall.1, hall.2.1, fun j hj => (hall.2.2 j).trans (if_pos hj)⟩
  induction ls generalizing s with
  | nil => exact ⟨rfl, rfl, fun _ => rfl⟩
  | cons k ls ih =>
    obtain ⟨hok, hmem, hlines⟩ := s.flushLine_clean (h k List.mem_cons_self)
    have hstep : s.flushLines (k :: ls) true = (s.flushLine k).1.flushLines ls true := by
      rw [State.flushLines, List.foldl_cons, Bool.true_and, hok]
      rfl
    obtain ⟨iok, imem, ilines⟩ := ih (s.flushLine k).1 fun j hj x hx => by
      rw [hlines] at hx
      split at hx
      next => cases hx
      next => exact h j (List.mem_cons_of_mem _ hj) x hx
    rw [hstep]
    refine ⟨iok, imem.trans hmem, fun j => ?_⟩
    rw [ilines, hlines]
    by_cases hj : j = k <;> simp [hj]

/-- The lines of a bucket in its slice. -/
def State.linesOf (s : State) (b : Nat) : List Nat :=
  (s.lines.filter fun e => match e.2 with | some l => l.bucket == b | none => false).map (·.1)

theorem State.mem_linesOf {b k : Nat} : k ∈ s.linesOf b ↔ ∃ x, (k, some x) ∈ s.lines ∧ x.bucket = b := by
  simp only [State.linesOf, List.mem_map, List.mem_filter]
  constructor
  · rintro ⟨⟨k', _ | x⟩, ⟨hm, hb⟩, rfl⟩
    · cases hb
    · exact ⟨x, hm, eq_of_beq hb⟩
  · rintro ⟨x, hm, rfl⟩
    exact ⟨(k, some x), ⟨hm, beq_self_eq_true _⟩, rfl⟩

variable {s} {m : Move}

theorem bucketFlushed_late (h : s.move = some m) (hs : m.state ≠ 0) : exec .bucketFlushed s = .next s := by
  simp only [exec_bucketFlushed, execBucketFlushed, h, ne_eq, hs, not_false_eq_true, if_true]

theorem bucketFlushed_owned (h : s.move = some m) (hs : m.state = 0) (ho : ∃ o ∈ s.owned, o.2 = m.bucket + 1) :
    exec .bucketFlushed s = .next (s.after 1 .bucketFlushed) := by
  have ho' : (s.owned.any fun o => o.2 == m.bucket + 1) = true := by simpa using ho
  simp only [exec_bucketFlushed, execBucketFlushed, h, ne_eq, hs, not_true_eq_false, if_false, ho', if_true]

/-- Without owned lines the lines of the bucket are flushed one after another. -/
theorem bucketFlushed_flushes (h : s.move = some m) (hs : m.state = 0) (ho : ∀ o ∈ s.owned, o.2 ≠ m.bucket + 1) :
    exec .bucketFlushed s = .next (
      if (s.flushLines (s.linesOf m.bucket) true).2 = true then
        ({ (s.flushLines (s.linesOf m.bucket) true).1 with move := some { m with state := 1 } } : State).wake.post
          .bucketActiveAtNew
      else (s.flushLines (s.linesOf m.bucket) true).1.after 1 .bucketFlushed) := by
  have ho' : (s.owned.any fun o => o.2 == m.bucket + 1) = false := by simpa using ho
  simp only [exec_bucketFlushed, execBucketFlushed, h, ne_eq, hs, not_true_eq_false, if_false, ho', Bool.false_eq_true]
  change Host.Outcome.next (if (!(s.flushLines (s.linesOf m.bucket) true).2) = true then _ else _) = _
  cases (s.flushLines (s.linesOf m.bucket) true).2 <;> rfl

/-- Clean lines of the bucket are gone from the old slice, and the new entry is written next (R82). -/
theorem bucketFlushed_clean (h : s.move = some m) (hs : m.state = 0) (ho : ∀ o ∈ s.owned, o.2 ≠ m.bucket + 1)
    (hn : (s.lines.map (·.1)).Nodup) (hc : ∀ k x, (k, some x) ∈ s.lines → x.bucket = m.bucket → x.dirty = false) :
    completes .bucketFlushed s fun t => t.move = some { m with state := 1 } ∧ .bucketActiveAtNew ∈ t.flight ∧
      t.mem = s.mem ∧ ∀ k x, (k, some x) ∈ s.lines → x.bucket = m.bucket → Table.get none t.lines k = none := by
  obtain ⟨hok, hmem, hlines⟩ := s.flushLines_clean (s.linesOf m.bucket) fun k hk x hx => by
    obtain ⟨y, hy, hb⟩ := s.mem_linesOf.1 hk
    obtain rfl : y = x := Option.some.inj ((Table.get_eq_of_mem none hn hy).symm.trans hx)
    exact hc k y hy hb
  have hx := bucketFlushed_flushes h hs ho
  rw [if_pos hok] at hx
  refine ⟨_, hx, ?_, List.mem_append_right _ (List.mem_singleton.2 rfl), ?_, fun k x hk hb => ?_⟩
  · simp
  · simpa using hmem
  · simpa using hlines k (s.mem_linesOf.2 ⟨x, hk, hb⟩)

/-! ### Every copy of the table holds the new entry -/

theorem bucketActiveAtNew_early (h : s.move = some m) (hs : m.state ≠ 1) : exec .bucketActiveAtNew s = .next s := by
  simp only [exec_bucketActiveAtNew, execBucketActiveAtNew, h, ne_eq, hs, not_false_eq_true, if_true]

theorem bucketActiveAtNew_tells (h : s.move = some m) (hs : m.state = 1) (ht : m.told + 1 < 64 + 2048) :
    exec .bucketActiveAtNew s =
      .next (({ s with move := some { m with told := m.told + 1 } } : State).post .bucketActiveAtNew) := by
  simp only [exec_bucketActiveAtNew, execBucketActiveAtNew, h, ne_eq, hs, not_true_eq_false, if_false, bucketCopies, ht,
    if_true]

/-- With the last copy written the move is over, and the new slice alone serves the bucket (R82). -/
theorem bucketActiveAtNew_ends (h : s.move = some m) (hs : m.state = 1) (ht : 64 + 2048 ≤ m.told + 1) :
    completes .bucketActiveAtNew s fun t => t.move = none ∧ s.sameMemory t ∧
      ∀ x, t.bucketStation x = if x = m.bucket then m.new else s.bucketStation x := by
  let t : State := { s with move := none, buckets := Table.set (m.bucket % 64) s.buckets m.bucket m.new,
                            bmoved := Table.set 0 s.bmoved m.bucket s.mcycle }
  refine ⟨t.wake, ?_, by simp [t], t.sameMemory_wake, fun x => ?_⟩
  · simp only [exec_bucketActiveAtNew, execBucketActiveAtNew, h, ne_eq, hs, not_true_eq_false, if_false, bucketCopies,
      Nat.not_lt.2 ht, t]
  · have hold : s.bucketStation x = if x = m.bucket then m.new else Table.get (x % 64) s.buckets x := by
      simp [State.bucketStation, h, hs, eq_comm]
    have hnew : t.wake.bucketStation x = Table.get (x % 64) t.buckets x := by
      simp [State.bucketStation, t]
    rw [hold, hnew]
    split
    next hx =>
      subst hx
      exact Table.get_set_self ..
    next hx => exact Table.get_set_ne_default _ _ _ _ hx

end Sys2Proof.Machine

end

/-! ## The end of a lane swap (R375) -/

section

namespace Sys2Proof.Machine

variable (s : State)

theorem State.attempt_eq (a : Nat) : ∃ b, (s.attempt a).1 = { s with busErr := b } := by
  unfold State.attempt
  dsimp only
  split
  next => exact ⟨_, rfl⟩
  next => exact ⟨_, rfl⟩

theorem State.setReg_thrice (a b c : Nat) (x y z : W64) :
    ∃ r, ((s.setReg a x).setReg b y).setReg c z = { s with regs := r } := ⟨_, rfl⟩

/-- An entry of the bus error log is in registers only. -/
theorem State.busLog_eq (n ch line time tries lane : Nat) (swap : Option Nat) (lost : Bool) :
    ∃ r, s.busLog n ch line time tries lane swap lost = { s with regs := r } := by
  rw [show @State.busLog = _ from by delta State.busLog; exact rfl]
  exact s.setReg_thrice ..

theorem laneSwapEnd_none {n ch : Nat} {ok : Bool} (h : Table.get none (s.station n).swaps ch = none) :
    exec (.laneSwapEnd n ch ok) s = .next s := by
  simp only [exec_laneSwapEnd, execLaneSwapEnd, h]

/-- The end of a swap: the channel is open, the further attempt has its outcome, and held steps are tried again. -/
theorem laneSwapEnd_some {n ch lanes way time : Nat} (ok : Bool)
    (h : Table.get none (s.station n).swaps ch = some (lanes, way, time)) :
    ∃ out b r, (ok = false → out = none) ∧ exec (.laneSwapEnd n ch ok) s = .next
      (({ s.modStation n fun t => { t with swaps := Table.set none t.swaps ch none } with
          busErr := b, regs := r } : State).modStation n fun t =>
            { t with again := Table.set none t.again way (some out) }).wake := by
  simp only [exec_laneSwapEnd, execLaneSwapEnd, h]
  generalize hs1 : (s.modStation n fun t => { t with swaps := Table.set none t.swaps ch none }) = s1
  obtain ⟨b, hb⟩ := s1.attempt_eq (way / 2 * 128)
  rw [hb]
  generalize (s1.attempt (way / 2 * 128)).2 = beats
  have hlog : ∀ out : Option (BitVec 1152), ∃ r,
      (({ s1 with busErr := b } : State).busLog n ch (stackAddr (way / 2 * 128)) time 3 (lanes % 128) (some (lanes / 128))
        out.isNone).modStation n (fun t => { t with again := Table.set none t.again way (some out) }) =
      ({ s1 with busErr := b, regs := r } : State).modStation n fun t =>
        { t with again := Table.set none t.again way (some out) } := by
    intro out
    obtain ⟨r, hr⟩ := State.busLog_eq { s1 with busErr := b } n ch (stackAddr (way / 2 * 128)) time 3 (lanes % 128)
      (some (lanes / 128)) out.isNone
    exact ⟨r, by rw [hr]⟩
  refine ⟨_, b, _, ?_, congrArg (Host.Outcome.next ∘ State.wake) (hlog _).choose_spec⟩
  rintro rfl
  cases beats <;> rfl

/-- The end of a lane swap (R375). -/
theorem laneSwapEnd_spec {n ch lanes way time : Nat} (ok : Bool)
    (h : Table.get none (s.station n).swaps ch = some (lanes, way, time)) :
    completes (.laneSwapEnd n ch ok) s fun t =>
      Table.get none (t.station n).swaps ch = none ∧ s.sameMemory t ∧
      (∃ out, Table.get none (t.station n).again way = some out ∧ (ok = false → out = none)) ∧
      ∀ e ∈ (s.station n).waiting, e ∈ t.flight := by
  obtain ⟨out, b, r, hout, hx⟩ := laneSwapEnd_some s ok h
  let opened : State := s.modStation n fun t => { t with swaps := Table.set none t.swaps ch none }
  let logged : State := { opened with busErr := b, regs := r }
  let u : State := logged.modStation n fun t => { t with again := Table.set none t.again way (some out) }
  have hu : u.station n = { s.station n with swaps := Table.set none (s.station n).swaps ch none
                                             again := Table.set none (s.station n).again way (some out) } := by
    have hl : logged.station n = { s.station n with swaps := Table.set none (s.station n).swaps ch none } :=
      s.station_modStation_self n fun t => { t with swaps := Table.set none t.swaps ch none }
    rw [State.station_modStation_self, hl]
  obtain ⟨w, hw⟩ := u.station_wake n
  refine ⟨u.wake, hx, ?_, ?_, ⟨out, ?_, hout⟩, fun e he => u.mem_flight_wake (n := n) ?_⟩
  · simp only [hw, hu, Table.get_set_self]
  · exact u.sameMemory_wake
  · simp only [hw, hu, Table.get_set_self]
  · rwa [hu]

end Sys2Proof.Machine

end
/-! ## The obligation -/

section

namespace Sys2Proof.Machine

/-- Settles O46, from one lemma for each event and outcome. That STATE of a row follows after exactly 20,000 ticks, what a
lane swap's further attempt brings, and the number of copies of the bucket table are the model's choices (log 49, 46 and
62), which these clauses state as the model has them. -/
theorem registersAndBuckets : Obligations.RegistersAndBuckets := by
  unfold Obligations.RegistersAndBuckets
  intro s n a row col px v w l ok
  refine ⟨s.writeInval_busy n v, s.writeInval_free n v, s.invalMessage_spec n v l, ?inval, registerWrite_plain s a v,
    fun k hk => ⟨registerWrite_stationKill s hk v, registerWrite_stationStop s hk v⟩,
    ⟨_, rfl, s.clearRc_spec (a / 8 * 8)⟩, ?power, ?remap, rebalanceEpoch_spec s, ?move,
    laneSwapEnd_none s, fun _ _ _ => laneSwapEnd_spec s ok⟩
  case inval =>
    exact fun h => ⟨s.invalDone_waits h, fun ht => ⟨s.invalDone_ends h ht, fun _ _ => s.invalDone_next h ht⟩⟩
  case power =>
    intro hrow r
    exact ⟨rowPwrWrite_taken s hrow, rowPwrWrite_refused s hrow, rowPowerSettled_spec s row⟩
  case remap => exact ⟨remapEntryWrite_refused s, remapEntryWrite_written s⟩
  case move =>
    exact fun m h => ⟨bucketFlushed_late h, bucketFlushed_owned h, bucketFlushed_clean h, bucketActiveAtNew_early h,
      bucketActiveAtNew_tells h, bucketActiveAtNew_ends h⟩

end Sys2Proof.Machine

end

/-! ## What reset leaves -/

section

namespace Sys2Proof.Machine

/-- After reset every device register holds the value that its table gives (R3). -/
theorem State.reg_reset (a : Nat) : State.reset.reg a = (regInfo a).reset := by
  rw [State.reg]
  exact BitVec.zero_xor

theorem regInfo_rowPwr {row : Nat} (h : row < 32) :
    regInfo (controlReg (0x100 + 8 * row)) = .svc (Bits.ones 63 1 ||| 1) 1 := by
  rw [show @regInfo = _ from by delta regInfo; exact rfl, blockOf_rowPwr h]
  show controlInfo _ = _
  rw [controlInfo, if_pos (by omega)]

/-- Where a port station's registers lie (R68). -/
theorem blockOf_portReg {p o : Nat} (hp : p < 48) (ho : o < 0x10000) : blockOf (portReg p o) = (.port p, o) := by
  have e : portReg p o - regBase = 0x400000 + p * 0x10000 + o := by
    unfold portReg
    omega
  unfold blockOf
  rw [e, if_neg (by omega), if_pos (by omega), show (0x400000 + p * 0x10000 + o - 0x400000) / 0x10000 = p from by omega,
    show (0x400000 + p * 0x10000 + o) % 0x10000 = o from by omega]

/-- Where a router's registers lie (R363). -/
theorem blockOf_routerReg {x y o : Nat} (hx : x < 66) (hy : y < 32) (ho : o < 0x10000) :
    blockOf (routerReg x y o) = (.router x y, o) := by
  have e : routerReg x y o - regBase = 0x20000000 + (y * 66 + x) * 0x10000 + o := by
    unfold routerReg
    omega
  unfold blockOf
  rw [e, if_neg (by omega), if_neg (by omega), if_neg (by omega), if_neg (by omega), if_pos (by omega),
    show (0x20000000 + (y * 66 + x) * 0x10000 + o - 0x20000000) / 0x10000 = y * 66 + x from by omega,
    show (0x20000000 + (y * 66 + x) * 0x10000 + o) % 0x10000 = o from by omega]
  simp only [show (y * 66 + x) % 66 = x from by omega, show (y * 66 + x) / 66 = y from by omega]

theorem regInfo_portReg {p o : Nat} (hp : p < 48) (ho : o < 0x10000) : regInfo (portReg p o) = portInfo o := by
  rw [show @regInfo = _ from by delta regInfo; exact rfl, blockOf_portReg hp ho]

theorem regInfo_routerReg {x y o : Nat} (hx : x < 66) (hy : y < 32) (ho : o < 0x10000) :
    regInfo (routerReg x y o) = routerInfo o := by
  rw [show @regInfo = _ from by delta regInfo; exact rfl, blockOf_routerReg hx hy ho]

/-- Settles O58: every table of the state is empty, so that each reader gives its default, and a device register holds the
reset value of its table. That a byte of DRAM reads zero, a thread register zero and a slot empty are the model's choices (log
2, 10 and 9), which these clauses state as the model has them. -/
theorem resetState : Obligations.ResetState := by
  unfold Obligations.ResetState
  refine ⟨rfl, rfl, fun _ => rfl, fun _ _ => rfl, fun _ _ => rfl, fun _ _ => rfl, fun _ _ => rfl, fun T h r => ?_,
    fun _ _ => ⟨rfl, rfl⟩, fun _ _ => rfl, fun _ => rfl, fun _ => rfl, fun y hy => ?_, fun p hp => ⟨?_, ?_⟩, fun x hx y hy => ?_,
    ?_, rfl⟩
  · show (if r = 0 then (0 : W64) else 0) = 0
    exact ite_self _
  · rw [State.reg_reset, regInfo_rowPwr hy]
    rfl
  · rw [State.reg_reset, regInfo_portReg hp (by decide)]
    rfl
  · rw [State.reg_reset, regInfo_portReg hp (by decide)]
    rfl
  · rw [State.reg_reset, regInfo_routerReg hx hy (by decide)]
    rfl
  · have h : State.reset.readyServices = [] := by decide
    rw [State.nextService, h]

end Sys2Proof.Machine

end

/-! ## Saddles, stores and events under way: facts for the steps of a band -/

section

namespace Sys2Proof.Bits

/-- The number that a list of bytes spells, as a sum over its places. -/
theorem ofBytes_map_range (f : Nat → Byte) (n : Nat) :
    ofBytes ((List.range n).map f) = (Finset.range n).sum fun k => (f k).toNat * 256 ^ k := by
  induction n with
  | zero => rfl
  | succ n ih =>
    rw [List.range_succ, List.map_append, ofBytes_append, ih, Finset.sum_range_succ]
    simp [ofBytes, Nat.mul_comm]

/-- Zero bytes spell zero. -/
theorem ofBytes_replicate_zero (m : Nat) : ofBytes (List.replicate m 0) = 0 := by
  induction m with
  | zero => rfl
  | succ m ih =>
    show (0 : Byte).toNat + 256 * ofBytes (List.replicate m 0) = 0
    rw [ih]
    rfl

/-- Of a list of at least one element, `chunks` cuts off a first piece. -/
theorem chunks_succ {α : Type} (n fuel : Nat) {l : List α} (h : l ≠ []) :
    chunks n (fuel + 1) l = l.take n :: chunks n fuel (l.drop n) := by
  cases l with
  | nil => exact absurd rfl h
  | cons x l => rfl

end Sys2Proof.Bits

namespace Sys2Proof.Table

variable {α : Type} [DecidableEq α]

/-- A run of keys, each changed once by what it held: those of the run hold the new values, the others theirs. -/
theorem get_foldl_set_range (d : α) (t : Tbl α) (a n j : Nat) (f : Nat → α → α) :
    get d ((List.range n).foldl (fun t i => set d t (a + i) (f i (get d t (a + i)))) t) j =
      if a ≤ j ∧ j < a + n then f (j - a) (get d t j) else get d t j := by
  induction n with
  | zero => simp
  | succ n ih =>
    rw [List.range_succ, List.foldl_append, List.foldl_cons, List.foldl_nil, get_set]
    by_cases h : j = a + n
    · subst h
      rw [if_pos rfl, if_pos (by omega), ih, if_neg (by omega), Nat.add_sub_cancel_left]
    · rw [if_neg h, ih]
      congr 1
      rw [eq_iff_iff]
      omega

end Sys2Proof.Table

namespace Sys2Proof.Machine

open Bits

/-- What a step of a fold establishes for one of the elements, and every step keeps, holds at the end; an invariant `I` of the
fold may be used on the way. -/
theorem foldl_establishes {σ β : Type} (I Q : σ → Prop) {g : σ → β → σ} {x : β} {l : List β} (hx : x ∈ l)
    (hI : ∀ s, ∀ y ∈ l, I s → I (g s y)) (hQ : ∀ s, I s → Q (g s x)) (hk : ∀ s, ∀ y ∈ l, I s → Q s → Q (g s y)) {s : σ}
    (hs : I s) : Q (l.foldl g s) := by
  have keeps : ∀ l' ⊆ l, ∀ s, I s → Q s → Q (l'.foldl g s) := by
    intro l'
    induction l' with
    | nil => exact fun _ _ _ h => h
    | cons y l' ih =>
      intro hl s hi hq
      have hy := hl List.mem_cons_self
      exact ih (fun z hz => hl (List.mem_cons_of_mem _ hz)) _ (hI s y hy hi) (hk s y hy hi hq)
  have reaches : ∀ l' ⊆ l, x ∈ l' → ∀ s, I s → Q (l'.foldl g s) := by
    intro l'
    induction l' with
    | nil => exact fun _ h => absurd h (List.not_mem_nil)
    | cons y l' ih =>
      intro hl hx s hi
      have hy := hl List.mem_cons_self
      have hl' : l' ⊆ l := fun z hz => hl (List.mem_cons_of_mem _ hz)
      rcases List.mem_cons.1 hx with rfl | hx
      · exact keeps l' hl' _ (hI s x hy hi) (hQ s hi)
      · exact ih hl' hx _ (hI s y hy hi)
  exact reaches l (List.Subset.refl l) hx s hs

variable (s : State)

/-! ### Stores of data -/

/-- The stores of data: DRAM and local stores, full-empty bits, slot bytes and accumulators. -/
def State.stores (s : State) : List Host.Cell × Tbl Bool × List Host.Cell × Tbl W32 := (s.mem, s.fe, s.slotMem, s.acc)

theorem State.sameMemory_of_stores {s t : State} (h : t.stores = s.stores) : s.sameMemory t := by
  simp only [State.stores, Prod.mk.injEq] at h
  obtain ⟨hm, hf, hs, ha⟩ := h
  exact ⟨fun a => congrArg (Memory.get · a) hm, hf, hs, ha⟩

/-- The number in a range of local store, as the statements spell it. -/
theorem State.lsNum_eq_number (T off n : Nat) : s.lsNum T off n = s.number (lsAddr T off) n :=
  ofBytes_map_range _ n

/-! ### Events added to what is under way -/

/-- The state with more events under way. -/
def State.posted (s : State) (w : List Event) : State := { s with flight := s.flight ++ w }

@[simp] theorem State.posted_flight (w : List Event) : (s.posted w).flight = s.flight ++ w := rfl
@[simp] theorem State.posted_bands (w : List Event) : (s.posted w).bands = s.bands := rfl
theorem State.posted_posted (v w : List Event) : (s.posted v).posted w = s.posted (v ++ w) := by
  simp [State.posted]
theorem State.posted_nil : s.posted [] = s := by simp [State.posted]
theorem State.sameMemory_posted (w : List Event) : s.sameMemory (s.posted w) := State.sameMemory_of_stores rfl

/-- A fold whose steps only post, each what its element says, posts all of it in order. -/
theorem State.foldl_posted {β : Type} (g : State → β → State) (f : β → List Event)
    (h : ∀ w x, g (s.posted w) x = (s.posted w).posted (f x)) (l : List β) : l.foldl g s = s.posted (l.flatMap f) := by
  have key : ∀ w, l.foldl g (s.posted w) = s.posted (w ++ l.flatMap f) := by
    induction l with
    | nil => intro w; rw [List.foldl_nil, List.flatMap_nil, List.append_nil]
    | cons x l ih =>
      intro w
      rw [List.foldl_cons, h, State.posted_posted, ih, List.flatMap_cons, List.append_assoc]
  simpa [State.posted_nil] using key []

/-- Piece `x.2` of a saddle for step t, from a block to domain d of a tile (R36, R37). -/
def State.saddleMsg (s : State) (src : Node) (sdom pid T d t : Nat) (x : List Byte × Nat) : Msg :=
  { blockMsg src (s.nodeOf T) 0x19 pid ((s.dom T d).saddleAt t + 1008 * x.2) (.bulk x.1 (saddleKey t) Issuer.none false) with
    sdom := BitVec.ofNat 2 sdom }

/-- The messages of a saddle for step t to a tile (R36, R37). -/
def State.saddleEvents (s : State) (src : Node) (sdom pid T t : Nat) (b : List Byte) : List Event :=
  match s.domOf T pid with
  | none => []
  | some d => ((chunks 1008 (b.length / 1008 + 1) b).zipIdx).map fun x => .meshRoute src (s.saddleMsg src sdom pid T d t x)

theorem State.sendSaddle_eq (src : Node) (sdom pid T t : Nat) (b : List Byte) :
    s.sendSaddle src sdom pid T t b = s.posted (s.saddleEvents src sdom pid T t b) := by
  unfold State.sendSaddle State.saddleEvents
  cases s.domOf T pid with
  | none => exact s.posted_nil.symm
  | some d =>
    refine (s.foldl_posted _ (fun x => [.meshRoute src (s.saddleMsg src sdom pid T d t x)]) (fun w x => rfl) _).trans ?_
    rw [← List.map_eq_flatMap]

/-- The first piece of a saddle of at least one byte is on its way to a tile on which its job is present; every piece has
bytes of the saddle. -/
theorem State.mem_saddleEvents {src : Node} {sdom pid T t : Nat} {b : List Byte} (hb : b ≠ [])
    (hd : (s.domOf T pid).isSome = true) :
    ∃ m bytes, .meshRoute src m ∈ s.saddleEvents src sdom pid T t b ∧ m.typ = 0x19 ∧ m.dst = s.nodeOf T ∧
      m.pay = .bulk bytes (saddleKey t) Issuer.none false ∧ ∀ c ∈ bytes, c ∈ b := by
  obtain ⟨d, hd⟩ := Option.isSome_iff_exists.1 hd
  refine ⟨s.saddleMsg src sdom pid T d t (b.take 1008, 0), _, ?_, rfl, rfl, rfl, fun c hc => List.mem_of_mem_take hc⟩
  simp only [State.saddleEvents, hd, chunks_succ _ _ hb, List.zipIdx_cons, List.map_cons, List.mem_cons_self]

/-- The messages by which a tile's MARKER goes to both stations of its row (R90). -/
theorem State.signalMarker_eq (T d : Nat) : ∃ w, s.signalMarker T d = s.posted w := by
  unfold State.signalMarker
  extract_lets v
  split
  · exact ⟨[], s.posted_nil.symm⟩
  · exact ⟨_, s.posted_posted _ _⟩

end Sys2Proof.Machine
end

/-! ## Readiness and stage entry -/

section

namespace Sys2Proof.Machine

open Bits

variable {s : State} {T d n j st w step k : Nat} {b : Band}

/-- What it means that a domain runs band n. -/
theorem State.bandAt_some (h : s.bandAt T d = some (n, b)) : (s.dom T d).band = n + 1 ∧ s.bandOf n = some b := by
  unfold State.bandAt at h
  extract_lets m at h
  split at h
  · cases h
  · next hm =>
    obtain ⟨b', hb, he⟩ := Option.map_eq_some_iff.1 h
    cases he
    exact ⟨by omega, hb⟩

/-! ### Readiness of a tile (R36, R40) -/

section

variable (hb : s.bandAt T d = some (n, b)) (hf : (s.tile T).fenced = false) (hfin : b.finished = false)
  (hrep : b.replay = none) (hr : (s.dom T d).isReady = false)
  (hrun : b.started = true → ∀ x y, b.runAt b.step (s.dom T d).bRow = some (x, y) → s.ranOut n T x y b.step = true)

include hb hf hfin hrep hr hrun

/-- With the run of its row over and no replay, the tile is ready when what is due has arrived, and waits otherwise. -/
theorem tileReady_eq : exec (.tileReady T d) s = .next (
      if (s.expects b b.nextStep (s.dom T d).bRow).all fun x => x.2 ≤ Table.get 0 (s.dom T d).due x.1 then
        (s.setDom T d { s.dom T d with isReady := true }).signal T d 0x11 (.station (T / 64)) 0
          (.ready n (s.dom T d).bRow T)
      else s) := by
  simp only [exec_tileReady, execTileReady, hb, hf, hfin, hr, hrep]
  rw [if_neg]
  rcases hs : b.started with _ | _
  · simp
  · rcases hx : b.runAt b.step (s.dom T d).bRow with _ | ⟨x, y⟩
    · simp
    · simp [hrun hs x y hx]

theorem tileReady_contributes
    (hdue : ∀ x ∈ s.expects b b.nextStep (s.dom T d).bRow, x.2 ≤ Table.get 0 (s.dom T d).due x.1) :
    completes (.tileReady T d) s fun t => t.dom T d = { s.dom T d with isReady := true } ∧ s.sameMemory t ∧
      ∃ m, t.flight = s.flight ++ [.meshRoute (s.nodeOf T) m] ∧ m.typ = 0x11 ∧ m.dst = .station (T / 64) ∧
        m.pay = .ctrl (.ready n (s.dom T d).bRow T) := by
  refine ⟨_, (tileReady_eq hb hf hfin hrep hr hrun).trans (congrArg _ (if_pos (by simpa using hdue))), ?_,
    State.sameMemory_of_stores rfl, _, rfl, rfl, rfl, rfl⟩
  exact s.dom_setDom_self T d _

theorem tileReady_waits (hdue : ∃ x ∈ s.expects b b.nextStep (s.dom T d).bRow, Table.get 0 (s.dom T d).due x.1 < x.2) :
    exec (.tileReady T d) s = .next s := by
  rw [tileReady_eq hb hf hfin hrep hr hrun, if_neg (by simpa using hdue)]

end

/-! ### Stage entry (R34) -/

/-- With no replay, the run in progress in a band row is that of the present step. -/
theorem Band.present_some (hrep : b.replay = none) (h : b.present j = some (st, w, step)) :
    b.runAt b.step j = some (st, w) ∧ step = b.step := by
  unfold Band.present at h
  rw [hrep] at h
  obtain ⟨x, hx, he⟩ := Option.map_eq_some_iff.1 h
  cases he
  exact ⟨hx, rfl⟩

theorem stageEntry_enters (hb : s.bandAt T d = some (n, b)) (hf : (s.tile T).fenced = false)
    (hp : b.present (s.dom T d).bRow = some (st, w, step)) (hs : b.started = true) (hrep : b.replay = none)
    (hin : s.inRun n T st w step = false) (hc : st = 0 → (s.dom T d).halfCount (w / b.height % 2) = 0) {r : BitVec 2048}
    (hr : s.stageRec b st = some r) : exec (.stageEntry T d) s = .next (s.enterStage T d b st w step r) := by
  have hwait : ¬ (st = 0 ∧ (s.dom T d).halfCount (w / b.height % 2) ≠ 0) := fun h => h.2 (hc h.1)
  simp only [exec_stageEntry, execStageEntry, hb, hp, hf, hs, hrep, hin, hr]
  simp [hwait]

/-- A stage thread as its tile starts it (R34, item 6). -/
theorem startThread_spec (x : Thread) (r : BitVec 2048) (i now : Nat) :
    let y := startThread x r i now
    y.run = .ready ∧ y.idx = i ∧ y.priv = 0 ∧ y.cause = 0 ∧ y.p = 0 ∧ y.m = [] ∧
      y.pc = (r.extractLsb' (64 + 32 * (r.extractLsb' (8 + 2 * i) 2).toNat) 32).setWidth 64 ∧
      y.fmtA = r.extractLsb' 304 4 ∧ y.fmtB = r.extractLsb' 308 4 ∧ y.scaleA = r.extractLsb' 320 24 ∧
      y.scaleB = r.extractLsb' 344 24 ∧ y.rx 1 = BitVec.ofNat 64 i ∧ y.rx 2 = r.extractLsb' 192 64 ∧
      ∀ q, q ≠ 1 → q ≠ 2 → y.rx q = 0 := by
  intro y
  refine ⟨rfl, rfl, rfl, rfl, rfl, rfl, rfl, rfl, rfl, rfl, rfl, ?_, ?_, fun q h1 h2 => ?_⟩
  · exact (Thread.rx_wx _ 2 1 _).trans (Thread.rx_wx _ 1 1 _)
  · exact Thread.rx_wx _ 2 2 _
  · refine (Thread.rx_wx _ 2 q _).trans ?_
    rw [if_neg fun h => h2 h.1, Thread.rx_wx, if_neg fun h => h1 h.1]
    exact ite_self _

/-- What stage entry makes of the i-th thread of a domain: a stage thread, or an idle one beyond the record's count (R34). -/
def entryThread (r : BitVec 2048) (now i : Nat) (x : Thread) : Thread :=
  if i < recThreads r then startThread x r i now else { x with run := .idle }

/-- What a tile has at the start of its stage, before its markers go out: the domain and the threads (R34). -/
theorem enterStage_tile (b : Band) (st w t : Nat) (r : BitVec 2048) :
    ∃ (u : State) (v : List Event), s.enterStage T d b st w t r = (u.signalMarker T d).posted v ∧ u.stores = s.stores ∧ u.remap = s.remap ∧
      (let y := u.dom T d
       y.stage = BitVec.ofNat 16 st ∧ y.wave = BitVec.ofNat 32 (b.firstWave + w) ∧ y.step = BitVec.ofNat 64 t ∧ y.srec = r ∧
        y.running = true ∧ y.sbb = decide (t % 2 = 1) ∧ y.band = (s.dom T d).band ∧ y.bRow = (s.dom T d).bRow ∧
        y.marker = BitVec.ofNat 64 (s.number (lsAddr T ((s.dom T d).saddleAt t)) 8) ∧ y.slotMask = r.extractLsb' 448 16 ∧
        y.accMask = r.extractLsb' 384 64 ∧ y.barMask = r.extractLsb' 368 16) ∧
      ∀ i < (s.dom T d).thrCount, u.thread T ((s.dom T d).thrFirst + i) =
        entryThread r s.tcycle i (s.thread T ((s.dom T d).thrFirst + i)) := by
  unfold State.enterStage
  extract_lets dm sad marker dm1 k s1 s2
  refine ⟨s1, if k = 0 then [.stageDone T d] else [], ?_, rfl, rfl, ?_, fun i hi => ?_⟩
  · by_cases hk : k = 0
    · rw [if_pos hk, if_pos hk]
      rfl
    · rw [if_neg hk, if_neg hk, State.posted_nil]
  · have hdom : s1.dom T d = dm1 := by
      rw [State.dom, State.tile_modTile_self]
      exact s.dom_setDom_self T d dm1
    rw [hdom]
    refine ⟨rfl, rfl, rfl, rfl, rfl, ?_, rfl, rfl, ?_, rfl, rfl, rfl⟩
    · exact Bool.beq_eq_decide_eq _ _
    · rw [← State.lsNum_eq_number]
  · rw [State.thread, State.tile_modTile_self]
    refine (Table.get_foldl_set_range Thread.reset _ dm.thrFirst dm.thrCount _ (entryThread r s.tcycle)).trans ?_
    rw [if_pos ⟨Nat.le_add_right _ _, Nat.add_lt_add_left hi _⟩]
    exact congrArg₂ (entryThread r s.tcycle) (Nat.add_sub_cancel_left _ _) (s.thread_setDom T d dm1 T (dm.thrFirst + i))

/-- A tile's MARKER on its way to a station (R90). -/
def State.markerMsg (s : State) (T d q : Nat) : Msg :=
  let v := s.dom T d
  s.tileMsg T d 0x11 (.station q) (2 ^ 30) (.ctrl (.marker (v.band - 1) v.bRow T v.stage.toNat
    ((v.wave.toNat + 2 ^ 32 - v.firstWave) % 2 ^ 32) v.step.toNat v.marker.toNat))

theorem State.signalMarker_of_band (hb : (s.dom T d).band ≠ 0) : s.signalMarker T d =
    s.posted ([T / 64, 32 + T / 64].map fun q => .meshRoute (s.nodeOf T) (s.markerMsg T d q)) :=
  (if_neg hb).trans (s.posted_posted [_] [_])

/-- The MARKER of a tile in a band goes to both stations of its row (R90). -/
theorem State.mem_signalMarker (hb : (s.dom T d).band = n + 1) {q : Nat} (hq : q ∈ [T / 64, 32 + T / 64]) :
    ∃ m, .meshRoute (s.nodeOf T) m ∈ (s.signalMarker T d).flight ∧ m.typ = 0x11 ∧ m.dst = .station q ∧
      ∃ w', m.pay = .ctrl (.marker n (s.dom T d).bRow T (s.dom T d).stage.toNat w' (s.dom T d).step.toNat
        (s.dom T d).marker.toNat) := by
  obtain rfl : n = (s.dom T d).band - 1 := by omega
  refine ⟨s.markerMsg T d q, ?_, rfl, rfl, _, rfl⟩
  rw [State.signalMarker_of_band (by omega), State.posted_flight]
  exact List.mem_append_right _ (List.mem_map_of_mem hq)

theorem stageEntry_spec (hb : s.bandAt T d = some (n, b)) (hf : (s.tile T).fenced = false)
    (hp : b.present (s.dom T d).bRow = some (st, w, step)) (hs : b.started = true) (hrep : b.replay = none)
    (hin : s.inRun n T st w step = false) (hc : st = 0 → (s.dom T d).halfCount (w / b.height % 2) = 0) {r : BitVec 2048}
    (hr : s.stageRec b st = some r) :
    completes (.stageEntry T d) s fun t =>
      let v := t.dom T d
      v.stage = BitVec.ofNat 16 st ∧ v.wave = BitVec.ofNat 32 (b.firstWave + w) ∧ v.step = BitVec.ofNat 64 step ∧
      v.srec = r ∧ v.running = true ∧ v.sbb = decide (step % 2 = 1) ∧
      v.marker = BitVec.ofNat 64 (s.number (lsAddr T ((s.dom T d).saddleAt step)) 8) ∧ v.slotMask = r.extractLsb' 448 16 ∧
      v.accMask = r.extractLsb' 384 64 ∧ v.barMask = r.extractLsb' 368 16 ∧ s.sameMemory t ∧
      (∀ q ∈ [T / 64, 32 + T / 64], ∃ m, .meshRoute (s.nodeOf T) m ∈ t.flight ∧ m.typ = 0x11 ∧ m.dst = .station q ∧
        ∃ w', m.pay = .ctrl (.marker n (s.dom T d).bRow T v.stage.toNat w' v.step.toNat v.marker.toNat)) ∧
      ∀ i < (s.dom T d).thrCount, let x := t.thread T ((s.dom T d).thrFirst + i)
        if i < (r.extractLsb' 0 5).toNat then x.run = .ready ∧ x.idx = i ∧ x.priv = 0 ∧ x.cause = 0 ∧ x.p = 0 ∧ x.m = [] ∧
          x.pc = (r.extractLsb' (64 + 32 * (r.extractLsb' (8 + 2 * i) 2).toNat) 32).setWidth 64 ∧
          x.fmtA = r.extractLsb' 304 4 ∧ x.fmtB = r.extractLsb' 308 4 ∧ x.scaleA = r.extractLsb' 320 24 ∧
          x.scaleB = r.extractLsb' 344 24 ∧ x.rx 1 = BitVec.ofNat 64 i ∧ x.rx 2 = r.extractLsb' 192 64 ∧
          ∀ q, q ≠ 1 → q ≠ 2 → x.rx q = 0
        else x.run = .idle := by
  obtain ⟨u, v, hu, hstores, hremap, ⟨h1, h2, h3, h4, h5, h6, hband, hrow, h7, h8, h9, h10⟩, hthr⟩ :=
    enterStage_tile (s := s) (T := T) (d := d) b st w step r
  obtain ⟨v', hv'⟩ := u.signalMarker_eq T d
  refine ⟨_, (stageEntry_enters hb hf hp hs hrep hin hc hr).trans (congrArg _ hu), ?_⟩
  have hd : ((u.signalMarker T d).posted v).dom T d = u.dom T d := by rw [hv']; rfl
  simp only [hd]
  refine ⟨h1, h2, h3, h4, h5, h6, h7, h8, h9, h10, ?_, fun q hq => ?_, fun i hi => ?_⟩
  · exact State.sameMemory_of_stores (by rw [hv']; exact hstores)
  · obtain ⟨m, hm, ht, hdst, w', hpay⟩ := State.mem_signalMarker (hband.trans (State.bandAt_some hb).1) hq
    rw [hrow] at hpay
    rw [State.nodeOf, State.physX, hremap] at hm
    exact ⟨m, List.mem_append_left _ hm, ht, hdst, w', hpay⟩
  · have hx : ((u.signalMarker T d).posted v).thread T ((s.dom T d).thrFirst + i) =
        entryThread r s.tcycle i (s.thread T ((s.dom T d).thrFirst + i)) := by
      rw [hv', ← hthr i hi]
      rfl
    rw [hx, entryThread]
    show if i < recThreads r then _ else _
    split
    next hi => simpa only [if_pos hi] using startThread_spec _ r i s.tcycle
    next hi => rfl

end Sys2Proof.Machine
end

/-! ## The end of a stage -/

section

namespace Sys2Proof.Machine

open Bits

/-! ### Occurrences that start leave every run as it is -/

/-- No run of a domain begins or ends, and nothing under way is dropped. -/
structure State.goesOn (s t : State) : Prop where
  running : ∀ T d, (t.dom T d).running = (s.dom T d).running
  flight : s.flight ⊆ t.flight

namespace State.goesOn

variable {s t u : State}

theorem refl (s : State) : s.goesOn s := ⟨fun _ _ => rfl, List.Subset.refl _⟩

theorem trans (h : s.goesOn t) (k : t.goesOn u) : s.goesOn u :=
  ⟨fun T d => (k.running T d).trans (h.running T d), List.Subset.trans h.flight k.flight⟩

theorem foldl (h : s.goesOn t) {β : Type} {g : State → β → State} (hg : ∀ (s : State) x, s.goesOn (g s x)) (l : List β) :
    s.goesOn (l.foldl g t) :=
  h.trans (foldl_rel State.goesOn refl (fun _ _ _ => trans) g hg l t)

/-- A state with the same tiles and all that was under way. -/
theorem of_tiles (ht : t.tiles = s.tiles) {w : List Event} (hw : t.flight = s.flight ++ w) : s.goesOn t :=
  ⟨fun T d => by rw [State.dom, State.tile, ht]; rfl, by rw [hw]; exact List.subset_append_left _ _⟩

theorem post (h : s.goesOn t) (e : Event) : s.goesOn (t.post e) := h.trans (of_tiles rfl rfl)

theorem notice (h : s.goesOn t) (src : Node) (pid code : Nat) (v : W64) : s.goesOn (t.notice src pid code v) := h.post _

theorem modReg (h : s.goesOn t) (a : Nat) (f : W64 → W64) : s.goesOn (t.modReg a f) :=
  h.trans (of_tiles (w := []) rfl (List.append_nil _).symm)

theorem setRel (h : s.goesOn t) (n j slot : Nat) (r : Rel) : s.goesOn (t.setRel n j slot r) :=
  h.trans (of_tiles (w := []) rfl (List.append_nil _).symm)

theorem modCursor (h : s.goesOn t) (k n j st w : Nat) (f : Cursor → Cursor) : s.goesOn (t.modCursor k n j st w f) :=
  h.trans (of_tiles (w := []) rfl (List.append_nil _).symm)

theorem modDom (h : s.goesOn t) (T d : Nat) {f : Dom → Dom} (hf : ∀ v, (f v).running = v.running) :
    s.goesOn (t.modDom T d f) := by
  refine h.trans ⟨fun T' d' => ?_, List.Subset.refl _⟩
  rw [State.dom_modDom]
  split
  next h => rw [hf, h.1, h.2]
  next => rfl

theorem loseFill (h : s.goesOn t) (g row slot : Nat) : s.goesOn (t.loseFill g row slot) :=
  h.foldl (fun s _ => (refl s).post _) _

theorem doneOcc (h : s.goesOn t) (o : Occ) : s.goesOn (t.doneOcc o) := by
  unfold State.doneOcc
  split
  · exact h
  · exact (h.foldl (fun s k => (refl s).modCursor ..) _).post _

theorem tierMiss (h : s.goesOn t) (k : Nat) (b : Band) (o : Occ) : s.goesOn (t.tierMiss k b o) := by
  unfold State.tierMiss
  extract_lets s1
  split
  · exact (h.modReg ..).notice ..
  · exact h.modReg ..

theorem startOcc (h : s.goesOn t) (k n : Nat) (b : Band) (c : Cursor) (x : Nat × BitVec 256 × Nat) :
    s.goesOn (t.startOcc k n b c x) := by
  unfold State.startOcc
  extract_lets o e row begin_ missed s1 s2
  have hb : s.goesOn (begin_ t) := h.modCursor ..
  have hm : ∀ u, s.goesOn u → s.goesOn (missed u) := fun u hu => by
    show s.goesOn (if _ then _ else _)
    split
    · exact hu.tierMiss ..
    · exact hu
  split
  · refine doneOcc ?_ _
    split
    · exact (hb.notice ..).loseFill ..
    · exact hb.notice ..
  split
  · exact ((hb.notice ..).loseFill ..).doneOcc _
  split
  · exact (hm _ hb).post _
  · split
    · exact (hb.setRel ..).post _
    · exact h
  · exact hb.post _
  · split
    · refine (hm _ (hb.foldl (fun s T => ?_) _)).post _
      split
      · exact (refl s).modDom _ _ fun _ => rfl
      · exact refl s
    · exact h
  · exact hb.post _
  · exact h

theorem runRow (h : s.goesOn t) (row : Nat) : s.goesOn (t.runRow row) := by
  refine h.foldl (fun s k => (refl s).foldl (fun s c => ?_) _) _
  unfold State.runCursor
  split
  · split
    · exact refl s
    · exact (refl s).foldl (fun s x => (refl s).startOcc ..) _
  · exact refl s

theorem signalMarker (h : s.goesOn t) (T d : Nat) : s.goesOn (t.signalMarker T d) := by
  obtain ⟨w, hw⟩ := t.signalMarker_eq T d
  rw [hw]
  exact h.trans (of_tiles rfl rfl)

end State.goesOn

/-! ### The end of a stage (R36, R44) -/

variable {s : State} {T d n j st w step : Nat} {b : Band}

/-- A tile whose run has a started thread that is not done is left as it is. -/
theorem stageDone_unfinished (hb : s.bandAt T d = some (n, b)) (hp : b.present (s.dom T d).bRow = some (st, w, step))
    (h : ∃ i < (s.dom T d).nThreads, (s.thread T ((s.dom T d).thrFirst + i)).run ≠ .done) :
    exec (.stageDone T d) s = .next s := by
  have hd : s.threadsDone T d = false := by simpa [State.threadsDone] using h
  simp only [exec_stageDone, execStageDone, hb, hp]
  simp [hd]

/-- With every started thread done and no timetable to wait for, the stage is done (R36, R93). -/
theorem stageDone_finishes (hb : s.bandAt T d = some (n, b)) (hf : (s.tile T).fenced = false)
    (hp : b.present (s.dom T d).bRow = some (st, w, step)) (hin : s.inRun n T st w step = true)
    (hr : (s.dom T d).running = true) (h : ∀ i < (s.dom T d).nThreads, (s.thread T ((s.dom T d).thrFirst + i)).run = .done)
    (hc : ∀ q ∈ [b.rowOf (s.dom T d).bRow, 32 + b.rowOf (s.dom T d).bRow], s.cursorOf q n (s.dom T d).bRow st w = none) :
    exec (.stageDone T d) s = .next (s.finishStage T d b st w step) := by
  have hd : s.threadsDone T d = true := by simpa [State.threadsDone] using h
  have hcs : (rowStations (b.rowOf (s.dom T d).bRow)).filterMap
      (fun k => (s.cursorOf k n (s.dom T d).bRow st w).map fun c => (k, c)) = [] := by
    rw [List.filterMap_eq_nil_iff]
    exact fun q hq => by rw [hc q hq, Option.map_none]
  simp only [exec_stageDone, execStageDone, hb, hp, hcs]
  simp [hd, hf, hin, hr]

/-- Once a domain has stopped running, the messages and occurrences at the end of its stage do not start it again. -/
theorem State.stopped_ends {u : State} (hu : (u.dom T d).running = false) (row : Nat) :
    let v := ((u.post (.tileReady T d)).signalMarker T d).runRow row
    (v.dom T d).running = false ∧ .tileReady T d ∈ v.flight := by
  have h : (u.post (.tileReady T d)).goesOn (((u.post (.tileReady T d)).signalMarker T d).runRow row) :=
    ((State.goesOn.refl _).signalMarker T d).runRow row
  exact ⟨(h.running T d).trans hu, h.flight (List.mem_append_right _ (List.mem_singleton_self _))⟩

/-- Where all that leaves is good and the history takes the saddle, the run of the tile is over and the tile is seen again for
its next step. -/
theorem finishStage_ends (hrep : b.replay = none)
    (hgood : (s.lsStore T (s.dom T d).saddleActive (s.saddleHeader T d)).leavesGood T (s.dom T d)
      (b.edges.filter fun e => e.from_ == st && w % b.height + e.k < b.height) = true)
    (hw : let s0 := s.lsStore T (s.dom T d).saddleActive (s.saddleHeader T d)
      (s0.gwrite (b.rowOf (s.dom T d).bRow) b.pid true [] (b.histEntry step (s.dom T d).bRow (T % 64 - b.col0) % 2 ^ 55)
        (s0.lsRead T (s.dom T d).saddleActive (s.dom T d).saddleSize)).2 = .ok []) :
    ((s.finishStage T d b st w step).dom T d).running = false ∧ .tileReady T d ∈ (s.finishStage T d b st w step).flight := by
  have hpass : b.passesOn (s.dom T d).bRow st = true := by rw [Band.passesOn, hrep]
  unfold State.finishStage
  extract_lets dm j c k s0 saddle rep passOn es hist bad j'
  have hhist : hist = ((s0.gwrite k b.pid true [] (b.histEntry step j c % 2 ^ 55) saddle).1, .ok []) :=
    (if_pos hpass).trans (Prod.ext rfl hw)
  have hbad : bad = false := by simp only [bad, rep, hrep]
  rw [hhist, if_neg (by rw [hgood]; simp)]
  show ((if bad = true then _ else _ : State).dom T d).running = false ∧ _ ∈ (if bad = true then _ else _ : State).flight
  rw [hbad, if_neg Bool.false_ne_true]
  refine State.stopped_ends ?_ _
  refine (foldl_keeps (fun u : State => (u.dom T d).running) _ (fun u i => ?_) _ _).trans ?_
  · extract_lets x
    split
    · split
      · rw [State.dom_setSlot]
      · rfl
    · rfl
  · rw [State.dom_modDom_self]

end Sys2Proof.Machine
end

/-! ## Ready contributions and the start of a step -/

section

namespace Sys2Proof.Machine

open Bits

variable {s : State} {T d n i st w k : Nat} {b : Band}

/-! ### Ready contributions at the controller (R8, R40) -/

theorem State.allReady_iff : s.allReady b = true ↔ ∀ x < b.height, ∀ y ∈ s.liveTiles b x, (x, y) ∈ b.readyT := by
  simp [State.allReady, Band.rows]

theorem State.allReady_eq_false : s.allReady b = false ↔ ∃ x < b.height, ∃ y ∈ s.liveTiles b x, (x, y) ∉ b.readyT := by
  rw [← Bool.not_eq_true, State.allReady_iff]
  push Not
  exact Iff.rfl

/-- A control message of a station that is under way. -/
theorem State.tells_of_mem {t : State} {dst : Node} {typ pid arg : Nat} {c : Ctrl}
    (h : .meshRoute (.station k) (ctrlMsg k dst typ pid arg c) ∈ t.flight) : t.tells k dst (BitVec.ofNat 8 typ) c :=
  ⟨_, h, rfl, rfl, rfl⟩

/-- A contribution at a station that is not the controller goes on to it. -/
theorem State.readyAt_forwards (hb : s.bandOf n = some b) (hd : s.bandDom n T = some d) (hk : k ≠ b.rowOf 0) :
    s.readyAt k n i T = s.send (ctrlMsg k (.station (b.rowOf 0)) 0x11 b.pid 0 (.ready n i T)) := by
  simp only [State.readyAt, hb, hd, if_pos hk]

/-- A contribution at the controller is counted; the last one starts the step. -/
theorem State.readyAt_counts (hb : s.bandOf n = some b) (hd : s.bandDom n T = some d) (hr : (s.dom T d).isReady = true)
    (hi : (i, T) ∉ b.readyT) : s.readyAt (b.rowOf 0) n i T =
      let b1 := { b with readyT := b.readyT ++ [(i, T)] }
      if s.allReady b1 then (s.setBand n (some b1)).post (.stepStart n) else s.setBand n (some b1) := by
  have h : ¬ (!(s.dom T d).isReady ∨ b.readyT.contains (i, T)) := by simpa [hr] using hi
  simp only [State.readyAt, hb, hd, if_neg h, if_neg (not_not_intro rfl)]
  rfl

theorem exec_readyReduction_of_band (hb : s.bandOf n = some b) :
    exec (.readyReduction n i T) s = .next (s.readyAt (b.rowOf i) n i T) := by
  simp only [exec_readyReduction, execReadyReduction, hb]

theorem readyReduction_forwards (hb : s.bandOf n = some b) (hd : s.bandDom n T = some d) (hi : b.rowOf i ≠ b.rowOf 0) :
    completes (.readyReduction n i T) s fun t =>
      t.tells (b.rowOf i) (.station (b.rowOf 0)) 0x11 (.ready n i T) ∧ t.bands = s.bands ∧ s.sameMemory t := by
  refine ⟨_, (exec_readyReduction_of_band hb).trans (congrArg _ (State.readyAt_forwards hb hd hi)), State.tells_of_mem (pid := b.pid) (arg := 0) ?_, rfl,
    State.sameMemory_of_stores rfl⟩
  exact List.mem_append_right _ (List.mem_singleton_self _)

/-! ### Step start (R41) -/

/-- An answer to a request is about host memory, the interrupts and the windows of the service tiles alone. -/
theorem State.answerReq_frame (s : State) (k : Nat) (q : BitVec 512) (status : Nat) : ∃ h m v,
    s.answerReq k q status = { s with hostMem := h, msix := m, services := v } := by
  have hw : ∀ a l, ∃ h, s.hostWrite k a l = { s with hostMem := h } := fun a l => ⟨_, rfl⟩
  unfold State.answerReq State.putReply
  obtain ⟨h, he⟩ := hw (reqReply q + 0) (replyBytes (reqCode q) status (reqTag q) s.time)
  rw [he]
  exact ⟨_, _, _, rfl⟩

/-- Data, tiles and bands stand; nothing under way is dropped. -/
structure State.keepsTiles (s t : State) : Prop where
  stores : t.stores = s.stores
  tiles : t.tiles = s.tiles
  bands : t.bands = s.bands
  flight : s.flight ⊆ t.flight

namespace State.keepsTiles

variable {t u : State}

theorem refl (s : State) : s.keepsTiles s := ⟨rfl, rfl, rfl, List.Subset.refl _⟩

theorem trans (h : s.keepsTiles t) (h' : t.keepsTiles u) : s.keepsTiles u :=
  ⟨h'.stores.trans h.stores, h'.tiles.trans h.tiles, h'.bands.trans h.bands, List.Subset.trans h.flight h'.flight⟩

theorem post (h : s.keepsTiles t) (e : Event) : s.keepsTiles (t.post e) :=
  h.trans ⟨rfl, rfl, rfl, List.subset_append_left _ _⟩

theorem after (h : s.keepsTiles t) (m : Nat) (e : Event) : s.keepsTiles (t.after m e) :=
  h.trans ⟨rfl, rfl, rfl, List.Subset.refl _⟩

theorem answerReq (h : s.keepsTiles t) (m : Nat) (q : BitVec 512) (x : Nat) : s.keepsTiles (t.answerReq m q x) := by
  obtain ⟨m', x', v, he⟩ := t.answerReq_frame m q x
  rw [he]
  exact h.trans ⟨rfl, rfl, rfl, List.Subset.refl _⟩

theorem setLaunch (h : s.keepsTiles t) (l : Nat) (x : Option Launch) : s.keepsTiles (t.setLaunch l x) :=
  h.trans ⟨rfl, rfl, rfl, List.Subset.refl _⟩

theorem startReply (h : s.keepsTiles t) (l : Nat) : s.keepsTiles (t.startReply l) := by
  unfold State.startReply
  split
  · split
    · exact (h.answerReq ..).setLaunch ..
    · exact h
  · exact h

end State.keepsTiles

theorem State.bandDom_modDom {f : Dom → Dom} (hf : ∀ v, (f v).present = v.present ∧ (f v).band = v.band) (y : Nat) :
    (s.modDom T d f).bandDom n y = s.bandDom n y := by
  unfold State.bandDom
  congr 1
  funext d'
  rw [State.dom_modDom]
  split
  next h =>
    obtain ⟨rfl, rfl⟩ := h
    rw [(hf _).1, (hf _).2]
  next => rfl

/-- Takes back the contribution of a tile of band n. -/
def State.notReady (n : Nat) (s : State) (T : Nat) : State :=
  match s.bandDom n T with | some d => s.modDom T d fun v => { v with isReady := false } | none => s

theorem State.bandDom_notReady (y : Nat) : (s.notReady n T).bandDom n y = s.bandDom n y := by
  unfold State.notReady
  split
  · refine State.bandDom_modDom ?_ y
    exact fun _ => ⟨rfl, rfl⟩
  · rfl

theorem State.isReady_notReady {y : Nat} (h : (s.dom y d).isReady = false) : ((s.notReady n T).dom y d).isReady = false := by
  unfold State.notReady
  split
  · rw [State.dom_modDom]
    split
    · rfl
    · exact h
  · exact h

theorem State.isReady_notReady_self (h : s.bandDom n T = some d) : ((s.notReady n T).dom T d).isReady = false := by
  simp only [State.notReady, h, State.dom_modDom_self]

/-- With the step's start no tile of the band has contributed. -/
theorem State.isReady_foldl_notReady {l : List Nat} {y : Nat} (hy : y ∈ l) (h : s.bandDom n y = some d) :
    ((l.foldl (State.notReady n) s).dom y d).isReady = false := by
  refine foldl_establishes (fun u : State => u.bandDom n y = some d) (fun u => (u.dom y d).isReady = false) hy ?_ ?_ ?_ h
  · exact fun u x _ hu => (State.bandDom_notReady y).trans hu
  · exact fun u hu => State.isReady_notReady_self hu
  · exact fun u x _ _ hq => State.isReady_notReady hq

theorem State.foldl_notReady_stores (l : List Nat) (s : State) :
    (l.foldl (State.notReady n) s).stores = s.stores ∧ (l.foldl (State.notReady n) s).bands = s.bands := by
  refine Prod.mk.inj (foldl_keeps (fun u : State => (u.stores, u.bands)) _ (fun u x => ?_) l s)
  unfold State.notReady
  split <;> rfl

/-- A step starts: the band stands at it, no tile has contributed to the next one, and every row's station is told. -/
theorem State.beginStep_spec :
    let t := s.beginStep n b
    t.stores = s.stores ∧
    t.bandOf n = some { b with step := b.nextStep, started := true, startAt := s.mcycle, readyT := [], overrun := false } ∧
    ∀ x < b.height, t.tells (b.rowOf 0) (.station (b.rowOf x)) 0x13 (.start n b.nextStep) ∧
      ∀ y ∈ s.liveTiles b x, ∀ d', s.bandDom n y = some d' → (t.dom y d').isReady = false := by
  obtain ⟨t, ht⟩ : ∃ t, t = s.beginStep n b := ⟨_, rfl⟩
  rw [← ht]
  unfold State.beginStep at ht
  extract_lets nx b1 s1 s2 s3 s4 s5 at ht
  obtain ⟨hstores, hbands⟩ : s1.stores = s.stores ∧ s1.bands = (s.setBand n (some b1)).bands :=
    State.foldl_notReady_stores b1.tiles (s.setBand n (some b1))
  have h2 : s1.keepsTiles s2 := by
    refine foldl_rel State.keepsTiles State.keepsTiles.refl (fun _ _ _ => State.keepsTiles.trans) _ (fun u q => ?_) _ _
    exact ⟨rfl, rfl, rfl, List.Subset.refl _⟩
  have hs3 : s3 = s2.posted (b1.rows.map fun x => .meshRoute (.station (b1.rowOf 0))
      (ctrlMsg (b1.rowOf 0) (.station (b1.rowOf x)) 0x13 b1.pid (n % 2 ^ 16) (.start n nx))) := by
    refine (s2.foldl_posted _ (fun x => [_]) (fun w x => rfl) b1.rows).trans ?_
    rw [← List.map_eq_flatMap]
    rfl
  have h4 : s3.keepsTiles s4 := by
    simp only [s4]
    split
    · exact .refl _
    · exact (State.keepsTiles.refl _).after _ _
  have h5 : s3.keepsTiles s5 := by
    simp only [s5]
    split
    · split
      · exact h4.post _
      · split
        · exact h4.post _
        · exact h4
    · exact h4
  have ht : s3.keepsTiles t := by
    rw [ht]
    split
    · exact h5.startReply _
    · exact h5
  have h13 : s1.keepsTiles s3 := by
    rw [hs3]
    exact h2.trans ⟨rfl, rfl, rfl, List.subset_append_left _ _⟩
  refine ⟨(h13.trans ht).stores.trans hstores, ?_, fun x hx => ⟨State.tells_of_mem (pid := b1.pid) (arg := n % 2 ^ 16) (ht.flight ?_), fun y hy d' hd => ?_⟩⟩
  · rw [State.bandOf, (h13.trans ht).bands, hbands]
    exact Table.get_set_self none s.bands n (some b1)
  · rw [hs3]
    exact List.mem_append_right _ (List.mem_map.2 ⟨x, List.mem_range.2 hx, rfl⟩)
  · have hy' : y ∈ b1.tiles := List.mem_flatMap.2 ⟨x, List.mem_range.2 hx, (List.mem_filter.1 hy).1⟩
    rw [State.dom, State.tile, (h13.trans ht).tiles]
    exact State.isReady_foldl_notReady (s := s.setBand n (some b1)) hy' hd

section

variable (hb : s.bandOf n = some b) (hfin : b.finished = false) (hrep : b.replay = none) (hover : b.over_ = false)

include hb hfin hrep hover

theorem stepStart_waits (h : s.allReady b = false) : exec (.stepStart n) s = .next s := by
  simp only [exec_stepStart, execStepStart, hb, hfin, hrep, hover, h]
  simp

theorem stepStart_begins (h : s.allReady b = true) (hh : b.holding = false) (hp : s.bandPrimed n b = true)
    (hl : s.loadsOf b = []) (hg : b.started = true → b.startAt + b.gaitMin ≤ s.mcycle) :
    exec (.stepStart n) s = .next (s.beginStep n b) := by
  have hg' : ¬ (b.started ∧ s.mcycle < b.startAt + b.gaitMin) := fun x => absurd (hg x.1) (by omega)
  simp only [exec_stepStart, execStepStart, hb, hfin, hrep, hover, h, hh, hp, hl, if_neg hg']
  simp

end

end Sys2Proof.Machine
end

/-! ## Saddles at the start of a step -/

section

namespace Sys2Proof.Machine

open Bits

variable {s : State} {T d n st w : Nat} {b : Band}

/-! ### Saddles (R37, R321) -/

theorem lowMarker_of_zeros {l : List (Nat × List Byte)} (h : ∀ x ∈ l, ofBytes (x.2.take 8) = 0) : lowMarker l = 0 := by
  have hl : (l.map fun x => ofBytes (x.2.take 8)) = List.replicate l.length 0 := List.map_eq_replicate_iff.2 h
  have hmin : ∀ m, (List.replicate m 0).foldl Nat.min 0 = 0 := by
    intro m
    induction m with
    | zero => rfl
    | succ m ih => exact ih
  unfold lowMarker
  rw [hl]
  cases l with
  | nil => rfl
  | cons x l => exact hmin _

/-- Without SADDLE_INIT the initial saddles of a row are zeros, and nothing is read for them. -/
theorem State.rowSaddles_zeros (h : b.saddleInit = 0) (ts : List Nat) (e : Event) :
    s.rowSaddles n b ts st 0 e = (s, some (ts.map fun T => (T, List.replicate (s.saddleLen b st) 0))) := by
  unfold State.rowSaddles
  generalize hg : (fun acc T => _ : State × Option (List (Nat × List Byte)) → Nat → _) = g
  have step : ∀ l T, g (s, some l) T = (s, some (l ++ [(T, List.replicate (s.saddleLen b st) 0)])) := by
    intro l T
    simp only [← hg, State.entrySaddle, State.initialSaddle, h, if_true]
  have fold : ∀ l, ts.foldl g (s, some l) = (s, some (l ++ ts.map fun T => (T, List.replicate (s.saddleLen b st) 0))) := by
    induction ts with
    | nil => intro l; rw [List.foldl_nil, List.map_nil, List.append_nil]
    | cons T ts ih => intro l; rw [List.foldl_cons, step, ih, List.map_cons, List.append_assoc, List.singleton_append]
  exact fold []

/-- Saddles that go out one after another. -/
theorem State.foldl_sendSaddle (src : Node) (pid t : Nat) (l : List (Nat × List Byte)) :
    l.foldl (fun s x => s.sendSaddle src 0 pid x.1 t x.2) s = s.posted (l.flatMap fun x => s.saddleEvents src 0 pid x.1 t x.2) :=
  s.foldl_posted _ _ (fun w x => (s.posted w).sendSaddle_eq src 0 pid x.1 t x.2) l

/-- The tiles of band row 0 that have not received the saddle for stage st. -/
def State.unseated (s : State) (n : Nat) (b : Band) (st : Nat) : List Nat :=
  (s.liveTiles b 0).filter fun x => !s.hasSaddle n b x st st

/-- The messages of an initial delivery without SADDLE_INIT: zeros to the tiles that have none, and stage done to both
stations of the row. -/
def State.initialEvents (s : State) (n : Nat) (b : Band) (st : Nat) : List Event :=
  let k := b.rowOf 0
  ((s.unseated n b st).flatMap fun x => s.saddleEvents (.station k) 0 b.pid x st (List.replicate (s.saddleLen b st) 0)) ++
    (rowStations k).map fun i => .meshRoute (.station k)
      (ctrlMsg k (.station i) 0x13 b.pid (2 * 2 ^ 30 + n % 2 ^ 16) (.done n 0 st 0 0))

theorem initialSaddleDelivery_zeros (hb : s.bandOf n = some b) (hi : b.saddleInit = 0) (hn : b.nextStep = st)
    (hr : b.runAt st 0 = some (st, 0)) (hl : s.loadsOf b = []) :
    exec (.initialSaddleDelivery n st) s = .next (s.posted (s.initialEvents n b st)) := by
  have hlow : lowMarker ((s.liveTiles b 0).map fun T => (T, List.replicate (s.saddleLen b st) 0)) = 0 := by
    refine lowMarker_of_zeros fun x hx => ?_
    obtain ⟨T, -, rfl⟩ := List.mem_map.1 hx
    rw [List.take_replicate, ofBytes_replicate_zero]
  simp only [exec_initialSaddleDelivery, execInitialSaddleDelivery, hb, hl, hn, hr, State.rowSaddles_zeros hi, hlow]
  simp only [List.contains_nil, Bool.false_eq_true, if_false, List.isEmpty_nil, Bool.not_true, ne_eq, not_true_eq_false,
    or_self, State.foldl_sendSaddle]
  rw [State.foldl_posted _ _ (fun i => [Event.meshRoute (.station (b.rowOf 0))
    (ctrlMsg (b.rowOf 0) (.station i) 0x13 b.pid (2 * 2 ^ 30 + n % 2 ^ 16) (.done n 0 st 0 0))]) (fun w i => rfl),
    State.posted_posted, ← List.map_eq_flatMap, List.filter_map, List.flatMap_map]
  rfl

theorem initialSaddleDelivery_spec (hb : s.bandOf n = some b) (hi : b.saddleInit = 0) (hn : b.nextStep = st)
    (hr : b.runAt st 0 = some (st, 0)) (hl : s.loadsOf b = []) :
    completes (.initialSaddleDelivery n st) s fun t => s.sameMemory t ∧
      (∀ q ∈ [b.rowOf 0, 32 + b.rowOf 0], t.tells (b.rowOf 0) (.station q) 0x13 (.done n 0 st 0 0)) ∧
      ∀ y ∈ s.liveTiles b 0, s.hasSaddle n b y st st = false → (s.domOf y b.pid).isSome = true →
        ∃ m bytes i key t3, .meshRoute (.station (b.rowOf 0)) m ∈ t.flight ∧ m.typ = 0x19 ∧ m.dst = s.nodeOf y ∧
          m.pay = .bulk bytes key i t3 ∧ ∀ c ∈ bytes, c = 0 := by
  refine ⟨_, initialSaddleDelivery_zeros hb hi hn hr hl, s.sameMemory_posted _, fun q hq => ?_, fun y hy hs hd => ?_⟩
  · refine State.tells_of_mem (pid := b.pid) (arg := 2 * 2 ^ 30 + n % 2 ^ 16) ?_
    exact List.mem_append_right _ (List.mem_append_right _ (List.mem_map_of_mem hq))
  · have hlen : List.replicate (s.saddleLen b st) (0 : Byte) ≠ [] := by
      intro h
      rw [List.replicate_eq_nil_iff] at h
      unfold State.hasSaddle at hs
      split at hs
      · simp [h] at hs
      · cases hs
    obtain ⟨m, bytes, hm, ht, hdst, hpay, hbytes⟩ := s.mem_saddleEvents (src := .station (b.rowOf 0)) (sdom := 0) (t := st) hlen hd
    refine ⟨m, bytes, _, _, _, ?_, ht, hdst, hpay, fun c hc => List.eq_of_mem_replicate (hbytes c hc)⟩
    have hy' : y ∈ s.unseated n b st := List.mem_filter.2 ⟨hy, by rw [hs]; rfl⟩
    exact List.mem_append_right _ (List.mem_append_left _ (List.mem_flatMap.2 ⟨y, hy', hm⟩))

/-- The parked saddle of a single tile is what the history holds of its former wave (R37). -/
theorem parkedSaddleDelivery_reads (hb : s.bandOf n = some b) {y : Nat} {s1 : State} {bytes : List Byte}
    (hr : b.runAt b.nextStep 0 = some (st, w)) (hw : 0 < w)
    (hy : ((s.liveTiles b 0).filter fun x => !s.hasSaddle n b x b.nextStep st) = [y])
    (hg : s.gread (b.rowOf 0) b.pid true (b.histEntry (b.tau (w - 1) st) ((w - 1) % b.height) (y % 64 - b.col0) % 2 ^ 55)
      (s.saddleLen b st) = (s1, .ok bytes)) :
    exec (.parkedSaddleDelivery n) s = .next (s1.sendSaddle (.station (b.rowOf 0)) 0 b.pid y b.nextStep bytes) := by
  have hrow : s.rowSaddles n b [y] st w (.parkedSaddleDelivery n) = (s1, some [(y, bytes)]) := by
    simp only [State.rowSaddles, List.foldl_cons, List.foldl_nil, State.entrySaddle, if_neg hw.ne', State.readSaddle, hg,
      List.nil_append]
  simp only [exec_parkedSaddleDelivery, execParkedSaddleDelivery, hb, hr, if_neg hw.ne', hy, hrow, List.foldl_cons,
    List.foldl_nil]

/-! ### The obligation -/

/-- Settles O39: each event of a band's step by what it makes of the state. That STAGE, WAVE, STEP and MARKER stand per domain
is the model's choice (log 149). -/
theorem scrollSteps : Obligations.ScrollSteps := by
  unfold Obligations.ScrollSteps
  intro s T d n st w step b dm j k
  refine ⟨fun hb hf => ⟨?_, ?_, ?_⟩, fun hb => ⟨?_, ?_, ?_, ?_⟩⟩
  · exact fun hfin hrep hr hrun =>
      ⟨tileReady_contributes hb hf hfin hrep hr hrun, tileReady_waits hb hf hfin hrep hr hrun⟩
  · exact fun hp hs hrep hin hc r hr => stageEntry_spec hb hf hp hs hrep hin hc hr
  · exact fun hp hin hr => ⟨stageDone_unfinished hb hp, fun hdone hrep hc hgood hw =>
      ⟨_, stageDone_finishes hb hf hp hin hr hdone hc, finishStage_ends hrep hgood hw⟩⟩
  · intro i d' hd
    refine ⟨readyReduction_forwards hb hd, fun hr hi => ?_⟩
    intro b1
    have counts : ∀ t : State, s.readyAt (b.rowOf 0) n i T = t →
        (b.rowOf i = b.rowOf 0 → exec (.readyReduction n i T) s = .next t) ∧
          (Event.readyReduction (b.rowOf 0) n i T).run s = .next t := fun t ht =>
      ⟨fun h0 => by rw [exec_readyReduction_of_band hb, h0, ht], congrArg _ ht⟩
    have hcount := State.readyAt_counts hb hd hr hi
    exact ⟨fun hall => counts _ (hcount.trans (if_pos (State.allReady_iff.2 hall))),
      fun hsome => counts _ (hcount.trans (if_neg (by rw [State.allReady_eq_false.2 hsome]; exact Bool.false_ne_true)))⟩
  · exact fun hfin hrep hover => ⟨fun hw => stepStart_waits hb hfin hrep hover (State.allReady_eq_false.2 hw),
      fun hall hh hp hl hg => by
        obtain ⟨hstores, hband, htold⟩ := State.beginStep_spec (s := s) (n := n) (b := b)
        exact ⟨_, stepStart_begins hb hfin hrep hover (State.allReady_iff.2 hall) hh hp hl hg,
          State.sameMemory_of_stores hstores, ⟨_, hband, rfl, rfl, rfl, rfl⟩, htold⟩⟩
  · exact fun hi hn hr hl => initialSaddleDelivery_spec hb hi hn hr hl
  · exact fun y s1 bytes hr hw hy hg => parkedSaddleDelivery_reads hb hr hw hy hg

end Sys2Proof.Machine

end

/-! ## Answers and refusals of host requests -/

section

namespace Sys2Proof.Machine

open Bits

variable {s : State} {sv : Nat} {priv : Bool} {q : BitVec 512}

/-! ### Answers (R57) -/

theorem length_replyBytes (code status tag : Nat) (time : W64) : (replyBytes code status tag time).length = 32 :=
  length_toBytes _ _

@[simp] theorem State.msix_hostWrite (s : State) (k a : Nat) (l : List Byte) : (s.hostWrite k a l).msix = s.msix := rfl

/-- A range of host memory reads as it was written. -/
theorem State.hostRead_hostWrite_self (s : State) (k a : Nat) (l : List Byte) : (s.hostWrite k a l).hostRead k a l.length = l :=
  Memory.read_write_self _ _ l

theorem Memory.read_congr {m m' : List Host.Cell} {a n : Nat} (h : ∀ i < n, Memory.get m (a + i) = Memory.get m' (a + i)) :
    Memory.read m a n = Memory.read m' a n :=
  List.map_congr_left fun i hi => h i (List.mem_range.1 hi)

/-- A write leaves a range of host memory that it does not meet. -/
theorem State.hostRead_hostWrite_apart (s : State) {k a b n : Nat} {l : List Byte} (h : b + n ≤ a ∨ a + l.length ≤ b) :
    (s.hostWrite k a l).hostRead k b n = s.hostRead k b n :=
  Memory.read_congr fun i hi => Memory.get_write_out _ _ _ _ (by omega)

/-- What answering a request makes of host memory, interrupts and the window. -/
theorem State.answerReq_eq (s : State) (k : Nat) (q : BitVec 512) (status : Nat) : ∃ (u : State) (v : Tbl Service),
    u = s.hostWrite k (reqReply q) (replyBytes (reqCode q) status (reqTag q) s.time) ∧
      s.answerReq k q status = { u with msix := u.msix ++ [(k, reqMsix q)], services := v } := by
  unfold State.answerReq State.putReply
  rw [Nat.add_zero]
  generalize s.hostWrite k (reqReply q) (replyBytes (reqCode q) status (reqTag q) s.time) = u
  exact ⟨u, _, rfl, rfl⟩

@[simp] theorem State.hostRead_answered {u : State} (m : List (Nat × Nat)) (v : Tbl Service) (k a n : Nat) :
    ({ u with msix := m, services := v } : State).hostRead k a n = u.hostRead k a n := rfl

theorem State.hostRead_answerReq (s : State) (k : Nat) (q : BitVec 512) (status : Nat) :
    (s.answerReq k q status).hostRead k (reqReply q) 32 = replyBytes (reqCode q) status (reqTag q) s.time := by
  obtain ⟨u, v, hu, hv⟩ := s.answerReq_eq k q status
  have h := s.hostRead_hostWrite_self k (reqReply q) (replyBytes (reqCode q) status (reqTag q) s.time)
  rw [length_replyBytes] at h
  rw [hv, State.hostRead_answered, hu, h]

theorem State.hostRead_answerReq_apart (s : State) {k : Nat} {q : BitVec 512} {status a n : Nat}
    (h : a + n ≤ reqReply q ∨ reqReply q + 32 ≤ a) : (s.answerReq k q status).hostRead k a n = s.hostRead k a n := by
  obtain ⟨u, v, hu, hv⟩ := s.answerReq_eq k q status
  rw [hv, State.hostRead_answered, hu]
  exact s.hostRead_hostWrite_apart (by rw [length_replyBytes]; exact h)

@[simp] theorem State.msix_answerReq (s : State) (k : Nat) (q : BitVec 512) (status : Nat) :
    (s.answerReq k q status).msix = s.msix ++ [(k, reqMsix q)] := by
  obtain ⟨u, v, hu, hv⟩ := s.answerReq_eq k q status
  have h : u.msix = s.msix := by rw [hu, State.msix_hostWrite]
  rw [hv, ← h]

/-- The code and the tag of a record stand in its reply as they are. -/
theorem replyBytes_req (status : Nat) (time : W64) : replyBytes (reqCode q) status (reqTag q) time =
    toBytes 32 (reqCode q + status % 256 * 2 ^ 8 + reqTag q * 2 ^ 16 + time.toNat * 2 ^ 64) := by
  have hc : reqCode q % 256 = reqCode q := Nat.mod_eq_of_lt (q.extractLsb' 0 8).isLt
  have ht : reqTag q % 65536 = reqTag q := Nat.mod_eq_of_lt (q.extractLsb' 16 16).isLt
  rw [replyBytes, hc, ht]

/-! ### Refused records (R448) -/

/-- The record conditions of R448. -/
def reqRefused (q : BitVec 512) : Prop :=
  q.extractLsb' 8 8 ≠ 0 ∨ q.extractLsb' 48 16 ≠ 0 ∨ q.extractLsb' 288 224 ≠ 0 ∨ q.extractLsb' 64 5 ≠ 0 ∨
    reqCode q = 0 ∨ 8 < reqCode q ∨ (reqCode q ≠ 7 ∧ reqCode q ≠ 8 ∧ reqLen q ≠ 0) ∨
    ((reqCode q = 1 ∨ reqCode q = 2) ∧ reqImage q ≠ 0)

theorem fld_bne_zero {n : Nat} (w : BitVec n) (lo len : Nat) : (fld w lo len != 0) = true ↔ w.extractLsb' lo len ≠ 0 := by
  rw [bne_iff_ne, ne_eq, ne_eq, not_iff_not, ← BitVec.toNat_inj]
  rfl

theorem reqBad_iff : reqBad q = true ↔ reqRefused q := by
  simp only [reqBad, reqRefused, Bool.or_eq_true, ← fld_bne_zero, Bool.and_eq_true, beq_iff_eq, bne_iff_ne, decide_eq_true_eq,
    or_assoc, and_assoc]

/-- A refused record is answered with STATUS 1, whatever it asks for. -/
theorem State.request_refused (h : reqRefused q) (f : State → State) : s.request sv q f = s.answerReq sv q 1 :=
  if_pos (reqBad_iff.2 h)

/-- Any other record is carried out. -/
theorem State.request_taken (h : ¬ reqRefused q) (f : State → State) : s.request sv q f = f s :=
  if_neg fun hb => h (reqBad_iff.1 hb)

theorem request_refused_answers (h : reqRefused q) : ∀ r ∈ [Instr.launch sv priv q, .drain sv priv q, .freeze sv priv q,
    .restore sv priv q, .attest sv priv q, .handler sv priv q, .copyIn sv priv q, .copyOut sv priv q],
    exec r s = .next (s.answerReq sv q 1) := by
  intro r hr
  simp only [List.mem_cons, List.not_mem_nil, or_false] at hr
  rcases hr with rfl | rfl | rfl | rfl | rfl | rfl | rfl | rfl <;> exact congrArg _ (State.request_refused h _)

/-! ### Copies (R60) -/

theorem State.startCopy_eq (s : State) (sv : Nat) (priv inbound : Bool) (q : BitVec 512) : s.startCopy sv priv inbound q =
    if s.copyRange priv (reqPtr q) (reqLen q) = false ∨ reqImage q % 64 ≠ 0 then s.answerReq sv q 1
    else (s.setService sv { s.service sv with
      busy := some q, copy := some ⟨inbound, reqPtr q, reqImage q, reqLen q / 64, 0, [], none, false⟩ }).post
      (.pcieReadCompletion sv) := by
  unfold State.startCopy
  refine if_congr ?_ rfl rfl
  rw [Bool.or_eq_true, Bool.not_eq_true', bne_iff_ne]

/-- COPY_IN and COPY_OUT, by the direction of the copy. -/
theorem exec_copy (h : ¬ reqRefused q) : ∀ r ∈ [(Instr.copyIn sv priv q, true), (.copyOut sv priv q, false)],
    exec r.1 s = .next (s.startCopy sv priv r.2 q) := by
  intro r hr
  simp only [List.mem_cons, List.not_mem_nil, or_false] at hr
  rcases hr with rfl | rfl
  · exact congrArg _ (State.request_taken h _)
  · exact congrArg _ (State.request_taken h _)

end Sys2Proof.Machine

end

/-! ## Attestation and PCIe completions -/

section

namespace Sys2Proof.Machine

open Bits

variable {s : State} {sv : Nat} {priv : Bool} {q : BitVec 512}

/-! ### Attestation (R334) -/

/-- A part of a range of host memory that was just written. -/
theorem State.hostRead_hostWrite_part (s : State) {k a o n : Nat} {l : List Byte} (h : o + n ≤ l.length) :
    (s.hostWrite k a l).hostRead k (a + o) n = (l.drop o).take n := by
  apply List.ext_getElem
  · simp only [State.hostRead, Memory.read, List.length_map, List.length_range, List.length_take, List.length_drop]
    omega
  · intro i h1 h2
    have hi : i < n := by simpa [State.hostRead, Memory.read] using h1
    simp only [State.hostRead, State.hostWrite, Memory.read, List.getElem_map, List.getElem_range, List.getElem_take,
      List.getElem_drop]
    rw [show k * 2 ^ 64 + (a + o) + i = k * 2 ^ 64 + a + (o + i) from by omega]
    exact Memory.get_write_in _ _ _ _ (by omega)

theorem length_shaRound (v : List W64) (k w : W64) : (shaRound v k w).length = v.length := by
  unfold shaRound
  split <;> rfl

theorem length_shaRounds (ks w v : List W64) : (shaRounds ks w v).length = v.length := by
  induction ks generalizing w v with
  | nil => rfl
  | cons k ks ih => rw [shaRounds, ih, length_shaRound]

theorem length_shaBlock (h : List W64) (b : List Byte) : (shaBlock h b).length = h.length := by
  rw [shaBlock, List.length_zipWith, length_shaRounds, Nat.min_self]

/-- A digest has 64 bytes. -/
theorem length_sha512 (b : List Byte) : (sha512 b).length = 64 := by
  have h : ((chunks 128 (shaPad b).length (shaPad b)).foldl shaBlock shaInit).length = 8 :=
    foldl_keeps List.length shaBlock length_shaBlock _ _
  rw [sha512, List.length_flatMap]
  simp [h]

/-- The measurements of a report. -/
def State.measBytes (s : State) (sv : Nat) : List Byte :=
  (List.range 8).flatMap fun i => toBytes 64 (Table.get 0 (s.service sv).meas i).toNat

theorem State.length_measBytes (s : State) (sv : Nat) : (s.measBytes sv).length = 512 := by
  rw [State.measBytes, List.length_flatMap]
  simp

/-- The first bytes of a report: its version, the time, the nonce and the digest of the key. -/
def State.reportHead (s : State) (nonce : List Byte) : List Byte :=
  toBytes 8 1 ++ toBytes 8 s.time.toNat ++ nonce ++ sha512 Config.publicKey

theorem State.length_reportHead {nonce : List Byte} (h : nonce.length = 64) : (s.reportHead nonce).length = 144 := by
  simp only [State.reportHead, List.length_append, length_toBytes, length_sha512, h]

/-- A report begins with its head and the measurements, and has 1,536 bytes. -/
theorem State.report_eq (s : State) (sv : Nat) (nonce : List Byte) (h : nonce.length = 64) :
    ∃ rest, s.report sv nonce = s.reportHead nonce ++ s.measBytes sv ++ rest ∧ (s.report sv nonce).length = 1536 := by
  refine ⟨toBytes 8 Config.serial.toNat ++ List.replicate 360 0 ++
    (Config.signature (s.reportBody sv nonce) ++ List.replicate 512 0).take 512, ?_, ?_⟩
  · simp only [State.report, State.reportBody, State.reportHead, State.measBytes, List.append_assoc]
  · have hm := s.length_measBytes sv
    unfold State.measBytes at hm
    simp only [State.report, State.reportBody, List.length_append, List.length_take, length_toBytes, List.length_replicate,
      length_sha512, h, hm]
    omega

theorem attest_reports (hq : ¬ reqRefused q) {bytes : List Byte} (hr : s.readable (reqPtr q) 64 = true)
    (hl : s.look (reqPtr q) 64 0x12 = .ok bytes) (hb : bytes.length = 64)
    (hd : reqImage q + 1536 ≤ reqReply q ∨ reqReply q + 32 ≤ reqImage q) :
    completes (.attest sv priv q) s fun t => t.hostRead sv (reqImage q) 144 = s.reportHead bytes ∧
      t.hostRead sv (reqImage q + 144) 512 = s.measBytes sv ∧ (sv, reqMsix q) ∈ t.msix := by
  obtain ⟨rest, hrep, hlen⟩ := s.report_eq sv bytes hb
  have hh := s.length_reportHead hb
  have hm := s.length_measBytes sv
  refine ⟨(s.hostWrite sv (reqImage q) (s.report sv bytes)).answerReq sv q 0, ?_, ?_, ?_, ?_⟩
  · rw [exec_attest, execAttest, State.request_taken hq]
    simp [hr, hl]
  · have hread := s.hostRead_hostWrite_part (k := sv) (a := reqImage q) (o := 0) (n := 144) (l := s.report sv bytes) (by omega)
    rw [Nat.add_zero] at hread
    rw [State.hostRead_answerReq_apart _ (by omega), hread, hrep, List.drop_zero, List.append_assoc, List.take_left' hh]
  · rw [State.hostRead_answerReq_apart _ (by omega), State.hostRead_hostWrite_part _ (by omega), hrep, List.append_assoc,
      List.drop_left' hh, List.take_left' hm]
  · rw [State.msix_answerReq]
    exact List.mem_append_right _ (List.mem_singleton_self _)

theorem attest_unreadable (hq : ¬ reqRefused q) (hr : s.readable (reqPtr q) 64 = false) :
    exec (.attest sv priv q) s = .next (s.answerReq sv q 0x0A) := by
  rw [exec_attest, execAttest, State.request_taken hq]
  simp [hr]

/-! ### PCIe completions (R60, R70) -/

section

variable {c : Copy}

theorem State.service_setService (s : State) (k : Nat) (v : Service) : (s.setService k v).service k = v :=
  Table.get_set_self _ _ _ _

theorem State.service_modService (s : State) (k : Nat) (f : Service → Service) : (s.modService k f).service k = f (s.service k) :=
  s.service_setService k _

theorem State.service_post (s : State) (e : Event) (k : Nat) : (s.post e).service k = s.service k := rfl
theorem State.service_send (s : State) (m : Msg) (k : Nat) : (s.send m).service k = s.service k := rfl
theorem State.service_setRegion (s : State) (n : Nat) (v : Option Region) (k : Nat) : (s.setRegion n v).service k = s.service k := rfl

/-- With no read under way, a completion carries the copy in progress on. -/
theorem pcieReadCompletion_copy (hr : (s.service sv).reads = []) (hb : (s.service sv).busy = some q)
    (hc : (s.service sv).copy = some c) : exec (.pcieReadCompletion sv) s = .next (s.copyStep sv q c) := by
  simp only [exec_pcieReadCompletion, execPcieReadCompletion, hr, hb, hc]

theorem pcieReadCompletion_idle (hr : (s.service sv).reads = []) (hb : (s.service sv).busy = none) :
    exec (.pcieReadCompletion sv) s = .next s := by
  simp only [exec_pcieReadCompletion, execPcieReadCompletion, hr, hb]

/-- The oldest read of the service tile is completed first. -/
theorem pcieReadCompletion_read {m : Msg} {rest : List Msg} (hr : (s.service sv).reads = m :: rest) :
    completes (.pcieReadCompletion sv) s fun t => (t.service sv).reads = rest ∧ s.sameMemory t := by
  have hframe : ∀ u : State, ∃ w, u.completeRead sv m = u.posted w := by
    intro u
    unfold State.completeRead
    split
    · unfold State.answer
      split
      · exact ⟨[], u.posted_nil.symm⟩
      · exact ⟨_, rfl⟩
    · exact ⟨[], u.posted_nil.symm⟩
  obtain ⟨w, hw⟩ := hframe (s.setService sv { s.service sv with reads := rest })
  refine ⟨_, ?_, ?_, State.sameMemory_of_stores (t := (s.setService sv { s.service sv with reads := rest }).posted w) rfl⟩
  · simp only [exec_pcieReadCompletion, execPcieReadCompletion, hr]
    exact congrArg _ hw
  · exact congrArg Service.reads (s.service_setService sv _)

theorem State.copyStep_lost (hl : c.lost.isSome = true) : s.copyStep sv q c =
    (s.setService sv { s.service sv with busy := none, copy := none }).answerReq sv q 0x12 := by
  obtain ⟨x, hx⟩ := Option.isSome_iff_exists.1 hl
  simp only [State.copyStep, hx]
  rfl

section

variable (hl : c.lost = none)

include hl

theorem State.copyStep_away (ha : c.away = true) : s.copyStep sv q c = s := by
  simp only [State.copyStep, hl, ha, if_true]

variable (ha : c.away = false)

include ha

theorem State.copyStep_done (hn : c.units ≤ c.next) : s.copyStep sv q c =
    (s.setService sv { s.service sv with busy := none, copy := none }).answerReq sv q 0 := by
  simp only [State.copyStep, hl, ha, Bool.false_eq_true, if_false, if_pos hn]
  rfl

variable (hn : c.next < c.units)

include hn

/-- A unit of another module goes to it as a device-window access (R78). -/
theorem State.copyStep_abroad (hm : moduleOf (c.dev + 64 * c.next) ≠ s.module.toNat) : s.copyStep sv q c =
    (s.modService sv fun v => { v with copy := some { c with away := true } }).send
      (s.unitMsg sv c (if c.inbound then some (s.hostRead sv (c.host + 64 * c.next) 64) else none)) := by
  simp only [State.copyStep, hl, ha, Bool.false_eq_true, if_false, if_neg (Nat.not_le.2 hn), if_pos hm]

variable (hm : moduleOf (c.dev + 64 * c.next) = s.module.toNat)

include hm

theorem State.copyStep_in (hi : c.inbound = true) {s1 : State}
    (hu : s.unitIn (c.dev + 64 * c.next) (s.hostRead sv (c.host + 64 * c.next) 64) = (s1, true)) : s.copyStep sv q c =
    (s1.modService sv fun v => { v with copy := some { c with next := c.next + 1 } }).post (.pcieReadCompletion sv) := by
  simp only [State.copyStep, hl, ha, Bool.false_eq_true, if_false, if_neg (Nat.not_le.2 hn), if_neg (not_not_intro hm), hi,
    if_true, hu]

theorem State.copyStep_out (hi : c.inbound = false) {s1 : State} {l : List Byte}
    (hu : s.unitOut (c.dev + 64 * c.next) = (s1, .ok l)) : s.copyStep sv q c =
    ((s1.hostWrite sv (c.host + 64 * c.next) l).modService sv fun v =>
      { v with copy := some { c with next := c.next + 1 } }).post (.pcieReadCompletion sv) := by
  simp only [State.copyStep, hl, ha, Bool.false_eq_true, if_false, if_neg (Nat.not_le.2 hn), if_neg (not_not_intro hm), hi, hu]

theorem State.copyStep_outLost (hi : c.inbound = false) {s1 : State}
    (hu : s.unitOut (c.dev + 64 * c.next) = (s1, .lost)) : s.copyStep sv q c =
    (s1.modService sv fun v => { v with copy := some { c with lost := some c.next } }).post (.pcieReadCompletion sv) := by
  simp only [State.copyStep, hl, ha, Bool.false_eq_true, if_false, if_neg (Nat.not_le.2 hn), if_neg (not_not_intro hm), hi, hu]

end

/-! A unit in a local store. -/

variable {T a pa : Nat}

theorem State.unitIn_store (h : placeOf pa = .store T a) (l : List Byte) : s.unitIn pa l = (s.lsStore T a l, true) := by
  simp only [State.unitIn, h]

theorem State.unitOut_store_lost (h : placeOf pa = .store T a) (hb : s.lsBad T a 64 = true) : s.unitOut pa = (s, .lost) := by
  simp only [State.unitOut, h, if_pos hb]

theorem State.unitOut_store (h : placeOf pa = .store T a) (hb : s.lsBad T a 64 = false) :
    s.unitOut pa = (s.scrub (inStore T a 64) false, .ok (s.lsRead T a 64)) := by
  simp only [State.unitOut, h, hb, Bool.false_eq_true, if_false]

theorem State.stores_scrub (s : State) (f : Nat → Bool) (r : Bool) : (s.scrub f r).stores = s.stores := by
  unfold State.scrub
  split <;> rfl

end

end Sys2Proof.Machine

end

/-! ## Copies of local stores, DRAIN and FREEZE -/

section

namespace Sys2Proof.Table

/-- A key that does not read as the default is listed with what it reads. -/
theorem mem_of_get {α : Type} (d : α) {t : Tbl α} {k : Nat} (h : get d t k ≠ d) : (k, get d t k) ∈ t := by
  induction t with
  | nil => exact absurd rfl h
  | cons e t ih =>
    obtain ⟨k', v'⟩ := e
    by_cases hk : k' = k
    · subst hk
      rw [get, if_pos rfl]
      exact List.mem_cons_self
    · rw [get, if_neg hk] at h ⊢
      exact List.mem_cons_of_mem _ (ih h)

end Sys2Proof.Table

namespace Sys2Proof.Machine

open Bits

variable {s : State} {sv : Nat} {priv : Bool} {q : BitVec 512}

/-! ### Units of a copy in a local store (R60) -/

theorem lsAddr_add (T a k : Nat) : lsAddr T (a + k) = lsAddr T a + k := (Nat.add_assoc _ _ _).symm

/-- A byte of local store that was just written. -/
theorem State.byte_lsStore_in (s : State) (T a : Nat) (l : List Byte) {k : Nat} (hk : k < l.length) :
    (s.lsStore T a l).byte (lsAddr T (a + k)) = l.getD k 0 := by
  rw [lsAddr_add, State.byte, State.lsStore, State.freshWords_mem, List.getD_eq_getElem _ _ hk]
  exact s.byte_writeMem_in (lsAddr T a) k l hk

theorem State.length_hostRead (s : State) (k a n : Nat) : (s.hostRead k a n).length = n := by
  rw [State.hostRead, Memory.read, List.length_map, List.length_range]

/-- A copy has moved a unit and goes on. -/
def State.copyMoved (t : State) (sv : Nat) (c : Copy) : Prop :=
  (t.service sv).copy = some { c with next := c.next + 1 } ∧ .pcieReadCompletion sv ∈ t.flight

theorem State.copyMoved_next (u : State) (sv : Nat) (c : Copy) : State.copyMoved
    ((u.modService sv fun v => { v with copy := some { c with next := c.next + 1 } }).post (.pcieReadCompletion sv)) sv c := by
  refine ⟨?_, List.mem_append_right _ (List.mem_singleton_self _)⟩
  rw [State.service_post, State.service_modService]

section

variable {c : Copy} {T a : Nat} (hr : (s.service sv).reads = []) (hb : (s.service sv).busy = some q)
  (hc : (s.service sv).copy = some c) (hl : c.lost = none) (ha : c.away = false) (hn : c.next < c.units)

include hr hb hc hl ha hn

/-- A unit of another module. -/
theorem pcieReadCompletion_abroad (hm : moduleOf (c.dev + 64 * c.next) ≠ s.module.toNat) :
    completes (.pcieReadCompletion sv) s fun t => (t.service sv).copy = some { c with away := true } ∧
      .meshRoute (.service sv) (s.unitMsg sv c (if c.inbound = true then some (s.hostRead sv (c.host + 64 * c.next) 64)
        else none)) ∈ t.flight := by
  refine ⟨_, (pcieReadCompletion_copy hr hb hc).trans (congrArg _ (State.copyStep_abroad hl ha hn hm)), ?_,
    List.mem_append_right _ (List.mem_singleton_self _)⟩
  rw [State.service_send, State.service_modService]

variable (hm : moduleOf (c.dev + 64 * c.next) = s.module.toNat) (hp : placeOf (c.dev + 64 * c.next) = .store T a)

include hm hp

theorem pcieReadCompletion_in (hi : c.inbound = true) :
    completes (.pcieReadCompletion sv) s fun t => t.copyMoved sv c ∧
      ∀ k < 64, t.byte (lsAddr T (a + k)) = (s.hostRead sv (c.host + 64 * c.next) 64).getD k 0 := by
  refine ⟨_, (pcieReadCompletion_copy hr hb hc).trans (congrArg _ (State.copyStep_in hl ha hn hm hi (State.unitIn_store hp _))),
    State.copyMoved_next _ sv c, fun k hk => ?_⟩
  exact s.byte_lsStore_in T a _ (by rwa [State.length_hostRead])

theorem pcieReadCompletion_out (hi : c.inbound = false) (hbad : s.lsBad T a 64 = false) :
    completes (.pcieReadCompletion sv) s fun t => t.copyMoved sv c ∧ s.sameMemory t ∧
      t.hostRead sv (c.host + 64 * c.next) 64 = s.lsRead T a 64 := by
  refine ⟨_, (pcieReadCompletion_copy hr hb hc).trans (congrArg _ (State.copyStep_out hl ha hn hm hi (State.unitOut_store hp hbad))),
    State.copyMoved_next _ sv c, State.sameMemory_of_stores ?_, ?_⟩
  · exact s.stores_scrub (inStore T a 64) false
  · have hlen : (s.lsRead T a 64).length = 64 := by
      rw [State.lsRead, State.readMem, Memory.read, List.length_map, List.length_range]
    have h := (s.scrub (inStore T a 64) false).hostRead_hostWrite_self sv (c.host + 64 * c.next) (s.lsRead T a 64)
    rw [hlen] at h
    exact h

theorem pcieReadCompletion_outLost (hi : c.inbound = false) (hbad : s.lsBad T a 64 = true) :
    exec (.pcieReadCompletion sv) s = .next ((s.setService sv { s.service sv with copy := some { c with lost := some c.next } }).post
      (.pcieReadCompletion sv)) :=
  (pcieReadCompletion_copy hr hb hc).trans
    (congrArg _ (State.copyStep_outLost hl ha hn hm hi (State.unitOut_store_lost hp hbad)))

end

/-! ### The bands of a region -/

theorem State.mem_bands {m : Nat} {b : Band} (h : s.bandOf m = some b) : (m, some b) ∈ s.bands := by
  rw [← h]
  exact Table.mem_of_get none (by rw [State.bandOf] at h; rw [h]; exact Option.some_ne_none b)

theorem State.mem_regionBands {m n : Nat} {b : Band} (h : s.bandOf m = some b) (hn : b.region = n) :
    (m, b) ∈ s.regionBands n := by
  refine List.mem_filterMap.2 ⟨_, State.mem_bands h, ?_⟩
  exact if_pos hn

/-- A tile of band n sees again whether it is ready. -/
def State.readyAgain (n : Nat) (s : State) (T : Nat) : State :=
  match s.bandDom n T with | some d => s.post (.tileReady T d) | none => s

/-- Tiles that see again whether they are ready, and the band's controller. -/
theorem State.recheck_eq (s : State) (n : Nat) (b : Band) : ∃ w, s.recheck n b = s.posted w ∧ .stepStart n ∈ w := by
  have hstep : ∀ w T, (s.posted w).readyAgain n T = (s.posted w).posted ((s.bandDom n T).toList.map fun d => .tileReady T d) := by
    intro w T
    have hd : (s.posted w).bandDom n T = s.bandDom n T := rfl
    unfold State.readyAgain
    rw [hd]
    cases s.bandDom n T with
    | none => exact (State.posted_nil _).symm
    | some d => rfl
  refine ⟨_, (congrArg (State.kick · n) (s.foldl_posted (State.readyAgain n) _ hstep b.tiles)).trans (s.posted_posted _ [_]), ?_⟩
  exact List.mem_append_right _ (List.mem_singleton_self _)

theorem State.bandOf_setBand (s : State) (n m : Nat) (v : Option Band) :
    (s.setBand n v).bandOf m = if m = n then v else s.bandOf m :=
  Table.get_set none s.bands n m v

theorem State.regionOf_setRegion_self (s : State) (n : Nat) (v : Option Region) : (s.setRegion n v).regionOf n = v :=
  Table.get_set_self none s.regions n v

/-- A change made band by band, each time with the controller's step start on its way: regions and windows stand, and each
band has been changed so. -/
theorem foldl_bands {f : Band → Band} {P : Band → Prop} (hP : ∀ b, P (f b)) {g : State → Nat × Band → State}
    (hg : ∀ u e, ∃ w, g u e = (u.setBand e.1 (some (f e.2))).posted w ∧ .stepStart e.1 ∈ w) (l : List (Nat × Band)) (u : State) :
    (l.foldl g u).regions = u.regions ∧ (l.foldl g u).services = u.services ∧ ∀ m b, (m, b) ∈ l →
      .stepStart m ∈ (l.foldl g u).flight ∧ ∃ b', (l.foldl g u).bandOf m = some b' ∧ P b' := by
  have hkeep : (l.foldl g u).regions = u.regions ∧ (l.foldl g u).services = u.services := by
    refine Prod.mk.inj (foldl_keeps (fun u : State => (u.regions, u.services)) g (fun u e => ?_) l u)
    obtain ⟨w, hw, -⟩ := hg u e
    rw [hw]
    rfl
  refine ⟨hkeep.1, hkeep.2, fun m b hm => ?_⟩
  have hband : ∀ (u : State) e w x, ((u.setBand e (some x)).posted w).bandOf m = if m = e then some x else u.bandOf m :=
    fun u e _ x => u.bandOf_setBand e m (some x)
  refine foldl_establishes (fun _ => True) (fun u : State => .stepStart m ∈ u.flight ∧ ∃ b', u.bandOf m = some b' ∧ P b') hm
    (fun _ _ _ _ => trivial) (fun u _ => ?_) (fun u e _ _ hq => ?_) trivial
  · obtain ⟨w, hw, hs⟩ := hg u (m, b)
    rw [hw]
    exact ⟨List.mem_append_right _ hs, f b, (hband ..).trans (if_pos rfl), hP b⟩
  · obtain ⟨w, hw, -⟩ := hg u e
    obtain ⟨hs, b', hb', hb⟩ := hq
    rw [hw]
    refine ⟨List.mem_append_left _ hs, ?_⟩
    by_cases h : m = e.1
    · exact ⟨f e.2, (hband ..).trans (if_pos h), hP _⟩
    · exact ⟨b', ((hband ..).trans (if_neg h)).trans hb', hb⟩

/-! ### DRAIN (R46) -/

section

variable {n : Nat} {x : Region}

theorem drain_unplaced (hq : ¬ reqRefused q) (h : s.regionAt (reqPtr q) = none) :
    exec (.drain sv priv q) s = .next (s.answerReq sv q 0x0A) := by
  rw [exec_drain, execDrain, State.request_taken hq]
  simp only [h]

theorem drain_busy (hq : ¬ reqRefused q) (h : s.regionAt (reqPtr q) = some (n, x)) (hx : x.phase ≠ 0) :
    exec (.drain sv priv q) s = .next (s.answerReq sv q 0x0D) := by
  rw [exec_drain, execDrain, State.request_taken hq]
  simp only [h, if_pos hx]

theorem drain_starts (hq : ¬ reqRefused q) (h : s.regionAt (reqPtr q) = some (n, x)) (hx : x.phase = 0) :
    exec (.drain sv priv q) s = .next ((s.modService sv fun v => { v with busy := some q }).startDrain n (some (sv, q))) := by
  rw [exec_drain, execDrain, State.request_taken hq]
  simp only [h, if_neg (not_not_intro hx)]

/-- A drain that begins: the region is being drained, and every band of it stops at its next first wave out. -/
theorem State.startDrain_spec (s : State) (hx : s.regionOf n = some x) (req : Option (Nat × BitVec 512)) :
    (s.startDrain n req).regionOf n = some { x with phase := 1, req := req } ∧ (s.startDrain n req).services = s.services ∧
      ∀ m b, s.bandOf m = some b → b.region = n →
        .stepStart m ∈ (s.startDrain n req).flight ∧ ∃ b', (s.startDrain n req).bandOf m = some b' ∧ b'.stopWave.isSome = true := by
  have hg : ∀ (u : State) (e : Nat × Band), ∃ w,
      (u.setBand e.1 (some { e.2 with stopWave := some e.2.firstOut })).recheck e.1 e.2 =
        (u.setBand e.1 (some { e.2 with stopWave := some e.2.firstOut })).posted w ∧ .stepStart e.1 ∈ w :=
    fun u e => State.recheck_eq _ e.1 e.2
  unfold State.startDrain
  simp only [hx]
  generalize hs1 : s.setRegion n (some { x with phase := 1, req := req }) = s1
  obtain ⟨hreg, hserv, hbands⟩ := foldl_bands (f := fun b => { b with stopWave := some b.firstOut })
    (P := fun b => b.stopWave.isSome = true) (fun _ => rfl) hg (s1.regionBands n) s1
  generalize (s1.regionBands n).foldl _ s1 = s2 at hreg hserv hbands ⊢
  have hfinal : ∀ t : State, (∃ w, t = s2.posted w) → t.regionOf n = some { x with phase := 1, req := req } ∧
      t.services = s.services ∧ ∀ m b, s.bandOf m = some b → b.region = n →
        .stepStart m ∈ t.flight ∧ ∃ b', t.bandOf m = some b' ∧ b'.stopWave.isSome = true := by
    rintro t ⟨w, rfl⟩
    refine ⟨?_, ?_, fun m b hb hn => ?_⟩
    · show Table.get none s2.regions n = _
      rw [hreg, ← hs1]
      exact s.regionOf_setRegion_self n _
    · rw [← hs1] at hserv
      exact hserv
    · obtain ⟨hs, hb'⟩ := hbands m b (State.mem_regionBands (by rw [← hs1]; exact hb) hn)
      exact ⟨List.mem_append_left _ hs, hb'⟩
  split
  · exact hfinal _ ⟨[_], rfl⟩
  · exact hfinal _ ⟨[], s2.posted_nil.symm⟩

theorem drain_spec (hq : ¬ reqRefused q) (h : s.regionAt (reqPtr q) = some (n, x)) (hr : s.regionOf n = some x)
    (hx : x.phase = 0) : completes (.drain sv priv q) s fun t =>
      t.regionOf n = some { x with phase := 1, req := some (sv, q) } ∧ (t.service sv).busy = some q ∧
        ∀ m b, s.bandOf m = some b → b.region = n → .stepStart m ∈ t.flight ∧
          ∃ b', t.bandOf m = some b' ∧ b'.stopWave.isSome = true := by
  obtain ⟨hreg, hserv, hbands⟩ :=
    (s.modService sv fun v => { v with busy := some q }).startDrain_spec (n := n) hr (some (sv, q))
  refine ⟨_, drain_starts hq h hx, hreg, ?_, hbands⟩
  rw [State.service, hserv]
  exact congrArg Service.busy (s.service_modService sv _)

/-! ### FREEZE (R48, R359) -/

theorem freeze_user (hq : ¬ reqRefused q) (hp : priv = false) : exec (.freeze sv priv q) s = .next (s.answerReq sv q 6) := by
  rw [exec_freeze, execFreeze, State.request_taken hq]
  simp [hp]

variable (hq : ¬ reqRefused q) (hp : priv = true)

include hq hp

theorem freeze_unplaced (h : s.regionAt (reqPtr q) = none) : exec (.freeze sv priv q) s = .next (s.answerReq sv q 0x0A) := by
  rw [exec_freeze, execFreeze, State.request_taken hq]
  simp [hp, h]

variable (h : s.regionAt (reqPtr q) = some (n, x))

include h

theorem freeze_refused (hc : x.rcb.getLsbD 44 = false) : exec (.freeze sv priv q) s = .next (s.answerReq sv q 6) := by
  rw [exec_freeze, execFreeze, State.request_taken hq]
  simp only [hp, h, bit, hc, Bool.not_true, Bool.not_false, Bool.false_eq_true, if_true, if_false]

variable (hc : x.rcb.getLsbD 44 = true)

include hc

theorem freeze_busy (hx : x.phase ≠ 0) : exec (.freeze sv priv q) s = .next (s.answerReq sv q 0x0D) := by
  rw [exec_freeze, execFreeze, State.request_taken hq]
  simp [hp, h, bit, hc, hx]

/-- The region is to be frozen, and every band of it is held at its next boundary. -/
theorem freeze_spec (hx : x.phase = 0) (hb : ∃ m b, s.bandOf m = some b ∧ b.region = n) :
    completes (.freeze sv priv q) s fun t => t.regionOf n = some { x with phase := 2, req := some (sv, q), limit := 0 } ∧
      (t.service sv).busy = some q ∧ ∀ m b, s.bandOf m = some b → b.region = n → .stepStart m ∈ t.flight ∧
        ∃ b', t.bandOf m = some b' ∧ b'.holding = true := by
  obtain ⟨s1, hs1⟩ : ∃ s1, s1 = (s.modService sv fun v => { v with busy := some q }).setRegion n
    (some { x with phase := 2, req := some (sv, q), limit := 0 }) := ⟨_, rfl⟩
  have hmem : ∀ m b, s.bandOf m = some b → b.region = n → (m, b) ∈ s1.regionBands n := fun m b hb hn =>
    State.mem_regionBands (by rw [hs1]; exact hb) hn
  have hsome : (s1.regionBands n).isEmpty = false := by
    obtain ⟨m, b, hb, hn⟩ := hb
    exact List.isEmpty_eq_false_iff.2 (List.ne_nil_of_mem (hmem m b hb hn))
  obtain ⟨hreg, hserv, hbands⟩ := foldl_bands (f := fun b => { b with holding := true }) (P := fun b => b.holding = true)
    (g := fun u e => (u.setBand e.1 (some { e.2 with holding := true })).kick e.1) (fun _ => rfl)
    (fun u e => ⟨[.stepStart e.1], rfl, List.mem_singleton_self _⟩) (s1.regionBands n) s1
  refine ⟨_, ?_, ?_, ?_, fun m b hb hn => hbands m b (hmem m b hb hn)⟩
  · rw [exec_freeze, execFreeze, State.request_taken hq]
    simp only [hp, h, bit, hc, ← hs1, hsome, hx, Bool.not_true, Bool.false_eq_true, if_false, ne_eq, not_true_eq_false]
  · rw [State.regionOf, hreg, hs1]
    exact State.regionOf_setRegion_self _ n _
  · rw [State.service, hserv, hs1]
    exact congrArg Service.busy ((State.service_setRegion _ n _ sv).trans (s.service_modService sv _))

end

end Sys2Proof.Machine

end

/-! ## HANDLER -/

section

namespace Sys2Proof.Machine

open Bits

variable {s : State} {sv : Nat} {priv : Bool} {q : BitVec 512}

/-! ### HANDLER (R348) -/

/-- Gives the band's domain on a tile of quadrant k a handler. -/
def State.takeHandler (off k n : Nat) (s : State) (T : Nat) : State :=
  match s.bandDom n T with
  | some d => if quadrantOf (s.nodeOf T) = k then s.modDom T d fun v => { v with trapBase := BitVec.ofNat 32 off } else s
  | none => s

section

variable {off k n T d : Nat}

/-- A handler concerns tiles alone. -/
theorem State.takeHandler_frame (s : State) (off k n T : Nat) : ∃ u, s.takeHandler off k n T = { s with tiles := u } := by
  unfold State.takeHandler
  split
  · split
    · exact ⟨_, rfl⟩
    · exact ⟨_, rfl⟩
  · exact ⟨_, rfl⟩

theorem State.bandDom_takeHandler (s : State) (off k n T m y : Nat) : (s.takeHandler off k n T).bandDom m y = s.bandDom m y := by
  unfold State.takeHandler
  split
  · split
    · refine State.bandDom_modDom ?_ y
      exact fun _ => ⟨rfl, rfl⟩
    · rfl
  · rfl

theorem State.trapBase_takeHandler_self (hd : s.bandDom n T = some d) (hk : quadrantOf (s.nodeOf T) = k) :
    ((s.takeHandler off k n T).dom T d).trapBase = BitVec.ofNat 32 off := by
  simp only [State.takeHandler, hd, if_pos hk, State.dom_modDom_self]

theorem State.trapBase_takeHandler {y : Nat} (h : (s.dom T d).trapBase = BitVec.ofNat 32 off) :
    ((s.takeHandler off k n y).dom T d).trapBase = BitVec.ofNat 32 off := by
  unfold State.takeHandler
  split
  · split
    · rw [State.dom_modDom]
      split
      · rfl
      · exact h
    · exact h
  · exact h

/-- The bands of an RCB. -/
def State.bandsAt (s : State) (a : Nat) : List (Nat × Band) :=
  s.bands.filterMap fun e => match e.2 with | some b => if b.addr = a then some (e.1, b) else none | none => none

theorem State.mem_bandsAt {a m : Nat} {b : Band} (h : s.bandOf m = some b) (ha : b.addr = a) : (m, b) ∈ s.bandsAt a := by
  refine List.mem_filterMap.2 ⟨_, State.mem_bands h, ?_⟩
  exact if_pos ha

theorem State.setHandler_eq (s : State) (a off k : Nat) : s.setHandler a off k =
    (s.bandsAt a).foldl (fun s e => e.2.tiles.foldl (State.takeHandler off k e.1) s) s := rfl

theorem State.setHandler_frame (s : State) (a off k : Nat) : ∃ u, s.setHandler a off k = { s with tiles := u } := by
  have ht : ∀ (s : State) (e : Nat × Band), ∃ u, e.2.tiles.foldl (State.takeHandler off k e.1) s = { s with tiles := u } := fun s e =>
    foldl_rel (fun s t : State => ∃ u, t = { s with tiles := u }) (fun s => ⟨s.tiles, rfl⟩)
      (fun s t u ⟨x, hx⟩ ⟨y, hy⟩ => ⟨y, by rw [hy, hx]⟩) _ (fun s T => s.takeHandler_frame off k e.1 T) e.2.tiles s
  rw [State.setHandler_eq]
  exact foldl_rel (fun s t : State => ∃ u, t = { s with tiles := u }) (fun s => ⟨s.tiles, rfl⟩)
      (fun s t u ⟨x, hx⟩ ⟨y, hy⟩ => ⟨y, by rw [hy, hx]⟩) _ (fun s e => ht s e) (s.bandsAt a) s

/-- Every tile of the quadrant on which a band of the RCB runs takes the handler. -/
theorem State.setHandler_takes {a m : Nat} {b : Band} (hb : s.bandOf m = some b) (ha : b.addr = a) (hT : T ∈ b.tiles)
    (hd : s.bandDom m T = some d) (hk : quadrantOf (s.nodeOf T) = k) :
    ((s.setHandler a off k).dom T d).trapBase = BitVec.ofNat 32 off := by
  have hI : ∀ (u : State) n y, u.bandDom m T = some d ∧ quadrantOf (u.nodeOf T) = k →
      (u.takeHandler off k n y).bandDom m T = some d ∧ quadrantOf ((u.takeHandler off k n y).nodeOf T) = k := by
    intro u n y ⟨h, h'⟩
    refine ⟨(u.bandDom_takeHandler off k n y m T).trans h, ?_⟩
    obtain ⟨v, hv⟩ := u.takeHandler_frame off k n y
    rw [hv]
    exact h'
  rw [State.setHandler_eq]
  refine foldl_establishes (fun u : State => u.bandDom m T = some d ∧ quadrantOf (u.nodeOf T) = k)
    (fun u => (u.dom T d).trapBase = BitVec.ofNat 32 off) (State.mem_bandsAt hb ha) (fun u e _ hu => ?_) (fun u hu => ?_)
    (fun u e _ _ hq => ?_) ⟨hd, hk⟩
  · exact List.foldlRecOn (motive := fun u : State => u.bandDom m T = some d ∧ quadrantOf (u.nodeOf T) = k) e.2.tiles _ hu
      fun u hu y _ => hI u e.1 y hu
  · exact foldl_establishes _ (fun u => (u.dom T d).trapBase = BitVec.ofNat 32 off) hT (fun u y _ hu => hI u m y hu)
      (fun u hu => State.trapBase_takeHandler_self hu.1 hu.2) (fun u y _ _ hq => State.trapBase_takeHandler hq) hu
  · exact List.foldlRecOn (motive := fun u : State => (u.dom T d).trapBase = BitVec.ofNat 32 off) e.2.tiles _ hq
      fun u hq y _ => State.trapBase_takeHandler hq

end

/-- The offset that a HANDLER request gives. -/
def reqOffset (q : BitVec 512) : Nat := fld q 192 32

theorem ofNat_reqOffset (q : BitVec 512) : BitVec.ofNat 32 (reqOffset q) = q.extractLsb' 192 32 :=
  (BitVec.ofNat_toNat 32 _).trans (BitVec.setWidth_eq _)

theorem handler_unaligned (hq : ¬ reqRefused q) (ha : reqPtr q % 128 ≠ 0) :
    exec (.handler sv priv q) s = .next (s.answerReq sv q 0x0A) := by
  rw [exec_handler, execHandler, State.request_taken hq]
  simp only [if_pos ha]

/-- The quadrants other than that of service tile sv in which a band of an RCB has tiles. -/
def State.handlerQuadrants (s : State) (sv a : Nat) : List Nat :=
  let ts := s.bands.flatMap fun e => match e.2 with | some b => if b.addr = a then b.tiles else [] | none => []
  (List.range 4).filter fun k => k != sv && ts.any fun T => quadrantOf (s.nodeOf T) == k

/-- A handler is recorded, taken by the tiles of the service tile's quadrant, and sent to the others. -/
def State.handled (s : State) (sv a off : Nat) : State :=
  let s1 : State := { s with handlers := Table.set 0 s.handlers a (BitVec.ofNat 32 off) }
  (s1.handlerQuadrants sv a).foldl (fun s k => s.send (configMsg sv k 6 a off 0)) (s1.setHandler a off sv)

section

variable {bytes : List Byte} (hq : ¬ reqRefused q) (ha : reqPtr q % 128 = 0) (hl : s.look (reqPtr q) 128 0x0A = .ok bytes)

include hq ha hl

theorem handler_not_band (hk : rcbKind (bitsOf 1024 bytes) ≠ 3) :
    exec (.handler sv priv q) s = .next (s.answerReq sv q 0x0A) := by
  rw [exec_handler, execHandler, State.request_taken hq]
  simp only [if_neg (not_not_intro ha), hl, if_pos hk]

variable (hk : rcbKind (bitsOf 1024 bytes) = 3)

include hk

theorem handler_outside (ho : reqOffset q % 8 ≠ 0 ∨ reqOffset q = 0 ∨ rcbCodeSize (bitsOf 1024 bytes) ≤ reqOffset q ∨
    2 ^ 32 ≤ reqImage q) : exec (.handler sv priv q) s = .next (s.answerReq sv q 0x0C) := by
  have ho' : fld q 192 32 % 8 ≠ 0 ∨ fld q 192 32 = 0 ∨ rcbCodeSize (bitsOf 1024 bytes) ≤ fld q 192 32 ∨
      reqImage q / 2 ^ 32 ≠ 0 := by
    unfold reqOffset at ho
    omega
  rw [exec_handler, execHandler, State.request_taken hq]
  simp only [if_neg (not_not_intro ha), hl, if_neg (not_not_intro hk), if_pos ho']

theorem handler_handled (h8 : reqOffset q % 8 = 0) (h0 : 0 < reqOffset q) (hc : reqOffset q < rcbCodeSize (bitsOf 1024 bytes))
    (hi : reqImage q < 2 ^ 32) :
    exec (.handler sv priv q) s = .next ((s.handled sv (reqPtr q) (reqOffset q)).answerReq sv q 0) := by
  have ho' : ¬ (fld q 192 32 % 8 ≠ 0 ∨ fld q 192 32 = 0 ∨ rcbCodeSize (bitsOf 1024 bytes) ≤ fld q 192 32 ∨
      reqImage q / 2 ^ 32 ≠ 0) := by
    rw [Nat.div_eq_of_lt hi]
    unfold reqOffset at h8 h0 hc
    omega
  rw [exec_handler, execHandler, State.request_taken hq]
  simp only [if_neg (not_not_intro ha), hl, if_neg (not_not_intro hk), if_neg ho']
  rfl

end

theorem quadrant_lt (x y : Nat) : quadrant x y < 4 := by
  unfold quadrant
  split <;> split <;> omega

theorem State.handled_eq (s : State) (sv a off : Nat) : ∃ (u : State),
    u = ({ s with handlers := Table.set 0 s.handlers a (BitVec.ofNat 32 off) } : State).setHandler a off sv ∧
    s.handled sv a off = u.posted ((s.handlerQuadrants sv a).map fun k => .meshRoute (.service sv) (configMsg sv k 6 a off 0)) := by
  refine ⟨_, rfl, (State.foldl_posted _ _ (fun k => [.meshRoute (.service sv) (configMsg sv k 6 a off 0)]) (fun w k => rfl) _).trans ?_⟩
  rw [← List.map_eq_flatMap]
  rfl

theorem State.mem_handlerQuadrants {a m : Nat} {b : Band} (hb : s.bandOf m = some b) (ha : b.addr = a) {T : Nat} (hT : T ∈ b.tiles)
    (hk : quadrantOf (s.nodeOf T) ≠ sv) : quadrantOf (s.nodeOf T) ∈ s.handlerQuadrants sv a := by
  refine List.mem_filter.2 ⟨List.mem_range.2 (quadrant_lt _ _), ?_⟩
  rw [Bool.and_eq_true, bne_iff_ne, List.any_eq_true]
  refine ⟨hk, T, List.mem_flatMap.2 ⟨_, State.mem_bands hb, ?_⟩, beq_self_eq_true _⟩
  exact Eq.mpr (congrArg (T ∈ ·) (if_pos ha)) hT

/-- What a recorded handler leaves. -/
theorem State.handled_spec (s : State) (sv a off x : Nat) :
    let t := (s.handled sv a off).answerReq sv q x
    Table.get 0 t.handlers a = BitVec.ofNat 32 off ∧ ∀ m b, s.bandOf m = some b → b.addr = a → ∀ T ∈ b.tiles, ∀ d,
      s.bandDom m T = some d → let k := quadrantOf (s.nodeOf T)
        (k = sv → (t.dom T d).trapBase = BitVec.ofNat 32 off) ∧
        (k ≠ sv → .meshRoute (.service sv) (configMsg sv k 6 a off 0) ∈ t.flight) := by
  obtain ⟨u, hu, hh⟩ := s.handled_eq sv a off
  obtain ⟨h, m, v, he⟩ := (s.handled sv a off).answerReq_frame sv q x
  rw [he, hh]
  obtain ⟨tl, htl⟩ := ({ s with handlers := Table.set 0 s.handlers a (BitVec.ofNat 32 off) } : State).setHandler_frame a off sv
  refine ⟨?_, fun m b hb hab T hT d hd => ⟨fun hk => ?_, fun hk => ?_⟩⟩
  · show Table.get 0 u.handlers a = _
    rw [hu, htl]
    exact Table.get_set_self 0 s.handlers a _
  · show (u.dom T d).trapBase = _
    rw [hu]
    exact State.setHandler_takes hb hab hT hd hk
  · exact List.mem_append_right _ (List.mem_map_of_mem (State.mem_handlerQuadrants hb hab hT hk))

end Sys2Proof.Machine

end

/-! ## RESTORE -/

section

namespace Sys2Proof.Machine

open Bits

variable {s : State} {sv : Nat} {priv : Bool} {q : BitVec 512}

/-! ### RESTORE (R49, R359) -/

theorem restore_user (hq : ¬ reqRefused q) (hp : priv = false) : exec (.restore sv priv q) s = .next (s.answerReq sv q 6) := by
  rw [exec_restore, execRestore, State.request_taken hq]
  simp only [hp, Bool.not_false, if_true]

section

variable {n : Nat} {x : Region} (hq : ¬ reqRefused q) (hp : priv = true)

include hq hp

theorem restore_unplaced (h : s.regionAt (reqPtr q) = none) : exec (.restore sv priv q) s = .next (s.answerReq sv q 0x0A) := by
  rw [exec_restore, execRestore, State.request_taken hq]
  simp only [hp, Bool.not_true, Bool.false_eq_true, if_false, h]

variable (h : s.regionAt (reqPtr q) = some (n, x))

include h

theorem restore_busy (hx : x.phase = 1 ∨ x.phase = 3 ∨ x.req.isSome = true) :
    exec (.restore sv priv q) s = .next (s.answerReq sv q 0x0D) := by
  rw [exec_restore, execRestore, State.request_taken hq]
  simp only [hp, Bool.not_true, Bool.false_eq_true, if_false, h, if_pos hx]

variable (hx : ¬ (x.phase = 1 ∨ x.phase = 3 ∨ x.req.isSome = true))

include hx

theorem restore_no_image (hi : s.imageAt (reqImage q) = .ok none) :
    exec (.restore sv priv q) s = .next (s.answerReq sv q 0x0B) := by
  rw [exec_restore, execRestore, State.request_taken hq]
  simp only [hp, Bool.not_true, Bool.false_eq_true, if_false, h, if_neg hx, hi]

theorem restore_unread {e : Nat} (he : e ≠ 0) (hi : s.imageAt (reqImage q) = .error e) :
    exec (.restore sv priv q) s = .next (s.answerReq sv q e) := by
  rw [exec_restore, execRestore, State.request_taken hq]
  simp only [hp, Bool.not_true, Bool.false_eq_true, if_false, h, if_neg hx, hi]

variable {k : Nat} {im : Image} (hi : s.imageAt (reqImage q) = .ok (some k)) (him : s.images[k]? = some im)

include hi him

theorem restore_misshapen (hs : s.sameShape n x im = false) : exec (.restore sv priv q) s = .next (s.answerReq sv q 0x0A) := by
  rw [exec_restore, execRestore, State.request_taken hq]
  simp only [hp, Bool.not_true, Bool.false_eq_true, if_false, h, if_neg hx, hi, him, hs, Bool.not_false, if_true]

end

/-! A tile's part of an image. -/

theorem foldl_keepsThread {β : Type} {g : State → β → State} {T h : Nat} (hm : ∀ u a, (g u a).mem = u.mem)
    (ht : ∀ u a, (g u a).thread T h = u.thread T h) (l : List β) (u : State) :
    (l.foldl g u).mem = u.mem ∧ (l.foldl g u).thread T h = u.thread T h :=
  ⟨foldl_keeps State.mem g hm l u, foldl_keeps (fun u => u.thread T h) g ht l u⟩

/-- The bytes of a tile's part are in its local store, and the threads of the part are its threads. -/
theorem State.loadTile_spec (s : State) (T d : Nat) (it : ImageTile) (bytes : List Byte) {i : Nat} {th : Thread}
    (hth : it.threads = [(i, th)]) :
    (s.loadTile T d it bytes).thread T ((s.dom T d).thrFirst + i) = th ∧
      ∀ k < min it.dom.lsSize bytes.length,
        (s.loadTile T d it bytes).byte (lsAddr T ((s.dom T d).lsBase + k)) = bytes.getD k 0 := by
  obtain ⟨t, ht⟩ : ∃ t, t = s.loadTile T d it bytes := ⟨_, rfl⟩
  rw [← ht]
  unfold State.loadTile at ht
  extract_lets dm accs slots s1 b1 s2 b2 s3 s4 s5 s6 s7 at ht
  have hmem2 : s2.mem = s1.mem := by
    refine foldl_keeps State.mem _ (fun u a => ?_) _ s1
    refine foldl_keeps State.mem _ (fun u a => ?_) _ u
    rfl
  have hs4 : s4 = s3.setThread T ((s.dom T d).thrFirst + i) th := by simp only [s4, hth, List.foldl_cons, List.foldl_nil]; rfl
  obtain ⟨hm5, ht5⟩ : s5.mem = s4.mem ∧ s5.thread T ((s.dom T d).thrFirst + i) = s4.thread T ((s.dom T d).thrFirst + i) := by
    refine foldl_keepsThread (fun u a => ?_) (fun u a => ?_) _ s4
    · rfl
    · exact State.thread_setSlot ..
  obtain ⟨hm6, ht6⟩ : s6.mem = s5.mem ∧ s6.thread T ((s.dom T d).thrFirst + i) = s5.thread T ((s.dom T d).thrFirst + i) := by
    refine foldl_keepsThread (fun u a => ?_) (fun u a => ?_) _ s5
    · rfl
    · exact State.thread_setBar ..
  obtain ⟨hm7, ht7⟩ : s7.mem = s6.mem ∧ s7.thread T ((s.dom T d).thrFirst + i) = s6.thread T ((s.dom T d).thrFirst + i) := by
    refine foldl_keepsThread (fun u a => ?_) (fun u a => ?_) _ s6
    · rfl
    · exact State.thread_setPort ..
  refine ⟨?_, fun k hk => ?_⟩
  · have htile : t.thread T ((s.dom T d).thrFirst + i) = s7.thread T ((s.dom T d).thrFirst + i) := by
      rw [ht, State.thread, State.tile_modTile_self]
      rfl
    rw [htile, ht7, ht6, ht5, hs4, State.thread_setThread_self]
  · have hbyte : t.mem = s1.mem := by
      rw [ht]
      refine (hm7.trans (hm6.trans hm5)).trans ?_
      rw [hs4]
      exact hmem2
    rw [State.byte, hbyte]
    have hlen : k < (bytes.take it.dom.lsSize).length := by rwa [List.length_take]
    refine ((s.setDom T d dm).byte_lsStore_in T (s.dom T d).lsBase _ hlen).trans ?_
    rw [List.getD_eq_getElem _ _ hlen, List.getElem_take, List.getD_eq_getElem]

/-! The run from the held boundary. -/

/-- A restored region, its tiles loaded: its stations' cursors go, its bands take the image's, and it runs. -/
def State.runOn (s : State) (n : Nat) (x : Region) (im : Image) : State :=
  let s2 := (Table.keys s.stations).foldl (fun u k =>
    u.modStation k fun t => { t with cursors := t.cursors.filter fun c => !((s.regionBands n).any fun e => e.1 == c.band) }) s
  let s3 := (s2.loadBands n im).setRegion n (some { x with phase := 0, limit := 0 })
  (s3.regionBands n).foldl (fun s e => s.recheck e.1 e.2) s3

theorem State.loadBands_keeps (s : State) (n : Nat) (im : Image) :
    ((s.loadBands n im).mem, (s.loadBands n im).tiles) = (s.mem, s.tiles) := by
  unfold State.loadBands
  extract_lets bs s1 s2
  have h1 : (s1.mem, s1.tiles) = (s.mem, s.tiles) := by
    refine foldl_keeps (fun u : State => (u.mem, u.tiles)) _ (fun u a => ?_) _ s
    rfl
  have h2 : (s2.mem, s2.tiles) = (s1.mem, s1.tiles) := by
    refine foldl_keeps (fun u : State => (u.mem, u.tiles)) _ (fun u a => ?_) _ s1
    split
    · rfl
    · rfl
  refine (foldl_keeps (fun u : State => (u.mem, u.tiles)) _ (fun u a => ?_) _ s2).trans (h2.trans h1)
  split
  · rfl
  · rfl

theorem State.runOn_spec (s : State) (n : Nat) (x : Region) (im : Image) :
    (s.runOn n x im).mem = s.mem ∧ (s.runOn n x im).tiles = s.tiles ∧
      (s.runOn n x im).regionOf n = some { x with phase := 0, limit := 0 } := by
  unfold State.runOn
  extract_lets s2 s3
  have h2 : (s2.mem, s2.tiles) = (s.mem, s.tiles) := by
    refine foldl_keeps (fun u : State => (u.mem, u.tiles)) _ (fun u a => ?_) _ s
    rfl
  have h4 := foldl_keeps (fun u : State => (u.mem, u.tiles, u.regions)) (fun s (e : Nat × Band) => s.recheck e.1 e.2)
    (fun u e => by
      obtain ⟨w, hw, -⟩ := u.recheck_eq e.1 e.2
      rw [hw]
      rfl) (s3.regionBands n) s3
  obtain ⟨hm, ht, hr⟩ : _ ∧ _ ∧ _ := by simpa only [Prod.mk.injEq] using h4
  obtain ⟨hm', ht'⟩ := Prod.mk.inj ((s2.loadBands_keeps n im).trans h2)
  refine ⟨hm.trans hm', ht.trans ht', ?_⟩
  rw [State.regionOf, hr]
  exact State.regionOf_setRegion_self _ n _

section

variable {n T d i : Nat} {x : Region} {im : Image} {it : ImageTile} {bytes : List Byte} {th : Thread} {k : Nat}

theorem restore_loads (hq : ¬ reqRefused q) (hp : priv = true) (h : s.regionAt (reqPtr q) = some (n, x))
    (hx : ¬ (x.phase = 1 ∨ x.phase = 3 ∨ x.req.isSome = true)) (hi : s.imageAt (reqImage q) = .ok (some k))
    (him : s.images[k]? = some im) (hs : s.sameShape n x im = true) (ht : s.imageTiles n = [(T, d)]) (hit : im.tiles = [it])
    (hb : s.imageParts im.tiles (reqImage q) = .ok [bytes]) :
    exec (.restore sv priv q) s = .next (((s.loadTile T d it bytes).runOn n x im).answerReq sv q 0) := by
  rw [exec_restore, execRestore, State.request_taken hq]
  simp only [hp, Bool.not_true, Bool.false_eq_true, if_false, h, if_neg hx, hi, him, hs, ht, hb]
  rw [hit]
  rfl

theorem restore_spec (hq : ¬ reqRefused q) (hp : priv = true) (h : s.regionAt (reqPtr q) = some (n, x))
    (hx : ¬ (x.phase = 1 ∨ x.phase = 3 ∨ x.req.isSome = true)) (hi : s.imageAt (reqImage q) = .ok (some k))
    (him : s.images[k]? = some im) (hs : s.sameShape n x im = true) (ht : s.imageTiles n = [(T, d)]) (hit : im.tiles = [it])
    (hb : s.imageParts im.tiles (reqImage q) = .ok [bytes]) (hth : it.threads = [(i, th)]) :
    completes (.restore sv priv q) s fun t => t.regionOf n = some { x with phase := 0, limit := 0 } ∧
      t.thread T ((s.dom T d).thrFirst + i) = th ∧ (sv, reqMsix q) ∈ t.msix ∧
      ∀ k < min it.dom.lsSize bytes.length, t.byte (lsAddr T ((s.dom T d).lsBase + k)) = bytes.getD k 0 := by
  obtain ⟨hthread, hbytes⟩ := s.loadTile_spec T d it bytes hth
  obtain ⟨hmem, htiles, hregion⟩ := (s.loadTile T d it bytes).runOn_spec n x im
  refine ⟨_, restore_loads hq hp h hx hi him hs ht hit hb, ?_⟩
  have hmsix := ((s.loadTile T d it bytes).runOn n x im).msix_answerReq sv q 0
  obtain ⟨hm, ms, v, he⟩ := ((s.loadTile T d it bytes).runOn n x im).answerReq_frame sv q 0
  refine ⟨?_, ?_, ?_, fun k hk => ?_⟩
  · rw [he]
    exact hregion
  · rw [he, State.thread, State.tile]
    show Table.get _ (Table.get _ ((s.loadTile T d it bytes).runOn n x im).tiles T).threads _ = th
    rw [htiles]
    exact hthread
  · rw [hmsix]
    exact List.mem_append_right _ (List.mem_singleton_self _)
  · rw [he, State.byte]
    show Memory.get ((s.loadTile T d it bytes).runOn n x im).mem _ = _
    rw [hmem]
    exact hbytes k hk

end

end Sys2Proof.Machine

end

/-! ## The tree of a valid launch -/

section

namespace Sys2Proof.Machine

open Bits

/-! ### Checks in sequence -/

/-- What a sequence of two checks gives comes of what the first gives. -/
theorem Check.bind_eq_ok {α β : Type} {x : Check α} {f : α → Check β} {b : β} (h : (x >>= f) = .ok b) :
    ∃ a, x = .ok a ∧ f a = .ok b := by
  cases x with
  | error e => cases h
  | ok a => exact ⟨a, rfl, h⟩

/-- Of elements checked one after the other, each has a result among the results, and each result comes of one of them. -/
theorem Check.mem_of_mapM {α β : Type} {f : α → Check β} {l : List α} {l' : List β} (h : l.mapM f = .ok l') :
    (∀ x ∈ l, ∃ y ∈ l', f x = .ok y) ∧ ∀ y ∈ l', ∃ x ∈ l, f x = .ok y := by
  induction l generalizing l' with
  | nil =>
    rw [List.mapM_nil] at h
    cases h
    exact ⟨fun _ hx => absurd hx List.not_mem_nil, fun _ hy => absurd hy List.not_mem_nil⟩
  | cons x l ih =>
    rw [List.mapM_cons] at h
    obtain ⟨y, hy, h⟩ := Check.bind_eq_ok h
    obtain ⟨ys, hys, h⟩ := Check.bind_eq_ok h
    cases h
    obtain ⟨hto, hof⟩ := ih hys
    refine ⟨fun z hz => ?_, fun z hz => ?_⟩
    · rcases List.mem_cons.1 hz with rfl | hz
      · exact ⟨y, List.mem_cons_self, hy⟩
      · obtain ⟨w, hw, hzw⟩ := hto z hz
        exact ⟨w, List.mem_cons_of_mem _ hw, hzw⟩
    · rcases List.mem_cons.1 hz with rfl | hz
      · exact ⟨x, List.mem_cons_self, hy⟩
      · obtain ⟨w, hw, hwz⟩ := hof z hz
        exact ⟨w, List.mem_cons_of_mem _ hw, hwz⟩

/-! ### The tree of a launch (R19) -/

variable {s : State}

theorem rcbKind_put {r : BitVec 1024} {lo len v : Nat} (h : 2 ≤ lo) : rcbKind (put r lo len v) = rcbKind r := by
  refine congrArg BitVec.toNat (BitVec.eq_of_getLsbD_eq fun i hi => ?_)
  rw [BitVec.getLsbD_extractLsb', BitVec.getLsbD_extractLsb', getLsbD_put _ _ _ _ (by omega), if_neg (by omega)]

/-- Inheriting leaves the kind of a node (R21). -/
theorem rcbKind_effective (own parent : BitVec 1024) : rcbKind (effective own parent) = rcbKind own := by
  have hlo : ∀ g ∈ inheritGroups, ∀ f ∈ g.2, 2 ≤ f.1 := by decide
  unfold effective
  extract_lets r
  have h : rcbKind r = rcbKind own := by
    refine List.foldlRecOn (motive := fun r => rcbKind r = rcbKind own) inheritGroups _ rfl fun r hr g hg => ?_
    split
    · exact hr
    · exact List.foldlRecOn (motive := fun r => rcbKind r = rcbKind own) g.2 _ hr fun r hr f hf =>
        (rcbKind_put (hlo g hg f hf)).trans hr
  split
  · exact h
  · rw [rcbKind_put (by decide), rcbKind_put (by decide), h]

/-- Every node below the root has its parent, of the kind before its own, among some nodes. -/
def parented (ns : List TreeNode) : Prop :=
  ∀ n ∈ ns, rcbKind n.eff ≠ 0 → ∃ m ∈ ns, m.addr = n.parent ∧ rcbKind n.eff = rcbKind m.eff + 1

/-- The tree that is read is parented. -/
theorem State.readTree_parented {fuel : Nat} {todo : List (Nat × Option TreeNode)} {acc ns : List TreeNode}
    (h : s.readTree fuel todo acc = .ok ns) (ht : ∀ a m, (a, some m) ∈ todo → m ∈ acc) (hp : parented acc) : parented ns := by
  induction fuel generalizing todo acc with
  | zero =>
    cases todo with
    | nil => cases h; exact hp
    | cons x todo => cases h
  | succ fuel ih =>
    cases todo with
    | nil => cases h; exact hp
    | cons x todo =>
      obtain ⟨a, p⟩ := x
      unfold State.readTree at h
      split at h
      · cases h
      split at h
      · cases h
      next b hb =>
      extract_lets own kind first next n at h
      split at h
      · cases h
      next hok =>
      have hkind : rcbKind own = kind := not_not.1 fun hk => hok (.inl hk)
      have hq : ∀ m, p = some m → m ∈ acc := fun m hm => ht a m (by rw [hm]; exact List.mem_cons_self)
      refine ih h (fun a' m hm => ?_) fun x hx hx0 => ?_
      · rcases List.mem_append.1 hm with hm | hm
        · rcases List.mem_append.1 hm with hm | hm
          · split at hm
            · cases hm
            · cases List.mem_singleton.1 hm
              exact List.mem_append_right _ (List.mem_singleton_self _)
          · split at hm
            · cases hm
            · exact List.mem_append_left _ (hq m (congrArg Prod.snd (List.mem_singleton.1 hm)).symm)
        · exact List.mem_append_left _ (ht a' m (List.mem_cons_of_mem _ hm))
      · rcases List.mem_append.1 hx with hx | hx
        · obtain ⟨m, hm, hrest⟩ := hp x hx hx0
          exact ⟨m, List.mem_append_left _ hm, hrest⟩
        · obtain rfl := List.mem_singleton.1 hx
          cases p with
          | none => exact absurd hkind hx0
          | some m => exact ⟨m, List.mem_append_left _ (hq m rfl), rfl, (rcbKind_effective _ _).trans hkind⟩

theorem State.node_bandPlan {ns : List TreeNode} {n : TreeNode} {b : BandPlan} (h : s.bandPlan ns n = .ok b) : b.node = n := by
  unfold State.bandPlan at h
  obtain ⟨-, -, h⟩ := Check.bind_eq_ok h
  obtain ⟨table, -, h⟩ := Check.bind_eq_ok h
  obtain ⟨code, -, h⟩ := Check.bind_eq_ok h
  obtain ⟨-, -, h⟩ := Check.bind_eq_ok h
  cases h
  rfl

theorem State.node_regionPlan {n : TreeNode} {r : RegionPlan} (h : s.regionPlan n = .ok r) : r.node = n := by
  unfold State.regionPlan at h
  extract_lets a at h
  split at h
  · cases h
    rfl
  · obtain ⟨l, -, h⟩ := Check.bind_eq_ok h
    obtain ⟨-, -, h⟩ := Check.bind_eq_ok h
    obtain ⟨l, -, h⟩ := Check.bind_eq_ok h
    obtain ⟨rs, -, h⟩ := Check.bind_eq_ok h
    cases h
    rfl

/-- What a valid plan consists of: the nodes of the tree, and a plan of each of its bands and regions. -/
theorem State.validate_plan {root : Nat} {priv : Bool} {p : Plan0} (h : s.validate root priv = .ok p) :
    s.readTree 256 [(root, none)] [] = .ok p.nodes ∧ (nodesOf p.nodes 3).mapM (s.bandPlan p.nodes) = .ok p.bands ∧
      (nodesOf p.nodes 2).mapM s.regionPlan = .ok p.regions := by
  unfold State.validate at h
  obtain ⟨ns, hns, h⟩ := Check.bind_eq_ok h
  obtain ⟨-, -, h⟩ := Check.bind_eq_ok h
  obtain ⟨-, -, h⟩ := Check.bind_eq_ok h
  obtain ⟨-, -, h⟩ := Check.bind_eq_ok h
  obtain ⟨-, -, h⟩ := Check.bind_eq_ok h
  obtain ⟨-, -, h⟩ := Check.bind_eq_ok h
  obtain ⟨bands, hbands, h⟩ := Check.bind_eq_ok h
  obtain ⟨-, -, h⟩ := Check.bind_eq_ok h
  obtain ⟨-, -, h⟩ := Check.bind_eq_ok h
  obtain ⟨-, -, h⟩ := Check.bind_eq_ok h
  obtain ⟨regions, hregions, h⟩ := Check.bind_eq_ok h
  obtain ⟨-, -, h⟩ := Check.bind_eq_ok h
  obtain ⟨-, -, h⟩ := Check.bind_eq_ok h
  obtain ⟨-, -, h⟩ := Check.bind_eq_ok h
  obtain ⟨-, -, h⟩ := Check.bind_eq_ok h
  obtain ⟨-, -, h⟩ := Check.bind_eq_ok h
  cases h
  exact ⟨hns, hbands, hregions⟩

/-- Every band of a valid plan belongs to a region of the plan. -/
theorem State.validate_region {root : Nat} {priv : Bool} {p : Plan0} (h : s.validate root priv = .ok p) {b : BandPlan}
    (hb : b ∈ p.bands) : ∃ r ∈ p.regions, b.node.parent = r.node.addr := by
  obtain ⟨hns, hbands, hregions⟩ := State.validate_plan h
  obtain ⟨n, hn, hbn⟩ := (Check.mem_of_mapM hbands).2 b hb
  obtain ⟨hmem, hkind⟩ := List.mem_filter.1 hn
  have hkind : rcbKind n.eff = 3 := eq_of_beq hkind
  have hparented := State.readTree_parented hns (fun a m hm => by simp at hm) fun n hn => absurd hn List.not_mem_nil
  obtain ⟨m, hm, haddr, hk⟩ := hparented n hmem (by omega)
  obtain ⟨r, hr, hmr⟩ := (Check.mem_of_mapM hregions).1 m (List.mem_filter.2 ⟨hm, beq_iff_eq.2 (by omega)⟩)
  exact ⟨r, hr, by rw [State.node_bandPlan hbn, State.node_regionPlan hmr, haddr]⟩

end Sys2Proof.Machine

end

/-! ## LAUNCH: room and the placement of regions -/

section

namespace Sys2Proof.Machine

open Bits

variable {s : State} {sv : Nat} {priv : Bool} {q : BitVec 512} {p : Plan0}

/-! ### LAUNCH: validation and room (R23, R58) -/

theorem launch_refused (hq : ¬ reqRefused q) {e : Nat} (he : e ≠ 0) (h : s.validate (reqPtr q) priv = .error e) :
    exec (.launch sv priv q) s = .next (s.answerReq sv q e) := by
  rw [exec_launch, execLaunch, State.request_taken hq]
  simp only [h]

theorem launch_waits (hq : ¬ reqRefused q) (h : s.validate (reqPtr q) priv = .error 0) :
    exec (.launch sv priv q) s = .next (s.stall sv priv q) := by
  rw [exec_launch, execLaunch, State.request_taken hq]
  simp only [h]

theorem launch_plans (hq : ¬ reqRefused q) (h : s.validate (reqPtr q) priv = .ok p) :
    exec (.launch sv priv q) s = .next (s.launchPlan sv priv q p) := by
  rw [exec_launch, execLaunch, State.request_taken hq]
  simp only [h]

theorem State.launchPlan_empty (h : p.bands = []) :
    s.launchPlan sv priv q p = (s.answerReq sv q 0).putReply sv q 32 0x81 0 := by
  rw [State.launchPlan, h]
  rfl

section

variable (h : p.bands ≠ [])

include h

theorem State.launchPlan_unpowered (hr : s.rowsReady p = false) : s.launchPlan sv priv q p = s.answerReq sv q 5 := by
  rw [State.launchPlan, List.isEmpty_eq_false_iff.2 h]
  simp [hr]

variable (hr : s.rowsReady p = true)

include hr

theorem State.launchPlan_places (hf : s.fits p = true) : s.launchPlan sv priv q p = s.place sv q p := by
  rw [State.launchPlan, List.isEmpty_eq_false_iff.2 h]
  simp [hr, hf]

variable (hf : s.fits p = false)

include hf

/-- A region that is being drained or removed will make room. -/
theorem State.launchPlan_awaits (hl : ∃ e ∈ s.liveRegions, e.2.phase = 1 ∨ e.2.phase = 3) :
    s.launchPlan sv priv q p = s.stall sv priv q := by
  have hany : (s.liveRegions.any fun e => e.2.phase == 1 || e.2.phase == 3) = true := by simpa using hl
  rw [State.launchPlan, List.isEmpty_eq_false_iff.2 h]
  simp only [hr, hf, hany]
  simp

variable (hl : ∀ e ∈ s.liveRegions, e.2.phase ≠ 1 ∧ e.2.phase ≠ 3)

include hl

/-- With no room in sight, a region of lower PRIORITY than the plan's jobs is drained, or the launch is refused. -/
theorem State.launchPlan_crowded : s.launchPlan sv priv q p =
    ((s.victim ((nodesOf p.nodes 1).foldl (fun m j => Nat.min m (rcbPriority j.eff)) 8)).elim (s.answerReq sv q 5) fun m =>
      (s.startDrain m none).stall sv priv q) := by
  have hany : (s.liveRegions.any fun e => e.2.phase == 1 || e.2.phase == 3) = false := by simpa using hl
  rw [State.launchPlan, List.isEmpty_eq_false_iff.2 h]
  simp only [hr, hf, hany, Bool.false_eq_true, and_true, Bool.not_true, if_false]
  cases s.victim _ with
  | none => rfl
  | some m => rfl

end

/-! ### Placement (R58) -/

/-- Launches, regions and bands. -/
def State.jobs (s : State) : Tbl (Option Launch) × Tbl (Option Region) × Tbl (Option Band) := (s.launches, s.regions, s.bands)

theorem State.jobs_lsStore (s : State) (T off : Nat) (b : List Byte) : (s.lsStore T off b).jobs = s.jobs := by
  unfold State.lsStore State.freshWords
  extract_lets lo
  split <;> rfl

theorem State.jobs_setRel (s : State) (n j slot : Nat) (r : Rel) : (s.setRel n j slot r).jobs = s.jobs := rfl

theorem State.jobs_modTile (s : State) (T : Nat) (f : Tile → Tile) : (s.modTile T f).jobs = s.jobs := rfl

theorem State.jobs_placeTile (s : State) (pl : Spot) (reg : BitVec 1024) (b : Option (Nat × BandPlan)) (T : Nat) :
    (s.placeTile pl reg b T).jobs = s.jobs := by
  unfold State.placeTile
  extract_lets mode empty s1 d dm s2 lo s3
  have h1 : s1.jobs = s.jobs := by
    simp only [s1]
    split <;> rfl
  clear_value s1
  have h2 : s2.jobs = s1.jobs := rfl
  clear_value s2
  have h3 : s3.jobs = s2.jobs := rfl
  clear_value s3
  split
  · exact h3.trans (h2.trans h1)
  · extract_lets rec0 accs slots s4
    have h4 : s4.jobs = s3.jobs := (State.jobs_modTile _ T _).trans (s3.jobs_lsStore ..)
    clear_value s4
    exact h4.trans (h3.trans (h2.trans h1))

theorem State.jobs_modRouter (s : State) (k : Nat) (f : Router → Router) : (s.modRouter k f).jobs = s.jobs := rfl

theorem State.jobs_placeReds (s : State) (k : Nat) (r : RegionPlan) : (s.placeReds k r).jobs = s.jobs := by
  unfold State.placeReds
  refine foldl_keeps State.jobs _ (fun u d => ?_) r.reds s
  refine foldl_keeps State.jobs _ (fun u n => ?_) _ u
  split
  · rfl
  · exact State.jobs_modRouter ..

theorem State.jobs_placePart (s : State) (l k : Nat) : (s.placePart l k).jobs = s.jobs := by
  unfold State.placePart
  split
  · rfl
  · refine foldl_keeps State.jobs _ (fun u r => ?_) _ s
    refine (State.jobs_placeReds _ k r).trans ?_
    refine foldl_keeps State.jobs _ (fun u T => ?_) _ u
    split
    · rfl
    · exact State.jobs_placeTile ..

section

variable {u : State} {l : Nat}

/-- A band stands in a region of launch l. -/
def State.bandOfLaunch (s : State) (l m : Nat) : Prop :=
  ∃ b r, s.bandOf m = some b ∧ s.regionOf b.region = some r ∧ r.launch = l

/-- Bands that are set one after the other, each with property P: other bands stand. -/
theorem foldl_setBands {f : BandPlan → Band} {P : Band → Prop} (hP : ∀ b, P (f b)) {g : State → Nat × BandPlan → State}
    (hg : ∀ (w : State) e, (g w e).jobs = (w.setBand e.1 (some (f e.2))).jobs) (l : List (Nat × BandPlan)) (w : State) :
    (l.foldl g w).launches = w.launches ∧ (l.foldl g w).regions = w.regions ∧
      (∀ m, (l.foldl g w).bandOf m = w.bandOf m ∨ ∃ b, (l.foldl g w).bandOf m = some b ∧ P b) ∧
      ∀ e ∈ l, ∃ b, (l.foldl g w).bandOf e.1 = some b ∧ P b := by
  have hstep : ∀ (w : State) e m, (g w e).bandOf m = if m = e.1 then some (f e.2) else w.bandOf m := by
    intro w e m
    have hb : (g w e).bands = (w.setBand e.1 (some (f e.2))).bands := congrArg (·.2.2) (hg w e)
    rw [State.bandOf, hb]
    exact w.bandOf_setBand e.1 m _
  have hset : ∀ (w : State) e m, (∃ b, w.bandOf m = some b ∧ P b) → ∃ b, (g w e).bandOf m = some b ∧ P b := by
    intro w e m h
    rw [hstep]
    split
    · exact ⟨_, rfl, hP _⟩
    · exact h
  refine ⟨foldl_keeps State.launches g (fun w e => congrArg (·.1) (hg w e)) l w,
    foldl_keeps State.regions g (fun w e => congrArg (·.2.1) (hg w e)) l w, fun m => ?_, fun e he => ?_⟩
  · refine List.foldlRecOn (motive := fun t : State => t.bandOf m = w.bandOf m ∨ ∃ b, t.bandOf m = some b ∧ P b) l g (.inl rfl)
      fun t ht e _ => ?_
    rcases ht with ht | ht
    · rw [hstep]
      split
      · exact .inr ⟨_, rfl, hP _⟩
      · exact .inl ht
    · exact .inr (hset t e m ht)
  · exact foldl_establishes (fun _ => True) (fun t : State => ∃ b, t.bandOf e.1 = some b ∧ P b) he (fun _ _ _ _ => trivial)
      (fun t _ => ⟨f e.2, (hstep t e e.1).trans (if_pos rfl), hP _⟩) (fun t e' _ _ ht => hset t e' e.1 ht) trivial

/-- Placing a region makes it one of its launch, and gives it its bands; it does nothing else to launches, regions and
bands. -/
theorem State.placeRegion_spec (u : State) (p : Plan0) (l : Nat) (r : RegionPlan) :
    let t := u.placeRegion p l r
    let n := p.num l r.node.addr
    t.launches = u.launches ∧ (∃ x, t.regionOf n = some x ∧ x.launch = l) ∧ (∀ j, j ≠ n → t.regionOf j = u.regionOf j) ∧
      (∀ m, t.bandOf m = u.bandOf m ∨ ∃ b, t.bandOf m = some b ∧ b.region = n) ∧
      ∀ e ∈ p.bandsIn l r, ∃ b, t.bandOf e.1 = some b ∧ b.region = n := by
  obtain ⟨t, ht⟩ : ∃ t, t = u.placeRegion p l r := ⟨_, rfl⟩
  rw [← ht]
  unfold State.placeRegion at ht
  extract_lets n s2 s3 at ht
  obtain ⟨x, hx, hxl⟩ : ∃ x, s3.regions = Table.set none u.regions n (some x) ∧ x.launch = l := ⟨_, rfl, rfl⟩
  obtain ⟨hl3, hb3⟩ : s3.launches = u.launches ∧ s3.bands = u.bands := ⟨rfl, rfl⟩
  clear_value s3
  obtain ⟨hl, hr, hband, hmine⟩ := foldl_setBands (f := newBand n) (P := fun b => b.region = n) (fun _ => rfl)
    (g := fun s b => (List.range (rcbHeight b.2.node.eff)).foldl (fun s j =>
      (onesOf (unionOf 448 16 b.2.recs) 16).foldl (fun s i => s.setRel b.1 j i ⟨true, 0, [], []⟩) s)
      (s.setBand b.1 (some (newBand n b.2))))
    (fun w e => foldl_keeps State.jobs _ (fun w j => foldl_keeps State.jobs _ (fun w i => State.jobs_setRel ..) _ w) _ _)
    (p.bandsIn l r) s3
  rw [← ht] at hl hr hband hmine
  have hregion : ∀ j, t.regionOf j = if j = n then some x else u.regionOf j := fun j => by
    rw [State.regionOf, hr, hx, Table.get_set]
    rfl
  refine ⟨hl.trans hl3, ⟨x, (hregion n).trans (if_pos rfl), hxl⟩, fun j hj => (hregion j).trans (if_neg hj), fun m => ?_, hmine⟩
  rcases hband m with h | h
  · exact .inl (h.trans (by rw [State.bandOf, hb3]; rfl))
  · exact .inr h

/-- Placing a region leaves the bands of its launch in regions of the launch. -/
theorem State.bandOfLaunch_placeRegion {m : Nat} (h : u.bandOfLaunch l m) (r : RegionPlan) :
    (u.placeRegion p l r).bandOfLaunch l m := by
  obtain ⟨-, ⟨x, hx, hxl⟩, hregion, hband, -⟩ := u.placeRegion_spec p l r
  obtain ⟨b, y, hb, hy, hyl⟩ := h
  rcases hband m with hm | ⟨b', hm, hb'⟩
  · by_cases hn : b.region = p.num l r.node.addr
    · exact ⟨b, x, hm.trans hb, by rw [hn, hx], hxl⟩
    · exact ⟨b, y, hm.trans hb, (hregion _ hn).trans hy, hyl⟩
  · exact ⟨b', x, hm, by rw [hb', hx], hxl⟩

theorem State.launches_placeRegions (u : State) (p : Plan0) (l : Nat) (rs : List RegionPlan) :
    (rs.foldl (fun s r => s.placeRegion p l r) u).launches = u.launches :=
  foldl_keeps State.launches _ (fun w r => (w.placeRegion_spec p l r).1) rs u

/-- A band whose region is placed stands in a region of the launch. -/
theorem State.bandOfLaunch_placeRegions {rs : List RegionPlan} {r : RegionPlan} (hr : r ∈ rs) {b : BandPlan} (hb : b ∈ p.bands)
    (hbr : b.node.parent = r.node.addr) :
    (rs.foldl (fun s r => s.placeRegion p l r) u).bandOfLaunch l (p.num l b.node.addr) := by
  refine foldl_establishes (fun _ => True) (fun t : State => t.bandOfLaunch l (p.num l b.node.addr)) hr (fun _ _ _ _ => trivial)
    (fun t _ => ?_) (fun t r' _ _ ht => State.bandOfLaunch_placeRegion ht r') trivial
  obtain ⟨-, ⟨x, hx, hxl⟩, -, -, hmine⟩ := t.placeRegion_spec p l r
  have he : (p.num l b.node.addr, b) ∈ p.bandsIn l r :=
    List.mem_map.2 ⟨b, List.mem_filter.2 ⟨hb, beq_iff_eq.2 hbr⟩, rfl⟩
  obtain ⟨b', hb', hregion⟩ := hmine _ he
  exact ⟨b', x, hb', by rw [hregion, hx], hxl⟩

end

end Sys2Proof.Machine

end

/-! ## LAUNCH: placement, and the host requests -/

section

namespace Sys2Proof.Machine

open Bits

variable {s : State} {sv : Nat} {priv : Bool} {q : BitVec 512} {p : Plan0}

theorem State.startLaunch_eq (s : State) (l : Nat) :
    s.startLaunch l = s.posted ((s.bandsOf l).map fun b => .initialSaddleDelivery b.1 0) := by
  refine (s.foldl_posted _ (fun b => [.initialSaddleDelivery b.1 0]) (fun w b => rfl) _).trans ?_
  rw [← List.map_eq_flatMap]

theorem State.mem_bandsOf {l m : Nat} (h : s.bandOfLaunch l m) : ∃ b, (m, b) ∈ s.bandsOf l := by
  obtain ⟨b, r, hb, hr, hl⟩ := h
  refine ⟨b, List.mem_filterMap.2 ⟨_, State.mem_bands hb, ?_⟩⟩
  simp only [hr, if_pos hl]

/-- The state in which the spares of a plan's fenced positions have been chosen (R17, R58). -/
def State.substituted (s : State) (p : Plan0) : State :=
  p.tiles.foldl (fun s T =>
    let x := s.physX (T / 64) (T % 64)
    if s.isFenced x (T / 64) then
      match s.nearSpare (T / 64) x with | some y => s.substitute (T / 64) (T % 64) y | none => s
    else s) s

theorem State.substituted_self (h : ∀ T ∈ p.tiles, s.isFenced (s.physX (T / 64) (T % 64)) (T / 64) = false) :
    s.substituted p = s := by
  unfold State.substituted
  refine List.foldlRecOn (motive := fun t : State => t = s) p.tiles _ rfl fun t ht T hT => ?_
  rw [ht]
  exact if_neg (by rw [h T hT]; exact Bool.false_ne_true)

/-- The launch that a placement makes. -/
def State.newLaunch (s : State) (k : Nat) (q : BitVec 512) (p : Plan0) : Launch :=
  { live := true, sv := k, req := q, rcbs := p.nodes.foldl (fun t n => Table.set 0 t n.addr n.eff) [], started := false
    notices := 0, status := 0, plan := p, loads := p.bands.map fun b => p.num (s.nextId + 1) b.node.addr }

/-- A placement, up to the events that follow it: the launch, its regions and bands, and the service tile's window. -/
theorem State.place_eq (s : State) (k : Nat) (q : BitVec 512) (p : Plan0) :
    let l := s.nextId + 1
    let others := (s.substituted p).otherQuadrants k p
    ∃ u : State, s.place k q p = u.posted (if others = [] then (u.bandsOf l).map fun b => .initialSaddleDelivery b.1 0
        else others.map fun i => .meshRoute (.service k) (configMsg k i 5 l i l)) ∧
      u.launchOf l = some (s.newLaunch k q p) ∧ (u.service k).busy = some q ∧
      ∀ b ∈ p.bands, ∀ r ∈ p.regions, b.node.parent = r.node.addr → u.bandOfLaunch l (p.num l b.node.addr) := by
  obtain ⟨t, ht⟩ : ∃ t, t = s.place k q p := ⟨_, rfl⟩
  rw [← ht]
  unfold State.place at ht
  extract_lets l s0 others la s1 s2 s3 at ht
  have h3 : s3.jobs = s2.jobs := rfl
  have hbusy : (s3.service k).busy = some q := congrArg Service.busy (s2.service_modService k _)
  have h2 : s2.jobs = (p.regions.foldl (fun s q => s.placeRegion p l q) s1).jobs := State.jobs_placePart _ l k
  have h1 : s1.launchOf l = some la := Table.get_set_self none s0.launches l (some la)
  clear_value s3 s2 s1
  obtain ⟨hl, hr, hb⟩ : s3.launches = s1.launches ∧ s3.regions = _ ∧ s3.bands = _ := by
    have h := h3.trans h2
    simp only [State.jobs, Prod.mk.injEq] at h
    rwa [State.launches_placeRegions] at h
  refine ⟨s3, ?_, ?_, hbusy, fun b hb' r hr' hbr => ?_⟩
  · rw [ht]
    by_cases ho : others = []
    · rw [if_pos (by rw [ho]; rfl), s3.startLaunch_eq]
      exact congrArg s3.posted (if_pos ho).symm
    · rw [if_neg (by rwa [List.isEmpty_iff])]
      refine (s3.foldl_posted _ (fun i => [.meshRoute (.service k) (configMsg k i 5 l i l)]) (fun w i => rfl) others).trans ?_
      rw [← List.map_eq_flatMap]
      exact congrArg s3.posted (if_neg ho).symm
  · rw [State.launchOf, hl]
    exact h1
  · obtain ⟨b', x, hb'', hx, hxl⟩ := State.bandOfLaunch_placeRegions (u := s1) (l := l) hr' hb' hbr
    refine ⟨b', x, ?_, ?_, hxl⟩
    · rw [State.bandOf, hb]
      exact hb''
    · rw [State.regionOf, hr]
      exact hx

theorem Plan0.lt_num (p : Plan0) (l a : Nat) : l < p.num l a := by
  unfold Plan0.num
  omega

/-- The tiles of a plan outside the quadrant of service tile k are in the others. -/
theorem State.mem_otherQuadrants {T k : Nat} (hT : T ∈ p.tiles) (hk : quadrantOf (s.nodeOf T) ≠ k) :
    quadrantOf (s.nodeOf T) ∈ s.otherQuadrants k p := by
  refine List.mem_filter.2 ⟨List.mem_range.2 (quadrant_lt _ _), ?_⟩
  rw [Bool.and_eq_true, bne_iff_ne, List.contains_iff_mem]
  exact ⟨hk, List.mem_append_left _ (List.mem_map.2 ⟨T, hT, rfl⟩)⟩

/-- A plan without reduction groups, all of whose tiles are in the quadrant of service tile k, needs no other one. -/
theorem State.otherQuadrants_eq_nil {k : Nat} (hT : ∀ T ∈ p.tiles, quadrantOf (s.nodeOf T) = k) (hr : ∀ r ∈ p.regions, r.reds = []) :
    s.otherQuadrants k p = [] := by
  refine List.filter_eq_nil_iff.2 fun i _ => ?_
  rw [Bool.and_eq_true, bne_iff_ne, List.contains_iff_mem, List.mem_append]
  rintro ⟨hne, h | h⟩
  · obtain ⟨T, hm, rfl⟩ := List.mem_map.1 h
    exact hne (hT T hm)
  · obtain ⟨r, hm, h⟩ := List.mem_flatMap.1 h
    rw [hr r hm] at h
    cases h

theorem launch_places (hq : ¬ reqRefused q) (hv : s.validate (reqPtr q) priv = .ok p) (hb : p.bands ≠ [])
    (hr : s.rowsReady p = true) (hf : s.fits p = true) :
    let l := s.nextId + 1
    completes (.launch sv priv q) s fun t =>
      (∃ la, t.launchOf l = some la ∧ la.sv = sv ∧ la.req = q ∧ la.started = false ∧ la.notices = 0 ∧
        la.loads.length = p.bands.length) ∧ (t.service sv).busy = some q ∧
      ((∀ T ∈ p.tiles, s.isFenced (s.physX (T / 64) (T % 64)) (T / 64) = false) →
        (∀ T ∈ p.tiles, let k := quadrantOf (s.nodeOf T)
          k = sv ∨ .meshRoute (.service sv) (configMsg sv k 5 l k l) ∈ t.flight) ∧
        ((∀ T ∈ p.tiles, quadrantOf (s.nodeOf T) = sv) → (∀ r ∈ p.regions, r.reds = []) →
          ∀ b ∈ p.bands, ∃ m, l < m ∧ .initialSaddleDelivery m 0 ∈ t.flight)) := by
  intro l
  obtain ⟨u, hu, hla, hbusy, hbands⟩ := s.place_eq sv q p
  refine ⟨_, (launch_plans hq hv).trans (congrArg _ ((State.launchPlan_places hb hr hf).trans hu)), ?_, hbusy, fun hfence => ?_⟩
  · exact ⟨_, hla, rfl, rfl, rfl, rfl, List.length_map _⟩
  · rw [State.substituted_self hfence]
    refine ⟨fun T hT => ?_, fun hT hreds b hbp => ?_⟩
    · by_cases hk : quadrantOf (s.nodeOf T) = sv
      · exact .inl hk
      · have hmem := State.mem_otherQuadrants hT hk
        rw [if_neg (List.ne_nil_of_mem hmem)]
        exact .inr (List.mem_append_right _ (List.mem_map_of_mem hmem))
    · obtain ⟨r, hrp, hbr⟩ := State.validate_region hv hbp
      obtain ⟨b', hb'⟩ := State.mem_bandsOf (hbands b hbp r hrp hbr)
      rw [if_pos (State.otherQuadrants_eq_nil hT hreds)]
      exact ⟨_, p.lt_num _ _, List.mem_append_right _ (List.mem_map.2 ⟨_, hb', rfl⟩)⟩

/-! ### The obligation -/

/-- Settles O52: every clause follows from what its request makes of the state. The statement has the model's choices where the
manual is silent: the order in which refusals are looked for (log 79), STATUS 0x05 for an unpowered row (log 91) and 0x0D for a
DRAIN of a frozen region (log 98), one request at a time in a window (log 124), the region that is drained to make room (log
78), and 64 bytes of a copy at each completion (log 123). -/
theorem requests : Obligations.Requests := by
  unfold Obligations.Requests
  intro s sv n T d i a status priv q x bytes c th code ptr img len reply answer refused
  refine ⟨⟨?_, s.msix_answerReq sv q status⟩, request_refused_answers, fun hq => ⟨?_, ?_, ?_, ?_, ?_, ?_, ?_, ?_, ?_, ?_, ?_⟩,
    ?_, ?_, ?_⟩
  · exact (s.hostRead_answerReq sv q status).trans (replyBytes_req status s.time)
  · exact fun e he h => launch_refused hq he h
  · exact launch_waits hq
  · intro p hv
    have hplan := launch_plans (sv := sv) hq hv
    refine ⟨fun hb => ?_, fun hb hr => ?_, fun hb hr hf => launch_places hq hv hb hr hf, fun hb hr hf => ⟨fun hl => ?_, fun hl => ?_⟩⟩
    · exact hplan.trans (congrArg _ (State.launchPlan_empty hb))
    · exact hplan.trans (congrArg _ (State.launchPlan_unpowered hb hr))
    · exact hplan.trans (congrArg _ (State.launchPlan_awaits hb hr hf hl))
    · have hcrowd := hplan.trans (congrArg _ (State.launchPlan_crowded hb hr hf hl))
      exact ⟨fun hn => hcrowd.trans (by rw [hn]; rfl), fun m hm => hcrowd.trans (by rw [hm]; rfl)⟩
  · exact fun h => ⟨drain_unplaced hq h, fun hp => ⟨freeze_unplaced hq hp h, restore_unplaced hq hp h⟩⟩
  · exact fun hp => ⟨freeze_user hq hp, restore_user hq hp⟩
  · intro h hr
    refine ⟨drain_busy hq h, drain_spec hq h hr, fun hp => ⟨freeze_refused hq hp h, freeze_busy hq hp h, freeze_spec hq hp h,
      restore_busy hq hp h, fun h1 h3 hnone => ?_⟩⟩
    have hx : ¬ (x.phase = 1 ∨ x.phase = 3 ∨ x.req.isSome = true) := by simp [h1, h3, hnone]
    refine ⟨restore_no_image hq hp h hx, fun e he hi => restore_unread hq hp h hx he hi, fun k im hi him =>
      ⟨restore_misshapen hq hp h hx hi him, ?_⟩⟩
    rintro it dm hs ht hit rfl hparts hth
    exact restore_spec hq hp h hx hi him hs ht hit hparts hth
  · exact attest_unreadable hq
  · intro hr hl hb hd
    obtain ⟨t, ht, hhead, hmeas, hmsix⟩ := attest_reports (sv := sv) (priv := priv) hq hr hl hb hd
    exact ⟨t, ht, hhead, hmeas, hmsix⟩
  · exact handler_unaligned hq
  · intro ha hl rcb off
    refine ⟨handler_not_band hq ha hl, handler_outside hq ha hl, fun hk h8 h0 hc hi => ⟨_, handler_handled hq ha hl hk h8 h0 hc hi, ?_⟩⟩
    obtain ⟨hhandler, htaken⟩ := s.handled_spec (q := q) sv (reqPtr q) (reqOffset q) 0
    rw [ofNat_reqOffset] at hhandler htaken
    exact ⟨hhandler, htaken⟩
  · intro r hr
    have hcopy := (exec_copy (s := s) hq r hr).trans (congrArg _ (State.startCopy_eq s sv priv r.2 q))
    refine ⟨fun h => hcopy.trans (congrArg _ (if_pos h)), fun h h' => hcopy.trans (congrArg _ (if_neg ?_))⟩
    rintro (hc | hc)
    · exact absurd (hc.symm.trans h) Bool.false_ne_true
    · exact hc h'
  · exact pcieReadCompletion_idle
  · intro hr hb hc
    have hstep := pcieReadCompletion_copy hr hb hc
    refine ⟨fun hl => hstep.trans (congrArg _ (State.copyStep_lost hl)), fun hl ha => hstep.trans (congrArg _ (State.copyStep_away hl ha)),
      fun hl ha hn => hstep.trans (congrArg _ (State.copyStep_done hl ha hn)),
      fun hl ha hn hm => pcieReadCompletion_abroad hr hb hc hl ha hn hm, fun hl ha hn hm hp => ⟨fun hi => ?_, fun hi hbad => ?_, ?_⟩⟩
    · exact pcieReadCompletion_in hr hb hc hl ha hn hm hp hi
    · obtain ⟨t, ht, hmoved, hmem, hread⟩ := pcieReadCompletion_out hr hb hc hl ha hn hm hp hi hbad
      exact ⟨t, ht, hmoved, hmem, hread⟩
    · exact pcieReadCompletion_outLost hr hb hc hl ha hn hm hp
  · exact fun m rest hr => pcieReadCompletion_read hr

end Sys2Proof.Machine

end

/-! ## Reset memory, and the scalar float instructions -/

section

namespace Sys2Proof.Machine

/-- Settles O60: after reset memory lists no byte. That a byte which no list holds reads as zero is the model's choice (log 2). -/
theorem resetInvariant : Obligations.ResetInvariant := Memory.wf_nil

/-- A register instruction that runs, and whose work is to write x[d], completes. -/
theorem regInstr_writes {i : Instr} {g : Guard} {regs : List XReg} {d : XReg} {f : State → State} {s : State}
    (h : s.runs g regs true 0 = true) (hf : ∃ v, f s = s.wx d v) :
    ∃ v, regInstr i g regs f s = .next (s.wrote d v) := by
  obtain ⟨v, hv⟩ := hf
  exact ⟨v, by rw [regInstr_runs h, hv]; rfl⟩

/-- A float result is a write of x[d]. -/
theorem State.wf_writes (s : State) (d : XReg) (code : Nat) : ∃ v, s.wf d code = s.wx d v := ⟨_, rfl⟩

theorem fcvt_completes {s : State} {g : Guard} {d a : XReg} (dt st : CTy) (rm : Rm) (sat : Bool)
    (h : s.runs g [d, a] true 0 = true) : ∃ v, exec (.fcvt g dt st rm sat d a) s = .next (s.wrote d v) := by
  refine regInstr_writes h ?_
  cases dt with
  | int t => exact ⟨_, rfl⟩
  | flt | e4m3 | e5m2 => exact s.wf_writes d _

/-- Settles O6: every scalar float instruction is a register instruction whose work is one write of x[d]. -/
theorem scalarFloatCompletes : Obligations.ScalarFloatCompletes := by
  unfold Obligations.ScalarFloatCompletes
  intro s g t dt st rm sat d a b c done
  refine ⟨fun h => ?two, fun h => ?three, fun h => ?one⟩
  case two =>
    refine ⟨?_, ?_, ?_, ?_, ?_, ?_, ?_⟩ <;> exact regInstr_writes h (s.wf_writes d _)
  case three =>
    constructor <;> exact regInstr_writes h (s.wf_writes d _)
  case one =>
    refine ⟨?_, ?_, ?_, fcvt_completes dt st rm sat h, ?_, ?_⟩ <;> exact regInstr_writes h (s.wf_writes d _)

end Sys2Proof.Machine

end

/-! ## The issuing thread alone: frames of the register instructions -/

section

namespace Sys2Proof.Machine

open Bits

variable {s t u : State}

theorem State.onlyMe_trans (h : s.onlyMe t) (hc : t.cur = s.cur) (k : t.onlyMe u) : s.onlyMe u := by
  obtain ⟨⟨a1, a2, a3, a4⟩, b, ⟨c1, c2, c3, c4⟩, ⟨d1, d2, d3, d4, d5, d6, d7, d8⟩, ⟨e1, e2, e3, e4⟩, f1, f2, f3⟩ := h
  obtain ⟨⟨a1', a2', a3', a4'⟩, b', ⟨c1', c2', c3', c4'⟩, ⟨d1', d2', d3', d4', d5', d6', d7', d8'⟩, ⟨e1', e2', e3', e4'⟩,
    f1', f2', f3'⟩ := k
  rw [hc] at b'
  exact ⟨⟨fun a => (a1' a).trans (a1 a), a2'.trans a2, a3'.trans a3, a4'.trans a4⟩,
    fun T h hh => (b' T h hh).trans (b T h hh),
    ⟨fun T n => (c1' T n).trans (c1 T n), fun T n => (c2' T n).trans (c2 T n), fun T n => (c3' T n).trans (c3 T n),
      fun T n => (c4' T n).trans (c4 T n)⟩,
    ⟨d1'.trans d1, d2'.trans d2, d3'.trans d3, d4'.trans d4, d5'.trans d5, d6'.trans d6, d7'.trans d7, d8'.trans d8⟩,
    ⟨e1'.trans e1, e2'.trans e2, e3'.trans e3, e4'.trans e4⟩, f1'.trans f1, f2'.trans f2, f3'.trans f3⟩

variable (s)

/-- A change of the issuing thread's own record changes nothing else. -/
theorem State.onlyMe_modMe (f : Thread → Thread) : s.onlyMe (s.modMe f) := by
  refine ⟨⟨fun _ => rfl, rfl, rfl, rfl⟩, fun T h hc => ?_, ⟨?_, ?_, ?_, ?_⟩, ⟨rfl, rfl, rfl, rfl, rfl, rfl, rfl, rfl⟩,
    ⟨rfl, rfl, rfl, rfl⟩, rfl, rfl, rfl⟩
  · rw [State.thread_modMe, if_neg hc]
  · exact s.dom_modMe f
  · exact s.slot_modMe f
  · exact s.bar_modMe f
  · exact s.port_modMe f

theorem State.onlyMe_goto (pc : W64) : s.onlyMe (s.goto pc) := s.onlyMe_modMe _

theorem State.onlyMe_advance : s.onlyMe s.advance := s.onlyMe_goto _

theorem State.onlyMe_wrote (d : XReg) (v : W64) : s.onlyMe (s.wrote d v) :=
  State.onlyMe_trans (s.onlyMe_modMe _) rfl (State.onlyMe_advance _)

theorem State.onlyMe_decided (p : PReg) (b : Bool) : s.onlyMe (s.decided p b) :=
  State.onlyMe_trans (s.onlyMe_modMe _) rfl (State.onlyMe_advance _)

/-- The issuing thread after its instruction has written x[d]. -/
@[simp] theorem State.me_wrote (d : XReg) (v : W64) : (s.wrote d v).me =
    ({ s.me.wx d.toNat v with readyAt := s.tcycle + 8 } : Thread).retire s.tcycle (s.me.pc + 8) := by
  simp [State.wrote]

/-- The issuing thread after its instruction has written a predicate. -/
@[simp] theorem State.me_decided (p : PReg) (b : Bool) : (s.decided p b).me =
    ({ s.me.wp p.toNat b with readyAt := s.tcycle + 8 } : Thread).retire s.tcycle (s.me.pc + 8) := by
  simp [State.decided]

@[simp] theorem Thread.retire_pc (t : Thread) (now : Nat) (pc : W64) : (t.retire now pc).pc = pc := rfl
@[simp] theorem Thread.retire_run (t : Thread) (now : Nat) (pc : W64) : (t.retire now pc).run = .ready := rfl

/-- A predicate after a write: p0 is true, the one written has its value, the others theirs (R198). -/
theorem Thread.rp_wp (t : Thread) {p q : Nat} (hq : q < 8) (b : Bool) :
    (t.wp p b).rp q = if q = 0 then true else if q = p then b else t.rp q := by
  unfold Thread.wp Thread.rp
  by_cases h0 : q = 0
  · simp [h0]
  by_cases hp : p = 0
  · simp [hp, h0]
  · rw [if_neg hp, if_neg h0, getLsbD_put _ _ _ _ hq]
    by_cases e : q = p
    · subst e
      cases b <;> simp [h0]
    · rw [if_neg e, if_neg (by omega)]

/-- The frame of an instruction that writes x[d] (R54, R195, R198). -/
theorem State.wrote_frame (d : XReg) (v : W64) :
    s.me.sameBut d.toNat (s.wrote d v).me ∧ ((s.wrote d v).rx d = if d = 0 then 0 else v) ∧
      (s.wrote d v).me.pc = s.me.pc + 8 ∧ (s.wrote d v).me.run = .ready ∧ s.me.sameSystem (s.wrote d v).me ∧
      s.onlyMe (s.wrote d v) := by
  have hx : ∀ r, (s.wrote d v).me.rx r = (s.me.wx d.toNat v).rx r := fun r => by rw [State.me_wrote]; rfl
  refine ⟨⟨fun r hr => ?_, ?_, ?_, ?_⟩, ?_, ?_, ?_, ?_, s.onlyMe_wrote d v⟩
  · rw [hx, Thread.rx_wx, if_neg fun h => hr h.1]
  · simp
  · simp
  · simp
  · rw [State.rx, hx, Thread.rx_wx]
    by_cases h : d = 0
    · simp [h]
    · rw [if_pos ⟨rfl, fun e => h (BitVec.eq_of_toNat_eq e)⟩, if_neg h]
  · simp
  · simp
  · simp [Thread.sameSystem]

/-- The frame of an instruction that writes a predicate (R54, R195, R198). -/
theorem State.decided_frame (p : PReg) (b : Bool) :
    (∀ q, (s.decided p b).rp q = if q = 0 then true else if q = p then b else s.rp q) ∧
      (s.decided p b).me.x = s.me.x ∧ (s.decided p b).me.m = s.me.m ∧ (s.decided p b).me.v = s.me.v ∧
      (s.decided p b).me.pc = s.me.pc + 8 ∧ (s.decided p b).me.run = .ready ∧ s.me.sameSystem (s.decided p b).me ∧
      s.onlyMe (s.decided p b) := by
  refine ⟨fun q => ?_, ?_, ?_, ?_, ?_, ?_, ?_, s.onlyMe_decided p b⟩
  · have hp : (s.decided p b).me.rp q.toNat = (s.me.wp p.toNat b).rp q.toNat := by rw [State.me_decided]; rfl
    rw [State.rp, hp, Thread.rp_wp _ q.isLt]
    simp only [BitVec.toNat_inj, show q.toNat = 0 ↔ q = 0 from BitVec.toNat_inj (y := 0#3), State.rp]
  all_goals simp [Thread.sameSystem]

/-- The frame of an instruction that transfers control (R54, R195). -/
theorem State.goto_frame (pc : W64) :
    s.me.sameRegs (s.goto pc).me ∧ (s.goto pc).me.pc = pc ∧ (s.goto pc).me.run = .ready ∧
      s.me.sameSystem (s.goto pc).me ∧ s.onlyMe (s.goto pc) := by
  refine ⟨?_, ?_, ?_, ?_, s.onlyMe_goto pc⟩
  all_goals simp [Thread.sameRegs, Thread.sameSystem]

theorem scalarFrames : Claims.ScalarFrames :=
  fun s d v p b pc => ⟨s.wrote_frame d v, s.decided_frame p b, s.goto_frame pc⟩

end Sys2Proof.Machine

end

/-! ## A false guard -/

section

namespace Sys2Proof

open Machine Bits

/-- The guard field of an instruction word (R201, R209). -/
def guardOf (w : W64) : Guard := ⟨w.getLsbD 55, w.extractLsb' 52 3⟩

/-- The four bits of the guard field are the guard. -/
theorem guardOf_of_field {w : W64} {g : Guard} (h : w.extractLsb' 52 4 = encG g) : guardOf w = g := by
  have hbit : ∀ i < 4, w.getLsbD (52 + i) = (encG g).getLsbD i := fun i hi => by
    rw [← h, BitVec.getLsbD_extractLsb', decide_eq_true hi, Bool.true_and]
  obtain ⟨inv, pred⟩ := g
  have hinv : w.getLsbD 55 = inv := by
    rw [hbit 3 (by decide), encG, BitVec.getLsbD_append]
    simp
  have hpred : w.extractLsb' 52 3 = pred := by
    apply BitVec.eq_of_getLsbD_eq
    intro i hi
    rw [BitVec.getLsbD_extractLsb', hbit i (by omega), encG, BitVec.getLsbD_append]
    simp [hi]
  rw [guardOf, hinv, hpred]

/-! Every format has the guard at bits 55 to 52: the fields below it are peeled off one by one (R201). -/

section

variable (op : Nat) (g : Guard)


theorem guardOf_packA (d a b c : XReg) (cond : Nat) (pd : PReg) (ty : Nat) (rm : Rm) (sat : Bool) :
    guardOf (packA op g d a b c cond pd ty rm sat) = g := by
  apply guardOf_of_field
  unfold packA
  iterate 11 rw [BitVec.extractLsb'_append_eq_of_le (by decide)]
  exact BitVec.extractLsb'_append_eq_right

theorem guardOf_packI (d a : XReg) (aux : BitVec 6) (imm : BitVec 32) : guardOf (packI op g d a aux imm) = g := by
  apply guardOf_of_field
  unfold packI
  iterate 4 rw [BitVec.extractLsb'_append_eq_of_le (by decide)]
  exact BitVec.extractLsb'_append_eq_right

theorem guardOf_packL (d : XReg) (imm : BitVec 45) : guardOf (packL op g d imm) = g := by
  apply guardOf_of_field
  unfold packL
  iterate 2 rw [BitVec.extractLsb'_append_eq_of_le (by decide)]
  exact BitVec.extractLsb'_append_eq_right

theorem guardOf_packM (d base idx : XReg) (o : Order) (sx : Bool) (sz : Size) (mode : BitVec 3) (off : BitVec 20) :
    guardOf (packM op g d base idx o sx sz mode off) = g := by
  apply guardOf_of_field
  unfold packM
  iterate 9 rw [BitVec.extractLsb'_append_eq_of_le (by decide)]
  exact BitVec.extractLsb'_append_eq_right

theorem guardOf_packV (d : VBlock) (a b : VOrg) (ty : Nat) (mk : MReg) (rm : BitVec 2) (sat bs : Bool) (x : BitVec 7) :
    guardOf (packV op g d a b ty mk rm sat bs x) = g := by
  apply guardOf_of_field
  unfold packV
  iterate 16 rw [BitVec.extractLsb'_append_eq_of_le (by decide)]
  exact BitVec.extractLsb'_append_eq_right

theorem guardOf_packVB (d : VBlock) (a : VOrg) (b : VB) (ty : Nat) (mk : MReg) (rm : Rm) (sat : Bool) :
    guardOf (packVB op g d a b ty mk rm sat) = g := by
  cases b <;> exact guardOf_packV op g ..

theorem guardOf_packE (r x : XReg) (acc : BitVec 6) (slot : BitVec 4) (n : BitVec 12) (mode : BitVec 8) :
    guardOf (packE op g r x acc slot n mode) = g := by
  apply guardOf_of_field
  unfold packE
  iterate 7 rw [BitVec.extractLsb'_append_eq_of_le (by decide)]
  exact BitVec.extractLsb'_append_eq_right

theorem guardOf_packS (d a : XReg) (n : BitVec 14) (imm : BitVec 24) : guardOf (packS op g d a n imm) = g := by
  apply guardOf_of_field
  unfold packS
  iterate 4 rw [BitVec.extractLsb'_append_eq_of_le (by decide)]
  exact BitVec.extractLsb'_append_eq_right

theorem guardOf_post (a b c : XReg) (tag : BitVec 16) : guardOf (encode (.post g a b c tag)) = g := by
  apply guardOf_of_field
  unfold encode
  iterate 6 rw [BitVec.extractLsb'_append_eq_of_le (by decide)]
  exact BitVec.extractLsb'_append_eq_right

end

/-- The instruction is issued under this guard, which is the guard of its word. -/
def Instr.guarded (i : Instr) (g : Guard) : Prop :=
  guardOf (encode i) = g ∧
    ∀ s : State, ∃ regs grid priv body, exec i s = .next (s.issue i g regs grid priv body)

/-- Every instruction that has a word, but `ill`, is issued under the guard of its word. The cases are the formats (R201). -/
theorem Instr.guarded_of_word (i : Instr) (hw : i.hasWord = true) (hi : ∀ r, i ≠ .ill r) : ∃ g, i.guarded g := by
  cases i
  case ill r => exact absurd rfl (hi r)
  case post => exact ⟨_, guardOf_post .., fun s => ⟨_, _, _, _, rfl⟩⟩
  case nop | waitc | yield | exit | brk | trap | addi | andi | ori | xori | shli | shri | srai | muli | cmpi |
      swait | take | peek | await | barinit | barexp | bararr | barwait | bartest | mark | sdone =>
    exact ⟨_, guardOf_packI .., fun s => ⟨_, _, _, _, rfl⟩⟩
  case br | call | loop | movi | movhi =>
    exact ⟨_, guardOf_packL .., fun s => ⟨_, _, _, _, rfl⟩⟩
  case jr | add | sub | mul | mulh | mulhw | div | divw | rem | remw | and | or | xor | andn | orn | shl | shr |
      sra | rol | min | max | minw | maxw | clz | ctz | popc | brev | bswap | bfx | bfxw | bfi | sel | abs | neg
      | cmp | fcmp | pand | por | pxor | pandn | pget | pput | spctest | spcast | mkshr | fadd | fsub | fmul |
      ffma | ffms | fdiv | fsqrt | fmin | fmax | fabs | fneg | fsgn | fcvt | fclass | frnd =>
    exact ⟨_, guardOf_packA .., fun s => ⟨_, _, _, _, rfl⟩⟩
  case lea | ld | st | stWc | ldfe | stfe | fetest | feset | pf | fence | amoadd | amomin | amomax | amominw |
      amomaxw | amoand | amoor | amoxor | amoswap | amofadd | amocas | vld | vst | vldg | vsts | vldb | vldt |
      vstt =>
    exact ⟨_, guardOf_packM .., fun s => ⟨_, _, _, _, rfl⟩⟩
  case vadd | vsub | vmul | vfma | vfms | vmin | vmax | vand | vor | vxor | vandn | vshl | vshr | vsra | vcmp |
      vsel | vperm =>
    exact ⟨_, guardOf_packVB .., fun s => ⟨_, _, _, _, rfl⟩⟩
  case vabs | vneg | vmov | vbcast | vbcastLane | vcvt | vquant | vdeq | vexp2 | vlog2 | vrcp | vrsqrt | vtanh |
      vsig | vredsum | vredmax | vredmin | vscan | vrot | vshuf | vcompress | vcompressMag | vcompressTop |
      vargmax | vrescale | mand | mor | mxor | mnot | mpop =>
    exact ⟨_, guardOf_packV .., fun s => ⟨_, _, _, _, rfl⟩⟩
  case mstep | mstepSort | mstepTopk | mzero | mload | mdrain | mdrainv | msort | mtopk | mcfg | mcfgOff | mwait
      | wrel | wstat | wstatWait | xfer | sbind | redput | coll =>
    exact ⟨_, guardOf_packE .., fun s => ⟨_, _, _, _, rfl⟩⟩
  case csrr | csrw | csrs | csrc | eret | repart | ctxsave | ctxload | slotw | jkill | snap =>
    exact ⟨_, guardOf_packS .., fun s => ⟨_, _, _, _, rfl⟩⟩
  all_goals exact absurd hw Bool.false_ne_true

end Sys2Proof

namespace Sys2Proof.Machine

/-- Issued under a guard that does not hold, an instruction advances the pc or raises a cause of its word alone (R210, R354). -/
theorem State.issue_guardedOff (s : State) (i : Instr) {g : Guard} (hg : s.guardHolds g = false) (regs : List XReg)
    (grid : Bool) (priv : Nat) (body : State → State) :
    let t := s.issue i g regs grid priv body
    t = s.advance ∨ t = s.raise 0x03 (encode i) ∨ t = s.raise 0x0D (encode i) ∨ t = s.raise 0x04 (encode i) := by
  intro t
  by_cases hr : s.regsOk regs = true
  case neg => exact .inr (.inl (by simp [t, State.issue, hr]))
  by_cases hd : grid = true
  case neg => exact .inr (.inr (.inl (by simp [t, State.issue, hr, hd])))
  by_cases hp : priv ≤ s.me.priv.toNat
  case neg => exact .inr (.inr (.inr (by simp [t, State.issue, hr, hd, Nat.lt_of_not_le hp])))
  exact .inl (State.issue_guard hr hd hp hg)

theorem guardedOff : Claims.GuardedOff := by
  intro s i hw hi hg
  obtain ⟨g, henc, hexec⟩ := i.guarded_of_word hw hi
  obtain ⟨regs, grid, priv, body, hs⟩ := hexec s
  have h := s.issue_guardedOff i (show s.guardHolds g = false from henc ▸ hg) regs grid priv body
  simpa only [hs, Host.Outcome.next.injEq] using h

/-- Settles O22: the frames of the three ways in which a register instruction ends, and the guard of every word. -/
theorem framesAndGuards : Obligations.FramesAndGuards := ⟨scalarFrames, guardedOff⟩

end Sys2Proof.Machine

end

/-! ## Timed waits, yields and the end of a thread's step -/

section

namespace Sys2Proof.Machine

variable {s : State} {g : Guard}

/-- An instruction that is issued, passes its checks and stays in the code range does its own work. -/
theorem State.issue_ranged {i : Instr} {regs : List XReg} {f : State → State} (h : s.runs g regs true 0 = true) :
    (s.issue i g regs true 0 fun s => s.ranged f) = f s := by
  rw [State.issue_clear (State.runs_clear h), State.ranged_next (State.runs_next h)]

theorem waitc_spec {d a : XReg} {imm : BitVec 32} (h : s.runs g [d, a] true 0 = true) :
    let dest := s.rx a + imm.setWidth 64
    (dest.toNat ≤ s.time.toNat → exec (.waitc g d a imm) s = .next (s.wrote d s.time)) ∧
      (s.time.toNat < dest.toNat →
        exec (.waitc g d a imm) s = .next (s.park (.waitc g d a imm) (.waitc dest))) := by
  intro dest
  rw [exec_waitc, execWaitc, State.issue_ranged h]
  exact ⟨fun hle => congrArg _ (if_pos hle), fun hlt => congrArg _ (if_neg (Nat.not_le.2 hlt))⟩

theorem yield_spec (h : s.runs g [] true 0 = true) : ∃ t, exec (.yield g) s = .next t ∧ t.me.yielded = true ∧
    t.me.pc = s.me.pc + 8 ∧ t.me.run = .ready ∧ s.me.sameRegs t.me ∧ s.me.sameSystem t.me ∧ s.onlyMe t := by
  refine ⟨s.advance.modMe fun t => { t with yielded := true }, ?_, ?_⟩
  · rw [exec_yield, execYield, State.issue_ranged h]
  · rw [State.me_modMe, State.me_advance]
    exact ⟨rfl, rfl, rfl, ⟨rfl, rfl, rfl, rfl⟩, ⟨rfl, rfl, rfl, rfl, rfl, rfl, rfl, rfl, rfl, rfl⟩,
      State.onlyMe_trans s.onlyMe_advance rfl (State.onlyMe_modMe _ _)⟩

/-- Both instructions that end a thread's step do the same work (R246, R265). -/
theorem exec_endStep (h : s.clear g [] true 0 = true) {i : Instr} (hi : i ∈ [Instr.exit g, .sdone g]) :
    exec i s = .next (s.endStep i) := by
  simp only [List.mem_cons, List.not_mem_nil, or_false] at hi
  rcases hi with rfl | rfl
  · rw [exec_exit, execExit, State.issue_clear h]
  · rw [exec_sdone, execSdone, State.issue_clear h]

section

variable {i : Instr}

theorem State.endStep_failed {pc : W64} {rest : List W64} (hm : s.me.mfail = pc :: rest) :
    s.endStep i = (s.modMe fun t => { t with mfail := rest }).raise 0x13 pc := by
  simp [State.endStep, State.matFail, State.modMe, State.modThread, ← State.me_def, hm]

variable (hm : s.me.mfail = [])

include hm

theorem State.endStep_ranged : s.endStep i = s.ranged fun s => s.afterPrior i fun s => s.threadDone := by
  simp only [State.endStep, State.matFail, hm]

theorem State.endStep_outside (hn : s.nextOk = false) : s.endStep i = s.raise 0x17 (s.me.pc + 8) := by
  rw [State.endStep_ranged hm, State.ranged, hn]
  rfl

theorem State.endStep_waits (hn : s.nextOk = true) (hp : s.priorDone s.cur.1 s.cur.2 = false) :
    s.endStep i = s.park i .prior := by
  rw [State.endStep_ranged hm, State.ranged_next hn, State.afterPrior, hp]
  rfl

theorem State.endStep_ends (hn : s.nextOk = true) (hp : s.priorDone s.cur.1 s.cur.2 = true) :
    s.endStep i = s.threadDone := by
  rw [State.endStep_ranged hm, State.ranged_next hn, State.afterPrior, hp]
  rfl

end

variable (s)

/-- The issuing thread has retired its last instruction of the step and is done. -/
def State.retiredDone : State := s.advance.modMe fun t => { t with run := .done }

theorem State.onlyMe_retiredDone : s.onlyMe s.retiredDone :=
  State.onlyMe_trans s.onlyMe_advance rfl (State.onlyMe_modMe _ _)

theorem State.me_retiredDone :
    s.retiredDone.me = { ({ s.me with readyAt := s.tcycle + 8 } : Thread).retire s.tcycle (s.me.pc + 8) with run := .done } := by
  rw [State.retiredDone, State.me_modMe, State.me_advance]

/-- Once the issuing thread is done, its domain has every thread done when all the others are. -/
theorem State.threadsDone_retiredDone : s.retiredDone.threadsDone s.cur.1 s.myDomNo = true ↔
    ∀ k < s.myDom.nThreads, (s.cur.1, s.myDom.thrFirst + k) ≠ s.cur →
      (s.thread s.cur.1 (s.myDom.thrFirst + k)).run = .done := by
  obtain ⟨-, hothers, ⟨hdom, -⟩, -⟩ := s.onlyMe_retiredDone
  simp only [State.threadsDone, hdom, List.all_eq_true, List.mem_range, beq_iff_eq]
  refine forall₂_congr fun k _ => ?_
  show (s.retiredDone.thread s.cur.1 (s.myDom.thrFirst + k)).run = .done ↔ _
  by_cases hc : (s.cur.1, s.myDom.thrFirst + k) = s.cur
  · have hk : s.myDom.thrFirst + k = s.cur.2 := congrArg Prod.snd hc
    have hme : s.retiredDone.thread s.cur.1 s.cur.2 = s.retiredDone.me := rfl
    rw [hk, hme, State.me_retiredDone]
    simp
  · rw [hothers _ _ hc]
    simp [hc]

/-- A thread that ends its step leaves all but itself alone; the last of its domain makes the stage-done event follow (R36). -/
theorem State.threadDone_spec :
    let t := s.threadDone
    t.me.run = .done ∧ t.me.pc = s.me.pc + 8 ∧ s.me.sameRegs t.me ∧ s.me.sameSystem t.me ∧ s.sameMemory t ∧
      s.otherThreads t s.cur.1 s.cur.2 ∧
      ((∀ k < s.myDom.nThreads, (s.cur.1, s.myDom.thrFirst + k) ≠ s.cur →
          (s.thread s.cur.1 (s.myDom.thrFirst + k)).run = .done) →
        t.flight = s.flight ++ [.stageDone s.cur.1 s.myDomNo]) ∧
      ((∃ k < s.myDom.nThreads, (s.cur.1, s.myDom.thrFirst + k) ≠ s.cur ∧
          (s.thread s.cur.1 (s.myDom.thrFirst + k)).run ≠ .done) → t.flight = s.flight) := by
  intro t
  have ht : t = s.retiredDone.posted
      (if s.retiredDone.threadsDone s.cur.1 s.myDomNo then [.stageDone s.cur.1 s.myDomNo] else []) := by
    show (if s.retiredDone.threadsDone s.cur.1 s.myDomNo then _ else _ : State) = _
    split
    · rfl
    · exact (State.posted_nil _).symm
  obtain ⟨hmem, hothers, -⟩ := s.onlyMe_retiredDone
  have hme : t.me = s.retiredDone.me := by rw [ht]; rfl
  refine ⟨?_, ?_, ?_, ?_, ?_, ?_, fun hall => ?_, fun ⟨k, hk, hc, hrun⟩ => ?_⟩
  · rw [hme, State.me_retiredDone]
  · rw [hme, State.me_retiredDone]
    rfl
  · rw [hme, State.me_retiredDone]
    exact ⟨rfl, rfl, rfl, rfl⟩
  · rw [hme, State.me_retiredDone]
    exact ⟨rfl, rfl, rfl, rfl, rfl, rfl, rfl, rfl, rfl, rfl⟩
  · rw [ht]; exact hmem
  · rw [ht]; exact hothers
  · rw [ht, if_pos (s.threadsDone_retiredDone.2 hall)]
    rfl
  · rw [ht, if_neg fun h => hrun (s.threadsDone_retiredDone.1 h k hk hc)]
    exact List.append_nil _

theorem stepEnds : Claims.StepEnds := by
  intro s g h i hi
  rw [exec_endStep h hi]
  exact ⟨fun pc rest hm => congrArg _ (State.endStep_failed hm),
    fun hm hn => congrArg _ (State.endStep_outside hm hn), fun hm hn =>
      ⟨fun hp => congrArg _ (State.endStep_waits hm hn hp), fun hp =>
        ⟨_, congrArg _ (State.endStep_ends hm hn hp), s.threadDone_spec⟩⟩⟩

/-- Settles O19: what `waitc` and `yield` do, and the one way in which `exit` and `sdone` end a thread's step. -/
theorem waitsAndStepEnds : Obligations.WaitsAndStepEnds :=
  ⟨fun _ _ _ _ _ => ⟨waitc_spec, yield_spec⟩, stepEnds⟩

end Sys2Proof.Machine

end

/-! ## A step runs the instruction at the pc -/

section

namespace Sys2Proof.Machine

open Bits

variable {s : State} {T h : Nat}

/-! ### The thread that takes the cycle (R54) -/

theorem State.thread_choose (T' h' : Nat) : (s.choose T h).thread T' h' = s.thread T' h' :=
  State.thread_modDom _ T _ _ T' h'

theorem State.dom_choose (T' d : Nat) : (s.choose T h).dom T' d =
    if T' = T ∧ d = s.domNo T h then { s.dom T (s.domNo T h) with lastIss := h } else s.dom T' d :=
  State.dom_modDom _ T _ T' d _

theorem State.me_choose : (s.choose T h).me = s.thread T h := State.thread_choose T h

/-- The chosen thread stays in its domain. -/
theorem State.myDomNo_choose : (s.choose T h).myDomNo = s.domNo T h := by
  have hd : ∀ d, ((s.choose T h).dom T d).present = (s.dom T d).present ∧
      ((s.choose T h).dom T d).thrFirst = (s.dom T d).thrFirst ∧
      ((s.choose T h).dom T d).thrCount = (s.dom T d).thrCount := fun d => by
    rw [State.dom_choose]
    split
    next e => rw [e.2]; exact ⟨rfl, rfl, rfl⟩
    next => exact ⟨rfl, rfl, rfl⟩
  show (s.choose T h).domNo T h = _
  simp only [State.domNo, hd]

theorem State.myDom_choose : (s.choose T h).myDom = { s.dom T (s.domNo T h) with lastIss := h } := by
  rw [State.myDom, State.myDomNo_choose]
  exact (State.dom_choose T (s.domNo T h)).trans (if_pos ⟨rfl, rfl⟩)

/-- The round-robin of the thread's domain has moved on, and nothing else (R54). -/
theorem State.issuing_choose : s.issuing (s.choose T h) T h := by
  refine ⟨rfl, rfl, (State.dom_choose _ _).trans (if_pos ⟨rfl, rfl⟩), fun T' d hd => ?_, State.thread_choose,
    ⟨fun _ => rfl, rfl, rfl, rfl⟩, fun T' n => State.slot_modDom _ T _ _ T' n, fun T' b => State.bar_modDom _ T _ _ T' b,
    fun T' p => State.port_modDom _ T _ _ T' p, ⟨rfl, rfl, rfl, rfl, rfl, rfl, rfl, rfl⟩, ⟨rfl, rfl, rfl, rfl⟩, rfl, rfl, rfl,
    rfl, rfl, rfl, rfl, rfl, rfl⟩
  exact (State.dom_choose T' d).trans (if_neg fun e => hd (Prod.ext e.1 e.2))

/-- The word that the chosen thread fetches is the one at its pc. -/
theorem State.fetchWord_choose : (s.choose T h).fetchWord T h = s.fetchWord T h := by
  have hd : (s.choose T h).dom T ((s.choose T h).domNo T h) = (s.choose T h).myDom := rfl
  rw [State.fetchWord, hd, State.thread_choose, State.myDom_choose]
  rfl

/-! ### What comes first -/

/-- With nothing under way, due or asked for, a step goes to a thread or ends the tile cycle. -/
theorem State.step_atThreads (hs : s.atThreads) : step s = s.issueOrTick := by
  obtain ⟨hflight, htimers, hinputs, hservice⟩ := hs
  have hdue : (s.timers.findIdx? fun t => t.1.2 ≤ s.clock t.1.1) = none := by
    rw [List.findIdx?_eq_none_iff]
    exact fun e he => decide_eq_false (Nat.not_le.2 (htimers e he))
  simp only [step, hflight, State.takeTimer, hdue, State.takeInput, hinputs, State.serveOrIssue, hservice]

theorem State.step_issues (hs : s.atThreads) (hn : s.nextTurn = some (T, h)) : step s = s.issueThread T h := by
  rw [State.step_atThreads hs, State.issueOrTick, hn]

theorem State.step_ticks (hs : s.atThreads) (hn : s.nextTurn = none) : step s = .next s.tick := by
  rw [State.step_atThreads hs, State.issueOrTick, hn]

/-- With events under way, a step runs one of them or goes on to what is due (R59). -/
theorem State.step_flight (hf : s.flight ≠ []) :
    (∃ k, ∃ e : Event, s.flight[k]? = some e ∧ step s = e.run { s.bump with flight := s.flight.eraseIdx k }) ∨
      step s = s.bump.takeTimer := by
  obtain ⟨x, l, hl⟩ := List.exists_cons_of_ne_nil hf
  unfold step
  rw [hl]
  dsimp only
  split
  next e he =>
    split
    · exact .inr rfl
    · exact .inl ⟨_, e, he, rfl⟩
  next => exact .inr rfl

/-! ### The issue of a thread that is ready -/

section

variable (hr : (s.thread T h).run = .ready) (ho : (s.thread T h).overrun = false)

include hr ho

theorem State.issueThread_pending {i : Instr} (hp : (s.thread T h).pend = some i) :
    s.issueThread T h = exec i (s.choose T h) := by
  simp [State.issueThread, State.me_choose, hr, ho, hp]

theorem State.issueThread_fetches (hp : (s.thread T h).pend = none) : s.issueThread T h = (s.choose T h).fetchIssue := by
  simp [State.issueThread, State.me_choose, hr, ho, hp]

end

/-! ### The fetch (R195, R354) -/

theorem State.fetchIssue_unaligned (h8 : s.me.pc.toNat % 8 ≠ 0) : s.fetchIssue = .next (s.raise 0x05 s.me.pc) := by
  simp [State.fetchIssue, h8]

theorem State.fetchIssue_outside (h8 : s.me.pc.toNat % 8 = 0) (hc : s.myDom.codeSize ≤ s.me.pc.toNat) :
    s.fetchIssue = .next (s.raise 0x17 s.me.pc) := by
  simp [State.fetchIssue, h8, hc]

/-- A use that misses is counted at the thread and in a register; the thread keeps its pc (R387). -/
theorem State.me_countMiss : ∃ m, s.countMiss.me = { s.me with missed := m } ∧ s.countMiss.cur = s.cur := by
  unfold State.countMiss
  split
  · exact ⟨s.me.missed, rfl, rfl⟩
  · exact ⟨true, State.me_modMe _ _, rfl⟩

/-- The issuing thread waits for the record of its next word to become resident (R387). -/
def State.awaitsResident (s : State) : State :=
  s.countMiss.modMe fun t => { t with run := .parked .resident s.tcycle, readyAt := s.tcycle + 8 }

theorem State.awaitsResident_spec : s.awaitsResident.cur = s.cur ∧
    s.awaitsResident.me.run = .parked .resident s.tcycle ∧ s.awaitsResident.me.pc = s.me.pc := by
  obtain ⟨m, hme, hcur⟩ := State.me_countMiss (s := s)
  refine ⟨hcur, ?_, ?_⟩
  · rw [State.awaitsResident, State.me_modMe]
  · rw [State.awaitsResident, State.me_modMe, hme]

section

variable (h8 : s.me.pc.toNat % 8 = 0) (hc : s.me.pc.toNat < s.myDom.codeSize)

include h8 hc

theorem State.fetchIssue_lost (hf : s.fetchState = 2) : s.fetchIssue = .next (s.raise 0x13 s.me.pc) := by
  simp [State.fetchIssue, h8, Nat.not_le.2 hc, hf]

theorem State.fetchIssue_missed (hf : s.fetchState = 0) (hp : s.myDom.fdPolicy.getLsbD 3 = true) :
    s.fetchIssue = .next (s.raise 0x10 s.me.pc) := by
  have hbit : bit s.myDom.fdPolicy 3 = true := hp
  simp [State.fetchIssue, h8, Nat.not_le.2 hc, hf, hbit]

theorem State.fetchIssue_waits (hf : s.fetchState = 0) (hp : s.myDom.fdPolicy.getLsbD 3 = false) :
    s.fetchIssue = .next s.awaitsResident := by
  have hbit : bit s.myDom.fdPolicy 3 = false := hp
  simp [State.fetchIssue, h8, Nat.not_le.2 hc, hf, hbit, State.awaitsResident]

theorem State.fetchIssue_word (hf : s.fetchState = 1) : s.fetchIssue =
    match decode (s.fetchWord s.cur.1 s.cur.2) with
    | .ok i => exec i s.fetched
    | .error e => .next (s.fetched.raise (decodeCause e) (s.fetchWord s.cur.1 s.cur.2)) := by
  simp only [State.fetchIssue, h8, Nat.not_le.2 hc, hf]
  rfl

end

/-- A ready thread with no instruction pending issues the word at its pc, or takes what its fetch brings. -/
theorem State.step_fetches (hs : s.atThreads) (hn : s.nextTurn = some (T, h)) (hr : (s.thread T h).run = .ready)
    (ho : (s.thread T h).overrun = false) (hp : (s.thread T h).pend = none) :
    step s = (s.choose T h).fetchIssue :=
  (State.step_issues hs hn).trans (State.issueThread_fetches hr ho hp)

/-- Settles O57: where nothing comes first a step is the issue of the chosen thread, whose cases are those of the fetch. That the
fetch of a word lost or not yet resident does what a load does is the model's reading (log 150). -/
theorem stepRunsDecoded : Obligations.StepRunsDecoded := by
  unfold Obligations.StepRunsDecoded
  refine ⟨fun s T h hs hn => ?fetch, fun s T h i hs hn hr ho hp => ?pending, fun s hs hn => State.step_ticks hs hn,
    fun s hf => State.step_flight hf⟩
  case pending =>
    exact ⟨s.choose T h, State.issuing_choose, (State.step_issues hs hn).trans (State.issueThread_pending hr ho hp)⟩
  case fetch =>
    intro u hr ho hp
    have hme : (s.choose T h).me = u := State.me_choose
    have hsize : (s.choose T h).myDom.codeSize = (s.dom T (s.domNo T h)).codeSize := by rw [State.myDom_choose]
    rw [State.step_fetches hs hn hr ho hp]
    refine ⟨s.choose T h, State.issuing_choose, ?_⟩
    rw [← hsize, ← hme, ← State.fetchWord_choose]
    refine ⟨State.fetchIssue_unaligned, State.fetchIssue_outside, fun h8 hc => ⟨State.fetchIssue_lost h8 hc,
      State.fetchIssue_missed h8 hc, fun hf hpol => ?waits, fun hf => ?word⟩⟩
    case waits =>
      obtain ⟨hcur, hrun, hpc⟩ := State.awaitsResident_spec (s := s.choose T h)
      have hx : (s.choose T h).awaitsResident.thread T h = (s.choose T h).awaitsResident.me := by rw [State.me, hcur]; rfl
      exact ⟨_, State.fetchIssue_waits h8 hc hf hpol, by rw [hx]; exact hrun, by rw [hx]; exact hpc⟩
    case word =>
      have hdec : ∀ r, decode ((s.choose T h).fetchWord T h) = r → (s.choose T h).fetchIssue =
          match r with
          | .ok i => exec i (s.choose T h).fetched
          | .error e => .next ((s.choose T h).fetched.raise (decodeCause e) ((s.choose T h).fetchWord T h)) :=
        fun r hr => hr ▸ State.fetchIssue_word h8 hc hf
      exact ⟨fun i => hdec (.ok i), hdec (.error .illegal), hdec (.error .reserved), hdec (.error .unaccepted)⟩

end Sys2Proof.Machine

end

/-! ## A `yield` that retires in the cycle of a rotation boundary -/

section

namespace Sys2Proof.Machine

/-- Tile cycle 16 is a rotation boundary, and thread 0 of tile 0 retires a `yield` in it: it issued the `yield` in cycle 8. -/
def yieldAtBoundary : State :=
  { State.reset.modThread 0 0 fun t => { t with yielded := true, readyAt := 16 } with tcycle := 16 }

/-- The boundary leaves the thread out of the rotation: it waits for the following one, as R245 has it. -/
theorem yieldAtBoundary_rotated :
    completes .slotTableRotation yieldAtBoundary fun t => (t.thread 0 0).yielded = true :=
  ⟨_, rfl, rfl⟩

/-- Refutes O34: its first clause lets a thread whose `yield` retires in the very cycle of a boundary return at that boundary,
where R245 keeps it out until the following one, and so does the model. -/
theorem not_tilesOwnEvents : ¬ Obligations.TilesOwnEvents := by
  unfold Obligations.TilesOwnEvents
  rintro ⟨hslot, -⟩
  obtain ⟨t, ht, hyielded⟩ := yieldAtBoundary_rotated
  obtain ⟨u, hu, hthreads, -⟩ := hslot yieldAtBoundary
  obtain rfl : t = u := Host.Outcome.next.inj (ht.symm.trans hu)
  have hback : (t.thread 0 0).yielded = false := (congrArg Thread.yielded (hthreads 0 0)).trans rfl
  exact Bool.false_ne_true (hback.symm.trans hyielded)

end Sys2Proof.Machine

end

/-! ## What firmware's accesses to memory leave of the jobs -/

section

namespace Sys2Proof.Machine

open Bits

variable {s t u : State}

/-! ### Transfers leave launches, regions and bands as they are (R371 to R376) -/

theorem State.jobs_freshWords (s : State) (f : Nat → Bool) : (s.freshWords f).jobs = s.jobs := by
  unfold State.freshWords
  split <;> rfl

theorem State.jobs_scrub (s : State) (f : Nat → Bool) (r : Bool) : (s.scrub f r).jobs = s.jobs := by
  unfold State.scrub
  split <;> rfl

theorem State.jobs_wake (s : State) : s.wake.jobs = s.jobs := by
  obtain ⟨st, sv, w, h⟩ := s.onlyWoken_wake
  rw [h]
  rfl

theorem State.jobs_modStation (s : State) (n : Nat) (f : Station → Station) : (s.modStation n f).jobs = s.jobs := rfl

theorem State.jobs_writeMem (s : State) (a : Nat) (bs : List Byte) : (s.writeMem a bs).jobs = s.jobs := rfl

theorem State.jobs_setReg (s : State) (a : Nat) (v : W64) : (s.setReg a v).jobs = s.jobs := rfl

theorem State.jobs_modReg (s : State) (a : Nat) (f : W64 → W64) : (s.modReg a f).jobs = s.jobs := State.jobs_setReg ..

theorem State.jobs_busLog (s : State) (n ch line time tries lane : Nat) (swap : Option Nat) (isLost : Bool) :
    (s.busLog n ch line time tries lane swap isLost).jobs = s.jobs :=
  (State.jobs_setReg ..).trans ((State.jobs_setReg ..).trans (State.jobs_setReg ..))

theorem State.jobs_arrLog (s : State) (a : Nat) (uncorr : Bool) (sym pat : Nat) : (s.arrLog a uncorr sym pat).jobs = s.jobs :=
  (State.jobs_setReg ..).trans ((State.jobs_setReg ..).trans (State.jobs_setReg ..))

theorem State.jobs_after (s : State) (d : Nat) (e : Event) : (s.after d e).jobs = s.jobs := rfl

theorem State.jobs_startSwap (s : State) (a : Nat) (wr : Bool) (lane spare : Nat) :
    (s.startSwap a wr lane spare).jobs = s.jobs :=
  (State.jobs_after ..).trans ((State.jobs_modStation ..).trans ((State.jobs_modReg ..).trans (State.jobs_modReg ..)))

theorem State.jobs_attempt (s : State) (a : Nat) : (s.attempt a).1.jobs = s.jobs := by
  unfold State.attempt
  extract_lets key map hard run
  split <;> rfl

theorem State.jobs_attempts (a k : Nat) (s : State) (ls : List Nat) : (s.attempts a k ls).1.jobs = s.jobs := by
  induction k generalizing s ls with
  | zero => rfl
  | succ k ih =>
    have h := s.jobs_attempt a
    unfold State.attempts
    split
    next s1 e he => rw [he] at h; exact h
    next s1 l he => rw [he] at h; exact (ih s1 _).trans h

theorem State.jobs_transfer (s : State) (a : Nat) (wr : Bool) : (s.transfer a wr).1.jobs = s.jobs := by
  have h := State.jobs_attempts a 4 s []
  unfold State.transfer
  extract_lets n ch
  split
  · rfl
  · split
    · rfl
    · split
      next s1 e he => rw [he] at h; exact h
      next s1 e ls _ he => rw [he] at h; exact (State.jobs_busLog ..).trans h
      next s1 ls he =>
        rw [he] at h
        split
        · exact (State.jobs_startSwap ..).trans h
        · exact (State.jobs_busLog ..).trans h

theorem State.jobs_checkArray (s : State) (a : Nat) (p : BitVec 1152) : (s.checkArray a p).1.jobs = s.jobs := by
  refine foldl_keeps (fun x : State × Bool => x.1.jobs) _ (fun x j => ?_) _ (s, true)
  split
  · rfl
  · exact State.jobs_arrLog ..
  · exact State.jobs_arrLog ..

theorem State.jobs_recallL1 (s : State) (line : Nat) (keep : Option (Nat × Nat)) : (s.recallL1 line keep).jobs = s.jobs := by
  refine foldl_keeps State.jobs _ (fun u e => ?_) _ s
  split <;> rfl

theorem State.jobs_foldl_writeMem (s : State) (ws : List (Nat × List Byte)) :
    (ws.foldl (fun s w => s.writeMem w.1 w.2) s).jobs = s.jobs :=
  foldl_keeps State.jobs (fun s w => s.writeMem w.1 w.2) (fun _ _ => rfl) ws s

theorem State.jobs_putLost (s : State) (i line pid : Nat) : (s.putLost i line pid).jobs = s.jobs :=
  State.jobs_freshWords _ _

theorem State.jobs_freeLost (s : State) (n i : Nat) : (s.freeLost n i).jobs = s.jobs := by
  unfold State.freeLost
  extract_lets s1
  refine (State.jobs_wake _).trans ?_
  split
  · rfl
  · exact State.jobs_putLost ..

theorem State.jobs_writeBack (s : State) (line : Nat) : (s.writeBack line).1.jobs = s.jobs := by
  have h := s.jobs_transfer (lineAddr line) true
  unfold State.writeBack
  split
  next s1 e he => rw [he] at h; exact h
  next s1 u e _ he => rw [he] at h; exact h

theorem State.jobs_restore (s : State) (line i : Nat) (l : Lost) (ws : List (Nat × List Byte)) (keep : Option (Nat × Nat)) :
    (s.restore line i l ws keep).1.jobs = s.jobs := by
  unfold State.restore
  extract_lets n l1 seen
  have hseen : ∀ u : State, (seen u).jobs = u.jobs := fun u => by
    show State.jobs (match keep with | some (T, d) => _ | none => _) = _
    split
    · split
      · exact (State.jobs_foldl_writeMem _ _).trans (State.jobs_recallL1 ..)
      · exact State.jobs_recallL1 ..
    · exact State.jobs_recallL1 ..
  have h := s.jobs_transfer (lineAddr line) true
  split
  · split
    next s1 e he => rw [he] at h; exact h
    next s1 e he => rw [he] at h; exact (State.jobs_modStation ..).trans ((hseen s1).trans h)
    next s1 e he =>
      rw [he] at h
      extract_lets s2
      have hs2 : s2.jobs = s.jobs := (State.jobs_writeMem ..).trans ((hseen s1).trans h)
      clear_value s2
      dsimp only
      rw [State.jobs_freeLost]
      exact hs2
  · exact (State.jobs_modStation ..).trans (hseen s)

/-! ### A region that is placed stays placed -/

/-- The bands stand as they are, and every region that is placed stays placed; its phase may change. -/
structure State.keepsPlaced (s t : State) : Prop where
  bands : t.bands = s.bands
  regions : ∀ n, (s.regionOf n).isSome = true → (t.regionOf n).isSome = true

namespace State.keepsPlaced

theorem of_jobs (h : t.jobs = s.jobs) : s.keepsPlaced t := by
  simp only [State.jobs, Prod.mk.injEq] at h
  obtain ⟨-, hr, hb⟩ := h
  exact ⟨hb, fun n hn => by rw [State.regionOf, hr]; exact hn⟩

theorem refl (s : State) : s.keepsPlaced s := of_jobs rfl

theorem trans (h : s.keepsPlaced t) (k : t.keepsPlaced u) : s.keepsPlaced u :=
  ⟨k.bands.trans h.bands, fun n hn => k.regions n (h.regions n hn)⟩

/-- Followed by a change that leaves the jobs as they are. -/
theorem then_jobs (h : s.keepsPlaced t) (k : u.jobs = t.jobs) : s.keepsPlaced u := h.trans (of_jobs k)

theorem setRegion (s : State) (n : Nat) (r : Region) : s.keepsPlaced (s.setRegion n (some r)) := by
  refine ⟨rfl, fun m hm => ?_⟩
  have h : (s.setRegion n (some r)).regionOf m = if m = n then some r else s.regionOf m :=
    Table.get_set none s.regions n m (some r)
  rw [h]
  split
  · rfl
  · exact hm

theorem startRemoval (s : State) (pid : Nat) (region : Option Nat) (status : Nat) :
    s.keepsPlaced (s.startRemoval pid region status) := by
  unfold State.startRemoval
  split
  · exact refl s
  · extract_lets regs tiles blocks l s1 s2
    have h1 : s.keepsPlaced s1 :=
      foldl_rel State.keepsPlaced refl (fun _ _ _ => trans) _ (fun u e => setRegion u e.1 _) regs s
    exact h1.then_jobs (foldl_keeps State.jobs (fun s n => s.post (.killWrite n (BitVec.ofNat 16 pid))) (fun _ _ => rfl) blocks s2)

theorem enterLost (s : State) (line pid : Nat) : s.keepsPlaced (s.enterLost line pid) := by
  unfold State.enterLost
  extract_lets n t s1
  split
  · exact refl s
  · split
    · exact of_jobs (State.jobs_putLost ..)
    · split
      · exact of_jobs rfl
      · exact (of_jobs (State.jobs_modStation ..)).trans (startRemoval s1 ..)

theorem dropLine (s : State) (line : Nat) : s.keepsPlaced (s.dropLine line).1 := by
  have h := s.jobs_writeBack line
  unfold State.dropLine
  split
  · exact refl s
  · extract_lets gone
    have hgone : ∀ u : State, (gone u).jobs = u.jobs := fun u => State.jobs_freshWords _ _
    split
    · exact of_jobs (hgone s)
    · split
      · exact enterLost ..
      · split
        next s1 he => rw [he] at h; exact of_jobs ((hgone s1).trans h)
        next s1 he => rw [he] at h; exact (of_jobs ((hgone s1).trans h)).trans (enterLost ..)
        next s1 he => rw [he] at h; exact of_jobs h

theorem makeRoom (s : State) (n : Nat) : s.keepsPlaced (s.makeRoom n).1 := by
  unfold State.makeRoom
  split
  · exact refl s
  · extract_lets ls ls'
    split
    · exact refl s
    · split
      · exact State.keepsPlaced.trans (of_jobs (s := s) (t := s.bump) rfl) (dropLine s.bump _)
      · exact refl s

theorem lineIn (s : State) (pid line b : Nat) (alloc : Bool) : s.keepsPlaced (s.lineIn pid line b alloc).1 := by
  unfold State.lineIn
  extract_lets a keep fetch
  have hkeep : ∀ u : State, (keep u).jobs = u.jobs := fun u => by
    show State.jobs (if alloc then _ else _) = _
    split <;> rfl
  have hfetch : ∀ u : State, u.keepsPlaced (fetch u).1 := fun u => by
    have hroom : u.keepsPlaced (if alloc then u.makeRoom (u.bucketStation b) else (u, true)).1 := by
      split
      · exact makeRoom ..
      · exact refl u
    show u.keepsPlaced (Prod.fst (match if alloc then u.makeRoom (u.bucketStation b) else (u, true) with
      | (s0, false) => _
      | (s0, true) => _))
    split
    next s0 he => rw [he] at hroom; exact hroom
    next s0 he =>
      rw [he] at hroom
      have ht := s0.jobs_transfer a false
      split
      next s1 e he =>
        rw [he] at ht
        extract_lets p
        split
        · exact hroom.then_jobs ((hkeep s1).trans ht)
        · have hc := s1.jobs_checkArray a p
          split
          next s2 he => rw [he] at hc; exact hroom.then_jobs ((hkeep _).trans (hc.trans ht))
          next s2 he => rw [he] at hc; exact (hroom.then_jobs (hc.trans ht)).trans (enterLost ..)
      next s1 u' e _ he => rw [he] at ht; exact hroom.then_jobs ht
  split
  · exact refl s
  · split
    · split
      · split
        · exact enterLost ..
        · refine State.keepsPlaced.trans (of_jobs ?_) (hfetch _)
          exact State.jobs_freshWords ({ s with lines := Table.del s.lines line } : State) _
      · exact of_jobs (State.jobs_scrub ..)
    · exact hfetch s

theorem lineOut (s : State) (pid line b : Nat) (alloc : Bool) : s.keepsPlaced (s.lineOut pid line b alloc).1 := by
  unfold State.lineOut
  split
  · exact of_jobs rfl
  · split
    · have h := makeRoom s (s.bucketStation b)
      split
      next s1 he => rw [he] at h; exact h.then_jobs rfl
      next s1 he => rw [he] at h; exact h
    · have h := s.jobs_writeBack line
      split
      next s1 he => rw [he] at h; exact (of_jobs h).trans (enterLost ..)
      next => exact of_jobs h

theorem physRead (s : State) (pid a n b : Nat) (alloc : Bool) : s.keepsPlaced (s.physRead pid a n b alloc).1 := by
  have h := lineIn s pid (a / 128) b alloc
  unfold State.physRead
  split
  next s1 he => rw [he] at h; exact h
  next s1 u _ he => rw [he] at h; exact h

theorem lineWrite (s : State) (pid line b : Nat) (ws : List (Nat × List Byte)) (alloc : Bool) (keep : Option (Nat × Nat)) :
    s.keepsPlaced (s.lineWrite pid line b ws alloc keep).1 := by
  unfold State.lineWrite
  extract_lets lostLine whole
  have hlost : ∀ u : State, u.keepsPlaced (lostLine u).1 := fun u => by
    show u.keepsPlaced (Prod.fst (match u.lostAt line with | some (i, l) => _ | none => _))
    split
    · exact of_jobs (State.jobs_restore ..)
    · exact refl u
  split
  · exact hlost s
  · have hin : s.keepsPlaced (if whole then (s, .ok) else s.lineIn pid line b alloc).1 := by
      split
      · exact refl s
      · exact lineIn ..
    split
    next s1 he => rw [he] at hin; exact hin.trans (hlost s1)
    next s1 he => rw [he] at hin; exact hin
    next s1 he =>
      rw [he] at hin
      have hout := lineOut s1 pid line b alloc
      split
      next s2 he => rw [he] at hout; exact (hin.trans hout).trans (hlost s2)
      next s2 he => rw [he] at hout; exact hin.trans hout
      next s2 he =>
        rw [he] at hout
        extract_lets s3
        have h3 : s3.jobs = s2.jobs := by
          simp only [s3]
          split
          · exact State.jobs_freshWords ..
          · rfl
        exact (hin.trans hout).then_jobs ((State.jobs_foldl_writeMem _ _).trans ((State.jobs_recallL1 ..).trans h3))

/-- A write of firmware to device memory (R60). -/
theorem fwWrite (s : State) (pa : Nat) (b : List Byte) : s.keepsPlaced (s.fwWrite pa b).1 := by
  refine foldl_rel (fun x y : State × Bool => x.1.keepsPlaced y.1) (fun x => refl x.1) (fun _ _ _ => trans) _ (fun x p => ?_) _
    (s, true)
  dsimp only
  split
  · exact refl x.1
  · split
    next a _ =>
      split
      · exact refl x.1
      · have h : x.1.keepsPlaced (x.1.physWrite 0 a (x.1.sharedBucket a) ((b.drop (p.1 - pa)).take p.2) true).1 := lineWrite ..
        split
        next s1 he => rw [he] at h; exact h
        next s1 u _ he => rw [he] at h; exact h
    · exact of_jobs (State.jobs_lsStore ..)
    · exact refl x.1

theorem devRead (s : State) (pa n : Nat) : s.keepsPlaced (s.devRead pa n).1 := by
  unfold State.devRead
  split
  · extract_lets b
    split
    · exact refl s
    · exact physRead ..
  · split
    · exact refl s
    · exact of_jobs (State.jobs_scrub ..)
  · exact refl s
  · exact refl s

theorem far (s : State) (n : Nat) (f : Far) (data : List Byte) (shr : Bool) (cache : Nat) :
    s.keepsPlaced (s.far n f data shr cache).1 := by
  unfold State.far
  split
  · split <;> exact refl s
  · exact of_jobs rfl

theorem farDone (s : State) (n : Nat) (f : Far → Bool) : s.keepsPlaced (s.farDone n f) := by
  unfold State.farDone
  split
  · exact refl s
  · exact of_jobs rfl

/-- A read of the herd's memory by firmware or an engine (R78). -/
theorem physAll (s : State) (n pid pa len : Nat) : s.keepsPlaced (s.physAll n pid pa len).1 := by
  unfold State.physAll
  extract_lets here r
  have hr : s.keepsPlaced r.1 := by
    refine foldl_rel (fun x y : State × Use × List Byte => x.1.keepsPlaced y.1) (fun x => refl x.1) (fun _ _ _ => trans) _
      (fun x p => ?_) _ (s, .ok, [])
    dsimp only
    split
    · exact devRead ..
    · exact far ..
  split
  · exact hr
  · exact hr.trans (farDone ..)

end State.keepsPlaced

end Sys2Proof.Machine

end

/-! ## Commit entries and the end of a wave's commit (R39, R45) -/

section

namespace Sys2Proof.Machine

open Bits

variable {s : State} {n w c i T d : Nat} {b : Band}

/-- A fold whose every step only puts events on their way does no more. -/
theorem foldl_posts {β : Type} {g : State → β → State} (hg : ∀ u x, ∃ v, g u x = u.posted v) (l : List β) (u : State) :
    ∃ v, l.foldl g u = u.posted v := by
  refine foldl_rel (fun u t => ∃ v, t = u.posted v) (fun u => ⟨[], u.posted_nil.symm⟩) ?_ g hg l u
  rintro u _ _ ⟨v, rfl⟩ ⟨v', rfl⟩
  exact ⟨v ++ v', u.posted_posted v v'⟩

/-! ### The half of a wave's commits is emptied -/

theorem Dom.halfCount_setHalf (v : Dom) (h x : Nat) : (v.setHalf h x).halfCount h = x := by
  unfold Dom.setHalf Dom.halfCount
  split <;> rfl

theorem Dom.setHalf_band (v : Dom) (h x : Nat) : (v.setHalf h x).present = v.present ∧ (v.setHalf h x).band = v.band := by
  unfold Dom.setHalf
  split <;> exact ⟨rfl, rfl⟩

/-- Empties half h of the commits of tile T's domain of band n. -/
def State.emptyHalf (n h : Nat) (s : State) (T : Nat) : State :=
  match s.bandDom n T with | some d => s.modDom T d fun v => v.setHalf h 0 | none => s

variable {h : Nat}

theorem State.bandDom_emptyHalf (y : Nat) : (s.emptyHalf n h T).bandDom n y = s.bandDom n y := by
  unfold State.emptyHalf
  split
  · exact State.bandDom_modDom (fun v => v.setHalf_band h 0) y
  · rfl

theorem State.halfCount_emptyHalf {y : Nat} (hc : (s.dom y d).halfCount h = 0) :
    ((s.emptyHalf n h T).dom y d).halfCount h = 0 := by
  unfold State.emptyHalf
  split
  · rw [State.dom_modDom]
    split
    · exact Dom.halfCount_setHalf ..
    · exact hc
  · exact hc

theorem State.halfCount_emptyHalf_self (hd : s.bandDom n T = some d) : ((s.emptyHalf n h T).dom T d).halfCount h = 0 := by
  simp only [State.emptyHalf, hd, State.dom_modDom_self, Dom.halfCount_setHalf]

theorem State.halfCount_foldl_emptyHalf {l : List Nat} {y : Nat} (hy : y ∈ l) (hd : s.bandDom n y = some d) :
    ((l.foldl (State.emptyHalf n h) s).dom y d).halfCount h = 0 := by
  refine foldl_establishes (fun u : State => u.bandDom n y = some d) (fun u => (u.dom y d).halfCount h = 0) hy ?_ ?_ ?_ hd
  · exact fun u x _ hu => (State.bandDom_emptyHalf y).trans hu
  · exact fun u hu => State.halfCount_emptyHalf_self hu
  · exact fun u x _ _ hq => State.halfCount_emptyHalf hq

theorem State.foldl_emptyHalf_stores (l : List Nat) (s : State) :
    (l.foldl (State.emptyHalf n h) s).stores = s.stores ∧ (l.foldl (State.emptyHalf n h) s).bands = s.bands := by
  refine Prod.mk.inj (foldl_keeps (fun u : State => (u.stores, u.bands)) _ (fun u x => ?_) l s)
  unfold State.emptyHalf
  split <;> rfl

/-- After the last entry the row's halves are emptied and the band goes on to the next wave; the rest is events on their way,
the band's controller among them. -/
theorem State.endCommit_eq (s : State) (n : Nat) (b : Band) (w : Nat) : ∃ v, .stepStart n ∈ v ∧ s.endCommit n b w =
    ((b.rowTiles (w % b.height)).foldl (State.emptyHalf n (w / b.height % 2))
      (s.setBand n (some { b with commits := w + 1, progress := (0, 0) }))).posted v := by
  unfold State.endCommit
  extract_lets h b1 ts s1 s2 s3
  have h2 : ∃ v, s2 = s1.posted v := by
    refine foldl_posts (fun u T => ?_) ts s1
    split
    next d _ => exact ⟨[.stageEntry T d], rfl⟩
    next => exact ⟨[], u.posted_nil.symm⟩
  obtain ⟨v2, h2⟩ := h2
  have h3 : ∃ v, s3 = s2.posted v := by
    simp only [s3]
    split
    · exact ⟨[.waveCommit n (w + 1)], rfl⟩
    · exact ⟨[], s2.posted_nil.symm⟩
  obtain ⟨v3, h3⟩ := h3
  refine ⟨v2 ++ v3 ++ [.stepStart n], List.mem_append_right _ (List.mem_singleton_self _), ?_⟩
  calc s3.kick n = ((s1.posted v2).posted v3).posted [.stepStart n] := by rw [← h2, ← h3]; rfl
    _ = s1.posted (v2 ++ v3 ++ [.stepStart n]) := by
      rw [State.posted_posted, State.posted_posted, List.append_assoc]

theorem waveCommit_ends (hb : s.bandOf n = some b) (hf : b.finished = false) (hw : b.commits = w)
    (hr : s.waveRan n b w = true) (hp : b.progress = (c, i)) (hc : (b.rowTiles (w % b.height))[c]? = none) :
    exec (.waveCommit n w) s = .next (s.endCommit n b w) := by
  rw [exec_waveCommit, execWaveCommit]
  simp [hb, hf, hw, hr, hp, hc]

theorem State.endCommit_spec (s : State) (n : Nat) (b : Band) (w : Nat) :
    (∃ b', (s.endCommit n b w).bandOf n = some b' ∧ b'.commits = w + 1 ∧ b'.progress = (0, 0)) ∧
    s.sameMemory (s.endCommit n b w) ∧ .stepStart n ∈ (s.endCommit n b w).flight ∧
    ∀ y ∈ b.rowTiles (w % b.height), ∀ d, s.bandDom n y = some d →
      ((s.endCommit n b w).dom y d).halfCount (w / b.height % 2) = 0 := by
  obtain ⟨v, hv, ht⟩ := s.endCommit_eq n b w
  obtain ⟨hstores, hbands⟩ := State.foldl_emptyHalf_stores (n := n) (h := w / b.height % 2) (b.rowTiles (w % b.height))
    (s.setBand n (some { b with commits := w + 1, progress := (0, 0) }))
  rw [ht]
  refine ⟨⟨{ b with commits := w + 1, progress := (0, 0) }, ?_, rfl, rfl⟩, State.sameMemory_of_stores hstores,
    List.mem_append_right _ hv, fun y hy d hd => ?_⟩
  · refine (congrArg (Table.get none · n) hbands).trans ?_
    exact (State.bandOf_setBand ..).trans (if_pos rfl)
  · exact State.halfCount_foldl_emptyHalf (s := s.setBand n _) hy hd

/-! ### One commit entry is carried out -/

/-- Byte k of a field of whole bytes. -/
theorem toBytes_fld_getD {m : Nat} (x : BitVec m) (lo : Nat) {k l : Nat} (hk : k < l) :
    (toBytes l (fld x lo (8 * l))).getD k 0 = x.extractLsb' (lo + 8 * k) 8 := by
  have hlen : k < (toBytes l (fld x lo (8 * l))).length := by simpa [toBytes] using hk
  rw [List.getD_eq_getElem _ _ hlen]
  refine BitVec.eq_of_getLsbD_eq fun j hj => ?_
  have hin : 8 * k + j < 8 * l := by omega
  have h : ((toBytes l (fld x lo (8 * l)))[k]).getLsbD j = (x.extractLsb' lo (8 * l)).getLsbD (8 * k + j) := by
    simp only [toBytes, fld, List.getElem_map, List.getElem_range, BitVec.getLsbD_ofNat, Nat.testBit_shiftRight,
      BitVec.testBit_toNat, hj, decide_true, Bool.true_and]
  rw [h]
  simp only [BitVec.getLsbD_extractLsb', hin, hj, decide_true, Bool.true_and, Nat.add_assoc]

theorem length_toBytes (l v : Nat) : (toBytes l v).length = l := by simp [toBytes]

theorem State.byte_lsStore_out (s : State) (T a : Nat) (l : List Byte) {k : Nat}
    (hk : k < lsAddr T a ∨ lsAddr T a + l.length ≤ k) : (s.lsStore T a l).byte k = s.byte k := by
  rw [State.byte, State.lsStore, State.freshWords_mem]
  exact s.byte_writeMem_out _ _ _ hk

/-- A store to a tile's local store writes those bytes and no other, nor a word's full/empty flag, a slot or an accumulator. -/
theorem State.storedTo_lsStore (s : State) (T a : Nat) {l : List Byte} {f : Nat → Byte} (hf : ∀ k < l.length, l.getD k 0 = f k) :
    s.storedTo (s.lsStore T a l) (lsAddr T a) l.length f := by
  have hframe : (s.lsStore T a l).fe = s.fe ∧ (s.lsStore T a l).slotMem = s.slotMem ∧ (s.lsStore T a l).acc = s.acc := by
    unfold State.lsStore State.freshWords
    dsimp only
    split <;> exact ⟨rfl, rfl, rfl⟩
  refine ⟨fun k hk => ?_, fun k hk => s.byte_lsStore_out T a l hk, hframe⟩
  rw [← lsAddr_add, s.byte_lsStore_in T a l hk, hf k hk]

/-- An entry of the tile's own store, inside the domain's window, is stored there. -/
theorem State.drainEntry_own {e : BitVec 128} {a : Nat} (hf : (s.tile T).fenced = false)
    (hd : s.domOf T (s.dom T d).pid = some d) (he : e = BitVec.ofNat 128 (ofBytes (s.lsRead T a 16))) (hk : fld e 60 2 = 1)
    (hT : fld e 24 12 = T) (hin : (s.dom T d).holds (fld e 0 24) (2 ^ fld e 62 2) = true) :
    s.drainEntry T d a = (s.lsStore T (fld e 0 24) ((toBytes 8 (fld e 64 64)).take (2 ^ fld e 62 2)), some 0) := by
  unfold State.drainEntry
  simp only [← he, hk, hT]
  simp [hf, hd, hin]

theorem State.bandOf_setBand_post (s : State) (n : Nat) (v : Option Band) (e : Event) : ((s.setBand n v).post e).bandOf n = v :=
  (s.bandOf_setBand n n v).trans (if_pos rfl)

/-- The entry at which a band's commit of wave w stands: it is carried out and the band stands at the next. -/
theorem waveCommit_stores {t : State} (hb : s.bandOf n = some b) (hf : b.finished = false) (hw : b.commits = w)
    (hr : s.waveRan n b w = true) (hp : b.progress = (c, i)) (hc : (b.rowTiles (w % b.height))[c]? = some T)
    (hd : s.bandDom n T = some d) (hT : (s.tile T).fenced = false) (hi : i < (s.dom T d).halfCount (w / b.height % 2))
    (he : s.drainEntry T d ((s.dom T d).commitAt (w / b.height % 2) i) = (t, some 0)) :
    exec (.waveCommit n w) s = .next ((t.setBand n (some { b with progress := (c, i + 1) })).post (.waveCommit n w)) := by
  rw [exec_waveCommit, execWaveCommit]
  simp [hb, hf, hw, hr, hp, hc, hd, hT, he, Nat.not_le.2 hi]

theorem State.flight_lsStore (s : State) (T a : Nat) (l : List Byte) : (s.lsStore T a l).flight = s.flight := by
  unfold State.lsStore State.freshWords
  dsimp only
  split <;> rfl

theorem waveCommit_entry {e : BitVec 128} {off size : Nat} (hb : s.bandOf n = some b) (hf : b.finished = false)
    (hw : b.commits = w) (hr : s.waveRan n b w = true) (hp : b.progress = (c, i))
    (hc : (b.rowTiles (w % b.height))[c]? = some T) (hd : s.bandDom n T = some d) (hT : (s.tile T).fenced = false)
    (hown : s.domOf T (s.dom T d).pid = some d) (hi : i < (s.dom T d).halfCount (w / b.height % 2))
    (he : e = BitVec.ofNat 128 (s.number (lsAddr T ((s.dom T d).commitAt (w / b.height % 2) i)) 16))
    (hoff : off = (e.extractLsb' 0 24).toNat) (hsize : size = 2 ^ (e.extractLsb' 62 2).toNat) (hk : e.extractLsb' 60 2 = 1)
    (hTe : (e.extractLsb' 24 12).toNat = T) (hlo : (s.dom T d).lsBase ≤ off)
    (hhi : off + size ≤ (s.dom T d).lsBase + (s.dom T d).lsSize) :
    completes (.waveCommit n w) s fun t =>
      (s.storedTo t (lsAddr T off) size fun x => e.extractLsb' (64 + 8 * x) 8) ∧
      (∃ b', t.bandOf n = some b' ∧ b'.progress = (c, i + 1) ∧ b'.commits = w) ∧
      t.flight = s.flight ++ [.waveCommit n w] := by
  have hread : e = BitVec.ofNat 128 (ofBytes (s.lsRead T ((s.dom T d).commitAt (w / b.height % 2) i) 16)) := by
    rw [he, ← State.lsNum_eq_number]
    rfl
  have hholds : (s.dom T d).holds (fld e 0 24) (2 ^ fld e 62 2) = true := by
    simp only [Dom.holds, Bool.and_eq_true, decide_eq_true_eq]
    rw [hoff] at hlo hhi
    rw [hsize] at hhi
    exact ⟨hlo, hhi⟩
  have hdrain := State.drainEntry_own hT hown hread (congrArg BitVec.toNat hk) hTe hholds
  have hsize8 : size ≤ 8 := by
    rw [hsize]
    exact Nat.pow_le_pow_right (n := 2) (by decide) (Nat.le_of_lt_succ (e.extractLsb' 62 2).isLt)
  have hdata : ((toBytes 8 (fld e 64 64)).take size).length = size := by
    rw [List.length_take, length_toBytes, Nat.min_eq_left hsize8]
  refine ⟨_, waveCommit_stores hb hf hw hr hp hc hd hT hi hdrain, ?_, ?_, ?_⟩
  · have hstored := s.storedTo_lsStore T off (l := (toBytes 8 (fld e 64 64)).take size)
      (f := fun x => e.extractLsb' (64 + 8 * x) 8) fun k hk => ?_
    · rw [hdata, hoff, hsize] at hstored
      rw [hoff, hsize]
      exact hstored
    · rw [hdata] at hk
      have h8 : k < 8 := by omega
      rw [← toBytes_fld_getD e 64 h8, List.getD_eq_getElem?_getD, List.getElem?_take_of_lt hk, ← List.getD_eq_getElem?_getD]
  · exact ⟨{ b with progress := (c, i + 1) }, State.bandOf_setBand_post .., rfl, hw⟩
  · exact congrArg (· ++ [_]) (State.flight_lsStore ..)

end Sys2Proof.Machine

end

/-! ## Bands that finish and steps that overrun (R45, R48, R57) -/

section

namespace Sys2Proof.Machine

open Bits

variable {s : State} {n w T d : Nat} {b : Band}

/-! ### A band finishes -/

theorem State.startReply_of_started {l : Nat} {la : Launch} (hl : s.launchOf l = some la) (hs : la.started = true) :
    s.startReply l = s := by
  simp [State.startReply, hl, hs]

theorem bandFinish_finishes {r : Region} {la : Launch} (hb : s.bandOf n = some b) (hf : b.finished = false)
    (hover : b.over_ = true) (htotal : b.total.getD 0 ≤ b.commits) (hsaddle : b.saddleOut = 0)
    (hr : s.regionOf b.region = some r) (hl : s.launchOf r.launch = some la) (hs : la.started = true) :
    exec (.bandFinish n) s = .next ((s.setBand n (some { b with finished := true })).post
      (if r.phase = 1 then .drainComplete b.region else .launchEnd r.launch)) := by
  have hband : (s.setBand n (some { b with finished := true })).bandOf n = some { b with finished := true } :=
    (s.bandOf_setBand n n _).trans (if_pos rfl)
  have hregion : (s.setBand n (some { b with finished := true })).regionOf b.region = some r := hr
  have hstart : (s.setBand n (some { b with finished := true })).startReply r.launch = s.setBand n (some { b with finished := true }) :=
    State.startReply_of_started (l := r.launch) (la := la) hl hs
  rw [exec_bandFinish, execBandFinish]
  simp only [hb, hf, hover, Nat.not_lt.2 htotal, hsaddle, hband, hregion, hstart, Bool.false_eq_true, Bool.not_true, or_false,
    if_true, if_false, Option.all_some]
  split <;> rfl

/-! ### A step takes longer than the launch allows -/

/-- Tile y has work of the step still open: it is not fenced, and its domain of band n runs with a thread unfinished. -/
def State.openTile (s : State) (n : Nat) (b : Band) (y : Nat) : Prop :=
  y ∈ b.tiles ∧ (s.tile y).fenced = false ∧ ∃ d, s.bandDom n y = some d ∧ (s.dom y d).running = true ∧ s.unfinished y d ≠ []

/-- What stepOverrun looks for. -/
theorem State.any_openTile : (((b.tiles.filter fun T => !(s.tile T).fenced).filterMap fun T =>
      (s.bandDom n T).map fun d => (T, d)).any fun x => (s.dom x.1 x.2).running && !(s.unfinished x.1 x.2).isEmpty) = true ↔
    ∃ y, s.openTile n b y := by
  simp only [List.any_eq_true, List.mem_filterMap, List.mem_filter, Option.map_eq_some_iff, Bool.not_eq_true', Bool.and_eq_true,
    List.isEmpty_eq_false_iff]
  constructor
  · rintro ⟨_, ⟨y, ⟨hy, hf⟩, d, hd, rfl⟩, hr, hu⟩
    exact ⟨y, hy, hf, d, hd, hr, hu⟩
  · rintro ⟨y, hy, hf, d, hd, hr, hu⟩
    exact ⟨(y, d), ⟨y, ⟨hy, hf⟩, d, hd, rfl⟩, hr, hu⟩

section

variable (hb : s.bandOf n = some b) (hf : b.finished = false) (hw : b.step = w) (hs : b.started = true)
  (ho : b.overrun = false) (hg : b.gaitMax ≠ 0) (ht : b.startAt + b.gaitMax ≤ s.mcycle)

include hb hf hw hs ho hg ht

theorem stepOverrun_open (h : ∃ y, s.openTile n b y) : exec (.stepOverrun n w) s = .next
    ((s.setBand n (some { b with overrun := true })).posted (b.rows.map fun j => .meshRoute (.station (b.rowOf 0))
      (ctrlMsg (b.rowOf 0) (.station (b.rowOf j)) 0x13 b.pid (2 ^ 30 + n % 2 ^ 16) (.overrun n w)))) := by
  have hany := State.any_openTile.2 h
  rw [exec_stepOverrun, execStepOverrun]
  simp only [hb, hf, hw, hs, ho, hg, Nat.not_lt.2 ht, hany, ne_eq, not_true, Bool.not_true, Bool.false_eq_true, or_false, if_false,
    if_true]
  refine congrArg Host.Outcome.next ((State.foldl_posted _ _ (fun j => [_]) (fun _ _ => rfl) b.rows).trans ?_)
  rw [← List.map_eq_flatMap]
  rfl

theorem stepOverrun_closed (h : ¬ ∃ y, s.openTile n b y) : exec (.stepOverrun n w) s = .next
    (if b.holding ∨ b.replay.isSome then s else (s.setBand n (some { b with overrun := true })).notice
      (.station (b.rowOf 0)) b.pid 0x34 (BitVec.ofNat 64 w)) := by
  have hany := mt State.any_openTile.1 h
  rw [exec_stepOverrun, execStepOverrun]
  simp only [hb, hf, hw, hs, ho, hg, Nat.not_lt.2 ht, hany, ne_eq, not_true, Bool.not_true, Bool.false_eq_true, or_false, if_false]

/-- Held, or under replay, the band is left alone. -/
theorem stepOverrun_held (h : ¬ ∃ y, s.openTile n b y) (hh : b.holding = true ∨ b.replay ≠ none) :
    exec (.stepOverrun n w) s = .next s := by
  have hheld : b.holding = true ∨ b.replay.isSome = true := hh.imp_right Option.isSome_iff_ne_none.2
  rw [stepOverrun_closed hb hf hw hs ho hg ht h, if_pos hheld]

theorem stepOverrun_notice (h : ¬ ∃ y, s.openTile n b y) (hh : b.holding = false) (hr : b.replay = none) :
    completes (.stepOverrun n w) s fun t => s.sameMemory t ∧
      ∃ m, t.flight = s.flight ++ [.meshRoute (.station (b.rowOf 0)) m] ∧ m.typ = 0x21 ∧ m.arg = 0x34 ∧
        m.pay = .words (BitVec.ofNat 64 w) 0 := by
  have hfree : ¬ (b.holding = true ∨ b.replay.isSome = true) := by simp [hh, hr]
  rw [completes, stepOverrun_closed hb hf hw hs ho hg ht h, if_neg hfree]
  exact ⟨_, rfl, State.sameMemory_of_stores rfl, _, rfl, rfl, rfl, rfl⟩

theorem stepOverrun_orders (h : ∃ y, s.openTile n b y) : completes (.stepOverrun n w) s fun t => s.sameMemory t ∧
    ∀ x < b.height, t.tells (b.rowOf 0) (.station (b.rowOf x)) 0x13 (.overrun n w) := by
  refine ⟨_, stepOverrun_open hb hf hw hs ho hg ht h, State.sameMemory_of_stores rfl, fun x hx => ?_⟩
  exact State.tells_of_mem (List.mem_append_right _ (List.mem_map.2 ⟨x, List.mem_range.2 hx, rfl⟩))

end

/-! ### The order reaches a tile -/

/-- Ends the step of one thread for overrun, its wait for a full/empty word too. -/
def State.overrunThread (T : Nat) (s : State) (h : Nat) : State :=
  let s1 := s.modThread T h fun x => { x with overrun := true }
  match (s1.thread T h).run with
  | .parked (.fe _) _ => s1.withdraw T h
  | _ => s1

theorem State.overrunThread_eq {h : Nat} (hp : ∀ ea y, (s.thread T h).run ≠ .parked (.fe ea) y) :
    s.overrunThread T h = s.modThread T h fun x => { x with overrun := true } := by
  unfold State.overrunThread
  extract_lets s1
  split
  next ea y hrun =>
    have hs1 : s1.thread T h = { s.thread T h with overrun := true } := State.thread_modThread_self ..
    exact absurd ((congrArg Thread.run hs1).symm.trans hrun) (hp ea y)
  next => rfl

/-- Every thread named is marked overrun; memory, events on their way and the other threads stand. -/
theorem State.foldl_overrunThread (l : List Nat) : ∀ {s : State}, (∀ h ea y, (s.thread T h).run ≠ .parked (.fe ea) y) →
    (l.foldl (State.overrunThread T) s).stores = s.stores ∧ (l.foldl (State.overrunThread T) s).flight = s.flight ∧
    ∀ x, (l.foldl (State.overrunThread T) s).thread T x =
      if x ∈ l then { s.thread T x with overrun := true } else s.thread T x := by
  induction l with
  | nil => exact fun _ => ⟨rfl, rfl, fun x => (if_neg List.not_mem_nil).symm⟩
  | cons a l ih =>
    intro s hp
    have hrun : ∀ h, ((s.modThread T a fun x => { x with overrun := true }).thread T h).run = (s.thread T h).run := fun h => by
      rw [State.thread_modThread]
      split
      next e => rw [e.2]
      next => rfl
    obtain ⟨hstores, hflight, hthread⟩ := ih (s := s.modThread T a fun x => { x with overrun := true })
      fun h ea y => (hrun h).symm ▸ hp h ea y
    rw [List.foldl_cons, State.overrunThread_eq (hp a)]
    refine ⟨hstores, hflight, fun x => ?_⟩
    rw [hthread x, State.thread_modThread]
    by_cases hx : x = a
    · subst hx
      simp
    · simp [hx]

theorem overrunOrder_marks (hw : (s.dom T d).step.toNat = w) (hr : (s.dom T d).running = true)
    (hp : ∀ x ea y, (s.thread T x).run ≠ .parked (.fe ea) y) :
    completes (.overrunOrder T d w) s fun t => s.sameMemory t ∧ t.flight = s.flight ∧
      ∀ x, t.thread T x = if x ∈ s.unfinished T d then { s.thread T x with overrun := true } else s.thread T x := by
  have hexec : exec (.overrunOrder T d w) s = .next ((s.unfinished T d).foldl (State.overrunThread T) s) := by
    rw [exec_overrunOrder, execOverrunOrder]
    simp only [hw, hr, ne_eq, not_true, Bool.not_true, Bool.false_eq_true, or_false, if_false]
    rfl
  obtain ⟨hstores, hflight, hthread⟩ := State.foldl_overrunThread (T := T) (s.unfinished T d) hp
  exact ⟨_, hexec, State.sameMemory_of_stores hstores, hflight, hthread⟩

end Sys2Proof.Machine

end

/-! ## A region is freed (R46, R58) -/

section

namespace Sys2Proof.Machine

open Bits

variable {s : State} {n w : Nat}

/-! ### What resets of tiles leave of the jobs and of the host -/

/-- The jobs, the host's memory, the interrupts it has been sent, and the time. -/
def State.ledger (s : State) :
    (Tbl (Option Launch) × Tbl (Option Region) × Tbl (Option Band)) × List Host.Cell × List (Nat × Nat) × W64 :=
  (s.jobs, s.hostMem, s.msix, s.time)

theorem State.ledger_modTile (s : State) (T : Nat) (f : Tile → Tile) : (s.modTile T f).ledger = s.ledger := rfl

theorem State.ledger_modStation (s : State) (k : Nat) (f : Station → Station) : (s.modStation k f).ledger = s.ledger := rfl

theorem State.ledger_lsClear (s : State) (T off k : Nat) : (s.lsClear T off k).ledger = s.ledger := rfl

theorem State.ledger_clearRed (s : State) (x : Nat) : (s.clearRed x).ledger = s.ledger := rfl

theorem State.ledger_forgetRx (s : State) (src : Node) (tx : List TxStream) : (s.forgetRx src tx).ledger = s.ledger := by
  refine foldl_keeps State.ledger _ (fun u x => ?_) tx s
  split
  · split
    · exact State.ledger_modTile ..
    · rfl
  · rfl

theorem State.ledger_resetDom (s : State) (T d : Nat) : (s.resetDom T d).ledger = s.ledger := by
  unfold State.resetDom
  extract_lets dm s1 s2 s3 s4 used dead s4' accs s5 s6
  have h1 : s1.ledger = s.ledger := foldl_keeps State.ledger _ (fun u i => State.ledger_modTile ..) _ s
  have h2 : s2.ledger = s1.ledger := by
    refine foldl_keeps State.ledger _ (fun u i => ?_) _ s1
    split
    · exact State.ledger_modTile ..
    · rfl
  have h3 : s3.ledger = s2.ledger := foldl_keeps State.ledger _ (fun u i => State.ledger_modTile ..) _ s2
  have h4 : s4.ledger = s3.ledger := foldl_keeps State.ledger _ (fun u i => State.ledger_modTile ..) _ s3
  have h4' : s4'.ledger = s4.ledger := (State.ledger_forgetRx ..).trans (State.ledger_modTile ..)
  clear_value s4'
  have h5 : s5.ledger = s4'.ledger := rfl
  clear_value s5
  have h6 : s6.ledger = s5.ledger := State.ledger_modTile ..
  calc (s6.setDom T d _).ledger = s6.ledger := State.ledger_modTile ..
    _ = s.ledger := by rw [h6, h5, h4', h4, h3, h2, h1]

theorem State.ledger_wake (s : State) : s.wake.ledger = s.ledger := by
  obtain ⟨st, sv, v, h⟩ := s.onlyWoken_wake
  rw [h]
  rfl

/-! ### The bands and regions that are left -/

/-- Bands taken out of the table. -/
theorem State.foldl_setBand_none (l : List Nat) (s : State) :
    let t := l.foldl (fun s b => s.setBand b none) s
    (t.launches, t.regions, t.hostMem, t.msix, t.time) = (s.launches, s.regions, s.hostMem, s.msix, s.time) ∧
    ∀ m ∈ l, t.bandOf m = none := by
  refine ⟨foldl_keeps (fun t : State => (t.launches, t.regions, t.hostMem, t.msix, t.time))
    (fun s b => s.setBand b none) (fun _ _ => rfl) l s, fun m hm => ?_⟩
  refine foldl_establishes (fun _ => True) (fun t : State => t.bandOf m = none) hm (fun _ _ _ _ => trivial) ?_ ?_ trivial
  · exact fun u _ => (u.bandOf_setBand m m none).trans (if_pos rfl)
  · intro u x _ _ hu
    rw [State.bandOf_setBand]
    split
    · rfl
    · exact hu

/-- The numbers of a region's bands. -/
theorem State.mem_bandNumbers {b : Band} (hb : (w, b) ∈ s.regionBands n) :
    w ∈ s.bands.filterMap fun e => match e.2 with | some b => if b.region = n then some e.1 else none | none => none := by
  obtain ⟨⟨m, v⟩, he, hv⟩ := List.mem_filterMap.1 hb
  refine List.mem_filterMap.2 ⟨⟨m, v⟩, he, ?_⟩
  cases v with
  | none => cases hv
  | some v =>
    dsimp only at hv ⊢
    split at hv
    next h =>
      obtain ⟨rfl, -⟩ := Prod.mk.inj (Option.some.inj hv)
      exact if_pos h
    next => cases hv

/-- A region that is not placed is left alone. -/
theorem State.freeRegion_of_none (h : s.regionOf n = none) : s.freeRegion n = s := by
  simp only [State.freeRegion, h]

/-- A region is freed: it and its bands are out of their tables, the other regions, the launches and the host's side stand. -/
theorem State.freeRegion_spec (s : State) (n : Nat) :
    ((s.freeRegion n).launches, (s.freeRegion n).hostMem, (s.freeRegion n).msix, (s.freeRegion n).time) =
      (s.launches, s.hostMem, s.msix, s.time) ∧
    (∀ m, (s.freeRegion n).regionOf m = if m = n then none else s.regionOf m) ∧
    ((s.regionOf n).isSome = true → ∀ w b, (w, b) ∈ s.regionBands n → (s.freeRegion n).bandOf w = none) := by
  obtain ⟨t, ht⟩ : ∃ t, t = s.freeRegion n := ⟨_, rfl⟩
  rw [← ht]
  unfold State.freeRegion at ht
  split at ht
  next hr =>
    subst ht
    refine ⟨rfl, fun m => ?_, fun h => absurd (hr ▸ h) (by decide)⟩
    split
    next h => rw [h, hr]
    next => rfl
  next r hr =>
    extract_lets s1 s2 s3 mine s4 s5 s6 at ht
    have h1 : s1.ledger = s.ledger := by
      refine foldl_keeps State.ledger _ (fun u T => ?_) _ s
      refine (State.ledger_lsClear ..).trans ?_
      split
      · exact State.ledger_resetDom ..
      · rfl
    have h2 : s2.ledger = s1.ledger := rfl
    have h3 : s3.ledger = s2.ledger := foldl_keeps State.ledger _ (fun u x => State.ledger_clearRed u x) _ s2
    have h4 : s4.ledger = s3.ledger := foldl_keeps State.ledger _ (fun u x => State.ledger_modStation ..) _ s3
    have hs : s4.ledger = s.ledger := h4.trans (h3.trans (h2.trans h1))
    have hs3 : s3.bands = s.bands := congrArg (fun x => x.1.2.2) (h3.trans (h2.trans h1))
    simp only [State.ledger, State.jobs, Prod.mk.injEq] at hs
    obtain ⟨⟨hl, hg, -⟩, hh, hm, ht4⟩ := hs
    obtain ⟨hkeep, hbands⟩ := State.foldl_setBand_none mine s4
    simp only [Prod.mk.injEq] at hkeep
    obtain ⟨hl5, hg5, hh5, hm5, ht5⟩ := hkeep
    have hwake := (s6.setRegion n none).ledger_wake
    rw [← ht] at hwake
    simp only [State.ledger, State.jobs, Prod.mk.injEq] at hwake
    obtain ⟨⟨hlt, hgt, hbt⟩, hht, hmt, htt⟩ := hwake
    refine ⟨?_, fun m => ?_, fun _ w b hb => ?_⟩
    · rw [hlt, hht, hmt, htt, ← hl, ← hh, ← hm, ← ht4, ← hl5, ← hh5, ← hm5, ← ht5]
      rfl
    · have hm : s5.regionOf m = s.regionOf m := congrArg (Table.get none · m) (hg5.trans hg)
      rw [State.regionOf, hgt, ← hm]
      exact Table.get_set none s5.regions n m none
    · have hmem : w ∈ mine := by
        have h := State.mem_bandNumbers hb
        rw [← hs3] at h
        exact h
      exact (congrArg (Table.get none · w) hbt).trans (hbands w hmem)

theorem State.regionOf_freeRegion (s : State) (n m : Nat) :
    (s.freeRegion n).regionOf m = if m = n then none else s.regionOf m :=
  (s.freeRegion_spec n).2.1 m

end Sys2Proof.Machine

end

/-! ## Drained regions and ended launches (R46, R58) -/

section

namespace Sys2Proof.Machine

open Bits

variable {s t u : State} {n k w : Nat} {b : Band} {r : Region} {la : Launch} {q : BitVec 512}

/-! ### What a request is answered -/

theorem State.answered_putReply (s : State) (k : Nat) (q : BitVec 512) (off code x : Nat) :
    s.answered (s.putReply k q off code x) k q off code x := by
  unfold State.answered State.putReply State.hostWrite
  rw [Nat.add_assoc]
  exact ⟨rfl, rfl⟩

theorem State.answered_modService {off code x : Nat} (h : s.answered t k q off code x) (j : Nat) (f : Service → Service) :
    s.answered (t.modService j f) k q off code x := h

theorem State.answered_answerReq (s : State) (k : Nat) (q : BitVec 512) (x : Nat) :
    s.answered (s.answerReq k q x) k q 0 (reqCode q) x := by
  unfold State.answerReq
  exact State.answered_modService (s.answered_putReply k q 0 (reqCode q) x) _ _

/-- An answer is the same from a state with the host's side and the time of this one. -/
theorem State.answered_of_ledger {off code x : Nat} (h : u.answered t k q off code x)
    (hu : (u.hostMem, u.msix, u.time) = (s.hostMem, s.msix, s.time)) : s.answered t k q off code x := by
  simp only [Prod.mk.injEq] at hu
  obtain ⟨hh, hm, ht⟩ := hu
  obtain ⟨hhost, hmsix⟩ := h
  exact ⟨by rw [hhost, hh, ht], by rw [hmsix, hm]⟩

theorem State.launchOf_of_jobs (h : t.jobs = s.jobs) (m : Nat) : t.launchOf m = s.launchOf m :=
  congrArg (fun x : Tbl (Option Launch) × Tbl (Option Region) × Tbl (Option Band) => Table.get none x.1 m) h

theorem State.regionOf_of_jobs (h : t.jobs = s.jobs) (m : Nat) : t.regionOf m = s.regionOf m :=
  congrArg (fun x : Tbl (Option Launch) × Tbl (Option Region) × Tbl (Option Band) => Table.get none x.2.1 m) h

theorem State.bandOf_of_jobs (h : t.jobs = s.jobs) (m : Nat) : t.bandOf m = s.bandOf m :=
  congrArg (fun x : Tbl (Option Launch) × Tbl (Option Region) × Tbl (Option Band) => Table.get none x.2.2 m) h

theorem State.jobs_putReply (s : State) (k : Nat) (q : BitVec 512) (off code x : Nat) :
    (s.putReply k q off code x).jobs = s.jobs := by
  have hw : ∀ a l, ∃ h, s.hostWrite k a l = { s with hostMem := h } := fun a l => ⟨_, rfl⟩
  unfold State.putReply
  obtain ⟨h, he⟩ := hw (reqReply q + off) (replyBytes code x (reqTag q) s.time)
  rw [he]
  rfl

theorem State.jobs_answerReq (s : State) (k : Nat) (q : BitVec 512) (x : Nat) : (s.answerReq k q x).jobs = s.jobs := by
  obtain ⟨h, m, v, he⟩ := s.answerReq_frame k q x
  rw [he]
  rfl

theorem State.jobs_post (h : t.jobs = s.jobs) (e : Event) : (t.post e).jobs = s.jobs := h

theorem State.answered_post {off code x : Nat} (h : s.answered t k q off code x) (e : Event) :
    s.answered (t.post e) k q off code x := h

/-- What the answer to a request leaves, and the event put on its way after it. -/
theorem State.answerReq_post_spec (s : State) (k : Nat) (q : BitVec 512) (x : Nat) (e : Event) :
    let t := (s.answerReq k q x).post e
    t.jobs = s.jobs ∧ s.answered t k q 0 (reqCode q) x ∧ e ∈ t.flight ∧ (k, reqMsix q) ∈ t.msix := by
  have hmsix : (k, reqMsix q) ∈ (s.answerReq k q x).msix := by
    rw [State.msix_answerReq]
    exact List.mem_append_right _ (List.mem_singleton_self _)
  exact ⟨State.jobs_post (s.jobs_answerReq k q x) e, State.answered_post (s.answered_answerReq k q x) e,
    List.mem_append_right _ (List.mem_singleton_self _), hmsix⟩

/-! ### A drained region -/

/-- Brings the RCB of a drained band up to date in device memory, unless an earlier one could not be. -/
def State.drainBand (acc : State × Bool) (e : Nat × Band) : State × Bool :=
  if !acc.2 then acc
  else match acc.1.physAll (stackOf e.2.addr) 0 e.2.addr 128 with
    | (s1, .ok, old) => s1.fwWrite e.2.addr (toBytes 128 (drainedRcb e.2 (BitVec.ofNat 1024 (ofBytes old))).toNat)
    | (s1, _, _) => (s1, false)

/-- Once the RCBs of its finished bands are brought up to date, a region under DRAIN is freed and the request answered. -/
theorem drainComplete_frees (hr : s.regionOf n = some r) (hp : r.phase = 1) (hq : r.req = some (k, q))
    (hfin : ∀ e ∈ s.regionBands n, e.2.finished = true) (hw : (s.regionBands n).foldl State.drainBand (s, true) = (t, true)) :
    exec (.drainComplete n) s = .next (((t.freeRegion n).answerReq k q 0).post (.launchEnd r.launch)) := by
  have hany : (s.regionBands n).any (fun e => !e.2.finished) = false := by
    refine List.any_eq_false.2 fun e he => ?_
    simp [hfin e he]
  have hexec : exec (.drainComplete n) s = .next (
      let x := (s.regionBands n).foldl State.drainBand (s, true)
      if !x.2 then s.holdAt (stackOf r.addr) (.drainComplete n)
      else ((x.1.freeRegion n).answerReq k q 0).post (.launchEnd r.launch)) := by
    rw [exec_drainComplete, execDrainComplete]
    simp only [hr, hp, hq, hany, ne_eq, not_true, Bool.false_eq_true, or_false, if_false]
    rfl
  rw [hexec, hw]
  rfl

theorem drainComplete_empty (hr : s.regionOf n = some r) (hp : r.phase = 1) (hq : r.req = some (k, q))
    (hb : s.regionBands n = []) : completes (.drainComplete n) s fun t => t.regionOf n = none ∧
      s.answered t k q 0 (reqCode q) 0 ∧ .launchEnd r.launch ∈ t.flight := by
  have hexec := drainComplete_frees (t := s) hr hp hq (fun e he => by rw [hb] at he; cases he) (by rw [hb]; rfl)
  obtain ⟨hkeep, hregions, -⟩ := s.freeRegion_spec n
  obtain ⟨hjobs, hans, hpost, -⟩ := (s.freeRegion n).answerReq_post_spec k q 0 (.launchEnd r.launch)
  refine ⟨_, hexec, ?_, State.answered_of_ledger hans (congrArg Prod.snd hkeep), hpost⟩
  exact (State.regionOf_of_jobs hjobs n).trans ((hregions n).trans (if_pos rfl))

/-- One band: its RCB is read and written again. -/
theorem drainComplete_one {old : List Byte} {s0 s1 : State} (hr : s.regionOf n = some r) (hp : r.phase = 1)
    (hq : r.req = some (k, q)) (hb : s.regionBands n = [(w, b)]) (hf : b.finished = true)
    (hread : s.physAll (stackOf b.addr) 0 b.addr 128 = (s0, .ok, old))
    (hwrite : s0.fwWrite b.addr (toBytes 128 (drainedRcb b (BitVec.ofNat 1024 (ofBytes old))).toNat) = (s1, true)) :
    completes (.drainComplete n) s fun t => t.regionOf n = none ∧ t.bandOf w = none ∧ (k, reqMsix q) ∈ t.msix ∧
      .launchEnd r.launch ∈ t.flight := by
  have hstep : State.drainBand (s, true) (w, b) = (s1, true) := by simp [State.drainBand, hread, hwrite]
  have hfin : ∀ e ∈ s.regionBands n, e.2.finished = true := fun e he => by
    rw [hb] at he
    rw [List.mem_singleton.1 he]
    exact hf
  have hexec := drainComplete_frees (t := s1) hr hp hq hfin (by rw [hb]; exact hstep)
  have h0 := State.keepsPlaced.physAll s (stackOf b.addr) 0 b.addr 128
  rw [hread] at h0
  have h1 := State.keepsPlaced.fwWrite s0 b.addr (toBytes 128 (drainedRcb b (BitVec.ofNat 1024 (ofBytes old))).toNat)
  rw [hwrite] at h1
  have hplaced : s.keepsPlaced s1 := h0.trans h1
  have hmine : (w, b) ∈ s1.regionBands n := by
    rw [State.regionBands, hplaced.bands, ← State.regionBands, hb]
    exact List.mem_singleton_self _
  obtain ⟨-, hregions, hbands⟩ := s1.freeRegion_spec n
  have hgone := hbands (hplaced.regions n (by rw [hr]; rfl)) w b hmine
  obtain ⟨hjobs, -, hpost, hmsix⟩ := (s1.freeRegion n).answerReq_post_spec k q 0 (.launchEnd r.launch)
  refine ⟨_, hexec, ?_, ?_, hmsix, hpost⟩
  · exact (State.regionOf_of_jobs hjobs n).trans ((hregions n).trans (if_pos rfl))
  · exact (State.bandOf_of_jobs hjobs w).trans hgone

/-! ### The end of a launch -/

theorem State.foldl_freeRegion (l : List (Nat × Region)) (s : State) :
    let t := l.foldl (fun s x => s.freeRegion x.1) s
    (t.hostMem, t.msix, t.time) = (s.hostMem, s.msix, s.time) ∧ ∀ x ∈ l, t.regionOf x.1 = none := by
  refine ⟨foldl_keeps (fun t : State => (t.hostMem, t.msix, t.time)) _ (fun u x => ?_) l s, fun x hx => ?_⟩
  · exact congrArg Prod.snd (u.freeRegion_spec x.1).1
  · refine foldl_establishes (fun _ => True) (fun t : State => t.regionOf x.1 = none) hx (fun _ _ _ _ => trivial) ?_ ?_ trivial
    · exact fun u _ => (u.regionOf_freeRegion x.1 x.1).trans (if_pos rfl)
    · intro u y _ _ hu
      rw [State.regionOf_freeRegion]
      split
      · rfl
      · exact hu

theorem launchEnd_frees (hl : s.launchOf n = some la) (hs : la.started = true)
    (hb : ∀ x ∈ s.bandsOf n, x.2.finished = true) (hr : ∀ x ∈ s.regionsOf n, x.2.phase = 0) (hno : s.removals = []) :
    exec (.launchEnd n) s = .next (((((s.regionsOf n).foldl (fun s x => s.freeRegion x.1) s).putReply la.sv la.req 32 0x81
      la.status).setLaunch n none).wake) := by
  have hdone : s.launchDone n = true := by
    rw [State.launchDone, Bool.and_eq_true, List.all_eq_true, List.all_eq_true]
    exact ⟨hb, fun x hx => beq_iff_eq.2 (hr x hx)⟩
  rw [exec_launchEnd, execLaunchEnd]
  simp only [hl, hdone, hno, hs, List.any_nil, Bool.not_true, Bool.false_eq_true, or_false, if_false, if_true]

theorem State.setLaunch_none_wake (s : State) (n : Nat) :
    ((s.setLaunch n none).wake).launchOf n = none ∧ (∀ m, ((s.setLaunch n none).wake).regionOf m = s.regionOf m) ∧
    ((s.setLaunch n none).wake).hostMem = s.hostMem ∧ ((s.setLaunch n none).wake).msix = s.msix := by
  have hwake := (s.setLaunch n none).ledger_wake
  have hjobs : (s.setLaunch n none).wake.jobs = (s.setLaunch n none).jobs := congrArg Prod.fst hwake
  simp only [State.ledger, Prod.mk.injEq] at hwake
  obtain ⟨-, hhost, hmsix, -⟩ := hwake
  refine ⟨?_, fun m => State.regionOf_of_jobs hjobs m, hhost, hmsix⟩
  exact (State.launchOf_of_jobs hjobs n).trans (Table.get_set_self none s.launches n none)

theorem launchEnd_ends (hl : s.launchOf n = some la) (hs : la.started = true)
    (hb : ∀ x ∈ s.bandsOf n, x.2.finished = true) (hr : ∀ x ∈ s.regionsOf n, x.2.phase = 0) (hno : s.removals = []) :
    completes (.launchEnd n) s fun t => t.launchOf n = none ∧ (∀ x ∈ s.regionsOf n, t.regionOf x.1 = none) ∧
      s.answered t la.sv la.req 32 0x81 la.status := by
  obtain ⟨hside, hgone⟩ := State.foldl_freeRegion (s.regionsOf n) s
  have hexec := launchEnd_frees hl hs hb hr hno
  generalize (s.regionsOf n).foldl (fun s x => s.freeRegion x.1) s = u at hside hgone hexec
  obtain ⟨hlaunch, hregion, hhost, hmsix⟩ := (u.putReply la.sv la.req 32 0x81 la.status).setLaunch_none_wake n
  have hreply := u.jobs_putReply la.sv la.req 32 0x81 la.status
  obtain ⟨hrhost, hrmsix⟩ := State.answered_of_ledger (u.answered_putReply la.sv la.req 32 0x81 la.status) hside
  refine ⟨_, hexec, hlaunch, fun x hx => ?_, hhost.trans hrhost, hmsix.trans hrmsix⟩
  exact (hregion x.1).trans ((State.regionOf_of_jobs hreply x.1).trans (hgone x hx))

end Sys2Proof.Machine

end

/-! ## Freezes, and how the work of bands and launches ends (R359, R360) -/

section

namespace Sys2Proof.Machine

open Bits

variable {s t u : State} {n k : Nat} {r : Region} {q : BitVec 512}

/-! ### The image is written -/

theorem freezeImageWrite_waits (hr : s.regionOf n = some r) (hp : r.phase = 2) (hq : r.req = some (k, q)) (hl : r.limit ≠ 0)
    (h : s.regionQuiet n = false) : exec (.freezeImageWrite n) s = .next (s.after 1 (.freezeImageWrite n)) := by
  rw [exec_freezeImageWrite, execFreezeImageWrite]
  simp [hr, hp, hq, hl, h]

/-- Something a tile's image would be made of was lost in its tile. -/
def State.imageLost (s : State) (x : Nat × Nat) : Bool :=
  let dm := s.dom x.1 x.2
  s.lsBad x.1 dm.lsBase dm.lsSize || (onesOf dm.accMask.toNat 64).any (s.accBad x.1) ||
    (onesOf dm.slotMask.toNat 16).any (s.slotBad x.1)

theorem any_onesOf_eq_false {m : Nat} {v : BitVec m} {j : Nat} {f : Nat → Bool} (h : ∀ a < j, v.getLsbD a = true → f a = false) :
    (onesOf v.toNat j).any f = false := by
  refine List.any_eq_false.2 fun a ha => ?_
  obtain ⟨hj, hv⟩ := List.mem_filter.1 ha
  rw [h a (List.mem_range.1 hj) hv]
  exact Bool.false_ne_true

theorem State.imageLost_eq_false {x : Nat × Nat} (hls : s.lsBad x.1 (s.dom x.1 x.2).lsBase (s.dom x.1 x.2).lsSize = false)
    (hacc : ∀ a < 64, (s.dom x.1 x.2).accMask.getLsbD a = true → s.accBad x.1 a = false)
    (hslot : ∀ a < 16, (s.dom x.1 x.2).slotMask.getLsbD a = true → s.slotBad x.1 a = false) : s.imageLost x = false := by
  simp only [State.imageLost, hls, any_onesOf_eq_false hacc, any_onesOf_eq_false hslot, Bool.or_false]

/-- The image is written when the region is quiet and nothing of it is lost: it joins the images, the region stays frozen with
nothing due, and the request is answered. -/
theorem freezeImageWrite_writes {s1 : State} (hr : s.regionOf n = some r) (hp : r.phase = 2) (hq : r.req = some (k, q))
    (hl : r.limit ≠ 0) (hquiet : s.regionQuiet n = true) (hlost : ∀ x ∈ s.imageTiles n, s.imageLost x = false)
    (hw : s.fwWrite (reqImage q) (((s.imageTiles n).zipIdx).flatMap fun x =>
      headerBytes s.images.length x.2 ++ s.tileImage x.1.1 x.1.2) = (s1, true)) :
    ∃ img f, exec (.freezeImageWrite n) s = .next (((({ s1 with images := s1.images ++ [img] } : State).scrub f false).setRegion n
      (some { r with req := none, limit := 0 })).answerReq k q 0) := by
  have hany : (s.imageTiles n).any s.imageLost = false := List.any_eq_false.2 fun x hx => by
    rw [hlost x hx]
    exact Bool.false_ne_true
  unfold State.imageLost at hany
  rw [exec_freezeImageWrite, execFreezeImageWrite]
  simp only [hr, hp, hq, hl, hquiet, hany, hw, ne_eq, not_true, or_false, Bool.not_true, Bool.false_eq_true, if_false]
  exact ⟨_, _, rfl⟩

/-- What is left once the region stands with nothing due and the request is answered. -/
theorem State.frozen_spec (s : State) (img : Image) (f : Nat → Bool) (n : Nat) (v : Region) (k : Nat) (q : BitVec 512) :
    let t := ((({ s with images := s.images ++ [img] } : State).scrub f false).setRegion n (some v)).answerReq k q 0
    t.regionOf n = some v ∧ t.mem = s.mem ∧ t.images.length = s.images.length + 1 ∧ (k, reqMsix q) ∈ t.msix := by
  have himg : (({ s with images := s.images ++ [img] } : State).scrub f false).images = s.images ++ [img] := by
    unfold State.scrub
    split <;> rfl
  have hmem : (({ s with images := s.images ++ [img] } : State).scrub f false).mem = s.mem :=
    congrArg Prod.fst (State.stores_scrub ..)
  generalize ({ s with images := s.images ++ [img] } : State).scrub f false = u at himg hmem
  intro t
  obtain ⟨h, m, sv, he⟩ := (u.setRegion n (some v)).answerReq_frame k q 0
  have hmsix := (u.setRegion n (some v)).msix_answerReq k q 0
  have ht : t = { u.setRegion n (some v) with hostMem := h, msix := m, services := sv } := he
  refine ⟨?_, ?_, ?_, ?_⟩
  · rw [ht]
    exact u.regionOf_setRegion_self n (some v)
  · rw [ht]
    exact hmem
  · rw [ht]
    exact (congrArg List.length himg).trans List.length_append
  · rw [hmsix]
    exact List.mem_append_right _ (List.mem_singleton_self _)

/-! ### A freeze is given up -/

/-- Lets a band go on, with its controller's step start on its way. -/
def State.letGo (s : State) (e : Nat × Band) : State := (s.modBand e.1 fun b => { b with holding := false }).kick e.1

theorem State.bandOf_letGo (s : State) (e : Nat × Band) (m : Nat) :
    (s.letGo e).bandOf m = if m = e.1 then (s.bandOf m).map (fun b => { b with holding := false }) else s.bandOf m := by
  refine (State.bandOf_setBand s e.1 m _).trans ?_
  split
  next h => rw [h]
  next => rfl

/-- After all of them are let go no band among them holds, and the regions, the host's side and the time stand. -/
theorem State.foldl_letGo (l : List (Nat × Band)) (s : State) :
    let t := l.foldl State.letGo s
    t.regions = s.regions ∧ (t.hostMem, t.msix, t.time) = (s.hostMem, s.msix, s.time) ∧
      ∀ e ∈ l, s.bandOf e.1 ≠ none → ∃ b', t.bandOf e.1 = some b' ∧ b'.holding = false := by
  obtain ⟨hreg, hside⟩ := Prod.mk.inj (foldl_keeps (fun t : State => (t.regions, t.hostMem, t.msix, t.time)) State.letGo
    (fun _ _ => rfl) l s)
  refine ⟨hreg, hside, fun e he hs => ?_⟩
  refine foldl_establishes (fun u : State => u.bandOf e.1 ≠ none) (fun u => ∃ b', u.bandOf e.1 = some b' ∧ b'.holding = false) he
    (fun u y _ hu => ?_) (fun u hu => ?_) (fun u y _ _ hq => ?_) hs
  · rw [State.bandOf_letGo]
    split
    · simpa using hu
    · exact hu
  · obtain ⟨b, hb⟩ := Option.ne_none_iff_exists'.1 hu
    rw [State.bandOf_letGo, if_pos rfl, hb]
    exact ⟨_, rfl, rfl⟩
  · obtain ⟨b', hb', hh⟩ := hq
    rw [State.bandOf_letGo, hb']
    split
    · exact ⟨_, rfl, rfl⟩
    · exact ⟨b', rfl, hh⟩

theorem freezeAbandon_gives_up (hr : s.regionOf n = some r) (hp : r.phase = 2) (hq : r.req = some (k, q)) (hl : r.limit ≠ 0)
    (hlate : r.limit ≤ s.mcycle) : exec (.freezeAbandon n) s = .next
    (((s.regionBands n).foldl State.letGo (s.setRegion n (some { r with phase := 0, req := none, limit := 0 }))).answerReq
      k q 0x11) := by
  rw [exec_freezeAbandon, execFreezeAbandon]
  simp only [hr, hp, hq, hl, hlate, State.unfreeze, Option.isSome_some, ne_eq, not_false_eq_true, and_self, if_true]
  rfl

theorem freezeAbandon_completes (hr : s.regionOf n = some r) (hp : r.phase = 2) (hq : r.req = some (k, q)) (hl : r.limit ≠ 0)
    (hlate : r.limit ≤ s.mcycle) : completes (.freezeAbandon n) s fun t =>
      t.regionOf n = some { r with phase := 0, req := none, limit := 0 } ∧ s.answered t k q 0 (reqCode q) 0x11 ∧
      ∀ m x, s.bandOf m = some x → x.region = n → ∃ b', t.bandOf m = some b' ∧ b'.holding = false := by
  have hexec := freezeAbandon_gives_up hr hp hq hl hlate
  obtain ⟨hregions, hside, hbands⟩ := State.foldl_letGo (s.regionBands n)
    (s.setRegion n (some { r with phase := 0, req := none, limit := 0 }))
  generalize (s.regionBands n).foldl State.letGo _ = u at hexec hregions hside hbands
  have hjobs := u.jobs_answerReq k q 0x11
  refine ⟨_, hexec, ?_, State.answered_of_ledger (u.answered_answerReq k q 0x11) hside, fun m x hm hx => ?_⟩
  · refine (State.regionOf_of_jobs hjobs n).trans ((congrArg (Table.get none · n) hregions).trans ?_)
    exact s.regionOf_setRegion_self n _
  · rw [State.bandOf_of_jobs hjobs]
    have hne : s.bandOf m ≠ none := by
      rw [hm]
      exact Option.some_ne_none x
    exact hbands (m, x) (State.mem_regionBands hm hx) hne

/-! ### O40 -/

/-- Settles O40, event by event: the commit entries by what a store to the tile's own local store does, the freed region by the
ledger that the resets of its tiles leave, the drained band by the jobs that firmware's accesses to memory leave. The
statement follows the model's own choices in a freeze's image: its tiles' headers are opaque and the image is kept as data
(log 16), an accumulator stands in it row by row (log 76), and of several bands each follows the one before it by number
(log 132). -/
theorem scrollEnds : Obligations.ScrollEnds := by
  intro s n w c i T d k b r q la h dm
  refine ⟨fun hb hf => ⟨?commit, ?finish, ?overrun⟩, ?order, fun hr => ⟨?drain, ?freeze⟩, ?launch⟩
  case commit =>
    refine fun hw hran hp => ⟨fun hc => ?_, fun hc hd hT hown hi hk hTe hlo hhi => ?_⟩
    · exact ⟨_, waveCommit_ends hb hf hw hran hp hc, s.endCommit_spec n b w⟩
    · exact waveCommit_entry hb hf hw hran hp hc hd hT hown hi rfl rfl rfl hk hTe hlo hhi
  case finish => exact bandFinish_finishes hb hf
  case overrun =>
    refine fun hw hs ho hg ht => ⟨fun h => ?_, fun h => ?_, fun h => ?_⟩
    · exact stepOverrun_held hb hf hw hs ho hg ht (not_exists.2 h)
    · exact stepOverrun_notice hb hf hw hs ho hg ht (not_exists.2 h)
    · exact stepOverrun_orders hb hf hw hs ho hg ht h
  case order => exact overrunOrder_marks
  case drain =>
    refine fun hp hq => ⟨fun hb => ?_, fun old s0 s1 hb hf hread hwrite => ?_⟩
    · exact drainComplete_empty hr hp hq hb
    · exact drainComplete_one hr hp hq hb hf hread hwrite
  case freeze =>
    refine fun hp hq hl => ⟨fun hquiet => ?_, fun s1 hquiet hgood hwrite => ?_, fun hlate => ?_⟩
    · exact freezeImageWrite_waits hr hp hq hl hquiet
    · have hlost : ∀ x ∈ s.imageTiles n, s.imageLost x = false := fun x hx => by
        obtain ⟨hls, hacc, hslot⟩ := hgood x hx
        exact State.imageLost_eq_false hls hacc hslot
      obtain ⟨img, f, hexec⟩ := freezeImageWrite_writes hr hp hq hl hquiet hlost hwrite
      exact ⟨_, hexec, s1.frozen_spec img f n _ k q⟩
    · exact freezeAbandon_completes hr hp hq hl hlate
  case launch => exact launchEnd_ends

end Sys2Proof.Machine

end

/-! ## O59: every step keeps memory in canonical form

One rule for each function of the model that returns a state, in the order of the model: what it is given in canonical form
it leaves so. The only rules with something to show about memory itself are those of `writeMem` and `lsClear`; the others
follow a function's branches to the rules of the functions that it calls. -/

section

namespace Sys2Proof.Machine

open Bits

/-! Each of the many proofs below, elaborated beside the others, takes a thread with a stack of its own; one after another they
stay within the check's memory. -/
set_option Elab.async false

/-- Memory is in canonical form. -/
def State.tidy (s : State) : Prop := Memory.wf s.mem = true

/-- An outcome's next state, if there is one, has its memory in canonical form. -/
def leavesTidy (o : Host.Outcome State Fault Refusal) : Prop :=
  match o with
  | .next t => t.tidy
  | _ => True

variable {s : State}

theorem leavesTidy_next (hs : s.tidy) : leavesTidy (.next s) := hs

theorem foldl_tidy {β : Type} {g : State → β → State} (hg : ∀ u x, u.tidy → (g u x).tidy) (l : List β) {s : State}
    (hs : s.tidy) : (l.foldl g s).tidy :=
  List.foldlRecOn l g hs fun u hu x _ => hg u x hu

theorem foldl_fst_tidy {β γ : Type} {g : State × γ → β → State × γ} (hg : ∀ u x, u.1.tidy → (g u x).1.tidy) (l : List β)
    {s : State × γ} (hs : s.1.tidy) : (l.foldl g s).1.tidy :=
  List.foldlRecOn (motive := fun u => u.1.tidy) l g hs fun u hu x _ => hg u x hu

theorem foldl_option_tidy {β : Type} {g : Option State → β → Option State}
    (hg : ∀ u x, (∀ t, u = some t → t.tidy) → ∀ t, g u x = some t → t.tidy) (l : List β) {o : Option State}
    (ho : ∀ t, o = some t → t.tidy) : ∀ t, l.foldl g o = some t → t.tidy :=
  List.foldlRecOn (motive := fun o => ∀ t, o = some t → t.tidy) l g ho fun u hu x _ => hg u x hu

theorem State.tidy_getD {o : Option State} (ho : ∀ t, o = some t → t.tidy) (hs : s.tidy) : (o.getD s).tidy := by
  cases o with
  | none => exact hs
  | some t => exact ho t rfl

/-! ### The named operations over the state -/

theorem State.tidy_setTile (hs : s.tidy) (T : Nat) (t : Tile) : (s.setTile T t).tidy := hs

theorem State.tidy_modTile (hs : s.tidy) (T : Nat) (f : Tile → Tile) : (s.modTile T f).tidy := hs

theorem State.tidy_setThread (hs : s.tidy) (T h : Nat) (t : Thread) : (s.setThread T h t).tidy := hs

theorem State.tidy_modThread (hs : s.tidy) (T h : Nat) (f : Thread → Thread) : (s.modThread T h f).tidy := hs

theorem State.tidy_setDom (hs : s.tidy) (T d : Nat) (v : Dom) : (s.setDom T d v).tidy := hs

theorem State.tidy_modDom (hs : s.tidy) (T d : Nat) (f : Dom → Dom) : (s.modDom T d f).tidy := hs

theorem State.tidy_setSlot (hs : s.tidy) (T n : Nat) (v : Slot) : (s.setSlot T n v).tidy := hs

theorem State.tidy_setBar (hs : s.tidy) (T b : Nat) (v : Barrier) : (s.setBar T b v).tidy := hs

theorem State.tidy_setPort (hs : s.tidy) (T p : Nat) (v : SPort) : (s.setPort T p v).tidy := hs

theorem State.tidy_setStation (hs : s.tidy) (n : Nat) (v : Station) : (s.setStation n v).tidy := hs

theorem State.tidy_modStation (hs : s.tidy) (n : Nat) (f : Station → Station) : (s.modStation n f).tidy := hs

theorem State.tidy_setPortSt (hs : s.tidy) (p : Nat) (v : PortSt) : (s.setPortSt p v).tidy := hs

theorem State.tidy_modPortSt (hs : s.tidy) (p : Nat) (f : PortSt → PortSt) : (s.modPortSt p f).tidy := hs

theorem State.tidy_setRouter (hs : s.tidy) (r : Nat) (v : Router) : (s.setRouter r v).tidy := hs

theorem State.tidy_modRouter (hs : s.tidy) (r : Nat) (f : Router → Router) : (s.modRouter r f).tidy := hs

theorem State.tidy_setService (hs : s.tidy) (k : Nat) (v : Service) : (s.setService k v).tidy := hs

theorem State.tidy_modService (hs : s.tidy) (k : Nat) (f : Service → Service) : (s.modService k f).tidy := hs

theorem State.tidy_setLaunch (hs : s.tidy) (l : Nat) (v : Option Launch) : (s.setLaunch l v).tidy := hs

theorem State.tidy_setRegion (hs : s.tidy) (r : Nat) (v : Option Region) : (s.setRegion r v).tidy := hs

theorem State.tidy_setBand (hs : s.tidy) (b : Nat) (v : Option Band) : (s.setBand b v).tidy := hs

theorem State.tidy_modBand (hs : s.tidy) (b : Nat) (f : Band → Band) : (s.modBand b f).tidy := hs

theorem State.tidy_modMe (hs : s.tidy) (f : Thread → Thread) : (s.modMe f).tidy := hs

theorem State.tidy_bump (hs : s.tidy) : s.bump.tidy := hs

theorem State.tidy_wx (hs : s.tidy) (r : XReg) (v : W64) : (s.wx r v).tidy := hs

theorem State.tidy_wp (hs : s.tidy) (p : PReg) (v : Bool) : (s.wp p v).tidy := hs

theorem State.tidy_writeMem (hs : s.tidy) (a : Nat) (b : List Byte) : (s.writeMem a b).tidy := State.wf_writeMem a b hs

theorem State.tidy_lsWrite (hs : s.tidy) (T off : Nat) (b : List Byte) : (s.lsWrite T off b).tidy := by
  unfold State.lsWrite
  grind [State.tidy_writeMem]

theorem State.tidy_setFe (hs : s.tidy) (T off : Nat) (v : Bool) : (s.setFe T off v).tidy := hs

theorem State.tidy_lsClear (hs : s.tidy) (T off n : Nat) : (s.lsClear T off n).tidy := State.wf_lsClear T off n hs

theorem State.tidy_setAcc (hs : s.tidy) (T n row col : Nat) (v : W32) : (s.setAcc T n row col v).tidy := hs

theorem State.tidy_setRegRaw (hs : s.tidy) (a : Nat) (v : W64) : (s.setRegRaw a v).tidy := hs

theorem State.tidy_post (hs : s.tidy) (i : Event) : (s.post i).tidy := hs

theorem State.tidy_after (hs : s.tidy) (n : Nat) (i : Event) : (s.after n i).tidy := hs

theorem State.tidy_afterTile (hs : s.tidy) (n : Nat) (i : Event) : (s.afterTile n i).tidy := hs

theorem State.tidy_afterTicks (hs : s.tidy) (n : Nat) (i : Event) : (s.afterTicks n i).tidy := hs

theorem State.tidy_send (hs : s.tidy) (m : Msg) : (s.send m).tidy := hs

theorem State.tidy_goto (hs : s.tidy) (pc : W64) : (s.goto pc).tidy := hs

theorem State.tidy_advance (hs : s.tidy) : s.advance.tidy := hs

theorem State.tidy_park (hs : s.tidy) (i : Instr) (w : Wait) : (s.park i w).tidy := hs

theorem State.tidy_finish (hs : s.tidy) (T h : Nat) (f : Thread → Thread) : (s.finish T h f).tidy := hs

theorem State.tidy_enterMbox (hs : s.tidy) (T d : Nat) (e : BitVec 256) : ∀ t, s.enterMbox T d e = some t → t.tidy := by
  unfold State.enterMbox
  grind [State.tidy_finish, State.tidy_modDom]

theorem State.tidy_faultReport (hs : s.tidy) (T d cause : Nat) (addr d1 : W64) (src : Node) :
    (s.faultReport T d cause addr d1 src).tidy := by
  unfold State.faultReport
  grind [State.tidy_enterMbox, State.tidy_modDom, State.tidy_after]

theorem State.tidy_escalate (hs : s.tidy) (T d h code req : Nat) (val : W64) (pc : BitVec 32) :
    (s.escalate T d h code req val pc).tidy := hs

theorem State.tidy_notice (hs : s.tidy) (src : Node) (pid code : Nat) (val : W64) :
    (s.notice src pid code val).tidy := hs

theorem State.tidy_trap (hs : s.tidy) (T h c : Nat) (val : W64) : (s.trap T h c val).tidy := by
  unfold State.trap
  grind [State.tidy, State.tidy_setThread, State.tidy_escalate]

theorem State.tidy_raise (hs : s.tidy) (c : Nat) (val : W64) : (s.raise c val).tidy := by
  unfold State.raise
  grind [State.tidy_modMe, State.tidy_trap]

theorem State.tidy_trapReturn (hs : s.tidy) : s.trapReturn.tidy := hs

/-! ### Issuing an instruction -/

theorem State.tidy_issue {body : State → State} (hbody : ∀ u : State, u.tidy → (body u).tidy) (hs : s.tidy)
    (i : Instr) (g : Guard) (regs : List XReg) (grid : Bool) (priv : Nat) :
    (s.issue i g regs grid priv body).tidy := by
  unfold State.issue
  grind [State.tidy_raise, State.tidy_advance]

theorem State.tidy_complete (hs : s.tidy) {f : State → State} (hf : ∀ u : State, u.tidy → (f u).tidy) :
    (s.complete f).tidy := by
  unfold State.complete
  grind [State.tidy_advance, State.tidy_raise]

theorem State.tidy_ranged (hs : s.tidy) {f : State → State} (hf : ∀ u : State, u.tidy → (f u).tidy) :
    (s.ranged f).tidy := by
  unfold State.ranged
  grind [State.tidy_raise]

theorem tidy_regInstr {f : State → State} (hf : ∀ u : State, u.tidy → (f u).tidy) (hs : s.tidy) (i : Instr)
    (g : Guard) (regs : List XReg) :
    leavesTidy (regInstr i g regs f s) := by
  unfold regInstr
  grind [leavesTidy, State.tidy_issue, State.tidy_complete]

/-! ### Building, testing and converting generic addresses -/

@[simp] theorem tidy_execLea (hs : s.tidy) (g : Guard) (d : XReg) (m : MAddr) :
    leavesTidy (execLea g d m s) := tidy_regInstr (fun _ hu => State.tidy_wx hu _ _) hs ..

@[simp] theorem tidy_execSpctest (hs : s.tidy) (g : Guard) (d : XReg) (p : PReg) (a : XReg) :
    leavesTidy (execSpctest g d p a s) := tidy_regInstr (fun _ hu => State.tidy_wp (State.tidy_wx hu _ _) _ _) hs ..

@[simp] theorem tidy_execSpcast (hs : s.tidy) (g : Guard) (d : XReg) (p : PReg) (a : XReg) (t : CastTo) :
    leavesTidy (execSpcast g d p a t s) := by
  refine tidy_regInstr (fun u hu => ?_) hs ..
  split
  · exact State.tidy_wp (State.tidy_wx hu _ _) _ _
  · exact State.tidy_wp (State.tidy_wx hu _ _) _ _

@[simp] theorem tidy_execMkshr (hs : s.tidy) (g : Guard) (d a b : XReg) :
    leavesTidy (execMkshr g d a b s) := tidy_regInstr (fun _ hu => State.tidy_wx hu _ _) hs ..

/-! ### The integer register ALU -/

theorem tidy_alu2 (hs : s.tidy) (i : Instr) (g : Guard) (t : IntTy) (d a b : XReg) (f : Nat → Nat → Nat) :
    leavesTidy (alu2 i g t d a b f s) := by
  unfold alu2
  grind [leavesTidy, tidy_regInstr, State.tidy_wx]

theorem tidy_aluSat (hs : s.tidy) (i : Instr) (g : Guard) (t : IntTy) (sat : Bool) (d a b : XReg)
    (f : Int → Int → Int) :
    leavesTidy (aluSat i g t sat d a b f s) := by
  unfold aluSat
  grind [leavesTidy, tidy_regInstr, State.tidy_wx]

theorem tidy_aluCount (hs : s.tidy) (i : Instr) (g : Guard) (t : IntTy) (d a b : XReg) (f : Nat → Nat → Nat) :
    leavesTidy (aluCount i g t d a b f s) := by
  unfold aluCount
  grind [leavesTidy, tidy_regInstr, State.tidy_wx]

theorem tidy_alu1 (hs : s.tidy) (i : Instr) (g : Guard) (t : IntTy) (d a : XReg) (f : Nat → Nat) :
    leavesTidy (alu1 i g t d a f s) := by
  unfold alu1
  grind [leavesTidy, tidy_regInstr, State.tidy_wx]

@[simp] theorem tidy_execAdd (hs : s.tidy) (g : Guard) (t : IntTy) (sat : Bool) (d a b : XReg) :
    leavesTidy (execAdd g t sat d a b s) := tidy_aluSat hs ..

@[simp] theorem tidy_execSub (hs : s.tidy) (g : Guard) (t : IntTy) (sat : Bool) (d a b : XReg) :
    leavesTidy (execSub g t sat d a b s) := tidy_aluSat hs ..

@[simp] theorem tidy_execMul (hs : s.tidy) (g : Guard) (t : IntTy) (sat : Bool) (d a b : XReg) :
    leavesTidy (execMul g t sat d a b s) := tidy_aluSat hs ..

@[simp] theorem tidy_execMulh (hs : s.tidy) (g : Guard) (t : IntTy) (d a b : XReg) :
    leavesTidy (execMulh g t d a b s) := by
  unfold execMulh
  exact tidy_alu2 hs ..

@[simp] theorem tidy_execMulhw (hs : s.tidy) (g : Guard) (t : IntTy) (d a b : XReg) :
    leavesTidy (execMulhw g t d a b s) := by
  unfold execMulhw
  exact tidy_alu2 hs ..

@[simp] theorem tidy_execDiv (hs : s.tidy) (g : Guard) (t : IntTy) (d a b : XReg) :
    leavesTidy (execDiv g t d a b s) := tidy_alu2 hs ..

@[simp] theorem tidy_execDivw (hs : s.tidy) (g : Guard) (t : IntTy) (d a b : XReg) :
    leavesTidy (execDivw g t d a b s) := tidy_alu2 hs ..

@[simp] theorem tidy_execRem (hs : s.tidy) (g : Guard) (t : IntTy) (d a b : XReg) :
    leavesTidy (execRem g t d a b s) := tidy_alu2 hs ..

@[simp] theorem tidy_execRemw (hs : s.tidy) (g : Guard) (t : IntTy) (d a b : XReg) :
    leavesTidy (execRemw g t d a b s) := tidy_alu2 hs ..

@[simp] theorem tidy_execAnd (hs : s.tidy) (g : Guard) (t : IntTy) (d a b : XReg) :
    leavesTidy (execAnd g t d a b s) := tidy_alu2 hs ..

@[simp] theorem tidy_execOr (hs : s.tidy) (g : Guard) (t : IntTy) (d a b : XReg) :
    leavesTidy (execOr g t d a b s) := tidy_alu2 hs ..

@[simp] theorem tidy_execXor (hs : s.tidy) (g : Guard) (t : IntTy) (d a b : XReg) :
    leavesTidy (execXor g t d a b s) := tidy_alu2 hs ..

@[simp] theorem tidy_execAndn (hs : s.tidy) (g : Guard) (t : IntTy) (d a b : XReg) :
    leavesTidy (execAndn g t d a b s) := tidy_alu2 hs ..

@[simp] theorem tidy_execOrn (hs : s.tidy) (g : Guard) (t : IntTy) (d a b : XReg) :
    leavesTidy (execOrn g t d a b s) := tidy_alu2 hs ..

@[simp] theorem tidy_execShl (hs : s.tidy) (g : Guard) (t : IntTy) (d a b : XReg) :
    leavesTidy (execShl g t d a b s) := tidy_aluCount hs ..

@[simp] theorem tidy_execShr (hs : s.tidy) (g : Guard) (t : IntTy) (d a b : XReg) :
    leavesTidy (execShr g t d a b s) := tidy_aluCount hs ..

@[simp] theorem tidy_execSra (hs : s.tidy) (g : Guard) (t : IntTy) (d a b : XReg) :
    leavesTidy (execSra g t d a b s) := tidy_aluCount hs ..

@[simp] theorem tidy_execRol (hs : s.tidy) (g : Guard) (t : IntTy) (d a b : XReg) :
    leavesTidy (execRol g t d a b s) := tidy_aluCount hs ..

@[simp] theorem tidy_execMin (hs : s.tidy) (g : Guard) (t : IntTy) (d a b : XReg) :
    leavesTidy (execMin g t d a b s) := by
  unfold execMin
  exact tidy_alu2 hs ..

@[simp] theorem tidy_execMax (hs : s.tidy) (g : Guard) (t : IntTy) (d a b : XReg) :
    leavesTidy (execMax g t d a b s) := by
  unfold execMax
  exact tidy_alu2 hs ..

@[simp] theorem tidy_execMinw (hs : s.tidy) (g : Guard) (t : IntTy) (d a b : XReg) :
    leavesTidy (execMinw g t d a b s) := tidy_alu2 hs ..

@[simp] theorem tidy_execMaxw (hs : s.tidy) (g : Guard) (t : IntTy) (d a b : XReg) :
    leavesTidy (execMaxw g t d a b s) := tidy_alu2 hs ..

@[simp] theorem tidy_execClz (hs : s.tidy) (g : Guard) (t : IntTy) (d a : XReg) :
    leavesTidy (execClz g t d a s) := tidy_alu1 hs ..

@[simp] theorem tidy_execCtz (hs : s.tidy) (g : Guard) (t : IntTy) (d a : XReg) :
    leavesTidy (execCtz g t d a s) := tidy_alu1 hs ..

@[simp] theorem tidy_execPopc (hs : s.tidy) (g : Guard) (t : IntTy) (d a : XReg) :
    leavesTidy (execPopc g t d a s) := tidy_alu1 hs ..

@[simp] theorem tidy_execBrev (hs : s.tidy) (g : Guard) (t : IntTy) (d a : XReg) :
    leavesTidy (execBrev g t d a s) := tidy_alu1 hs ..

@[simp] theorem tidy_execBswap (hs : s.tidy) (g : Guard) (t : IntTy) (d a : XReg) :
    leavesTidy (execBswap g t d a s) := tidy_alu1 hs ..

@[simp] theorem tidy_execBfx (hs : s.tidy) (g : Guard) (t : IntTy) (d a b c : XReg) :
    leavesTidy (execBfx g t d a b c s) := tidy_regInstr (fun _ hu => State.tidy_wx hu _ _) hs ..

@[simp] theorem tidy_execBfxw (hs : s.tidy) (g : Guard) (t : IntTy) (d a b c : XReg) :
    leavesTidy (execBfxw g t d a b c s) := tidy_regInstr (fun _ hu => State.tidy_wx hu _ _) hs ..

@[simp] theorem tidy_execBfi (hs : s.tidy) (g : Guard) (t : IntTy) (d a b c : XReg) :
    leavesTidy (execBfi g t d a b c s) := tidy_regInstr (fun _ hu => State.tidy_wx hu _ _) hs ..

@[simp] theorem tidy_execSel (hs : s.tidy) (g : Guard) (t : IntTy) (d : XReg) (p : PReg) (a b : XReg) :
    leavesTidy (execSel g t d p a b s) := tidy_regInstr (fun _ hu => State.tidy_wx hu _ _) hs ..

@[simp] theorem tidy_execAbs (hs : s.tidy) (g : Guard) (t : IntTy) (sat : Bool) (d a : XReg) :
    leavesTidy (execAbs g t sat d a s) := tidy_regInstr (fun _ hu => State.tidy_wx hu _ _) hs ..

@[simp] theorem tidy_execNeg (hs : s.tidy) (g : Guard) (t : IntTy) (sat : Bool) (d a : XReg) :
    leavesTidy (execNeg g t sat d a s) := tidy_regInstr (fun _ hu => State.tidy_wx hu _ _) hs ..

theorem tidy_aluImm (hs : s.tidy) (i : Instr) (g : Guard) (d a : XReg) (f : W64 → W64) :
    leavesTidy (aluImm i g d a f s) := by
  unfold aluImm
  grind [leavesTidy, tidy_regInstr, State.tidy_wx]

@[simp] theorem tidy_execAddi (hs : s.tidy) (g : Guard) (d a : XReg) (imm : BitVec 32) :
    leavesTidy (execAddi g d a imm s) := tidy_aluImm hs ..

@[simp] theorem tidy_execAndi (hs : s.tidy) (g : Guard) (d a : XReg) (imm : BitVec 32) :
    leavesTidy (execAndi g d a imm s) := tidy_aluImm hs ..

@[simp] theorem tidy_execOri (hs : s.tidy) (g : Guard) (d a : XReg) (imm : BitVec 32) :
    leavesTidy (execOri g d a imm s) := tidy_aluImm hs ..

@[simp] theorem tidy_execXori (hs : s.tidy) (g : Guard) (d a : XReg) (imm : BitVec 32) :
    leavesTidy (execXori g d a imm s) := tidy_aluImm hs ..

@[simp] theorem tidy_execShli (hs : s.tidy) (g : Guard) (d a : XReg) (sh : BitVec 6) :
    leavesTidy (execShli g d a sh s) := tidy_aluImm hs ..

@[simp] theorem tidy_execShri (hs : s.tidy) (g : Guard) (d a : XReg) (sh : BitVec 6) :
    leavesTidy (execShri g d a sh s) := tidy_aluImm hs ..

@[simp] theorem tidy_execSrai (hs : s.tidy) (g : Guard) (d a : XReg) (sh : BitVec 6) :
    leavesTidy (execSrai g d a sh s) := tidy_aluImm hs ..

@[simp] theorem tidy_execMuli (hs : s.tidy) (g : Guard) (d a : XReg) (imm : BitVec 32) :
    leavesTidy (execMuli g d a imm s) := tidy_aluImm hs ..

@[simp] theorem tidy_execMovi (hs : s.tidy) (g : Guard) (d : XReg) (imm : BitVec 45) :
    leavesTidy (execMovi g d imm s) := tidy_regInstr (fun _ hu => State.tidy_wx hu _ _) hs ..

@[simp] theorem tidy_execMovhi (hs : s.tidy) (g : Guard) (d : XReg) (imm : BitVec 45) :
    leavesTidy (execMovhi g d imm s) := tidy_regInstr (fun _ hu => State.tidy_wx hu _ _) hs ..

/-! ### The device registers -/

theorem State.tidy_setReg (hs : s.tidy) (a : Nat) (v : W64) : (s.setReg a v).tidy := hs

theorem State.tidy_modReg (hs : s.tidy) (a : Nat) (f : W64 → W64) : (s.modReg a f).tidy := hs

theorem State.tidy_clearRc (hs : s.tidy) (a : Nat) : (s.clearRc a).tidy := by
  by_cases h : (regInfo a).rc = 0
  · rw [State.clearRc, if_pos h]
    exact hs
  · rw [State.clearRc, if_neg h]
    exact State.tidy_modReg hs _ _

theorem State.tidy_regStore (hs : s.tidy) (a priv : Nat) (v mask : W64) : (s.regStore a priv v mask).tidy := by
  generalize h : s.regStore a priv v mask = u
  rw [show @State.regStore = _ from by delta State.regStore; exact rfl] at h
  have stored := State.tidy_setReg hs a (regMerge (regInfo a) priv (s.reg a) v mask)
  generalize s.setReg a (regMerge (regInfo a) priv (s.reg a) v mask) = x at h stored
  generalize blockOf a = q at h
  obtain ⟨b, o⟩ := q
  cases b with
  | groups i => exact h ▸ hs
  | none => exact h ▸ hs
  | _ => exact h ▸ stored

/-! ### Routes over the grid -/

theorem State.tidy_setRel (hs : s.tidy) (n j slot : Nat) (r : Rel) : (s.setRel n j slot r).tidy := hs

theorem State.tidy_signal (hs : s.tidy) (T d typ : Nat) (dst : Node) (arg : Nat) (c : Ctrl) :
    (s.signal T d typ dst arg c).tidy := hs

theorem State.tidy_signalMarker (hs : s.tidy) (T d : Nat) : (s.signalMarker T d).tidy := by
  unfold State.signalMarker
  grind [State.tidy_signal]

theorem State.tidy_signalRelease (hs : s.tidy) (T slot : Nat) : (s.signalRelease T slot).tidy := by
  unfold State.signalRelease
  split <;> exact hs

/-! ### Control instructions -/

theorem State.tidy_afterPrior (hs : s.tidy) {f : State → State} (hf : ∀ u : State, u.tidy → (f u).tidy) (i : Instr) :
    (s.afterPrior i f).tidy := by
  unfold State.afterPrior
  grind [State.tidy_park]

theorem State.tidy_matFail (hs : s.tidy) {f : State → State} (hf : ∀ u : State, u.tidy → (f u).tidy) :
    (s.matFail f).tidy := by
  unfold State.matFail
  grind [State.tidy_modMe, State.tidy_raise]

theorem State.tidy_jump (hs : s.tidy) {f : State → State} (hf : ∀ u : State, u.tidy → (f u).tidy) (t : W64) :
    (s.jump t f).tidy := by
  unfold State.jump
  grind [State.tidy_goto, State.tidy_raise]

@[simp] theorem tidy_execIll (hs : s.tidy) (rest : BitVec 56) : leavesTidy (execIll rest s) := by
  unfold execIll
  grind [leavesTidy, State.tidy_raise]

@[simp] theorem tidy_execNop (hs : s.tidy) (g : Guard) :
    leavesTidy (execNop g s) := tidy_regInstr (fun _ hu => hu) hs ..

@[simp] theorem tidy_execBr (hs : s.tidy) (g : Guard) (off : BitVec 45) : leavesTidy (execBr g off s) := by
  unfold execBr
  grind [leavesTidy, State.tidy_issue, State.tidy_jump]

@[simp] theorem tidy_execCall (hs : s.tidy) (g : Guard) (d : XReg) (off : BitVec 45) :
    leavesTidy (execCall g d off s) := by
  unfold execCall
  grind [leavesTidy, State.tidy_issue, State.tidy_jump, State.tidy_wx]

@[simp] theorem tidy_execJr (hs : s.tidy) (g : Guard) (d a : XReg) : leavesTidy (execJr g d a s) := by
  unfold execJr
  grind [leavesTidy, State.tidy_issue, State.tidy_raise, State.tidy_jump, State.tidy_wx]

@[simp] theorem tidy_execLoop (hs : s.tidy) (g : Guard) (d : XReg) (off : BitVec 45) :
    leavesTidy (execLoop g d off s) := by
  unfold execLoop
  grind [leavesTidy, State.tidy_issue, State.tidy_jump, State.tidy_wx]

@[simp] theorem tidy_execWaitc (hs : s.tidy) (g : Guard) (d a : XReg) (imm : BitVec 32) :
    leavesTidy (execWaitc g d a imm s) := by
  unfold execWaitc
  grind [leavesTidy, State.tidy_issue, State.tidy_ranged, State.tidy_wx, State.tidy_advance, State.tidy_park]

@[simp] theorem tidy_execYield (hs : s.tidy) (g : Guard) : leavesTidy (execYield g s) := by
  unfold execYield
  grind [leavesTidy, State.tidy_issue, State.tidy_ranged, State.tidy_modMe, State.tidy_advance]

theorem State.tidy_threadDone (hs : s.tidy) : s.threadDone.tidy := by
  unfold State.threadDone
  grind [State.tidy_modMe, State.tidy_advance, State.tidy_post]

theorem State.tidy_endStep (hs : s.tidy) (i : Instr) : (s.endStep i).tidy := by
  unfold State.endStep
  grind [State.tidy_matFail, State.tidy_ranged, State.tidy_afterPrior, State.tidy_threadDone]

@[simp] theorem tidy_execExit (hs : s.tidy) (g : Guard) : leavesTidy (execExit g s) := by
  unfold execExit
  grind [leavesTidy, State.tidy_issue, State.tidy_endStep]

@[simp] theorem tidy_execSdone (hs : s.tidy) (g : Guard) : leavesTidy (execSdone g s) := by
  unfold execSdone
  grind [leavesTidy, State.tidy_issue, State.tidy_endStep]

@[simp] theorem tidy_execBrk (hs : s.tidy) (g : Guard) (imm : BitVec 32) : leavesTidy (execBrk g imm s) := by
  unfold execBrk
  grind [leavesTidy, State.tidy_issue, State.tidy_raise]

@[simp] theorem tidy_execTrap (hs : s.tidy) (g : Guard) (imm : BitVec 32) : leavesTidy (execTrap g imm s) := by
  unfold execTrap
  grind [leavesTidy, State.tidy_issue, State.tidy_raise, State.tidy_ranged, State.tidy_escalate, State.tidy_modMe]

/-! ### A thread's memory access, from issue to retirement -/

theorem State.tidy_sendFlushes (hs : s.tidy) : s.sendFlushes.tidy := by
  unfold State.sendFlushes
  grind [foldl_tidy, State.tidy_modMe, State.tidy_send]

theorem State.tidy_gate (hs : s.tidy) {f : State → State} (hf : ∀ u : State, u.tidy → (f u).tidy) (i : Instr)
    (o : Order) :
    (s.gate i o f).tidy := by
  unfold State.gate
  grind [State.tidy_park, State.tidy_sendFlushes]

theorem State.tidy_flipWord (hs : s.tidy) (key : Nat) (p : BitVec 72) : (s.flipWord key p).tidy := hs

theorem State.tidy_freshWords (hs : s.tidy) (f : Nat → Bool) : (s.freshWords f).tidy := by
  unfold State.freshWords
  split <;> exact hs

theorem State.tidy_scrub (hs : s.tidy) (f : Nat → Bool) (rewrite : Bool) : (s.scrub f rewrite).tidy := by
  unfold State.scrub
  split <;> exact hs

theorem State.tidy_lsStore (hs : s.tidy) (T off : Nat) (b : List Byte) : (s.lsStore T off b).tidy := by
  unfold State.lsStore
  grind [State.tidy_lsWrite, State.tidy_freshWords]

theorem State.tidy_lsAct (hs : s.tidy) (T off : Nat) (k : AccKind) (e : Elem) : (s.lsAct T off k e).1.tidy := by
  unfold State.lsAct
  grind [State.tidy_lsStore, State.tidy_scrub, State.tidy_setFe]

theorem State.tidy_sendReq (hs : s.tidy) (k : AccKind) (wait : Bool) (r : Req) : (s.sendReq k wait r).tidy := by
  unfold State.sendReq
  grind [State.tidy_modMe, State.tidy_send]

theorem State.tidy_countMiss (hs : s.tidy) : s.countMiss.tidy := by
  unfold State.countMiss
  split <;> exact hs

theorem State.tidy_performOwn (hs : s.tidy) (k : AccKind) (es : List (Elem × Route)) (acc : List Elem)
    (fs : List (Nat × W64)) :
    (s.performOwn k es acc fs).1.tidy := by
  induction es generalizing s acc fs with
  | nil => exact hs
  | cons x rest ih =>
    unfold State.performOwn
    grind [State.tidy_lsAct]

theorem State.tidy_reportAll (hs : s.tidy) (bad : List (Nat × W64)) : (s.reportAll bad).tidy := by
  unfold State.reportAll
  grind [foldl_tidy, State.tidy_faultReport]

theorem State.tidy_perform (hs : s.tidy) (i : Instr) (p : Plan) (rs : List (Elem × Route)) :
    (s.perform i p rs).tidy := by
  have own := State.tidy_performOwn hs p.kind rs [] []
  unfold State.perform
  generalize s.performOwn p.kind rs [] [] = r at own ⊢
  obtain ⟨s1, got, bad⟩ := r
  have sent (l : List Req) (w : Bool) : (l.foldl (State.sendReq p.kind w) s1).tidy :=
    foldl_tidy (fun u r hu => State.tidy_sendReq hu p.kind w r) l own
  (repeat' split) <;> grind [State.tidy_modMe, State.tidy_advance, State.tidy_raise, State.tidy_park,
    State.tidy_reportAll]

theorem State.tidy_whenResident (hs : s.tidy) (rs : List (Elem × Route)) {stall : State → State}
    (hstall : ∀ u : State, u.tidy → (stall u).tidy) {f : State → State} (hf : ∀ u : State, u.tidy → (f u).tidy) :
    (s.whenResident rs stall f).tidy := by
  unfold State.whenResident
  split
  · split
    · exact State.tidy_raise hs _ _
    · split
      · exact State.tidy_raise hs _ _
      · exact hstall s hs
  · exact State.tidy_raise hs _ _
  · exact hf s hs

theorem State.tidy_access (hs : s.tidy) (i : Instr) (p : Plan) : (s.access i p).tidy := by
  unfold State.access
  grind [State.tidy_raise, State.tidy_whenResident, State.tidy_ranged, State.tidy_gate, State.tidy_park,
    State.tidy_countMiss, State.tidy_perform]

theorem State.tidy_feTry (hs : s.tidy) (T off : Nat) (m : FeMode) (isLoad : Bool) (data : W64) :
    ∀ t, s.feTry T off m isLoad data = some t → t.1.tidy := by
  unfold State.feTry
  grind [State.tidy_scrub, State.tidy_setFe, State.tidy_lsStore]

theorem State.tidy_feAnswer (hs : s.tidy) (T : Nat) (q : FeReq) (v : Option W64) : (s.feAnswer T q v).tidy := by
  unfold State.feAnswer
  grind [State.tidy_send, State.tidy_finish, State.tidy_trap]

theorem State.tidy_fePass (hs : s.tidy) (T off : Nat) (reqs : List FeReq) : (s.fePass T off reqs).1.tidy := by
  induction reqs generalizing s with
  | nil => exact hs
  | cons q rest ih =>
    unfold State.fePass
    grind [→ State.tidy_feTry, State.tidy_feAnswer, State.tidy_modTile]

theorem State.tidy_feWake (hs : s.tidy) (T off fuel : Nat) : (s.feWake T off fuel).tidy := by
  induction fuel generalizing s with
  | zero => exact hs
  | succ fuel ih =>
    unfold State.feWake
    grind [State.tidy_fePass]

theorem State.tidy_feChange (hs : s.tidy) (T off : Nat) (full : Bool) : (s.feChange T off full).tidy := by
  unfold State.feChange
  grind [State.tidy_setFe, State.tidy_feWake]

theorem State.tidy_feTimer (hs : s.tidy) : s.feTimer.tidy := by
  unfold State.feTimer
  split <;> exact hs

theorem State.tidy_feAccess (hs : s.tidy) (i : Instr) (p : Plan) : (s.feAccess i p).tidy := by
  unfold State.feAccess
  split
  · exact State.tidy_raise hs _ _
  · exact hs
  · refine State.tidy_ranged hs fun u hu => State.tidy_gate hu (fun u hu => ?_) i p.o
    have sent (l : List Req) : (l.foldl (State.sendReq p.kind true) u).tidy :=
      foldl_tidy (fun v r hv => State.tidy_sendReq hv p.kind true r) l hu
    (repeat' split) <;> grind [State.tidy_raise, State.tidy_park, State.tidy_modTile, State.tidy_feTimer, →
      State.tidy_feTry, State.tidy_modMe,
      State.tidy_advance, State.tidy_feWake, State.tidy_feChange]

/-! ### Loads, stores, wave-commit stores, full-empty instructions, prefetch, fence and atomics -/

@[simp] theorem tidy_execLd (hs : s.tidy) (g : Guard) (sx : Bool) (sz : Size) (o : Order) (d : XReg) (m : MAddr) :
    leavesTidy (execLd g sx sz o d m s) := by
  unfold execLd
  grind [leavesTidy, State.tidy_issue, State.tidy_access]

@[simp] theorem tidy_execSt (hs : s.tidy) (g : Guard) (sz : Size) (o : Order) (d : XReg) (m : MAddr) :
    leavesTidy (execSt g sz o d m s) := by
  unfold execSt
  grind [leavesTidy, State.tidy_issue, State.tidy_access]

theorem State.tidy_appendCommit (hs : s.tidy) (T d : Nat) (data : W64) (size win addr : Nat) :
    (s.appendCommit T d data size win addr).tidy := by
  unfold State.appendCommit
  grind [State.tidy_lsStore, State.tidy_modDom]

@[simp] theorem tidy_execStWc (hs : s.tidy) (g : Guard) (sz : Size) (d : XReg) (m : MAddr) :
    leavesTidy (execStWc g sz d m s) := by
  unfold execStWc
  grind [leavesTidy, State.tidy_issue, State.tidy_raise, State.tidy_complete, State.tidy_appendCommit]

@[simp] theorem tidy_execLdfe (hs : s.tidy) (g : Guard) (fm : FeMode) (o : Order) (d : XReg) (m : MAddr) :
    leavesTidy (execLdfe g fm o d m s) := by
  unfold execLdfe
  grind [leavesTidy, State.tidy_issue, State.tidy_feAccess]

@[simp] theorem tidy_execStfe (hs : s.tidy) (g : Guard) (fm : FeMode) (o : Order) (d : XReg) (m : MAddr) :
    leavesTidy (execStfe g fm o d m s) := by
  unfold execStfe
  grind [leavesTidy, State.tidy_issue, State.tidy_feAccess]

@[simp] theorem tidy_execFetest (hs : s.tidy) (g : Guard) (o : Order) (d : XReg) (m : MAddr) :
    leavesTidy (execFetest g o d m s) := by
  unfold execFetest
  grind [leavesTidy, State.tidy_issue, State.tidy_feAccess]

@[simp] theorem tidy_execFeset (hs : s.tidy) (g : Guard) (full : Bool) (o : Order) (m : MAddr) :
    leavesTidy (execFeset g full o m s) := by
  unfold execFeset
  grind [leavesTidy, State.tidy_issue, State.tidy_feAccess]

@[simp] theorem tidy_execPf (hs : s.tidy) (g : Guard) (llc : Bool) (m : MAddr) : leavesTidy (execPf g llc m s) := by
  unfold execPf
  grind [leavesTidy, State.tidy_issue, State.tidy_complete, State.tidy_send]

@[simp] theorem tidy_execFence (hs : s.tidy) (g : Guard) (o : Order) : leavesTidy (execFence g o s) := by
  unfold execFence
  grind [leavesTidy, State.tidy_issue, State.tidy_ranged, State.tidy_advance, State.tidy_park, State.tidy_gate]

@[simp] theorem tidy_execAmoadd (hs : s.tidy) (g : Guard) (sx : Bool) (sz : Size) (nr : Bool) (o : Order) (d : XReg)
    (m : MAddr) :
    leavesTidy (execAmoadd g sx sz nr o d m s) := by
  unfold execAmoadd
  grind [leavesTidy, State.tidy_issue, State.tidy_access]

@[simp] theorem tidy_execAmomin (hs : s.tidy) (g : Guard) (sx : Bool) (sz : Size) (nr : Bool) (o : Order) (d : XReg)
    (m : MAddr) :
    leavesTidy (execAmomin g sx sz nr o d m s) := by
  unfold execAmomin
  grind [leavesTidy, State.tidy_issue, State.tidy_access]

@[simp] theorem tidy_execAmomax (hs : s.tidy) (g : Guard) (sx : Bool) (sz : Size) (nr : Bool) (o : Order) (d : XReg)
    (m : MAddr) :
    leavesTidy (execAmomax g sx sz nr o d m s) := by
  unfold execAmomax
  grind [leavesTidy, State.tidy_issue, State.tidy_access]

@[simp] theorem tidy_execAmominw (hs : s.tidy) (g : Guard) (sx : Bool) (sz : Size) (nr : Bool) (o : Order) (d : XReg)
    (m : MAddr) :
    leavesTidy (execAmominw g sx sz nr o d m s) := by
  unfold execAmominw
  grind [leavesTidy, State.tidy_issue, State.tidy_access]

@[simp] theorem tidy_execAmomaxw (hs : s.tidy) (g : Guard) (sx : Bool) (sz : Size) (nr : Bool) (o : Order) (d : XReg)
    (m : MAddr) :
    leavesTidy (execAmomaxw g sx sz nr o d m s) := by
  unfold execAmomaxw
  grind [leavesTidy, State.tidy_issue, State.tidy_access]

@[simp] theorem tidy_execAmoand (hs : s.tidy) (g : Guard) (sx : Bool) (sz : Size) (nr : Bool) (o : Order) (d : XReg)
    (m : MAddr) :
    leavesTidy (execAmoand g sx sz nr o d m s) := by
  unfold execAmoand
  grind [leavesTidy, State.tidy_issue, State.tidy_access]

@[simp] theorem tidy_execAmoor (hs : s.tidy) (g : Guard) (sx : Bool) (sz : Size) (nr : Bool) (o : Order) (d : XReg)
    (m : MAddr) :
    leavesTidy (execAmoor g sx sz nr o d m s) := by
  unfold execAmoor
  grind [leavesTidy, State.tidy_issue, State.tidy_access]

@[simp] theorem tidy_execAmoxor (hs : s.tidy) (g : Guard) (sx : Bool) (sz : Size) (nr : Bool) (o : Order) (d : XReg)
    (m : MAddr) :
    leavesTidy (execAmoxor g sx sz nr o d m s) := by
  unfold execAmoxor
  grind [leavesTidy, State.tidy_issue, State.tidy_access]

@[simp] theorem tidy_execAmoswap (hs : s.tidy) (g : Guard) (sx : Bool) (sz : Size) (nr : Bool) (o : Order) (d : XReg)
    (m : MAddr) :
    leavesTidy (execAmoswap g sx sz nr o d m s) := by
  unfold execAmoswap
  grind [leavesTidy, State.tidy_issue, State.tidy_access]

@[simp] theorem tidy_execAmofadd (hs : s.tidy) (g : Guard) (nr : Bool) (o : Order) (d : XReg) (m : MAddr) :
    leavesTidy (execAmofadd g nr o d m s) := by
  unfold execAmofadd
  grind [leavesTidy, State.tidy_issue, State.tidy_access]

@[simp] theorem tidy_execAmocas (hs : s.tidy) (g : Guard) (sx : Bool) (sz : Size) (o : Order) (d : XReg) (m : MAddr) :
    leavesTidy (execAmocas g sx sz o d m s) := by
  unfold execAmocas
  grind [leavesTidy, State.tidy_issue, State.tidy_access]

/-! ### Vector loads and stores -/

@[simp] theorem tidy_execVld (hs : s.tidy) (g : Guard) (n : Size) (o : Order) (d : VReg) (m : MAddr) :
    leavesTidy (execVld g n o d m s) := by
  unfold execVld
  grind [leavesTidy, State.tidy_issue, State.tidy_access]

@[simp] theorem tidy_execVst (hs : s.tidy) (g : Guard) (n : Size) (o : Order) (d : VReg) (m : MAddr) :
    leavesTidy (execVst g n o d m s) := by
  unfold execVst
  grind [leavesTidy, State.tidy_issue, State.tidy_access]

@[simp] theorem tidy_execVldg (hs : s.tidy) (g : Guard) (sx : Bool) (sz : Size) (mk : MReg) (o : Order) (d : VReg)
    (base : XReg) (vi : VReg) (off : BitVec 20) :
    leavesTidy (execVldg g sx sz mk o d base vi off s) := by
  unfold execVldg
  grind [leavesTidy, State.tidy_issue, State.tidy_access]

@[simp] theorem tidy_execVsts (hs : s.tidy) (g : Guard) (sz : Size) (mk : MReg) (o : Order) (d : VReg) (base : XReg)
    (vi : VReg) (off : BitVec 20) :
    leavesTidy (execVsts g sz mk o d base vi off s) := by
  unfold execVsts
  grind [leavesTidy, State.tidy_issue, State.tidy_access]

@[simp] theorem tidy_execVldb (hs : s.tidy) (g : Guard) (sx : Bool) (sz : Size) (mk : MReg) (o : Order) (d : VReg)
    (m : MAddr) :
    leavesTidy (execVldb g sx sz mk o d m s) := by
  unfold execVldb
  grind [leavesTidy, State.tidy_issue, State.tidy_access]

@[simp] theorem tidy_execVldt (hs : s.tidy) (g : Guard) (sx : Bool) (sz : Size) (mk : MReg) (o : Order) (d : VReg)
    (m : MAddr) :
    leavesTidy (execVldt g sx sz mk o d m s) := by
  unfold execVldt
  grind [leavesTidy, State.tidy_issue, State.tidy_access]

@[simp] theorem tidy_execVstt (hs : s.tidy) (g : Guard) (sz : Size) (mk : MReg) (o : Order) (d : VReg) (m : MAddr) :
    leavesTidy (execVstt g sz mk o d m s) := by
  unfold execVstt
  grind [leavesTidy, State.tidy_issue, State.tidy_access]

/-! ### Vector arithmetic, selection, conversion, quantisation, reductions, permutes, compress and mask logic -/

theorem State.tidy_writeBlock (hs : s.tidy) (d : VBlock) (f : Nat × Nat → List W32 → List W32) :
    (s.writeBlock d f).tidy := hs

theorem State.tidy_vecRetire (hs : s.tidy) (n : Nat) : (s.vecRetire n).tidy := hs

theorem tidy_vecInstr {f : State → State} (hf : ∀ u : State, u.tidy → (f u).tidy) (hs : s.tidy) (i : Instr)
    (g : Guard) (regs : List XReg) (grid : Bool) (n : Nat) :
    leavesTidy (vecInstr i g regs grid n f s) := by
  unfold vecInstr
  grind [leavesTidy, State.tidy_issue, State.tidy_ranged, State.tidy_vecRetire]

theorem tidy_vec2 (hs : s.tidy) (i : Instr) (g : Guard) (d : VBlock) (a : VOrg) (b : VB) (mk : MReg)
    (f : W32 → W32 → W32) :
    leavesTidy (vec2 i g d a b mk f s) := by
  unfold vec2
  grind [leavesTidy, tidy_vecInstr, State.tidy_writeBlock]

theorem tidy_vec3 (hs : s.tidy) (i : Instr) (g : Guard) (d : VBlock) (a : VOrg) (b : VB) (mk : MReg)
    (f : W32 → W32 → W32 → W32) :
    leavesTidy (vec3 i g d a b mk f s) := by
  unfold vec3
  grind [leavesTidy, tidy_vecInstr, State.tidy_writeBlock]

theorem tidy_vecA (hs : s.tidy) (i : Instr) (g : Guard) (regs : List XReg) (d : VBlock) (a : VOrg)
    (f : State → List W32 → List W32 → List W32) :
    leavesTidy (vecA i g regs d a f s) := by
  unfold vecA
  grind [leavesTidy, tidy_vecInstr, State.tidy_writeBlock]

theorem tidy_vec1 (hs : s.tidy) (i : Instr) (g : Guard) (d : VBlock) (a : VOrg) (mk : MReg) (f : W32 → W32) :
    leavesTidy (vec1 i g d a mk f s) := by
  unfold vec1
  grind [leavesTidy, tidy_vecA]

@[simp] theorem tidy_execVadd (hs : s.tidy) (g : Guard) (t : VTy) (rm : Rm) (sat : Bool) (d : VBlock) (a : VOrg)
    (b : VB) (mk : MReg) :
    leavesTidy (execVadd g t rm sat d a b mk s) := tidy_vec2 hs ..

@[simp] theorem tidy_execVsub (hs : s.tidy) (g : Guard) (t : VTy) (rm : Rm) (sat : Bool) (d : VBlock) (a : VOrg)
    (b : VB) (mk : MReg) :
    leavesTidy (execVsub g t rm sat d a b mk s) := tidy_vec2 hs ..

@[simp] theorem tidy_execVmul (hs : s.tidy) (g : Guard) (t : VTy) (rm : Rm) (sat : Bool) (d : VBlock) (a : VOrg)
    (b : VB) (mk : MReg) :
    leavesTidy (execVmul g t rm sat d a b mk s) := tidy_vec2 hs ..

@[simp] theorem tidy_execVfma (hs : s.tidy) (g : Guard) (t : FTy) (rm : Rm) (sat : Bool) (d : VBlock) (a : VOrg)
    (b : VB) (mk : MReg) :
    leavesTidy (execVfma g t rm sat d a b mk s) := tidy_vec3 hs ..

@[simp] theorem tidy_execVfms (hs : s.tidy) (g : Guard) (t : FTy) (rm : Rm) (sat : Bool) (d : VBlock) (a : VOrg)
    (b : VB) (mk : MReg) :
    leavesTidy (execVfms g t rm sat d a b mk s) := tidy_vec3 hs ..

@[simp] theorem tidy_execVmin (hs : s.tidy) (g : Guard) (t : VTy) (d : VBlock) (a : VOrg) (b : VB) (mk : MReg) :
    leavesTidy (execVmin g t d a b mk s) := tidy_vec2 hs ..

@[simp] theorem tidy_execVmax (hs : s.tidy) (g : Guard) (t : VTy) (d : VBlock) (a : VOrg) (b : VB) (mk : MReg) :
    leavesTidy (execVmax g t d a b mk s) := tidy_vec2 hs ..

@[simp] theorem tidy_execVabs (hs : s.tidy) (g : Guard) (t : VTy) (sat : Bool) (d : VBlock) (a : VOrg) (mk : MReg) :
    leavesTidy (execVabs g t sat d a mk s) := tidy_vec1 hs ..

@[simp] theorem tidy_execVneg (hs : s.tidy) (g : Guard) (t : VTy) (sat : Bool) (d : VBlock) (a : VOrg) (mk : MReg) :
    leavesTidy (execVneg g t sat d a mk s) := tidy_vec1 hs ..

@[simp] theorem tidy_execVand (hs : s.tidy) (g : Guard) (d : VBlock) (a : VOrg) (b : VB) (mk : MReg) :
    leavesTidy (execVand g d a b mk s) := tidy_vec2 hs ..

@[simp] theorem tidy_execVor (hs : s.tidy) (g : Guard) (d : VBlock) (a : VOrg) (b : VB) (mk : MReg) :
    leavesTidy (execVor g d a b mk s) := tidy_vec2 hs ..

@[simp] theorem tidy_execVxor (hs : s.tidy) (g : Guard) (d : VBlock) (a : VOrg) (b : VB) (mk : MReg) :
    leavesTidy (execVxor g d a b mk s) := tidy_vec2 hs ..

@[simp] theorem tidy_execVandn (hs : s.tidy) (g : Guard) (d : VBlock) (a : VOrg) (b : VB) (mk : MReg) :
    leavesTidy (execVandn g d a b mk s) := tidy_vec2 hs ..

@[simp] theorem tidy_execVshl (hs : s.tidy) (g : Guard) (t : VTy) (d : VBlock) (a : VOrg) (b : VB) (mk : MReg) :
    leavesTidy (execVshl g t d a b mk s) := tidy_vec2 hs ..

@[simp] theorem tidy_execVshr (hs : s.tidy) (g : Guard) (t : VTy) (d : VBlock) (a : VOrg) (b : VB) (mk : MReg) :
    leavesTidy (execVshr g t d a b mk s) := tidy_vec2 hs ..

@[simp] theorem tidy_execVsra (hs : s.tidy) (g : Guard) (t : VTy) (d : VBlock) (a : VOrg) (b : VB) (mk : MReg) :
    leavesTidy (execVsra g t d a b mk s) := tidy_vec2 hs ..

@[simp] theorem tidy_execVcmp (hs : s.tidy) (g : Guard) (t : VTy) (c : FCond) (md : MReg) (a : VOrg) (b : VB)
    (mk : MReg) :
    leavesTidy (execVcmp g t c md a b mk s) := tidy_vecInstr (fun _ hu => State.tidy_modMe hu _) hs ..

@[simp] theorem tidy_execVsel (hs : s.tidy) (g : Guard) (d : VBlock) (a : VOrg) (b : VB) (mk : MReg) :
    leavesTidy (execVsel g d a b mk s) := tidy_vecInstr (fun _ hu => State.tidy_writeBlock hu _ _) hs ..

@[simp] theorem tidy_execVmov (hs : s.tidy) (g : Guard) (d : VBlock) (a : VOrg) (mk : MReg) :
    leavesTidy (execVmov g d a mk s) := tidy_vec1 hs ..

@[simp] theorem tidy_execVbcast (hs : s.tidy) (g : Guard) (d : VBlock) (x : XReg) (mk : MReg) :
    leavesTidy (execVbcast g d x mk s) := tidy_vecInstr (fun _ hu => State.tidy_writeBlock hu _ _) hs ..

@[simp] theorem tidy_execVbcastLane (hs : s.tidy) (g : Guard) (d : VBlock) (a : VOrg) (lane : BitVec 6) (mk : MReg) :
    leavesTidy (execVbcastLane g d a lane mk s) := tidy_vecA hs ..

@[simp] theorem tidy_execVcvt (hs : s.tidy) (g : Guard) (dt st : CTy) (rm : Rm) (sat : Bool) (d : VBlock) (a : VOrg)
    (mk : MReg) :
    leavesTidy (execVcvt g dt st rm sat d a mk s) := tidy_vec1 hs ..

@[simp] theorem tidy_execVquant (hs : s.tidy) (g : Guard) (t : QTy) (rm : Rm) (d : VBlock) (a : VOrg) :
    leavesTidy (execVquant g t rm d a s) := tidy_vecA hs ..

@[simp] theorem tidy_execVdeq (hs : s.tidy) (g : Guard) (t : QTy) (rm : Rm) (sat : Bool) (d : VBlock) (a : VOrg)
    (mk : MReg) :
    leavesTidy (execVdeq g t rm sat d a mk s) := tidy_vecA hs ..

@[simp] theorem tidy_execVexp2 (hs : s.tidy) (g : Guard) (rm : Rm) (d : VBlock) (a : VOrg) (mk : MReg) :
    leavesTidy (execVexp2 g rm d a mk s) := tidy_vec1 hs ..

@[simp] theorem tidy_execVlog2 (hs : s.tidy) (g : Guard) (rm : Rm) (d : VBlock) (a : VOrg) (mk : MReg) :
    leavesTidy (execVlog2 g rm d a mk s) := tidy_vec1 hs ..

@[simp] theorem tidy_execVrcp (hs : s.tidy) (g : Guard) (rm : Rm) (d : VBlock) (a : VOrg) (mk : MReg) :
    leavesTidy (execVrcp g rm d a mk s) := tidy_vec1 hs ..

@[simp] theorem tidy_execVrsqrt (hs : s.tidy) (g : Guard) (rm : Rm) (d : VBlock) (a : VOrg) (mk : MReg) :
    leavesTidy (execVrsqrt g rm d a mk s) := tidy_vec1 hs ..

@[simp] theorem tidy_execVtanh (hs : s.tidy) (g : Guard) (rm : Rm) (d : VBlock) (a : VOrg) (mk : MReg) :
    leavesTidy (execVtanh g rm d a mk s) := tidy_vec1 hs ..

@[simp] theorem tidy_execVsig (hs : s.tidy) (g : Guard) (rm : Rm) (d : VBlock) (a : VOrg) (mk : MReg) :
    leavesTidy (execVsig g rm d a mk s) := tidy_vec1 hs ..

theorem tidy_reduce (hs : s.tidy) (i : Instr) (g : Guard) (t : VTy) (d : VBlock) (a : VOrg) (mk : MReg)
    (f : List (Option W32) → W32) :
    leavesTidy (reduce i g t d a mk f s) := by
  unfold reduce
  grind [leavesTidy, tidy_vecA]

@[simp] theorem tidy_execVredsum (hs : s.tidy) (g : Guard) (t : VTy) (rm : Rm) (sat : Bool) (d : VBlock) (a : VOrg)
    (mk : MReg) :
    leavesTidy (execVredsum g t rm sat d a mk s) := tidy_reduce hs ..

@[simp] theorem tidy_execVredmax (hs : s.tidy) (g : Guard) (t : VTy) (d : VBlock) (a : VOrg) (mk : MReg) :
    leavesTidy (execVredmax g t d a mk s) := tidy_reduce hs ..

@[simp] theorem tidy_execVredmin (hs : s.tidy) (g : Guard) (t : VTy) (d : VBlock) (a : VOrg) (mk : MReg) :
    leavesTidy (execVredmin g t d a mk s) := tidy_reduce hs ..

@[simp] theorem tidy_execVscan (hs : s.tidy) (g : Guard) (t : VTy) (rm : Rm) (sat : Bool) (d : VBlock) (a : VOrg)
    (mk : MReg) :
    leavesTidy (execVscan g t rm sat d a mk s) := tidy_vecA hs ..

@[simp] theorem tidy_execVperm (hs : s.tidy) (g : Guard) (d : VBlock) (a : VOrg) (b : VB) (mk : MReg) :
    leavesTidy (execVperm g d a b mk s) := tidy_vecInstr (fun _ hu => State.tidy_writeBlock hu _ _) hs ..

@[simp] theorem tidy_execVrot (hs : s.tidy) (g : Guard) (d : VBlock) (a : VOrg) (x : XReg) (mk : MReg) :
    leavesTidy (execVrot g d a x mk s) := tidy_vecA hs ..

@[simp] theorem tidy_execVshuf (hs : s.tidy) (g : Guard) (d : VBlock) (a b : VOrg) (pat : BitVec 7) (mk : MReg) :
    leavesTidy (execVshuf g d a b pat mk s) := tidy_vecInstr (fun _ hu => State.tidy_writeBlock hu _ _) hs ..

@[simp] theorem tidy_execVcompress (hs : s.tidy) (g : Guard) (d : VBlock) (a : VOrg) (mk : MReg) :
    leavesTidy (execVcompress g d a mk s) := tidy_vecA hs ..

@[simp] theorem tidy_execVcompressMag (hs : s.tidy) (g : Guard) (d : VBlock) (a : VOrg) (lg : BitVec 3)
    (nM1 : BitVec 4) :
    leavesTidy (execVcompressMag g d a lg nM1 s) := tidy_vecA hs ..

@[simp] theorem tidy_execVcompressTop (hs : s.tidy) (g : Guard) (t : KeyTy) (d : VBlock) (a : VOrg) (lg : BitVec 3)
    (nM1 : BitVec 4) :
    leavesTidy (execVcompressTop g t d a lg nM1 s) := tidy_vecA hs ..

@[simp] theorem tidy_execVargmax (hs : s.tidy) (g : Guard) (t : KeyTy) (d : VBlock) (a : VOrg) (mk : MReg) :
    leavesTidy (execVargmax g t d a mk s) := tidy_vecA hs ..

@[simp] theorem tidy_execVrescale (hs : s.tidy) (g : Guard) (d : VBlock) (a b : VOrg) :
    leavesTidy (execVrescale g d a b s) := by
  refine tidy_vecInstr (fun u hu => ?_) hs ..
  exact State.tidy_writeBlock hu _ _

theorem tidy_maskInstr (hs : s.tidy) (i : Instr) (g : Guard) (md ma mb : MReg) (f : W64 → W64 → W64) :
    leavesTidy (maskInstr i g md ma mb f s) := by
  unfold maskInstr
  grind [leavesTidy, tidy_vecInstr, State.tidy_modMe]

@[simp] theorem tidy_execMand (hs : s.tidy) (g : Guard) (md ma mb : MReg) :
    leavesTidy (execMand g md ma mb s) := tidy_maskInstr hs ..

@[simp] theorem tidy_execMor (hs : s.tidy) (g : Guard) (md ma mb : MReg) :
    leavesTidy (execMor g md ma mb s) := tidy_maskInstr hs ..

@[simp] theorem tidy_execMxor (hs : s.tidy) (g : Guard) (md ma mb : MReg) :
    leavesTidy (execMxor g md ma mb s) := tidy_maskInstr hs ..

@[simp] theorem tidy_execMnot (hs : s.tidy) (g : Guard) (md ma : MReg) :
    leavesTidy (execMnot g md ma s) := tidy_maskInstr hs ..

@[simp] theorem tidy_execMpop (hs : s.tidy) (g : Guard) (d : XReg) (ma : MReg) :
    leavesTidy (execMpop g d ma s) := tidy_vecInstr (fun _ hu => State.tidy_wx hu _ _) hs ..

/-! ### Matrix commands -/

theorem State.tidy_mapAcc (hs : s.tidy) (T n rows cols : Nat) (f : Nat → Nat → W32 → W32) :
    (s.mapAcc T n rows cols f).tidy := by
  unfold State.mapAcc
  grind [foldl_tidy, State.tidy_setAcc]

theorem State.tidy_repeatStep (T slot n : Nat) (c : MCmd) (t : TileStep) {st : State × List Nat} (hst : st.1.tidy)
    (j : Nat) :
    (s.repeatStep T slot n c t st j).1.tidy := by
  unfold State.repeatStep
  grind [State.tidy_mapAcc]

theorem State.tidy_runStep (hs : s.tidy) (T d slot n count : Nat) (c : MCmd) : (s.runStep T d slot n count c).tidy := by
  unfold State.runStep
  grind [foldl_fst_tidy, State.tidy_bump, State.tidy_repeatStep]

theorem State.tidy_runSort (hs : s.tidy) (T : Nat) (t : KeyTy) (top : Bool) (base : Nat) (step : Int)
    (stride g k count out : Nat) :
    (s.runSort T t top base step stride g k count out).tidy := by
  unfold State.runSort
  grind [foldl_tidy, State.tidy_lsStore]

theorem State.tidy_runCmd (hs : s.tidy) (T d : Nat) (c : MCmd) : (s.runCmd T d c).tidy := by
  unfold State.runCmd
  grind [foldl_tidy, State.tidy_runStep, State.tidy_runSort, State.tidy_mapAcc, State.tidy_lsStore, State.tidy_modDom]

theorem State.tidy_stepStates (hs : s.tidy) (T d slot n count : Nat) (c : MCmd) :
    ∀ t ∈ s.stepStates T d slot n count c, t.tidy := by
  intro t ht
  obtain ⟨x, hx, rfl⟩ := List.mem_map.mp ht
  refine List.foldlRecOn (motive := fun l : List (State × List Nat) => ∀ x ∈ l, x.1.tidy) _ _
    (List.forall_mem_singleton.mpr (State.tidy_bump hs)) (fun l hl j _ => ?_) x hx
  cases l with
  | nil => simp
  | cons y l =>
    refine List.forall_mem_cons.mpr ⟨?_, hl⟩
    exact State.tidy_repeatStep _ _ _ _ _ (hl y List.mem_cons_self) _

theorem State.tidy_mixAcc (hs : s.tidy) (T : Nat) (tiles : List Nat) (l : List State) : (s.mixAcc T tiles l).tidy := by
  unfold State.mixAcc
  grind [foldl_tidy, State.tidy_bump, State.tidy_setAcc]

theorem State.tidy_failCmd (hs : s.tidy) (T d : Nat) (c : MCmd) : (s.failCmd T d c).tidy := by
  unfold State.failCmd
  grind [foldl_tidy, State.tidy_mixAcc, State.tidy_bump, State.tidy_runSort, State.tidy_lsStore]

theorem State.tidy_releaseSlot (hs : s.tidy) (T n : Nat) : (s.releaseSlot T n).tidy := by
  unfold State.releaseSlot
  grind [State.tidy_setSlot, State.tidy_signalRelease]

theorem State.tidy_runWrels (hs : s.tidy) (T d : Nat) : (s.runWrels T d).tidy := by
  unfold State.runWrels
  grind [foldl_tidy, State.tidy_modDom, State.tidy_releaseSlot]

theorem State.tidy_countStall (hs : s.tidy) (T d : Nat) (since : Option Nat) : (s.countStall T d since).tidy := by
  unfold State.countStall
  split <;> exact hs

theorem State.tidy_arrayCycle (hs : s.tidy) (T d : Nat) : (s.arrayCycle T d).tidy := by
  unfold State.arrayCycle
  grind [State.tidy_modDom, State.tidy_runWrels, State.tidy_afterTile, State.tidy_countStall, State.tidy_failCmd,
    State.tidy_scrub, State.tidy_runCmd]

theorem State.tidy_runHead (hs : s.tidy) (T d fuel : Nat) : (s.runHead T d fuel).tidy := by
  induction fuel generalizing s with
  | zero => exact hs
  | succ fuel ih =>
    unfold State.runHead
    grind [State.tidy_runCmd, State.tidy_modDom]

theorem State.tidy_missOr (hs : s.tidy) {f : State → State} (hf : ∀ u : State, u.tidy → (f u).tidy)
    (miss : Option W64) :
    (s.missOr miss f).tidy := by
  unfold State.missOr
  grind [State.tidy_raise]

theorem State.tidy_queueCmd (hs : s.tidy) (c : MCmd) (miss : Option W64) : (s.queueCmd c miss).tidy := by
  unfold State.queueCmd
  grind [State.tidy_missOr, State.tidy_ranged, State.tidy_park, State.tidy_modDom, State.tidy_runHead,
    State.tidy_advance, State.tidy_modReg]

theorem State.tidy_unless (hs : s.tidy) {f : State → State} (hf : ∀ u : State, u.tidy → (f u).tidy)
    (c : Option (Nat × W64)) :
    (s.unless c f).tidy := by
  unfold State.unless
  grind [State.tidy_raise]

theorem State.tidy_withRecord (hs : s.tidy) (i : Instr) (a : W64) (n : Nat) {f : Option (List Byte) → State → State}
    (hf : ∀ b u, u.tidy → (f b u).tidy) :
    (s.withRecord i a n f).tidy := by
  unfold State.withRecord
  grind [State.tidy_raise, State.tidy_ranged, State.tidy_park, State.tidy_countMiss, State.tidy_scrub]

theorem State.tidy_sortCmd (hs : s.tidy) (i : Instr) (ea o : W64) (base : Nat) (step : Int) (stride g k count : Nat)
    (bytes : List Byte) :
    (s.sortCmd i ea o base step stride g k count bytes).tidy := by
  unfold State.sortCmd
  grind [State.tidy_raise, State.tidy_queueCmd]

theorem State.tidy_lostRecord (hs : s.tidy) (i : Instr) : (s.lostRecord i).tidy := by
  unfold State.lostRecord
  grind [State.tidy_queueCmd]

@[simp] theorem tidy_execMstep (hs : s.tidy) (g : Guard) (acc : BitVec 6) (slot : BitVec 4) (r : XReg)
    (cM1 : BitVec 12) :
    leavesTidy (execMstep g acc slot r cM1 s) := by
  unfold execMstep
  grind [leavesTidy, State.tidy, State.tidy_issue, State.tidy_unless, State.tidy_withRecord, State.tidy_lostRecord,
    State.tidy_raise, State.tidy_queueCmd]

theorem State.tidy_stepSort (hs : s.tidy) (i : Instr) (top : Bool) (ea o : W64) (count : Nat) :
    (s.stepSort i top ea o count).tidy := by
  unfold State.stepSort
  grind [State.tidy_unless, State.tidy_withRecord, State.tidy_lostRecord, State.tidy_raise, State.tidy_sortCmd]

@[simp] theorem tidy_execMstepSort (hs : s.tidy) (g : Guard) (t : KeyTy) (o r : XReg) (cM1 : BitVec 12) :
    leavesTidy (execMstepSort g t o r cM1 s) := by
  unfold execMstepSort
  grind [leavesTidy, State.tidy_issue, State.tidy_stepSort]

@[simp] theorem tidy_execMstepTopk (hs : s.tidy) (g : Guard) (t : KeyTy) (o r : XReg) (cM1 : BitVec 12) :
    leavesTidy (execMstepTopk g t o r cM1 s) := by
  unfold execMstepTopk
  grind [leavesTidy, State.tidy_issue, State.tidy_stepSort]

theorem State.tidy_plainSort (hs : s.tidy) (i : Instr) (o ea : W64) (lg k count : Nat) :
    (s.plainSort i o ea lg k count).tidy := by
  unfold State.plainSort
  grind [State.tidy_unless, State.tidy_raise, State.tidy_sortCmd]

@[simp] theorem tidy_execMsort (hs : s.tidy) (g : Guard) (t : KeyTy) (lg : BitVec 4) (o k : XReg) (cM1 : BitVec 12) :
    leavesTidy (execMsort g t lg o k cM1 s) := by
  unfold execMsort
  grind [leavesTidy, State.tidy_issue, State.tidy_plainSort]

@[simp] theorem tidy_execMtopk (hs : s.tidy) (g : Guard) (t : KeyTy) (lg : BitVec 4) (kM1 : BitVec 6) (o k : XReg)
    (cM1 : BitVec 12) :
    leavesTidy (execMtopk g t lg kM1 o k cM1 s) := by
  unfold execMtopk
  grind [leavesTidy, State.tidy_issue, State.tidy_plainSort]

@[simp] theorem tidy_execMzero (hs : s.tidy) (g : Guard) (acc : BitVec 6) (cM1 : BitVec 12) :
    leavesTidy (execMzero g acc cM1 s) := by
  unfold execMzero
  grind [leavesTidy, State.tidy_issue, State.tidy_unless, State.tidy_queueCmd]

@[simp] theorem tidy_execMload (hs : s.tidy) (g : Guard) (acc : BitVec 6) (r : XReg) (cM1 : BitVec 12) :
    leavesTidy (execMload g acc r cM1 s) := by
  unfold execMload
  grind [leavesTidy, State.tidy_issue, State.tidy_unless, State.tidy_raise, State.tidy_queueCmd]

@[simp] theorem tidy_execMdrain (hs : s.tidy) (g : Guard) (t : DrainTy) (sat : Bool) (acc : BitVec 6) (r x : XReg)
    (cM1 : BitVec 12) :
    leavesTidy (execMdrain g t sat acc r x cM1 s) := by
  unfold execMdrain
  grind [leavesTidy, State.tidy_issue, State.tidy_unless, State.tidy_raise, State.tidy_queueCmd]

@[simp] theorem tidy_execMdrainv (hs : s.tidy) (g : Guard) (t : DrainTy) (sat : Bool) (v : VReg) (acc : BitVec 6)
    (a : XReg) (cM1 : BitVec 12) :
    leavesTidy (execMdrainv g t sat v acc a cM1 s) := by
  unfold execMdrainv
  grind [leavesTidy, State.tidy_issue, State.tidy_unless, State.tidy_queueCmd]

@[simp] theorem tidy_execMcfg (hs : s.tidy) (g : Guard) (r : XReg) : leavesTidy (execMcfg g r s) := by
  unfold execMcfg
  refine leavesTidy_next (State.tidy_issue (fun u hu => State.tidy_unless hu (fun u hu =>
    State.tidy_withRecord hu _ _ _ fun b u hu => ?_) _) hs ..)
  cases b with
  | none => exact State.tidy_lostRecord hu _
  | some b =>
    dsimp only
    split
    · exact State.tidy_raise hu _ _
    refine State.tidy_withRecord hu _ _ _ fun b u hu => ?_
    cases b with
    | none => exact State.tidy_lostRecord hu _
    | some b => grind [State.tidy_queueCmd, State.tidy_raise]

@[simp] theorem tidy_execMcfgOff (hs : s.tidy) (g : Guard) : leavesTidy (execMcfgOff g s) := by
  unfold execMcfgOff
  grind [leavesTidy, State.tidy_issue, State.tidy_queueCmd]

@[simp] theorem tidy_execMatrixCommandComplete (hs : s.tidy) (T d : Nat) :
    leavesTidy (execMatrixCommandComplete T d s) := by
  unfold execMatrixCommandComplete
  grind [leavesTidy, State.tidy_runWrels, State.tidy_runHead, State.tidy_modDom, State.tidy_trap, State.tidy_finish,
    State.tidy_modThread]

@[simp] theorem tidy_execMwait (hs : s.tidy) (g : Guard) (n : BitVec 8) : leavesTidy (execMwait g n s) := by
  unfold execMwait
  grind [leavesTidy, State.tidy_issue, State.tidy_matFail, State.tidy_ranged, State.tidy_advance, State.tidy_park]

@[simp] theorem tidy_execWrel (hs : s.tidy) (g : Guard) (slot : BitVec 4) : leavesTidy (execWrel g slot s) := by
  unfold execWrel
  grind [leavesTidy, State.tidy_issue, State.tidy_unless, State.tidy_complete, State.tidy_modDom, State.tidy_runWrels]

theorem State.tidy_slotUse (hs : s.tidy) {f : State → State} (hf : ∀ u : State, u.tidy → (f u).tidy) (slot : Nat) :
    (s.slotUse slot f).tidy := by
  unfold State.slotUse
  grind [State.tidy, State.tidy_unless, State.tidy_missOr, State.tidy_ranged, State.tidy_countMiss]

@[simp] theorem tidy_execWstat (hs : s.tidy) (g : Guard) (d : XReg) (slot : BitVec 4) :
    leavesTidy (execWstat g d slot s) := by
  unfold execWstat
  grind [leavesTidy, State.tidy_issue, State.tidy_slotUse, State.tidy_wx, State.tidy_advance]

@[simp] theorem tidy_execWstatWait (hs : s.tidy) (g : Guard) (d : XReg) (slot : BitVec 4) :
    leavesTidy (execWstatWait g d slot s) := by
  unfold execWstatWait
  grind [leavesTidy, State.tidy_issue, State.tidy_slotUse, State.tidy_countStall, State.tidy_wx, State.tidy_advance,
    State.tidy_park]

/-! ### The mailbox instructions, arrival barriers and markers -/

@[simp] theorem tidy_execPost (hs : s.tidy) (g : Guard) (a b c : XReg) (tag : BitVec 16) :
    leavesTidy (execPost g a b c tag s) := by
  unfold execPost
  grind [leavesTidy, State.tidy_issue, State.tidy_raise, State.tidy_ranged, State.tidy_park, State.tidy_modMe,
    State.tidy_send, State.tidy_advance]

theorem State.tidy_mboxDrop (hs : s.tidy) (k : BitVec 32) : (s.mboxDrop k).tidy := hs

@[simp] theorem tidy_execTake (hs : s.tidy) (g : Guard) (d a : XReg) (imm : BitVec 32) :
    leavesTidy (execTake g d a imm s) := by
  unfold execTake
  grind [leavesTidy, State.tidy_issue, State.tidy_complete, State.tidy_mboxDrop, State.tidy_modMe]

@[simp] theorem tidy_execPeek (hs : s.tidy) (g : Guard) (d a : XReg) (imm : BitVec 32) :
    leavesTidy (execPeek g d a imm s) := by
  unfold execPeek
  grind [leavesTidy, State.tidy_issue, State.tidy_complete, State.tidy_modMe]

@[simp] theorem tidy_execAwait (hs : s.tidy) (g : Guard) (d a : XReg) (imm : BitVec 32) :
    leavesTidy (execAwait g d a imm s) := by
  unfold execAwait
  grind [leavesTidy, State.tidy_issue, State.tidy_ranged, State.tidy_mboxDrop, State.tidy_modMe, State.tidy_advance,
    State.tidy_park]

theorem State.tidy_changeBar (hs : s.tidy) (T n : Nat) (b : Barrier) : (s.changeBar T n b).tidy := by
  unfold State.changeBar
  grind [foldl_tidy, State.tidy_setBar, State.tidy_finish, State.tidy_trap]

theorem State.tidy_barArrive (hs : s.tidy) (T n count : Nat) : (s.barArrive T n count).tidy := by
  unfold State.barArrive
  grind [State.tidy_changeBar]

theorem State.tidy_barUse (hs : s.tidy) (b : BitVec 4) (over11 : Bool) {f : Barrier → State → State}
    (hf : ∀ x u, u.tidy → (f x u).tidy) :
    (s.barUse b over11 f).tidy := by
  unfold State.barUse
  grind [State.tidy_raise]

@[simp] theorem tidy_execBarinit (hs : s.tidy) (g : Guard) (b : BitVec 4) : leavesTidy (execBarinit g b s) := by
  unfold execBarinit
  grind [leavesTidy, State.tidy_issue, State.tidy_barUse, State.tidy_complete, State.tidy_setBar]

@[simp] theorem tidy_execBarexp (hs : s.tidy) (g : Guard) (a : XReg) (b : BitVec 4) (arm : Bool) :
    leavesTidy (execBarexp g a b arm s) := by
  unfold execBarexp
  grind [leavesTidy, State.tidy_issue, State.tidy_barUse, State.tidy_complete, State.tidy_changeBar]

@[simp] theorem tidy_execBararr (hs : s.tidy) (g : Guard) (a : XReg) (b : BitVec 4) :
    leavesTidy (execBararr g a b s) := by
  unfold execBararr
  grind [leavesTidy, State.tidy_issue, State.tidy_barUse, State.tidy_raise, State.tidy_ranged, State.tidy_afterPrior,
    State.tidy_changeBar, State.tidy_advance]

@[simp] theorem tidy_execBarwait (hs : s.tidy) (g : Guard) (b : BitVec 4) : leavesTidy (execBarwait g b s) := by
  unfold execBarwait
  grind [leavesTidy, State.tidy_issue, State.tidy_barUse, State.tidy_ranged, State.tidy_advance, State.tidy_park]

@[simp] theorem tidy_execBartest (hs : s.tidy) (g : Guard) (d : XReg) (b : BitVec 4) :
    leavesTidy (execBartest g d b s) := by
  unfold execBartest
  grind [leavesTidy, State.tidy_issue, State.tidy_barUse, State.tidy_complete, State.tidy_wx]

theorem State.tidy_raiseMarker (hs : s.tidy) (T d : Nat) (m : W64) : (s.raiseMarker T d m).tidy := by
  unfold State.raiseMarker
  grind [State.tidy_modDom, State.tidy_signalMarker]

@[simp] theorem tidy_execMark (hs : s.tidy) (g : Guard) (a : XReg) (imm : BitVec 32) :
    leavesTidy (execMark g a imm s) := by
  unfold execMark
  grind [leavesTidy, State.tidy_issue, State.tidy_ranged, State.tidy_afterPrior, State.tidy_raiseMarker,
    State.tidy_advance]

/-! ### Layout records -/

theorem State.tidy_loadThen (hs : s.tidy) (i : Instr) (ea : W64) (align n size : Nat) (late : Bool)
    {f : List Byte → State → State} (hf : ∀ b u, u.tidy → (f b u).tidy) :
    (s.loadThen i ea align n size late f).tidy := by
  unfold State.loadThen
  extract_lets es p rs
  split
  · exact hf _ s hs
  split
  · exact State.tidy_raise hs _ _
  split
  · exact State.tidy_raise hs _ _
  split
  · exact State.tidy_raise hs _ _
  refine State.tidy_whenResident hs _ (fun u hu => ?_) fun u hu => State.tidy_ranged hu fun u hu =>
    State.tidy_afterPrior hu (fun u hu => ?_) i
  · exact State.tidy_ranged hu fun u hu =>
      State.tidy_afterPrior hu (fun u hu => State.tidy_park (State.tidy_countMiss hu) _ _) i
  · have own := State.tidy_performOwn hu .read rs [] []
    generalize u.performOwn .read rs [] [] = r at own ⊢
    obtain ⟨s1, got, bad⟩ := r
    have sent (l : List Req) : (l.foldl (State.sendReq .read true) s1).tidy :=
      foldl_tidy (fun u r hu => State.tidy_sendReq hu .read true r) l own
    dsimp only
    split
    · exact hf _ s1 own
    · exact State.tidy_raise own _ _
    · exact State.tidy_modMe (State.tidy_park (sent _) _ _) _

theorem State.tidy_inject (hs : s.tidy) (m : Msg) : (s.inject m).tidy := hs

@[simp] theorem tidy_execXfer (hs : s.tidy) (g : Guard) (r a : XReg) : leavesTidy (execXfer g r a s) := by
  unfold execXfer
  grind [leavesTidy, State.tidy_issue, State.tidy_loadThen, State.tidy_inject, State.tidy_advance]

@[simp] theorem tidy_execSbind (hs : s.tidy) (g : Guard) (port : BitVec 3) (r a : XReg) :
    leavesTidy (execSbind g port r a s) := by
  unfold execSbind
  grind [leavesTidy, State.tidy_issue, State.tidy_loadThen, State.tidy_park, State.tidy_modMe, State.tidy_setPort,
    State.tidy_post, State.tidy_advance]

@[simp] theorem tidy_execSwait (hs : s.tidy) (g : Guard) (port : BitVec 3) : leavesTidy (execSwait g port s) := by
  unfold execSwait
  grind [leavesTidy, State.tidy_issue, State.tidy_ranged, State.tidy_advance, State.tidy_park]

@[simp] theorem tidy_execRedput (hs : s.tidy) (g : Guard) (r x : XReg) : leavesTidy (execRedput g r x s) := by
  unfold execRedput
  grind [leavesTidy, State.tidy_issue, State.tidy_loadThen, State.tidy_send, State.tidy_advance]

@[simp] theorem tidy_execColl (hs : s.tidy) (g : Guard) (r e : XReg) : leavesTidy (execColl g r e s) := by
  unfold execColl
  grind [leavesTidy, State.tidy_issue, State.tidy_loadThen, State.tidy_raise, State.tidy_inject, State.tidy_advance]

/-! ### System instructions -/

theorem State.tidy_csrWrite (hs : s.tidy) (n : Nat) (v : W64) : (s.csrWrite n v).tidy := by
  unfold State.csrWrite
  split <;> exact hs

@[simp] theorem tidy_execCsrr (hs : s.tidy) (g : Guard) (d : XReg) (n : BitVec 14) : leavesTidy (execCsrr g d n s) := by
  unfold execCsrr
  grind [leavesTidy, State.tidy_issue, State.tidy_complete, State.tidy_wx]

theorem State.tidy_csrChange (hs : s.tidy) (d : XReg) (n : Nat) (f : W64 → W64) : (s.csrChange d n f).tidy := by
  unfold State.csrChange
  grind [State.tidy_complete, State.tidy_csrWrite, State.tidy_wx]

@[simp] theorem tidy_execCsrw (hs : s.tidy) (g : Guard) (d a : XReg) (n : BitVec 14) :
    leavesTidy (execCsrw g d a n s) := by
  unfold execCsrw
  grind [leavesTidy, State.tidy_issue, State.tidy_csrChange]

@[simp] theorem tidy_execCsrs (hs : s.tidy) (g : Guard) (d a : XReg) (n : BitVec 14) :
    leavesTidy (execCsrs g d a n s) := by
  unfold execCsrs
  grind [leavesTidy, State.tidy_issue, State.tidy_csrChange]

@[simp] theorem tidy_execCsrc (hs : s.tidy) (g : Guard) (d a : XReg) (n : BitVec 14) :
    leavesTidy (execCsrc g d a n s) := by
  unfold execCsrc
  grind [leavesTidy, State.tidy_issue, State.tidy_csrChange]

@[simp] theorem tidy_execEret (hs : s.tidy) (g : Guard) : leavesTidy (execEret g s) := by
  unfold execEret
  grind [leavesTidy, State.tidy_issue, State.tidy_raise, State.tidy_trapReturn]

theorem State.tidy_configure (hs : s.tidy) (i : Instr) (dst : Node) (op a b : Nat) : (s.configure i dst op a b).tidy :=
  State.tidy_park (State.tidy_send (State.tidy_modMe hs _) _) i _

theorem State.tidy_onTile (hs : s.tidy) {f : State → State} (hf : ∀ u : State, u.tidy → (f u).tidy) (d : XReg)
    (T : Nat) :
    (s.onTile d T f).tidy := by
  unfold State.onTile
  grind [State.tidy_bump, State.tidy_wx, State.tidy_advance]

@[simp] theorem tidy_execRepart (hs : s.tidy) (g : Guard) (d a : XReg) (mode : BitVec 2) :
    leavesTidy (execRepart g d a mode s) := by
  unfold execRepart
  grind [leavesTidy, State.tidy_issue, State.tidy_ranged, State.tidy_onTile, State.tidy_configure]

@[simp] theorem tidy_execSlotw (hs : s.tidy) (g : Guard) (d a : XReg) (dom : BitVec 2) :
    leavesTidy (execSlotw g d a dom s) := by
  unfold execSlotw
  grind [leavesTidy, State.tidy_issue, State.tidy_ranged, State.tidy_onTile, State.tidy_configure]

@[simp] theorem tidy_execJkill (hs : s.tidy) (g : Guard) (d a : XReg) : leavesTidy (execJkill g d a s) := by
  unfold execJkill
  grind [leavesTidy, State.tidy_issue, State.tidy_ranged, State.tidy_wx, State.tidy_advance, State.tidy_configure]

theorem State.tidy_snapHerd (hs : s.tidy) (v : W64) : (s.snapHerd v).tidy := by
  unfold State.snapHerd
  grind [foldl_tidy, State.tidy_send]

@[simp] theorem tidy_execSnap (hs : s.tidy) (g : Guard) (d a : XReg) (herd : Bool) :
    leavesTidy (execSnap g d a herd s) := by
  unfold execSnap
  grind [leavesTidy, State.tidy, State.tidy_issue, State.tidy_complete, State.tidy_wx, State.tidy_snapHerd]

theorem State.tidy_withdraw (hs : s.tidy) (T h : Nat) : (s.withdraw T h).tidy := by
  unfold State.withdraw
  grind [State.tidy, State.tidy_modThread, State.tidy_modTile, State.tidy_post]

theorem State.tidy_saveContext (hs : s.tidy) (k : Bool) (h off : Nat) : (s.saveContext k h off).tidy := by
  unfold State.saveContext
  grind [State.tidy_modThread, State.tidy_modDom, State.tidy_lsStore]

@[simp] theorem tidy_execCtxsave (hs : s.tidy) (g : Guard) (a : XReg) (k : Bool) :
    leavesTidy (execCtxsave g a k s) := by
  unfold execCtxsave
  grind [leavesTidy, State.tidy_issue, State.tidy_raise, State.tidy_ranged, State.tidy_modThread,
    State.tidy_saveContext, State.tidy_advance, State.tidy_withdraw, State.tidy_park]

@[simp] theorem tidy_execCtxload (hs : s.tidy) (g : Guard) (a : XReg) (k : Bool) :
    leavesTidy (execCtxload g a k s) := by
  unfold execCtxload
  grind [leavesTidy, State.tidy_issue, State.tidy_raise, State.tidy_complete, State.tidy_modThread, State.tidy_modDom,
    State.tidy_scrub]

/-! ### The homes of global data -/

theorem State.tidy_holdAt (hs : s.tidy) (n : Nat) (e : Event) : (s.holdAt n e).tidy := hs

theorem State.tidy_wake (hs : s.tidy) : s.wake.tidy := by
  unfold State.wake
  grind [State.tidy, foldl_tidy, State.tidy_modStation, State.tidy_modService]

theorem State.tidy_startRemoval (hs : s.tidy) (pid : Nat) (region : Option Nat) (status : Nat) :
    (s.startRemoval pid region status).tidy := by
  unfold State.startRemoval
  grind [State.tidy, foldl_tidy, State.tidy_setRegion, State.tidy_post]

theorem State.tidy_arrLog (hs : s.tidy) (a : Nat) (uncorr : Bool) (sym pat : Nat) :
    (s.arrLog a uncorr sym pat).tidy := by
  unfold State.arrLog
  grind [State.tidy_setReg]

theorem State.tidy_busLog (hs : s.tidy) (n ch line time tries lane : Nat) (swap : Option Nat) (isLost : Bool) :
    (s.busLog n ch line time tries lane swap isLost).tidy := by
  unfold State.busLog
  grind [State.tidy_setReg]

theorem State.tidy_attempt (hs : s.tidy) (a : Nat) : (s.attempt a).1.tidy := by
  unfold State.attempt
  grind [State.tidy]

theorem State.tidy_attempts (hs : s.tidy) (a fuel : Nat) (lost : List Nat) : (s.attempts a fuel lost).1.tidy := by
  induction fuel generalizing s lost with
  | zero => exact hs
  | succ k ih =>
    unfold State.attempts
    grind [State.tidy_attempt]

theorem State.tidy_startSwap (hs : s.tidy) (a : Nat) (wr : Bool) (lane spare : Nat) :
    (s.startSwap a wr lane spare).tidy := by
  unfold State.startSwap
  grind [State.tidy_modReg, State.tidy_modStation, State.tidy_after]

theorem State.tidy_transfer (hs : s.tidy) (a : Nat) (wr : Bool) : (s.transfer a wr).1.tidy := by
  unfold State.transfer
  grind [State.tidy_modStation, State.tidy_attempts, State.tidy_busLog, State.tidy_startSwap]

theorem State.tidy_checkArray (hs : s.tidy) (a : Nat) (p : BitVec 1152) : (s.checkArray a p).1.tidy := by
  unfold State.checkArray
  grind [foldl_fst_tidy, State.tidy_arrLog]

theorem State.tidy_recallL1 (hs : s.tidy) (line : Nat) (keep : Option (Nat × Nat)) : (s.recallL1 line keep).tidy := by
  unfold State.recallL1
  grind [foldl_tidy, State.tidy_modTile]

theorem State.tidy_fillL1 (hs : s.tidy) (line T d : Nat) : (s.fillL1 line T d).tidy := by
  unfold State.fillL1
  grind [State.tidy_modTile, State.tidy_bump]

theorem State.tidy_putLost (hs : s.tidy) (i line pid : Nat) : (s.putLost i line pid).tidy := by
  unfold State.putLost
  grind [State.tidy, State.tidy_modStation, State.tidy_freshWords]

theorem State.tidy_enterLost (hs : s.tidy) (line pid : Nat) : (s.enterLost line pid).tidy := by
  unfold State.enterLost
  grind [State.tidy, State.tidy_putLost, State.tidy_modStation, State.tidy_startRemoval]

theorem State.tidy_freeLost (hs : s.tidy) (n i : Nat) : (s.freeLost n i).tidy := by
  unfold State.freeLost
  grind [State.tidy_modStation, State.tidy_wake, State.tidy_putLost]

theorem State.tidy_restore (hs : s.tidy) (line i : Nat) (l : Lost) (ws : List (Nat × List Byte))
    (keep : Option (Nat × Nat)) :
    (s.restore line i l ws keep).1.tidy := by
  unfold State.restore
  grind [State.tidy, foldl_tidy, State.tidy_transfer, State.tidy_modStation, State.tidy_recallL1, State.tidy_writeMem,
    State.tidy_freeLost]

theorem State.tidy_noticeLost (hs : s.tidy) (n pid a : Nat) : (s.noticeLost n pid a).tidy := hs

theorem State.tidy_writeBack (hs : s.tidy) (line : Nat) : (s.writeBack line).1.tidy := by
  unfold State.writeBack
  grind [State.tidy, State.tidy_transfer]

theorem State.tidy_dropLine (hs : s.tidy) (line : Nat) : (s.dropLine line).1.tidy := by
  unfold State.dropLine
  grind [State.tidy, State.tidy_freshWords, State.tidy_enterLost, State.tidy_writeBack]

theorem State.tidy_makeRoom (hs : s.tidy) (n : Nat) : (s.makeRoom n).1.tidy := by
  unfold State.makeRoom
  grind [State.tidy_bump, State.tidy_dropLine]

theorem State.tidy_lineIn (hs : s.tidy) (pid line b : Nat) (alloc : Bool) : (s.lineIn pid line b alloc).1.tidy := by
  unfold State.lineIn
  grind [State.tidy, State.tidy_enterLost, State.tidy_makeRoom, State.tidy_freshWords, State.tidy_transfer,
    State.tidy_checkArray, State.tidy_scrub]

theorem State.tidy_lineOut (hs : s.tidy) (pid line b : Nat) (alloc : Bool) : (s.lineOut pid line b alloc).1.tidy := by
  unfold State.lineOut
  grind [State.tidy, State.tidy_makeRoom, State.tidy_writeBack, State.tidy_enterLost]

theorem State.tidy_physRead (hs : s.tidy) (pid a n b : Nat) (alloc : Bool) : (s.physRead pid a n b alloc).1.tidy := by
  unfold State.physRead
  grind [State.tidy_lineIn]

theorem State.tidy_lineWrite (hs : s.tidy) (pid line b : Nat) (ws : List (Nat × List Byte)) (alloc : Bool)
    (keep : Option (Nat × Nat)) :
    (s.lineWrite pid line b ws alloc keep).1.tidy := by
  unfold State.lineWrite
  grind [foldl_tidy, State.tidy_restore, State.tidy_lineOut, State.tidy_freshWords, State.tidy_recallL1,
    State.tidy_writeMem, State.tidy_lineIn]

theorem State.tidy_physWrite (hs : s.tidy) (pid a b : Nat) (bs : List Byte) (alloc : Bool) :
    (s.physWrite pid a b bs alloc).1.tidy := by
  unfold State.physWrite
  grind [State.tidy_lineWrite]

theorem State.tidy_countBucket (hs : s.tidy) (b : Nat) : (s.countBucket b).tidy := hs

theorem State.tidy_far (hs : s.tidy) (n : Nat) (f : Far) (data : List Byte) (shr : Bool) (cache : Nat) :
    (s.far n f data shr cache).1.tidy := by
  unfold State.far
  grind [State.tidy_modStation, State.tidy_send]

theorem State.tidy_farDone (hs : s.tidy) (n : Nat) (f : Far → Bool) : (s.farDone n f).tidy := by
  unfold State.farDone
  split <;> exact hs

theorem State.tidy_walkRead (hs : s.tidy) (n pid pa : Nat) : (s.walkRead n pid pa).1.tidy := by
  unfold State.walkRead
  grind [State.tidy_far, State.tidy_farDone, State.tidy_physRead]

theorem State.tidy_walkLevels (hs : s.tidy) (n pid va fuel base : Nat) : (s.walkLevels n pid va fuel base).1.tidy := by
  induction fuel generalizing s base with
  | zero => exact hs
  | succ k ih =>
    unfold State.walkLevels
    grind [State.tidy_walkRead]

theorem State.tidy_walk (hs : s.tidy) (n pid va : Nat) : (s.walk n pid va).1.tidy := by
  unfold State.walk
  extract_lets base
  have read := State.tidy_walkRead hs n pid (base + 8 * pid)
  generalize s.walkRead n pid (base + 8 * pid) = r at read ⊢
  split
  · exact hs
  split
  · exact read
  · exact read
  split
  · exact read
  · exact State.tidy_walkLevels read ..

theorem State.tidy_translate (hs : s.tidy) (n pid va : Nat) : (s.translate n pid va).1.tidy := by
  have walked := State.tidy_walk hs n pid va
  unfold State.translate
  generalize s.walk n pid va = r at walked ⊢
  obtain ⟨s1, w⟩ := r
  generalize List.find? _ _ = cached
  cases cached with
  | some x => exact hs
  | none =>
    cases w with
    | ok x => exact State.tidy_modStation walked _ _
    | _ => exact walked

theorem State.tidy_setAD (hs : s.tidy) (n : Nat) (x : Xlat) (wr : Bool) : (s.setAD n x wr).1.tidy := by
  unfold State.setAD
  grind [State.tidy_modStation, State.tidy_send, State.tidy_lineIn, State.tidy_physWrite]

theorem State.tidy_engPlace (hs : s.tidy) (n pid va : Nat) (user wr : Bool) : (s.engPlace n pid va user wr).1.tidy := by
  unfold State.engPlace
  grind [State.tidy_translate, State.tidy_noticeLost, State.tidy_setAD]

theorem State.tidy_engPiece (hs : s.tidy) (n pid va len : Nat) (user : Bool) (w : Option (List Byte))
    (mine : List Nat) :
    (s.engPiece n pid va len user w mine).1.tidy := by
  unfold State.engPiece
  grind [State.tidy, State.tidy_engPlace, State.tidy_far, State.tidy_physWrite, State.tidy_countBucket,
    State.tidy_physRead, State.tidy_noticeLost]

theorem State.tidy_farFirst (hs : s.tidy) (n pid : Nat) (user : Bool) (va : Nat) (w : Option (List Byte))
    (ps : List (Nat × Nat)) :
    (s.farFirst n pid user va w ps).1.tidy := by
  refine foldl_fst_tidy (fun u p hu => ?_) ps hs
  have place := State.tidy_engPlace hu n pid p.1 user w.isSome
  generalize u.1.engPlace n pid p.1 user w.isSome = q at place ⊢
  dsimp only
  split
  next s1 pa x =>
    have far (bs : List Byte) := State.tidy_far (s := s1) place n
      ⟨w.isSome, pid, pa, p.2, (s1.station n).era, p.1, x.big, none⟩ bs (bit x.leaf 9) (pteCache x.leaf)
    split
    · exact hu
    · specialize far (((w.getD []).drop (p.1 - va)).take p.2)
      split
      next h => rw [h] at far; exact far
      next h => rw [h] at far; exact far
  · exact hu

theorem State.tidy_farUsed (hs : s.tidy) (n pid va len : Nat) (wr : Bool) : (s.farUsed n pid va len wr).tidy := by
  unfold State.farUsed
  grind [State.tidy_farDone]

theorem State.tidy_grange (hs : s.tidy) (n pid : Nat) (user : Bool) (va len : Nat) (w : Option (List Byte))
    (mine : List Nat) :
    (s.grange n pid user va len w mine).1.tidy := by
  unfold State.grange
  grind [foldl_fst_tidy, State.tidy_farFirst, State.tidy_farUsed, State.tidy_engPiece]

theorem State.tidy_greadAs (hs : s.tidy) (n pid : Nat) (user : Bool) (mine : List Nat) (va len : Nat) :
    (s.greadAs n pid user mine va len).1.tidy := by
  unfold State.greadAs
  grind [State.tidy_grange]

theorem State.tidy_gread (hs : s.tidy) (n pid : Nat) (user : Bool) (va len : Nat) :
    (s.gread n pid user va len).1.tidy := by
  unfold State.gread
  grind [State.tidy_greadAs]

theorem State.tidy_gwrite (hs : s.tidy) (n pid : Nat) (user : Bool) (mine : List Nat) (va : Nat) (b : List Byte) :
    (s.gwrite n pid user mine va b).1.tidy := by
  unfold State.gwrite
  grind [State.tidy_grange]

theorem State.tidy_devRead (hs : s.tidy) (pa n : Nat) : (s.devRead pa n).1.tidy := by
  unfold State.devRead
  grind [State.tidy_physRead, State.tidy_scrub]

theorem State.tidy_physAll (hs : s.tidy) (n pid pa len : Nat) : (s.physAll n pid pa len).1.tidy := by
  unfold State.physAll
  grind [foldl_fst_tidy, State.tidy_farDone, State.tidy_devRead, State.tidy_far]

/-! ### Block-transfer engines and stream ports -/

theorem State.tidy_unitRead (hs : s.tidy) (n pid : Nat) (c : EngCmd) (third : Bool) (mine : List Nat) (a : W64)
    (u : Nat) :
    (s.unitRead n pid c third mine a u).1.tidy := by
  unfold State.unitRead
  grind [State.tidy_greadAs, State.tidy_scrub, State.tidy_far, State.tidy_farDone, State.tidy_devRead]

theorem State.tidy_devRequest (hs : s.tidy) (n pid tag unit : Nat) (dst : Node) (pa : Nat) (b : List Byte)
    (iss : Issuer) :
    (s.devRequest n pid tag unit dst pa b iss).tidy := hs

theorem State.tidy_unitWrite (hs : s.tidy) (n pid tag : Nat) (c : EngCmd) (port : Bool) (mine : List Nat) (a : W64)
    (b : List Byte) (unit : Nat) :
    (s.unitWrite n pid tag c port mine a b unit).1.tidy := by
  unfold State.unitWrite
  grind [State.tidy, State.tidy_gwrite, State.tidy_devRequest, State.tidy_physWrite, State.tidy_countBucket,
    State.tidy_lsStore]

theorem State.tidy_moveUnits (hs : s.tidy) (n pid tag : Nat) (c : EngCmd) (port : Bool) (mine : List Nat)
    (from_ count : Nat) :
    (s.moveUnits n pid tag c port mine from_ count).st.tidy := by
  unfold State.moveUnits
  refine List.foldlRecOn (motive := fun m : Moving => m.st.tidy) _ _ hs fun m hm k _ => ?_
  grind [State.tidy_unitRead, State.tidy_unitWrite]

theorem State.tidy_coverWord (hs : s.tidy) (T : Nat) (src : Node) (iss : Issuer) (w : Nat) (m : BitVec 8) :
    (s.coverWord T src iss w m).tidy := by
  unfold State.coverWord
  grind [State.tidy_modTile, State.tidy_feChange]

theorem State.tidy_fillWords (hs : s.tidy) (T : Nat) (src : Node) (iss : Issuer) (off n : Nat) :
    (s.fillWords T src iss off n).tidy := by
  unfold State.fillWords
  grind [foldl_tidy, State.tidy_coverWord]

theorem State.tidy_dropHalves (hs : s.tidy) (src : Node) (iss : Issuer) : (s.dropHalves src iss).tidy := by
  unfold State.dropHalves
  grind [foldl_tidy, State.tidy_modTile]

theorem State.tidy_deliver (hs : s.tidy) (T : Nat) (src : Node) (iss : Issuer) (off : Nat) (b : List Byte)
    (full : Bool) (bar : Option Nat) :
    (s.deliver T src iss off b full bar).tidy := by
  unfold State.deliver
  grind [State.tidy_barArrive, State.tidy_lsStore, State.tidy_fillWords]

theorem State.tidy_parkStream (hs : s.tidy) (n : Nat) (f : EngFault) : (s.parkStream n f).tidy := by
  unfold State.parkStream
  grind [foldl_tidy, State.tidy_holdAt, State.tidy_modStation, State.tidy_send, State.tidy_notice, State.tidy_post]

theorem State.tidy_setEngine (hs : s.tidy) (n e : Nat) (r : Option EngRun) : (s.setEngine n e r).tidy := hs

theorem State.tidy_releaseLines (hs : s.tidy) (ls : List Nat) : (s.releaseLines ls).tidy := by
  unfold State.releaseLines
  grind [State.tidy, State.tidy_wake]

theorem State.tidy_ownLines (hs : s.tidy) (ls : List (Nat × Nat)) : (s.ownLines ls).tidy := hs

theorem State.tidy_checkEngine (hs : s.tidy) (n e : Nat) : (s.checkEngine n e).tidy := by
  unfold State.checkEngine
  grind [State.tidy_post]

theorem State.tidy_sendDels (hs : s.tidy) (n : Nat) (r : EngRun) (ds : List (Nat × Nat × List Byte × Nat)) :
    (s.sendDels n r ds).1.tidy := by
  unfold State.sendDels
  grind [foldl_tidy, State.tidy_modStation, State.tidy_send]

theorem State.tidy_runEngine (hs : s.tidy) (n e : Nat) : (s.runEngine n e).tidy := by
  unfold State.runEngine
  grind [State.tidy_ownLines, State.tidy_moveUnits, State.tidy_sendDels, State.tidy_setEngine, State.tidy_after,
    State.tidy_checkEngine, State.tidy_holdAt, State.tidy_parkStream]

theorem State.tidy_takeRecord (hs : s.tidy) (n e : Nat) (q : EngCmd × Nat × List Nat) : (s.takeRecord n e q).tidy := hs

@[simp] theorem tidy_execBlockTransferStart (hs : s.tidy) (n e : Nat) : leavesTidy (execBlockTransferStart n e s) := by
  unfold execBlockTransferStart
  grind [leavesTidy, State.tidy_runEngine, State.tidy_takeRecord, State.tidy_wake]

theorem State.tidy_kickQueue (hs : s.tidy) (n : Nat) (q : List (EngCmd × Nat × List Nat)) :
    (s.kickQueue n q).tidy := by
  induction q generalizing s with
  | nil => exact hs
  | cons q rest ih =>
    unfold State.kickQueue
    grind [State.tidy_takeRecord, State.tidy_post]

theorem State.tidy_kickEngines (hs : s.tidy) (n : Nat) : (s.kickEngines n).tidy := by
  unfold State.kickEngines
  grind [State.tidy_kickQueue]

theorem State.tidy_forgetRx (hs : s.tidy) (src : Node) (tx : List TxStream) : (s.forgetRx src tx).tidy := by
  unfold State.forgetRx
  grind [foldl_tidy, State.tidy_modTile]

theorem State.tidy_closeRx (hs : s.tidy) (src : Node) (tx : List TxStream) (stream : Nat) :
    (s.closeRx src tx stream).tidy := by
  unfold State.closeRx
  grind [State.tidy_forgetRx]

theorem State.tidy_pruneTx (hs : s.tidy) (n : Nat) : (s.pruneTx n).tidy := by
  unfold State.pruneTx
  grind [State.tidy_modStation, State.tidy_forgetRx]

theorem State.tidy_releaseTx (hs : s.tidy) (n stream : Nat) : (s.releaseTx n stream).tidy := by
  unfold State.releaseTx
  grind [State.tidy_closeRx, State.tidy_modStation]

theorem State.tidy_releasePortTx (hs : s.tidy) (T stream : Nat) : (s.releasePortTx T stream).tidy := by
  unfold State.releasePortTx
  grind [State.tidy_closeRx, State.tidy_modTile]

@[simp] theorem tidy_execTransferComplete (hs : s.tidy) (n e : Nat) : leavesTidy (execTransferComplete n e s) := by
  unfold execTransferComplete
  grind [leavesTidy, State.tidy_kickEngines, State.tidy_releaseLines, State.tidy_send, State.tidy_setEngine,
    State.tidy_dropHalves, State.tidy_releaseTx]

theorem State.tidy_settle (hs : s.tidy) (iss : Issuer) : (s.settle iss).tidy := hs

@[simp] theorem tidy_execEngineCommand (hs : s.tidy) (m : Msg) : leavesTidy (execEngineCommand m s) := by
  unfold execEngineCommand
  grind [leavesTidy, foldl_tidy, State.tidy_holdAt, State.tidy_settle, State.tidy_send, State.tidy_ownLines,
    State.tidy_modStation, State.tidy_kickEngines, State.tidy_recallL1]

theorem State.tidy_engineAnswer (hs : s.tidy) (n : Nat) (mine : EngRun → Bool) (count : Bool) (status : Option Nat)
    (unit : Nat) :
    (s.engineAnswer n mine count status unit).tidy := by
  unfold State.engineAnswer
  grind [State.tidy_setEngine, State.tidy_checkEngine]

theorem State.tidy_engineAck (hs : s.tidy) (n tag status unit : Nat) (iss : Issuer) (ordered : Bool) :
    (s.engineAck n tag status unit iss ordered).tidy := by
  unfold State.engineAck
  grind [State.tidy_engineAnswer]

theorem State.tidy_engineReply (hs : s.tidy) (n tag : Nat) (r : Reply) : (s.engineReply n tag r).tidy := by
  unfold State.engineReply
  grind [State.tidy_engineAnswer]

theorem State.tidy_checkPort (hs : s.tidy) (T p : Nat) : (s.checkPort T p).tidy := by
  unfold State.checkPort
  grind [State.tidy_post]

theorem State.tidy_portUnits (hs : s.tidy) (T : Nat) (x : Pattern) (k : Nat) : (s.portUnits T x k).1.st.tidy := by
  unfold State.portUnits
  grind [State.tidy_moveUnits]

theorem State.tidy_portNext (hs : s.tidy) (T : Nat) (x : Pattern) : ∀ m, s.portNext T x = some m → m.1.st.tidy := by
  unfold State.portNext
  grind [State.tidy_portUnits]

theorem State.tidy_runPort (hs : s.tidy) (T p : Nat) : (s.runPort T p).tidy := by
  unfold State.runPort
  split
  · exact hs
  split
  · exact State.tidy_afterTile hs _ _
  next m ms h =>
  extract_lets c l pid mine away w tx q s1 f x1 s2
  have hw : w.1.tidy := by
    refine foldl_fst_tidy (fun u y hu => ?_) _ (State.tidy_portNext hs _ _ _ h)
    split
    · (repeat' split) <;> grind [State.tidy_deliver]
    · exact hu
  clear_value w
  have hs1 : s1.tidy := by
    dsimp only [s1]
    split
    · exact foldl_tidy (fun u m hu => State.tidy_send hu m) _ (State.tidy_modTile hw _ _)
    · exact foldl_tidy (fun u (y : Nat × Msg) hu => State.tidy_send hu y.2) _ hw
  clear_value s1
  split
  · exact State.tidy_afterTile (State.tidy_setPort hs1 _ _ _) _ _
  · exact State.tidy_checkPort (State.tidy_setPort hs1 _ _ _) _ _

@[simp] theorem tidy_execStreamPatternStart (hs : s.tidy) (T p : Nat) : leavesTidy (execStreamPatternStart T p s) := by
  unfold execStreamPatternStart
  grind [leavesTidy, State.tidy, State.tidy_runPort, State.tidy_modTile, State.tidy_setPort, State.tidy_checkPort]

@[simp] theorem tidy_execPatternComplete (hs : s.tidy) (T p : Nat) : leavesTidy (execPatternComplete T p s) := by
  unfold execPatternComplete
  grind [leavesTidy, State.tidy_send, State.tidy_setPort, State.tidy_dropHalves, State.tidy_releasePortTx,
    State.tidy_post]

theorem State.tidy_portAck (hs : s.tidy) (T tag status unit : Nat) (iss : Issuer) (ordered : Bool) :
    (s.portAck T tag status unit iss ordered).tidy := by
  unfold State.portAck
  grind [State.tidy_setPort, State.tidy_checkPort]

theorem State.tidy_bulkEvent (hs : s.tidy) (T : Nat) (m : Msg) (n : Nat) : (s.bulkEvent T m n).tidy := by
  unfold State.bulkEvent
  grind [State.tidy_barArrive]

theorem State.tidy_releaseStream (hs : s.tidy) (T : Nat) (r : RxStream) (fuel : Nat) :
    (s.releaseStream T r fuel).1.tidy := by
  induction fuel generalizing s r with
  | zero => exact hs
  | succ fuel ih =>
    unfold State.releaseStream
    grind [State.tidy_bulkEvent]

theorem State.tidy_rxStream (hs : s.tidy) (T : Nat) (m : Msg) : (s.rxStream T m).tidy := by
  unfold State.rxStream
  grind [State.tidy_releaseStream, State.tidy_modTile, State.tidy_send]

@[simp] theorem tidy_execBulkData (hs : s.tidy) (m : Msg) : leavesTidy (execBulkData m s) := by
  unfold execBulkData
  grind [leavesTidy, State.tidy_send, State.tidy_lsStore, State.tidy_modDom, State.tidy_post, State.tidy_rxStream,
    State.tidy_deliver, State.tidy_bulkEvent]

theorem State.tidy_streamAck (hs : s.tidy) (src dst : Node) (stream last : Nat) :
    (s.streamAck src dst stream last).tidy := by
  unfold State.streamAck
  grind [foldl_tidy, State.tidy_modStation, State.tidy_releaseTx, State.tidy_send, State.tidy_setEngine,
    State.tidy_checkEngine, State.tidy_modTile, State.tidy_releasePortTx, State.tidy_setPort, State.tidy_checkPort]

@[simp] theorem tidy_execOrderedStreamAck (hs : s.tidy) (m : Msg) : leavesTidy (execOrderedStreamAck m s) := by
  unfold execOrderedStreamAck
  grind [leavesTidy, State.tidy_streamAck]

theorem State.tidy_bulkAnswer (hs : s.tidy) (m : Msg) (unit : Nat) (iss : Issuer) (stream : Option Nat) :
    (s.bulkAnswer m unit iss stream).tidy := by
  unfold State.bulkAnswer
  grind [State.tidy_streamAck, State.tidy_engineAck, State.tidy_portAck]

@[simp] theorem tidy_execEngineCompletion (hs : s.tidy) (m : Msg) : leavesTidy (execEngineCompletion m s) := by
  unfold execEngineCompletion
  grind [leavesTidy, State.tidy_enterMbox, State.tidy_after]

/-! ### In-router reduction -/

theorem State.tidy_setGraph (hs : s.tidy) (n : Node) (slot : Nat) (g : Graph) : (s.setGraph n slot g).tidy := by
  unfold State.setGraph
  split <;> exact hs

theorem State.tidy_stopInstance (hs : s.tidy) (n : Node) (slot cause : Nat) : (s.stopInstance n slot cause).tidy := by
  unfold State.stopInstance
  grind [State.tidy_setGraph, State.tidy_send]

theorem State.tidy_setChunkBit (hs : s.tidy) (n : Node) (base slot c : Nat) : (s.setChunkBit n base slot c).tidy := hs

theorem State.tidy_clearVector (hs : s.tidy) (n : Node) (base slot chunks : Nat) :
    (s.clearVector n base slot chunks).tidy := by
  unfold State.clearVector
  grind [foldl_tidy, State.tidy_setReg]

theorem State.tidy_setEarly (hs : s.tidy) (n : Node) (l : List Msg) : (s.setEarly n l).tidy := by
  unfold State.setEarly
  split <;> exact hs

theorem State.tidy_markAlt (hs : s.tidy) (n : Node) (slot c : Nat) (restart : Bool) :
    (s.markAlt n slot c restart).tidy := by
  unfold State.markAlt
  split <;> exact hs

theorem State.tidy_meetDep (hs : s.tidy) (n : Node) (slot op : Nat) : (s.meetDep n slot op).tidy := by
  unfold State.meetDep
  grind [State.tidy_setGraph, State.tidy_post]

theorem State.tidy_chunkArrive (hs : s.tidy) (n : Node) (m : Msg) : ∀ t, s.chunkArrive n m = some t → t.tidy := by
  unfold State.chunkArrive
  grind [foldl_tidy, State.tidy_setEarly, State.tidy_setGraph, State.tidy_markAlt, State.tidy_meetDep,
    State.tidy_send]

theorem State.tidy_redWrite (hs : s.tidy) (T pid : Nat) (e : BitVec 64) (bytes : List Byte) :
    (s.redWrite T pid e bytes).tidy := by
  unfold State.redWrite
  grind [foldl_tidy, State.tidy_appendCommit, State.tidy_lsStore]

theorem State.tidy_redDeliver (hs : s.tidy) (n : Node) (e : BitVec 64) (group rseq pid : Nat) (r : List W32) :
    ∀ t, s.redDeliver n e group rseq pid r = some t → t.tidy := by
  unfold State.redDeliver
  grind [State.tidy_redWrite, State.tidy_post, State.tidy_chunkArrive]

theorem State.tidy_retryRed (hs : s.tidy) (n : Node) (group : Nat) : (s.retryRed n group).tidy := by
  unfold State.retryRed
  grind [foldl_tidy, State.tidy_setRouter, State.tidy_post]

theorem State.tidy_sendReds (hs : s.tidy) (n : Node) (group fuel : Nat) : (s.sendReds n group fuel).tidy := by
  induction fuel generalizing s with
  | zero => exact hs
  | succ k ih =>
    unfold State.sendReds
    grind [State.tidy_redDeliver, State.tidy_send, State.tidy_after, State.tidy_modRouter, State.tidy_retryRed]

theorem State.tidy_takeContribution (hs : s.tidy) (n : Node) (port group rseq pid : Nat) (ws : List W32) :
    (s.takeContribution n port group rseq pid ws).tidy := by
  unfold State.takeContribution
  grind [State.tidy_sendReds, State.tidy_retryRed, State.tidy_setRouter, State.tidy_after]

@[simp] theorem tidy_execReductionContribution (hs : s.tidy) (n : Node) (port : Nat) (m : Msg) :
    leavesTidy (execReductionContribution n port m s) := by
  unfold execReductionContribution
  grind [leavesTidy, State.tidy_retryRed, State.tidy_post, State.tidy_setRouter, State.tidy_takeContribution]

@[simp] theorem tidy_execReductionAbort (hs : s.tidy) (n : Node) (group rseq : Nat) (timeout : Bool) :
    leavesTidy (execReductionAbort n group rseq timeout s) := by
  unfold execReductionAbort
  refine leavesTidy_next ?_
  extract_lets key r e pid s1 st tell s1' s2
  have hs1 : s1.tidy := State.tidy_setRouter hs _ _
  have htell (u : State) (x : Node) (hu : u.tidy) : (tell u x).tidy := State.tidy_send hu _
  have hs1' : s1'.tidy := State.tidy_retryRed (State.tidy_sendReds (foldl_tidy htell _ hs1) ..) ..
  have hs2 : s2.tidy := foldl_tidy (fun u k hu => State.tidy_stopInstance hu n k st) _ hs1'
  clear_value tell s1' s2
  (repeat' split) <;> grind [State.tidy_post]

@[simp] theorem tidy_execReductionContextTimeout (hs : s.tidy) (n : Node) (group rseq : Nat) :
    leavesTidy (execReductionContextTimeout n group rseq s) := by
  unfold execReductionContextTimeout
  grind [leavesTidy, State.tidy_sendReds, State.tidy_post]

@[simp] theorem tidy_execRedHoldHold (hs : s.tidy) (x y group rseq : Nat) :
    leavesTidy (execRedHoldHold x y group rseq s) := by
  unfold execRedHoldHold
  grind [leavesTidy, State.tidy_modRouter]

@[simp] theorem tidy_execRedHoldRelease (hs : s.tidy) (x y group rseq : Nat) :
    leavesTidy (execRedHoldRelease x y group rseq s) := by
  unfold execRedHoldRelease
  grind [leavesTidy, State.tidy_modRouter, State.tidy_after]

@[simp] theorem tidy_execRedHoldAbandon (hs : s.tidy) (x y group rseq : Nat) :
    leavesTidy (execRedHoldAbandon x y group rseq s) := by
  unfold execRedHoldAbandon
  grind [leavesTidy, State.tidy_modRouter, State.tidy_sendReds, State.tidy_retryRed]

@[simp] theorem tidy_execCollLoad (hs : s.tidy) (n : Node) (v : W64) (pid : BitVec 16) (free : Bool) :
    leavesTidy (execCollLoad n v pid free s) := by
  unfold execCollLoad
  grind [leavesTidy, State.tidy_physAll, State.tidy_holdAt, State.tidy_modReg, State.tidy_setGraph]

@[simp] theorem tidy_execCollStop (hs : s.tidy) (n : Node) (slot : Nat) : leavesTidy (execCollStop n slot s) := by
  unfold execCollStop
  grind [leavesTidy, State.tidy_stopInstance]

theorem State.tidy_finishOp (hs : s.tidy) (n : Node) (slot op : Nat) : (s.finishOp n slot op).tidy := by
  unfold State.finishOp
  grind [foldl_tidy, State.tidy_setGraph, State.tidy_setChunkBit, State.tidy_post]

theorem State.tidy_parkOp (hs : s.tidy) (n : Node) (slot op cause va : Nat) (write : Bool) :
    (s.parkOp n slot op cause va write).tidy := by
  unfold State.parkOp
  grind [State.tidy_setGraph, State.tidy_parkStream]

theorem tidy_opAccess (n : Node) (slot op : Nat) (write : Bool) {r : State × GRes} (hr : r.1.tidy)
    {f : List Byte → State → State} (hf : ∀ b u, u.tidy → (f b u).tidy) :
    (opAccess n slot op write r f).tidy := by
  unfold opAccess
  grind [State.tidy_parkOp, State.tidy_stopInstance, State.tidy_setGraph, State.tidy_holdAt]

theorem State.tidy_hintPorts (hs : s.tidy) (n : Node) (hdr : BitVec 256) (ops : List (BitVec 256)) :
    (s.hintPorts n hdr ops).tidy := by
  unfold State.hintPorts
  grind [foldl_tidy, State.tidy_send]

@[simp] theorem tidy_execChunkOperationRun (hs : s.tidy) (n : Node) (slot op : Nat) :
    leavesTidy (execChunkOperationRun n slot op s) := by
  have finished (b : List Byte) (u : State) (hu : u.tidy) : (u.finishOp n slot op).tidy := State.tidy_finishOp hu n slot op
  have sent {u : State} (hu : u.tidy) (l : List Msg) : (l.foldl State.send u).tidy :=
    foldl_tidy (fun u m hu => State.tidy_send hu m) l hu
  have started (g : Graph) : (s.setGraph n slot g).tidy := State.tidy_setGraph hs n slot g
  unfold execChunkOperationRun
  refine leavesTidy_next ?_
  dsimp only
  split
  next r o _ _ =>
    split
    · exact hs
    split
    · refine tidy_opAccess n slot op _ (State.tidy_gread (started _) ..) fun b u hu => ?_
      split
      · exact sent hu _
      split
      · exact foldl_tidy (fun u m hu => State.tidy_send hu _) _ hu
      split
      · exact State.tidy_after hs _ _
      · exact State.tidy_stopInstance hu ..
    · exact tidy_opAccess n slot op _ (State.tidy_gwrite (started _) ..) finished
    · exact tidy_opAccess n slot op _ (State.tidy_gread (started _) ..) fun b u hu =>
        tidy_opAccess n slot op _ (State.tidy_gwrite hu ..) finished
    · exact tidy_opAccess n slot op _ (State.tidy_gwrite (started _) ..) finished
    · exact tidy_opAccess n slot op _ (State.tidy_gwrite (started _) ..) finished
    · exact finished [] _ (started _)
  · exact hs

@[simp] theorem tidy_execCollectiveLaunchRecord (hs : s.tidy) (n : Node) (m : Msg) :
    leavesTidy (execCollectiveLaunchRecord n m s) := by
  unfold execCollectiveLaunchRecord
  refine leavesTidy_next ?_
  split
  next r iss _ =>
    extract_lets slot first s0 g fwd s1 k skip count g1 s2 skipped s3 s4 s5 s6 held mine
    have hs0 : s0.tidy := by
      dsimp only [s0]
      split
      · exact State.tidy_settle hs iss
      · exact hs
    have hs1 : s1.tidy := foldl_tidy (fun u x hu => State.tidy_send hu _) _ hs0
    have hs2 : s2.tidy :=
      State.tidy_clearVector (State.tidy_clearVector (State.tidy_clearVector (State.tidy_setGraph hs1 ..) ..) ..) ..
    have hs4 : s4.tidy := foldl_tidy (fun u x hu => State.tidy_finishOp hu n slot x) _
      (foldl_tidy (fun u x hu => State.tidy_setGraph hu ..) _ hs2)
    have hs5 : s5.tidy := by
      dsimp only [s5]
      split
      · exact hs4
      · exact foldl_tidy (fun u c hu => State.tidy_markAlt hu ..) _ hs4
    have hs6 : s6.tidy := foldl_tidy (fun u x hu => State.tidy_post hu _) _ (State.tidy_hintPorts hs5 ..)
    split
    · exact hs1
    · exact foldl_tidy (fun u e hu => State.tidy_getD (State.tidy_chunkArrive hu n e) (State.tidy_after hu _ _)) _
        (State.tidy_setEarly hs6 ..)
  · exact hs

@[simp] theorem tidy_execCollectiveChunkData (hs : s.tidy) (n : Node) (m : Msg) :
    leavesTidy (execCollectiveChunkData n m s) := by
  unfold execCollectiveChunkData
  grind [leavesTidy, State.tidy_chunkArrive, State.tidy_after, State.tidy_getD]

@[simp] theorem tidy_execCollectiveChunkAck (hs : s.tidy) (n : Node) (m : Msg) :
    leavesTidy (execCollectiveChunkAck n m s) := by
  unfold execCollectiveChunkAck
  grind [leavesTidy, State.tidy_stopInstance, State.tidy_finishOp]

theorem State.tidy_endHold (hs : s.tidy) (f : EngFault) (abandon : Bool) : (s.endHold f abandon).tidy := by
  unfold State.endHold
  grind [foldl_tidy, State.tidy_post]

@[simp] theorem tidy_execEngResolveRetry (hs : s.tidy) (n : Node) (index : Nat) :
    leavesTidy (execEngResolveRetry n index s) := by
  unfold execEngResolveRetry
  grind [leavesTidy, State.tidy_modStation, State.tidy_endHold, State.tidy_wake, State.tidy_post]

@[simp] theorem tidy_execEngResolveAbandon (hs : s.tidy) (n : Node) (index : Nat) :
    leavesTidy (execEngResolveAbandon n index s) := by
  unfold execEngResolveAbandon
  refine leavesTidy_next ?_
  (repeat' split) <;> grind [State.tidy, State.tidy_modStation, State.tidy_endHold, State.tidy_wake,
    State.tidy_setEngine, State.tidy_checkEngine,
    State.tidy_stopInstance]

/-! ### Optical ports, laser states, time synchronisation and row power -/

theorem State.tidy_setCur (hs : s.tidy) (p v : Nat) : (s.setCur p v).tidy := hs

theorem State.tidy_setTarget (hs : s.tidy) (p v : Nat) : (s.setTarget p v).tidy := hs

theorem State.tidy_modRoutes (hs : s.tidy) (f : W64 → W64) : (s.modRoutes f).tidy := by
  unfold State.modRoutes
  grind [foldl_tidy, State.tidy_modReg]

theorem State.tidy_dropPort (hs : s.tidy) (p : Nat) : (s.dropPort p).tidy := by
  unfold State.dropPort
  grind [State.tidy_modRoutes]

theorem State.tidy_joinPort (hs : s.tidy) (p via : Nat) : (s.joinPort p via).tidy := by
  unfold State.joinPort
  grind [State.tidy_modRoutes]

theorem State.tidy_symbol (hs : s.tidy) (p code : Nat) (v : W64) : (s.symbol p code v).tidy := hs

theorem State.tidy_parkPort (hs : s.tidy) (p : Nat) : (s.parkPort p).tidy := hs

theorem State.tidy_enterLaser (hs : s.tidy) (p v : Nat) : (s.enterLaser p v).tidy := hs

theorem State.tidy_endDescent (hs : s.tidy) (p : Nat) : (s.endDescent p).tidy := by
  unfold State.endDescent
  split
  · exact State.tidy_modPortSt (State.tidy_enterLaser hs _ _) _ _
  · exact hs

theorem State.tidy_sendQuiesce (hs : s.tidy) (p : Nat) : (s.sendQuiesce p).tidy := by
  unfold State.sendQuiesce
  grind [State.tidy_modPortSt, State.tidy_symbol, State.tidy_endDescent]

theorem State.tidy_descend (hs : s.tidy) (p : Nat) : (s.descend p).tidy := by
  unfold State.descend
  grind [State.tidy_dropPort, State.tidy_modPortSt, State.tidy_sendQuiesce]

theorem State.tidy_relight (hs : s.tidy) (p : Nat) : (s.relight p).tidy := hs

theorem State.tidy_sendRestripe (hs : s.tidy) (p : Nat) (lanes : BitVec 16) : (s.sendRestripe p lanes).tidy := hs

theorem State.tidy_setLanes (hs : s.tidy) (p : Nat) (a : BitVec 16) : (s.setLanes p a).tidy := by
  unfold State.setLanes
  grind [foldl_tidy, State.tidy_modReg]

theorem State.tidy_startStripe (hs : s.tidy) (p : Nat) (active : Option (BitVec 16)) :
    (s.startStripe p active).tidy := hs

theorem State.tidy_beginDrain (hs : s.tidy) (p lane : Nat) : (s.beginDrain p lane).tidy := by
  unfold State.beginDrain
  grind [State.tidy_setTarget, State.tidy_parkPort, State.tidy_descend, State.tidy_modPortSt, State.tidy_startStripe]

theorem State.tidy_moveStripe (hs : s.tidy) (p fuel : Nat) : (s.moveStripe p fuel).tidy := by
  induction fuel generalizing s with
  | zero => exact hs
  | succ fuel ih =>
    unfold State.moveStripe
    (repeat' split) <;> grind [State.tidy_sendRestripe, State.tidy_modPortSt, State.tidy_setLanes,
      State.tidy_enterLaser, State.tidy_beginDrain,
      State.tidy_startStripe]

theorem State.tidy_flitsAcked (hs : s.tidy) (p n : Nat) : (s.flitsAcked p n).tidy := by
  unfold State.flitsAcked
  grind [State.tidy_modPortSt, State.tidy_moveStripe, State.tidy_sendQuiesce]

theorem State.tidy_moveLaser (hs : s.tidy) (p : Nat) : (s.moveLaser p).tidy := by
  unfold State.moveLaser
  grind [State.tidy_startStripe, State.tidy_moveStripe, State.tidy_parkPort, State.tidy_descend, State.tidy_relight,
    State.tidy_enterLaser]

theorem State.tidy_writeLaser (hs : s.tidy) (p priv : Nat) (v mask : W64) : (s.writeLaser p priv v mask).tidy := by
  unfold State.writeLaser
  grind [State.tidy_regStore, State.tidy_moveLaser]

@[simp] theorem tidy_execPortLaserWrite (hs : s.tidy) (p : Nat) (v : W64) : leavesTidy (execPortLaserWrite p v s) := by
  unfold execPortLaserWrite
  grind [leavesTidy, State.tidy_writeLaser]

@[simp] theorem tidy_execWakeHint (hs : s.tidy) (p module : Nat) : leavesTidy (execWakeHint p module s) := by
  unfold execWakeHint
  grind [leavesTidy, State.tidy_modReg, State.tidy_modPortSt, State.tidy_relight, State.tidy_moveLaser]

@[simp] theorem tidy_execQuiesce (hs : s.tidy) (p : Nat) : leavesTidy (execQuiesce p s) := by
  unfold execQuiesce
  grind [leavesTidy, State.tidy_modPortSt, State.tidy_endDescent]

@[simp] theorem tidy_execPortLocked (hs : s.tidy) (p : Nat) : leavesTidy (execPortLocked p s) := by
  unfold execPortLocked
  grind [leavesTidy, State.tidy_bump, State.tidy_enterLaser, State.tidy_modPortSt, State.tidy_modReg, State.tidy_post]

theorem State.tidy_rejoin (hs : s.tidy) (p : Nat) : (s.rejoin p).tidy := by
  unfold State.rejoin
  grind [State.tidy_joinPort, State.tidy_modReg]

theorem State.tidy_endSync (hs : s.tidy) (p : Nat) : (s.endSync p).tidy := by
  unfold State.endSync
  grind [State.tidy_modPortSt, State.tidy_symbol, State.tidy_rejoin]

@[simp] theorem tidy_execResume (hs : s.tidy) (p : Nat) : leavesTidy (execResume p s) := by
  unfold execResume
  grind [leavesTidy, State.tidy_modPortSt, State.tidy_rejoin]

theorem State.tidy_clearDead (hs : s.tidy) : s.clearDead.tidy := by
  unfold State.clearDead
  grind [State.tidy_modRoutes]

@[simp] theorem tidy_execRelightTimeout (hs : s.tidy) (p : Nat) : leavesTidy (execRelightTimeout p s) := by
  unfold execRelightTimeout
  grind [leavesTidy, State.tidy_modPortSt, State.tidy_afterTicks, State.tidy_setTarget, State.tidy_enterLaser,
    State.tidy_parkPort, State.tidy_dropPort, State.tidy_clearDead]

@[simp] theorem tidy_execLaserLoadWindow (hs : s.tidy) (p : Nat) : leavesTidy (execLaserLoadWindow p s) := by
  unfold execLaserLoadWindow
  grind [leavesTidy, State.tidy_modPortSt, State.tidy_afterTicks, State.tidy_setTarget, State.tidy_moveLaser]

theorem State.tidy_drainLane (hs : s.tidy) (p lane : Nat) : (s.drainLane p lane).tidy := by
  unfold State.drainLane
  grind [State.tidy_beginDrain, State.tidy_moveStripe]

@[simp] theorem tidy_execPortLanesDrain (hs : s.tidy) (p lane : Nat) : leavesTidy (execPortLanesDrain p lane s) := by
  unfold execPortLanesDrain
  grind [leavesTidy, State.tidy_drainLane]

@[simp] theorem tidy_execRestripe (hs : s.tidy) (p : Nat) (lanes : BitVec 16) :
    leavesTidy (execRestripe p lanes s) := by
  unfold execRestripe
  grind [leavesTidy, State.tidy_modPortSt, State.tidy_moveStripe, State.tidy_setLanes, State.tidy_sendRestripe]

@[simp] theorem tidy_execFecReplay (hs : s.tidy) (p : Nat) : leavesTidy (execFecReplay p s) := leavesTidy_next hs

@[simp] theorem tidy_execLockLoss (hs : s.tidy) (p lane : Nat) : leavesTidy (execLockLoss p lane s) := by
  unfold execLockLoss
  grind [leavesTidy, State.tidy_modReg, State.tidy_drainLane]

theorem State.tidy_ageInt (hs : s.tidy) (p lane : Nat) : (s.ageInt p lane).tidy := hs

@[simp] theorem tidy_execAgeHorizonCrossed (hs : s.tidy) (p lane : Nat) (hours : BitVec 16) :
    leavesTidy (execAgeHorizonCrossed p lane hours s) := by
  unfold execAgeHorizonCrossed
  grind [leavesTidy, State.tidy_modReg, State.tidy_ageInt]

theorem State.tidy_checkAges (hs : s.tidy) (p : Nat) : (s.checkAges p).tidy := by
  unfold State.checkAges
  grind [foldl_tidy, State.tidy_ageInt]

@[simp] theorem tidy_execTimeSyncSend (hs : s.tidy) (p : Nat) : leavesTidy (execTimeSyncSend p s) := by
  unfold execTimeSyncSend
  grind [leavesTidy, State.tidy_afterTicks, State.tidy_symbol]

@[simp] theorem tidy_execTimeSyncSymbol (hs : s.tidy) (p : Nat) (v : W64) : leavesTidy (execTimeSyncSymbol p v s) := by
  unfold execTimeSyncSymbol
  grind [leavesTidy, State.tidy, State.tidy_endSync]

theorem State.tidy_writeRowPwr (hs : s.tidy) (row priv : Nat) (v mask : W64) :
    (s.writeRowPwr row priv v mask).tidy := by
  unfold State.writeRowPwr
  grind [State.tidy_regStore, State.tidy_afterTicks]

@[simp] theorem tidy_execRowPwrWrite (hs : s.tidy) (row : Nat) (v : W64) : leavesTidy (execRowPwrWrite row v s) := by
  unfold execRowPwrWrite
  grind [leavesTidy, State.tidy_writeRowPwr]

@[simp] theorem tidy_execRowPowerSettled (hs : s.tidy) (row : Nat) : leavesTidy (execRowPowerSettled row s) := by
  unfold execRowPowerSettled
  grind [leavesTidy, foldl_tidy, State.tidy_setReg, State.tidy_lsClear]

/-! ### Writes and reads of device registers with effects of their own -/

theorem State.tidy_startInval (hs : s.tidy) (v : W64) : (s.startInval v).tidy := by
  unfold State.startInval
  grind [State.tidy, foldl_tidy, State.tidy_post]

theorem State.tidy_writeInval (hs : s.tidy) (n : Nat) (v : W64) : (s.writeInval n v).tidy := by
  unfold State.writeInval
  grind [State.tidy, State.tidy_setReg, State.tidy_startInval]

@[simp] theorem tidy_execXlatInvalWrite (hs : s.tidy) (n : Nat) (v : W64) : leavesTidy (execXlatInvalWrite n v s) := by
  unfold execXlatInvalWrite
  grind [leavesTidy, State.tidy_writeInval]

@[simp] theorem tidy_execXlatInvalMessage (hs : s.tidy) (n : Nat) (v : W64) :
    leavesTidy (execXlatInvalMessage n v s) := by
  unfold execXlatInvalMessage
  grind [leavesTidy, State.tidy, State.tidy_modStation, State.tidy_post]

@[simp] theorem tidy_execXlatInvalDone (hs : s.tidy) : leavesTidy (execXlatInvalDone s) := by
  unfold execXlatInvalDone
  grind [leavesTidy, State.tidy, State.tidy_after, State.tidy_startInval]

theorem State.tidy_regWrite (hs : s.tidy) (a priv : Nat) (v mask : W64) (pid : BitVec 16) (free : Bool) :
    (s.regWrite a priv v mask pid free).tidy := by
  have stored := State.tidy_regStore hs a priv v mask
  generalize h : s.regWrite a priv v mask pid free = u
  rw [show @State.regWrite = _ from by delta State.regWrite; exact rfl] at h
  generalize s.regStore a priv v mask = x at h stored
  generalize blockOf a = q at h
  obtain ⟨b, o⟩ := q
  cases b <;> dsimp only at h
  case groups | none | tile => rwa [← h]
  all_goals
    grind [foldl_tidy, State.tidy_setReg, State.tidy_post, State.tidy_writeInval, State.tidy_writeLaser,
      State.tidy_checkAges, State.tidy_writeRowPwr]

@[simp] theorem tidy_execRegisterWrite (hs : s.tidy) (a : Nat) (v : W64) : leavesTidy (execRegisterWrite a v s) := by
  unfold execRegisterWrite
  grind [leavesTidy, State.tidy_regWrite]

@[simp] theorem tidy_execRcRegisterRead (hs : s.tidy) (a : Nat) : leavesTidy (execRcRegisterRead a s) := by
  unfold execRcRegisterRead
  grind [leavesTidy, State.tidy_clearRc]

theorem State.tidy_regRead (hs : s.tidy) (pa n : Nat) : (s.regRead pa n).1.tidy := by
  unfold State.regRead
  grind [State.tidy_clearRc]

theorem State.tidy_resetDom (hs : s.tidy) (T d : Nat) : (s.resetDom T d).tidy := by
  unfold State.resetDom
  grind [State.tidy, foldl_tidy, State.tidy_modTile, State.tidy_forgetRx, State.tidy_setDom, State.tidy_setPort,
    State.tidy_setSlot, State.tidy_setThread, State.tidy_setBar]

theorem State.tidy_killStation (hs : s.tidy) (n pid : Nat) (scopes : List (Option Nat)) :
    (s.killStation n pid scopes).tidy := by
  unfold State.killStation
  grind [foldl_tidy, State.tidy_setStation, State.tidy_pruneTx, State.tidy_releaseLines, State.tidy_kickEngines,
    State.tidy_setBand]

@[simp] theorem tidy_execKillWrite (hs : s.tidy) (n : Node) (pid : BitVec 16) : leavesTidy (execKillWrite n pid s) := by
  unfold execKillWrite
  refine leavesTidy_next ?_
  extract_lets p scopes isRouter s1 s2
  have hs1 : s1.tidy := by
    dsimp only [s1]
    split
    · exact State.tidy_modRouter hs _ _
    · exact hs
  clear_value s1
  refine State.tidy_after ?_ _ _
  dsimp only [s2]
  split
  · (repeat' split) <;> grind [State.tidy_resetDom]
  · exact State.tidy_killStation hs1 ..
  · split
    · exact State.tidy_modPortSt hs1 _ _
    · exact hs1
  · exact hs1

@[simp] theorem tidy_execKillSweepEnd (hs : s.tidy) (n : Node) (pid : BitVec 16) :
    leavesTidy (execKillSweepEnd n pid s) := by
  unfold execKillSweepEnd
  grind [leavesTidy, State.tidy, State.tidy_setRouter, State.tidy_post]

/-! ### Heartbeats, accusations, quorum, seals and the fence set -/

theorem State.tidy_setLink (hs : s.tidy) (x y p v : Nat) : (s.setLink x y p v).tidy := hs

theorem State.tidy_flood (hs : s.tidy) (fx fy : Nat) (r : FenceReason) : (s.flood fx fy r).tidy := by
  unfold State.flood
  grind [foldl_tidy, State.tidy_post]

theorem State.tidy_checkQuorum (hs : s.tidy) (x y ax ay : Nat) : (s.checkQuorum x y ax ay).tidy := by
  unfold State.checkQuorum
  grind [State.tidy_after, State.tidy_setLink, State.tidy_flood]

theorem State.tidy_takeAccusation (hs : s.tidy) (x y ax ay : Nat) (by_ : Node) (reason : FenceReason) (since : Nat) :
    (s.takeAccusation x y ax ay by_ reason since).tidy := by
  unfold State.takeAccusation
  grind [foldl_tidy, State.tidy_setRouter, State.tidy_after, State.tidy_checkQuorum, State.tidy_post]

theorem State.tidy_clearMine (hs : s.tidy) (x y p : Nat) : (s.clearMine x y p).tidy := hs

theorem State.tidy_accuse (hs : s.tidy) (x y p : Nat) (reason : FenceReason) : (s.accuse x y p reason).tidy := by
  unfold State.accuse
  grind [State.tidy, State.tidy_setLink, State.tidy_clearMine, State.tidy_notice, State.tidy_modRouter,
    State.tidy_takeAccusation]

theorem State.tidy_countEvent (hs : s.tidy) (x y p : Nat) : (s.countEvent x y p).tidy := by
  unfold State.countEvent
  grind [State.tidy_modReg, State.tidy_setLink, State.tidy_accuse]

@[simp] theorem tidy_execAccusation (hs : s.tidy) (x y ax ay : Nat) (by_ : Node) (r : FenceReason) :
    leavesTidy (execAccusation x y ax ay by_ r s) := by
  unfold execAccusation
  grind [leavesTidy, State.tidy_takeAccusation]

theorem State.tidy_dropAccusation (hs : s.tidy) (x y ax ay : Nat) (by_ : Node) :
    (s.dropAccusation x y ax ay by_).tidy := by
  unfold State.dropAccusation
  grind [foldl_tidy, State.tidy_setRouter, State.tidy_post]

@[simp] theorem tidy_execAccusationWithdrawal (hs : s.tidy) (x y ax ay : Nat) (by_ : Node) :
    leavesTidy (execAccusationWithdrawal x y ax ay by_ s) := by
  unfold execAccusationWithdrawal
  grind [leavesTidy, State.tidy_dropAccusation]

@[simp] theorem tidy_execAccusationExpiry (hs : s.tidy) (x y ax ay : Nat) (by_ : Node) :
    leavesTidy (execAccusationExpiry x y ax ay by_ s) := by
  unfold execAccusationExpiry
  grind [leavesTidy, State.tidy_setRouter, State.tidy_setLink, State.tidy_modRouter, State.tidy_post]

@[simp] theorem tidy_execQuorumHoldEnd (hs : s.tidy) (x y ax ay : Nat) :
    leavesTidy (execQuorumHoldEnd x y ax ay s) := by
  unfold execQuorumHoldEnd
  grind [leavesTidy, State.tidy_setLink, State.tidy_flood]

@[simp] theorem tidy_execHeartbeatSend (hs : s.tidy) (x y : Nat) : leavesTidy (execHeartbeatSend x y s) := by
  unfold execHeartbeatSend
  grind [leavesTidy, State.tidy, foldl_tidy, State.tidy_after, State.tidy_modRouter, State.tidy_post]

@[simp] theorem tidy_execHeartbeat (hs : s.tidy) (x y : Nat) (d : Dir) : leavesTidy (execHeartbeat x y d s) := by
  unfold execHeartbeat
  grind [leavesTidy, State.tidy_countEvent, State.tidy_modRouter, State.tidy_after, State.tidy_setLink,
    State.tidy_clearMine, State.tidy_dropAccusation]

@[simp] theorem tidy_execSilenceAccusation (hs : s.tidy) (x y : Nat) (d : Dir) :
    leavesTidy (execSilenceAccusation x y d s) := by
  unfold execSilenceAccusation
  grind [leavesTidy, State.tidy_setLink, State.tidy_accuse]

@[simp] theorem tidy_execBabbleWindowEnd (hs : s.tidy) (x y : Nat) (d : Dir) :
    leavesTidy (execBabbleWindowEnd x y d s) := by
  unfold execBabbleWindowEnd
  grind [leavesTidy, State.tidy_modReg, State.tidy_after]

@[simp] theorem tidy_execFlitRetry (hs : s.tidy) (x y : Nat) (d : Dir) (failed : Nat) :
    leavesTidy (execFlitRetry x y d failed s) := by
  unfold execFlitRetry
  grind [leavesTidy, State.tidy_modReg, State.tidy_countEvent, State.tidy_accuse]

@[simp] theorem tidy_execSelfFence (hs : s.tidy) (x y : Nat) : leavesTidy (execSelfFence x y s) := by
  unfold execSelfFence
  grind [leavesTidy, State.tidy_modRouter, State.tidy_flood]

@[simp] theorem tidy_execFarrierTest (hs : s.tidy) (x y : Nat) (passed : Bool) :
    leavesTidy (execFarrierTest x y passed s) := by
  unfold execFarrierTest
  grind [leavesTidy, State.tidy, foldl_tidy, State.tidy_modRouter, State.tidy_post]

@[simp] theorem tidy_execAppeal (hs : s.tidy) (x y : Nat) (d : Dir) : leavesTidy (execAppeal x y d s) := by
  unfold execAppeal
  grind [leavesTidy, State.tidy_setLink, State.tidy_modReg, State.tidy_modRouter, State.tidy_after]

@[simp] theorem tidy_execProbationEnd (hs : s.tidy) (x y : Nat) (d : Dir) : leavesTidy (execProbationEnd x y d s) := by
  unfold execProbationEnd
  grind [leavesTidy, foldl_tidy, State.tidy_modRouter, State.tidy_post]

@[simp] theorem tidy_execReadmissionNotice (hs : s.tidy) (n : Node) (fx fy : Nat) :
    leavesTidy (execReadmissionNotice n fx fy s) := by
  unfold execReadmissionNotice
  grind [leavesTidy, State.tidy_modRouter, State.tidy_setLink, State.tidy_modTile]

/-! ### Requests at their homes and replies at their requesters -/

theorem State.tidy_answer (hs : s.tidy) (src : Node) (m : Msg) (a : Access) (status cause : Nat) (ea : W64)
    (es : List Elem) :
    (s.answer src m a status cause ea es).tidy := by
  unfold State.answer
  split <;> exact hs

theorem State.tidy_toHome (hs : s.tidy) (n : Nat) (m : Msg) (a : Access) (x : Xlat) : (s.toHome n m a x).tidy := by
  unfold State.toHome
  grind [State.tidy, State.tidy_post, State.tidy_answer]

theorem State.tidy_serveXlat (hs : s.tidy) (n : Nat) (m : Msg) (a : Access) : (s.serveXlat n m a).tidy := by
  unfold State.serveXlat
  grind [State.tidy_translate, State.tidy_holdAt, State.tidy_answer, State.tidy_noticeLost, State.tidy_setAD,
    State.tidy_toHome]

theorem State.tidy_redirect (hs : s.tidy) (n : Nat) (m : Msg) (a : Access) (new : Nat) :
    (s.redirect n m a new).tidy := by
  unfold State.redirect
  split <;> exact hs

theorem State.tidy_noticeFound {s1 : State} (hs1 : s1.tidy) (n line : Nat) (m : Msg) :
    (s.noticeFound s1 n line m).tidy := by
  unfold State.noticeFound
  grind [State.tidy_noticeLost]

theorem State.tidy_sliceRead (hs : s.tidy) (n line b : Nat) (m : Msg) (a : Access) :
    (s.sliceRead n line b m a).tidy := by
  unfold State.sliceRead
  grind [State.tidy_countBucket, State.tidy_answer, State.tidy_lineIn, State.tidy_holdAt, State.tidy_noticeLost,
    State.tidy_fillL1]

theorem State.tidy_sliceWrite (hs : s.tidy) (n line b : Nat) (m : Msg) (a : Access) :
    (s.sliceWrite n line b m a).tidy := by
  unfold State.sliceWrite
  grind [State.tidy_lineWrite, State.tidy_noticeFound, State.tidy_countBucket, State.tidy_answer, State.tidy_holdAt]

theorem State.tidy_sliceAmo (hs : s.tidy) (n line b : Nat) (m : Msg) (a : Access) (op : AmoOp) (e : Elem) :
    (s.sliceAmo n line b m a op e).tidy := by
  unfold State.sliceAmo
  grind [State.tidy_lineIn, State.tidy_holdAt, State.tidy_countBucket, State.tidy_noticeLost, State.tidy_answer,
    State.tidy_lineOut, State.tidy_recallL1, State.tidy_writeMem]

theorem State.tidy_serveSlice (hs : s.tidy) (n : Nat) (m : Msg) (a : Access) : (s.serveSlice n m a).tidy := by
  unfold State.serveSlice
  grind [State.tidy_holdAt, State.tidy_post, State.tidy_redirect, State.tidy_answer, State.tidy_sliceRead,
    State.tidy_sliceWrite, State.tidy_sliceAmo]

theorem State.tidy_serveRegs (hs : s.tidy) (n : Node) (m : Msg) (a : Access) : (s.serveRegs n m a).tidy := by
  unfold State.serveRegs
  split
  · refine State.tidy_answer (foldl_fst_tidy (fun u e hu => ?_) _ hs) n m a _ _ _ _
    dsimp only
    exact State.tidy_regRead hu _ _
  · refine State.tidy_answer (foldl_tidy (fun u e hu => ?_) _ hs) n m a _ _ _ _
    dsimp only
    exact State.tidy_regWrite hu _ _ _ _ _ _
  · exact State.tidy_answer hs ..

theorem State.tidy_serveStore (hs : s.tidy) (T : Nat) (m : Msg) (a : Access) : (s.serveStore T m a).tidy := by
  unfold State.serveStore
  (repeat' split) <;> grind [foldl_fst_tidy, → State.tidy_feTry, State.tidy_modTile, State.tidy_answer,
    State.tidy_feWake, State.tidy_feChange,
    State.tidy_lsAct]

theorem State.tidy_serveTile (hs : s.tidy) (x y : Nat) (m : Msg) (a : Access) : (s.serveTile x y m a).tidy := by
  unfold State.serveTile
  grind [State.tidy_answer, State.tidy_serveRegs, State.tidy_serveStore]

theorem State.tidy_serveService (hs : s.tidy) (k : Nat) (m : Msg) (a : Access) : (s.serveService k m a).tidy := by
  unfold State.serveService
  grind [State.tidy, foldl_tidy, State.tidy_serveRegs, State.tidy_modService, State.tidy_post, State.tidy_answer]

theorem State.tidy_serve (hs : s.tidy) (m : Msg) : (s.serve m).tidy := by
  unfold State.serve
  split
  · split
    · exact State.tidy_serveTile hs ..
    · split
      · exact State.tidy_serveXlat hs ..
      · generalize placeOf _ = q
        cases q with
        | dram a => exact State.tidy_serveSlice hs ..
        | regs x =>
          dsimp only
          split
          · exact State.tidy_serveRegs hs ..
          · exact State.tidy_post hs _
        | none => exact State.tidy_answer hs ..
        | _ => exact State.tidy_post hs _
    · exact State.tidy_serveRegs hs ..
    · exact State.tidy_serveService hs ..
  · exact hs

@[simp] theorem tidy_execReadRequest (hs : s.tidy) (m : Msg) : leavesTidy (execReadRequest m s) := by
  unfold execReadRequest
  grind [leavesTidy, State.tidy_serve]

@[simp] theorem tidy_execWriteRequest (hs : s.tidy) (m : Msg) : leavesTidy (execWriteRequest m s) := by
  unfold execWriteRequest
  grind [leavesTidy, State.tidy_serve]

@[simp] theorem tidy_execAtomicRequest (hs : s.tidy) (m : Msg) : leavesTidy (execAtomicRequest m s) := by
  unfold execAtomicRequest
  grind [leavesTidy, State.tidy_serve]

theorem State.tidy_replied (hs : s.tidy) (T h : Nat) : (s.replied T h).tidy := by
  unfold State.replied
  grind [State.tidy_setThread, State.tidy_trap, State.tidy_finish]

theorem State.tidy_threadReply {s0 : State} (hs0 : s0.tidy) (src : Node) (m : Msg) (r : Reply) :
    (s0.threadReply src m r).tidy := by
  unfold State.threadReply
  grind [State.tidy, State.tidy_setThread, State.tidy_replied, State.tidy_faultReport]

theorem State.tidy_learnMove (hs : s.tidy) (copy : Nat) : (s.learnMove copy).tidy := hs

theorem State.tidy_resend {s0 : State} (hs0 : s0.tidy) (at_ : Node) (m : Msg) (a : Access) :
    (s0.resend at_ m a).tidy := by
  unfold State.resend
  grind [State.tidy_learnMove, State.tidy_post]

theorem State.tidy_holdPost (hs : s.tidy) (m : Msg) (r : Reply) : (s.holdPost m r).tidy := hs

@[simp] theorem tidy_execMailboxPost (hs : s.tidy) (m : Msg) : leavesTidy (execMailboxPost m s) := by
  unfold execMailboxPost
  refine leavesTidy_next ?_
  (repeat' split) <;> grind [State.tidy_send, → State.tidy_enterMbox]

theorem State.tidy_clearThreads (hs : s.tidy) (T : Nat) : (s.clearThreads T).tidy := hs

theorem State.tidy_deadEnd (hs : s.tidy) (by_ : Node) (m : Msg) (status : Nat) : (s.deadEnd by_ m status).tidy := by
  unfold State.deadEnd
  grind [State.tidy_answer, State.tidy_send]

theorem State.tidy_countDrop (hs : s.tidy) (n : Node) (port : Nat) (m : Msg) : (s.countDrop n port m).tidy := by
  unfold State.countDrop
  grind [State.tidy_setReg, State.tidy_send]

theorem State.tidy_dropAt (hs : s.tidy) (n : Node) (port : Nat) (m : Msg) : (s.dropAt n port m).tidy := by
  unfold State.dropAt
  grind [State.tidy_countDrop, State.tidy_deadEnd]

@[simp] theorem tidy_execTailKill (hs : s.tidy) (n : Node) (m : Msg) :
    leavesTidy (execTailKill n m s) := leavesTidy_next hs

@[simp] theorem tidy_execReservedTypeMessage (hs : s.tidy) (n : Node) (m : Msg) :
    leavesTidy (execReservedTypeMessage n m s) := by
  unfold execReservedTypeMessage
  grind [leavesTidy, State.tidy_countEvent]

/-! ### The tile's own events -/

theorem State.tidy_rotate (hs : s.tidy) (T : Nat) : (s.rotate T).tidy := hs

@[simp] theorem tidy_execSlotTableRotation (hs : s.tidy) : leavesTidy (execSlotTableRotation s) := by
  unfold execSlotTableRotation
  grind [leavesTidy, foldl_tidy, State.tidy_rotate]

@[simp] theorem tidy_execWaitcExpiry (hs : s.tidy) (T h : Nat) : leavesTidy (execWaitcExpiry T h s) := by
  unfold execWaitcExpiry
  grind [leavesTidy, State.tidy_finish]

@[simp] theorem tidy_execHandlerEntry (hs : s.tidy) (T h : Nat) : leavesTidy (execHandlerEntry T h s) := by
  unfold execHandlerEntry
  grind [leavesTidy, State.tidy_modThread]

@[simp] theorem tidy_execFeLimitExpiry (hs : s.tidy) (T h since : Nat) :
    leavesTidy (execFeLimitExpiry T h since s) := by
  unfold execFeLimitExpiry
  grind [leavesTidy, State.tidy_withdraw, State.tidy_trap, State.tidy_modThread]

@[simp] theorem tidy_execWaitWithdrawalAck (hs : s.tidy) (T h : Nat) : leavesTidy (execWaitWithdrawalAck T h s) := by
  unfold execWaitWithdrawalAck
  grind [leavesTidy, State.tidy_setThread, State.tidy_trap]

@[simp] theorem tidy_execParkWatchdog (hs : s.tidy) (T d since : Nat) : leavesTidy (execParkWatchdog T d since s) := by
  unfold execParkWatchdog
  grind [leavesTidy, State.tidy_modReg, State.tidy_escalate]

theorem State.tidy_retryHeld (hs : s.tidy) (T d : Nat) (x : Held) : ∀ t, s.retryHeld T d x = some t → t.tidy := by
  unfold State.retryHeld
  grind [State.tidy_faultReport, State.tidy_enterMbox]

@[simp] theorem tidy_execMailboxRetry (hs : s.tidy) (T d : Nat) : leavesTidy (execMailboxRetry T d s) := by
  unfold execMailboxRetry
  grind [leavesTidy, foldl_tidy, State.tidy_modDom, State.tidy_retryHeld, State.tidy_after]

/-! ### Bands -/

theorem State.tidy_kick (hs : s.tidy) (n : Nat) : (s.kick n).tidy := hs

theorem State.tidy_setAccBytes (hs : s.tidy) (T n : Nat) (b : List Byte) : (s.setAccBytes T n b).tidy := by
  unfold State.setAccBytes
  grind [foldl_tidy, State.tidy_setAcc]

theorem State.tidy_parkTier (hs : s.tidy) (n pid stage T d cause va : Nat) (write : Bool) (resume : Event) :
    (s.parkTier n pid stage T d cause va write resume).tidy := by
  unfold State.parkTier
  grind [State.tidy_parkStream]

/-! ### Replies and notices -/

theorem State.tidy_hostWrite (hs : s.tidy) (k a : Nat) (b : List Byte) : (s.hostWrite k a b).tidy := hs

theorem State.tidy_putReply (hs : s.tidy) (k : Nat) (r : BitVec 512) (off code status : Nat) :
    (s.putReply k r off code status).tidy := by
  unfold State.putReply
  grind [State.tidy, State.tidy_hostWrite]

theorem State.tidy_answerReq (hs : s.tidy) (k : Nat) (r : BitVec 512) (status : Nat) :
    (s.answerReq k r status).tidy := by
  unfold State.answerReq
  grind [State.tidy_putReply, State.tidy_modService]

theorem State.tidy_armSnap (hs : s.tidy) : s.armSnap.tidy := by
  unfold State.armSnap
  split <;> exact hs

theorem State.tidy_putNotice (hs : s.tidy) (l : Nat) (n : Notice) : (s.putNotice l n).tidy := by
  unfold State.putNotice
  grind [State.tidy, State.tidy_hostWrite, State.tidy_setLaunch, State.tidy_armSnap]

theorem State.tidy_logged (hs : s.tidy) (code : Nat) (v : W64) : (s.logged code v).tidy := hs

theorem State.tidy_fatal (hs : s.tidy) (pid T d : Nat) : (s.fatal pid T d).tidy := by
  unfold State.fatal
  grind [State.tidy_startRemoval]

theorem State.tidy_startReplay (hs : s.tidy) (n j : Nat) : (s.startReplay n j).tidy := by
  unfold State.startReplay
  grind [State.tidy_setBand, State.tidy_post]

theorem State.tidy_forward (hs : s.tidy) (k to_ : Nat) (m : Msg) : (s.forward k to_ m).tidy := hs

theorem State.tidy_takeEscalation (hs : s.tidy) (l : Nat) (m : Msg) (val x : W64) :
    (s.takeEscalation l m val x).tidy := by
  unfold State.takeEscalation
  grind [State.tidy_putNotice, State.tidy_finish, State.tidy_startReplay, State.tidy_fatal]

@[simp] theorem tidy_execEscalation (hs : s.tidy) (m : Msg) : leavesTidy (execEscalation m s) := by
  unfold execEscalation
  grind [leavesTidy, State.tidy_logged, State.tidy_forward, State.tidy_takeEscalation]

@[simp] theorem tidy_execGuardReport (hs : s.tidy) (m : Msg) : leavesTidy (execGuardReport m s) := by
  unfold execGuardReport
  grind [leavesTidy, State.tidy_logged, State.tidy_forward, State.tidy_putNotice]

theorem State.tidy_clearRed (hs : s.tidy) (x : Nat) : (s.clearRed x).tidy := hs

theorem State.tidy_freeRegion (hs : s.tidy) (n : Nat) : (s.freeRegion n).tidy := by
  unfold State.freeRegion
  grind [State.tidy, foldl_tidy, State.tidy_setRegion, State.tidy_wake, State.tidy_setBand, State.tidy_modStation,
    State.tidy_clearRed, State.tidy_lsClear, State.tidy_resetDom]

@[simp] theorem tidy_execLaunchEnd (hs : s.tidy) (l : Nat) : leavesTidy (execLaunchEnd l s) := by
  unfold execLaunchEnd
  grind [leavesTidy, foldl_tidy, State.tidy_putReply, State.tidy_setLaunch, State.tidy_wake, State.tidy_freeRegion,
    State.tidy_answerReq]

@[simp] theorem tidy_execRemovalConfirmed (hs : s.tidy) (pid : BitVec 16) :
    leavesTidy (execRemovalConfirmed pid s) := by
  unfold execRemovalConfirmed
  grind [leavesTidy, State.tidy, foldl_tidy, State.tidy_freeRegion, State.tidy_answerReq, State.tidy_setLaunch,
    State.tidy_wake, State.tidy_post]

theorem State.tidy_recheck (hs : s.tidy) (n : Nat) (b : Band) : (s.recheck n b).tidy := by
  unfold State.recheck
  grind [foldl_tidy, State.tidy_kick, State.tidy_post]

theorem State.tidy_startDrain (hs : s.tidy) (n : Nat) (req : Option (Nat × BitVec 512)) :
    (s.startDrain n req).tidy := by
  unfold State.startDrain
  grind [foldl_tidy, State.tidy_setRegion, State.tidy_post, State.tidy_setBand, State.tidy_recheck]

theorem State.tidy_fwWrite (hs : s.tidy) (pa : Nat) (b : List Byte) : (s.fwWrite pa b).1.tidy := by
  unfold State.fwWrite
  grind [foldl_fst_tidy, State.tidy_physWrite, State.tidy_lsStore]

@[simp] theorem tidy_execDrainComplete (hs : s.tidy) (n : Nat) : leavesTidy (execDrainComplete n s) := by
  unfold execDrainComplete
  grind [leavesTidy, foldl_fst_tidy, State.tidy_holdAt, State.tidy_post, State.tidy_freeRegion, State.tidy_answerReq,
    State.tidy_physAll, State.tidy_fwWrite]

/-! ### The bucket rebalancer -/

@[simp] theorem tidy_execRebalanceEpoch (hs : s.tidy) : leavesTidy (execRebalanceEpoch s) := by
  unfold execRebalanceEpoch
  grind [leavesTidy, State.tidy, State.tidy_after, State.tidy_post]

theorem State.tidy_flushLine (hs : s.tidy) (line : Nat) : (s.flushLine line).1.tidy := by
  unfold State.flushLine
  grind [State.tidy_recallL1, State.tidy_dropLine]

@[simp] theorem tidy_execBucketFlushed (hs : s.tidy) : leavesTidy (execBucketFlushed s) := by
  unfold execBucketFlushed
  grind [leavesTidy, State.tidy, foldl_fst_tidy, State.tidy_after, State.tidy_flushLine, State.tidy_post,
    State.tidy_wake]

@[simp] theorem tidy_execBucketActiveAtNew (hs : s.tidy) : leavesTidy (execBucketActiveAtNew s) := by
  unfold execBucketActiveAtNew
  grind [leavesTidy, State.tidy, State.tidy_post, State.tidy_wake]

@[simp] theorem tidy_execLaneSwapEnd (hs : s.tidy) (n channel : Nat) (ok : Bool) :
    leavesTidy (execLaneSwapEnd n channel ok s) := by
  unfold execLaneSwapEnd
  grind [leavesTidy, State.tidy_modStation, State.tidy_attempt, State.tidy_busLog, State.tidy_wake]

/-! ### The tier engines -/

theorem State.tidy_modCursor (hs : s.tidy) (k n j st w : Nat) (f : Cursor → Cursor) :
    (s.modCursor k n j st w f).tidy := hs

theorem State.tidy_doneOcc (hs : s.tidy) (o : Occ) : (s.doneOcc o).tidy := by
  unfold State.doneOcc
  grind [foldl_tidy, State.tidy_modCursor, State.tidy_kick]

theorem State.tidy_loseFill (hs : s.tidy) (g row slot : Nat) : (s.loseFill g row slot).tidy := by
  unfold State.loseFill
  grind [foldl_tidy, State.tidy_post]

theorem State.tidy_tierMiss (hs : s.tidy) (k : Nat) (b : Band) (o : Occ) : (s.tierMiss k b o).tidy := by
  unfold State.tierMiss
  split <;> exact hs

theorem State.tidy_startOcc (hs : s.tidy) (k n : Nat) (b : Band) (c : Cursor) (x : Nat × BitVec 256 × Nat) :
    (s.startOcc k n b c x).tidy := by
  unfold State.startOcc
  grind [foldl_tidy, State.tidy_doneOcc, State.tidy_modCursor, State.tidy_notice, State.tidy_loseFill,
    State.tidy_post, State.tidy_tierMiss, State.tidy_setRel, State.tidy_modDom]

theorem State.tidy_runCursor (hs : s.tidy) (k n j st w : Nat) : (s.runCursor k n j st w).tidy := by
  unfold State.runCursor
  grind [foldl_tidy, State.tidy_startOcc]

theorem State.tidy_runRow (hs : s.tidy) (row : Nat) : (s.runRow row).tidy := by
  unfold State.runRow
  grind [foldl_tidy, State.tidy_runCursor]

theorem State.tidy_openCursor (hs : s.tidy) (k n : Nat) (b : Band) (j st w mIn : Nat) :
    (s.openCursor k n b j st w mIn).tidy := by
  unfold State.openCursor
  grind [foldl_tidy, State.tidy_holdAt, State.tidy_modStation, State.tidy_gread, State.tidy_parkTier,
    State.tidy_notice, State.tidy_runCursor, State.tidy_loseFill]

theorem State.tidy_stageDoneAt (hs : s.tidy) (k n j st w mIn : Nat) : (s.stageDoneAt k n j st w mIn).tidy := by
  unfold State.stageDoneAt
  grind [State.tidy_openCursor, State.tidy_kick]

@[simp] theorem tidy_execStageDoneReport (hs : s.tidy) (n j st w mIn : Nat) :
    leavesTidy (execStageDoneReport n j st w mIn s) := by
  unfold execStageDoneReport
  grind [leavesTidy, foldl_tidy, State.tidy_stageDoneAt]

theorem State.tidy_rowMarker (hs : s.tidy) (k n : Nat) (b : Band) (j st w t : Nat) :
    (s.rowMarker k n b j st w t).tidy := by
  unfold State.rowMarker
  grind [foldl_tidy, State.tidy_modCursor, State.tidy_runCursor, State.tidy_tierMiss]

theorem State.tidy_seeDone (hs : s.tidy) (n T : Nat) : (s.seeDone n T).tidy := by
  unfold State.seeDone
  grind [State.tidy_post]

theorem State.tidy_rowDone (hs : s.tidy) (k n : Nat) (b : Band) (j st w : Nat) : (s.rowDone k n b j st w).tidy := by
  unfold State.rowDone
  grind [State.tidy_modCursor, State.tidy_send, State.tidy_post]

theorem State.tidy_markerAt (hs : s.tidy) (k n j st w t : Nat) : (s.markerAt k n j st w t).tidy := by
  unfold State.markerAt
  grind [foldl_tidy, State.tidy_rowMarker, State.tidy_seeDone, State.tidy_rowDone]

@[simp] theorem tidy_execMarkerReduction (hs : s.tidy) (n j T marker : Nat) :
    leavesTidy (execMarkerReduction n j T marker s) := by
  unfold execMarkerReduction
  grind [leavesTidy, foldl_tidy, State.tidy_markerAt]

theorem State.tidy_prefetch (hs : s.tidy) (k pid va len : Nat) : (s.prefetch k pid va len).1.tidy := by
  refine foldl_fst_tidy (fun u p hu => ?_) _ hs
  have piece := State.tidy_engPiece hu k pid p.1 p.2 true none []
  generalize u.1.engPiece k pid p.1 p.2 true none [] = q at piece ⊢
  split
  · split <;> exact piece
  · exact hu

theorem State.tidy_settleOcc (hs : s.tidy) (k n : Nat) (b : Band) (o : Occ) (write : Bool) (r : Tier) (e : Event) :
    (s.settleOcc k n b o write r e).tidy := by
  unfold State.settleOcc
  grind [State.tidy_doneOcc, State.tidy_holdAt, State.tidy_parkTier]

@[simp] theorem tidy_execKind1Prefetch (hs : s.tidy) (o : Occ) : leavesTidy (execKind1Prefetch o s) := by
  unfold execKind1Prefetch
  grind [leavesTidy, State.tidy_prefetch, State.tidy_settleOcc]

theorem State.tidy_cleanLines (hs : s.tidy) (k pid va len : Nat) : (s.cleanLines k pid va len).1.tidy := by
  unfold State.cleanLines
  refine foldl_fst_tidy (fun u x hu => ?_) _ hs
  have place := State.tidy_engPlace hu k pid x.1 true true
  generalize u.1.engPlace k pid x.1 true true = q at place ⊢
  obtain ⟨s1, e⟩ := q
  (repeat' split) <;> grind [State.tidy, State.tidy_writeBack, State.tidy_noticeLost, State.tidy_enterLost]

@[simp] theorem tidy_execKind3Writeback (hs : s.tidy) (o : Occ) : leavesTidy (execKind3Writeback o s) := by
  unfold execKind3Writeback
  grind [leavesTidy, State.tidy, foldl_tidy, foldl_fst_tidy, State.tidy_settleOcc, State.tidy_post, State.tidy_notice,
    State.tidy_gwrite, State.tidy_scrub, State.tidy_cleanLines]

theorem State.tidy_markResid (hs : s.tidy) (T d : Nat) (o : Occ) (st : Nat) : (s.markResid T d o st).tidy := hs

theorem State.tidy_wakeResid (hs : s.tidy) (T d : Nat) : (s.wakeResid T d).tidy := by
  unfold State.wakeResid
  grind [foldl_tidy, State.tidy_setThread, State.tidy_countStall]

theorem State.tidy_lsStoreIn (hs : s.tidy) (T d off : Nat) (b : List Byte) : (s.lsStoreIn T d off b).tidy := by
  unfold State.lsStoreIn
  grind [State.tidy_lsStore]

@[simp] theorem tidy_execKind4Fetch (hs : s.tidy) (o : Occ) : leavesTidy (execKind4Fetch o s) := by
  unfold execKind4Fetch
  grind [leavesTidy, State.tidy, foldl_tidy, foldl_fst_tidy, State.tidy_settleOcc, State.tidy_gread,
    State.tidy_markResid, State.tidy_wakeResid, State.tidy_lsStoreIn, State.tidy_post, State.tidy_doneOcc]

@[simp] theorem tidy_execResidencyComplete (hs : s.tidy) (T d : Nat) (o : Occ) :
    leavesTidy (execResidencyComplete T d o s) := by
  unfold execResidencyComplete
  grind [leavesTidy, State.tidy_markResid, State.tidy_wakeResid, State.tidy_doneOcc]

@[simp] theorem tidy_execKind5Assert (hs : s.tidy) (o : Occ) : leavesTidy (execKind5Assert o s) := by
  unfold execKind5Assert
  grind [leavesTidy, foldl_tidy, State.tidy_kick, State.tidy_setSlot]

theorem State.tidy_shine (hs : s.tidy) (T : Nat) (f : Frame) : (s.shine T f).tidy := by
  unfold State.shine
  split <;> exact hs

theorem State.tidy_shineNext (hs : s.tidy) (T lambda : Nat) : (s.shineNext T lambda).tidy := by
  unfold State.shineNext
  split <;> exact hs

theorem State.tidy_emit (hs : s.tidy) (g row : Nat) (fs : List Frame) : (s.emit g row fs).tidy := by
  unfold State.emit
  grind [foldl_tidy, State.tidy_shine]

@[simp] theorem tidy_execKind2Emit (hs : s.tidy) (o : Occ) : leavesTidy (execKind2Emit o s) := by
  unfold execKind2Emit
  grind [leavesTidy, State.tidy, State.tidy_gread, State.tidy_emit, State.tidy_loseFill, State.tidy_doneOcc,
    State.tidy_holdAt, State.tidy_settleOcc]

theorem State.tidy_fillEnded (hs : s.tidy) (T slot : Nat) : (s.fillEnded T slot).tidy := by
  unfold State.fillEnded
  grind [State.tidy_setRel, State.tidy_doneOcc]

theorem State.tidy_askRepair (hs : s.tidy) (T : Nat) (f : Frame) : (s.askRepair T f).tidy := by
  unfold State.askRepair
  grind [State.tidy_loseFill, State.tidy_doneOcc, State.tidy_setSlot, State.tidy_send]

theorem State.tidy_takeFrame (hs : s.tidy) (T : Nat) (f : Frame) : (s.takeFrame T f).tidy := by
  unfold State.takeFrame
  grind [State.tidy, State.tidy_askRepair, State.tidy_freshWords, State.tidy_setSlot, State.tidy_fillEnded]

@[simp] theorem tidy_execLightFrame (hs : s.tidy) (T : Nat) (f : Frame) : leavesTidy (execLightFrame T f s) := by
  unfold execLightFrame
  grind [leavesTidy, State.tidy_takeFrame, State.tidy_shineNext]

@[simp] theorem tidy_execFrameRepairRequest (hs : s.tidy) (m : Msg) : leavesTidy (execFrameRepairRequest m s) := by
  unfold execFrameRepairRequest
  refine leavesTidy_next ?_
  (repeat' split) <;> grind [State.tidy_gread, State.tidy_emit, State.tidy_loseFill, State.tidy_doneOcc,
    State.tidy_holdAt, State.tidy_settleOcc]

theorem State.tidy_releaseAt (hs : s.tidy) (n j T slot : Nat) : (s.releaseAt n j T slot).tidy := by
  unfold State.releaseAt
  grind [State.tidy_setRel, State.tidy_runRow]

@[simp] theorem tidy_execSlotRelease (hs : s.tidy) (T slot : Nat) : leavesTidy (execSlotRelease T slot s) := by
  unfold execSlotRelease
  grind [leavesTidy, State.tidy_releaseAt]

@[simp] theorem tidy_execLostFill (hs : s.tidy) (T slot : Nat) : leavesTidy (execLostFill T slot s) := by
  unfold execLostFill
  grind [leavesTidy, State.tidy_setSlot, State.tidy_signalRelease]

/-! ### The scroll -/

theorem State.tidy_sendSaddle (hs : s.tidy) (src : Node) (sdom pid T t : Nat) (b : List Byte) :
    (s.sendSaddle src sdom pid T t b).tidy := by
  unfold State.sendSaddle
  grind [foldl_tidy, State.tidy_send]

@[simp] theorem tidy_execSaddleMessage (hs : s.tidy) (m : Msg) : leavesTidy (execSaddleMessage m s) := by
  unfold execSaddleMessage
  grind [leavesTidy, State.tidy_lsStore, State.tidy_modDom, State.tidy_post]

theorem State.tidy_readSaddle (hs : s.tidy) (n : Nat) (b : Band) (st va len : Nat) (e : Event) :
    (s.readSaddle n b st va len e).1.tidy := by
  unfold State.readSaddle
  grind [State.tidy_gread, State.tidy_holdAt, State.tidy_parkTier]

theorem State.tidy_initialSaddle (hs : s.tidy) (n : Nat) (b : Band) (st c : Nat) (e : Event) :
    (s.initialSaddle n b st c e).1.tidy := by
  unfold State.initialSaddle
  grind [State.tidy_readSaddle]

theorem State.tidy_entrySaddle (hs : s.tidy) (n : Nat) (b : Band) (st w c : Nat) (e : Event) :
    (s.entrySaddle n b st w c e).1.tidy := by
  unfold State.entrySaddle
  grind [State.tidy_initialSaddle, State.tidy_readSaddle]

theorem State.tidy_rowSaddles (hs : s.tidy) (n : Nat) (b : Band) (ts : List Nat) (st w : Nat) (e : Event) :
    (s.rowSaddles n b ts st w e).1.tidy := by
  unfold State.rowSaddles
  grind [foldl_fst_tidy, State.tidy_entrySaddle]

@[simp] theorem tidy_execParkedSaddleDelivery (hs : s.tidy) (n : Nat) : leavesTidy (execParkedSaddleDelivery n s) := by
  unfold execParkedSaddleDelivery
  refine leavesTidy_next ?_
  split
  · exact hs
  · dsimp only
    split
    · exact hs
    · grind [foldl_tidy, State.tidy_rowSaddles, State.tidy_sendSaddle]

theorem State.tidy_loadKept (hs : s.tidy) (n : Nat) (b : Band) (e : Event) : (s.loadKept n b e).1.tidy := by
  unfold State.loadKept
  split
  · exact hs
  · refine foldl_fst_tidy (fun u x hu => ?_) _ hs
    have saddle := State.tidy_readSaddle hu n b 0 (b.accSlot b.saddleInit x.2) 16384 e
    generalize u.1.readSaddle n b 0 (b.accSlot b.saddleInit x.2) 16384 e = q at saddle ⊢
    split
    · exact hu
    split
    · exact State.tidy_setAccBytes saddle ..
    · exact saddle

theorem State.tidy_loaded (hs : s.tidy) (n : Nat) (b : Band) : (s.loaded n b).tidy := by
  unfold State.loaded
  grind [foldl_tidy, State.tidy_setLaunch, State.tidy_recheck]

@[simp] theorem tidy_execInitialSaddleDelivery (hs : s.tidy) (n st : Nat) :
    leavesTidy (execInitialSaddleDelivery n st s) := by
  unfold execInitialSaddleDelivery
  grind [leavesTidy, foldl_tidy, State.tidy_loadKept, State.tidy_loaded, State.tidy_rowSaddles, State.tidy_send,
    State.tidy_sendSaddle]

@[simp] theorem tidy_execTileReady (hs : s.tidy) (T d : Nat) : leavesTidy (execTileReady T d s) := by
  unfold execTileReady
  grind [leavesTidy, State.tidy_setDom, State.tidy_signal]

theorem State.tidy_readyAt (hs : s.tidy) (k n j T : Nat) : (s.readyAt k n j T).tidy := by
  unfold State.readyAt
  grind [State.tidy_send, State.tidy_setBand, State.tidy_kick]

@[simp] theorem tidy_execReadyReduction (hs : s.tidy) (n j T : Nat) : leavesTidy (execReadyReduction n j T s) := by
  unfold execReadyReduction
  grind [leavesTidy, State.tidy_readyAt]

theorem State.tidy_startReply (hs : s.tidy) (l : Nat) : (s.startReply l).tidy := by
  unfold State.startReply
  grind [State.tidy_answerReq, State.tidy_setLaunch]

theorem State.tidy_frozenBoundary (hs : s.tidy) (r : Nat) : (s.frozenBoundary r).tidy := by
  unfold State.frozenBoundary
  grind [State.tidy_setRegion, State.tidy_post, State.tidy_after]

theorem State.tidy_beginStep (hs : s.tidy) (n : Nat) (b : Band) : (s.beginStep n b).tidy := by
  unfold State.beginStep
  grind [State.tidy, foldl_tidy, State.tidy_startReply, State.tidy_post, State.tidy_setBand, State.tidy_send,
    State.tidy_modStation, State.tidy_modDom, State.tidy_after]

@[simp] theorem tidy_execStepStart (hs : s.tidy) (n : Nat) : leavesTidy (execStepStart n s) := by
  unfold execStepStart
  grind [leavesTidy, State.tidy_post, State.tidy_frozenBoundary, State.tidy_after, State.tidy_beginStep]

theorem State.tidy_enterStage (hs : s.tidy) (T d : Nat) (b : Band) (st w t : Nat) (rec_ : BitVec 2048) :
    (s.enterStage T d b st w t rec_).tidy := by
  unfold State.enterStage
  grind [State.tidy_setDom, State.tidy_modTile, State.tidy_signalMarker, State.tidy_post]

@[simp] theorem tidy_execStageEntry (hs : s.tidy) (T d : Nat) : leavesTidy (execStageEntry T d s) := by
  unfold execStageEntry
  refine leavesTidy_next ?_
  split
  · exact hs
  · dsimp only
    split
    · exact hs
    · (repeat' split) <;> grind [State.tidy_holdAt, State.tidy_enterStage]

theorem State.tidy_stopPorts (hs : s.tidy) (T d : Nat) : (s.stopPorts T d).tidy := by
  unfold State.stopPorts
  grind [foldl_tidy, State.tidy_setPort, State.tidy_releasePortTx]

theorem State.tidy_readLeaving (hs : s.tidy) (T : Nat) (dm : Dom) (es : List Edge) : (s.readLeaving T dm es).tidy := by
  unfold State.readLeaving
  grind [State.tidy_scrub]

theorem State.tidy_finishStage (hs : s.tidy) (T d : Nat) (b : Band) (st w t : Nat) :
    (s.finishStage T d b st w t).tidy := by
  unfold State.finishStage
  extract_lets dm j c k s0 saddle rep passOn es hist bad j'
  have hs0 : s0.tidy := State.tidy_lsStore hs ..
  have hhist : hist.1.tidy := by
    dsimp only [hist]
    split
    · exact State.tidy_gwrite hs0 ..
    · exact hs0
  clear_value s0 hist
  split
  · exact State.tidy_noticeLost hs0 ..
  split
  · exact State.tidy_holdAt hhist _ _
  · exact State.tidy_parkTier hhist ..
  next s1 _ _ _ =>
    extract_lets left s2 s3 s4 s5
    have hs2 : s2.tidy := by
      dsimp only [s2]
      split
      · exact State.tidy_sendSaddle (State.tidy_readLeaving hhist ..) ..
      · exact State.tidy_readLeaving hhist ..
    have hs3 : s3.tidy := foldl_tidy (fun u e hu => foldl_tidy (fun u x hu => State.tidy_send hu _) _ hu) _ hs2
    have hs5 : s5.tidy := by
      refine foldl_tidy (fun u i hu => ?_) _ (State.tidy_modDom (State.tidy_stopPorts hs3 T d) _ _ _)
      grind [State.tidy_setSlot]
    split
    · exact State.tidy_send hhist _
    · exact State.tidy_runRow (State.tidy_signalMarker (State.tidy_post hs5 _) _ _) _

@[simp] theorem tidy_execStageDone (hs : s.tidy) (T d : Nat) : leavesTidy (execStageDone T d s) := by
  unfold execStageDone
  refine leavesTidy_next ?_
  split
  · exact hs
  · dsimp only
    split
    · exact hs
    · (repeat' split) <;> grind [State.tidy_finishStage, State.tidy_signalMarker]

theorem State.tidy_drainEntry (hs : s.tidy) (T d at_ : Nat) : (s.drainEntry T d at_).1.tidy := by
  unfold State.drainEntry
  grind [State.tidy_gwrite, State.tidy_lsStore]

theorem State.tidy_endCommit (hs : s.tidy) (n : Nat) (b : Band) (w : Nat) : (s.endCommit n b w).tidy := by
  unfold State.endCommit
  grind [foldl_tidy, State.tidy_setBand, State.tidy_kick, State.tidy_post, State.tidy_modDom]

@[simp] theorem tidy_execWaveCommit (hs : s.tidy) (n w : Nat) : leavesTidy (execWaveCommit n w s) := by
  unfold execWaveCommit
  refine leavesTidy_next ?_
  (repeat' split) <;> grind [State.tidy_endCommit, State.tidy_setBand, State.tidy_post, State.tidy_drainEntry,
    State.tidy_holdAt, State.tidy_faultReport]

theorem State.tidy_finalWrites (hs : s.tidy) (n : Nat) (b : Band) : (s.finalWrites n b).tidy := by
  unfold State.finalWrites
  extract_lets total e k ps told write r1 accs r2
  have hwrite (acc : State × Bool) (va : Nat) (l : List Byte) (ha : acc.1.tidy) : (write acc va l).1.tidy := by
    have put := State.tidy_gwrite ha k b.pid true [] (va % 2 ^ 55) l
    dsimp only [write]
    split
    next h => rw [h] at put; exact State.tidy_holdAt put _ _
    next h => rw [h] at put; exact State.tidy_parkTier put ..
    next h => rw [h] at put; exact put
  clear_value write
  have hr1 : r1.1.tidy := by
    refine foldl_fst_tidy (fun u p hu => ?_) _ hs
    have saddle := State.tidy_entrySaddle hu n b p.1 total p.2 e
    split
    · exact hu
    split
    next h => rw [h] at saddle; exact hwrite _ _ _ saddle
    next h => rw [h] at saddle; exact saddle
  have hr2 : r2.1.tidy := by
    refine foldl_fst_tidy (fun u x hu => ?_) _ hr1
    split
    · exact hu
    · exact hwrite u _ _ hu
  split
  · exact State.tidy_setBand hr2 _ _
  · exact hr2

@[simp] theorem tidy_execBandFinish (hs : s.tidy) (n : Nat) : leavesTidy (execBandFinish n s) := by
  unfold execBandFinish
  grind [leavesTidy, State.tidy_setBand, State.tidy_startReply, State.tidy_post, State.tidy_finalWrites]

@[simp] theorem tidy_execStepOverrun (hs : s.tidy) (n t : Nat) : leavesTidy (execStepOverrun n t s) := by
  unfold execStepOverrun
  grind [leavesTidy, foldl_tidy, State.tidy_setBand, State.tidy_send, State.tidy_notice]

@[simp] theorem tidy_execOverrunOrder (hs : s.tidy) (T d t : Nat) : leavesTidy (execOverrunOrder T d t s) := by
  unfold execOverrunOrder
  grind [leavesTidy, foldl_tidy, State.tidy_modThread, State.tidy_withdraw]

theorem State.tidy_rewindRow (hs : s.tidy) (n : Nat) (b : Band) (j : Nat) : (s.rewindRow n b j).tidy := by
  unfold State.rewindRow
  grind [State.tidy, foldl_tidy, State.tidy_setBand, State.tidy_setRel, State.tidy_resetDom, State.tidy_setDom,
    State.tidy_modDom]

theorem State.tidy_setReplay (hs : s.tidy) (n : Nat) (r : Option Replay) : (s.setReplay n r).tidy := hs

@[simp] theorem tidy_execReplayStep (hs : s.tidy) (n st : Nat) : leavesTidy (execReplayStep n st s) := by
  unfold execReplayStep
  refine leavesTidy_next ?_
  (repeat' split) <;> grind [foldl_tidy, State.tidy_modBand, State.tidy_startReplay, State.tidy_recheck,
    State.tidy_rowSaddles, State.tidy_rewindRow,
    State.tidy_lsStore, State.tidy_modStation, State.tidy_setReplay, State.tidy_openCursor, State.tidy_post]

theorem State.tidy_unfreeze (hs : s.tidy) (n status : Nat) : (s.unfreeze n status).tidy := by
  unfold State.unfreeze
  grind [foldl_tidy, State.tidy_setRegion, State.tidy_answerReq, State.tidy_modBand, State.tidy_kick]

@[simp] theorem tidy_execFreezeImageWrite (hs : s.tidy) (n : Nat) : leavesTidy (execFreezeImageWrite n s) := by
  unfold execFreezeImageWrite
  grind [leavesTidy, State.tidy, State.tidy_after, State.tidy_unfreeze, State.tidy_fwWrite, State.tidy_scrub,
    State.tidy_setRegion, State.tidy_answerReq]

@[simp] theorem tidy_execFreezeAbandon (hs : s.tidy) (n : Nat) : leavesTidy (execFreezeAbandon n s) := by
  unfold execFreezeAbandon
  grind [leavesTidy, State.tidy_unfreeze]

/-! ### Fence notices -/

theorem State.tidy_setRemap (hs : s.tidy) (row col physX : Nat) : (s.setRemap row col physX).tidy := hs

theorem State.tidy_moveReds (hs : s.tidy) (old new : Nat) : (s.moveReds old new).tidy := by
  unfold State.moveReds
  grind [State.tidy, foldl_tidy, State.tidy_modRouter]

theorem State.tidy_moveDrops (hs : s.tidy) (row old new : Nat) : (s.moveDrops row old new).tidy := hs

theorem State.tidy_substitute (hs : s.tidy) (row col physX : Nat) : (s.substitute row col physX).tidy := by
  unfold State.substitute
  grind [State.tidy, State.tidy_setRemap, State.tidy_moveReds, State.tidy_moveDrops, State.tidy_lsClear,
    State.tidy_setTile]

@[simp] theorem tidy_execRemapEntryWrite (hs : s.tidy) (row col physX : Nat) :
    leavesTidy (execRemapEntryWrite row col physX s) := by
  unfold execRemapEntryWrite
  grind [leavesTidy, State.tidy_substitute]

theorem State.tidy_fenceReds (hs : s.tidy) (n : Node) (fx fy : Nat) : (s.fenceReds n fx fy).tidy := by
  unfold State.fenceReds
  grind [foldl_tidy, State.tidy_modRouter, State.tidy_post]

theorem State.tidy_fenceStation (hs : s.tidy) (n T : Nat) : (s.fenceStation n T).tidy := by
  unfold State.fenceStation
  grind [State.tidy_setStation, State.tidy_pruneTx, State.tidy_releaseLines, State.tidy_kickEngines]

theorem State.tidy_fenceTile (hs : s.tidy) (T : Nat) : (s.fenceTile T).tidy := by
  unfold State.fenceTile
  grind [foldl_tidy, State.tidy_modTile, State.tidy_kick, State.tidy_post, State.tidy_releaseAt, State.tidy_fillEnded]

theorem State.tidy_fenceDom (hs : s.tidy) (T d : Nat) (ent : W64) : (s.fenceDom T d ent).tidy := by
  unfold State.fenceDom
  grind [foldl_tidy, State.tidy_putNotice, State.tidy_setBand, State.tidy_kick, State.tidy_fatal]

theorem State.tidy_fenceService (hs : s.tidy) (k fx fy : Nat) : (s.fenceService k fx fy).tidy := by
  unfold State.fenceService
  grind [foldl_tidy, State.tidy_after, State.tidy_fenceDom]

theorem State.tidy_drainAll (hs : s.tidy) : s.drainAll.tidy := by
  unfold State.drainAll
  grind [foldl_tidy, State.tidy_startDrain]

@[simp] theorem tidy_execFenceNotice (hs : s.tidy) (n : Node) (fx fy : Nat) (reason : FenceReason) :
    leavesTidy (execFenceNotice n fx fy reason s) := by
  unfold execFenceNotice
  grind [leavesTidy, State.tidy, State.tidy_drainAll, State.tidy_setRouter, State.tidy_fenceReds,
    State.tidy_modRouter, State.tidy_fenceTile, State.tidy_setLink, State.tidy_fenceStation, State.tidy_fenceService]

theorem State.tidy_copyCode (hs : s.tidy) (T d : Nat) : ∀ t, s.copyCode T d = some t → t.tidy := by
  intro t ht
  unfold State.copyCode at ht
  split at ht
  · cases ht
    exact hs
  · obtain ⟨l, -, rfl⟩ := Option.map_eq_some_iff.mp ht
    exact State.tidy_lsStore hs ..

@[simp] theorem tidy_execSubstitution (hs : s.tidy) (row col : Nat) : leavesTidy (execSubstitution row col s) := by
  unfold execSubstitution
  refine leavesTidy_next ?_
  extract_lets T x ds again
  have hagain : again.tidy := State.tidy_after (foldl_tidy (fun u e hu => State.tidy_modBand hu _ _) _ hs) _ _
  clear_value again
  split
  · exact hs
  split
  · exact foldl_tidy (fun u d hu => State.tidy_fatal (State.tidy_putNotice hu _ _) _ _ _) _ hs
  split
  · exact hagain
  next y _ _ =>
    have copied := foldl_option_tidy (g := fun (o : Option State) d => o.bind fun s => s.copyCode T d)
      (fun o d ho t ht => by
        obtain ⟨u, hu, ht⟩ := Option.bind_eq_some_iff.mp ht
        exact State.tidy_copyCode (ho u hu) _ _ t ht) ds (o := some (s.substitute row col y))
      fun t ht => by cases ht; exact State.tidy_substitute hs _ _ _
    dsimp only
    generalize List.foldl (fun (o : Option State) d => o.bind fun s => s.copyCode T d) _ ds = o at copied ⊢
    cases o with
    | none => exact hagain
    | some s3 =>
      refine foldl_tidy (fun u r hu => foldl_tidy (fun u e hu => ?_) _ hu) _ (foldl_tidy (fun u d hu => ?_) _
        (foldl_tidy (fun u d hu => ?_) _ (copied s3 rfl)))
      · grind [State.tidy_setBand, State.tidy_recheck]
      · grind [State.tidy_startReplay]
      · grind [State.tidy_modTile]

/-! ### The RCB tree of a LAUNCH -/

theorem State.tidy_withGroups (hs : s.tidy) (p : Plan0) : (s.withGroups p).tidy := hs

/-! ### Placement -/

theorem State.tidy_request (hs : s.tidy) {f : State → State} (hf : ∀ u : State, u.tidy → (f u).tidy) (k : Nat)
    (r : BitVec 512) :
    (s.request k r f).tidy := by
  unfold State.request
  grind [State.tidy_answerReq]

theorem State.tidy_refuseRequest (hs : s.tidy) (k : Nat) (r : BitVec 512) : (s.refuseRequest k r).tidy := by
  unfold State.refuseRequest
  grind [State.tidy_answerReq]

theorem State.tidy_spared (hs : s.tidy) (ts : List Nat) : ∀ t, s.spared ts = some t → t.tidy := by
  refine foldl_option_tidy (fun o T ho t ht => ?_) ts fun t ht => by cases ht; exact hs
  obtain ⟨u, hu, ht⟩ := Option.bind_eq_some_iff.mp ht
  have tidy_u := ho u hu
  dsimp only at ht
  split at ht
  · obtain ⟨y, -, rfl⟩ := Option.map_eq_some_iff.mp ht
    exact State.tidy_setRemap tidy_u ..
  · cases ht
    exact tidy_u

theorem State.tidy_placeTile (hs : s.tidy) (pl : Spot) (reg : BitVec 1024) (b : Option (Nat × BandPlan)) (T : Nat) :
    (s.placeTile pl reg b T).tidy := by
  unfold State.placeTile
  grind [State.tidy, State.tidy_setDom, State.tidy_clearThreads, State.tidy_modTile, State.tidy_lsStore]

theorem State.tidy_placeLights (hs : s.tidy) (r : RegionPlan) : (s.placeLights r).tidy := hs

theorem State.tidy_placeReds (hs : s.tidy) (q : Nat) (r : RegionPlan) : (s.placeReds q r).tidy := by
  unfold State.placeReds
  grind [foldl_tidy, State.tidy_modRouter]

theorem State.tidy_placeRegion (hs : s.tidy) (p : Plan0) (l : Nat) (r : RegionPlan) : (s.placeRegion p l r).tidy := by
  unfold State.placeRegion
  grind [State.tidy, foldl_tidy, State.tidy_placeLights, State.tidy_setRegion, State.tidy_setBand, State.tidy_setRel]

theorem State.tidy_placePart (hs : s.tidy) (l q : Nat) : (s.placePart l q).tidy := by
  unfold State.placePart
  grind [foldl_tidy, State.tidy_placeReds, State.tidy_placeTile]

theorem State.tidy_startLaunch (hs : s.tidy) (l : Nat) : (s.startLaunch l).tidy := by
  unfold State.startLaunch
  grind [foldl_tidy, State.tidy_post]

theorem State.tidy_place (hs : s.tidy) (k : Nat) (r : BitVec 512) (p : Plan0) : (s.place k r p).tidy := by
  unfold State.place
  grind [State.tidy, foldl_tidy, State.tidy_setLaunch, State.tidy_placePart, State.tidy_modService,
    State.tidy_startLaunch, State.tidy_placeRegion, State.tidy_substitute, State.tidy_send]

theorem State.tidy_configured (hs : s.tidy) (k q l : Nat) : (s.configured k q l).tidy := by
  unfold State.configured
  grind [State.tidy_modService, State.tidy_startLaunch]

theorem State.tidy_stall (hs : s.tidy) (k : Nat) (priv : Bool) (r : BitVec 512) : (s.stall k priv r).tidy := hs

theorem State.tidy_launchPlan (hs : s.tidy) (k : Nat) (priv : Bool) (r : BitVec 512) (p : Plan0) :
    (s.launchPlan k priv r p).tidy := by
  unfold State.launchPlan
  grind [State.tidy_answerReq, State.tidy_putReply, State.tidy_place, State.tidy_stall, State.tidy_startDrain]

@[simp] theorem tidy_execLaunch (hs : s.tidy) (sv : Nat) (priv : Bool) (r : BitVec 512) :
    leavesTidy (execLaunch sv priv r s) := by
  unfold execLaunch
  grind [leavesTidy, State.tidy_request, State.tidy_stall, State.tidy_answerReq, State.tidy_launchPlan]

/-! ### The service tiles' other requests -/

@[simp] theorem tidy_execDrain (hs : s.tidy) (sv : Nat) (priv : Bool) (r : BitVec 512) :
    leavesTidy (execDrain sv priv r s) := by
  unfold execDrain
  grind [leavesTidy, State.tidy_request, State.tidy_answerReq, State.tidy_modService, State.tidy_startDrain]

@[simp] theorem tidy_execFreeze (hs : s.tidy) (sv : Nat) (priv : Bool) (r : BitVec 512) :
    leavesTidy (execFreeze sv priv r s) := by
  unfold execFreeze
  grind [leavesTidy, foldl_tidy, State.tidy_request, State.tidy_answerReq, State.tidy_modService,
    State.tidy_setRegion, State.tidy_frozenBoundary, State.tidy_setBand, State.tidy_kick]

theorem State.tidy_loadTile (hs : s.tidy) (T d : Nat) (t : ImageTile) (b : List Byte) : (s.loadTile T d t b).tidy := by
  unfold State.loadTile
  grind [State.tidy, foldl_tidy, State.tidy_setDom, State.tidy_lsStore, State.tidy_modTile, State.tidy_setPort,
    State.tidy_setBar, State.tidy_setSlot, State.tidy_setThread, State.tidy_setAccBytes]

theorem State.tidy_loadBands (hs : s.tidy) (n : Nat) (im : Image) : (s.loadBands n im).tidy := by
  unfold State.loadBands
  grind [State.tidy, foldl_tidy, State.tidy_setBand, State.tidy_setRel, State.tidy_modStation]

@[simp] theorem tidy_execRestore (hs : s.tidy) (sv : Nat) (priv : Bool) (r : BitVec 512) :
    leavesTidy (execRestore sv priv r s) := by
  refine leavesTidy_next (State.tidy_request hs (fun u hu => ?_) sv r)
  (repeat' split) <;> grind [foldl_tidy, State.tidy_answerReq, State.tidy_stall, State.tidy_loadTile,
    State.tidy_modStation,
    State.tidy_loadBands, State.tidy_setRegion, State.tidy_recheck]

@[simp] theorem tidy_execAttest (hs : s.tidy) (sv : Nat) (priv : Bool) (r : BitVec 512) :
    leavesTidy (execAttest sv priv r s) := by
  unfold execAttest
  grind [leavesTidy, State.tidy_request, State.tidy_answerReq, State.tidy_stall, State.tidy_hostWrite]

theorem State.tidy_setHandler (hs : s.tidy) (a off q : Nat) : (s.setHandler a off q).tidy := by
  unfold State.setHandler
  grind [foldl_tidy, State.tidy_modDom]

@[simp] theorem tidy_execHandler (hs : s.tidy) (sv : Nat) (priv : Bool) (r : BitVec 512) :
    leavesTidy (execHandler sv priv r s) := by
  unfold execHandler
  grind [leavesTidy, State.tidy, foldl_tidy, State.tidy_request, State.tidy_answerReq, State.tidy_stall,
    State.tidy_setHandler, State.tidy_send]

theorem State.tidy_startCopy (hs : s.tidy) (sv : Nat) (priv inbound : Bool) (r : BitVec 512) :
    (s.startCopy sv priv inbound r).tidy := by
  unfold State.startCopy
  grind [State.tidy_answerReq, State.tidy_modService, State.tidy_post]

@[simp] theorem tidy_execCopyIn (hs : s.tidy) (sv : Nat) (priv : Bool) (r : BitVec 512) :
    leavesTidy (execCopyIn sv priv r s) := by
  unfold execCopyIn
  grind [leavesTidy, State.tidy_request, State.tidy_startCopy]

@[simp] theorem tidy_execCopyOut (hs : s.tidy) (sv : Nat) (priv : Bool) (r : BitVec 512) :
    leavesTidy (execCopyOut sv priv r s) := by
  unfold execCopyOut
  grind [leavesTidy, State.tidy_request, State.tidy_startCopy]

theorem State.tidy_unitIn (hs : s.tidy) (pa : Nat) (b : List Byte) : (s.unitIn pa b).1.tidy := by
  generalize h : s.unitIn pa b = u
  rw [show @State.unitIn = _ from by delta State.unitIn; exact rfl] at h
  generalize placeOf pa = q at h
  cases q <;> dsimp only at h
  case dram a => grind [State.tidy_physWrite, State.tidy_countBucket]
  case store T off =>
    rw [← h]
    exact State.tidy_lsStore hs T off b
  case regs a =>
    generalize List.range 8 = words at h
    rw [← h]
    exact foldl_tidy (fun u i hu => State.tidy_regWrite hu ..) words hs
  all_goals rwa [← h]

theorem State.tidy_unitOut (hs : s.tidy) (pa : Nat) : (s.unitOut pa).1.tidy := by
  unfold State.unitOut
  grind [foldl_fst_tidy, State.tidy_physRead, State.tidy_countBucket, State.tidy_scrub, State.tidy_regRead]

theorem State.tidy_copyStep (hs : s.tidy) (k : Nat) (r : BitVec 512) (c : Copy) : (s.copyStep k r c).tidy := by
  unfold State.copyStep
  grind [State.tidy_modService, State.tidy_answerReq, State.tidy_send, State.tidy_unitIn, State.tidy_holdAt,
    State.tidy_post, State.tidy_unitOut, State.tidy_hostWrite]

theorem State.tidy_completeRead (hs : s.tidy) (k : Nat) (m : Msg) : (s.completeRead k m).tidy := by
  unfold State.completeRead
  grind [State.tidy_answer]

@[simp] theorem tidy_execPcieReadCompletion (hs : s.tidy) (k : Nat) : leavesTidy (execPcieReadCompletion k s) := by
  unfold execPcieReadCompletion
  grind [leavesTidy, State.tidy_setService, State.tidy_completeRead, State.tidy_copyStep]

/-! ### Replies at their requesters, configuration writes, arrivals, and the hops of messages -/

theorem State.tidy_copyAnswer (hs : s.tidy) (k : Nat) (r : Reply) : (s.copyAnswer k r).tidy := by
  unfold State.copyAnswer
  grind [State.tidy_modService, State.tidy_post, State.tidy_hostWrite]

theorem State.tidy_farAnswer (hs : s.tidy) (n : Nat) (wr : Bool) (r : Reply) : (s.farAnswer n wr r).tidy := by
  unfold State.farAnswer
  grind [State.tidy_modStation, State.tidy_wake]

theorem State.tidy_takeReply (hs : s.tidy) (m : Msg) (r : Reply) : (s.takeReply m r).tidy := by
  unfold State.takeReply
  grind [State.tidy_threadReply, State.tidy_copyAnswer, State.tidy_farAnswer, State.tidy_engineReply]

@[simp] theorem tidy_execReadReply (hs : s.tidy) (m : Msg) : leavesTidy (execReadReply m s) := by
  unfold execReadReply
  grind [leavesTidy, State.tidy_resend, State.tidy_takeReply]

@[simp] theorem tidy_execAtomicReply (hs : s.tidy) (m : Msg) : leavesTidy (execAtomicReply m s) := by
  unfold execAtomicReply
  grind [leavesTidy, State.tidy_resend, State.tidy_takeReply]

@[simp] theorem tidy_execWriteAcknowledgement (hs : s.tidy) (m : Msg) : leavesTidy (execWriteAcknowledgement m s) := by
  unfold execWriteAcknowledgement
  grind [leavesTidy, State.tidy_resend, State.tidy_takeReply, State.tidy_configured, State.tidy_bulkAnswer,
    State.tidy_holdPost]

@[simp] theorem tidy_execConfigurationWrite (hs : s.tidy) (m : Msg) : leavesTidy (execConfigurationWrite m s) := by
  unfold execConfigurationWrite
  refine leavesTidy_next ?_
  split
  next op a b iss _ =>
    have back {u : State} (hu : u.tidy) (v : Nat) : (u.send (replyTo m m.dst 0 0 0 [statusElem v] iss)).tidy :=
      State.tidy_send hu _
    dsimp only
    split
    · split
      · exact back hs 1
      · exact back (State.tidy_modTile (State.tidy_clearThreads hs a) a _) 0
    · split
      · exact back hs 2
      · exact back (State.tidy_modDom hs a _ _) 0
    · exact State.tidy_startRemoval (back hs 0) ..
    · exact hs
    · exact back (State.tidy_placePart hs a b) 0
    · split
      · exact State.tidy_setHandler hs ..
      · exact hs
    · exact hs
  · exact hs

theorem State.tidy_alongRow (hs : s.tidy) (k n : Nat) (m : Msg) : (s.alongRow k n m).tidy := by
  unfold State.alongRow
  grind [foldl_tidy, State.tidy_send]

theorem State.tidy_startTile (hs : s.tidy) (T n t : Nat) : (s.startTile T n t).tidy := by
  unfold State.startTile
  grind [State.tidy_post]

theorem State.tidy_control (hs : s.tidy) (n : Node) (m : Msg) (c : Ctrl) : (s.control n m c).tidy := by
  unfold State.control
  grind [State.tidy_post, State.tidy_alongRow, State.tidy_startTile]

theorem State.tidy_arrive (hs : s.tidy) (n : Node) (m : Msg) : (s.arrive n m).tidy := by
  unfold State.arrive
  grind [State.tidy_control, State.tidy_post]

theorem State.tidy_hopAbroad (hs : s.tidy) (at_ : Node) (m : Msg) (a : Away) : (s.hopAbroad at_ m a).tidy := by
  unfold State.hopAbroad
  grind [State.tidy, State.tidy_post, State.tidy_deadEnd, State.tidy_after, State.tidy_modPortSt]

@[simp] theorem tidy_execMeshRoute (hs : s.tidy) (at_ : Node) (m : Msg) : leavesTidy (execMeshRoute at_ m s) := by
  unfold execMeshRoute
  grind [leavesTidy, State.tidy_post, State.tidy_hopAbroad, State.tidy_arrive, State.tidy_deadEnd,
    State.tidy_countEvent, State.tidy_dropAt]

/-! ### Herd membership -/

theorem State.tidy_clearRoutes (hs : s.tidy) (md : Nat) : (s.clearRoutes md).tidy := by
  unfold State.clearRoutes
  grind [foldl_tidy, State.tidy_setReg]

theorem State.tidy_leavePort (hs : s.tidy) (p : Nat) : (s.leavePort p).tidy := by
  unfold State.leavePort
  grind [State.tidy_setTarget, State.tidy_moveLaser, State.tidy_modReg]

theorem State.tidy_leaveModule (hs : s.tidy) (md : Nat) : (s.leaveModule md).tidy := by
  unfold State.leaveModule
  grind [foldl_tidy, State.tidy_clearRoutes, State.tidy_leavePort, State.tidy_post]

@[simp] theorem tidy_execHerdMembershipChange (hs : s.tidy) (members : BitVec 32) :
    leavesTidy (execHerdMembershipChange members s) := by
  unfold execHerdMembershipChange
  grind [leavesTidy, State.tidy, foldl_tidy, State.tidy_leaveModule]

/-! ### Module reset and boot -/

theorem State.tidy_loadFence (hs : s.tidy) (f : Nat × Nat) : (s.loadFence f).tidy := by
  unfold State.loadFence
  grind [foldl_tidy, State.tidy_modRouter, State.tidy_setLink, State.tidy_setRemap, State.tidy_modTile]

theorem State.tidy_startClocks (hs : s.tidy) : s.startClocks.tidy := by
  unfold State.startClocks
  grind [foldl_tidy, State.tidy_after, State.tidy_afterTicks]

theorem State.tidy_resetModule (_hs : s.tidy) : s.resetModule.tidy := by
  unfold State.resetModule
  grind [State.tidy, foldl_tidy, State.tidy_setService, State.tidy_startClocks, State.tidy_setReg,
    State.tidy_loadFence, State.tidy_afterTicks, Memory.wf_nil, State.reset]

@[simp] theorem tidy_execModuleReset (hs : s.tidy) : leavesTidy (execModuleReset s) := by
  unfold execModuleReset
  grind [leavesTidy, State.tidy_resetModule]

@[simp] theorem tidy_execManagementReset (hs : s.tidy) : leavesTidy (execManagementReset s) := by
  unfold execManagementReset
  grind [leavesTidy, State.tidy_resetModule]

@[simp] theorem tidy_execThermalTrip (hs : s.tidy) : leavesTidy (execThermalTrip s) := by
  unfold execThermalTrip
  grind [leavesTidy, State.tidy_resetModule]

@[simp] theorem tidy_execMeasurementExtend (hs : s.tidy) (k i : Nat) (d : BitVec 512) :
    leavesTidy (execMeasurementExtend k i d s) := by
  unfold execMeasurementExtend
  grind [leavesTidy, State.tidy_modService]

@[simp] theorem tidy_execFirmwareUpdate (hs : s.tidy) (k : Nat) (image : FlashState) (digest : BitVec 512) :
    leavesTidy (execFirmwareUpdate k image digest s) := by
  unfold execFirmwareUpdate
  grind [leavesTidy, State.tidy_modService]

theorem State.tidy_manage (hs : s.tidy) (q : Query) : (s.manage q).tidy := hs

theorem State.tidy_noticeHot (hs : s.tidy) (row n : Nat) (r : Region) : (s.noticeHot row n r).tidy := by
  unfold State.noticeHot
  grind [State.tidy_bump, State.tidy_putNotice]

theorem State.tidy_coolRow (hs : s.tidy) (row : Nat) : (s.coolRow row).tidy := by
  unfold State.coolRow
  grind [foldl_tidy, State.tidy_writeRowPwr, State.tidy_noticeHot, State.tidy_startDrain]

theorem State.tidy_sensed (hs : s.tidy) (n : Node) (temp : Int) : (s.sensed n temp).tidy := by
  unfold State.sensed
  split <;> exact hs

theorem State.tidy_sampleAgain (hs : s.tidy) (row : Nat) : (s.sampleAgain row).tidy := by
  unfold State.sampleAgain
  split <;> exact hs

@[simp] theorem tidy_execThermalSample (hs : s.tidy) (row : Nat) : leavesTidy (execThermalSample row s) := by
  unfold execThermalSample
  grind [leavesTidy, State.tidy, State.tidy_sampleAgain, State.tidy_coolRow, State.tidy_writeRowPwr]

theorem State.tidy_latchTile (hs : s.tidy) (T : Nat) : (s.latchTile T).tidy := by
  unfold State.latchTile
  grind [foldl_tidy, State.tidy_setReg]

theorem State.tidy_latchRouter (hs : s.tidy) (n : Nat) : (s.latchRouter n).tidy := by
  unfold State.latchRouter
  grind [foldl_tidy, State.tidy_setReg, State.tidy_bump]

theorem State.tidy_latchStation (hs : s.tidy) (n : Nat) : (s.latchStation n).tidy := by
  unfold State.latchStation
  grind [State.tidy_setReg]

theorem State.tidy_latchPort (hs : s.tidy) (p : Nat) : (s.latchPort p).tidy := by
  unfold State.latchPort
  grind [State.tidy_setReg]

@[simp] theorem tidy_execSnapshotTrigger (hs : s.tidy) : leavesTidy (execSnapshotTrigger s) := by
  unfold execSnapshotTrigger
  grind [leavesTidy, State.tidy, foldl_tidy, State.tidy_latchStation, State.tidy_latchRouter, State.tidy_latchTile,
    State.tidy_latchPort]

/-! ### Compares and predicates -/

@[simp] theorem tidy_execCmp (hs : s.tidy) (g : Guard) (t : IntTy) (p : PReg) (a b : XReg) (c : Cond) :
    leavesTidy (execCmp g t p a b c s) := tidy_regInstr (fun _ hu => State.tidy_wp hu _ _) hs ..

@[simp] theorem tidy_execCmpi (hs : s.tidy) (g : Guard) (p : PReg) (a : XReg) (imm : BitVec 32) (c : Cond) :
    leavesTidy (execCmpi g p a imm c s) := tidy_regInstr (fun _ hu => State.tidy_wp hu _ _) hs ..

@[simp] theorem tidy_execFcmp (hs : s.tidy) (g : Guard) (t : FTy) (p : PReg) (a b : XReg) (c : FCond) :
    leavesTidy (execFcmp g t p a b c s) := tidy_regInstr (fun _ hu => State.tidy_wp hu _ _) hs ..

theorem tidy_predInstr (hs : s.tidy) (i : Instr) (g : Guard) (d a b : PReg) (f : Bool → Bool → Bool) :
    leavesTidy (predInstr i g d a b f s) := by
  unfold predInstr
  grind [leavesTidy, tidy_regInstr, State.tidy_wp]

@[simp] theorem tidy_execPand (hs : s.tidy) (g : Guard) (d a b : PReg) :
    leavesTidy (execPand g d a b s) := tidy_predInstr hs ..

@[simp] theorem tidy_execPor (hs : s.tidy) (g : Guard) (d a b : PReg) :
    leavesTidy (execPor g d a b s) := tidy_predInstr hs ..

@[simp] theorem tidy_execPxor (hs : s.tidy) (g : Guard) (d a b : PReg) :
    leavesTidy (execPxor g d a b s) := tidy_predInstr hs ..

@[simp] theorem tidy_execPandn (hs : s.tidy) (g : Guard) (d a b : PReg) :
    leavesTidy (execPandn g d a b s) := tidy_predInstr hs ..

@[simp] theorem tidy_execPget (hs : s.tidy) (g : Guard) (d : XReg) :
    leavesTidy (execPget g d s) := tidy_regInstr (fun _ hu => State.tidy_wx hu _ _) hs ..

@[simp] theorem tidy_execPput (hs : s.tidy) (g : Guard) (a b : XReg) :
    leavesTidy (execPput g a b s) := tidy_regInstr (fun _ hu => State.tidy_modMe hu _) hs ..

theorem State.tidy_wf (hs : s.tidy) (d : XReg) (v : Nat) : (s.wf d v).tidy := hs

@[simp] theorem tidy_execFadd (hs : s.tidy) (g : Guard) (t : FTy) (rm : Rm) (sat : Bool) (d a b : XReg) :
    leavesTidy (execFadd g t rm sat d a b s) := tidy_regInstr (fun _ hu => State.tidy_wf hu _ _) hs ..

@[simp] theorem tidy_execFsub (hs : s.tidy) (g : Guard) (t : FTy) (rm : Rm) (sat : Bool) (d a b : XReg) :
    leavesTidy (execFsub g t rm sat d a b s) := tidy_regInstr (fun _ hu => State.tidy_wf hu _ _) hs ..

@[simp] theorem tidy_execFmul (hs : s.tidy) (g : Guard) (t : FTy) (rm : Rm) (sat : Bool) (d a b : XReg) :
    leavesTidy (execFmul g t rm sat d a b s) := tidy_regInstr (fun _ hu => State.tidy_wf hu _ _) hs ..

@[simp] theorem tidy_execFfma (hs : s.tidy) (g : Guard) (t : FTy) (rm : Rm) (sat : Bool) (d a b c : XReg) :
    leavesTidy (execFfma g t rm sat d a b c s) := tidy_regInstr (fun _ hu => State.tidy_wf hu _ _) hs ..

@[simp] theorem tidy_execFfms (hs : s.tidy) (g : Guard) (t : FTy) (rm : Rm) (sat : Bool) (d a b c : XReg) :
    leavesTidy (execFfms g t rm sat d a b c s) := tidy_regInstr (fun _ hu => State.tidy_wf hu _ _) hs ..

@[simp] theorem tidy_execFdiv (hs : s.tidy) (g : Guard) (t : FTy) (rm : Rm) (sat : Bool) (d a b : XReg) :
    leavesTidy (execFdiv g t rm sat d a b s) := tidy_regInstr (fun _ hu => State.tidy_wf hu _ _) hs ..

@[simp] theorem tidy_execFsqrt (hs : s.tidy) (g : Guard) (t : FTy) (rm : Rm) (sat : Bool) (d a : XReg) :
    leavesTidy (execFsqrt g t rm sat d a s) := tidy_regInstr (fun _ hu => State.tidy_wf hu _ _) hs ..

@[simp] theorem tidy_execFmin (hs : s.tidy) (g : Guard) (t : FTy) (d a b : XReg) :
    leavesTidy (execFmin g t d a b s) := tidy_regInstr (fun _ hu => State.tidy_wf hu _ _) hs ..

@[simp] theorem tidy_execFmax (hs : s.tidy) (g : Guard) (t : FTy) (d a b : XReg) :
    leavesTidy (execFmax g t d a b s) := tidy_regInstr (fun _ hu => State.tidy_wf hu _ _) hs ..

@[simp] theorem tidy_execFabs (hs : s.tidy) (g : Guard) (t : FTy) (d a : XReg) :
    leavesTidy (execFabs g t d a s) := tidy_regInstr (fun _ hu => State.tidy_wf hu _ _) hs ..

@[simp] theorem tidy_execFneg (hs : s.tidy) (g : Guard) (t : FTy) (d a : XReg) :
    leavesTidy (execFneg g t d a s) := tidy_regInstr (fun _ hu => State.tidy_wf hu _ _) hs ..

@[simp] theorem tidy_execFsgn (hs : s.tidy) (g : Guard) (t : FTy) (d a b : XReg) :
    leavesTidy (execFsgn g t d a b s) := tidy_regInstr (fun _ hu => State.tidy_wf hu _ _) hs ..

@[simp] theorem tidy_execFcvt (hs : s.tidy) (g : Guard) (dt st : CTy) (rm : Rm) (sat : Bool) (d a : XReg) :
    leavesTidy (execFcvt g dt st rm sat d a s) := by
  refine tidy_regInstr (fun u hu => ?_) hs ..
  split
  · exact State.tidy_wx hu _ _
  · exact State.tidy_wf hu _ _

@[simp] theorem tidy_execFclass (hs : s.tidy) (g : Guard) (t : FTy) (d a : XReg) :
    leavesTidy (execFclass g t d a s) := tidy_regInstr (fun _ hu => State.tidy_wf hu _ _) hs ..

@[simp] theorem tidy_execFrnd (hs : s.tidy) (g : Guard) (t : FTy) (rm : Rm) (d a : XReg) :
    leavesTidy (execFrnd g t rm d a s) := tidy_regInstr (fun _ hu => State.tidy_wf hu _ _) hs ..

/-! ### One arm per constructor of Instr -/

theorem tidy_exec (hs : s.tidy) (i : Instr) : leavesTidy (exec i s) := by
  unfold exec
  split <;> simp [hs]

/-! ### Runs an event under way -/

theorem Event.tidy_run (hs : s.tidy) (e : Event) : leavesTidy (e.run s) := by
  unfold Event.run
  split <;> simp [hs, leavesTidy_next, State.tidy_stageDoneAt, State.tidy_readyAt, State.tidy_markerAt,
    State.tidy_releaseAt]

/-! ### What happens next -/

theorem State.tidy_fetched (hs : s.tidy) : s.fetched.tidy := by
  unfold State.fetched
  grind [State.tidy_scrub]

theorem State.tidy_takeOverrun (hs : s.tidy) : s.takeOverrun.tidy := by
  unfold State.takeOverrun
  grind [State.tidy_modMe, State.tidy_raise]

theorem State.tidy_fetchIssue (hs : s.tidy) : leavesTidy s.fetchIssue := by
  unfold State.fetchIssue
  grind [leavesTidy, State.tidy_raise, State.tidy_modMe, State.tidy_countMiss, tidy_exec, State.tidy_fetched]

theorem State.tidy_choose (hs : s.tidy) (T h : Nat) : (s.choose T h).tidy := hs

theorem State.tidy_issueThread (hs : s.tidy) (T h : Nat) : leavesTidy (s.issueThread T h) := by
  unfold State.issueThread
  grind [leavesTidy, State.tidy_choose, State.tidy_takeOverrun, tidy_exec, State.tidy_fetchIssue]

theorem State.tidy_due (hs : s.tidy) (e : Event) : (s.due e).tidy := by
  unfold State.due
  split <;> exact hs

theorem State.tidy_vectorCycle (hs : s.tidy) (T d : Nat) : (s.vectorCycle T d).tidy := by
  unfold State.vectorCycle
  grind [State.tidy_modDom, State.tidy_modThread]

theorem State.tidy_arrayCycles (hs : s.tidy) : s.arrayCycles.tidy := by
  unfold State.arrayCycles
  grind [foldl_tidy, State.tidy_vectorCycle, State.tidy_arrayCycle]

theorem State.tidy_dueWaits (hs : s.tidy) : s.dueWaits.tidy := by
  unfold State.dueWaits
  grind [foldl_tidy, State.tidy_due]

theorem State.tidy_watchDom (hs : s.tidy) (T d : Nat) : (s.watchDom T d).tidy := by
  unfold State.watchDom
  grind [State.tidy_modDom, State.tidy_due]

theorem State.tidy_watchParks (hs : s.tidy) : s.watchParks.tidy := by
  unfold State.watchParks
  grind [foldl_tidy, State.tidy_watchDom]

theorem State.tidy_tick (hs : s.tidy) : s.tick.tidy := by
  unfold State.tick
  grind [State.tidy, State.tidy_dueWaits, State.tidy_watchParks, State.tidy_arrayCycles, State.tidy_due]

theorem State.tidy_serveRequest (hs : s.tidy) (k : Nat) : leavesTidy (s.serveRequest k) := by
  unfold State.serveRequest
  grind [leavesTidy, State.tidy_bump, State.tidy_modService, tidy_exec, State.tidy_refuseRequest]

theorem State.tidy_enqueue (hs : s.tidy) (k : Nat) (priv : Bool) (r : BitVec 512) : (s.enqueue k priv r).tidy := by
  unfold State.enqueue
  split <;> exact hs

theorem State.tidy_flawed (hs : s.tidy) (k : Flaw) : (s.flawed k).tidy := by
  unfold State.flawed
  split <;> exact hs

theorem State.tidy_runInput (hs : s.tidy) (i : Input) (rest : List Input) : leavesTidy (s.runInput i rest) := by
  have bumped : State.tidy { s.bump with inputs := rest } := hs
  unfold State.runInput
  generalize ({ s.bump with inputs := rest } : State) = u at bumped
  cases i with
  | request k priv r => exact leavesTidy_next (State.tidy_enqueue bumped ..)
  | host k a b => exact leavesTidy_next (State.tidy_hostWrite bumped ..)
  | windowRead k off => exact leavesTidy_next bumped
  | flitsAcked p n => exact leavesTidy_next (State.tidy_flitsAcked bumped ..)
  | sensor n t => exact leavesTidy_next (State.tidy_sensed bumped ..)
  | manage q => exact leavesTidy_next (State.tidy_manage bumped ..)
  | event e => exact Event.tidy_run bumped e
  | flaw f => exact leavesTidy_next (State.tidy_flawed bumped ..)

/-! ### One step of the module -/

theorem State.tidy_issueOrTick (hs : s.tidy) : leavesTidy s.issueOrTick := by
  unfold State.issueOrTick
  grind [leavesTidy, State.tidy_issueThread, State.tidy_tick]

theorem State.tidy_serveOrIssue (hs : s.tidy) : leavesTidy s.serveOrIssue := by
  unfold State.serveOrIssue
  grind [leavesTidy, State.tidy_serveRequest, State.tidy_issueOrTick]

theorem State.tidy_takeInput (hs : s.tidy) : leavesTidy s.takeInput := by
  unfold State.takeInput
  grind [leavesTidy, State.tidy_serveOrIssue, State.tidy_bump, State.tidy_runInput]

theorem State.tidy_takeTimer (hs : s.tidy) : leavesTidy s.takeTimer := by
  unfold State.takeTimer
  split
  next k _ =>
    split
    next t _ => exact @Event.tidy_run { s with timers := s.timers.eraseIdx k } hs t.2
    · exact State.tidy_takeInput hs
  · exact State.tidy_takeInput hs

theorem tidy_step (hs : s.tidy) : leavesTidy (step s) := by
  have bumped : s.bump.tidy := hs
  unfold step
  split
  · exact State.tidy_takeTimer hs
  · extract_lets n
    split
    next e _ =>
      split
      · exact State.tidy_takeTimer bumped
      · exact @Event.tidy_run { s.bump with flight := s.flight.eraseIdx (Config.choose s.free n % n) } bumped e
    · exact State.tidy_takeTimer bumped

/-- Settles O59: the step that leads to a state keeps memory's canonical form, as every function of the model does. -/
theorem memoryInvariant : Obligations.MemoryInvariant := by
  intro s t hs h
  have := tidy_step hs
  rwa [h] at this

end Sys2Proof.Machine

end

/-! ## Memory accesses: where an access goes, and what it does at the issuing tile -/

section

namespace Sys2Proof.Machine

open Bits

variable {s t u : State} {a : W64} {n off : Nat} {p : Plan} {e : Elem} {r : Route} {i : Instr} {o : Order}

/-! ### The windows (R61) -/

theorem windowOf_priv (h : a.extractLsb' 56 8 = 0xE0) : windowOf a = .priv := by rw [windowOf, fld, h]; rfl
theorem windowOf_loc (h : a.extractLsb' 56 8 = 0xE1) : windowOf a = .loc := by rw [windowOf, fld, h]; rfl
theorem windowOf_shr (h : a.extractLsb' 56 8 = 0xE2) : windowOf a = .shr := by rw [windowOf, fld, h]; rfl
theorem windowOf_saddle (h : a.extractLsb' 56 8 = 0xE3) : windowOf a = .saddle := by rw [windowOf, fld, h]; rfl
theorem windowOf_dev (h : a.extractLsb' 56 8 = 0xFF) : windowOf a = .dev := by rw [windowOf, fld, h]; rfl

theorem windowOf_global (h : a.extractLsb' 56 8 = 0) (hb : a.getLsbD 55 = false) : windowOf a = .global := by
  rw [windowOf, fld, h]
  exact if_neg (by rw [bit, hb]; exact Bool.false_ne_true)

theorem windowOf_none (h : a.extractLsb' 56 8 = 0) (hb : a.getLsbD 55 = true) : windowOf a = .none := by
  rw [windowOf, fld, h]
  exact if_pos hb

/-- A top byte that names no window. -/
theorem windowOf_other (h : a.extractLsb' 56 8 ∉ [0x00, 0xE0, 0xE1, 0xE2, 0xE3, 0xFF]) : windowOf a = .none := by
  have hne : ∀ v : BitVec 8, v ∈ [0x00#8, 0xE0#8, 0xE1#8, 0xE2#8, 0xE3#8, 0xFF#8] → fld a 56 8 ≠ v.toNat := by
    intro v hv e
    exact h (BitVec.eq_of_toNat_eq e ▸ hv)
  unfold windowOf
  split
  case h_1 e => exact absurd e (hne 0x00 (by decide))
  case h_2 e => exact absurd e (hne 0xE0 (by decide))
  case h_3 e => exact absurd e (hne 0xE1 (by decide))
  case h_4 e => exact absurd e (hne 0xE2 (by decide))
  case h_5 e => exact absurd e (hne 0xE3 (by decide))
  case h_6 e => exact absurd e (hne 0xFF (by decide))
  case h_7 => rfl

/-! ### Where an element goes (R62 to R67) -/

/-- An element whose address reaches the issuing tile's own store is performed there, unless it lies in the saddle of an
access that may not touch it. -/
theorem State.routeOf_own (h : s.ownOffset e.loc e.size = some off) (hs : e.loc.extractLsb' 56 8 = 0xE3 → p.sad = true) :
    s.routeOf p e = .ok (.own off) := by
  unfold State.ownOffset at h
  split at h
  case isFalse => cases h
  case isTrue ha =>
    unfold State.rangeAt at h
    dsimp only at h
    unfold State.routeOf
    dsimp only
    rw [if_neg (not_not.2 ha)]
    split at h
    case isTrue hw =>
      rw [windowOf_priv hw]
      dsimp only
      split at h
      case isTrue hb =>
        cases h
        exact if_pos hb
      case isFalse => cases h
    case isFalse =>
    split at h
    case isTrue hw =>
      rw [windowOf_loc hw]
      dsimp only
      split at h
      case isTrue hb =>
        cases h
        obtain ⟨hT, hlo, hhi⟩ := hb
        have hown : tileOf e.loc = s.cur.1 := hT
        rw [if_neg (not_not.2 hown), if_pos]
        · rfl
        unfold Dom.holds
        rw [Bool.and_eq_true, decide_eq_true_eq, decide_eq_true_eq]
        exact ⟨hlo, hhi⟩
      case isFalse => cases h
    case isFalse =>
    split at h
    case isTrue hw =>
      rw [windowOf_saddle hw, hs hw]
      split at h
      case isTrue hb =>
        cases h
        exact if_pos hb
      case isFalse => cases h
    case isFalse => cases h

/-- No element of an access of one element that goes somewhere raises a cause at issue. -/
theorem State.issueCause_ok (he : p.elems = [e]) (h : s.routeOf p e = .ok r) : s.issueCause p = none := by
  simp [State.issueCause, he, h, causeOf, List.findSome?]

/-- An access of one element raises the cause that stops its element. -/
theorem State.issueCause_error {c : Nat} (he : p.elems = [e]) (h : s.routeOf p e = .error c)
    (hc : c ∈ [0x05, 0x06, 0x04, 0x07, 0x09, 0x08]) : s.issueCause p = some (c, e.addr) := by
  simp only [State.issueCause, he, h, causeOf, List.find?]
  fin_cases hc <;> rfl

theorem State.access_error {c : Nat} (he : p.elems = [e]) (h : s.routeOf p e = .error c)
    (hc : c ∈ [0x05, 0x06, 0x04, 0x07, 0x09, 0x08]) : s.access i p = s.raise c e.addr := by
  rw [State.access, State.issueCause_error he h hc]

/-! ### Order and overlap (R97, R100) -/

theorem State.gate_met {f : State → State} (h : s.orderMet o = true) : s.gate i o f = f s := by
  unfold State.orderMet at h
  unfold State.gate
  dsimp only
  split at h
  case isTrue hr =>
    simp only [Bool.and_eq_true, Bool.or_eq_true, bne_iff_ne, beq_iff_eq] at h
    obtain ⟨hp, hf⟩ := h
    rw [if_neg (fun k => k.2 hp), if_neg (fun k => hf.elim (fun x => x k.2.1) k.2.2)]
  case isFalse hr =>
    rw [if_neg (fun k => ?_), if_neg (fun k => hr k.1)]
    simp only [Bool.or_eq_true, Bool.not_eq_true'] at h
    obtain ⟨hk, hp⟩ := k
    exact h.elim (fun x => hk.elim hr fun y => absurd (x.symm.trans y) Bool.false_ne_true) hp

theorem State.clash_alone (h : s.alone off e.size = true) : s.clash [(e, .own off)] = false := by
  unfold State.alone at h
  simpa [State.clash, State.locNo, List.any_eq_false] using h

theorem State.clash_idle (h : s.me.outst = []) (rs : List (Elem × Route)) : s.clash rs = false := by
  simp [State.clash, h]

/-! ### The bytes are there (R369, R371, R387) -/

/-- The local-store bytes that an element needs are neither awaited nor lost. -/
def State.present (s : State) (e : Elem) (r : Route) : Prop :=
  ∀ off, r = .own off → s.myDom.misses off e.size = []

theorem State.missing_present (h : s.present e r) (st : Nat) : s.missing [(e, r)] st = none := by
  cases r with
  | own off => simp [State.missing, h off rfl]
  | _ => simp [State.missing]

theorem State.whenResident_present (h : s.present e r) (stall f : State → State) : s.whenResident [(e, r)] stall f = f s := by
  simp [State.whenResident, State.missing_present h]

theorem State.whenResident_nil (stall f : State → State) : s.whenResident [] stall f = f s := rfl

/-- An access of one element that goes somewhere, meets no earlier one and whose order is met is carried out. -/
theorem State.access_performs (he : p.elems = [e]) (hr : s.routeOf p e = .ok r) (hn : s.nextOk = true)
    (ho : s.orderMet p.o = true) (hp : p.load = true → s.present e r) (hc : s.clash [(e, r)] = false) :
    s.access i p = s.perform i p [(e, r)] := by
  have done : (s.ranged fun s => s.gate i p.o fun s =>
      if s.clash [(e, r)] then s.park i .same else s.perform i p [(e, r)]) = s.perform i p [(e, r)] := by
    rw [State.ranged_next hn, State.gate_met ho, hc]
    exact if_neg Bool.false_ne_true
  rw [State.access, State.issueCause_ok he hr]
  simp only [he, List.filterMap, hr]
  by_cases hl : p.load = true
  · rw [if_pos hl, State.whenResident_present (hp hl), done]
  · rw [if_neg hl, State.whenResident_nil, done]

/-! ### An access at the issuing tile -/

theorem State.perform_own {v : W64} (h : s.lsAct s.cur.1 off p.kind e = (u, some v)) :
    s.perform i p [(e, .own off)] =
      if p.load then (u.modMe (loadWrite (modeCols s.myMode) i [{ e with data := v }])).advance
      else (u.modMe fun t => { t with hold := t.hold || (p.o.ord = .acq ∨ p.o.ord = .ar) }).advance := by
  simp [State.perform, State.performOwn, h, State.hopOf, State.reportAll]

/-- Reading words of which none has a bit in error corrects nothing. -/
theorem State.scrub_intact (h : s.intact off n = true) (b : Bool) : s.scrub (inStore s.cur.1 off n) b = s := by
  simp only [State.intact, Bool.and_eq_true, Bool.not_eq_true', List.any_eq_false] at h
  obtain ⟨-, hflip⟩ := h
  have hnone : ∀ f : Nat × BitVec 72 → Bool, (s.flips.filter fun x => inStore s.cur.1 off n x.1 && f x) = [] := fun f =>
    List.filter_eq_nil_iff.2 fun x hx => by simp [hflip x hx]
  have hkeep : Table.erase (fun k _ => inStore s.cur.1 off n k && !s.bad.contains k) s.flips = s.flips :=
    List.filter_eq_self.2 fun x hx => by simp [hflip x hx]
  unfold State.scrub
  dsimp only
  rw [hnone fun x => !s.bad.contains x.1, hkeep]
  split
  · rfl
  · cases b <;> rfl

theorem State.lsBad_intact (h : s.intact off n = true) : s.lsBad s.cur.1 off n = false := by
  simp only [State.intact, Bool.and_eq_true, Bool.not_eq_true'] at h
  exact h.1.2

theorem State.misses_intact (h : s.intact off n = true) : s.myDom.misses off n = [] := by
  simp only [State.intact, Bool.and_eq_true, List.isEmpty_iff] at h
  exact h.1.1

theorem State.present_intact (h : s.intact off e.size = true) : s.present e (.own off) := by
  rintro off' ⟨⟩
  exact State.misses_intact h

theorem State.lsAct_read (h : s.intact off e.size = true) :
    s.lsAct s.cur.1 off .read e = (s, some (BitVec.ofNat 64 (s.number (lsAddr s.cur.1 off) e.size))) := by
  simp [State.lsAct, State.lsBad_intact h, State.scrub_intact h, State.lsNum_eq_number]

theorem State.lsAct_amo {op : AmoOp} (h : s.intact off e.size = true) :
    s.lsAct s.cur.1 off (.amo op) e =
      (s.lsStore s.cur.1 off (toBytes e.size (amoNew op e.size (s.number (lsAddr s.cur.1 off) e.size)
        (e.data.toNat % 2 ^ (8 * e.size)) (e.cmp.toNat % 2 ^ (8 * e.size)))),
        some (BitVec.ofNat 64 (s.number (lsAddr s.cur.1 off) e.size))) := by
  simp [State.lsAct, State.lsBad_intact h, State.scrub_intact h, State.lsNum_eq_number]

/-! ### What a store to local store leaves alone -/

/-- Nothing but what is stored, and the words' checks, has changed. -/
def State.onlyStores (s t : State) : Prop :=
  ∃ m f b x c, t = { s with mem := m, fe := f, bad := b, flips := x, fixed := c }

theorem State.onlyStores_refl (s : State) : s.onlyStores s := ⟨s.mem, s.fe, s.bad, s.flips, s.fixed, rfl⟩

theorem State.onlyStores_trans (h : s.onlyStores t) (k : t.onlyStores u) : s.onlyStores u := by
  obtain ⟨_, _, _, _, _, rfl⟩ := h
  obtain ⟨m, f, b, x, c, rfl⟩ := k
  exact ⟨m, f, b, x, c, rfl⟩

theorem State.onlyStores_lsStore (s : State) (T off : Nat) (b : List Byte) : s.onlyStores (s.lsStore T off b) := by
  unfold State.lsStore State.freshWords
  dsimp only
  split
  · exact ⟨_, s.fe, s.bad, s.flips, s.fixed, rfl⟩
  · exact ⟨_, s.fe, _, _, s.fixed, rfl⟩

theorem State.onlyStores_setFe (s : State) (T off : Nat) (b : Bool) : s.onlyStores (s.setFe T off b) :=
  ⟨s.mem, _, s.bad, s.flips, s.fixed, rfl⟩

/-- An instruction that changes what is stored and its thread's own record, and retires. -/
theorem State.retiredTo_stores (h : s.onlyStores u) {f : Thread → Thread} (hpc : (f s.me).pc = s.me.pc)
    (hsys : s.me.sameSystem (f s.me)) : s.retiredTo (u.modMe f).advance := by
  obtain ⟨m, fe, b, x, c, rfl⟩ := h
  refine ⟨?_, ?_, ?_, fun T h hne => ?_, ?_, ⟨rfl, rfl, rfl, rfl, rfl, rfl, rfl, rfl⟩, ⟨rfl, rfl, rfl, rfl⟩, rfl, rfl, rfl⟩
  · rw [State.me_advance, State.me_modMe]
    exact congrArg (· + 8) hpc
  · rw [State.me_advance]
    rfl
  · rw [State.me_advance, State.me_modMe]
    exact hsys
  · refine (State.thread_advance (State.modMe _ f) hne).trans ?_
    exact (State.thread_modMe _ f T h).trans (if_neg hne)
  · refine ⟨fun T d => ?_, fun T k => ?_, fun T b => ?_, fun T k => ?_⟩
    · rw [State.dom_advance, State.dom_modMe]; rfl
    · rw [State.slot_advance, State.slot_modMe]; rfl
    · rw [State.bar_advance, State.bar_modMe]; rfl
    · rw [State.port_advance, State.port_modMe]; rfl

/-- The thread after its instruction has changed what is stored and its own record, and retired. -/
theorem State.me_advance_stores (h : s.onlyStores u) (f : Thread → Thread) : (u.modMe f).advance.me =
    ({ f s.me with readyAt := s.tcycle + 8 } : Thread).retire s.tcycle ((f s.me).pc + 8) := by
  obtain ⟨m, fe, b, x, c, rfl⟩ := h
  rw [State.me_advance, State.me_modMe]
  rfl

theorem State.storedTo_congr {k : Nat} {b : Nat → Byte} (h : s.storedTo t k n b) (hm : u.stores = t.stores) :
    s.storedTo u k n b := by
  obtain ⟨hin, hout, hfe, hslot, hacc⟩ := h
  simp only [State.stores, Prod.mk.injEq] at hm
  obtain ⟨m1, m2, m3, m4⟩ := hm
  have hbyte : ∀ c, u.byte c = t.byte c := fun c => congrArg (Memory.get · c) m1
  exact ⟨fun j hj => (hbyte _).trans (hin j hj), fun c hc => (hbyte c).trans (hout c hc), m2.trans hfe, m3.trans hslot,
    m4.trans hacc⟩

/-- The bytes of a number, and of a word of another size with the same low bits. -/
theorem toBytes_getD (y : Nat) {k : Nat} (hk : k < n) :
    (toBytes n y).getD k 0 = (BitVec.ofNat (8 * n) y).extractLsb' (8 * k) 8 := by
  rw [List.getD_eq_getElem _ _ (by rwa [length_toBytes])]
  refine BitVec.eq_of_getLsbD_eq fun j hj => ?_
  have hin : 8 * k + j < 8 * n := by omega
  simp only [toBytes, List.getElem_map, List.getElem_range, BitVec.getLsbD_ofNat, Nat.testBit_shiftRight,
    BitVec.getLsbD_extractLsb', hj, hin, decide_true, Bool.true_and]

theorem toBytes_toNat_getD {w : Nat} (x : BitVec w) {k : Nat} (hk : k < n) : (toBytes n x.toNat).getD k 0 =
    x.extractLsb' (8 * k) 8 := by
  rw [toBytes_getD _ hk]
  refine BitVec.eq_of_getLsbD_eq fun j hj => ?_
  have hin : 8 * k + j < 8 * n := by omega
  simp only [BitVec.getLsbD_extractLsb', BitVec.getLsbD_ofNat, BitVec.testBit_toNat, hj, hin, decide_true, Bool.true_and]

theorem State.storedTo_toBytes (s : State) (T off : Nat) {y : Nat} {b : Nat → Byte} (hb : ∀ k < n, (toBytes n y).getD k
    0 = b k) :
    s.storedTo (s.lsStore T off (toBytes n y)) (lsAddr T off) n b := by
  have h := s.storedTo_lsStore T off (l := toBytes n y) (f := b) (by rwa [length_toBytes])
  rwa [length_toBytes] at h

/-! ### Values (R250, R257) -/

theorem sizeBytes_pos (sz : Size) : 0 < sizeBytes sz := by cases sz <;> decide
theorem sizeBytes_le (sz : Size) : sizeBytes sz ≤ 8 := by cases sz <;> decide

/-- A loaded value, extended as the statements spell it. -/
theorem extBytes_eq (sx : Bool) (h : 0 < n) (h8 : n ≤ 8) (v : Nat) : extBytes sx n (BitVec.ofNat 64 v) = extended sx n v := by
  have hmod : v % 2 ^ 64 % 2 ^ (8 * n) = v % 2 ^ (8 * n) := Nat.mod_mod_of_dvd _ (Nat.pow_dvd_pow 2 (by omega))
  unfold extBytes extended
  split
  · rw [signed_eq_toInt (by omega), BitVec.toNat_ofNat]
    have hw : BitVec.ofNat (8 * n) (v % 2 ^ 64) = BitVec.ofNat (8 * n) v := by
      apply BitVec.eq_of_toNat_eq
      rw [BitVec.toNat_ofNat, BitVec.toNat_ofNat, hmod]
    rw [hw]
    rfl
  · rw [BitVec.toNat_ofNat, hmod]
    apply BitVec.eq_of_toNat_eq
    rw [BitVec.toNat_setWidth, BitVec.toNat_ofNat, BitVec.toNat_ofNat]

/-- The atomic operations, as the statements spell them. -/
theorem amoNew_eq (op : AmoOp) (h : 0 < n) (old v c : BitVec (8 * n)) :
    BitVec.ofNat (8 * n) (amoNew op n old.toNat v.toNat c.toNat) = amoResult op old v c := by
  have hpos : 0 < 8 * n := by omega
  cases op with
  | add =>
    apply BitVec.eq_of_toNat_eq
    simp [amoNew, amoResult]
  | min | max =>
    simp only [amoNew, amoResult, sOf, signed_toNat hpos, BitVec.slt, decide_eq_true_eq]
    split <;> simp
  | minw | maxw =>
    simp only [amoNew, amoResult, BitVec.ult, decide_eq_true_eq]
    split <;> simp
  | and | or | xor =>
    apply BitVec.eq_of_toNat_eq
    simp [amoNew, amoResult]
  | swap => simp [amoNew, amoResult]
  | fadd => rfl
  | cas =>
    simp only [amoNew, amoResult, BitVec.toNat_inj]
    split <;> simp

/-! ### Scalar loads, stores and atomics (R250, R257) -/

variable {g : Guard} {d : XReg} {m : MAddr} {sz : Size} {sx nr l : Bool} {k : AccKind} {v c w : W64}

/-- A store with an acquire holds the thread's later accesses until it has performed (R100). -/
def Thread.held (o : Order) (t : Thread) : Thread := { t with hold := t.hold || (o.ord = .acq ∨ o.ord = .ar) }

/-- An access in every window, of one element that reaches the issuing tile's own store. -/
theorem State.access_own (hn : s.nextOk = true) (ho : s.orderMet o = true) (ha : s.ownOffset a n = some off)
    (hal : s.alone off n = true) (hi : l = true → s.intact off n = true)
    (hact : s.lsAct s.cur.1 off k (elemAt a n v c) = (u, some w)) :
    s.access i (anyWindow k l [elemAt a n v c] o) =
      if l then (u.modMe (loadWrite (modeCols s.myMode) i [elemAt a n w c])).advance else (u.modMe (Thread.held
          o)).advance := by
  have hr : s.routeOf (anyWindow k l [elemAt a n v c] o) (elemAt a n v c) = .ok (.own off) := State.routeOf_own ha fun _ => rfl
  rw [State.access_performs rfl hr hn ho (fun hl => State.present_intact (hi hl)) (State.clash_alone hal),
      State.perform_own hact]
  rfl

theorem loadWrite_ld (cols : Nat) (e : Elem) (t : Thread) :
    loadWrite cols (.ld g sx sz o d m) [e] t = t.wx d.toNat (extBytes sx (sizeBytes sz) e.data) := by
  simp only [loadWrite, firstVal]

theorem ld_own (h : s.runs g [d, m.base, m.idx] true 0 = true) (ho : s.orderMet o = true)
    (ha : s.ownOffset (s.ea m) (sizeBytes sz) = some off) (hal : s.alone off (sizeBytes sz) = true)
    (hi : s.intact off (sizeBytes sz) = true) : exec (.ld g sx sz o d m) s =
      .next (s.wrote d (extended sx (sizeBytes sz) (s.number (lsAddr s.cur.1 off) (sizeBytes sz)))) := by
  rw [exec_ld, execLd, State.issue_clear (State.runs_clear h),
    State.access_own (State.runs_next h) ho ha hal (fun _ => hi) (State.lsAct_read hi), if_pos rfl, funext (loadWrite_ld _ _)]
  exact congrArg (fun v => Host.Outcome.next (s.wrote d v)) (extBytes_eq sx (sizeBytes_pos sz) (sizeBytes_le sz) _)

/-- An instruction that stores bytes at the issuing tile, changes its thread's own record, and retires. -/
theorem State.retired_store {y : Nat} {b : Nat → Byte} (hb : ∀ k < n, (toBytes n y).getD k 0 = b k) {f : Thread → Thread}
    (hpc : (f s.me).pc = s.me.pc) (hsys : s.me.sameSystem (f s.me)) :
    let t := ((s.lsStore s.cur.1 off (toBytes n y)).modMe f).advance
    s.retiredTo t ∧ s.storedTo t (lsAddr s.cur.1 off) n b :=
  ⟨State.retiredTo_stores (s.onlyStores_lsStore ..) hpc hsys, State.storedTo_congr (s.storedTo_toBytes _ off hb) rfl⟩

/-- A thread that retires keeps its registers. -/
theorem State.sameRegs_retired (h : s.onlyStores u) {f : Thread → Thread} (hf : s.me.sameRegs (f s.me)) :
    s.me.sameRegs (u.modMe f).advance.me := by
  rw [State.me_advance_stores h]
  exact hf

theorem Thread.sameRegs_held (o : Order) (t : Thread) : t.sameRegs (t.held o) := ⟨rfl, rfl, rfl, rfl⟩
theorem Thread.sameSystem_held (o : Order) (t : Thread) : t.sameSystem (t.held o) := ⟨rfl, rfl, rfl, rfl, rfl, rfl, rfl,
    rfl, rfl, rfl⟩

theorem st_own (h : s.runs g [d, m.base, m.idx] true 0 = true) (ho : s.orderMet o = true)
    (ha : s.ownOffset (s.ea m) (sizeBytes sz) = some off) (hal : s.alone off (sizeBytes sz) = true) :
    ∃ t, exec (.st g sz o d m) s = .next t ∧ s.me.sameRegs t.me ∧ s.retiredTo t ∧
      s.storedTo t (lsAddr s.cur.1 off) (sizeBytes sz) fun k => (s.rx d).extractLsb' (8 * k) 8 := by
  refine ⟨_, ?_, State.sameRegs_retired (s.onlyStores_lsStore ..) (s.me.sameRegs_held o),
    State.retired_store (fun _ hk => toBytes_toNat_getD (s.rx d) hk) rfl (s.me.sameSystem_held o)⟩
  rw [exec_st, execSt, State.issue_clear (State.runs_clear h), State.access_own (State.runs_next h) ho ha hal
    (by rintro ⟨⟩) rfl, if_neg Bool.false_ne_true]
  rfl

theorem loadAndStore : Claims.LoadAndStore := by
  intro s g sx sz o d m off n h ha ho hal
  exact ⟨ld_own h ho ha hal, st_own h ho ha hal⟩

theorem State.number_lt (s : State) (A n : Nat) : s.number A n < 2 ^ (8 * n) := by
  rw [State.number, ← ofBytes_map_range fun k => s.byte (A + k), Nat.pow_mul]
  have h := ofBytes_lt ((List.range n).map fun k => s.byte (A + k))
  rwa [List.length_map, List.length_range] at h

/-- The bytes that an atomic stores, as the statements spell them. -/
theorem amoBytes_getD (op : AmoOp) (h : 0 < n) {old : Nat} (hold : old < 2 ^ (8 * n)) (v c : W64) {k : Nat} (hk : k < n) :
    (toBytes n (amoNew op n old (v.toNat % 2 ^ (8 * n)) (c.toNat % 2 ^ (8 * n)))).getD k 0 =
      (amoResult op (BitVec.ofNat (8 * n) old) (v.setWidth (8 * n)) (c.setWidth (8 * n))).extractLsb' (8 * k) 8 := by
  rw [toBytes_getD _ hk, ← amoNew_eq op h, BitVec.toNat_setWidth, BitVec.toNat_setWidth, BitVec.toNat_ofNat,
    Nat.mod_eq_of_lt hold]

theorem Thread.sameSystem_wx (t : Thread) (r : Nat) (v : W64) : t.sameSystem (t.wx r v) := by
  simp [Thread.sameSystem]

theorem Thread.sameBut_wx (t : Thread) (r : Nat) (v : W64) : t.sameBut r (t.wx r v) := by
  refine ⟨fun q hq => ?_, by simp, by simp, by simp⟩
  rw [Thread.rx_wx, if_neg fun h => hq h.1]

/-- An instruction that changes what is stored, writes x[d] and retires: its registers. -/
theorem State.wx_retired (h : s.onlyStores u) (d : XReg) (v : W64) :
    let t := (u.modMe fun t => t.wx d.toNat v).advance
    (d ≠ 0 → t.rx d = v) ∧ s.me.sameBut d.toNat t.me := by
  refine ⟨fun hd => ?_, ?_⟩
  · rw [State.rx, State.me_advance_stores h]
    exact (Thread.rx_wx s.me d.toNat d.toNat v).trans (if_pos ⟨rfl, fun h0 => hd (BitVec.eq_of_toNat_eq h0)⟩)
  · rw [State.me_advance_stores h]
    exact Thread.sameBut_wx ..

/-- An atomic at the issuing tile, by what its instruction asks for and what it loads. -/
theorem amo_own {op : AmoOp} (hexec : exec i s = .next (s.access i (amoPlan op nr n a (s.rx d) c o)))
    (hload : ∀ cols e t, loadWrite cols i [e] t = t.wx d.toNat (extBytes sx n e.data)) (h0 : 0 < n) (h8 : n ≤ 8)
    (hn : s.nextOk = true) (ho : s.orderMet o = true) (ha : s.ownOffset a n = some off) (hal : s.alone off n = true)
    (hi : s.intact off n = true) :
    let A := lsAddr s.cur.1 off
    ∃ t, exec i s = .next t ∧ s.retiredTo t ∧
      (s.storedTo t A n fun k =>
        (amoResult op (BitVec.ofNat (8 * n) (s.number A n)) ((s.rx d).setWidth (8 * n)) (c.setWidth (8 *
            n))).extractLsb' (8 * k) 8) ∧
      if nr = true then s.me.sameRegs t.me
      else (d ≠ 0 → t.rx d = extended sx n (s.number A n)) ∧ s.me.sameBut d.toNat t.me := by
  intro A
  have hperf := State.access_own (i := i) (v := s.rx d) (c := c) (l := !nr) hn ho ha hal (fun _ => hi)
    (State.lsAct_amo (op := op) hi)
  rw [hexec, show s.access i (amoPlan op nr n a (s.rx d) c o) = _ from hperf]
  have hb : ∀ k < n, _ = _ := fun k hk => amoBytes_getD op h0 (s.number_lt A n) (s.rx d) c hk
  cases nr with
  | true =>
    refine ⟨_, rfl, ?_⟩
    rw [Bool.not_true, if_neg Bool.false_ne_true, if_pos rfl, ← and_assoc]
    exact ⟨State.retired_store hb rfl (s.me.sameSystem_held o),
      State.sameRegs_retired (s.onlyStores_lsStore ..) (s.me.sameRegs_held o)⟩
  | false =>
    refine ⟨_, rfl, ?_⟩
    rw [Bool.not_false, if_pos rfl, if_neg Bool.false_ne_true, funext (hload _ _), ← and_assoc]
    obtain ⟨hval, hbut⟩ := State.wx_retired (s.onlyStores_lsStore s.cur.1 off _) d (extBytes sx n (BitVec.ofNat 64
        (s.number A n)))
    exact ⟨State.retired_store hb (by simp) (Thread.sameSystem_wx ..), fun hd => (hval hd).trans (extBytes_eq sx h0 h8 _), hbut⟩

theorem atomics : Claims.Atomics := by
  intro s g sx sz nr o d m off h ho
  have hn := State.runs_next h
  refine ⟨fun ha q hq hal hi => ?_, fun ha hal hi => ?_, fun ha hal hi => ?_⟩
  · fin_cases hq
    all_goals
      refine amo_own ?_ ?_ (sizeBytes_pos sz) (sizeBytes_le sz) hn ho ha hal hi
      · exact congrArg Host.Outcome.next (State.issue_clear (State.runs_clear h))
      · intro cols e t
        simp only [loadWrite, firstVal]
  · refine amo_own ?_ ?_ (by decide) (by decide) hn ho ha hal hi
    · exact congrArg Host.Outcome.next (State.issue_clear (State.runs_clear h))
    · intro cols e t
      simp only [loadWrite, firstVal]
  · refine amo_own ?_ ?_ (sizeBytes_pos sz) (sizeBytes_le sz) hn ho ha hal hi
    · exact congrArg Host.Outcome.next (State.issue_clear (State.runs_clear h))
    · intro cols e t
      simp only [loadWrite, firstVal]

/-- Settles O12, by where an access goes and what it does at the issuing tile's own store. -/
theorem loadsStoresAtomics : Obligations.LoadsStoresAtomics := ⟨loadAndStore, atomics⟩

/-! ### Accesses that leave the tile (R65, R71, R97, R135) -/

variable {dst : Node} {loc : Nat} {wait : Bool}

/-- An element of an address that leaves the tile goes to one block, in this module. -/
theorem State.routeOf_away (h : s.awayAt e.loc e.size = some (dst, loc)) (hg : e.loc.extractLsb' 56 8 = 0 → p.glob = true) :
    ∃ r, s.routeOf p e = .ok r ∧ (∀ off, r ≠ .own off) ∧
      s.hopOf e r = some (dst, s.module.toNat, false, { e with loc := BitVec.ofNat 64 loc }) := by
  unfold State.awayAt at h
  dsimp only at h
  split at h
  case isTrue => cases h
  case isFalse ha =>
  unfold State.routeOf
  dsimp only
  rw [if_neg ha]
  split at h
  case isTrue hw =>
    rw [windowOf_shr hw]
    split at h
    case isTrue hb =>
      cases h
      obtain ⟨hlen, hrow, hcol⟩ := hb
      have hin : s.myDom.inFabric (fabOf e.loc) = true := by
        rw [Dom.inFabric, Bool.and_eq_true, decide_eq_true_eq, decide_eq_true_eq]
        exact ⟨hrow, hcol⟩
      refine ⟨.shared (s.myDom.tileOfF (fabOf e.loc)) (offOf e.loc), ?_, fun off => nofun, rfl⟩
      exact (if_neg (Nat.not_lt.2 hlen)).trans (if_pos hin)
    case isFalse => cases h
  case isFalse =>
  split at h
  case isTrue hw =>
    cases h
    rw [windowOf_global hw.1 hw.2, hg hw.1]
    exact ⟨_, rfl, fun off => nofun, rfl⟩
  case isFalse => cases h

/-- The request of the issuing thread to a block of this module for one element. -/
def State.reqMsg (s : State) (k : AccKind) (wait : Bool) (dst : Node) (e : Elem) : Msg :=
  s.tileMsg s.cur.1 s.myDomNo (reqType k) dst (s.me.seq % 2 ^ 16)
    (.access
      { kind := k, elems := [e], iss := s.issuer wait, phys := false, cache := 0, shr := false, dev := false, retried := false })

/-- The request stands among the thread's accesses not yet performed, and is on the network. -/
theorem State.sendReq_eq (k : AccKind) (wait : Bool) (dst : Node) (line : Nat) (e : Elem) : ∃ lo,
    s.sendReq k wait ⟨dst, s.module.toNat, false, line, [e]⟩ = (s.modMe fun t => t.addOut lo 128 wait).send (s.reqMsg k
        wait dst e) :=
  ⟨_, if_pos rfl⟩

theorem State.performOwn_away {k : AccKind} {got : List Elem} {bad : List (Nat × W64)} {q : Node × Nat × Bool × Elem}
    (hr : ∀ off, r ≠ .own off) (hh : s.hopOf e r = some q) : s.performOwn k [(e, r)] got bad = (s, got, bad) := by
  cases r with
  | own off => exact absurd rfl (hr off)
  | deny c => cases hh
  | _ => rfl

/-- An access of one element that leaves the tile is one request: the thread of a load waits for the reply, that of a store
goes on. -/
theorem State.perform_away {e' : Elem} (hr : ∀ off, r ≠ .own off) (hh : s.hopOf e r = some (dst, s.module.toNat, false, e')) :
    ∃ lo, s.perform i p [(e, r)] =
      let u := (s.modMe fun t => t.addOut lo 128 p.load).send (s.reqMsg p.kind p.load dst e')
      if p.load then (u.park i .reply).modMe fun t => { t with got := [], bad := [] } else (u.modMe (Thread.held
          p.o)).advance := by
  obtain ⟨lo, hlo⟩ := s.sendReq_eq p.kind p.load dst (e'.loc.toNat / 128) e'
  refine ⟨lo, ?_⟩
  rw [State.perform, State.performOwn_away hr hh]
  simp only [List.filterMap, hh, List.foldl, addReq]
  cases hl : p.load
  · rw [hl] at hlo
    rw [if_neg Bool.false_ne_true, if_neg Bool.false_ne_true, ← hlo]
    rfl
  · rw [hl] at hlo
    rw [if_pos rfl, if_pos rfl, ← hlo]

/-- An access in every window, of one element that leaves the tile. -/
theorem State.access_away (hn : s.nextOk = true) (ho : s.orderMet o = true) (hidle : s.me.outst = [])
    (ha : s.awayAt a n = some (dst, loc)) : ∃ lo, s.access i (anyWindow k l [elemAt a n v c] o) =
      let u := (s.modMe fun t => t.addOut lo 128 l).send (s.reqMsg k l dst ⟨0, a, BitVec.ofNat 64 loc, n, v, c⟩)
      if l then (u.park i .reply).modMe fun t => { t with got := [], bad := [] } else (u.modMe (Thread.held o)).advance := by
  obtain ⟨r, hroute, hown, hhop⟩ := State.routeOf_away (p := anyWindow k l [elemAt a n v c] o) (e := elemAt a n v c) ha
      fun _ => rfl
  obtain ⟨lo, hlo⟩ := State.perform_away (i := i) (p := anyWindow k l [elemAt a n v c] o) hown hhop
  refine ⟨lo, ?_⟩
  rw [State.access_performs rfl hroute hn ho (fun _ off h => absurd h (hown off)) (State.clash_idle hidle _), hlo]
  rfl

/-- The issuing thread has sent one message and its record is now `x`; the other threads and the memory are as they were. -/
def State.sentBy (s t : State) (q : Msg) (x : Thread) : Prop :=
  t.flight = s.flight ++ [.meshRoute (s.nodeOf s.cur.1) q] ∧ s.sameMemory t ∧ s.otherThreads t s.cur.1 s.cur.2 ∧ t.me = x ∧
    t.cur = s.cur ∧ t.tcycle = s.tcycle

theorem State.sentBy_modMe {q : Msg} (hq : q.src = s.nodeOf s.cur.1) (f : Thread → Thread) :
    s.sentBy ((s.modMe f).send q) q (f s.me) := by
  refine ⟨?_, State.sameMemory_of_stores rfl, fun T h hne => ?_, ?_, rfl, rfl⟩
  · rw [State.send, hq]
    rfl
  · exact (State.thread_modMe s f T h).trans (if_neg hne)
  · exact s.me_modMe f

/-- A further change of the thread's record leaves what it has sent, and its fellows. -/
theorem State.sentBy_then {q : Msg} {x : Thread} (h : s.sentBy u q x) (f : Thread → Thread) : s.sentBy (u.modMe f) q (f x) := by
  obtain ⟨hflight, hmem, hothers, hme, hcur, hcycle⟩ := h
  refine ⟨hflight, hmem, fun T j hne => ?_, ?_, hcur, hcycle⟩
  · rw [State.thread_modMe, if_neg (by rwa [hcur])]
    exact hothers T j hne
  · rw [State.me_modMe, hme]

theorem State.sentBy_park {q : Msg} {x : Thread} (h : s.sentBy u q x) (i : Instr) (w : Wait) :
    s.sentBy (u.park i w) q { x with run := .parked w s.tcycle, readyAt := s.tcycle + 8, pend := some i } := by
  have hcycle : u.tcycle = s.tcycle := h.2.2.2.2.2
  rw [← hcycle]
  exact State.sentBy_then h fun t => { t with run := .parked w u.tcycle, readyAt := u.tcycle + 8, pend := some i }

theorem State.sentBy_advance {q : Msg} {x : Thread} (h : s.sentBy u q x) :
    s.sentBy u.advance q (({ x with readyAt := s.tcycle + 8 } : Thread).retire s.tcycle (x.pc + 8)) := by
  obtain ⟨-, -, -, hme, -, hcycle⟩ := id h
  rw [← hcycle, ← hme]
  rw [← hme] at h
  exact State.sentBy_then h fun t => ({ t with readyAt := u.tcycle + 8 } : Thread).retire u.tcycle (u.me.pc + 8)

theorem State.sentAccess_of {x : Thread} (h : s.sentBy t (s.reqMsg k wait dst e) x) (hsys : s.me.sameSystem x) :
    s.sentAccess t (BitVec.ofNat 8 (reqType k)) dst k e := by
  obtain ⟨hflight, -, hothers, hme, -, -⟩ := h
  exact ⟨_, _, hflight, rfl, rfl, rfl, rfl, rfl, rfl, rfl, rfl, rfl, hme ▸ hsys, hothers⟩

/-- An access that leaves the tile, by what its instruction asks for: one request; a load waits for the reply with every
register as it was, and a store retires. -/
theorem access_leaves (hexec : exec i s = .next (s.access i (anyWindow k l [elemAt a n v c] o))) (hn : s.nextOk = true)
    (ho : s.orderMet o = true) (hidle : s.me.outst = []) (ha : s.awayAt a n = some (dst, loc)) :
    ∃ t, exec i s = .next t ∧ s.sentAccess t (BitVec.ofNat 8 (reqType k)) dst k ⟨0, a, BitVec.ofNat 64 loc, n, v, c⟩ ∧
      s.sameMemory t ∧ s.me.sameRegs t.me ∧
      if l = true then t.me.pc = s.me.pc ∧ t.me.run = .parked .reply s.tcycle ∧ t.me.pend = some i
      else t.me.pc = s.me.pc + 8 ∧ t.me.run = .ready := by
  obtain ⟨lo, hlo⟩ := State.access_away (i := i) (k := k) (l := l) (v := v) (c := c) hn ho hidle ha
  have sent := State.sentBy_modMe (s := s) (q := s.reqMsg k l dst ⟨0, a, BitVec.ofNat 64 loc, n, v, c⟩) rfl fun t =>
      t.addOut lo 128 l
  refine ⟨_, hexec, ?_⟩
  rw [hlo]
  generalize (s.modMe fun t => t.addOut lo 128 l).send _ = u at sent
  cases l with
  | true =>
    have waits := State.sentBy_then (State.sentBy_park sent i .reply) fun t => { t with got := [], bad := [] }
    obtain ⟨-, hmem, -, hme, -, -⟩ := id waits
    refine ⟨State.sentAccess_of waits ⟨rfl, rfl, rfl, rfl, rfl, rfl, rfl, rfl, rfl, rfl⟩, hmem, ?_⟩
    rw [if_pos rfl, if_pos rfl, hme]
    exact ⟨⟨rfl, rfl, rfl, rfl⟩, rfl, rfl, rfl⟩
  | false =>
    have retired := State.sentBy_advance (State.sentBy_then sent (Thread.held o))
    obtain ⟨-, hmem, -, hme, -, -⟩ := id retired
    refine ⟨State.sentAccess_of retired ⟨rfl, rfl, rfl, rfl, rfl, rfl, rfl, rfl, rfl, rfl⟩, hmem, ?_⟩
    rw [if_neg Bool.false_ne_true, if_neg Bool.false_ne_true, hme]
    exact ⟨⟨rfl, rfl, rfl, rfl⟩, rfl, rfl⟩

theorem accessesThatLeave : Claims.AccessesThatLeave := by
  intro s g sx sz nr o d m dst loc a n el h ho hidle ha
  have hn := State.runs_next h
  refine ⟨?_, ?_, fun q hq => ?_⟩
  · have hexec : exec (.ld g sx sz o d m) s = .next (s.access (.ld g sx sz o d m) (anyWindow .read true [elemAt a n 0 0] o)) :=
      congrArg Host.Outcome.next (State.issue_clear (State.runs_clear h))
    exact access_leaves hexec hn ho hidle ha
  · have hexec : exec (.st g sz o d m) s = .next (s.access (.st g sz o d m) (anyWindow .write false [elemAt a n (s.rx d)
      0] o)) :=
      congrArg Host.Outcome.next (State.issue_clear (State.runs_clear h))
    exact access_leaves hexec hn ho hidle ha
  · have hexec : exec q.1 s = .next (s.access q.1 (anyWindow (.amo q.2) (!nr) [elemAt a n (s.rx d) 0] o)) := by
      fin_cases hq <;> exact congrArg Host.Outcome.next (State.issue_clear (State.runs_clear h))
    have hleaves := access_leaves hexec hn ho hidle ha
    cases nr <;> exact hleaves

/-! ### The causes of an access at issue (R354) -/

/-- Every scalar access raises the cause that its element meets, whatever it does there. -/
theorem access_raises (h : s.clear g [d, m.base, m.idx] true 0 = true) {x : Nat} (hx : x ∈ [0x05, 0x06, 0x04, 0x07, 0x09, 0x08])
    (hr : ∀ k l v, s.routeOf (anyWindow k l [elemAt (s.ea m) (sizeBytes sz) v 0] o) (elemAt (s.ea m) (sizeBytes sz) v 0)
        = .error x) :
    ∀ i ∈ [Instr.ld g sx sz o d m, .st g sz o d m, .amoadd g sx sz nr o d m,
      .amomin g sx sz nr o d m, .amomax g sx sz nr o d m, .amominw g sx sz nr o d m, .amomaxw g sx sz nr o d m,
      .amoand g sx sz nr o d m, .amoor g sx sz nr o d m, .amoxor g sx sz nr o d m, .amoswap g sx sz nr o d m],
      exec i s = .next (s.raise x (s.ea m)) := by
  intro i hi
  have hexec : ∃ k l v, exec i s = .next (s.access i (anyWindow k l [elemAt (s.ea m) (sizeBytes sz) v 0] o)) := by
    fin_cases hi <;> exact ⟨_, _, _, congrArg Host.Outcome.next (State.issue_clear h)⟩
  obtain ⟨k, l, v, hexec⟩ := hexec
  rw [hexec, State.access_error rfl (hr k l v) hx]
  rfl

theorem State.routeOf_unaligned (h : e.loc.toNat % e.size ≠ 0) : s.routeOf p e = .error 0x05 := if_pos h

section

variable (ha : e.loc.toNat % e.size = 0)
include ha

theorem State.routeOf_none (hw : windowOf e.loc = .none) : s.routeOf p e = .error 0x06 := by
  unfold State.routeOf
  dsimp only
  rw [if_neg (not_not.2 ha), hw]

theorem State.routeOf_priv (hw : e.loc.extractLsb' 56 8 = 0xE0) (h : s.myDom.privSize < offOf e.loc + e.size) :
    s.routeOf p e = .error 0x09 := by
  unfold State.routeOf
  dsimp only
  rw [if_neg (not_not.2 ha), windowOf_priv hw]
  exact if_neg fun k => absurd k.1 (Nat.not_le.2 h)

theorem State.routeOf_otherTile (hw : e.loc.extractLsb' 56 8 = 0xE1) (h : tileOf e.loc ≠ s.cur.1) :
    s.routeOf p e = .error 0x07 := by
  unfold State.routeOf
  dsimp only
  rw [if_neg (not_not.2 ha), windowOf_loc hw]
  exact if_pos h

theorem State.routeOf_outside (hw : e.loc.extractLsb' 56 8 = 0xE1) (hT : tileOf e.loc = s.cur.1)
    (h : offOf e.loc < s.myDom.lsBase ∨ s.myDom.lsBase + s.myDom.lsSize < offOf e.loc + e.size) :
    s.routeOf p e = .error 0x09 := by
  unfold State.routeOf
  dsimp only
  rw [if_neg (not_not.2 ha), windowOf_loc hw]
  refine (if_neg (not_not.2 hT)).trans (if_neg fun k => ?_)
  rw [Dom.holds, Bool.and_eq_true, decide_eq_true_eq, decide_eq_true_eq] at k
  omega

theorem State.routeOf_long (hw : e.loc.extractLsb' 56 8 = 0xE2) (h : 0xC00000 < offOf e.loc + e.size) :
    s.routeOf p e = .error 0x09 := by
  unfold State.routeOf
  dsimp only
  rw [if_neg (not_not.2 ha), windowOf_shr hw]
  exact if_pos h

theorem State.routeOf_offFabric (hw : e.loc.extractLsb' 56 8 = 0xE2) (hlen : offOf e.loc + e.size ≤ 0xC00000)
    (h : s.myDom.fheight ≤ fabOf e.loc / 64 ∨ s.myDom.fwidth ≤ fabOf e.loc % 64) : s.routeOf p e = .error 0x08 := by
  unfold State.routeOf
  dsimp only
  rw [if_neg (not_not.2 ha), windowOf_shr hw]
  refine (if_neg (Nat.not_lt.2 hlen)).trans (if_neg fun k => ?_)
  rw [Dom.inFabric, Bool.and_eq_true, decide_eq_true_eq, decide_eq_true_eq] at k
  omega

theorem State.routeOf_saddle (hw : e.loc.extractLsb' 56 8 = 0xE3) (hp : p.sad = true)
    (h : s.myDom.saddleSize < saddleOff e.loc + e.size) : s.routeOf p e = .error 0x09 := by
  unfold State.routeOf
  dsimp only
  rw [if_neg (not_not.2 ha), windowOf_saddle hw, hp]
  exact if_neg (Nat.not_le.2 h)

/-- Memory of the device window is not for an unprivileged thread. -/
theorem State.routeOf_dev (hw : e.loc.extractLsb' 56 8 = 0xFF) (hd : p.dev = true) (hp : s.me.priv = 0)
    (h : (∃ x, placeOf (physOf e.loc) = .dram x) ∨ ∃ T x, placeOf (physOf e.loc) = .store T x) :
    s.routeOf p e = .error 0x04 := by
  unfold State.routeOf
  dsimp only
  rw [if_neg (not_not.2 ha), windowOf_dev hw, hd]
  refine (if_pos rfl).trans ?_
  unfold State.devRoute
  dsimp only
  generalize placeOf (physOf e.loc) = q at h
  obtain ⟨x, rfl⟩ | ⟨T, x, rfl⟩ := h <;> exact if_pos hp

end

theorem accessCauses : Claims.AccessCauses := by
  intro s g sx sz nr o d m h a n dm top off f raises
  have raise {x : Nat} (hx : x ∈ [0x05, 0x06, 0x04, 0x07, 0x09, 0x08])
      (hr : ∀ k l v, s.routeOf (anyWindow k l [elemAt a n v 0] o) (elemAt a n v 0) = .error x) : raises x :=
    access_raises h hx hr
  refine ⟨fun ha => raise (by decide) fun k l v => State.routeOf_unaligned ha, fun ha => ⟨?_, ?_, ?_, ?_, ?_, ?_, ?_, ?_⟩⟩
  · rintro (hw | ⟨hw, hb⟩)
    · exact raise (by decide) fun k l v => State.routeOf_none ha (windowOf_other hw)
    · exact raise (by decide) fun k l v => State.routeOf_none ha (windowOf_none hw hb)
  · exact fun hw hlen => raise (by decide) fun k l v => State.routeOf_priv ha hw hlen
  · exact fun hw hT => raise (by decide) fun k l v => State.routeOf_otherTile ha hw hT
  · exact fun hw hT hout => raise (by decide) fun k l v => State.routeOf_outside ha hw hT hout
  · exact fun hw hlen => raise (by decide) fun k l v => State.routeOf_long ha hw hlen
  · exact fun hw hlen hf => raise (by decide) fun k l v => State.routeOf_offFabric ha hw hlen hf
  · exact fun hw hlen => raise (by decide) fun k l v => State.routeOf_saddle ha hw rfl hlen
  · exact fun hw hp hplace => raise (by decide) fun k l v => State.routeOf_dev ha hw rfl hp hplace

/-- Settles O14, by where each address goes: an access that leaves its tile is one request, and one that goes nowhere is
refused. -/
theorem remoteAndRefusedAccesses : Obligations.RemoteAndRefusedAccesses := ⟨accessesThatLeave, accessCauses⟩

/-! ### Full-empty accesses (R84, R253) -/

theorem State.regsOk_mono {l l' : List XReg} (h : s.regsOk l = true) (hl : ∀ x ∈ l', x ∈ l) : s.regsOk l' = true :=
  List.all_eq_true.2 fun x hx => List.all_eq_true.1 h x (hl x hx)

/-- Checks that pass for some registers pass for fewer. -/
theorem State.clear_mono {l l' : List XReg} {grid : Bool} {priv : Nat} (h : s.clear g l grid priv = true)
    (hl : ∀ x ∈ l', x ∈ l) : s.clear g l' grid priv = true := by
  simp only [State.clear, Bool.and_eq_true] at h ⊢
  obtain ⟨⟨⟨⟨hr, hgrid⟩, hp⟩, hg⟩, hpar⟩ := h
  exact ⟨⟨⟨⟨State.regsOk_mono hr hl, hgrid⟩, hp⟩, hg⟩, hpar⟩

/-- With nothing queued at a word, a change of its bit wakes nobody. -/
theorem State.fePass_idle {T : Nat} {q : List FeReq} (h : ∀ x ∈ q, x.off ≠ off) : s.fePass T off q = (s, false) := by
  induction q with
  | nil => rfl
  | cons x q ih =>
    rw [State.fePass, if_pos (h x List.mem_cons_self)]
    exact ih fun y hy => h y (List.mem_cons_of_mem x hy)

theorem State.feWake_idle {T : Nat} (h : ∀ x ∈ (s.tile T).feq, x.off ≠ off) (fuel : Nat) : s.feWake T off fuel = s := by
  cases fuel with
  | zero => rfl
  | succ k => rw [State.feWake, State.fePass_idle h]

/-- Whether a full-empty access may proceed, and the bit that it leaves, as the statements spell them (R84). -/
theorem feReady_iff (fm : FeMode) (b : Bool) : feReady fm b = true ↔
    match fm with | .wff | .wfe => b = true | .wef => b = false | .sf | .se => True := by
  cases fm <;> simp [feReady]

theorem feAfter_eq (fm : FeMode) : feAfter fm = match fm with | .wff | .wef | .sf => true | .wfe | .se => false := by
  cases fm <;> rfl

/-- The bit of one word is `b`, and the others are as they were. -/
def State.feBits (s t : State) (T off : Nat) (b : Bool) : Prop :=
  t.feBit T off = b ∧ ∀ w, w ≠ lsAddr T off / 8 → Table.get false t.fe w = Table.get false s.fe w

theorem State.feBits_setFe (h : u.fe = s.fe) (T off : Nat) (b : Bool) : s.feBits (u.setFe T off b) T off b := by
  refine ⟨Table.get_set_self .., fun w hw => ?_⟩
  rw [State.setFe, Table.get_set_ne _ _ _ hw, h]

/-- What a full-empty instruction does where its element goes (R84, R253). -/
def State.feAt (s : State) (i : Instr) (k : AccKind) (e : Elem) (r : Route) : State :=
  match r with
  | .own off =>
    match k with
    | .fe m ld =>
      match s.feTry s.cur.1 off m ld e.data with
      | none =>
        (s.modTile s.cur.1 fun t => { t with feq := t.feq ++ [⟨off, m, ld, e, s.issuer true, none⟩] }).feTimer.park i
            (.fe e.addr)
      | some (_, none) => s.raise 0x13 e.addr
      | some (u, some v) =>
        ((u.modMe (loadWrite (modeCols s.myMode) i [{ e with data := v }])).advance).feWake s.cur.1 off
          ((s.tile s.cur.1).feq.length + 1)
    | .feSet full => (s.advance).feChange s.cur.1 off full
    | _ => (s.modMe (loadWrite (modeCols s.myMode) i [{ e with data := if s.feBit s.cur.1 off then 1 else 0 }])).advance
  | _ =>
    let u := (((s.hopOf e r).toList).foldl addReq []).foldl (State.sendReq k true) s
    match k with
    | .fe _ _ => u.feTimer.park i (.fe e.addr)
    | _ => u.park i .reply

theorem State.feBits_retired (h : u.fe = s.fe) (T off : Nat) (b : Bool) (f : Thread → Thread) :
    s.feBits ((u.setFe T off b).modMe f).advance T off b :=
  State.feBits_setFe h T off b

theorem State.byte_retired (u : State) (T off : Nat) (b : Bool) (f : Thread → Thread) (c : Nat) :
    (((u.setFe T off b).modMe f).advance).byte c = u.byte c := rfl

/-- A full-empty instruction of one element that goes somewhere, meets no earlier access and whose order is met. -/
theorem State.feAccess_goes (he : p.elems = [e]) (hr : s.routeOf p e = .ok r) (hn : s.nextOk = true) (ho : s.orderMet
    p.o = true)
    (hc : s.clash [(e, r)] = false) : s.feAccess i p = s.feAt i p.kind e r := by
  rw [State.feAccess, State.issueCause_ok he hr, he]
  dsimp only
  rw [State.ranged_next hn, State.gate_met ho, hr]
  dsimp only
  rw [hc, if_neg Bool.false_ne_true]
  rfl

/-- A request waits at its word with nothing changed but the word's queue. -/
theorem State.feAt_waits {fm : FeMode} {ld : Bool} (h : s.feTry s.cur.1 off fm ld e.data = none) :
    s.feAt i (.fe fm ld) e (.own off) =
      (s.modTile s.cur.1 fun t => { t with feq := t.feq ++ [⟨off, fm, ld, e, s.issuer true, none⟩] }).feTimer.park i
          (.fe e.addr) := by
  simp only [State.feAt, h]

/-- A change of a thread's own record leaves its tile's queue of full-empty requests. -/
theorem State.feq_modMe (s : State) (f : Thread → Thread) (T : Nat) : ((s.modMe f).tile T).feq = (s.tile T).feq := by
  unfold State.modMe State.modThread State.setThread
  rw [State.tile_modTile]
  split
  case isTrue h => rw [h]
  case isFalse => rfl

theorem State.feAt_proceeds {fm : FeMode} {ld : Bool} (h : s.feTry s.cur.1 off fm ld e.data = some (u, some w))
    (hs : s.onlyStores u) (hq : ∀ q ∈ (s.tile s.cur.1).feq, q.off ≠ off) : s.feAt i (.fe fm ld) e (.own off) =
      (u.modMe (loadWrite (modeCols s.myMode) i [{ e with data := w }])).advance := by
  simp only [State.feAt, h]
  refine State.feWake_idle (fun q hq' => hq q ?_) _
  obtain ⟨_, _, _, _, _, rfl⟩ := hs
  rwa [State.advance, State.goto, State.feq_modMe, State.feq_modMe] at hq'

theorem State.feAt_set {full : Bool} (hq : ∀ q ∈ (s.tile s.cur.1).feq, q.off ≠ off) :
    s.feAt i (.feSet full) e (.own off) = s.advance.setFe s.cur.1 off full := by
  have hfeq : (s.advance.tile s.cur.1).feq = (s.tile s.cur.1).feq := s.feq_modMe _ s.cur.1
  exact State.feWake_idle (s := s.advance.setFe s.cur.1 off full) (fun q hq' => hq q (Eq.mp (congrArg (q ∈ ·) hfeq) hq')) _

theorem State.feAt_test : s.feAt i .feTest e (.own off) =
    (s.modMe (loadWrite (modeCols s.myMode) i [{ e with data := if s.feBit s.cur.1 off then 1 else 0 }])).advance := rfl

/-! #### What becomes of a full-empty access whose bit allows it, and of another -/

theorem State.feTry_load {fm : FeMode} (h : feReady fm (s.feBit s.cur.1 off) = true) (hb : s.lsBad s.cur.1 off 8 = false) :
    s.feTry s.cur.1 off fm true v = some ((s.scrub (inStore s.cur.1 off 8) false).setFe s.cur.1 off (feAfter fm),
      some (BitVec.ofNat 64 (s.number (lsAddr s.cur.1 off) 8))) := by
  simp [State.feTry, h, hb, State.lsNum_eq_number]

theorem State.feTry_store {fm : FeMode} (h : feReady fm (s.feBit s.cur.1 off) = true) :
    s.feTry s.cur.1 off fm false v =
      some ((s.lsStore s.cur.1 off (toBytes 8 v.toNat)).setFe s.cur.1 off (feAfter fm), some 0) := by
  simp [State.feTry, h]

theorem State.feTry_waits {fm : FeMode} {ld : Bool} (h : feReady fm (s.feBit s.cur.1 off) = false) :
    s.feTry s.cur.1 off fm ld v = none := by
  simp [State.feTry, h]

theorem State.onlyStores_scrub (s : State) (f : Nat → Bool) : s.onlyStores (s.scrub f false) := by
  unfold State.scrub
  split
  · exact s.onlyStores_refl
  · exact ⟨s.mem, s.fe, s.bad, s.flips, _, rfl⟩

theorem State.fe_lsStore (s : State) (T off : Nat) (b : List Byte) : (s.lsStore T off b).fe = s.fe := by
  unfold State.lsStore State.freshWords
  dsimp only
  split <;> rfl

/-- A timer of the thread's wait changes nothing else. -/
theorem State.feTimer_eq : ∃ x, s.feTimer = { s with timers := x } := by
  unfold State.feTimer
  split
  · exact ⟨s.timers, rfl⟩
  · exact ⟨_, rfl⟩

/-- A thread that waits at a word: only its own record, its tile's queue and the timers have changed. -/
theorem State.feWaits_spec (q : FeReq) (w : Wait) :
    let t := (s.modTile s.cur.1 fun t => { t with feq := t.feq ++ [q] }).feTimer.park i w
    s.sameMemory t ∧ s.me.sameRegs t.me ∧ t.me.pc = s.me.pc ∧ t.me.run = .parked w s.tcycle ∧ s.me.sameSystem t.me ∧
      s.otherThreads t s.cur.1 s.cur.2 := by
  have hthread (x : List ((Clk × Nat) × Event)) (T h : Nat) :
      State.thread { s.modTile s.cur.1 fun t => { t with feq := t.feq ++ [q] } with timers := x } T h = s.thread T h := by
    have htile : ((s.modTile s.cur.1 fun t => { t with feq := t.feq ++ [q] }).tile T).threads = (s.tile T).threads := by
      rw [State.tile_modTile]
      split
      case isTrue h => rw [h]
      case isFalse => rfl
    exact congrArg (Table.get Thread.reset · h) htile
  obtain ⟨x, hx⟩ := State.feTimer_eq (s := s.modTile s.cur.1 fun t => { t with feq := t.feq ++ [q] })
  dsimp only
  rw [hx, State.park, State.me_modMe]
  have hme : State.me { s.modTile s.cur.1 fun t => { t with feq := t.feq ++ [q] } with timers := x } = s.me := hthread x _ _
  rw [hme]
  refine ⟨State.sameMemory_of_stores rfl, ⟨rfl, rfl, rfl, rfl⟩, rfl, rfl, ⟨rfl, rfl, rfl, rfl, rfl, rfl, rfl, rfl, rfl, rfl⟩,
    fun T h hne => ?_⟩
  refine (State.thread_modMe _ _ T h).trans ((if_neg hne).trans (hthread x T h))

/-! #### The claims -/

/-- A full-empty instruction whose word lies in the issuing tile's own store does its work there. -/
theorem State.feAccess_own {fe : AccKind} (hn : s.nextOk = true) (ho : s.orderMet o = true) (hal : s.alone off 8 = true)
    (hsad : a.extractLsb' 56 8 ≠ 0xE3) (ha : s.ownOffset a 8 = some off) :
    s.feAccess i (storeWindow fe true [elemAt a 8 v 0] o) = s.feAt i fe (elemAt a 8 v 0) (.own off) :=
  State.feAccess_goes rfl (State.routeOf_own ha fun h => absurd h hsad) hn ho (State.clash_alone hal)

theorem extended_word (v : Nat) : extended false 8 v = BitVec.ofNat 64 v := by
  rw [extended, if_neg Bool.false_ne_true]
  exact BitVec.setWidth_eq _

theorem loadWrite_ldfe (fm : FeMode) (cols : Nat) (e : Elem) (t : Thread) :
    loadWrite cols (.ldfe g fm o d m) [e] t = t.wx d.toNat (extBytes false 8 e.data) := by
  simp only [loadWrite, firstVal]

theorem loadWrite_fetest (cols : Nat) (e : Elem) (t : Thread) :
    loadWrite cols (.fetest g o d m) [e] t = t.wx d.toNat (extBytes false 8 e.data) := by
  simp only [loadWrite, firstVal]

theorem loadWrite_stfe (fm : FeMode) (cols : Nat) (e : Elem) (t : Thread) : loadWrite cols (.stfe g fm o d m) [e] t = t := by
  simp only [loadWrite]

/-- The issue of a full-empty instruction that writes no register of its own checks fewer registers. -/
theorem exec_feset_access {full : Bool} (h : s.clear g [d, m.base, m.idx] true 0 = true) : exec (.feset g full o m) s =
    .next (s.feAccess (.feset g full o m) (storeWindow (.feSet full) true [elemAt (s.ea m) 8 0 0] o)) :=
  congrArg Host.Outcome.next (State.issue_clear (State.clear_mono h fun _ => List.mem_cons_of_mem d))

theorem State.retiredTo_advance (s : State) : s.retiredTo s.advance := by
  obtain ⟨-, hpc, hrun, hsys, -, hothers, htiles, hblocks, hjobs, hflight, htimers, htime⟩ := s.goto_frame (s.me.pc + 8)
  exact ⟨hpc, hrun, hsys, hothers, htiles, hblocks, hjobs, hflight, htimers, htime⟩

/-- A retired instruction may still change what is stored. -/
theorem State.retiredTo_then (h : s.retiredTo u) (k : u.onlyStores t) : s.retiredTo t := by
  obtain ⟨_, _, _, _, _, rfl⟩ := k
  exact h

section

variable (h : s.runs g [d, m.base, m.idx] true 0 = true) (ho : s.orderMet o = true) (hal : s.alone off 8 = true)
  (hsad : (s.ea m).extractLsb' 56 8 ≠ 0xE3) (ha : s.ownOffset (s.ea m) 8 = some off) (hq : ∀ q ∈ (s.tile s.cur.1).feq,
      q.off ≠ off)
include h ho hal hsad ha

theorem exec_ldfe_own (fm : FeMode) : exec (.ldfe g fm o d m) s =
    .next (s.feAt (.ldfe g fm o d m) (.fe fm true) (elemAt (s.ea m) 8 0 0) (.own off)) :=
  congrArg Host.Outcome.next ((State.issue_clear (State.runs_clear h)).trans (State.feAccess_own (State.runs_next h) ho
      hal hsad ha))

theorem exec_stfe_own (fm : FeMode) : exec (.stfe g fm o d m) s =
    .next (s.feAt (.stfe g fm o d m) (.fe fm false) (elemAt (s.ea m) 8 (s.rx d) 0) (.own off)) :=
  congrArg Host.Outcome.next ((State.issue_clear (State.runs_clear h)).trans (State.feAccess_own (State.runs_next h) ho
      hal hsad ha))

theorem fetest_own : exec (.fetest g o d m) s = .next (s.wrote d (if s.feBit s.cur.1 off then 1 else 0)) := by
  refine (congrArg Host.Outcome.next ((State.issue_clear (State.runs_clear h)).trans
    (State.feAccess_own (State.runs_next h) ho hal hsad ha))).trans ?_
  rw [State.feAt_test, funext (loadWrite_fetest _ _)]
  cases s.feBit s.cur.1 off <;> rfl

theorem fe_waits {fm : FeMode} (hready : feReady fm (s.feBit s.cur.1 off) = false) :
    ∀ i ∈ [Instr.ldfe g fm o d m, .stfe g fm o d m], ∃ t, exec i s = .next t ∧ s.sameMemory t ∧ s.me.sameRegs t.me ∧
      t.me.pc = s.me.pc ∧ t.me.run = .parked (.fe (s.ea m)) s.tcycle ∧ s.me.sameSystem t.me ∧ s.otherThreads t s.cur.1
          s.cur.2 := by
  intro i hi
  fin_cases hi
  · rw [exec_ldfe_own h ho hal hsad ha, State.feAt_waits (State.feTry_waits hready)]
    exact ⟨_, rfl, State.feWaits_spec ..⟩
  · rw [exec_stfe_own h ho hal hsad ha, State.feAt_waits (State.feTry_waits hready)]
    exact ⟨_, rfl, State.feWaits_spec ..⟩

include hq

theorem ldfe_proceeds {fm : FeMode} (hready : feReady fm (s.feBit s.cur.1 off) = true) (hb : s.lsBad s.cur.1 off 8 = false) :
    ∃ t, exec (.ldfe g fm o d m) s = .next t ∧ s.retiredTo t ∧ s.feBits t s.cur.1 off (feAfter fm) ∧ (∀ c, t.byte c =
        s.byte c) ∧
      s.me.sameBut d.toNat t.me ∧ (d ≠ 0 → t.rx d = BitVec.ofNat 64 (s.number (lsAddr s.cur.1 off) 8)) := by
  have hs := State.onlyStores_trans (s.onlyStores_scrub (inStore s.cur.1 off 8)) (State.onlyStores_setFe _ s.cur.1 off
      (feAfter fm))
  have hstores := s.stores_scrub (inStore s.cur.1 off 8) false
  simp only [State.stores, Prod.mk.injEq] at hstores
  obtain ⟨hmem, hfe, -, -⟩ := hstores
  have hval : extBytes false 8 (BitVec.ofNat 64 (s.number (lsAddr s.cur.1 off) 8)) = BitVec.ofNat 64 (s.number (lsAddr
      s.cur.1 off) 8) :=
    (extBytes_eq false (by decide) (by decide) _).trans (extended_word _)
  rw [exec_ldfe_own h ho hal hsad ha, State.feAt_proceeds (State.feTry_load hready hb) hs hq, funext (loadWrite_ldfe _ _ _)]
  obtain ⟨hx, hbut⟩ := State.wx_retired hs d (extBytes false 8 (BitVec.ofNat 64 (s.number (lsAddr s.cur.1 off) 8)))
  exact ⟨_, rfl, State.retiredTo_stores hs (by simp) (Thread.sameSystem_wx ..), State.feBits_retired hfe ..,
    fun c => (State.byte_retired ..).trans (congrArg (Memory.get · c) hmem), hbut, fun hd => (hx hd).trans hval⟩

theorem stfe_proceeds {fm : FeMode} (hready : feReady fm (s.feBit s.cur.1 off) = true) :
    let A := lsAddr s.cur.1 off
    ∃ t, exec (.stfe g fm o d m) s = .next t ∧ s.retiredTo t ∧ s.feBits t s.cur.1 off (feAfter fm) ∧ s.me.sameRegs t.me ∧
      (∀ k < 8, t.byte (A + k) = (s.rx d).extractLsb' (8 * k) 8) ∧ ∀ c, c < A ∨ A + 8 ≤ c → t.byte c = s.byte c := by
  intro A
  have hs := State.onlyStores_trans (s.onlyStores_lsStore s.cur.1 off (toBytes 8 (s.rx d).toNat))
    (State.onlyStores_setFe _ s.cur.1 off (feAfter fm))
  have hf : ∀ cols e, loadWrite cols (.stfe g fm o d m) [e] = id := fun cols e => funext (loadWrite_stfe fm cols e)
  have hstored : s.storedTo (s.lsStore s.cur.1 off (toBytes 8 (s.rx d).toNat)) A 8 fun k => (s.rx d).extractLsb' (8 * k) 8 :=
    s.storedTo_toBytes s.cur.1 off fun k hk => toBytes_toNat_getD (s.rx d) hk
  have hfe := s.fe_lsStore s.cur.1 off (toBytes 8 (s.rx d).toNat)
  generalize hu : s.lsStore s.cur.1 off (toBytes 8 (s.rx d).toNat) = u at hs hstored hfe
  obtain ⟨hin, hout, -⟩ := hstored
  rw [exec_stfe_own h ho hal hsad ha, State.feAt_proceeds (hu ▸ State.feTry_store hready) hs hq, hf]
  exact ⟨_, rfl, State.retiredTo_stores hs rfl ⟨rfl, rfl, rfl, rfl, rfl, rfl, rfl, rfl, rfl, rfl⟩,
    State.feBits_retired hfe .., State.sameRegs_retired hs ⟨rfl, rfl, rfl, rfl⟩,
    fun k hk => (State.byte_retired ..).trans (hin k hk), fun c hc => (State.byte_retired ..).trans (hout c hc)⟩

theorem feset_own (full : Bool) : ∃ t, exec (.feset g full o m) s = .next t ∧ s.retiredTo t ∧ s.feBits t s.cur.1 off full ∧
    s.me.sameRegs t.me ∧ ∀ c, t.byte c = s.byte c := by
  rw [exec_feset_access (State.runs_clear h), State.feAccess_own (State.runs_next h) ho hal hsad ha, State.feAt_set hq]
  obtain ⟨hregs, -⟩ := s.goto_frame (s.me.pc + 8)
  exact ⟨_, rfl, State.retiredTo_then s.retiredTo_advance (State.onlyStores_setFe ..), State.feBits_setFe rfl .., hregs,
      fun c => rfl⟩

end

theorem fullEmpty : Claims.FullEmpty := by
  intro s g fm full o d m off h ho hal a A hsad ha hq bit ready after bitsAre waits
  have hready : feReady fm bit = true ↔ ready := feReady_iff fm bit
  have hafter : feAfter fm = after := feAfter_eq fm
  have hbits (t : State) (b : Bool) : s.feBits t s.cur.1 off b ↔ bitsAre t b := Iff.rfl
  simp only [← hready, ← hafter, ← hbits]
  refine ⟨fun hr hb => ldfe_proceeds h ho hal hsad ha hq hr hb, fun hr => stfe_proceeds h ho hal hsad ha hq hr, fun hr => ?_,
    fetest_own h ho hal hsad ha, feset_own h ho hal hsad ha hq full⟩
  have hwaits := fe_waits h ho hal hsad ha (Bool.not_eq_true _ ▸ hr)
  exact ⟨hwaits _ (by simp), hwaits _ (by simp)⟩

/-! ### Full-empty accesses elsewhere (R65, R248, R253) -/

theorem windowOf_elsewhere (h : a.extractLsb' 56 8 ∉ [0xE0, 0xE1, 0xE2]) :
    windowOf a ≠ .priv ∧ windowOf a ≠ .loc ∧ windowOf a ≠ .shr := by
  have hne : ∀ x : BitVec 8, x ∈ [0xE0#8, 0xE1#8, 0xE2#8] → fld a 56 8 ≠ x.toNat := fun x hx k =>
    h (BitVec.eq_of_toNat_eq k ▸ hx)
  unfold windowOf
  split
  case h_1 => split <;> decide
  case h_2 k => exact absurd k (hne 0xE0 (by decide))
  case h_3 k => exact absurd k (hne 0xE1 (by decide))
  case h_4 k => exact absurd k (hne 0xE2 (by decide))
  case h_5 | h_6 | h_7 => decide

theorem State.routeOf_storeWindow {fe : AccKind} (ha : e.loc.toNat % e.size = 0) (hw : e.loc.extractLsb' 56 8 ∉ [0xE0,
    0xE1, 0xE2]) :
    s.routeOf (storeWindow fe true [e] o) e = .error 0x06 := by
  obtain ⟨hpriv, hloc, hshr⟩ := windowOf_elsewhere hw
  unfold State.routeOf
  dsimp only
  rw [if_neg (not_not.2 ha)]
  generalize windowOf e.loc = q at hpriv hloc hshr
  cases q with
  | priv => exact absurd rfl hpriv
  | loc => exact absurd rfl hloc
  | shr => exact absurd rfl hshr
  | _ => rfl

theorem State.feAccess_error {x : Nat} (he : p.elems = [e]) (h : s.routeOf p e = .error x)
    (hx : x ∈ [0x05, 0x06, 0x04, 0x07, 0x09, 0x08]) : s.feAccess i p = s.raise x e.addr := by
  rw [State.feAccess, State.issueCause_error he h hx]

/-- The wait of a full-empty instruction whose request has gone to another tile. -/
def feWait (k : AccKind) (a : W64) : Wait :=
  match k with
  | .fe _ _ => .fe a
  | _ => .reply

theorem State.sentBy_feTimer {q : Msg} {x : Thread} (h : s.sentBy u q x) : s.sentBy u.feTimer q x := by
  obtain ⟨y, hy⟩ := State.feTimer_eq (s := u)
  rw [hy]
  exact h

/-- A full-empty instruction for a word of another tile: one request, and the thread waits. -/
theorem State.feAt_away {e' : Elem} (hr : ∀ off, r ≠ .own off) (hh : s.hopOf e r = some (dst, s.module.toNat, false, e')) :
    ∃ x, s.sentBy (s.feAt i k e r) (s.reqMsg k true dst e')
        { x with run := .parked (feWait k e.addr) s.tcycle, pend := some i } ∧
      s.me.sameRegs x ∧ s.me.sameSystem x ∧ x.pc = s.me.pc := by
  obtain ⟨lo, hlo⟩ := s.sendReq_eq k true dst (e'.loc.toNat / 128) e'
  have sent := State.sentBy_modMe (s := s) (q := s.reqMsg k true dst e') rfl fun t => t.addOut lo 128 true
  rw [← hlo] at sent
  refine ⟨{ s.me.addOut lo 128 true with readyAt := s.tcycle + 8 }, ?_, ⟨rfl, rfl, rfl, rfl⟩,
    ⟨rfl, rfl, rfl, rfl, rfl, rfl, rfl, rfl, rfl, rfl⟩, rfl⟩
  cases r with
  | own off => exact absurd rfl (hr off)
  | _ =>
    simp only [State.feAt, hh, Option.toList, List.foldl, addReq]
    cases k with
    | fe fm ld => exact State.sentBy_park (State.sentBy_feTimer sent) ..
    | _ => exact State.sentBy_park sent ..

theorem fullEmptyElsewhere : Claims.FullEmptyElsewhere := by
  intro s g fm full o d m a table h q hq
  have hexec : exec q.1 s = .next (s.feAccess q.1 (storeWindow q.2.1 true [elemAt a 8 q.2.2.1 0] o)) ∧ q.2.2.2 = feWait
      q.2.1 a ∧
      reqType q.2.1 = 3 := by
    simp only [table, List.mem_cons, List.not_mem_nil, or_false] at hq
    obtain rfl | rfl | rfl | rfl := hq
    · exact ⟨congrArg Host.Outcome.next (State.issue_clear h), rfl, rfl⟩
    · exact ⟨congrArg Host.Outcome.next (State.issue_clear h), rfl, rfl⟩
    · exact ⟨congrArg Host.Outcome.next (State.issue_clear h), rfl, rfl⟩
    · exact ⟨exec_feset_access h, rfl, rfl⟩
  obtain ⟨hexec, hwait, htype⟩ := hexec
  rw [hexec, hwait]
  refine ⟨fun ha => ?_, fun ha hw => ?_, fun dst loc hn ho hidle hw ha => ?_⟩
  · rw [State.feAccess_error (e := elemAt a 8 q.2.2.1 0) rfl (State.routeOf_unaligned ha) (by decide)]
    rfl
  · rw [State.feAccess_error (e := elemAt a 8 q.2.2.1 0) rfl (State.routeOf_storeWindow ha hw) (by decide)]
    rfl
  · obtain ⟨r, hroute, hown, hhop⟩ := State.routeOf_away (p := storeWindow q.2.1 true [elemAt a 8 q.2.2.1 0] o)
      (e := elemAt a 8 q.2.2.1 0) ha fun h0 => absurd (h0.symm.trans hw) (by decide)
    obtain ⟨x, sent, hregs, hsys, hpc⟩ := State.feAt_away (i := q.1) (k := q.2.1) hown hhop
    refine ⟨s.feAt q.1 q.2.1 (elemAt a 8 q.2.2.1 0) r, congrArg _ (State.feAccess_goes rfl hroute hn ho
        (State.clash_idle hidle _)), ?_⟩
    have hmsg := State.sentAccess_of sent hsys
    rw [htype] at hmsg
    obtain ⟨-, hmem, -, hme, -, -⟩ := sent
    rw [hme]
    exact ⟨hmsg, hmem, hregs, hpc, rfl, rfl⟩

/-- Settles O15, by what a full-empty instruction does where its word lies: in the tile's own store it proceeds or waits, and
for another tile's it is one request. -/
theorem fullEmptyAccesses : Obligations.FullEmptyAccesses := ⟨fullEmpty, fullEmptyElsewhere⟩

end Sys2Proof.Machine

end

/-! ## Wave-commit stores, fences, prefetches and markers -/

section

namespace Sys2Proof.Machine

open Bits

variable {s t u : State} {a : W64} {n off : Nat} {p : Plan} {e : Elem} {r : Route} {i : Instr} {o : Order}
variable {g : Guard} {d : XReg} {m : MAddr} {sz : Size} {sx nr l : Bool} {k : AccKind} {v c w : W64}
variable {dst : Node} {loc : Nat} {wait : Bool}

/-! ### Wave-commit stores (R251) -/

/-- Where a wave-commit store's entry points, as the statements spell it: WIN and ADDR. -/
def State.commitPlace (s : State) (a : W64) (n : Nat) : Option (Nat × Nat) :=
  if a.toNat % n ≠ 0 then none
  else if a.extractLsb' 56 8 = 0 ∧ a.getLsbD 55 = false then some (0, (a.extractLsb' 0 55).toNat)
  else if (s.ownOffset a n).isSome ∧ a.extractLsb' 56 8 = 0xE1 then some (1, s.cur.1 * 2 ^ 24 + (a.extractLsb' 0 24).toNat)
  else if a.extractLsb' 56 8 = 0xE2 ∧ (a.extractLsb' 0 24).toNat + n ≤ 0xC00000 then
    some (2, (a.extractLsb' 36 12).toNat * 2 ^ 24 + (a.extractLsb' 0 24).toNat)
  else none

/-- A range of the local window that is the issuing tile's own. -/
theorem State.ownOffset_loc (hw : a.extractLsb' 56 8 = 0xE1) (h : (s.ownOffset a n).isSome) :
    tileOf a = s.cur.1 ∧ s.myDom.holds (offOf a) n = true := by
  unfold State.ownOffset State.rangeAt at h
  dsimp only at h
  rw [if_neg (show a.extractLsb' 56 8 ≠ 0xE0 from fun k => absurd (hw.symm.trans k) (by decide)), if_pos hw] at h
  split at h
  case isFalse => cases h
  split at h
  case isFalse => cases h
  case isTrue hb =>
    obtain ⟨hT, hlo, hhi⟩ := hb
    rw [Dom.holds, Bool.and_eq_true, decide_eq_true_eq, decide_eq_true_eq]
    exact ⟨hT, hlo, hhi⟩

theorem State.wcTarget_eq {w : Nat × Nat} (h : s.commitPlace a n = some w) : s.wcTarget a n = .ok w ∧ w.1 < 4 := by
  unfold State.commitPlace at h
  unfold State.wcTarget
  split at h
  case isTrue => cases h
  case isFalse ha =>
  rw [if_neg ha]
  split at h
  case isTrue hw =>
    cases h
    rw [windowOf_global hw.1 hw.2]
    exact ⟨rfl, Nat.zero_lt_succ 3⟩
  case isFalse =>
  split at h
  case isTrue hw =>
    cases h
    obtain ⟨hT, hin⟩ := State.ownOffset_loc hw.2 hw.1
    rw [windowOf_loc hw.2]
    dsimp only
    rw [if_neg (not_not.2 hT), if_pos hin, hT]
    exact ⟨rfl, (by decide : 1 < 4)⟩
  case isFalse =>
  split at h
  case isTrue hw =>
    cases h
    rw [windowOf_shr hw.1]
    exact ⟨if_neg (Nat.not_lt.2 hw.2), (by decide : 2 < 4)⟩
  case isFalse => cases h

/-- The upper half of a commit entry, as the statements spell it: SIZE, WIN and ADDR. -/
theorem commitWord_eq (z : BitVec 2) {win : Nat} (h : win < 4) (addr : Nat) :
    BitVec.ofNat 64 (z.toNat * 2 ^ 62 + win * 2 ^ 60 + addr % 2 ^ 55) =
      z ++ BitVec.ofNat 2 win ++ 0#5 ++ BitVec.ofNat 55 addr := by
  have hz := z.isLt
  have ha : addr % 2 ^ 55 < 2 ^ 55 := Nat.mod_lt _ (by decide)
  apply BitVec.eq_of_toNat_eq
  simp only [BitVec.toNat_append, BitVec.toNat_ofNat]
  rw [← Nat.shiftLeft_add_eq_or_of_lt ha, ← Nat.shiftLeft_add_eq_or_of_lt (by decide),
    ← Nat.shiftLeft_add_eq_or_of_lt (Nat.mod_lt _ (by decide))]
  simp only [Nat.shiftLeft_eq]
  omega

/-- An instruction that changes what is stored and its domain's record, and retires. -/
theorem State.modDom_retired (h : s.onlyStores u) (f : Dom → Dom) :
    let t := (u.modDom s.cur.1 s.myDomNo f).advance
    s.me.sameRegs t.me ∧ t.me.pc = s.me.pc + 8 ∧ t.me.run = .ready ∧ s.me.sameSystem t.me ∧ s.otherThreads t s.cur.1 s.cur.2 ∧
      t.flight = s.flight ∧ t.dom s.cur.1 s.myDomNo = f s.myDom := by
  obtain ⟨m, fe, b, x, c, rfl⟩ := h
  have hme : (State.modDom { s with mem := m, fe := fe, bad := b, flips := x, fixed := c } s.cur.1 s.myDomNo f).me = s.me :=
    State.thread_modDom ..
  dsimp only
  rw [State.me_advance, hme]
  refine ⟨⟨rfl, rfl, rfl, rfl⟩, rfl, rfl, ⟨rfl, rfl, rfl, rfl, rfl, rfl, rfl, rfl, rfl, rfl⟩, fun T h hne => ?_, rfl, ?_⟩
  · exact (State.thread_advance (State.modDom _ _ _ f) hne).trans (State.thread_modDom ..)
  · rw [State.dom_advance]
    exact State.dom_modDom_self ..

/-- The entry goes to the place of the next one in the half, whose count rises by one; the thread retires. -/
theorem State.appendCommit_spec (z : BitVec 2) {win : Nat} (h : win < 4) (v : W64) (addr : Nat) :
    let dm := s.myDom
    let A := lsAddr s.cur.1 (dm.commitAt dm.half (dm.halfCount dm.half))
    let t := (s.appendCommit s.cur.1 s.myDomNo v z.toNat win addr).advance
    s.me.sameRegs t.me ∧ t.me.pc = s.me.pc + 8 ∧ t.me.run = .ready ∧ s.me.sameSystem t.me ∧ s.otherThreads t s.cur.1 s.cur.2 ∧
      t.flight = s.flight ∧
      (s.storedTo t A 16 fun k => (v ++ (z ++ BitVec.ofNat 2 win ++ 0#5 ++ BitVec.ofNat 55 addr)).extractLsb' (8 * k) 8) ∧
      t.dom s.cur.1 s.myDomNo = dm.setHalf dm.half (dm.halfCount dm.half + 1) := by
  intro dm A t
  have hb : ∀ k < 16, (toBytes 16 (v ++ BitVec.ofNat 64 (z.toNat * 2 ^ 62 + win * 2 ^ 60 + addr % 2 ^ 55)).toNat).getD k 0 =
      (v ++ (z ++ BitVec.ofNat 2 win ++ 0#5 ++ BitVec.ofNat 55 addr)).extractLsb' (8 * k) 8 := fun k hk => by
    rw [toBytes_toNat_getD _ hk, commitWord_eq z h addr]
  have hstored := s.storedTo_toBytes s.cur.1 (dm.commitAt dm.half (dm.halfCount dm.half)) hb
  have hs := s.onlyStores_lsStore s.cur.1 (dm.commitAt dm.half (dm.halfCount dm.half))
    (toBytes 16 (v ++ BitVec.ofNat 64 (z.toNat * 2 ^ 62 + win * 2 ^ 60 + addr % 2 ^ 55)).toNat)
  have ht : t = ((s.lsStore s.cur.1 (dm.commitAt dm.half (dm.halfCount dm.half))
      (toBytes 16 (v ++ BitVec.ofNat 64 (z.toNat * 2 ^ 62 + win * 2 ^ 60 + addr % 2 ^ 55)).toNat)).modDom s.cur.1 s.myDomNo
        fun x => x.setHalf dm.half (x.halfCount dm.half + 1)).advance := rfl
  clear_value t
  subst ht
  generalize s.lsStore s.cur.1 _ (toBytes 16 _) = u at hstored hs ⊢
  obtain ⟨hregs, hpc, hrun, hsys, hothers, hflight, hdom⟩ := State.modDom_retired hs fun x =>
    x.setHalf dm.half (x.halfCount dm.half + 1)
  exact ⟨hregs, hpc, hrun, hsys, hothers, hflight, State.storedTo_congr hstored rfl, hdom⟩

theorem waveCommitStore : Claims.WaveCommitStore := by
  intro s g sz d m h a dm half cnt A place w hw
  obtain ⟨htarget, hwin⟩ := State.wcTarget_eq (s := s) hw
  have hexec : exec (.stWc g sz d m) s = .next (if dm.halfCap ≤ dm.halfCount dm.half then s.raise 0x1A a
      else s.complete fun s => s.appendCommit s.cur.1 s.myDomNo (s.rx d) (sizeCode sz).toNat w.1 w.2) := by
    rw [exec_stWc, execStWc, State.issue_clear (State.runs_clear h), show s.wcTarget (s.ea m) _ = _ from htarget]
    rfl
  rw [hexec]
  refine ⟨fun hroom => ?_, fun hfull => congrArg _ (if_pos hfull)⟩
  rw [if_neg (show ¬ dm.halfCap ≤ dm.halfCount dm.half from Nat.not_le.2 hroom), State.complete_next (State.runs_next h)]
  obtain ⟨hregs, hpc, hrun, hsys, hothers, hflight, hstored, hdom⟩ := State.appendCommit_spec (s := s) (sizeCode sz) hwin
    (s.rx d) w.2
  refine ⟨_, rfl, hregs, hpc, hrun, hsys, hothers, hflight, ?_, hdom⟩
  rwa [Dom.commitAt, Nat.mul_assoc] at hstored

/-! ### Fences and prefetches (R100, R255, R256) -/

/-- A release whose prior accesses have not all performed waits for them. -/
theorem State.gate_prior {f : State → State} (hrel : o.ord = .rel ∨ o.ord = .ar)
    (h : s.priorDone s.cur.1 s.cur.2 = false) : s.gate i o f = s.park i .prior :=
  if_pos ⟨Or.inl hrel, by rw [h]; exact Bool.false_ne_true⟩

theorem fence_spec (h : s.runs g [] true 0 = true) : exec (.fence g o) s = .next (
    if o.ord = .acq then (if s.myDom.readsDone s.cur.2 then s.advance else s.park (.fence g o) .loads)
    else s.gate (.fence g o) o State.advance) := by
  rw [exec_fence, execFence, State.issue_ranged h]

/-- Only an address with top byte 0 and bit 55 clear is in the global window. -/
theorem windowOf_ne_global (h : a.extractLsb' 56 8 ≠ 0 ∨ a.getLsbD 55 = true) : windowOf a ≠ .global := by
  intro hg
  unfold windowOf at hg
  split at hg
  case h_1 h0 =>
    obtain h | h := h
    · exact h (BitVec.eq_of_toNat_eq h0)
    · rw [bit, h] at hg
      cases hg
  all_goals cases hg

theorem State.sentBy_send {q : Msg} (hq : q.src = s.nodeOf s.cur.1) : s.sentBy (s.send q) q s.me :=
  ⟨by rw [State.send, hq]; rfl, State.sameMemory_of_stores rfl, fun _ _ _ => rfl, rfl, rfl, rfl⟩

/-- The read of a line by a prefetch: the tile's prefetcher asks, and no thread waits. -/
def State.prefetchRead (s : State) (llc : Bool) (a : W64) (va : Nat) : Access :=
  { kind := .read, elems := [⟨0, a, BitVec.ofNat 64 va, 128, 0, 0⟩], iss := { s.issuer false with hw := prefetcher llc },
    phys := false, cache := 0, shr := false, dev := false, retried := false }

def State.prefetchMsg (s : State) (llc : Bool) (a : W64) (va : Nat) : Msg :=
  s.tileMsg s.cur.1 s.myDomNo 0x01 (.station (xlatStation s.myDom.pid va)) 0 (.access (s.prefetchRead llc a va))

theorem exec_pf_eq {llc : Bool} (h : s.runs g [m.base, m.idx] true 0 = true) :
    exec (.pf g llc m) s = .next (match windowOf (s.ea m) with
      | .global => (s.send (s.prefetchMsg llc (s.ea m) (fld (s.ea m) 0 55 / 128 * 128))).advance
      | _ => s.advance) := by
  rw [exec_pf, execPf, State.issue_clear (State.runs_clear h), State.complete_next (State.runs_next h)]
  dsimp only
  generalize windowOf (s.ea m) = w
  cases w <;> rfl

theorem fenceAndPrefetch : Claims.FenceAndPrefetch := by
  intro s g o llc m
  constructor
  · intro h
    rw [fence_spec h]
    refine ⟨fun ho => by rw [if_pos ho], fun ho hmet => by rw [if_neg ho, State.gate_met hmet], fun ho hprior => ?_⟩
    rw [if_neg (by rintro e; simp [e] at ho), State.gate_prior ho hprior]
  intro h a va
  refine ⟨fun ha => ?_, fun h0 h55 => ?_⟩
  · rw [exec_pf_eq h]
    have hne := windowOf_ne_global ha
    split
    case h_1 e => exact absurd e hne
    case h_2 => rfl
  · have retired := State.sentBy_advance (State.sentBy_send (s := s) (q := s.prefetchMsg llc a va) rfl)
    have hexec : exec (.pf g llc m) s = .next (s.send (s.prefetchMsg llc a va)).advance := by
      rw [exec_pf_eq h, show windowOf (s.ea m) = _ from windowOf_global h0 h55]
      rfl
    generalize (s.send (s.prefetchMsg llc a va)).advance = t at retired hexec
    obtain ⟨hflight, hmem, hothers, hme, -, -⟩ := retired
    refine ⟨t, s.prefetchMsg llc a va, s.prefetchRead llc a va, hexec, ?_⟩
    rw [hme]
    exact ⟨⟨rfl, rfl, rfl, rfl⟩, rfl, rfl, rfl, hmem, ⟨rfl, rfl, rfl, rfl, rfl, rfl, rfl, rfl, rfl, rfl⟩, hothers, hflight,
      rfl, rfl, rfl, rfl, rfl⟩

/-- Settles O16, by where a wave-commit store's entry goes and by what each order waits for. What an acquire fence waits for is
R292 as the model reads it: the reads of the thread's matrix commands (log 117). -/
theorem commitsFencesPrefetch : Obligations.CommitsFencesPrefetch := ⟨waveCommitStore, fenceAndPrefetch⟩

/-! ### Markers (R90, R264) -/

theorem mark_spec {x : XReg} {imm : BitVec 32} (h : s.runs g [x] true 0 = true) : exec (.mark g x imm) s = .next (
    if s.priorDone s.cur.1 s.cur.2 then (s.raiseMarker s.cur.1 s.myDomNo (s.rx x + imm.setWidth 64)).advance
    else s.park (.mark g x imm) .prior) := by
  rw [exec_mark, execMark, State.issue_ranged h, State.afterPrior]

/-- A MARKER never falls. -/
theorem State.raiseMarker_below (h : v.toNat ≤ s.myDom.marker.toNat) : s.raiseMarker s.cur.1 s.myDomNo v = s :=
  if_neg (Nat.not_lt.2 h)

theorem State.advance_posted (l : List Event) : (s.posted l).advance = s.advance.posted l := rfl

/-- The contribution of the issuing tile's new MARKER to a station of its row. -/
def State.raisedMsg (s : State) (v : W64) (q : Nat) : Msg :=
  (s.modDom s.cur.1 s.myDomNo fun x => { x with marker := v }).markerMsg s.cur.1 s.myDomNo q

theorem State.raisedMsg_pay (v : W64) (q : Nat) : (s.raisedMsg v q).pay = .ctrl (.marker (s.myDom.band - 1) s.myDom.bRow s.cur.1
    s.myDom.stage.toNat ((s.myDom.wave.toNat + 2 ^ 32 - s.myDom.firstWave) % 2 ^ 32) s.myDom.step.toNat v.toNat) := by
  have hdom : (s.modDom s.cur.1 s.myDomNo fun x => { x with marker := v }).dom s.cur.1 s.myDomNo = { s.myDom with marker
      := v } :=
    State.dom_modDom_self ..
  unfold State.raisedMsg State.markerMsg
  rw [hdom]
  rfl

/-- A MARKER that rises: the domain holds it, and in a band it goes to both stations of the row. -/
theorem State.raiseMarker_above (h : s.myDom.marker.toNat < v.toNat) :
    s.raiseMarker s.cur.1 s.myDomNo v = (s.modDom s.cur.1 s.myDomNo fun x => { x with marker := v }).posted
      (if s.myDom.band = 0 then []
      else [s.cur.1 / 64, 32 + s.cur.1 / 64].map fun q => .meshRoute (s.nodeOf s.cur.1) (s.raisedMsg v q)) := by
  have hdom : (s.modDom s.cur.1 s.myDomNo fun x => { x with marker := v }).dom s.cur.1 s.myDomNo = { s.myDom with marker
      := v } :=
    State.dom_modDom_self ..
  have hraise : s.raiseMarker s.cur.1 s.myDomNo v =
      (s.modDom s.cur.1 s.myDomNo fun x => { x with marker := v }).signalMarker s.cur.1 s.myDomNo := if_pos h
  rw [hraise]
  by_cases hb : s.myDom.band = 0
  · rw [if_pos hb, State.posted_nil]
    exact if_pos (by rw [hdom]; exact hb)
  · rw [if_neg hb, State.signalMarker_of_band (by rw [hdom]; exact hb)]
    rfl

/-- Settles O26, by what a MARKER that rises changes and sends. A MARKER is kept for each domain of a tile (log 149), and the
matrix commands of the thread are among its prior accesses (log 117). -/
theorem markers : Obligations.Markers := by
  intro s g a imm h m dm
  rw [mark_spec h]
  refine ⟨fun hprior => by rw [hprior]; rfl, fun hprior => ?_⟩
  rw [if_pos hprior]
  refine ⟨fun hlow => ?_, fun hrise => ?_⟩
  · rw [State.raiseMarker_below (show m.toNat ≤ s.myDom.marker.toNat from hlow)]
  rw [State.raiseMarker_above hrise, State.advance_posted]
  obtain ⟨hregs, hpc, hrun, hsys, hothers, hflight, hdom⟩ := State.modDom_retired (State.onlyStores_refl s) fun x =>
    { x with marker := m }
  have hmem := State.sameMemory_of_stores (s := s) (t := (s.modDom s.cur.1 s.myDomNo fun x => { x with marker := m
      }).advance) rfl
  generalize (s.modDom s.cur.1 s.myDomNo fun x => { x with marker := m }).advance = t at *
  refine ⟨_, rfl, hdom, hregs, hpc, hrun, hmem, hsys, hothers, fun hb => ?_, fun hb => ?_⟩
  · rw [if_pos hb, State.posted_nil]
    exact hflight
  · refine ⟨s.raisedMsg m (s.cur.1 / 64), s.raisedMsg m (32 + s.cur.1 / 64), ?_, rfl, rfl, fun c hc => ?_⟩
    · rw [if_neg hb, State.posted_flight, hflight]
      rfl
    simp only [List.mem_cons, List.not_mem_nil, or_false] at hc
    obtain rfl | rfl := hc
    · exact ⟨rfl, rfl, State.raisedMsg_pay ..⟩
    · exact ⟨rfl, rfl, State.raisedMsg_pay ..⟩

end Sys2Proof.Machine

end

/-! ## A store from another tile to a code area -/

section

namespace Sys2Proof.Machine

/-- Tile 0 has a domain of job 1 whose image has 4,096 bytes, with every right for other tiles. -/
def codeOpen : State :=
  State.reset.modDom 0 0 fun d =>
    { d with present := true, pid := 1, lsSize := 0xC00000, codeSize := 0x1000, permMask := 0xF }

/-- A store of one byte to the first byte of the code area. -/
def codeByte : Elem := ⟨0, 0, BitVec.ofNat 64 (lsAddr 0 0xBFD000), 1, 5, 0⟩

/-- The store's access, by thread 0 of tile 1. -/
def codeStore : Access :=
  { kind := .write, elems := [codeByte], iss := ⟨1, 0, 0, 0, 0, 0, false⟩, phys := false, cache := 0, shr := false, dev
      := false,
    retried := false }

def codeStoreRequest : Msg := blockMsg (.router 2 0) (.router 1 0) 0x02 1 0 (.access codeStore)

theorem codeStore_reaches : codeOpen.reachesTile codeStoreRequest codeStore codeByte 0 0xBFD000 :=
  ⟨rfl, rfl, rfl, by decide, by decide, by decide, by decide, by decide, rfl, rfl⟩

theorem codeStore_admitted : codeOpen.admitsAt codeStoreRequest 0 0xBFD000 1 1 :=
  ⟨rfl, 0, rfl, rfl, by decide, by decide⟩

/-- R196: the store is refused, and the byte stays as it was. -/
theorem codeStore_refused :
    completes (.writeRequest codeStoreRequest) codeOpen fun t => t.byte (lsAddr 0 0xBFD000) = 0 :=
  ⟨_, rfl, rfl⟩

/-- Refutes O35: its clause for stores from other tiles leaves the code area in, to which R196 lets no other tile write; the
model answers such a store with status 0x06, and no byte changes. -/
theorem not_requestsAtTheirHomes : ¬ Obligations.RequestsAtTheirHomes := by
  unfold Obligations.RequestsAtTheirHomes
  intro h
  obtain ⟨t, ht, hbyte⟩ := codeStore_refused
  obtain ⟨-, hwrite, -⟩ := (h codeOpen codeStoreRequest codeStore codeByte 0 0xBFD000 0 .add).1 codeStore_reaches
  obtain ⟨u, hu, -, ⟨hstored, -⟩, -⟩ := hwrite codeStore_admitted rfl
  obtain rfl : t = u := Host.Outcome.next.inj (ht.symm.trans hu)
  exact absurd (hbyte.symm.trans (hstored 0 Nat.one_pos)) (by decide)

end Sys2Proof.Machine

end

/-! ## The acknowledgement of a store that went to another module -/

section

namespace Sys2Proof.Machine

/-- A store of 8 bytes by thread 0 of tile 0, which a translation station has sent to module 1 (R76). -/
def farStore : Access :=
  { kind := .write, elems := [⟨0, 0x100, 2 ^ 47, 8, 5, 0⟩], iss := ⟨0, 0, 0, 0, 0, 0, false⟩, phys := true, cache := 0,
      shr := false,
    dev := false, retried := false }

/-- The store's access, as its thread keeps it. -/
def farOutst : Outst := ⟨0, 0x100, 8, false⟩

/-- The thread's only access is the store, which is on its way to the other module. -/
def storeAbroad : State :=
  { (State.reset.modDom 0 0 fun d => { d with present := true, pid := 1, thrCount := 1 }).modThread 0 0 fun t =>
      { t with outst := [farOutst] } with
    gone := [farStore] }

def farReply : Reply := ⟨0, 0, 0x100, [], farStore.iss⟩

/-- The acknowledgement, from the tile of module 1 at router (1, 0). -/
def farAck : Msg :=
  { blockMsg (.router 1 0) (.router 1 0) 0x09 1 0 (.reply farReply) with away := some ⟨1, 0, none⟩ }

/-- R76: the store is back, and is no longer among the accesses that have gone to another module. -/
theorem farAck_taken : completes (.writeAcknowledgement farAck) storeAbroad fun t => t.gone = [] := ⟨_, rfl, rfl⟩

/-- Refutes O36: its clause for acknowledgements lets nothing but the thread change, where the acknowledgement of a store that
went to another module also takes the store off the accesses that an invalidation waits for (R76). -/
theorem not_repliesAtRequesters : ¬ Obligations.RepliesAtRequesters := by
  unfold Obligations.RepliesAtRequesters
  intro h
  obtain ⟨t, ht, hgone⟩ := farAck_taken
  obtain ⟨-, hack⟩ := h storeAbroad farAck farReply farOutst 0 rfl rfl rfl rfl rfl
  have htaken := hack 1 0 rfl rfl rfl rfl
  obtain rfl := Host.Outcome.next.inj (ht.symm.trans htaken)
  exact List.cons_ne_nil farStore [] hgone

end Sys2Proof.Machine

end

/-! ## A kind-4 occurrence whose bytes another module holds -/

section

namespace Sys2Proof.Machine

/-- A band of job 0 on tile 0 alone. -/
def loneBand : Band :=
  { live := true, region := 0, addr := 0, rcb := 0, stride := 0, edges := [], step := 0, started := true, startAt := 0,
    stopWave := none, readyT := [], commits := 0, progress := (0, 0), overrun := false, holding := false, finished := false,
    replay := none, again := [] }

/-- A timetable entry of kind 4: one byte from virtual address 0 to the last byte of the local store. -/
def lastByteEntry : BitVec 256 := BitVec.ofNat 256 (4 + 0xBFFFFF * 2 ^ 72 + 2 ^ 96)

def lastByteOcc : Occ := ⟨0, 0, 0, 0, lastByteEntry, 64, 1, 0⟩

/-- The row's west station: the occurrence is under way, virtual address 0 is byte 0 of module 1, and what the station notes as
the answer of that module to its read of one byte has two. -/
def overlongStation : Station :=
  { Station.reset with
    cursors := [⟨0, 0, 0, 0, 0, 0, false, none, 0, 1, 0, [lastByteEntry], [(0, 0)], [], [], [], false⟩],
    xlat := [⟨0, 0, false, 0x800000000014, 0⟩],
    far := [⟨false, 0, 2 ^ 47, 1, 0, 0, false, some (some [1, 2])⟩] }

def overlongFetch : State :=
  { (State.reset.modDom 0 0 fun d => { d with present := true, band := 1, lsSize := 0xC00000 }).setStation 0
      overlongStation with
    bands := [(0, some loneBand)] }

theorem overlongFetch_occLive : overlongFetch.occLive lastByteOcc = some (loneBand, 0) := by
  decide +kernel

/-- The occurrence's read for the tile. -/
def overlongRead : State × GRes :=
  overlongFetch.gread 0 loneBand.pid true (colVa lastByteOcc (0 % 64 - loneBand.col0)) (lastByteOcc.entry.extractLsb' 96
      32).toNat

theorem overlongRead_bytes : overlongRead.2 = .ok [1, 2] := by decide +kernel

theorem overlongRead_eq : overlongRead = (overlongRead.1, .ok [1, 2]) :=
  Prod.mk.eta.symm.trans (congrArg (Prod.mk overlongRead.1) overlongRead_bytes)

/-- The second byte lies beyond the domain's allotment, and is not written. -/
theorem overlongFetch_fetched : completes (.kind4Fetch lastByteOcc) overlongFetch fun t => t.byte (lsAddr 0 0xC00000) = 0 :=
  ⟨_, rfl, by decide +kernel⟩

/-- Refutes O41: its clause for kind 4 has every byte that was read written, as many as they are, and has no premise that they
are no more than the entry's length; what a station notes as another module's answer may be longer, and the model writes
nothing beyond the domain's allotment. -/
theorem not_timetable : ¬ Obligations.Timetable := by
  unfold Obligations.Timetable
  intro h
  obtain ⟨t, ht, hbyte⟩ := overlongFetch_fetched
  obtain ⟨-, hocc, -⟩ := h overlongFetch overlongRead.1 0 0 0 0 0 0 0 0 0 loneBand lastByteOcc [1, 2]
  obtain ⟨-, -, -, hfetch, -⟩ := hocc overlongFetch_occLive
  obtain ⟨hplain, -⟩ := hfetch (by decide +kernel) (by decide +kernel) (by decide +kernel) (by decide +kernel) overlongRead_eq
  obtain ⟨u, hu, -, hwritten⟩ := hplain (by decide +kernel)
  obtain rfl : t = u := Host.Outcome.next.inj (ht.symm.trans hu)
  exact absurd (hbyte.symm.trans (hwritten 1 (by decide))) (by decide)

end Sys2Proof.Machine

end

/-! ## Engines, stream ports and matrix commands -/

section

namespace Sys2Proof.Table

variable {α : Type}

theorem del_put (t : Tbl α) (k : Nat) (v : α) : del (put t k v) k = del t k := by
  induction t with
  | nil => simp [put, del]
  | cons e t ih =>
    obtain ⟨k', v'⟩ := e
    by_cases hlt : k < k'
    · simp [put, hlt, del]
    · by_cases hk : k' = k
      · simp [put, del, hk, ih]
      · simp [put, hlt, del, hk, ih]

theorem del_del (t : Tbl α) (k : Nat) : del (del t k) k = del t k := by
  induction t with
  | nil => rfl
  | cons e t ih =>
    obtain ⟨k', v'⟩ := e
    by_cases hk : k' = k <;> simp [del, hk, ih]

/-- The second of two writes at a key stands. -/
theorem set_set [DecidableEq α] (d : α) (t : Tbl α) (k : Nat) (v w : α) : set d (set d t k v) k w = set d t k w := by
  have hdel : del (set d t k v) k = del t k := by
    unfold set
    split
    · exact del_del t k
    · rw [del_put, del_del]
  rw [set, hdel, set]

end Sys2Proof.Table

namespace Sys2Proof.Machine

open Bits

variable {s t u : State} {T d n : Nat}

/-! ### Matrix commands that finish (R291, R301, R344) -/

theorem State.modTile_modTile (s : State) (T : Nat) (f g : Tile → Tile) :
    (s.modTile T f).modTile T g = s.modTile T fun x => g (f x) := by
  rw [State.modTile, State.tile_modTile_self]
  unfold State.modTile State.setTile
  rw [Table.set_set]

theorem State.setDom_again (s : State) (T d : Nat) (v : Dom) : (s.setDom T d v).setDom T d v = s.setDom T d v := by
  unfold State.setDom
  rw [State.modTile_modTile]
  simp only [Table.set_set]

theorem State.setDom_setThread_again (s : State) (T d h : Nat) (v : Dom) (x : Thread) :
    ((s.setDom T d v).setThread T h x).setDom T d v = (s.setDom T d v).setThread T h x := by
  unfold State.setDom State.setThread
  simp only [State.modTile_modTile, Table.set_set]

/-- With no command queued and no release waiting, the end of a command brings nothing else about. -/
theorem State.runHead_idle {v : Dom} (hd : u.dom T d = v) (hm : v.mq = []) (hw : v.wrels = []) :
    (u.runWrels T d).runHead T d 17 = u.setDom T d v := by
  have hwrels : u.runWrels T d = u.setDom T d v := by
    have hsame : { v with wrels := v.wrels.filter fun w => v.mq.any fun c => !c.fini && c.ticket < w.2 && slotRead c.ins == some w.1 } =
        v := by
      rw [hw, List.filter_nil, ← hw]
    unfold State.runWrels State.modDom
    dsimp only
    rw [hd, hsame, hw]
    rfl
  rw [hwrels, State.runHead, State.dom_setDom_self, hm]

/-- What the completion of a domain's only command leaves to do once the command is out of the queue. -/
def State.commandDone (s : State) (T : Nat) (c : MCmd) (u : State) : State :=
  if s.awaits T c then (if c.lost then u.trap T c.hw 0x13 c.pc else u.finish T c.hw (s.drainRegs T c))
  else if c.lost then u.modThread T c.hw fun t => { t with mfail := t.mfail ++ [c.pc] }
  else u

/-- The domain's record once its command queue is empty. -/
def State.drained (s : State) (T d : Nat) : Dom := { s.dom T d with mq := [] }

theorem matrixCommandComplete_spec {c : MCmd} (hm : (s.dom T d).mq = [c]) : exec (.matrixCommandComplete T d) s = .next (
    if c.fini then ((s.commandDone T c (s.setDom T d (s.drained T d))).runWrels T d).runHead T d 17 else s) := by
  rw [exec_matrixCommandComplete, execMatrixCommandComplete, hm]
  dsimp only
  cases c.fini
  · rfl
  · rfl

theorem State.awaits_eq_false {c : MCmd} (h : ∀ y, (s.thread T c.hw).run ≠ .parked (.drainv c.ticket) y) : s.awaits T c = false := by
  unfold State.awaits
  split
  next k y hrun => exact beq_eq_false_iff_ne.2 fun e => h y (e ▸ hrun)
  next => rfl

theorem State.awaits_eq_true {c : MCmd} {y : Nat} (h : (s.thread T c.hw).run = .parked (.drainv c.ticket) y) :
    s.awaits T c = true := by
  rw [State.awaits, h]
  exact beq_self_eq_true _

/-- A vector register after registers from `r` on have been written, each from its position. -/
theorem Thread.rv_foldl_wv (r : Nat) (f : Nat → BitVec 2048) (n : Nat) (x : Thread) {i : Nat} (hi : i < n) :
    ((List.range n).foldl (fun x i => x.wv (r + i) (f i)) x).rv (r + i) = f i := by
  induction n with
  | zero => omega
  | succ n ih =>
    rw [List.range_succ, List.foldl_append, List.foldl_cons, List.foldl_nil, Thread.rv, Thread.wv]
    dsimp only
    rw [Table.get_set]
    by_cases h : i = n
    · rw [if_pos (by rw [h]), h]
    · rw [if_neg (by omega)]
      exact ih (by omega)

theorem ofBytes_drop (l : List Byte) (k : Nat) : ofBytes (l.drop k) = ofBytes l / 256 ^ k := by
  induction k generalizing l with
  | zero => simp
  | succ k ih =>
    cases l with
    | nil => simp [ofBytes]
    | cons b l =>
      have hb : b.toNat < 256 := b.isLt
      rw [List.drop_succ_cons, ih, ofBytes, Nat.pow_succ', ← Nat.div_div_eq_div_mul]
      congr 1
      omega

theorem ofBytes_take (l : List Byte) (k : Nat) : ofBytes (l.take k) = ofBytes l % 256 ^ k := by
  induction k generalizing l with
  | zero => simp [ofBytes, Nat.mod_one]
  | succ k ih =>
    cases l with
    | nil => simp [ofBytes]
    | cons b l =>
      have hb : b.toNat < 256 := b.isLt
      have hdiv : (b.toNat + 256 * ofBytes l) / 256 = ofBytes l := by omega
      rw [List.take_succ_cons, ofBytes, ih, ofBytes, Nat.pow_succ', Nat.mod_mul, hdiv]
      omega

/-- A lane of a row of 256 bytes. -/
theorem extractLsb'_ofBytes (l : List Byte) (i : Nat) {col : Nat} (hc : col < 64) :
    (BitVec.ofNat 2048 (ofBytes ((l.drop (256 * i)).take 256))).extractLsb' (32 * col) 32 =
      BitVec.ofNat 32 (ofBytes ((l.drop (256 * i + 4 * col)).take 4)) := by
  apply BitVec.eq_of_toNat_eq
  rw [BitVec.extractLsb'_toNat, BitVec.toNat_ofNat, BitVec.toNat_ofNat, ofBytes_take, ofBytes_take, ofBytes_drop, ofBytes_drop]
  have hpow (k : Nat) : (256 : Nat) ^ k = 2 ^ (8 * k) := (Nat.pow_mul 2 8 k).symm
  rw [hpow 256, hpow 4, Nat.mod_mod, Nat.mod_mod, Nat.pow_add, ← Nat.div_div_eq_div_mul, hpow (4 * col), Nat.shiftRight_eq_div_pow,
    show 8 * (4 * col) = 32 * col by omega, show 8 * 256 = 32 * col + (2048 - 32 * col) by omega, Nat.pow_add 2 (32 * col),
    Nat.mod_mul_right_div_self]
  exact Nat.mod_mod_of_dvd _ (Nat.pow_dvd_pow 2 (by omega))

theorem State.runHead_drained (hw : (s.dom T d).wrels = []) (hd : u.dom T d = s.drained T d) :
    (u.runWrels T d).runHead T d 17 = u.setDom T d (s.drained T d) := State.runHead_idle hd rfl hw

theorem State.stores_setDom (s : State) (T d : Nat) (v : Dom) : (s.setDom T d v).stores = s.stores := rfl
theorem State.stores_modThread (s : State) (T h : Nat) (f : Thread → Thread) : (s.modThread T h f).stores = s.stores := rfl

section

variable {c : MCmd} (hm : (s.dom T d).mq = [c])
include hm

theorem matrixCommandComplete_running (hf : c.fini = false) : exec (.matrixCommandComplete T d) s = .next s := by
  rw [matrixCommandComplete_spec hm, hf]
  rfl

variable (hw : (s.dom T d).wrels = [])
include hw

/-- A command for which no thread waits leaves the queue; a failed one is kept for its thread. -/
theorem matrixCommandComplete_unawaited (hf : c.fini = true)
    (hrun : ∀ y, (s.thread T c.hw).run ≠ .parked (.drainv c.ticket) y) :
    (c.lost = false → exec (.matrixCommandComplete T d) s = .next (s.setDom T d (s.drained T d))) ∧
    (c.lost = true → exec (.matrixCommandComplete T d) s = .next ((s.setDom T d (s.drained T d)).setThread T c.hw
      { s.thread T c.hw with mfail := (s.thread T c.hw).mfail ++ [c.pc] })) := by
  rw [matrixCommandComplete_spec hm, if_pos hf, State.commandDone, State.awaits_eq_false hrun, if_neg Bool.false_ne_true]
  refine ⟨fun hl => ?_, fun hl => ?_⟩
  · rw [hl, if_neg Bool.false_ne_true, State.runHead_drained hw (State.dom_setDom_self ..), State.setDom_again]
  · rw [hl, if_pos rfl, State.modThread, State.thread_setDom,
      State.runHead_drained hw ((State.dom_setThread ..).trans (State.dom_setDom_self ..)), State.setDom_setThread_again]

/-- The thread that waits for an `mdrainv` retires it with the rows that the array took. -/
theorem matrixCommandComplete_awaited {y : Nat} (hf : c.fini = true) (hl : c.lost = false)
    (hrun : (s.thread T c.hw).run = .parked (.drainv c.ticket) y) :
    completes (.matrixCommandComplete T d) s fun t => (t.thread T c.hw).run = .ready ∧
      (t.thread T c.hw).pc = (s.thread T c.hw).pc + 8 ∧ (t.dom T d).mq = [] ∧ s.sameMemory t ∧
      ∀ g ty sat v acc r cM1, c.ins = .mdrainv g ty sat v acc r cM1 → ∀ i < cM1.toNat + 1, ∀ col < 64,
        let reg := v.row.toNat * modeCols (s.tile T).mode + v.col.toNat + i
        ((t.thread T c.hw).rv reg).extractLsb' (32 * col) 32 =
          BitVec.ofNat 32 (ofBytes ((c.bytes.drop (256 * i + 4 * col)).take 4)) := by
  refine ⟨_, (matrixCommandComplete_spec hm).trans (congrArg _ (if_pos hf)), ?_⟩
  rw [State.commandDone, State.awaits_eq_true hrun, if_pos rfl, hl, if_neg Bool.false_ne_true, State.finish,
    State.runHead_drained hw ((State.dom_modThread ..).trans (State.dom_setDom_self ..))]
  have hstores : s.sameMemory (((s.setDom T d (s.drained T d)).modThread T c.hw fun t =>
      (s.drainRegs T c t).retire (s.setDom T d (s.drained T d)).tcycle (t.pc + 8)).setDom T d (s.drained T d)) :=
    State.sameMemory_of_stores ((State.stores_setDom ..).trans ((State.stores_modThread ..).trans (State.stores_setDom ..)))
  beta_reduce
  rw [State.thread_setDom, State.thread_modThread_self, State.thread_setDom, State.dom_setDom_self]
  refine ⟨rfl, rfl, rfl, hstores, fun g ty sat v acc r cM1 hins i hi col hc => ?_⟩
  have hregs (x : Thread) : (s.drainRegs T c x).rv (v.row.toNat * modeCols (s.tile T).mode + v.col.toNat + i) =
      BitVec.ofNat 2048 (ofBytes ((c.bytes.drop (256 * i)).take 256)) := by
    rw [State.drainRegs, hins]
    exact Thread.rv_foldl_wv _ (fun i => BitVec.ofNat 2048 (ofBytes ((c.bytes.drop (256 * i)).take 256))) _ x hi
  exact (congrArg (BitVec.extractLsb' (32 * col) 32) (hregs _)).trans (extractLsb'_ofBytes c.bytes i hc)

end

/-! ### What the end and the start of records leave alone (R104, R162) -/

/-- Data, owned lines and positions stand, and nothing under way is dropped. -/
structure State.keepsData (s t : State) : Prop where
  stores : t.stores = s.stores
  remap : t.remap = s.remap
  owned : t.owned = s.owned
  flight : s.flight ⊆ t.flight

namespace State.keepsData

theorem refl (s : State) : s.keepsData s := ⟨rfl, rfl, rfl, List.Subset.refl _⟩

theorem trans (h : s.keepsData t) (k : t.keepsData u) : s.keepsData u :=
  ⟨k.stores.trans h.stores, k.remap.trans h.remap, k.owned.trans h.owned, List.Subset.trans h.flight k.flight⟩

theorem foldl {β : Type} {g : State → β → State} (hg : ∀ (s : State) x, s.keepsData (g s x)) (l : List β) (s : State) :
    s.keepsData (l.foldl g s) := foldl_rel State.keepsData refl (fun _ _ _ => trans) g hg l s

theorem modTile (s : State) (T : Nat) (f : Tile → Tile) : s.keepsData (s.modTile T f) := ⟨rfl, rfl, rfl, List.Subset.refl _⟩

theorem modStation (s : State) (n : Nat) (f : Station → Station) : s.keepsData (s.modStation n f) :=
  ⟨rfl, rfl, rfl, List.Subset.refl _⟩

theorem post (s : State) (e : Event) : s.keepsData (s.post e) := ⟨rfl, rfl, rfl, List.subset_append_left _ _⟩

theorem takeRecord (s : State) (n e : Nat) (q : EngCmd × Nat × List Nat) : s.keepsData (s.takeRecord n e q) := by
  unfold State.takeRecord
  exact (modStation ..).trans (modStation ..)

/-- Starting what records may start at a station. -/
theorem kickQueue (n : Nat) (q : List (EngCmd × Nat × List Nat)) (s : State) : s.keepsData (s.kickQueue n q) := by
  induction q generalizing s with
  | nil => exact refl s
  | cons x q ih =>
    unfold State.kickQueue
    split
    · exact ((takeRecord ..).trans (post ..)).trans (ih _)
    · exact ih s

theorem recallL1 (s : State) (line : Nat) (keep : Option (Nat × Nat)) : s.keepsData (s.recallL1 line keep) := by
  refine foldl (fun u e => ?_) s.tiles s
  split
  · exact modTile ..
  · exact refl u

end State.keepsData

/-- The queue and the engines of a station stand, too. -/
structure State.keepsEngines (n : Nat) (s t : State) : Prop where
  data : s.keepsData t
  engines : (t.station n).engines = (s.station n).engines
  queue : (t.station n).queue = (s.station n).queue

namespace State.keepsEngines

theorem refl (s : State) : s.keepsEngines n s := ⟨.refl s, rfl, rfl⟩

theorem trans (h : s.keepsEngines n t) (k : t.keepsEngines n u) : s.keepsEngines n u :=
  ⟨h.data.trans k.data, k.engines.trans h.engines, k.queue.trans h.queue⟩

theorem of_stations (h : s.keepsData t) (hs : t.stations = s.stations) : s.keepsEngines n t := by
  have hn : t.station n = s.station n := congrArg (Table.get Station.reset · n) hs
  exact ⟨h, congrArg Station.engines hn, congrArg Station.queue hn⟩

theorem of_waiting (h : s.keepsData t) (hs : ∃ w, t.station n = { s.station n with waiting := w }) : s.keepsEngines n t := by
  obtain ⟨w, hs⟩ := hs
  exact ⟨h, by rw [hs], by rw [hs]⟩

theorem foldl {β : Type} {g : State → β → State} (hg : ∀ (s : State) x, s.keepsEngines n (g s x)) (l : List β) (s : State) :
    s.keepsEngines n (l.foldl g s) := foldl_rel (State.keepsEngines n) refl (fun _ _ _ => trans) g hg l s

theorem modTile (s : State) (T : Nat) (f : Tile → Tile) : s.keepsEngines n (s.modTile T f) :=
  of_stations (.modTile ..) rfl

theorem post (s : State) (e : Event) : s.keepsEngines n (s.post e) := of_stations (.post ..) rfl

theorem send (s : State) (m : Msg) : s.keepsEngines n (s.send m) := post ..

theorem notice (s : State) (src : Node) (pid code : Nat) (v : W64) : s.keepsEngines n (s.notice src pid code v) := send ..

/-- A change of a station that leaves its queue and its engines. -/
theorem modStation (s : State) (k : Nat) {f : Station → Station} (he : ∀ x, (f x).engines = x.engines)
    (hq : ∀ x, (f x).queue = x.queue) : s.keepsEngines n (s.modStation k f) := by
  refine ⟨.modStation .., ?_, ?_⟩ <;> rw [State.station_modStation] <;> split
  next h => rw [he, h]
  next => rfl
  next h => rw [hq, h]
  next => rfl

theorem wake (s : State) : s.keepsEngines n s.wake := by
  refine of_waiting ?_ (s.station_wake n)
  obtain ⟨st, sv, w, h⟩ := s.onlyWoken_wake
  rw [h]
  exact ⟨rfl, rfl, rfl, List.subset_append_left _ _⟩

theorem holdAt (s : State) (k : Nat) (e : Event) : s.keepsEngines n (s.holdAt k e) :=
  modStation s k (fun _ => rfl) fun _ => rfl

theorem dropHalves (s : State) (src : Node) (iss : Issuer) : s.keepsEngines n (s.dropHalves src iss) := by
  refine foldl (fun u e => ?_) s.tiles s
  split
  · exact refl u
  · exact modTile ..

theorem forgetRx (s : State) (src : Node) (tx : List TxStream) : s.keepsEngines n (s.forgetRx src tx) := by
  refine foldl (fun u x => ?_) tx s
  split
  · split
    · exact modTile ..
    · exact refl u
  · exact refl u

theorem releaseTx (s : State) (k stream : Nat) : s.keepsEngines n (s.releaseTx k stream) := by
  unfold State.releaseTx
  dsimp only
  split
  · exact refl s
  · exact (forgetRx ..).trans (modStation _ _ (fun _ => rfl) fun _ => rfl)

/-- A fault of a stream is noted or waits for a record, and is reported; no engine of a station changes. -/
theorem parkStream (s : State) (k : Nat) {f : EngFault} (hf : f.hold = false) : s.keepsEngines n (s.parkStream k f) := by
  unfold State.parkStream
  dsimp only
  split
  · split
    · exact holdAt ..
    · exact refl s
  · rw [hf, if_neg Bool.false_ne_true]
    refine (State.keepsEngines.trans ?_ (send ..)).trans (notice ..)
    exact modStation s k (fun _ => rfl) fun _ => rfl

end State.keepsEngines

/-! ### Engines (R162, R168) -/

theorem State.engine_setEngine (s : State) (n e : Nat) (r : Option EngRun) (e' : Nat) :
    (s.setEngine n e r).engine n e' = if e' = e then r else s.engine n e' := by
  rw [State.setEngine, State.engine, State.station_modStation_self]
  exact Table.get_set none _ e e' r

theorem State.keepsEngines.engine (h : s.keepsEngines n t) (e : Nat) : t.engine n e = s.engine n e :=
  congrArg (Table.get none · e) h.engines

/-- An engine that may start a record has none. -/
theorem State.freeEngine_spec {pid e : Nat} (h : s.freeEngine n pid = some e) : s.engine n e = none := by
  unfold State.freeEngine at h
  dsimp only at h
  split at h
  case h_2 => cases h
  case h_1 e0 _ =>
    obtain ⟨k, -, hk⟩ := List.exists_of_findSome?_eq_some h
    split at hk
    next hnone =>
      cases hk
      exact Option.isNone_iff_eq_none.1 hnone
    next => cases hk

/-- A record is accepted: it is in the station's queue, or an engine has begun it. -/
def State.accepted (s : State) (n : Nat) (q : EngCmd × Nat × List Nat) : Prop :=
  q ∈ (s.station n).queue ∨ ∃ e r, s.engine n e = some r ∧ r.cmd = q.1 ∧ r.pid = q.2.1 ∧ r.lines = q.2.2 ∧ r.pos = 0

/-- The run of a record that begins. -/
def newRun (q : EngCmd × Nat × List Nat) (tag : Nat) : EngRun :=
  { cmd := q.1, pid := q.2.1, lines := q.2.2, pos := 0, dels := [], sent := 0, acked := 0, tag := tag, fail := none, park := none }

theorem State.engine_takeRecord (s : State) (n e : Nat) (q : EngCmd × Nat × List Nat) (e' : Nat) :
    (s.takeRecord n e q).engine n e' = if e' = e then some (newRun q (s.station n).tag) else s.engine n e' := by
  refine (State.engine_setEngine ..).trans ?_
  rw [State.engine, State.station_modStation_self]
  rfl

theorem State.queue_takeRecord (s : State) (n e : Nat) (q : EngCmd × Nat × List Nat) :
    ((s.takeRecord n e q).station n).queue = (s.station n).queue.erase q := by
  unfold State.takeRecord State.setEngine
  rw [State.station_modStation_self, State.station_modStation_self]

theorem State.accepted_takeRecord {q x : EngCmd × Nat × List Nat} {e : Nat} (he : s.engine n e = none) (h : s.accepted n q) :
    (s.takeRecord n e x).accepted n q := by
  obtain hq | ⟨e', r, hr, hcmd⟩ := h
  · by_cases hx : q = x
    · exact Or.inr ⟨e, newRun x (s.station n).tag, by rw [State.engine_takeRecord, if_pos rfl], hx ▸ ⟨rfl, rfl, rfl, rfl⟩⟩
    · exact Or.inl (by rw [State.queue_takeRecord]; exact (List.mem_erase_of_ne hx).2 hq)
  · have hne : e' ≠ e := by
      rintro rfl
      rw [he] at hr
      cases hr
    exact Or.inr ⟨e', r, by rw [State.engine_takeRecord, if_neg hne]; exact hr, hcmd⟩

theorem State.accepted_post {q : EngCmd × Nat × List Nat} (h : s.accepted n q) (e : Event) : (s.post e).accepted n q := h

theorem State.accepted_kickQueue {q : EngCmd × Nat × List Nat} (l : List (EngCmd × Nat × List Nat)) (s : State)
    (h : s.accepted n q) : (s.kickQueue n l).accepted n q := by
  induction l generalizing s with
  | nil => exact h
  | cons x l ih =>
    unfold State.kickQueue
    split
    next e he => exact ih _ (State.accepted_post (State.accepted_takeRecord (State.freeEngine_spec he) h) _)
    next => exact ih s h

/-! ### Lines owned by engines (R104) -/

theorem State.isOwned_iff {x : Nat} : s.isOwned x = true ↔ Table.get 0 s.owned x ≠ 0 := bne_iff_ne

theorem State.isOwned_ownLines (ls : List (Nat × Nat)) (x : Nat) :
    (s.ownLines ls).isOwned x = true ↔ x ∈ ls.map (·.1) ∨ s.isOwned x = true := by
  rw [State.isOwned_iff, State.isOwned_iff]
  show Table.get 0 (ls.foldl (fun o l => Table.set 0 o l.1 (l.2 + 1)) s.owned) x ≠ 0 ↔ _
  generalize s.owned = o
  induction ls generalizing o with
  | nil => simp
  | cons l ls ih =>
    rw [List.foldl_cons, ih, Table.get_set, List.map_cons, List.mem_cons]
    by_cases h : x = l.1
    · simp [h]
    · simp [h]

theorem State.isOwned_releaseLines (ls : List Nat) (x : Nat) :
    (s.releaseLines ls).isOwned x = true ↔ x ∉ ls ∧ s.isOwned x = true := by
  have key (o : Tbl Nat) : Table.get 0 (ls.foldl (fun o l => Table.del o l) o) x ≠ 0 ↔ x ∉ ls ∧ Table.get 0 o x ≠ 0 := by
    induction ls generalizing o with
    | nil => simp
    | cons l ls ih =>
      rw [List.foldl_cons, ih]
      by_cases h : x = l
      · simp [h, Table.get_del_self]
      · simp [h, Table.get_del_ne]
  rw [State.isOwned_iff, State.isOwned_iff, ← key]
  unfold State.releaseLines
  split
  · rfl
  next l ls =>
    obtain ⟨_, _, _, h⟩ := State.onlyWoken_wake ({ s with owned := (l :: ls).foldl (fun o l => Table.del o l) s.owned } : State)
    rw [congrArg State.owned h]

theorem State.keepsData.isOwned (h : s.keepsData t) (x : Nat) : t.isOwned x = s.isOwned x := by
  rw [State.isOwned, State.isOwned, h.owned]

/-! ### Completion messages (R168) -/

theorem State.completed_of_mem {src dst : Node} {pid mkind status tag : Nat} {d0 d1 : W64}
    (h : .meshRoute src (completion src dst pid mkind status tag d0 d1) ∈ t.flight) :
    t.completed src dst pid mkind status tag d0 d1 := ⟨_, h, rfl, rfl, rfl, rfl, rfl, rfl⟩

/-! ### A record's command (R162, R383) -/

section

variable {m : Msg} {c : EngCmd}

/-- A record that is accepted: it owns its destination lines, enters the queue, and its streams are declared. -/
def State.accept (s : State) (n pid : Nat) (c : EngCmd) : State :=
  let ls := s.destLines n pid c
  let l := layoutOf c.desc
  let s1 := s.settle c.iss
  let dsts := if l.ordered ∧ (windowOf l.dst = .loc ∨ windowOf l.dst = .shr) then (s1.receivers l c).map s1.nodeOf else []
  ((ls.foldl (fun s x => s.recallL1 x.1 none) (s1.ownLines ls)).modStation n fun t =>
    { t with queue := t.queue ++ [(c, pid, ls.map (·.1))]
             txStreams := openStreams t.txStreams l.stream l.win dsts }).kickEngines n

/-- A record that is rejected: its completion message says why. -/
def State.reject (s : State) (n pid : Nat) (c : EngCmd) (code : Nat) : State :=
  (s.settle c.iss).send
    (completion (.station n) ((s.settle c.iss).nodeOf c.iss.tile) pid 0x02 code (layoutOf c.desc).tag 0 c.aux)

/-- What keeps an accepted record waiting: a line that another one owns, or a bucket that drains (R82, R104). -/
def State.linesHeld (s : State) (n pid : Nat) (c : EngCmd) : Bool :=
  (s.destLines n pid c).any fun x => s.isOwned x.1 || s.bucketShut x.2

theorem engineCommand_spec (hd : m.dst = .station n) (hp : m.pay = .eng c) : exec (.engineCommand m) s = .next (
    if 64 ≤ (s.station n).queue.length ∨ s.queueShare ≤ ((s.station n).queue.filter fun x => x.2.1 == m.pid.toNat).length then
      s.holdAt n (.engineCommand m)
    else if s.recordCode c false (s.station n).txStreams = 0 then
      if s.linesHeld n m.pid.toNat c then s.holdAt n (.engineCommand m) else s.accept n m.pid.toNat c
    else s.reject n m.pid.toNat c (s.recordCode c false (s.station n).txStreams)) := by
  rw [exec_engineCommand, execEngineCommand, hd, hp]
  dsimp only
  generalize s.recordCode c false (s.station n).txStreams = code
  by_cases hc : code = 0
  · subst hc
    rfl
  · rw [if_neg hc, if_neg hc]
    simp only [List.any_nil, Bool.false_eq_true, if_false, ne_eq, hc, not_false_eq_true, if_true]
    rfl

/-- A record that is rejected reaches no station's queue, and its job is told. -/
theorem State.reject_spec (n pid : Nat) (c : EngCmd) (code : Nat) :
    (s.reject n pid c code).stations = s.stations ∧ (s.reject n pid c code).owned = s.owned ∧
      s.sameMemory (s.reject n pid c code) ∧
      (s.reject n pid c code).completed (.station n) (s.nodeOf c.iss.tile) pid 2 code (layoutOf c.desc).tag 0 c.aux :=
  ⟨rfl, rfl, State.sameMemory_of_stores rfl, State.completed_of_mem (List.mem_append_right _ (List.mem_singleton.2 rfl))⟩

theorem State.accept_spec (n pid : Nat) (c : EngCmd) :
    let ls := (s.destLines n pid c).map (·.1)
    let t := s.accept n pid c
    s.sameMemory t ∧ t.accepted n (c, pid, ls) ∧ (∀ x ∈ ls, t.isOwned x = true) ∧ ∀ x, x ∉ ls → t.isOwned x = s.isOwned x := by
  intro ls t
  have hkept : ((s.settle c.iss).ownLines (s.destLines n pid c)).keepsData t := by
    have hrecalled := State.keepsData.foldl (g := fun s x => s.recallL1 x.1 none) (fun u x => .recallL1 u x.1 none)
      (s.destLines n pid c) ((s.settle c.iss).ownLines (s.destLines n pid c))
    exact hrecalled.trans ((State.keepsData.modStation ..).trans (.kickQueue ..))
  have howned (x : Nat) : t.isOwned x = true ↔ x ∈ ls ∨ s.isOwned x = true := by
    rw [hkept.isOwned, State.isOwned_ownLines]
    rfl
  refine ⟨State.sameMemory_of_stores hkept.stores, ?_, fun x hx => (howned x).2 (Or.inl hx), fun x hx => ?_⟩
  · refine State.accepted_kickQueue _ _ (Or.inl ?_)
    rw [State.station_modStation_self]
    exact List.mem_append_right _ (List.mem_singleton.2 rfl)
  · rw [Bool.eq_iff_iff, howned]
    exact or_iff_right hx

end

/-! ### A record that ends (R104, R168, R383) -/

theorem State.keepsData.nodeOf (h : s.keepsData t) (T : Nat) : t.nodeOf T = s.nodeOf T := by
  rw [State.nodeOf, State.physX, h.remap]
  rfl

theorem State.keepsEngines.releaseLines (n : Nat) (s : State) (ls : List Nat) :
    ∃ o, ({ s with owned := o } : State).keepsEngines n (s.releaseLines ls) := by
  cases ls with
  | nil => exact ⟨s.owned, .refl s⟩
  | cons l ls =>
    refine ⟨(l :: ls).foldl (fun o l => Table.del o l) s.owned, ?_⟩
    rw [State.releaseLines]
    exact .wake _

/-- With nothing queued, nothing starts. -/
theorem State.kickEngines_idle (h : (s.station n).queue = []) : s.kickEngines n = s := by
  rw [State.kickEngines, h, State.kickQueue]

/-- A record leaves its engine, and its ordered stream may close. -/
def State.leaveEngine (s : State) (n e : Nat) (r : EngRun) : State :=
  let l := layoutOf r.cmd.desc
  let s0 := (s.setEngine n e none).dropHalves (.station n) r.cmd.iss
  if l.ordered then s0.releaseTx n l.stream else s0

theorem State.keepsEngines.leaveEngine (n e : Nat) (r : EngRun) : (s.setEngine n e none).keepsEngines n (s.leaveEngine n e r) := by
  unfold State.leaveEngine
  dsimp only
  split
  · exact (dropHalves ..).trans (releaseTx ..)
  · exact dropHalves ..

/-- The job of a record that ends is told, where the record asks for it or has failed. -/
def State.reportEnd (s : State) (n : Nat) (r : EngRun) : State :=
  let l := layoutOf r.cmd.desc
  let x := endCode r.fail (l.units * unitBytes l.fmt)
  if l.mboxEn || r.fail.isSome then
    s.send (completion (.station n) (s.nodeOf r.cmd.iss.tile) r.pid 0x02 x.1 l.tag (BitVec.ofNat 64 x.2) r.cmd.aux)
  else s

theorem State.keepsEngines.reportEnd (n k : Nat) (r : EngRun) (s : State) : s.keepsEngines n (s.reportEnd k r) := by
  unfold State.reportEnd
  dsimp only
  split
  · exact send ..
  · exact refl s

/-- The end of a record: it leaves its engine, its lines are free, its job may be told, and the queue goes on. -/
def State.endRecord (s : State) (n e : Nat) (r : EngRun) : State :=
  (((s.leaveEngine n e r).releaseLines r.lines).reportEnd n r).kickEngines n

theorem transferComplete_spec {e : Nat} {r : EngRun} (hr : s.engine n e = some r) : exec (.transferComplete n e) s = .next (
    if (r.pos ≠ (layoutOf r.cmd.desc).units ∧ r.fail.isNone) ∨ r.acked < r.sent then s else s.endRecord n e r) := by
  rw [exec_transferComplete, execTransferComplete, hr, State.endRecord, State.reportEnd]
  dsimp only
  generalize r.fail = f
  cases f <;> rfl

theorem State.endRecord_spec (n e : Nat) (r : EngRun) :
    let l := layoutOf r.cmd.desc
    let t := s.endRecord n e r
    ((s.station n).queue = [] → t.engine n e = none) ∧ s.sameMemory t ∧
      (∀ x ∈ r.lines, t.isOwned x = false) ∧ (∀ x, x ∉ r.lines → t.isOwned x = s.isOwned x) ∧
      (l.mboxEn = true ∨ r.fail.isSome = true →
        let x := endCode r.fail (l.units * unitBytes l.fmt)
        t.completed (.station n) (s.nodeOf r.cmd.iss.tile) r.pid 2 x.1 l.tag (BitVec.ofNat 64 x.2) r.cmd.aux) := by
  intro l t
  have left := State.keepsEngines.leaveEngine (s := s) n e r
  obtain ⟨o, freed⟩ := State.keepsEngines.releaseLines n (s.leaveEngine n e r) r.lines
  have told := State.keepsEngines.reportEnd n n r ((s.leaveEngine n e r).releaseLines r.lines)
  have kicked : (((s.leaveEngine n e r).releaseLines r.lines).reportEnd n r).keepsData t := .kickQueue ..
  have howned (x : Nat) : t.isOwned x = true ↔ x ∉ r.lines ∧ s.isOwned x = true := by
    rw [(told.data.trans kicked).isOwned, State.isOwned_releaseLines, left.data.isOwned]
    rfl
  refine ⟨fun hq => ?_, ?_, fun x hx => ?_, fun x hx => ?_, fun hreport => ?_⟩
  · have hqueue : ((s.setEngine n e none).station n).queue = [] := by
      rw [State.setEngine, State.station_modStation_self]
      exact hq
    have hidle := told.queue.trans (freed.queue.trans (left.queue.trans hqueue))
    have hengine := (told.engine e).trans ((freed.engine e).trans (left.engine e))
    rw [show t = _ from State.kickEngines_idle hidle, hengine, State.engine_setEngine, if_pos rfl]
  · exact State.sameMemory_of_stores (kicked.stores.trans (told.data.stores.trans (freed.data.stores.trans left.data.stores)))
  · exact Bool.eq_false_iff.2 fun h => ((howned x).1 h).1 hx
  · rw [Bool.eq_iff_iff, howned]
    exact and_iff_right hx
  · have hnode : ((s.leaveEngine n e r).releaseLines r.lines).nodeOf r.cmd.iss.tile = s.nodeOf r.cmd.iss.tile :=
      (freed.data.nodeOf _).trans (left.data.nodeOf _)
    refine State.completed_of_mem (kicked.flight ?_)
    rw [State.reportEnd, if_pos (by simpa using hreport), hnode]
    exact List.mem_append_right _ (List.mem_singleton.2 rfl)

/-! ### A unit of a record (R165, R381, R383) -/

section

variable {pid tag i u : Nat} {c : EngCmd} {port third : Bool} {mine : List Nat} {a : W64} {b : List Byte} {s1 s2 : State}

theorem State.sideOf_global (h : windowOf a = .global) : s.sideOf c a = .glob (fld a 0 55) := by rw [State.sideOf, h]

section

variable (h : windowOf a = .global)
include h

theorem State.unitRead_ok (hr : s.greadAs n pid (c.iss.priv == 0) mine (fld a 0 55) u = (s1, .ok b)) :
    s.unitRead n pid c third mine a u = (s1, .none, b) := by
  rw [State.unitRead, State.sideOf_global h]
  simp only [hr]

theorem State.unitRead_lost {v : Nat} (hr : s.greadAs n pid (c.iss.priv == 0) mine (fld a 0 55) u = (s1, .lost v)) :
    s.unitRead n pid c third mine a u = (s1, .fail 0x20, []) := by
  rw [State.unitRead, State.sideOf_global h]
  simp only [hr]

theorem State.unitRead_fault {k v : Nat} (hr : s.greadAs n pid (c.iss.priv == 0) mine (fld a 0 55) u = (s1, .fault k v)) :
    s.unitRead n pid c third mine a u = (s1, .fault k v false, []) := by
  rw [State.unitRead, State.sideOf_global h]
  simp only [hr]

theorem State.unitRead_wait (hr : s.greadAs n pid (c.iss.priv == 0) mine (fld a 0 55) u = (s1, .wait)) :
    s.unitRead n pid c third mine a u = (s1, .wait, []) := by
  rw [State.unitRead, State.sideOf_global h]
  simp only [hr]

theorem State.unitWrite_ok {x : List Byte} (hw : s.gwrite n pid (c.iss.priv == 0) mine (fld a 0 55) b = (s1, .ok x)) :
    s.unitWrite n pid tag c port mine a b i = (s1, .none, ⟨[], 0⟩) := by
  rw [State.unitWrite, State.sideOf_global h]
  simp only [hw]

end

/-- One unit of a record is moved, or stops the record. -/
def State.moveUnit (s : State) (n pid tag : Nat) (c : EngCmd) (port : Bool) (mine : List Nat) (i : Nat) : Moving :=
  let l := layoutOf c.desc
  match s.unitRead n pid c (s.thirdParty l c) mine (addrAt l.src (l.offsets i).1) (unitBytes l.fmt) with
  | (s1, .none, b) =>
    match s1.unitWrite n pid tag c port mine (addrAt l.dst (l.offsets i).2) b i with
    | (s2, .none, p) => ⟨s2, i + 1, .none, p.dels, p.sent⟩
    | (s2, st, _) => ⟨s2, i, st, [], 0⟩
  | (s1, st, _) => ⟨s1, i, st, [], 0⟩

/-- With one unit left, that is what moves. -/
theorem State.moveUnits_last {k : Nat} (hk : 1 ≤ k) (hu : (layoutOf c.desc).units = i + 1) :
    s.moveUnits n pid tag c port mine i k = s.moveUnit n pid tag c port mine i := by
  have hone : Nat.min k ((layoutOf c.desc).units - i) = 1 := by rw [hu, Nat.add_sub_cancel_left]; exact Nat.min_eq_right hk
  unfold State.moveUnits State.moveUnit
  dsimp only
  rw [hone]
  simp only [List.range_succ, List.range_zero, List.nil_append, List.foldl_cons, List.foldl_nil, Nat.add_zero,
    Nat.zero_add]
  all_goals rfl

theorem State.moveUnit_moved {p : Put}
    (hr : s.unitRead n pid c (s.thirdParty (layoutOf c.desc) c) mine (addrAt (layoutOf c.desc).src ((layoutOf c.desc).offsets i).1)
      (unitBytes (layoutOf c.desc).fmt) = (s1, .none, b))
    (hw : s1.unitWrite n pid tag c port mine (addrAt (layoutOf c.desc).dst ((layoutOf c.desc).offsets i).2) b i = (s2, .none, p)) :
    s.moveUnit n pid tag c port mine i = ⟨s2, i + 1, .none, p.dels, p.sent⟩ := by
  unfold State.moveUnit
  simp only [hr, hw]

theorem State.moveUnit_stopped {st : Stop} (hst : st ≠ .none)
    (hr : s.unitRead n pid c (s.thirdParty (layoutOf c.desc) c) mine (addrAt (layoutOf c.desc).src ((layoutOf c.desc).offsets i).1)
      (unitBytes (layoutOf c.desc).fmt) = (s1, st, b)) :
    s.moveUnit n pid tag c port mine i = ⟨s1, i, st, [], 0⟩ := by
  unfold State.moveUnit
  cases st with
  | none => exact absurd rfl hst
  | _ => simp only [hr]

end

/-! ### An engine at its last unit -/

section

variable {e : Nat} {r : EngRun}

/-- The fault record of an engine's stream. -/
def EngRun.fault (r : EngRun) (n e cause va : Nat) (wr : Bool) : EngFault :=
  { va := BitVec.ofNat 64 va, engine := 0, unit := e % 4, write := wr, cause := cause - 0x0A, pid := r.pid, group := 0,
    hold := false, rseq := 0, id := (layoutOf r.cmd.desc).tag, tile := r.cmd.iss.tile, dom := r.cmd.iss.dom,
    resume := some (.blockTransferStart n e) }

/-- What an engine does with the outcome of its last unit, of which nothing is left to send. -/
def State.lastUnit (n e : Nat) (r : EngRun) (m : Moving) : State :=
  let r1 : EngRun := { r with pos := m.pos }
  match m.stop with
  | .none => (m.st.setEngine n e (some r1)).checkEngine n e
  | .fail st => (m.st.setEngine n e (some { r1 with fail := noteFail r1.fail st m.pos })).checkEngine n e
  | .wait => (m.st.setEngine n e (some r1)).holdAt n (.blockTransferStart n e)
  | .fault cause va wr => (m.st.setEngine n e (some { r1 with park := some 0 })).parkStream n (r.fault n e cause va wr)

theorem State.ownLines_nil (s : State) : s.ownLines [] = s := rfl

theorem State.sendDels_nil (s : State) (n : Nat) {r : EngRun} (h : (layoutOf r.cmd.desc).ordered = false) :
    s.sendDels n r [] = (s, 0) := by
  unfold State.sendDels
  dsimp only
  rw [h]
  rfl

theorem State.runEngine_last (hr : s.engine n e = some r) (hpark : r.park = none) (hdels : r.dels = [])
    (hu : (layoutOf r.cmd.desc).units = r.pos + 1) (ho : (layoutOf r.cmd.desc).ordered = false) {m : Moving}
    (hm : s.moveUnit n r.pid r.tag r.cmd false r.lines r.pos = m) (hd : m.dels = []) (hs : m.sent = 0)
    (hp : m.stop = .none → m.pos = r.pos + 1) : s.runEngine n e = State.lastUnit n e r m := by
  obtain ⟨cmd, pid, lines, pos, dels, sent, acked, tag, fail, park⟩ := r
  obtain ⟨s1, last, stop, noDels, noSent⟩ := m
  dsimp only at hpark hdels hu ho hm hp hd hs
  subst hpark hdels hd hs
  have hmove : s.moveUnits n pid tag cmd false lines pos (Nat.max 1 (64 / unitBytes (layoutOf cmd.desc).fmt)) =
      ⟨s1, last, stop, [], 0⟩ := (State.moveUnits_last (Nat.le_max_left ..) hu).trans hm
  have hend (h : stop = .none) : ¬ last < (layoutOf cmd.desc).units := by
    have := hp h
    omega
  have hall : ¬ (stop = .none ∧ last < (layoutOf cmd.desc).units) := fun h => hend h.1 h.2
  have hsend (x : EngRun) (hx : x.cmd = cmd) : s1.sendDels n x [] = (s1, 0) := State.sendDels_nil _ _ (hx ▸ ho)
  unfold State.runEngine State.lastUnit
  rw [hr]
  dsimp only
  rw [Option.isSome_none, if_neg Bool.false_ne_true, List.map_nil, List.append_nil, State.ownLines_nil, hmove, List.nil_append,
    show joinDels [] = [] from rfl, if_neg hall, hsend _ rfl]
  cases stop with
  | none => exact if_neg (hend rfl)
  | _ => rfl

theorem State.checkEngine_setEngine (h : (r.pos = (layoutOf r.cmd.desc).units ∨ r.fail.isSome) ∧ r.sent ≤ r.acked) :
    (u.setEngine n e (some r)).checkEngine n e = (u.setEngine n e (some r)).post (.transferComplete n e) := by
  unfold State.checkEngine
  rw [State.engine_setEngine, if_pos rfl]
  exact if_pos h

theorem blockTransferStart_runs (hr : s.engine n e = some r) (hp : r.pos < (layoutOf r.cmd.desc).units) (hf : r.fail = none) :
    exec (.blockTransferStart n e) s = .next (s.runEngine n e) := by
  rw [exec_blockTransferStart, execBlockTransferStart, hr]
  exact congrArg Host.Outcome.next (if_pos ⟨hp, by rw [hf]; rfl⟩)

theorem blockTransferStart_idle (h : s.engine n e = none) (hq : ∀ q ∈ (s.station n).queue, s.freeEngine n q.2.1 ≠ some e) :
    exec (.blockTransferStart n e) s = .next s := by
  have hnone : ((s.station n).queue.find? fun q => s.freeEngine n q.2.1 == some e) = none :=
    List.find?_eq_none.2 fun q hmem => by simpa using hq q hmem
  rw [exec_blockTransferStart, execBlockTransferStart, h, hnone]

/-- An engine with one unit left, from global memory to global memory, of a record that is not ordered. -/
structure EngRun.atLast (r : EngRun) : Prop where
  pos : r.pos + 1 = (layoutOf r.cmd.desc).units
  fail : r.fail = none
  park : r.park = none
  dels : r.dels = []
  src : windowOf (addrAt (layoutOf r.cmd.desc).src ((layoutOf r.cmd.desc).offsets r.pos).1) = .global
  dst : windowOf (addrAt (layoutOf r.cmd.desc).dst ((layoutOf r.cmd.desc).offsets r.pos).2) = .global
  ordered : (layoutOf r.cmd.desc).ordered = false

/-- The engine's read of its next unit. -/
def State.engineRead (s : State) (n : Nat) (r : EngRun) : State × GRes :=
  let l := layoutOf r.cmd.desc
  s.greadAs n r.pid (r.cmd.iss.priv == 0) r.lines (fld (addrAt l.src (l.offsets r.pos).1) 0 55) (unitBytes l.fmt)

/-- The engine's write of its next unit. -/
def State.engineWrite (s : State) (n : Nat) (r : EngRun) (b : List Byte) : State × GRes :=
  let l := layoutOf r.cmd.desc
  s.gwrite n r.pid (r.cmd.iss.priv == 0) r.lines (fld (addrAt l.dst (l.offsets r.pos).2) 0 55) b

section

variable (hr : s.engine n e = some r) (h : r.atLast)
include hr h

/-- The engine's next step is what becomes of its last unit. -/
theorem blockTransferStart_last {m : Moving} (hm : s.moveUnit n r.pid r.tag r.cmd false r.lines r.pos = m) (hd : m.dels = [])
    (hs : m.sent = 0) (hp : m.stop = .none → m.pos = r.pos + 1) :
    exec (.blockTransferStart n e) s = .next (State.lastUnit n e r m) := by
  rw [blockTransferStart_runs hr (by have := h.pos; omega) h.fail,
    State.runEngine_last hr h.park h.dels h.pos.symm h.ordered hm hd hs hp]

theorem blockTransferStart_moved {s1 s2 : State} {b x : List Byte} (hread : s.engineRead n r = (s1, .ok b))
    (hwrite : s1.engineWrite n r b = (s2, .ok x)) (hack : r.sent ≤ r.acked) :
    exec (.blockTransferStart n e) s = .next ((s2.setEngine n e
      (some { r with pos := (layoutOf r.cmd.desc).units, park := none })).post (.transferComplete n e)) := by
  rw [blockTransferStart_last hr h (State.moveUnit_moved (State.unitRead_ok h.src hread) (State.unitWrite_ok h.dst hwrite))
    rfl rfl fun _ => rfl, ← h.pos, ← h.park]
  exact congrArg Host.Outcome.next (State.checkEngine_setEngine ⟨Or.inl h.pos, hack⟩)

theorem blockTransferStart_lost {s1 : State} {v : Nat} (hread : s.engineRead n r = (s1, .lost v)) (hack : r.sent ≤ r.acked) :
    exec (.blockTransferStart n e) s = .next ((s1.setEngine n e
      (some { r with fail := some (0x20, r.pos), park := none })).post (.transferComplete n e)) := by
  rw [blockTransferStart_last hr h (State.moveUnit_stopped (by decide) (State.unitRead_lost h.src hread)) rfl rfl (by rintro ⟨⟩),
    ← h.park, State.lastUnit, h.fail]
  exact congrArg Host.Outcome.next (State.checkEngine_setEngine ⟨Or.inr rfl, hack⟩)

theorem blockTransferStart_waits {s1 : State} (hread : s.engineRead n r = (s1, .wait)) :
    exec (.blockTransferStart n e) s =
      .next ((s1.setEngine n e (some { r with park := none })).holdAt n (.blockTransferStart n e)) := by
  rw [blockTransferStart_last hr h (State.moveUnit_stopped (by decide) (State.unitRead_wait h.src hread)) rfl rfl (by rintro ⟨⟩),
    ← h.park]
  rfl

/-- A fault parks the stream at its unit (R381). -/
theorem blockTransferStart_faults {s1 : State} {k v : Nat} (hread : s.engineRead n r = (s1, .fault k v)) :
    completes (.blockTransferStart n e) s fun t => ∃ x, t.engine n e = some x ∧ x.pos = r.pos ∧ x.park = some 0 ∧ x.cmd = r.cmd := by
  refine ⟨_, blockTransferStart_last hr h (State.moveUnit_stopped (by rintro ⟨⟩) (State.unitRead_fault h.src hread)) rfl rfl
    (by rintro ⟨⟩), { r with pos := r.pos, park := some 0 }, ?_, rfl, rfl, rfl⟩
  refine (State.keepsEngines.engine (.parkStream _ n rfl) e).trans ?_
  rw [State.engine_setEngine, if_pos rfl]

end

end

/-! ### Stream ports (R172 to R174, R383) -/

section

variable {p : Nat} {x : Pattern} {q : SPort}

theorem State.recordCode_lt (s : State) (c : EngCmd) (isPort : Bool) (tx : List TxStream) : s.recordCode c isPort tx < 0x26 := by
  unfold State.recordCode
  dsimp only
  repeat' split
  all_goals decide

theorem endsPattern_code {code : Nat} (h : code < 0x26) (unit : Nat) : endsPattern (some (code, unit)) = true :=
  bne_iff_ne.2 (by omega)

/-- The pattern under way at a port has moved all its units, or has failed, and every message of it is acknowledged. -/
def SPort.ended (q : SPort) : Prop :=
  ∃ x, q.cur = some x ∧ ((layoutOf x.cmd.desc).units ≤ x.pos ∨ endsPattern x.fail = true) ∧ x.sent ≤ x.acked

theorem State.checkPort_setPort (h : q.ended) : (u.setPort T p q).checkPort T p = (u.setPort T p q).post (.patternComplete T p) := by
  obtain ⟨x, hc, hend⟩ := h
  unfold State.checkPort
  rw [State.port_setPort_self, hc]
  exact if_pos hend

/-- What the check of an ended port leaves. -/
theorem State.checkPort_ended (h : q.ended) (hs : u.stores = s.stores) (hf : u.flight = s.flight) :
    let t := (u.setPort T p q).checkPort T p
    s.sameMemory t ∧ t.flight = s.flight ++ [.patternComplete T p] ∧ t.port T p = q := by
  intro t
  have ht : t = _ := State.checkPort_setPort h
  rw [ht, ← hf]
  exact ⟨State.sameMemory_of_stores hs, rfl, State.port_setPort_self ..⟩

/-- A check of a port only posts. -/
theorem State.checkPort_posts (u : State) (T p : Nat) : ∃ w, u.checkPort T p = u.posted w := by
  unfold State.checkPort
  split
  · split
    · exact ⟨[_], rfl⟩
    · exact ⟨[], u.posted_nil.symm⟩
  · exact ⟨[], u.posted_nil.symm⟩

/-- Two states agree in all that the checks of a record read (R383). -/
structure State.agreesForRecords (s t : State) : Prop where
  tiles : t.tiles = s.tiles
  stations : t.stations = s.stations
  portSts : t.portSts = s.portSts
  routers : t.routers = s.routers
  regs : t.regs = s.regs
  groups : t.groups = s.groups
  appeals : t.appeals = s.appeals
  inval : t.inval = s.inval
  mcycle : t.mcycle = s.mcycle
  module : t.module = s.module
  remap : t.remap = s.remap

namespace State.agreesForRecords

theorem station (h : s.agreesForRecords t) (n : Nat) : t.station n = s.station n := congrArg (Table.get _ · n) h.stations

theorem portSt (h : s.agreesForRecords t) (n : Nat) : t.portSt n = s.portSt n := congrArg (Table.get _ · n) h.portSts

theorem router (h : s.agreesForRecords t) (n : Nat) : t.router n = s.router n := congrArg (Table.get _ · n) h.routers

theorem reg (h : s.agreesForRecords t) (a : Nat) : t.reg a = s.reg a := by
  rw [State.reg, State.reg, State.regRaw, State.regRaw, h.regs]

theorem fenceEnt (h : s.agreesForRecords t) (r : Router) (i : Nat) : t.fenceEnt r i = s.fenceEnt r i := by
  rw [State.fenceEnt, State.fenceEnt, h.appeals]

theorem regValue (h : s.agreesForRecords t) (a : Nat) : t.regValue a = s.regValue a := by
  rw [show @State.regValue = _ from by delta State.regValue; exact rfl]
  simp only [h.station, h.router, h.reg, h.groups, h.fenceEnt, h.inval, h.mcycle, h.module]

theorem regReach (h : s.agreesForRecords t) (d : Dom) (dn a : Nat) (v : W64) : t.regReach d dn a v = s.regReach d dn a v := by
  rw [show @State.regReach = _ from by delta State.regReach; exact rfl]
  simp only [h.station, h.portSt]

theorem devReachAs (h : s.agreesForRecords t) (d : Dom) (dn priv pa : Nat) (wr : Bool) (v : W64) :
    t.devReachAs d dn priv pa wr v = s.devReachAs d dn priv pa wr v := by
  unfold State.devReachAs
  simp only [h.regReach, h.regValue, h.module]

theorem dom (h : s.agreesForRecords t) (T d : Nat) : t.dom T d = s.dom T d := by
  unfold State.dom State.tile
  rw [h.tiles]

theorem badSide (h : s.agreesForRecords t) (l : Layout) (c : EngCmd) (isPort src : Bool) :
    t.badSide l c isPort src = s.badSide l c isPort src := by
  unfold State.badSide
  simp only [h.devReachAs, h.dom]

theorem receivers (h : s.agreesForRecords t) (l : Layout) (c : EngCmd) : t.receivers l c = s.receivers l c := by
  unfold State.receivers
  rw [h.dom]

theorem recordCode (h : s.agreesForRecords t) (c : EngCmd) (isPort : Bool) (tx : List TxStream) :
    t.recordCode c isPort tx = s.recordCode c isPort tx := by
  unfold State.recordCode State.mcastBad State.streamBad State.windowSum State.nodeOf State.physX
  simp only [h.badSide, h.receivers, h.dom, h.remap, h.stations, h.tiles]

end State.agreesForRecords

/-- A port whose next pattern starts, without the timer of the last one. -/
def State.portUntimed (s : State) (T p : Nat) : State :=
  { s with timers := s.timers.filter fun t => t.2 != .streamPatternStart T p }

/-- The next pattern of a port, whose record has an acceptance code: it takes the port, and runs or has failed. -/
def State.takePattern (s : State) (T p : Nat) (q : SPort) (x : Pattern) (rest : List Pattern) (code : Nat) : State :=
  let l := layoutOf x.cmd.desc
  let dsts := if code = 0 ∧ l.ordered then ((s.receivers l x.cmd).filter fun R => R != T).map s.nodeOf else []
  let s0 := s.modTile T fun t =>
    { t with tag := (t.tag + 1) % 65535, txStreams := openStreams t.txStreams l.stream l.win dsts }
  let x1 : Pattern := { x with
    tag := (s.tile T).tag
    pos := Nat.min (Table.get 0 q.resume x.cmd.iss.dom) l.units
    fail := if code = 0 then none else some (code, 0) }
  let s1 := s0.setPort T p { q with
    cur := some x1, queue := rest, resume := Table.erase (fun k _ => k == x.cmd.iss.dom) q.resume }
  if code = 0 then s1.runPort T p else s1.checkPort T p

theorem streamPatternStart_takes {rest : List Pattern} {code : Nat} (hcur : (s.port T p).cur = none)
    (hq : (s.port T p).queue = x :: rest)
    (hcode : (s.portUntimed T p).recordCode x.cmd true ((s.portUntimed T p).tile T).txStreams = code) :
    exec (.streamPatternStart T p) s = .next ((s.portUntimed T p).takePattern T p (s.port T p) x rest code) := by
  subst hcode
  rw [exec_streamPatternStart, execStreamPatternStart]
  generalize s.port T p = q at hcur hq ⊢
  obtain ⟨cur, queue, ticket, resume⟩ := q
  dsimp only at hcur hq
  subst hcur hq
  rfl

theorem State.takePattern_rejects {rest : List Pattern} {code : Nat} (h0 : code ≠ 0) (hc : endsPattern (some (code, 0)) = true)
    (hack : x.sent ≤ x.acked) :
    let t := s.takePattern T p q x rest code
    s.sameMemory t ∧ t.flight = s.flight ++ [.patternComplete T p] ∧ (t.port T p).queue = rest ∧
      ∃ y, (t.port T p).cur = some y ∧ y.fail = some (code, 0) := by
  unfold State.takePattern
  dsimp only
  rw [if_neg h0, if_neg h0]
  generalize hq : SPort.mk .. = q1
  have hended : q1.ended := by
    subst hq
    exact ⟨_, rfl, Or.inr hc, hack⟩
  obtain ⟨hm, hf, hp⟩ := State.checkPort_ended (T := T) (p := p) hended (u := s.modTile T _) rfl rfl
  subst hq
  rw [hp]
  exact ⟨hm, hf, rfl, _, rfl, rfl⟩

/-- A pattern whose record is bad ends at once (R173, R383). -/
theorem streamPatternStart_rejected {rest : List Pattern} {code : Nat} (hcur : (s.port T p).cur = none)
    (hq : (s.port T p).queue = x :: rest) (hcode : s.recordCode x.cmd true (s.tile T).txStreams = code) (h0 : code ≠ 0)
    (hack : x.sent ≤ x.acked) :
    completes (.streamPatternStart T p) s fun t => s.sameMemory t ∧ t.flight = s.flight ++ [.patternComplete T p] ∧
      (t.port T p).queue = rest ∧ ∃ y, (t.port T p).cur = some y ∧ y.fail = some (code, 0) := by
  have hlt : code < 0x26 := hcode ▸ s.recordCode_lt x.cmd true (s.tile T).txStreams
  have htimers : s.agreesForRecords (s.portUntimed T p) := ⟨rfl, rfl, rfl, rfl, rfl, rfl, rfl, rfl, rfl, rfl, rfl⟩
  exact ⟨_, streamPatternStart_takes hcur hq ((htimers.recordCode ..).trans hcode),
    State.takePattern_rejects (s := s.portUntimed T p) h0 (endsPattern_code hlt 0) hack⟩

/-! ### A pattern that ends (R172, R174, R383) -/

/-- The local stores, the domains and the ports of every tile stand, and what is under way. -/
structure State.keepsPorts (s t : State) : Prop where
  stores : t.stores = s.stores
  remap : t.remap = s.remap
  flight : t.flight = s.flight
  doms (T : Nat) : (t.tile T).doms = (s.tile T).doms
  ports (T : Nat) : (t.tile T).ports = (s.tile T).ports

namespace State.keepsPorts

theorem refl (s : State) : s.keepsPorts s := ⟨rfl, rfl, rfl, fun _ => rfl, fun _ => rfl⟩

theorem trans (h : s.keepsPorts t) (k : t.keepsPorts u) : s.keepsPorts u :=
  ⟨k.stores.trans h.stores, k.remap.trans h.remap, k.flight.trans h.flight, fun T => (k.doms T).trans (h.doms T),
    fun T => (k.ports T).trans (h.ports T)⟩

theorem foldl {β : Type} {g : State → β → State} (hg : ∀ (s : State) x, s.keepsPorts (g s x)) (l : List β) (s : State) :
    s.keepsPorts (l.foldl g s) := foldl_rel State.keepsPorts refl (fun _ _ _ => trans) g hg l s

/-- A change of a tile that leaves its domains and its ports. -/
theorem modTile (s : State) (T : Nat) {f : Tile → Tile} (hd : ∀ x, (f x).doms = x.doms) (hp : ∀ x, (f x).ports = x.ports) :
    s.keepsPorts (s.modTile T f) := by
  refine ⟨rfl, rfl, rfl, fun T' => ?_, fun T' => ?_⟩ <;> rw [State.tile_modTile] <;> split
  next h => rw [hd, h]
  next => rfl
  next h => rw [hp, h]
  next => rfl

theorem dropHalves (s : State) (src : Node) (iss : Issuer) : s.keepsPorts (s.dropHalves src iss) := by
  refine foldl (fun u e => ?_) s.tiles s
  split
  · exact refl u
  · exact modTile _ _ (fun _ => rfl) fun _ => rfl

theorem forgetRx (s : State) (src : Node) (tx : List TxStream) : s.keepsPorts (s.forgetRx src tx) := by
  refine foldl (fun u x => ?_) tx s
  split
  · split
    · exact modTile _ _ (fun _ => rfl) fun _ => rfl
    · exact refl u
  · exact refl u

theorem releasePortTx (s : State) (T stream : Nat) : s.keepsPorts (s.releasePortTx T stream) := by
  unfold State.releasePortTx
  dsimp only
  split
  · exact refl s
  · exact (forgetRx ..).trans (modTile _ _ (fun _ => rfl) fun _ => rfl)

theorem port (h : s.keepsPorts t) (T p : Nat) : t.port T p = s.port T p := congrArg (Table.get _ · p) (h.ports T)

theorem dom (h : s.keepsPorts t) (T d : Nat) : t.dom T d = s.dom T d := congrArg (Table.get _ · d) (h.doms T)

theorem nodeOf (h : s.keepsPorts t) (T : Nat) : t.nodeOf T = s.nodeOf T := by
  rw [State.nodeOf, State.physX, h.remap]
  rfl

end State.keepsPorts

/-- A pattern leaves its port, and its ordered stream may close. -/
def State.quitPort (s : State) (T p : Nat) (x : Pattern) : State :=
  let l := layoutOf x.cmd.desc
  let s1 := (s.setPort T p { s.port T p with cur := none }).dropHalves (s.nodeOf T) x.cmd.iss
  if l.ordered then s1.releasePortTx T l.stream else s1

theorem State.keepsPorts.quitPort (T p : Nat) (x : Pattern) :
    (s.setPort T p { s.port T p with cur := none }).keepsPorts (s.quitPort T p x) := by
  unfold State.quitPort
  dsimp only
  split
  · exact (dropHalves ..).trans (releasePortTx ..)
  · exact dropHalves ..

/-- The domain that bound a pattern is told of its end, where the record asks for it or has failed. -/
def State.reportPattern (s : State) (T : Nat) (x : Pattern) : State :=
  let l := layoutOf x.cmd.desc
  let y := endCode x.fail (l.units * unitBytes l.fmt)
  if l.mboxEn || x.fail.isSome then
    let m := completion (s.nodeOf T) (s.nodeOf T) (s.dom T x.cmd.iss.dom).pid 0x02 y.1 l.tag (BitVec.ofNat 64 y.2) x.cmd.aux
    s.send { m with sdom := BitVec.ofNat 2 x.cmd.iss.dom }
  else s

theorem State.reportPattern_posts (s : State) (T : Nat) (x : Pattern) : ∃ w, s.reportPattern T x = s.posted w := by
  unfold State.reportPattern
  dsimp only
  split
  · exact ⟨[_], rfl⟩
  · exact ⟨[], s.posted_nil.symm⟩

theorem State.reportPattern_told (s : State) (T : Nat) (h : (layoutOf x.cmd.desc).mboxEn = true ∨ x.fail.isSome = true) :
    let y := endCode x.fail ((layoutOf x.cmd.desc).units * unitBytes (layoutOf x.cmd.desc).fmt)
    (s.reportPattern T x).completed (s.nodeOf T) (s.nodeOf T) (s.dom T x.cmd.iss.dom).pid 2 y.1 (layoutOf x.cmd.desc).tag
      (BitVec.ofNat 64 y.2) x.cmd.aux := by
  intro y
  rw [State.reportPattern, if_pos (by simpa using h)]
  exact ⟨_, List.mem_append_right _ (List.mem_singleton.2 rfl), rfl, rfl, rfl, rfl, rfl, rfl⟩

theorem State.completed_posted {src dst : Node} {pid mkind status tag : Nat} {d0 d1 : W64} (w : List Event)
    (h : s.completed src dst pid mkind status tag d0 d1) : (s.posted w).completed src dst pid mkind status tag d0 d1 := by
  obtain ⟨m, hm, hfields⟩ := h
  exact ⟨m, List.mem_append_left _ hm, hfields⟩

/-- The port goes on with its next pattern. -/
def State.nextPattern (s : State) (T p : Nat) (q : SPort) : State :=
  if q.queue.isEmpty then s else s.post (.streamPatternStart T p)

theorem State.nextPattern_posts (s : State) (T p : Nat) (q : SPort) : ∃ w, s.nextPattern T p q = s.posted w := by
  unfold State.nextPattern
  split
  · exact ⟨[], s.posted_nil.symm⟩
  · exact ⟨[_], rfl⟩

/-- What a port that a pattern has left does: it tells the domain, and goes on. -/
theorem State.reportPattern_nextPattern (s : State) (T p : Nat) (x : Pattern) (q : SPort) :
    let l := layoutOf x.cmd.desc
    let t := (s.reportPattern T x).nextPattern T p q
    (∃ w, t = s.posted w) ∧ (q.queue ≠ [] → .streamPatternStart T p ∈ t.flight) ∧
      (l.mboxEn = true ∨ x.fail.isSome = true →
        let y := endCode x.fail (l.units * unitBytes l.fmt)
        t.completed (s.nodeOf T) (s.nodeOf T) (s.dom T x.cmd.iss.dom).pid 2 y.1 l.tag (BitVec.ofNat 64 y.2) x.cmd.aux) := by
  intro l t
  obtain ⟨v, hv⟩ := s.reportPattern_posts T x
  obtain ⟨w, hw⟩ := (s.reportPattern T x).nextPattern_posts T p q
  have ht : t = (s.reportPattern T x).posted w := hw
  refine ⟨⟨v ++ w, by rw [ht, hv, State.posted_posted]⟩, fun hq => ?_, fun hreport => ?_⟩
  · rw [show t = _ from if_neg (by simpa using hq)]
    exact List.mem_append_right _ (List.mem_singleton.2 rfl)
  · rw [ht]
    exact State.completed_posted w (s.reportPattern_told T hreport)

theorem patternComplete_spec (hx : (s.port T p).cur = some x) : exec (.patternComplete T p) s = .next (
    if (x.pos < (layoutOf x.cmd.desc).units ∧ !endsPattern x.fail) ∨ x.acked < x.sent then s
    else ((s.quitPort T p x).reportPattern T x).nextPattern T p (s.port T p)) := by
  rw [exec_patternComplete, execPatternComplete, State.quitPort]
  generalize s.port T p = q at hx ⊢
  obtain ⟨cur, queue, ticket, resume⟩ := q
  dsimp only at hx
  subst hx
  unfold State.reportPattern
  dsimp only
  generalize x.fail = f
  cases f <;> rfl

theorem patternComplete_ends (hx : (s.port T p).cur = some x) (hack : x.sent ≤ x.acked)
    (hend : (layoutOf x.cmd.desc).units ≤ x.pos ∨ endsPattern x.fail = true) :
    let l := layoutOf x.cmd.desc
    completes (.patternComplete T p) s fun t => t.port T p = { s.port T p with cur := none } ∧ s.sameMemory t ∧
      ((s.port T p).queue ≠ [] → .streamPatternStart T p ∈ t.flight) ∧
      (l.mboxEn = true ∨ x.fail.isSome = true →
        let y := endCode x.fail (l.units * unitBytes l.fmt)
        t.completed (s.nodeOf T) (s.nodeOf T) (s.dom T x.cmd.iss.dom).pid 2 y.1 l.tag (BitVec.ofNat 64 y.2) x.cmd.aux) := by
  intro l
  have hgo : ¬ ((x.pos < l.units ∧ !endsPattern x.fail) ∨ x.acked < x.sent) := by
    rintro (⟨hp, hf⟩ | ha)
    · exact hend.elim (Nat.not_le.2 hp) (by simpa using hf)
    · omega
  have left := State.keepsPorts.quitPort (s := s) T p x
  have hsame : s.sameMemory (s.quitPort T p x) := State.sameMemory_of_stores left.stores
  have hport : (s.quitPort T p x).port T p = { s.port T p with cur := none } := (left.port T p).trans (State.port_setPort_self ..)
  have hnode : (s.quitPort T p x).nodeOf T = s.nodeOf T := left.nodeOf T
  have hdom : (s.quitPort T p x).dom T x.cmd.iss.dom = s.dom T x.cmd.iss.dom := (left.dom ..).trans (State.dom_setPort ..)
  obtain ⟨⟨w, hw⟩, hnext, htold⟩ := (s.quitPort T p x).reportPattern_nextPattern T p x (s.port T p)
  rw [hnode, hdom] at htold
  refine ⟨_, (patternComplete_spec hx).trans (congrArg Host.Outcome.next (if_neg hgo)), ?_, ?_, hnext, htold⟩
  · rw [hw]
    exact hport
  · rw [hw]
    exact hsame

/-- A pattern that still moves, or has messages to be acknowledged, goes on. -/
theorem patternComplete_idle (hx : (s.port T p).cur = some x)
    (h : x.acked < x.sent ∨ (x.pos < (layoutOf x.cmd.desc).units ∧ endsPattern x.fail = false)) :
    exec (.patternComplete T p) s = .next s := by
  rw [patternComplete_spec hx, if_pos]
  exact h.symm.imp_left fun ⟨hp, hf⟩ => ⟨hp, by rw [hf]; rfl⟩

/-! ### The last unit of a pattern (R172, R173) -/

section

variable {R off : Nat} {b : List Byte}

theorem cutDels_one (u i : Nat) (h0 : 0 < b.length) (h1 : b.length < 1008) :
    cutDels u (joinDels [(R, off, b, i)]) = [(R, off, b, i)] := by
  have hchunk : chunks 1008 (b.length / 1008 + 1) b = [b] := by
    rw [Nat.div_eq_of_lt h1]
    cases b with
    | nil => exact absurd h0 (Nat.lt_irrefl 0)
    | cons y ys => exact congrArg (· :: []) (List.take_of_length_le h1.le)
  show cutDels u [(R, off, b, i)] = _
  simp [cutDels, hchunk]

/-- ARG of the message of one delivery: the place, and the events of its record (R169). -/
def Layout.bulkArg (l : Layout) (off : Nat) : Nat :=
  l.bar * 2 ^ 28 + (if l.barEn then 2 ^ 27 else 0) + (if l.full then 2 ^ 26 else 0) + off

theorem layoutOf_bar_lt (d : BitVec 512) : (layoutOf d).bar < 16 := BitVec.isLt _

theorem Layout.bulkArg_eq (l : Layout) (off : Nat) :
    l.bulkArg off = l.bar * 268435456 + l.barEn.toNat * 134217728 + l.full.toNat * 67108864 + off := by
  unfold Layout.bulkArg
  cases l.barEn <;> cases l.full <;> rfl

theorem Layout.bulkArg_bit {l : Layout} {i : Nat} {c : Bool} (hi : i < 32) (h : l.bulkArg off / 2 ^ i % 2 = c.toNat) :
    (BitVec.ofNat 32 (l.bulkArg off)).getLsbD i = c := by
  rw [BitVec.getLsbD_ofNat, decide_eq_true hi, Bool.true_and, Nat.testBit_eq_decide_div_mod_eq, h]
  cases c <;> rfl

section

variable {l : Layout} (ho : off < 2 ^ 24)

include ho

theorem Layout.bulkArg_full : (BitVec.ofNat 32 (l.bulkArg off)).getLsbD 26 = l.full := by
  have := l.full.toNat_lt
  refine Layout.bulkArg_bit (by decide) ?_
  rw [Layout.bulkArg_eq]
  omega

theorem Layout.bulkArg_barEn : (BitVec.ofNat 32 (l.bulkArg off)).getLsbD 27 = l.barEn := by
  have := l.full.toNat_lt
  have := l.barEn.toNat_lt
  refine Layout.bulkArg_bit (by decide) ?_
  rw [Layout.bulkArg_eq]
  omega

variable (hb : l.bar < 16)
include hb

theorem Layout.bulkArg_lt : l.bulkArg off < 2 ^ 32 := by
  have := l.barEn.toNat_lt
  have := l.full.toNat_lt
  rw [Layout.bulkArg_eq]
  omega

theorem Layout.bulkArg_off : ((BitVec.ofNat 32 (l.bulkArg off)).extractLsb' 0 24).toNat = off := by
  rw [BitVec.extractLsb'_toNat, BitVec.toNat_ofNat, Nat.mod_eq_of_lt (l.bulkArg_lt ho hb), Nat.shiftRight_zero, Layout.bulkArg_eq]
  omega

theorem Layout.bulkArg_bar : (BitVec.ofNat 32 (l.bulkArg off)).extractLsb' 28 4 = BitVec.ofNat 4 l.bar := by
  have := l.full.toNat_lt
  have := l.barEn.toNat_lt
  refine BitVec.eq_of_toNat_eq ?_
  rw [BitVec.extractLsb'_toNat, BitVec.toNat_ofNat, BitVec.toNat_ofNat, Nat.mod_eq_of_lt (l.bulkArg_lt ho hb),
    Nat.shiftRight_eq_div_pow, Layout.bulkArg_eq]
  omega

end

/-- The message of one delivery of a pattern. -/
def State.portMsg (s : State) (T : Nat) (x : Pattern) (R off : Nat) (b : List Byte) : Msg :=
  let l := layoutOf x.cmd.desc
  { blockMsg (s.nodeOf T) (s.nodeOf R) 0x18 (s.dom T x.cmd.iss.dom).pid (l.bulkArg off)
      (.bulk b x.pos x.cmd.iss (s.thirdParty l x.cmd)) with
    ordered := l.ordered, stream := BitVec.ofNat 8 l.stream, seq := BitVec.ofNat 16 x.tag }

theorem State.bulkMsgs_one (hm : (layoutOf x.cmd.desc).mcast = 0) (h0 : 0 < b.length) (h1 : b.length < 1008) :
    s.bulkMsgs (s.nodeOf T) (s.dom T x.cmd.iss.dom).pid x.tag x.cmd [(R, off, b, x.pos)] = [(R, s.portMsg T x R off b)] := by
  unfold State.bulkMsgs
  dsimp only
  rw [cutDels_one _ _ h0 h1, hm]
  rfl

theorem unitBytes_le (f : Nat) : unitBytes f ≤ 64 := by
  unfold unitBytes
  split <;> decide

theorem unitBytes_pos (f : Nat) : 0 < unitBytes f := by
  unfold unitBytes
  split <;> decide

theorem not_or_of_false {a : Bool} (ha : a = false) (b : Bool) : (!a || b) = true := by rw [ha]; rfl

/-- No window holds back a pattern that is not ordered. -/
theorem State.portNext_unordered (ho : (layoutOf x.cmd.desc).ordered = false) :
    s.portNext T x = some (s.portUnits T x (64 / unitBytes (layoutOf x.cmd.desc).fmt)) := if_pos (not_or_of_false ho _)

theorem State.portUnits_last {k : Nat} (hk : 1 ≤ k) (hu : (layoutOf x.cmd.desc).units = x.pos + 1) {m : Moving}
    (hm : s.moveUnit (T / 64) (s.dom T x.cmd.iss.dom).pid x.tag x.cmd true [] x.pos = m) :
    s.portUnits T x k = (m, m.st.bulkMsgs (m.st.nodeOf T) (s.dom T x.cmd.iss.dom).pid x.tag x.cmd m.dels) := by
  rw [← hm, ← State.moveUnits_last hk hu]
  rfl

theorem one_le_portUnits (f : Nat) : 1 ≤ 64 / unitBytes f :=
  (Nat.le_div_iff_mul_le (unitBytes_pos f)).2 (by simpa using unitBytes_le f)

/-- A unit for another tile that is the last one goes out, and the port may be done. -/
theorem State.runPort_last (hx : (s.port T p).cur = some x) (ho : (layoutOf x.cmd.desc).ordered = false)
    (hu : (layoutOf x.cmd.desc).units = x.pos + 1) (hR : R ≠ T) {k : Msg}
    (hn : s.portNext T x = some (⟨s, x.pos + 1, .none, [(R, off, b, x.pos)], 0⟩, [(R, k)])) :
    s.runPort T p = ((s.send k).setPort T p
      { s.port T p with cur := some { x with pos := x.pos + 1, sent := x.sent + 1 } }).checkPort T p := by
  unfold State.runPort
  rw [hx]
  dsimp only
  rw [hn]
  dsimp only
  have hmine : [(R, k)].filter (fun y => y.1 == T) = [] := by simp [hR]
  have haway : [(R, k)].filter (fun y => y.1 != T) = [(R, k)] := by simp [hR]
  rw [hmine, haway, ho, hu]
  have hlt : ¬ x.pos + 1 < x.pos + 1 := Nat.lt_irrefl _
  simp only [hlt, decide_false, Bool.false_and, Bool.false_eq_true, if_false, List.foldl_nil, List.foldl_cons]
  rfl

theorem streamPatternStart_runs (hx : (s.port T p).cur = some x) (hp : x.pos < (layoutOf x.cmd.desc).units) (hf : x.fail = none)
    (ht : ∀ y ∈ s.timers, y.2 ≠ .streamPatternStart T p) : exec (.streamPatternStart T p) s = .next (s.runPort T p) := by
  have hnone : (s.timers.any fun t => t.2 == .streamPatternStart T p) = false :=
    List.any_eq_false.2 fun y hy => by simpa using ht y hy
  have hgo : x.pos < (layoutOf x.cmd.desc).units ∧ !endsPattern x.fail ∧ !(s.timers.any fun t => t.2 == .streamPatternStart T p) :=
    ⟨hp, by rw [hf]; rfl, by rw [hnone]; rfl⟩
  rw [exec_streamPatternStart, execStreamPatternStart]
  generalize s.port T p = q at hx ⊢
  obtain ⟨cur, queue, ticket, resume⟩ := q
  dsimp only at hx
  subst hx
  exact congrArg Host.Outcome.next (if_pos hgo)

/-- A unit for another tile's local store is noted for delivery. -/
theorem State.unitWrite_tile {c : EngCmd} {a : W64} {pid tag i : Nat} {shr port : Bool} {mine : List Nat}
    (hs : s.sideOf c a = .tile R off shr) (hb : off + b.length ≤ 0xC00000) :
    s.unitWrite n pid tag c port mine a b i = (s, .none, ⟨[(R, off, b, i)], 0⟩) := by
  rw [State.unitWrite, hs]
  exact if_neg (Nat.not_lt.2 hb)

/-- A pattern with one unit left, not ordered and for one receiver, that is not waiting for its next tile cycle. -/
structure State.patternLast (s : State) (T p : Nat) (x : Pattern) : Prop where
  cur : (s.port T p).cur = some x
  fail : x.fail = none
  units : (layoutOf x.cmd.desc).units = x.pos + 1
  ordered : (layoutOf x.cmd.desc).ordered = false
  mcast : (layoutOf x.cmd.desc).mcast = 0
  due : ∀ y ∈ s.timers, y.2 ≠ .streamPatternStart T p

/-- The last unit of a pattern goes to its tile by one message of type 0x18, and counts as moved and as sent. -/
theorem streamPatternStart_moved (h : s.patternLast T p x) (hR : R ≠ T)
    (hread : s.unitRead (T / 64) (s.dom T x.cmd.iss.dom).pid x.cmd (s.thirdParty (layoutOf x.cmd.desc) x.cmd) []
      (addrAt (layoutOf x.cmd.desc).src ((layoutOf x.cmd.desc).offsets x.pos).1) (unitBytes (layoutOf x.cmd.desc).fmt) = (s, .none, b))
    (h0 : 0 < b.length) (h1 : b.length < 1008)
    (hside : s.sideOf x.cmd (addrAt (layoutOf x.cmd.desc).dst ((layoutOf x.cmd.desc).offsets x.pos).2) = .tile R off true)
    (hb : off + b.length ≤ 0xC00000) :
    completes (.streamPatternStart T p) s fun t => s.sameMemory t ∧
      t.port T p = { s.port T p with cur := some { x with pos := (layoutOf x.cmd.desc).units, sent := x.sent + 1 } } ∧
      .meshRoute (s.nodeOf T) (s.portMsg T x R off b) ∈ t.flight := by
  have hunit := State.moveUnit_moved (tag := x.tag) (port := true) hread (State.unitWrite_tile hside hb)
  have hnext := (State.portNext_unordered h.ordered).trans
    (congrArg some (State.portUnits_last (one_le_portUnits _) h.units hunit))
  rw [State.bulkMsgs_one h.mcast h0 h1] at hnext
  refine ⟨_, (streamPatternStart_runs h.cur (by rw [h.units]; omega) h.fail h.due).trans
    (congrArg Host.Outcome.next (State.runPort_last h.cur h.ordered h.units hR hnext)), ?_⟩
  obtain ⟨w, hw⟩ := State.checkPort_posts ((s.send (s.portMsg T x R off b)).setPort T p
    { s.port T p with cur := some { x with pos := x.pos + 1, sent := x.sent + 1 } }) T p
  rw [hw, h.units]
  exact ⟨State.sameMemory_of_stores rfl, State.port_setPort_self ..,
    List.mem_append_left _ (List.mem_append_right _ (List.mem_singleton.2 rfl))⟩

end

/-! ### Engines and ports -/

/-- The message of a pattern's last unit names the place, the events and the unit of its record (R169). -/
theorem State.portMsg_fields {off : Nat} (T : Nat) (x : Pattern) (R : Nat) (b : List Byte) (ho : off < 2 ^ 24) :
    let l := layoutOf x.cmd.desc
    let k := s.portMsg T x R off b
    k.typ = 0x18 ∧ k.dst = s.nodeOf R ∧ (k.arg.extractLsb' 0 24).toNat = off ∧ k.arg.getLsbD 26 = l.full ∧
      k.arg.getLsbD 27 = l.barEn ∧ k.arg.extractLsb' 28 4 = BitVec.ofNat 4 l.bar ∧
      k.pay = .bulk b x.pos x.cmd.iss (s.thirdParty l x.cmd) :=
  have hbar := layoutOf_bar_lt x.cmd.desc
  ⟨rfl, rfl, Layout.bulkArg_off ho hbar, Layout.bulkArg_full ho, Layout.bulkArg_barEn ho, Layout.bulkArg_bar ho hbar, rfl⟩

/-- What holds an accepted record back, as a statement. -/
theorem State.linesHeld_iff {pid : Nat} {c : EngCmd} : s.linesHeld n pid c = true ↔
    ∃ x ∈ s.destLines n pid c, s.isOwned x.1 = true ∨ s.bucketShut x.2 = true := by
  simp [State.linesHeld]

section

variable {m : Msg} {c : EngCmd} (hd : m.dst = .station n) (hp : m.pay = .eng c)
include hd hp

theorem engineCommand_full
    (h : 64 ≤ (s.station n).queue.length ∨ s.queueShare ≤ ((s.station n).queue.filter fun x => x.2.1 == m.pid.toNat).length) :
    exec (.engineCommand m) s = .next (s.holdAt n (.engineCommand m)) :=
  (engineCommand_spec hd hp).trans (congrArg Host.Outcome.next (if_pos h))

variable (hroom : (s.station n).queue.length < 64)
  (hshare : ((s.station n).queue.filter fun x => x.2.1 == m.pid.toNat).length < s.queueShare)
include hroom hshare

/-- With room in the queue, the record's own code and lines decide. -/
theorem engineCommand_room : exec (.engineCommand m) s = .next (
    if s.recordCode c false (s.station n).txStreams = 0 then
      if s.linesHeld n m.pid.toNat c then s.holdAt n (.engineCommand m) else s.accept n m.pid.toNat c
    else s.reject n m.pid.toNat c (s.recordCode c false (s.station n).txStreams)) :=
  (engineCommand_spec hd hp).trans (congrArg Host.Outcome.next
    (if_neg fun h => h.elim (Nat.not_le.2 hroom) (Nat.not_le.2 hshare)))

theorem engineCommand_rejected (hcode : s.recordCode c false (s.station n).txStreams ≠ 0) :
    exec (.engineCommand m) s = .next (s.reject n m.pid.toNat c (s.recordCode c false (s.station n).txStreams)) :=
  (engineCommand_room hd hp hroom hshare).trans (congrArg Host.Outcome.next (if_neg hcode))

theorem engineCommand_held (hcode : s.recordCode c false (s.station n).txStreams = 0) (hheld : s.linesHeld n m.pid.toNat c = true) :
    exec (.engineCommand m) s = .next (s.holdAt n (.engineCommand m)) := by
  rw [engineCommand_room hd hp hroom hshare, if_pos hcode, if_pos hheld]

theorem engineCommand_accepted (hcode : s.recordCode c false (s.station n).txStreams = 0)
    (hheld : ¬ s.linesHeld n m.pid.toNat c = true) : exec (.engineCommand m) s = .next (s.accept n m.pid.toNat c) := by
  rw [engineCommand_room hd hp hroom hshare, if_pos hcode, if_neg hheld]

end

section

variable {e : Nat} {r : EngRun} (hr : s.engine n e = some r)
include hr

/-- A record that still moves, or has messages to be acknowledged, goes on. -/
theorem transferComplete_idle (h : r.acked < r.sent ∨ (r.pos ≠ (layoutOf r.cmd.desc).units ∧ r.fail = none)) :
    exec (.transferComplete n e) s = .next s := by
  rw [transferComplete_spec hr, if_pos]
  exact h.symm.imp_left fun ⟨hp, hf⟩ => ⟨hp, by rw [hf]; rfl⟩

theorem transferComplete_ends (hack : r.sent ≤ r.acked) (hend : r.pos = (layoutOf r.cmd.desc).units ∨ r.fail.isSome = true) :
    exec (.transferComplete n e) s = .next (s.endRecord n e r) := by
  rw [transferComplete_spec hr, if_neg]
  rintro (⟨hp, hf⟩ | ha)
  · exact hend.elim hp (by simp [Option.isNone_iff_eq_none.1 hf])
  · omega

end

/-- Settles O42, by the outcome of each event: a record's command is held, rejected or accepted; an engine at its last unit moves
it, fails, parks or waits; a transfer and a pattern end once every message is acknowledged; the last unit of a pattern is one
message; a matrix command leaves the queue. That the owned lines are those that translate when the record is accepted, and that
a line owned by another record holds it, are the model's choices (log 41, log 157); the queue's share is R436. -/
theorem enginesAndPorts : Obligations.EnginesAndPorts := by
  unfold Obligations.EnginesAndPorts
  intro s s1 s2 m c n e T p d bytes st
  refine ⟨fun hd hp => ?_, blockTransferStart_idle, fun r hr => ?_, ?_, fun k hk hw => ?_⟩
  · refine ⟨engineCommand_full hd hp, fun hroom hshare => ⟨fun hcode => ?_, fun hcode hheld => ?_, fun hcode hfree => ?_⟩⟩
    · exact ⟨_, engineCommand_rejected hd hp hroom hshare hcode, State.reject_spec ..⟩
    · exact engineCommand_held hd hp hroom hshare hcode (State.linesHeld_iff.2 hheld)
    · exact ⟨_, engineCommand_accepted hd hp hroom hshare hcode fun h => hfree (State.linesHeld_iff.1 h), State.accept_spec ..⟩
  · refine ⟨fun hpos hfail hpark hdels hsrc hdst hord => ?_, transferComplete_idle hr,
      fun hack hend => ⟨_, transferComplete_ends hr hack hend, State.endRecord_spec ..⟩⟩
    have hlast : r.atLast := ⟨hpos, hfail, hpark, hdels, hsrc, hdst, hord⟩
    exact ⟨fun _ => blockTransferStart_moved hr hlast, fun _ => blockTransferStart_lost hr hlast,
      fun _ _ => blockTransferStart_faults hr hlast, blockTransferStart_waits hr hlast⟩
  · refine ⟨fun x rest hcur hq hack hcode => streamPatternStart_rejected hcur hq rfl hcode hack, ?_,
      fun x hx => ⟨patternComplete_idle hx, patternComplete_ends hx⟩⟩
    intro x o hx hf l pid R hunits hord hmcast hdue hR hread h0 h1 hside hb
    obtain ⟨t, ht, hsame, hport, hmsg⟩ := streamPatternStart_moved ⟨hx, hf, hunits, hord, hmcast, hdue⟩ hR hread h0 h1 hside hb
    exact ⟨t, ht, hsame, hport, _, hmsg, State.portMsg_fields T x R bytes (by omega)⟩
  · exact ⟨matrixCommandComplete_running hk, matrixCommandComplete_unawaited hk hw, fun _ => matrixCommandComplete_awaited hk hw⟩

end

end Sys2Proof.Machine

end

/-! ## A reduction context at a service tile's key -/

section

namespace Sys2Proof.Machine

/-- The state after reset, but for a context of group 0 and sequence 0 at the key of service tile 0. That key, 5000, is
what `nodeOfKey` takes for port station 1000, as the keys of nodes other than tiles, stations and port stations name no
node of theirs. -/
def serviceContext : State := State.reset.setRouter (nodeKey (.service 0)) { Router.reset with ctxs := [⟨0, 0, [], 0, 0⟩] }

/-- The service tile's own context counts as one that another node holds. -/
theorem serviceContext_holder : Node.port 1000 ∈ serviceContext.redHolders (.service 0) 0 0 := by decide +kernel

/-- The abort at the service tile drops the context first, and then finds no holder to tell. -/
theorem serviceContext_aborted : completes (.reductionAbort (.service 0) 0 0 false) serviceContext fun t => t.flight = [] :=
  ⟨_, rfl, by decide +kernel⟩

/-- Refutes O43: its clause for aborts has every node of `redHolders` told, for every node n, where it is meant for the nodes
that reduce. A service tile is none of them, and its key names another node; the model takes the holders once the node's own
context is gone, so that the context kept under that key is told to nobody. -/
theorem not_reductions : ¬ Obligations.Reductions := by
  unfold Obligations.Reductions
  intro h
  obtain ⟨t, ht, hflight⟩ := serviceContext_aborted
  obtain ⟨-, -, habort, -⟩ :=
    h serviceContext (.service 0) 0 0 0 0 0 (blockMsg (.service 0) (.service 0) 0x10 0 0 .none) [] false
  obtain ⟨u, hu, -, -, -, htold, -⟩ := habort (by decide +kernel) (by decide) (by decide)
  obtain rfl : t = u := Host.Outcome.next.inj (ht.symm.trans hu)
  obtain ⟨z, hz, -⟩ := htold _ serviceContext_holder
  exact List.not_mem_nil (hflight ▸ hz)

end Sys2Proof.Machine

end

/-! ## The array's last cycle: blocks of lists, accumulator tiles, stores one after another -/

section

namespace Sys2Proof.Bits

variable {α β : Type} {m : Nat}

/-- A list made of blocks of one length has the length of all of them. -/
theorem length_flatMap_blocks (l : List β) (f : β → List α) (hf : ∀ x ∈ l, (f x).length = m) :
    (l.flatMap f).length = m * l.length := by
  rw [List.length_flatMap, List.map_congr_left hf, List.map_const', List.sum_replicate_nat, Nat.mul_comm]

/-- Element k of block i of a list made of blocks of one length. -/
theorem getD_flatMap_blocks (l : List β) (f : β → List α) (hf : ∀ x ∈ l, (f x).length = m) (d : α) {i k : Nat}
    (hi : i < l.length) (hk : k < m) : (l.flatMap f).getD (m * i + k) d = (f l[i]).getD k d := by
  induction l generalizing i with
  | nil => simp at hi
  | cons x l ih =>
    have hx : (f x).length = m := hf x List.mem_cons_self
    rw [List.flatMap_cons]
    cases i with
    | zero => rw [Nat.mul_zero, Nat.zero_add, List.getD_append _ _ _ _ (by omega), List.getElem_cons_zero]
    | succ i =>
      have hi : i < l.length := by simpa using hi
      rw [Nat.mul_succ, List.getD_append_right _ _ _ _ (by omega), hx, show m * i + m + k - m = m * i + k by omega,
        ih (fun y hy => hf y (List.mem_cons_of_mem _ hy)) hi, List.getElem_cons_succ]

/-- Byte k of a number's bytes. -/
theorem toBytes_getD_shift {n : Nat} (v : Nat) {k : Nat} (hk : k < n) :
    (toBytes n v).getD k 0 = BitVec.ofNat 8 (v >>> (8 * k)) := by
  simp [toBytes, List.getD, hk]

end Sys2Proof.Bits

namespace Sys2Proof.Machine

open Bits

variable {s t u : State} {T : Nat}

/-- Two folds agree when their steps do wherever an invariant of the fold holds. -/
theorem foldl_congr_of_inv {σ β : Type} (I : σ → Prop) {f g : σ → β → σ} {l : List β} (hI : ∀ u, ∀ x ∈ l, I u → I (g u x))
    (h : ∀ u, ∀ x ∈ l, I u → f u x = g u x) {u : σ} (hu : I u) : l.foldl f u = l.foldl g u := by
  induction l generalizing u with
  | nil => rfl
  | cons x l ih =>
    rw [List.foldl_cons, List.foldl_cons, h u x List.mem_cons_self hu]
    exact ih (fun u y hy => hI u y (List.mem_cons_of_mem _ hy)) (fun u y hy => h u y (List.mem_cons_of_mem _ hy))
      (hI u x List.mem_cons_self hu)

/-- The number in a range whose bytes are bytes of a number. -/
theorem State.number_of_toBytes {A m o n v : Nat} (hn : o + n ≤ m)
    (h : ∀ k < n, s.byte (A + k) = (toBytes m v).getD (o + k) 0) : s.number A n = v / 256 ^ o % 256 ^ n := by
  have hlist : (List.range n).map (fun k => s.byte (A + k)) = toBytes n (v / 256 ^ o) := by
    refine List.map_congr_left fun k hk => ?_
    have hk : k < n := List.mem_range.1 hk
    rw [h k hk, toBytes_getD_shift v (by omega), Nat.shiftRight_eq_div_pow, Nat.shiftRight_eq_div_pow, Nat.div_div_eq_div_mul,
      show (256 : Nat) = 2 ^ 8 from rfl, ← Nat.pow_mul, ← Nat.pow_add, Nat.mul_add]
  rw [State.number, ← ofBytes_map_range fun k => s.byte (A + k), hlist, ofBytes_toBytes]

/-! ### Reads of states whose stores are the same -/

theorem State.accAt_congr (h : t.acc = s.acc) (T n row col : Nat) : t.accAt T n row col = s.accAt T n row col :=
  congrArg (Table.get 0 · _) h

theorem State.byte_congr (h : t.mem = s.mem) (a : Nat) : t.byte a = s.byte a := congrArg (Memory.get · a) h

theorem State.lsNum_congr (h : t.mem = s.mem) (T off n : Nat) : t.lsNum T off n = s.lsNum T off n :=
  congrArg (fun m => ofBytes (Memory.read m (lsAddr T off) n)) h

/-! ### Accumulator tiles (R296, R300) -/

/-- Nothing but the accumulators has changed. -/
def State.onlyAcc (s t : State) : Prop := ∃ a, t = { s with acc := a }

theorem State.onlyAcc_refl (s : State) : s.onlyAcc s := ⟨s.acc, rfl⟩

theorem State.onlyAcc_trans (h : s.onlyAcc t) (k : t.onlyAcc u) : s.onlyAcc u := by
  obtain ⟨_, rfl⟩ := h
  obtain ⟨a, rfl⟩ := k
  exact ⟨a, rfl⟩

theorem State.onlyAcc_foldl {β : Type} {g : State → β → State} (hg : ∀ (s : State) x, s.onlyAcc (g s x)) (l : List β) (s : State) :
    s.onlyAcc (l.foldl g s) :=
  foldl_rel State.onlyAcc State.onlyAcc_refl (fun _ _ _ => State.onlyAcc_trans) g hg l s

theorem State.onlyAcc_mapAcc (s : State) (T n rows cols : Nat) (f : Nat → Nat → W32 → W32) :
    s.onlyAcc (s.mapAcc T n rows cols f) :=
  State.onlyAcc_foldl (fun _ _ => State.onlyAcc_foldl (fun _ _ => ⟨_, rfl⟩) _ _) _ s

theorem State.onlyAcc.mem (h : s.onlyAcc t) : t.mem = s.mem := by
  obtain ⟨_, rfl⟩ := h
  rfl

theorem State.accAt_setAcc (s : State) (T n n' : Nat) (v : W32) {row col row' col' : Nat} (hr : row < 64) (hc : col < 64)
    (hr' : row' < 64) (hc' : col' < 64) : (s.setAcc T n row col v).accAt T n' row' col' =
      if n' = n ∧ row' = row ∧ col' = col then v else s.accAt T n' row' col' := by
  rw [State.accAt, State.setAcc]
  dsimp only
  rw [Table.get_set]
  exact if_congr (by omega) rfl rfl

/-- The elements of one row of a tile after their update. -/
theorem State.accAt_mapRow (s : State) (T n n' : Nat) (f : Nat → W32 → W32) {cols row row' col' : Nat} (hcols : cols ≤ 64)
    (hr : row < 64) (hr' : row' < 64) (hc' : col' < 64) :
    ((List.range cols).foldl (fun s col => s.setAcc T n row col (f col (s.accAt T n row col))) s).accAt T n' row' col' =
      if n' = n ∧ row' = row ∧ col' < cols then f col' (s.accAt T n' row' col') else s.accAt T n' row' col' := by
  induction cols with
  | zero => simp
  | succ cols ih =>
    rw [List.range_succ, List.foldl_append, List.foldl_cons, List.foldl_nil, State.accAt_setAcc _ T n n' _ hr (by omega) hr' hc']
    specialize ih (by omega)
    split
    next h =>
      obtain ⟨rfl, rfl, rfl⟩ := h
      rw [ih, if_neg (by omega), if_pos (by omega)]
    next h => rw [ih]; exact if_congr (by omega) rfl rfl

/-- Every element of a tile within the bounds has become its function's value, and no other element has changed. -/
theorem State.accAt_mapAcc (s : State) (T n n' : Nat) (f : Nat → Nat → W32 → W32) {rows cols row col : Nat} (hrows : rows ≤ 64)
    (hcols : cols ≤ 64) (hr : row < 64) (hc : col < 64) : (s.mapAcc T n rows cols f).accAt T n' row col =
      if n' = n ∧ row < rows ∧ col < cols then f row col (s.accAt T n' row col) else s.accAt T n' row col := by
  unfold State.mapAcc
  induction rows with
  | zero => simp
  | succ rows ih =>
    rw [List.range_succ, List.foldl_append, List.foldl_cons, List.foldl_nil,
      State.accAt_mapRow _ T n n' (f rows) hcols (by omega) hr hc]
    specialize ih (by omega)
    split
    next h =>
      obtain ⟨rfl, rfl, hlt⟩ := h
      rw [ih, if_neg (by omega), if_pos ⟨rfl, by omega, hlt⟩]
    next h => rw [ih]; exact if_congr (by omega) rfl rfl

/-- Clearing tiles one after another clears the elements of those tiles. -/
theorem State.accAt_foldl_clear (T n : Nat) {row col : Nat} (hr : row < 64) (hc : col < 64) (l : List Nat) (s : State) :
    (l.foldl (fun s n => s.mapAcc T n 64 64 fun _ _ _ => 0) s).accAt T n row col =
      if n ∈ l then 0 else s.accAt T n row col := by
  induction l generalizing s with
  | nil => simp
  | cons m l ih =>
    rw [List.foldl_cons, ih, State.accAt_mapAcc _ T m n _ (Nat.le_refl 64) (Nat.le_refl 64) hr hc]
    by_cases hl : n ∈ l
    · simp [hl]
    · simp [hl, hr, hc]

/-- Loading tiles from a base on, each with elements that local store gives, one after another. -/
theorem State.accAt_foldl_load (s : State) (T : Nat) {acc n row col : Nat} (hacc : acc < 64) (hn : n < 64) (hr : row < 64)
    (hc : col < 64) (addr : Nat → Nat → Nat → Nat) {k : Nat} (hk : k ≤ 64) :
    ((List.range k).foldl (fun s i => s.mapAcc T ((acc + i) % 64) 64 64 fun row col _ =>
        BitVec.ofNat 32 (s.lsNum T (addr i row col) 4)) s).accAt T n row col =
      if (n + 64 - acc) % 64 < k then BitVec.ofNat 32 (s.lsNum T (addr ((n + 64 - acc) % 64) row col) 4)
      else s.accAt T n row col := by
  induction k with
  | zero => simp
  | succ k ih =>
    rw [List.range_succ, List.foldl_append, List.foldl_cons, List.foldl_nil,
      State.accAt_mapAcc _ T _ n _ (Nat.le_refl 64) (Nat.le_refl 64) hr hc, ih (by omega)]
    have hmem := (State.onlyAcc_foldl (g := fun s i => s.mapAcc T ((acc + i) % 64) 64 64 fun row col _ =>
      BitVec.ofNat 32 (s.lsNum T (addr i row col) 4)) (fun s _ => s.onlyAcc_mapAcc ..) (List.range k) s).mem
    split
    next h =>
      have hj : (n + 64 - acc) % 64 = k := by omega
      rw [if_pos (by omega), hj, State.lsNum_congr hmem]
    next h =>
      have hj : (n + 64 - acc) % 64 ≠ k := by omega
      exact if_congr (by omega) rfl rfl

/-! ### Stores of local store, one after another -/

/-- Stores these bytes at these offsets of a tile's local store, in this order. -/
def State.storeAll (s : State) (T : Nat) (w : List (Nat × List Byte)) : State := w.foldl (fun s x => s.lsStore T x.1 x.2) s

theorem State.onlyStores_foldl {β : Type} {g : State → β → State} (hg : ∀ (s : State) x, s.onlyStores (g s x)) (l : List β)
    (s : State) : s.onlyStores (l.foldl g s) :=
  foldl_rel State.onlyStores State.onlyStores_refl (fun _ _ _ => State.onlyStores_trans) g hg l s

theorem State.onlyStores_storeAll (s : State) (T : Nat) (w : List (Nat × List Byte)) : s.onlyStores (s.storeAll T w) :=
  State.onlyStores_foldl (fun s _ => s.onlyStores_lsStore ..) w s

theorem State.onlyStores.acc (h : s.onlyStores t) : t.acc = s.acc := by
  obtain ⟨_, _, _, _, _, rfl⟩ := h
  rfl

/-- A byte that none of the stores covers stands. -/
theorem State.byte_storeAll_out (T : Nat) {a : Nat} (w : List (Nat × List Byte)) (s : State)
    (h : ∀ y ∈ w, a < lsAddr T y.1 ∨ lsAddr T y.1 + y.2.length ≤ a) : (s.storeAll T w).byte a = s.byte a := by
  induction w generalizing s with
  | nil => rfl
  | cons x w ih =>
    exact (ih (s.lsStore T x.1 x.2) fun y hy => h y (List.mem_cons_of_mem _ hy)).trans
      (s.byte_lsStore_out T x.1 x.2 (h x List.mem_cons_self))

/-- A byte that one of the stores writes, and no other covers. -/
theorem State.byte_storeAll_in (s : State) (T : Nat) {w : List (Nat × List Byte)} {x : Nat × List Byte} (hx : x ∈ w) {k : Nat}
    (hk : k < x.2.length) (h : ∀ y ∈ w, y = x ∨ x.1 + k < y.1 ∨ y.1 + y.2.length ≤ x.1 + k) :
    (s.storeAll T w).byte (lsAddr T (x.1 + k)) = x.2.getD k 0 := by
  refine foldl_establishes (fun _ => True) (fun u : State => u.byte (lsAddr T (x.1 + k)) = x.2.getD k 0) hx
    (fun _ _ _ _ => trivial) (fun u _ => u.byte_lsStore_in T x.1 x.2 hk) (fun u y hy _ hu => ?_) trivial
  rcases h y hy with rfl | hout
  · exact u.byte_lsStore_in T y.1 y.2 hk
  · exact (u.byte_lsStore_out T y.1 y.2 (by unfold lsAddr; omega)).trans hu

end Sys2Proof.Machine

end

/-! ## Sorting keys and storing their tokens (R132, R297 to R299) -/

section

namespace Sys2Proof.Machine

open Bits

variable {s : State} {T : Nat}

/-! ### The sort -/

/-- Of two keys with their index, the first comes first: it has the lower rank, or the same and the lower index (R297). -/
def ranksBefore (rank : Nat → Nat) (a b : Nat × Nat) : Prop := rank a.1 < rank b.1 ∨ rank a.1 = rank b.1 ∧ a.2 < b.2

/-- The same for entries of the list under insertion, which carry their rank. -/
def entryBefore (a b : (Nat × Nat) × Nat) : Prop := a.2 < b.2 ∨ a.2 = b.2 ∧ a.1.2 < b.1.2

theorem insertAsc_perm (k : Nat) (x : Nat × Nat) (l : List ((Nat × Nat) × Nat)) : (insertAsc k x l).Perm ((x, k) :: l) := by
  induction l with
  | nil => exact .refl _
  | cons y l ih =>
    unfold insertAsc
    split
    · exact .refl _
    · exact (ih.cons y).trans (.swap ..)

theorem insertAsc_pairwise (k : Nat) (x : Nat × Nat) {l : List ((Nat × Nat) × Nat)} (h : l.Pairwise entryBefore)
    (hx : ∀ y ∈ l, y.1.2 < x.2) : (insertAsc k x l).Pairwise entryBefore := by
  induction l with
  | nil => exact List.pairwise_singleton _ _
  | cons y l ih =>
    have ⟨hy, hl⟩ := List.pairwise_cons.1 h
    unfold insertAsc
    split
    next hlt =>
      refine List.pairwise_cons.2 ⟨fun z hz => .inl ?_, h⟩
      rcases List.mem_cons.1 hz with rfl | hz
      · exact hlt
      · rcases hy z hz with hyz | ⟨hyz, -⟩ <;> dsimp only <;> omega
    next hge =>
      refine List.pairwise_cons.2 ⟨fun z hz => ?_, ih hl fun z hz => hx z (List.mem_cons_of_mem _ hz)⟩
      rcases List.mem_cons.1 ((insertAsc_perm k x l).mem_iff.1 hz) with rfl | hz
      · have hidx : y.1.2 < x.2 := hx y List.mem_cons_self
        rcases Nat.lt_or_eq_of_le (Nat.le_of_not_lt hge) with hlt | heq
        · exact .inl hlt
        · exact .inr ⟨heq, hidx⟩
      · exact hy z hz

/-- Insertion of keys in the order of their indices, into entries with lower indices. -/
theorem foldl_insertAsc (rank : Nat → Nat) {l : List (Nat × Nat)} (hl : l.Pairwise fun a b => a.2 < b.2)
    {acc : List ((Nat × Nat) × Nat)} (hacc : acc.Pairwise entryBefore) (hlow : ∀ y ∈ acc, ∀ x ∈ l, y.1.2 < x.2) :
    let r := l.foldl (fun acc x => insertAsc (rank x.1) x acc) acc
    r.Perm (acc ++ l.map fun x => (x, rank x.1)) ∧ r.Pairwise entryBefore := by
  induction l generalizing acc with
  | nil => exact ⟨by simp, hacc⟩
  | cons x l ih =>
    have ⟨hx, hl⟩ := List.pairwise_cons.1 hl
    have hperm := insertAsc_perm (rank x.1) x acc
    have hnext := ih hl (insertAsc_pairwise (rank x.1) x hacc fun y hy => hlow y hy x List.mem_cons_self) fun y hy z hz => by
      rcases List.mem_cons.1 (hperm.mem_iff.1 hy) with rfl | hy
      · exact hx z hz
      · exact hlow y hy z (List.mem_cons_of_mem _ hz)
    exact ⟨hnext.1.trans ((hperm.append_right _).trans List.perm_middle.symm), hnext.2⟩

theorem sortAsc_spec (rank : Nat → Nat) {l : List (Nat × Nat)} (hl : l.Pairwise fun a b => a.2 < b.2) :
    (sortAsc rank l).Perm l ∧ (sortAsc rank l).Pairwise (ranksBefore rank) := by
  have ⟨hperm, hpair⟩ := foldl_insertAsc rank hl .nil fun y hy => absurd hy List.not_mem_nil
  rw [List.nil_append] at hperm
  refine ⟨by simpa [sortAsc, Function.comp_def] using hperm.map (·.1),
    List.pairwise_map.2 (hpair.imp_of_mem fun {a b} ha hb h => ?_)⟩
  have hrank : ∀ y ∈ l.map (fun x => (x, rank x.1)), y.2 = rank y.1.1 := fun y hy => by
    obtain ⟨x, -, rfl⟩ := List.mem_map.1 hy
    rfl
  rwa [entryBefore, hrank a (hperm.mem_iff.1 ha), hrank b (hperm.mem_iff.1 hb)] at h

/-! ### The tokens of a group -/

/-- The keys of a group with their indices. -/
def keyed (keys : List Nat) : List (Nat × Nat) := (List.range keys.length).map fun i => (keys.getD i 0, i)

/-- The keys whose tokens a group's sort emits, in their order. -/
def emitted (ty : KeyTy) (top : Bool) (k : Nat) (keys : List Nat) : List (Nat × Nat) :=
  if top then (sortDesc (rankKey ty) (keyed keys)).take k else sortAsc (rankKey ty) (keyed keys)

theorem tokens_eq (ty : KeyTy) (top : Bool) (k : Nat) (keys : List Nat) :
    tokens ty top k keys = (emitted ty top k keys).flatMap fun x => toBytes 8 (x.1 + x.2 * 2 ^ 32) := by
  cases top <;> rfl

theorem keyed_pairwise (keys : List Nat) : (keyed keys).Pairwise fun a b => a.2 < b.2 :=
  List.pairwise_map.2 List.pairwise_lt_range

theorem mem_keyed {keys : List Nat} {x : Nat × Nat} : x ∈ keyed keys ↔ x.2 < keys.length ∧ x.1 = keys.getD x.2 0 := by
  obtain ⟨v, i⟩ := x
  simp only [keyed, List.mem_map, List.mem_range, Prod.mk.injEq]
  constructor
  · rintro ⟨j, hj, rfl, rfl⟩
    exact ⟨hj, rfl⟩
  · rintro ⟨hi, rfl⟩
    exact ⟨i, hi, rfl, rfl⟩

theorem sortAsc_keyed (rank : Nat → Nat) (keys : List Nat) :
    (sortAsc rank (keyed keys)).Perm (keyed keys) ∧ (sortAsc rank (keyed keys)).Pairwise (ranksBefore rank) :=
  sortAsc_spec rank (keyed_pairwise keys)

theorem mem_of_mem_emitted {ty : KeyTy} {top : Bool} {k : Nat} {keys : List Nat} {x : Nat × Nat}
    (hx : x ∈ emitted ty top k keys) : x ∈ keyed keys := by
  cases top
  · exact (sortAsc_keyed _ keys).1.mem_iff.1 hx
  · exact (sortAsc_keyed _ keys).1.mem_iff.1 (List.mem_of_mem_take hx)

theorem length_emitted {ty : KeyTy} {top : Bool} {k : Nat} {keys : List Nat} (hk : if top then k ≤ keys.length else k = keys.length) :
    (emitted ty top k keys).length = k := by
  have hlen (rank : Nat → Nat) : (sortAsc rank (keyed keys)).length = keys.length := by
    rw [(sortAsc_keyed rank keys).1.length_eq, keyed, List.length_map, List.length_range]
  cases top
  · exact (hlen _).trans hk.symm
  · exact (List.length_take ..).trans ((congrArg (min k) (hlen _)).trans (Nat.min_eq_left hk))

/-- A record-free sort emits ascending keys. -/
theorem emitted_ascending (ty : KeyTy) (k : Nat) (keys : List Nat) : (emitted ty false k keys).Pairwise (ranksBefore (rankKey ty)) :=
  (sortAsc_keyed _ keys).2

/-- Of two keys with their index, the first comes first in descending order (R297). -/
def ranksAbove (ty : KeyTy) (a b : Nat × Nat) : Prop :=
  rankKey ty b.1 < rankKey ty a.1 ∨ rankKey ty a.1 = rankKey ty b.1 ∧ a.2 < b.2

theorem rankKey_le (ty : KeyTy) {v : Nat} (hv : v < 2 ^ 32) : rankKey ty v ≤ 2 ^ 33 := by
  cases ty
  · unfold rankKey rankF32
    dsimp only
    split <;> omega
  · unfold rankKey
    dsimp only
    omega

theorem sortDesc_keyed (ty : KeyTy) {keys : List Nat} (hkeys : ∀ v ∈ keys, v < 2 ^ 32) :
    (sortDesc (rankKey ty) (keyed keys)).Pairwise (ranksAbove ty) := by
  obtain ⟨hperm, hpair⟩ := sortAsc_keyed (fun u => 2 ^ 33 - rankKey ty u) keys
  have hrank (x : Nat × Nat) (hx : x ∈ sortDesc (rankKey ty) (keyed keys)) : rankKey ty x.1 ≤ 2 ^ 33 := by
    obtain ⟨hidx, hkey⟩ := mem_keyed.1 (hperm.mem_iff.1 hx)
    rw [hkey, List.getD_eq_getElem _ _ hidx]
    exact rankKey_le ty (hkeys _ (List.getElem_mem hidx))
  refine hpair.imp_of_mem fun {a b} ha hb h => ?_
  have hra := hrank a ha
  have hrb := hrank b hb
  dsimp only [ranksBefore] at h
  unfold ranksAbove
  omega

theorem emitted_descending (ty : KeyTy) (k : Nat) {keys : List Nat} (hkeys : ∀ v ∈ keys, v < 2 ^ 32) :
    (emitted ty true k keys).Pairwise (ranksAbove ty) :=
  (sortDesc_keyed ty hkeys).sublist (List.take_sublist ..)

/-- A key that a top-k sort does not emit comes after the last that it does. -/
theorem emitted_above (ty : KeyTy) {k : Nat} {keys : List Nat} (hkeys : ∀ v ∈ keys, v < 2 ^ 32) {i : Nat} (hi : i < keys.length)
    (hout : ∀ x ∈ emitted ty true (k + 1) keys, x.2 ≠ i) (hlast : k < (emitted ty true (k + 1) keys).length) :
    ranksAbove ty (emitted ty true (k + 1) keys)[k] (keys.getD i 0, i) := by
  have hmem : (keys.getD i 0, i) ∈ sortDesc (rankKey ty) (keyed keys) :=
    (sortAsc_keyed _ keys).1.mem_iff.2 (mem_keyed.2 ⟨hi, rfl⟩)
  obtain ⟨q, hq, hget⟩ := List.getElem_of_mem hmem
  have hkq : k < q := by
    by_contra hqk
    refine hout _ ((List.mem_take_iff_getElem (l := sortDesc (rankKey ty) (keyed keys))).2 ⟨q, by omega, rfl⟩) ?_
    rw [hget]
  have hpair := List.pairwise_iff_getElem.1 (sortDesc_keyed ty hkeys) k q (by omega) hq hkq
  rw [hget] at hpair
  rwa [show (emitted ty true (k + 1) keys)[k] = (sortDesc (rankKey ty) (keyed keys))[k] from List.getElem_take]

/-! ### The tokens in local store -/

/-- The keys of group j of a sorting command. -/
def State.groupKeys (s : State) (T base : Nat) (step : Int) (stride g j : Nat) : List Nat :=
  (List.range g).map fun i => s.lsNum T ((base + step * j).toNat + i * stride) 4

theorem State.groupKeys_lt (s : State) (T base : Nat) (step : Int) (stride g j : Nat) :
    ∀ v ∈ s.groupKeys T base step stride g j, v < 2 ^ 32 := by
  intro v hv
  obtain ⟨i, -, rfl⟩ := List.mem_map.1 hv
  rw [State.lsNum_eq_number]
  exact s.number_lt _ 4

theorem State.length_groupKeys (s : State) (T base : Nat) (step : Int) (stride g j : Nat) :
    (s.groupKeys T base step stride g j).length = g := by
  rw [State.groupKeys, List.length_map, List.length_range]

theorem State.runSort_eq (s : State) (T : Nat) (ty : KeyTy) (top : Bool) (base : Nat) (step : Int) (stride g k count out : Nat) :
    s.runSort T ty top base step stride g k count out =
      s.storeAll T ((List.range count).map fun j => (out + 8 * k * j, tokens ty top k (s.groupKeys T base step stride g j))) :=
  (List.foldl_map (f := fun j => (out + 8 * k * j, tokens ty top k (s.groupKeys T base step stride g j)))
    (g := fun (s : State) x => s.lsStore T x.1 x.2)).symm

theorem length_tokens {ty : KeyTy} {top : Bool} {k : Nat} {keys : List Nat} (hk : if top then k ≤ keys.length else k = keys.length) :
    (tokens ty top k keys).length = 8 * k := by
  rw [tokens_eq, length_flatMap_blocks _ _ fun _ _ => length_toBytes 8 _, length_emitted hk]

/-- The token in 8 bytes that spell a key and an index. -/
theorem State.tokenAt_of_bytes {a p : Nat} {x : Nat × Nat} (hkey : x.1 < 2 ^ 32) (hidx : x.2 < 2 ^ 32)
    (h : ∀ b < 8, s.byte (lsAddr T (a + (8 * p + b))) = (toBytes 8 (x.1 + x.2 * 2 ^ 32)).getD b 0) : s.tokenAt T a p = x := by
  have hlow := State.number_of_toBytes (s := s) (A := lsAddr T (a + 8 * p)) (m := 8) (o := 0) (n := 4)
    (v := x.1 + x.2 * 2 ^ 32) (by decide) fun k hk => by
      rw [← lsAddr_add, Nat.add_assoc, h k (by omega), Nat.zero_add]
  have hhigh := State.number_of_toBytes (s := s) (A := lsAddr T (a + 8 * p + 4)) (m := 8) (o := 4) (n := 4)
    (v := x.1 + x.2 * 2 ^ 32) (by decide) fun k hk => by
      rw [← lsAddr_add, Nat.add_assoc, Nat.add_assoc, h (4 + k) (by omega)]
  rw [State.tokenAt, hlow, hhigh]
  ext <;> dsimp only <;> omega

/-- Token p of group j, once a sorting command has stored the tokens of all its groups. -/
theorem State.tokenAt_runSort (s : State) (T : Nat) (ty : KeyTy) (top : Bool) (base : Nat) (step : Int) (stride : Nat)
    {g k count out j p : Nat} (hg : g ≤ 2 ^ 32) (hk : if top then k ≤ g else k = g) (hj : j < count) (hp : p < k) :
    ∃ h : p < (emitted ty top k (s.groupKeys T base step stride g j)).length,
      (s.runSort T ty top base step stride g k count out).tokenAt T (out + 8 * k * j) p =
        (emitted ty top k (s.groupKeys T base step stride g j))[p] := by
  have hlen (j : Nat) : if top then k ≤ (s.groupKeys T base step stride g j).length
      else k = (s.groupKeys T base step stride g j).length := by
    rwa [State.length_groupKeys]
  have hp' : p < (emitted ty top k (s.groupKeys T base step stride g j)).length := by rwa [length_emitted (hlen j)]
  refine ⟨hp', ?_⟩
  obtain ⟨hidx, hkey⟩ := mem_keyed.1 (mem_of_mem_emitted (List.getElem_mem hp'))
  have hkey : (emitted ty top k (s.groupKeys T base step stride g j))[p].1 < 2 ^ 32 := by
    rw [hkey, List.getD_eq_getElem _ _ hidx]
    exact s.groupKeys_lt T base step stride g j _ (List.getElem_mem hidx)
  rw [State.length_groupKeys] at hidx
  refine State.tokenAt_of_bytes hkey (by omega) fun b hb => ?_
  have hbyte := s.byte_storeAll_in T (k := 8 * p + b)
    (List.mem_map.2 ⟨j, List.mem_range.2 hj, rfl⟩ : _ ∈ (List.range count).map fun j =>
      (out + 8 * k * j, tokens ty top k (s.groupKeys T base step stride g j))) (by rw [length_tokens (hlen j)]; omega)
    fun y hy => by
      obtain ⟨i, hi, rfl⟩ := List.mem_map.1 hy
      dsimp only
      rw [length_tokens (hlen i)]
      rcases Nat.lt_trichotomy i j with hij | rfl | hij
      · have := Nat.mul_le_mul_left (8 * k) (Nat.succ_le_of_lt hij)
        rw [Nat.mul_succ] at this
        omega
      · exact .inl rfl
      · have := Nat.mul_le_mul_left (8 * k) (Nat.succ_le_of_lt hij)
        rw [Nat.mul_succ] at this
        omega
  rw [State.runSort_eq, hbyte]
  dsimp only
  rw [tokens_eq, getD_flatMap_blocks _ _ (fun _ _ => length_toBytes 8 _) 0 hp' hb]

/-- The keys of the record-free forms stand one after another (R299). -/
theorem State.getD_groupKeys (s : State) (T base : Nat) {G i : Nat} (j : Nat) (hi : i < G) :
    (s.groupKeys T base (4 * G) 4 G j).getD i 0 = s.number (lsAddr T (base + 4 * G * j + 4 * i)) 4 := by
  rw [List.getD_eq_getElem _ _ (by rwa [State.length_groupKeys])]
  unfold State.groupKeys
  rw [List.getElem_map, List.getElem_range, State.lsNum_eq_number]
  congr 2
  have hcast : (base : Int) + 4 * G * j = ((base + 4 * G * j : Nat) : Int) := by push_cast; ring
  rw [hcast, Int.toNat_natCast, Nat.mul_comm i 4]

end Sys2Proof.Machine

end

/-! ## The state after a command's last array cycle (R291) -/

section

namespace Sys2Proof.Machine

open Bits

variable {s t u : State} {T d : Nat} {c : MCmd}

/-! ### What the release of slots leaves alone (R304) -/

/-- Timers, the tile clock and the command queues stand. -/
structure State.keepsQueues (s t : State) : Prop where
  timers : t.timers = s.timers
  tcycle : t.tcycle = s.tcycle
  mq : ∀ T d, (t.dom T d).mq = (s.dom T d).mq

namespace State.keepsQueues

theorem refl (s : State) : s.keepsQueues s := ⟨rfl, rfl, fun _ _ => rfl⟩

theorem trans (h : s.keepsQueues t) (k : t.keepsQueues u) : s.keepsQueues u :=
  ⟨k.timers.trans h.timers, k.tcycle.trans h.tcycle, fun T d => (k.mq T d).trans (h.mq T d)⟩

theorem of_onlyAcc (h : s.onlyAcc t) : s.keepsQueues t := by
  obtain ⟨_, rfl⟩ := h
  exact ⟨rfl, rfl, fun _ _ => rfl⟩

theorem of_onlyStores (h : s.onlyStores t) : s.keepsQueues t := by
  obtain ⟨_, _, _, _, _, rfl⟩ := h
  exact ⟨rfl, rfl, fun _ _ => rfl⟩

theorem modDom (s : State) (T d : Nat) {f : Dom → Dom} (hf : ∀ v, (f v).mq = v.mq) : s.keepsQueues (s.modDom T d f) := by
  refine ⟨rfl, rfl, fun T' d' => ?_⟩
  rw [State.dom_modDom]
  split
  next h => rw [hf, h.1, h.2]
  next => rfl

end State.keepsQueues

theorem State.keepsQueues_releaseSlot (s : State) (T n : Nat) :
    s.keepsQueues (s.releaseSlot T n) ∧ (s.releaseSlot T n).stores = s.stores := by
  have hset (v : Slot) : s.keepsQueues (s.setSlot T n v) := ⟨rfl, rfl, fun _ _ => congrArg Dom.mq (State.dom_setSlot ..)⟩
  unfold State.releaseSlot State.signalRelease
  dsimp only
  split
  · split
    · exact ⟨hset _, rfl⟩
    · exact ⟨(hset _).trans ⟨rfl, rfl, fun _ _ => rfl⟩, rfl⟩
  · exact ⟨.refl s, rfl⟩

/-- Releases change neither the command queues nor what is stored. -/
theorem State.keepsQueues_runWrels (s : State) (T d : Nat) :
    s.keepsQueues (s.runWrels T d) ∧ (s.runWrels T d).stores = s.stores := by
  unfold State.runWrels
  extract_lets dm held go
  have hmod : s.keepsQueues (s.modDom T d fun v => { v with wrels := v.wrels.filter held }) := .modDom s T d fun _ => rfl
  have hfold := foldl_rel (fun s t : State => s.keepsQueues t ∧ t.stores = s.stores) (fun s => ⟨.refl s, rfl⟩)
    (fun _ _ _ h k => ⟨h.1.trans k.1, k.2.trans h.2⟩) (fun (s : State) (w : Nat × Nat) => s.releaseSlot T w.1)
    (fun s w => s.keepsQueues_releaseSlot T w.1) go (s.modDom T d fun v => { v with wrels := v.wrels.filter held })
  exact ⟨hmod.trans hfold.1, hfold.2⟩

/-! ### What a command's effect leaves alone -/

/-- Draining a tile's row stores it. -/
def State.drainedRow (s : State) (T : Nat) (c : MCmd) (ty : DrainTy) (sat : Bool) (acc i row : Nat) : Nat × List Byte :=
  (c.a + 64 * c.st * i + c.st * row, (List.range 64).flatMap fun col =>
    toBytes (drainBytes ty) (drainElem ty sat (s.accAt T ((acc + i) % 64) row col)))

/-- All rows of the tiles that `mdrain` stores, in their order (R301). -/
def State.drainedRows (s : State) (T : Nat) (c : MCmd) (ty : DrainTy) (sat : Bool) (acc n : Nat) : List (Nat × List Byte) :=
  (List.range n).flatMap fun i => (List.range 64).map fun row => s.drainedRow T c ty sat acc i row

theorem State.runCmd_mdrain {g : Guard} {ty : DrainTy} {sat : Bool} {acc : BitVec 6} {r x : XReg} {cM1 : BitVec 12}
    (h : c.ins = .mdrain g ty sat acc r x cM1) :
    s.runCmd T d c = s.storeAll T (s.drainedRows T c ty sat acc.toNat (cM1.toNat + 1)) := by
  have hstore (u : State) (i row : Nat) (hu : u.acc = s.acc) :
      (u.lsStore T (u.drainedRow T c ty sat acc.toNat i row).1 (u.drainedRow T c ty sat acc.toNat i row).2) =
        u.lsStore T (s.drainedRow T c ty sat acc.toNat i row).1 (s.drainedRow T c ty sat acc.toNat i row).2 := by
    simp only [State.drainedRow, State.accAt, hu]
  have hinv (u : State) (y : Nat × List Byte) (hu : u.acc = s.acc) : (u.lsStore T y.1 y.2).acc = s.acc :=
    (u.onlyStores_lsStore ..).acc.trans hu
  unfold State.storeAll State.drainedRows
  rw [State.runCmd, h, List.foldl_flatMap]
  refine foldl_congr_of_inv (fun u : State => u.acc = s.acc) (fun u i _ hu => ?_) (fun u i _ hu => ?_) rfl
  · exact (State.onlyStores_storeAll u T _).acc.trans hu
  · rw [List.foldl_map]
    exact foldl_congr_of_inv (fun u : State => u.acc = s.acc) (fun u _ _ hu => hinv u _ hu) (fun u row _ hu => hstore u i row hu) hu

theorem State.onlyAcc_repeatStep (s : State) (T slot n : Nat) (c : MCmd) (w : TileStep) (st : State × List Nat) (j : Nat) :
    st.1.onlyAcc (s.repeatStep T slot n c w st j).1 := by
  unfold State.repeatStep
  extract_lets tile s1 a b ch
  have hclear : st.1.onlyAcc s1 := by
    unfold s1
    split
    · exact st.1.onlyAcc_mapAcc ..
    · exact st.1.onlyAcc_refl
  dsimp only
  exact State.onlyAcc_trans hclear (s1.onlyAcc_mapAcc ..)

theorem State.onlyAcc_runStep (s : State) (T d slot n count : Nat) (c : MCmd) : s.bump.onlyAcc (s.runStep T d slot n count c) :=
  foldl_rel (fun a b : State × List Nat => a.1.onlyAcc b.1) (fun a => a.1.onlyAcc_refl)
    (fun _ _ _ => State.onlyAcc_trans) (s.repeatStep T slot n c (tileStep c.bytes))
    (fun st j => s.onlyAcc_repeatStep T slot n c (tileStep c.bytes) st j) _ (s.bump, [])

/-- The effect of a command leaves the timers, the tile clock and the queues as they are. -/
theorem State.keepsQueues_runCmd (s : State) (T d : Nat) (c : MCmd) : s.keepsQueues (s.runCmd T d c) := by
  have hsort (ty : KeyTy) (top : Bool) (base : Nat) (step : Int) (stride g k count out : Nat) :
      s.keepsQueues (s.runSort T ty top base step stride g k count out) := by
    rw [State.runSort_eq]
    exact .of_onlyStores (s.onlyStores_storeAll ..)
  unfold State.runCmd
  split
  next => exact (⟨rfl, rfl, fun _ _ => rfl⟩ : s.keepsQueues s.bump).trans (.of_onlyAcc (s.onlyAcc_runStep ..))
  next => exact hsort ..
  next => exact hsort ..
  next => exact hsort ..
  next => exact hsort ..
  next => exact .of_onlyAcc (State.onlyAcc_foldl (fun s _ => s.onlyAcc_mapAcc ..) _ s)
  next => exact .of_onlyAcc (State.onlyAcc_foldl (fun s _ => s.onlyAcc_mapAcc ..) _ s)
  next =>
    exact .of_onlyStores (State.onlyStores_foldl (fun s _ => State.onlyStores_foldl (fun s _ => s.onlyStores_lsStore ..) _ s) _ s)
  next => exact .modDom s T d fun _ => rfl
  next => exact .modDom s T d fun _ => rfl
  next => exact .refl s

/-! ### The last cycle -/

/-- A state that a command's effect cannot tell from another: stores, queues, the domains and slots of its tile, and the
choice of undefined results. -/
structure State.agreesForArray (s u : State) : Prop where
  queues : s.keepsQueues u
  stores : u.stores = s.stores
  dom : ∀ T d, u.dom T d = s.dom T d
  slot : ∀ T n, u.slot T n = s.slot T n
  free : u.free = s.free

theorem State.agreesForArray.mem (h : s.agreesForArray u) : u.mem = s.mem := congrArg (·.1) h.stores
theorem State.agreesForArray.acc (h : s.agreesForArray u) : u.acc = s.acc := congrArg (·.2.2.2) h.stores
theorem State.agreesForArray.slotMem (h : s.agreesForArray u) : u.slotMem = s.slotMem := congrArg (·.2.2.1) h.stores

theorem State.agreesForArray_trans (h : s.agreesForArray t) (k : t.agreesForArray u) : s.agreesForArray u :=
  ⟨h.queues.trans k.queues, k.stores.trans h.stores, fun T d => (k.dom T d).trans (h.dom T d),
    fun T n => (k.slot T n).trans (h.slot T n), k.free.trans h.free⟩

/-- Writing a domain back as it is. -/
theorem State.agreesForArray_modDom (s : State) (T d : Nat) {f : Dom → Dom} (hf : f (s.dom T d) = s.dom T d) :
    s.agreesForArray (s.modDom T d f) := by
  have hdom (T' d' : Nat) : (s.modDom T d f).dom T' d' = s.dom T' d' := by
    rw [State.dom_modDom]
    split
    next h => rw [hf, h.1, h.2]
    next => rfl
  exact ⟨⟨rfl, rfl, fun T' d' => congrArg Dom.mq (hdom T' d')⟩, rfl, hdom, fun _ _ => State.slot_modDom .., rfl⟩

theorem State.agreesForArray_scrub (s : State) (f : Nat → Bool) (b : Bool) : s.agreesForArray (s.scrub f b) := by
  unfold State.scrub
  split
  · exact ⟨.refl s, rfl, fun _ _ => rfl, fun _ _ => rfl, rfl⟩
  · exact ⟨⟨rfl, rfl, fun _ _ => rfl⟩, rfl, fun _ _ => rfl, fun _ _ => rfl, rfl⟩

/-- A change of one command of a queue in which no other has its ticket. -/
theorem Dom.mq_modCmd {v : Dom} {rest : List MCmd} (hq : v.mq = c :: rest) (hrest : ∀ x ∈ rest, x.ticket ≠ c.ticket)
    (f : MCmd → MCmd) : (v.modCmd c.ticket f).mq = f c :: rest := by
  have hid : rest.map (fun x => if x.ticket = c.ticket then f x else x) = rest :=
    (List.map_congr_left fun x hx => if_neg (hrest x hx)).trans (List.map_id _)
  rw [Dom.modCmd]
  dsimp only
  rw [hq, List.map_cons, if_pos rfl, hid]

/-- The command's queue entry without its stall. -/
def State.unstalled (s : State) (T d : Nat) (c : MCmd) : State :=
  s.modDom T d fun v => v.modCmd c.ticket fun c => { c with stall := none }

/-- The state on which the command has its effect. -/
def State.readByArray (s : State) (T d : Nat) (c : MCmd) : State := (s.unstalled T d c).scrub (cmdReads T c) false

/-- The command has had its effect and is marked as finished. -/
def State.computed (s : State) (T d : Nat) (c : MCmd) : State :=
  ((s.readByArray T d c).runCmd T d c).modDom T d fun v =>
    v.modCmd c.ticket fun x => { x with fini := true, left := 0, bytes := (s.unstalled T d c).drainRows T x }

theorem State.arrayCycle_last (h : s.lastCycle T d c) :
    s.arrayCycle T d = ((s.computed T d c).runWrels T d).afterTile 70 (.matrixCommandComplete T d) := by
  obtain ⟨⟨rest, hq, -⟩, hfini, hleft, hstall, hready, hlost⟩ := h
  have hfind : (s.dom T d).mq.find? (fun c => !c.fini) = some c := by rw [hq, List.find?_cons_of_pos (by simp [hfini])]
  rw [State.arrayCycle, hfind]
  dsimp only
  rw [if_neg (by simp [hleft, hready]), hlost, if_neg Bool.false_ne_true, if_pos hleft, hstall]
  rfl

theorem State.agreesForArray_unstalled (h : s.lastCycle T d c) : s.agreesForArray (s.unstalled T d c) := by
  obtain ⟨⟨rest, hq, hrest⟩, -, -, hstall, -, -⟩ := h
  have hmq := Dom.mq_modCmd hq hrest fun c => { c with stall := none }
  rw [show ({ c with stall := none } : MCmd) = c by rw [← hstall], ← hq] at hmq
  exact s.agreesForArray_modDom T d (congrArg (fun l => { s.dom T d with mq := l }) hmq)

theorem State.agreesForArray_readByArray (h : s.lastCycle T d c) : s.agreesForArray (s.readByArray T d c) :=
  State.agreesForArray_trans (State.agreesForArray_unstalled h) (State.agreesForArray_scrub ..)

theorem State.computed_mq (h : s.lastCycle T d c) : ∃ rest,
    ((s.computed T d c).dom T d).mq = { c with fini := true, left := 0, bytes := s.drainRows T c } :: rest := by
  have hrun := (State.agreesForArray_readByArray h).queues.trans ((s.readByArray T d c).keepsQueues_runCmd T d c)
  have hrows : (s.unstalled T d c).drainRows T c = s.drainRows T c := by
    unfold State.drainRows State.accAt
    rw [(State.agreesForArray_unstalled h).acc]
  obtain ⟨⟨rest, hq, hrest⟩, -⟩ := h
  exact ⟨rest, by rw [State.computed, State.dom_modDom_self, Dom.mq_modCmd ((hrun.mq T d).trans hq) hrest, hrows]⟩

theorem State.dom_afterTile (s : State) (n : Nat) (e : Event) (T d : Nat) : (s.afterTile n e).dom T d = s.dom T d := rfl

/-- With its last array cycle a command has its effect, on a state that agrees with the present one, is marked as finished,
and is due to complete. -/
theorem State.lastCycle_spec (h : s.lastCycle T d c) :
    (s.arrayCycle T d).timers = s.timers ++ [((.tile, s.tcycle + 70), .matrixCommandComplete T d)] ∧
    (∃ rest, ((s.arrayCycle T d).dom T d).mq = { c with fini := true, left := 0, bytes := s.drainRows T c } :: rest) ∧
    ∃ u, s.agreesForArray u ∧ (s.arrayCycle T d).mem = (u.runCmd T d c).mem ∧ (s.arrayCycle T d).acc = (u.runCmd T d c).acc := by
  have hrun := (State.agreesForArray_readByArray h).queues.trans ((s.readByArray T d c).keepsQueues_runCmd T d c)
  obtain ⟨hwrels, hstores⟩ := (s.computed T d c).keepsQueues_runWrels T d
  simp only [State.stores, Prod.mk.injEq] at hstores
  obtain ⟨hmem, -, -, hacc⟩ := hstores
  obtain ⟨rest, hmq⟩ := State.computed_mq h
  rw [State.arrayCycle_last h]
  refine ⟨?_, ⟨rest, ?_⟩, s.readByArray T d c, State.agreesForArray_readByArray h, ?_, ?_⟩
  · rw [State.afterTile, hwrels.timers, hwrels.tcycle, State.computed, State.modDom_timers, State.modDom_tcycle, hrun.timers,
      hrun.tcycle]
  · rw [State.dom_afterTile, hwrels.mq, hmq]
  · rw [State.afterTile_mem, hmem, State.computed, State.modDom_mem]
  · rw [State.afterTile_acc, hacc, State.computed, State.modDom_acc]

end Sys2Proof.Machine

end

/-! ## What a matrix command writes (R291, R296 to R301) -/

section

namespace Sys2Proof.Machine

open Bits

variable {s t u : State} {T d : Nat} {c : MCmd}

/-! ### Reads of agreeing states -/

theorem State.number_congr (h : t.mem = s.mem) (a n : Nat) : t.number a n = s.number a n :=
  Finset.sum_congr rfl fun _ _ => by rw [State.byte_congr h]

theorem State.tokenAt_congr (h : t.mem = s.mem) (T a p : Nat) : t.tokenAt T a p = s.tokenAt T a p := by
  rw [State.tokenAt, State.tokenAt, State.number_congr h, State.number_congr h]

theorem State.rowsA_congr (h : t.mem = s.mem) (T : Nat) (c : MCmd) (w : TileStep) (j : Nat) : t.rowsA T c w j = s.rowsA T c w j := by
  have hnum : t.lsNum = s.lsNum := by
    funext T off n
    exact State.lsNum_congr h T off n
  unfold State.rowsA
  rw [hnum]

theorem State.agreesForArray.colsB (h : s.agreesForArray u) (T slot : Nat) (c : MCmd) (w : TileStep) (j : Nat) :
    u.colsB T slot c w j = s.colsB T slot c w j := by
  have hnum : u.slotNum = s.slotNum := by
    funext T n off len
    unfold State.slotNum State.slotByte
    rw [h.slot, h.free, h.slotMem]
  unfold State.colsB
  rw [hnum]

/-! ### The effects -/

/-- A lane of a row that `mdrainv` takes. -/
theorem State.drainRows_lane {g : Guard} {ty : DrainTy} {sat : Bool} {v : VReg} {acc : BitVec 6} {a : XReg} {cM1 : BitVec 12}
    (hins : c.ins = .mdrainv g ty sat v acc a cM1) {i col : Nat} (hi : i < cM1.toNat + 1) (hcol : col < 64) :
    ofBytes (((s.drainRows T c).drop (256 * i + 4 * col)).take 4) =
      (Machine.drainLane ty sat (s.accAt T acc.toNat ((c.a + i) % 64) col)).toNat := by
  have hrows : s.drainRows T c = ((List.range (cM1.toNat + 1)).flatMap fun i => (List.range 64).map fun col =>
      Machine.drainLane ty sat (s.accAt T acc.toNat ((c.a + i) % 64) col)).flatMap fun w => toBytes 4 w.toNat := by
    rw [State.drainRows, hins, List.flatMap_assoc]
    simp only [List.flatMap_map]
  have hpow : 256 ^ (256 * i + 4 * col) = 2 ^ (32 * (64 * i + col)) := by
    rw [show (256 : Nat) = 2 ^ 8 from rfl, ← Nat.pow_mul]
    congr 1
    omega
  rw [ofBytes_take, ofBytes_drop, hrows, hpow, show (256 : Nat) ^ 4 = 2 ^ 32 from rfl, lanes_shift,
    getD_flatMap_blocks (m := 64) _ _ (fun _ _ => by simp) 0 (by simpa using hi) hcol]
  simp [List.getD, hcol]

theorem State.runCmd_mdrainv {g : Guard} {ty : DrainTy} {sat : Bool} {v : VReg} {acc : BitVec 6} {a : XReg} {cM1 : BitVec 12}
    (hins : c.ins = .mdrainv g ty sat v acc a cM1) : s.runCmd T d c = s := by
  rw [State.runCmd, hins]

theorem mem_accTiles {n m count : Nat} : m ∈ accTiles n 1 count ↔ ∃ j < count, m = (n + j) % 64 := by
  simp [accTiles, eq_comm]

theorem State.runCmd_mzero {g : Guard} {acc : BitVec 6} {cM1 : BitVec 12} (hins : c.ins = .mzero g acc cM1) :
    (s.runCmd T d c).mem = s.mem ∧ ∀ n < 64, ∀ row < 64, ∀ col < 64, (s.runCmd T d c).accAt T n row col =
      if ∃ j < cM1.toNat + 1, n = (acc.toNat + j) % 64 then 0 else s.accAt T n row col := by
  rw [State.runCmd, hins]
  dsimp only
  refine ⟨(State.onlyAcc_foldl (fun s _ => s.onlyAcc_mapAcc ..) _ s).mem, fun n _ row hr col hc => ?_⟩
  rw [State.accAt_foldl_clear T n hr hc]
  exact if_congr mem_accTiles rfl rfl

theorem State.runCmd_mload {g : Guard} {acc : BitVec 6} {r : XReg} {cM1 : BitVec 12} (hins : c.ins = .mload g acc r cM1)
    (hcount : cM1.toNat < 64) :
    (s.runCmd T d c).mem = s.mem ∧ ∀ n < 64, ∀ row < 64, ∀ col < 64, (s.runCmd T d c).accAt T n row col =
      if (n + 64 - acc.toNat) % 64 < cM1.toNat + 1 then
        BitVec.ofNat 32 (s.number (lsAddr T (c.a + 16384 * ((n + 64 - acc.toNat) % 64) + 256 * row + 4 * col)) 4)
      else s.accAt T n row col := by
  rw [State.runCmd, hins]
  dsimp only
  refine ⟨(State.onlyAcc_foldl (fun s _ => s.onlyAcc_mapAcc ..) _ s).mem, fun n hn row hr col hc => ?_⟩
  rw [s.accAt_foldl_load T acc.isLt hn hr hc (fun i row col => c.a + 16384 * i + 256 * row + 4 * col) hcount,
    State.lsNum_eq_number]

/-! ### Drained tiles -/

theorem State.length_drainedRow (s : State) (T : Nat) (c : MCmd) (ty : DrainTy) (sat : Bool) (acc i row : Nat) :
    (s.drainedRow T c ty sat acc i row).2.length = 64 * drainBytes ty := by
  rw [State.drainedRow, length_flatMap_blocks _ _ fun _ _ => length_toBytes _ _, List.length_range, Nat.mul_comm]

theorem State.mem_drainedRows {ty : DrainTy} {sat : Bool} {acc n : Nat} {y : Nat × List Byte} :
    y ∈ s.drainedRows T c ty sat acc n ↔ ∃ i < n, ∃ row < 64, s.drainedRow T c ty sat acc i row = y := by
  simp [State.drainedRows]

/-- Rows of a drain are the same or lie apart. -/
theorem State.drainedRow_apart {ty : DrainTy} (sat : Bool) (acc : Nat) (hst : 64 * drainBytes ty ≤ c.st) {i row j row' k : Nat}
    (hr : row < 64) (hr' : row' < 64) (hk : k < 64 * drainBytes ty) :
    let x := s.drainedRow T c ty sat acc i row
    let y := s.drainedRow T c ty sat acc j row'
    y = x ∨ x.1 + k < y.1 ∨ y.1 + y.2.length ≤ x.1 + k := by
  intro x y
  have hlen : y.2.length = 64 * drainBytes ty := s.length_drainedRow ..
  have hx : x.1 = c.a + c.st * (64 * i + row) := by
    show c.a + 64 * c.st * i + c.st * row = _
    ring
  have hy : y.1 = c.a + c.st * (64 * j + row') := by
    show c.a + 64 * c.st * j + c.st * row' = _
    ring
  rcases Nat.lt_trichotomy (64 * i + row) (64 * j + row') with h | h | h
  · have := Nat.mul_le_mul_left c.st (Nat.succ_le_of_lt h)
    rw [Nat.mul_succ] at this
    omega
  · obtain ⟨rfl, rfl⟩ : i = j ∧ row = row' := by omega
    exact .inl rfl
  · have := Nat.mul_le_mul_left c.st (Nat.succ_le_of_lt h)
    rw [Nat.mul_succ] at this
    omega

theorem State.runCmd_mdrain_spec {g : Guard} {ty : DrainTy} {sat : Bool} {acc : BitVec 6} {r x : XReg} {cM1 : BitVec 12}
    (hins : c.ins = .mdrain g ty sat acc r x cM1) (hst : 64 * drainBytes ty ≤ c.st) :
    (s.runCmd T d c).acc = s.acc ∧
    (∀ j < cM1.toNat + 1, ∀ row < 64, ∀ col < 64, ∀ b < drainBytes ty,
      (s.runCmd T d c).byte (lsAddr T (c.a + 64 * c.st * j + c.st * row + drainBytes ty * col + b)) =
        BitVec.ofNat 8 (drainElem ty sat (s.accAt T ((acc.toNat + j) % 64) row col) >>> (8 * b))) ∧
    ∀ a, (∀ j < cM1.toNat + 1, ∀ row < 64, ∀ k < 64 * drainBytes ty,
      a ≠ lsAddr T (c.a + 64 * c.st * j + c.st * row + k)) → (s.runCmd T d c).byte a = s.byte a := by
  rw [State.runCmd_mdrain hins]
  refine ⟨(s.onlyStores_storeAll ..).acc, fun j hj row hr col hc b hb => ?_, fun a ha => ?_⟩
  · have hk : drainBytes ty * col + b < 64 * drainBytes ty := by
      have := Nat.mul_le_mul_left (drainBytes ty) (Nat.succ_le_of_lt hc)
      rw [Nat.mul_succ] at this
      omega
    have hbyte := s.byte_storeAll_in T (State.mem_drainedRows.2 ⟨j, hj, row, hr, rfl⟩)
      (k := drainBytes ty * col + b) (hk.trans_eq (s.length_drainedRow T c ty sat acc.toNat j row).symm) fun y hy => by
        obtain ⟨i, hi, row', hr', rfl⟩ := State.mem_drainedRows.1 hy
        exact State.drainedRow_apart sat acc.toNat hst hr hr' hk
    rw [Nat.add_assoc]
    refine hbyte.trans ?_
    rw [State.drainedRow]
    dsimp only
    rw [getD_flatMap_blocks _ _ (fun _ _ => length_toBytes _ _) 0 (by simpa using hc) hb, List.getElem_range,
      toBytes_getD_shift _ hb]
  · refine State.byte_storeAll_out T _ s fun y hy => ?_
    obtain ⟨i, hi, row, hr, rfl⟩ := State.mem_drainedRows.1 hy
    rw [s.length_drainedRow]
    by_contra hin
    obtain ⟨k, hk⟩ := Nat.exists_eq_add_of_le (show lsAddr T (s.drainedRow T c ty sat acc.toNat i row).1 ≤ a by omega)
    exact ha i hi row hr k (by omega) (hk.trans (lsAddr_add ..).symm)

/-! ### One repeat of `mstep` (R296) -/

theorem TileStep.bounds (b : List Byte) : (tileStep b).rows ≤ 64 ∧ (tileStep b).cols ≤ 64 :=
  ⟨Nat.succ_le_of_lt (BitVec.isLt _), Nat.succ_le_of_lt (BitVec.isLt _)⟩

/-- A single repeat, with no rasterisation table in force. -/
theorem State.runCmd_mstep {g : Guard} {acc : BitVec 6} {slot : BitVec 4} {r : XReg} (hins : c.ins = .mstep g acc slot r 0)
    (hraster : (s.dom T d).raster = []) :
    s.runCmd T d c = (s.repeatStep T slot.toNat acc.toNat c (tileStep c.bytes) (s.bump, []) 0).1 := by
  rw [State.runCmd, hins]
  dsimp only
  rw [State.runStep, hraster]
  rfl

theorem State.accAt_repeatStep (s u : State) (T slot : Nat) {acc : Nat} (hacc : acc < 64) (c : MCmd) (w : TileStep)
    (hrows : w.rows ≤ 64) (hcols : w.cols ≤ 64) {n row col q ch : Nat} (hr : row < 64) (hc : col < 64)
    (hrate : pairRate c.fa c.fb = some (q, ch)) :
    (s.repeatStep T slot acc c w (u, []) 0).1.accAt T n row col =
      if n = acc ∧ row < w.rows ∧ col < w.cols then
        BitVec.ofNat 32 (dot (c.fa == 8) w.sat ch ((s.rowsA T c w 0).getD row []) ((s.colsB T slot c w 0).getD col [])
          (if w.zero then 0 else (u.accAt T n row col).toNat))
      else u.accAt T n row col := by
  rw [State.repeatStep, hrate]
  dsimp only [Option.getD_some]
  rw [Nat.zero_mul, Nat.add_zero, Nat.mod_eq_of_lt hacc, State.accAt_mapAcc _ T acc n _ hrows hcols hr hc]
  cases hz : w.zero
  · rfl
  · simp only [List.contains_nil, Bool.not_false, Bool.and_self, if_true]
    rw [State.accAt_mapAcc _ T acc n _ hrows hcols hr hc]
    split <;> rfl

/-- R291, R296, R300, R301: the clauses by command, each from the command's effect on a state that agrees with the present one. -/
theorem matrixEffects : Claims.MatrixEffects := by
  intro s T d c h
  obtain ⟨htimers, ⟨rest, hmq⟩, u, hu, hmem, hacc⟩ := State.lastCycle_spec h
  have hold (n row col : Nat) : u.accAt T n row col = s.accAt T n row col := State.accAt_congr hu.acc T n row col
  have hnew (n row col : Nat) : (s.arrayCycle T d).accAt T n row col = (u.runCmd T d c).accAt T n row col :=
    State.accAt_congr hacc T n row col
  refine ⟨htimers, ⟨rest, _, hmq, fun g ty sat v acc a cM1 hins => ?_⟩, fun g acc cM1 hins => ?_, fun g acc r cM1 hins hcount => ?_,
    fun g ty sat acc r x cM1 hins hst => ?_, fun g acc slot r hins hraster => ?_⟩
  · rw [State.runCmd_mdrainv hins] at hmem hacc
    exact ⟨hmem.trans hu.mem, hacc.trans hu.acc, fun i hi col hcol => State.drainRows_lane hins hi hcol⟩
  · obtain ⟨hmem', hcells⟩ := State.runCmd_mzero (s := u) (T := T) (d := d) hins
    refine ⟨hmem.trans (hmem'.trans hu.mem), fun n hn row hr col hc => ?_⟩
    rw [hnew, hcells n hn row hr col hc, hold]
  · obtain ⟨hmem', hcells⟩ := State.runCmd_mload (s := u) (T := T) (d := d) hins hcount
    refine ⟨hmem.trans (hmem'.trans hu.mem), fun n hn row hr col hc => ?_⟩
    rw [hnew, hcells n hn row hr col hc, hold, State.number_congr hu.mem]
  · obtain ⟨hacc', hin, hout⟩ := State.runCmd_mdrain_spec (s := u) (T := T) (d := d) hins hst
    refine ⟨hacc.trans (hacc'.trans hu.acc), fun j hj row hr col hc b hb => ?_, fun a ha => ?_⟩
    · rw [State.byte_congr hmem, hin j hj row hr col hc b hb, hold]
    · rw [State.byte_congr hmem, hout a ha, State.byte_congr hu.mem]
  · have hrun := State.runCmd_mstep (s := u) (T := T) (d := d) hins ((congrArg Dom.raster (hu.dom T d)).trans hraster)
    have hmem' : (u.runCmd T d c).mem = u.bump.mem := by
      rw [hrun]
      exact (u.onlyAcc_repeatStep T slot.toNat acc.toNat c (tileStep c.bytes) (u.bump, []) 0).mem
    refine ⟨hmem.trans (hmem'.trans hu.mem), fun q ch hrate n hn row hr col hc => ?_⟩
    obtain ⟨hrows, hcols⟩ := TileStep.bounds c.bytes
    rw [hnew, hrun, State.accAt_repeatStep u u.bump T slot.toNat acc.isLt c _ hrows hcols hr hc hrate, State.rowsA_congr hu.mem,
      hu.colsB, show u.bump.accAt T n row col = s.accAt T n row col from hold n row col]

/-! ### Sorting commands (R297 to R299) -/

/-- Token p of group j of a record-free sorting command is a key of the group with its index, at its place among those emitted. -/
theorem State.lastCycle_token (hu : s.agreesForArray u) {ty : KeyTy} {top : Bool} {G k count j p : Nat} (hG : G ≤ 2 ^ 32)
    (hmem : t.mem = (u.runSort T ty top c.a (4 * G) 4 G k count c.b).mem) (hk : if top then k ≤ G else k = G) (hj : j < count)
    (hp : p < k) :
    let L := emitted ty top k (u.groupKeys T c.a (4 * G) 4 G j)
    let tok := t.tokenAt T (c.b + 8 * k * j) p
    (tok.2 < G ∧ tok.1 = s.number (lsAddr T (c.a + 4 * G * j + 4 * tok.2)) 4) ∧ ∃ h : p < L.length, tok = L[p] := by
  intro L tok
  obtain ⟨h, htok⟩ := u.tokenAt_runSort T ty top c.a (4 * G) 4 hG hk hj hp (out := c.b)
  rw [← State.tokenAt_congr hmem] at htok
  refine ⟨?_, h, htok⟩
  obtain ⟨hidx, hkey⟩ := mem_keyed.1 (mem_of_mem_emitted (List.getElem_mem h))
  rw [← htok, State.length_groupKeys] at hidx
  rw [← htok, State.getD_groupKeys u T c.a j hidx, State.number_congr hu.mem] at hkey
  exact ⟨hidx, hkey⟩

theorem State.runCmd_msort {g : Guard} {ty : KeyTy} {lg : BitVec 4} {o r : XReg} {cM1 : BitVec 12}
    (hins : c.ins = .msort g ty lg o r cM1) : s.runCmd T d c =
      s.runSort T ty false c.a (4 * (2 ^ lg.toNat : Nat)) 4 (2 ^ lg.toNat) (2 ^ lg.toNat) (cM1.toNat + 1) c.b := by
  rw [State.runCmd, hins, Nat.cast_pow, Nat.cast_ofNat]

theorem State.runCmd_mtopk {g : Guard} {ty : KeyTy} {lg : BitVec 4} {kM1 : BitVec 6} {o r : XReg} {cM1 : BitVec 12}
    (hins : c.ins = .mtopk g ty lg kM1 o r cM1) : s.runCmd T d c =
      s.runSort T ty true c.a (4 * (2 ^ lg.toNat : Nat)) 4 (2 ^ lg.toNat) (kM1.toNat + 1) (cM1.toNat + 1) c.b := by
  rw [State.runCmd, hins, Nat.cast_pow, Nat.cast_ofNat]

/-- R132, R297 to R299: both forms, from the order in which a group's keys are emitted. -/
theorem matrixSorting : Claims.MatrixSorting := by
  intro s T d c h
  obtain ⟨-, -, u, hu, hmem, -⟩ := State.lastCycle_spec h
  have hsize (lg : BitVec 4) : 2 ^ lg.toNat ≤ 2 ^ 32 := Nat.pow_le_pow_right (by decide) (by omega)
  refine ⟨fun g ty lg o r cM1 hins j hj => ?_, fun g ty lg kM1 o r cM1 hins hk j hj => ?_⟩
  · intro G tok
    rw [State.runCmd_msort hins] at hmem
    have htoken {p : Nat} (hp : p < G) := State.lastCycle_token hu (hsize lg) hmem rfl hj hp
    refine ⟨fun p hp => (htoken hp).1, fun p q hpq hq => ?_⟩
    obtain ⟨-, hp', htokp⟩ := htoken (hpq.trans hq)
    obtain ⟨-, hq', htokq⟩ := htoken hq
    have hpair := List.pairwise_iff_getElem.1 (emitted_ascending ty G _) p q hp' hq' hpq
    rwa [← htokp, ← htokq] at hpair
  · intro G K tok
    rw [State.runCmd_mtopk hins] at hmem
    have htoken {p : Nat} (hp : p < K) := State.lastCycle_token hu (hsize lg) hmem hk hj hp
    have hkeys := u.groupKeys_lt T c.a (4 * G) 4 G j
    refine ⟨fun p hp => (htoken hp).1, fun p q hpq hq => ?_, fun i hi hout => ?_⟩
    · obtain ⟨-, hp', htokp⟩ := htoken (hpq.trans hq)
      obtain ⟨-, hq', htokq⟩ := htoken hq
      have hpair := List.pairwise_iff_getElem.1 (emitted_descending ty K hkeys) p q hp' hq' hpq
      rwa [← htokp, ← htokq] at hpair
    · obtain ⟨-, hlast, htok⟩ := htoken (Nat.lt_succ_self kM1.toNat)
      have habove := emitted_above ty hkeys (i := i) (by rwa [State.length_groupKeys]) (fun x hx => ?_) hlast
      · rw [← htok, State.getD_groupKeys u T c.a j hi, State.number_congr hu.mem] at habove
        exact habove.imp_right (.imp_left Eq.symm)
      · obtain ⟨p, hp, rfl⟩ := List.getElem_of_mem hx
        have hpK : p < K := hp.trans_le (length_emitted ((State.length_groupKeys u ..).symm ▸ hk)).le
        obtain ⟨-, _, htokp⟩ := htoken hpK
        rw [← htokp]
        exact hout p hpK

/-- Settles O31, by the effect of each command on a state that agrees with the one before its last cycle: tiles cell by cell,
stores row by row and group by group, and the order in which a stable insertion leaves the keys of a group. -/
theorem matrixArray : Obligations.MatrixArray := ⟨matrixEffects, matrixSorting⟩

end Sys2Proof.Machine

end

/-! ## Matrix waits and weight slots -/

section

namespace Sys2Proof.Machine

open Bits

variable {s t u : State} {g : Guard} {d : XReg} {slot : BitVec 4} {n : Nat}

/-- Checks that pass for some registers pass for an instruction that names none. -/
theorem State.runs_nil {regs : List XReg} (h : s.runs g regs true 0 = true) : s.runs g [] true 0 = true :=
  Bool.and_eq_true_iff.2 ⟨State.clear_mono (State.runs_clear h) (by simp), State.runs_next h⟩

/-! ### Waits for matrix commands (R303, R344) -/

theorem State.matFail_none {f : State → State} (h : s.me.mfail = []) : s.matFail f = f s := by rw [State.matFail, h]

theorem State.matFail_some {f : State → State} {pc : W64} {rest : List W64} (h : s.me.mfail = pc :: rest) :
    s.matFail f = (s.modMe fun t => { t with mfail := rest }).raise 0x13 pc := by
  simp [State.matFail, State.modMe, State.modThread, ← State.me_def, h]

theorem mwait_spec {k : BitVec 8} (h : s.runs g [] true 0 = true) :
    (k.toNat < s.myDom.matOf s.cur.2 → exec (.mwait g k) s = .next (s.park (.mwait g k) (.mat k.toNat))) ∧
      (s.myDom.matOf s.cur.2 ≤ k.toNat → exec (.mwait g k) s = .next (s.matFail State.advance)) := by
  rw [exec_mwait, execMwait, State.issue_clear (State.runs_clear h)]
  refine ⟨fun hlt => ?_, fun hle => ?_⟩
  · rw [if_neg (Nat.not_le.2 hlt), State.ranged_next (State.runs_next h)]
  · rw [if_pos hle]
    unfold State.matFail
    cases s.me.mfail with
    | nil => exact congrArg _ (State.ranged_next (State.runs_next h))
    | cons pc rest => rfl

/-! ### Slots of the domain, and of another (R200) -/

theorem State.unowned_slot_none (h : s.myDom.slotMask.getLsbD n = true) : s.unowned [n] [] = none := by
  simp [State.unowned, bit, h]

theorem State.unowned_slot_some (h : s.myDom.slotMask.getLsbD n = false) : s.unowned [n] [] = some (0x0F, BitVec.ofNat 64 n) := by
  simp [State.unowned, bit, h]

theorem unownedSlot_raises (h : s.runs g [d] true 0 = true) (hm : s.myDom.slotMask.getLsbD slot.toNat = false) {i : Instr}
    (hi : i ∈ [Instr.wrel g slot, .wstat g d slot, .wstatWait g d slot]) :
    exec i s = .next (s.raise 0x0F (BitVec.ofNat 64 slot.toNat)) := by
  have hun := State.unowned_slot_some hm
  simp only [List.mem_cons, List.not_mem_nil, or_false] at hi
  rcases hi with rfl | rfl | rfl
  · rw [exec_wrel, execWrel, State.issue_clear (State.runs_clear (State.runs_nil h)), hun, State.unless]
  · rw [exec_wstat, execWstat, State.issue_clear (State.runs_clear h), State.slotUse, hun, State.unless]
  · rw [exec_wstatWait, execWstatWait, State.issue_clear (State.runs_clear h), State.slotUse, hun, State.unless]

/-! ### The release of a slot (R159, R304) -/

/-- A release joins those that the domain keeps until the commands that read the slot have finished. -/
def State.queueRelease (s : State) (n : Nat) : State :=
  s.modDom s.cur.1 s.myDomNo fun v => { v with wrels := v.wrels ++ [(n, v.mticket)] }

/-- The domain keeps the one release, where it kept none. -/
theorem State.dom_queueRelease (hw : s.myDom.wrels = []) : (s.queueRelease n).dom s.cur.1 s.myDomNo =
    { s.myDom with wrels := [(n, s.myDom.mticket)] } := by
  refine (s.dom_modDom_self ..).trans ?_
  rw [← State.myDom, hw]
  rfl

theorem wrel_spec (h : s.runs g [] true 0 = true) (hm : s.myDom.slotMask.getLsbD slot.toNat = true) :
    exec (.wrel g slot) s = .next (if (s.slot s.cur.1 slot.toNat).full = true then
      ((s.queueRelease slot.toNat).runWrels s.cur.1 s.myDomNo).advance else s.advance) := by
  rw [exec_wrel, execWrel, State.issue_clear (State.runs_clear h), State.unowned_slot_none hm]
  refine congrArg _ ((State.complete_next (State.runs_next h)).trans ?_)
  split <;> rfl

/-- A release for which no command is left to wait takes effect at once. -/
theorem State.runWrels_free {T d k : Nat} (hw : (s.dom T d).wrels = [(n, k)]) (hq : (s.dom T d).mq = []) :
    s.runWrels T d = (s.modDom T d fun v => { v with wrels := [] }).releaseSlot T n := by
  simp [State.runWrels, State.modDom, hw, hq]

/-- A release waits while a command that was queued before it has yet to read the slot. -/
theorem State.runWrels_held {T d k : Nat} (hw : (s.dom T d).wrels = [(n, k)])
    (hc : ∃ c ∈ (s.dom T d).mq, c.fini = false ∧ c.ticket < k ∧ slotRead c.ins = some n) :
    s.runWrels T d = s.modDom T d fun v => { v with wrels := [(n, k)] } := by
  have hheld : ((s.dom T d).mq.any fun c => !c.fini && c.ticket < k && slotRead c.ins == some n) = true := by
    simpa [and_assoc] using hc
  simp [State.runWrels, State.modDom, hw, hheld]

/-- What the release of a slot posts: nothing but messages of TYPE 0x11 about it, and one when a domain of a band holds the slot
(R10, R159). -/
theorem State.signalRelease_posts (s : State) (T n : Nat) : ∃ out, s.signalRelease T n = s.posted out ∧
    ((∃ d < 4, (s.dom T d).present = true ∧ (s.dom T d).band ≠ 0 ∧ (s.dom T d).slotMask.getLsbD n = true) → out ≠ []) ∧
    ∀ ev ∈ out, ∃ (m : Msg) (b row : Nat), ev = .meshRoute (s.nodeOf T) m ∧ m.typ = 0x11 ∧
      m.pay = .ctrl (.release b row T n) := by
  unfold State.signalRelease
  split
  next hnone =>
    refine ⟨[], s.posted_nil.symm, ?_, by simp⟩
    rintro ⟨d, hd, hp, hb, hs⟩
    have hd' := List.find?_eq_none.1 hnone d (List.mem_range.2 hd)
    simp [bit, hp, hb, hs] at hd'
  next d _ =>
    refine ⟨[_], rfl, fun _ => List.cons_ne_nil _ _, fun ev hev => ?_⟩
    obtain rfl := List.mem_singleton.1 hev
    exact ⟨_, _, _, rfl, rfl, rfl⟩

/-! ### What the release leaves of the issuing thread, the others and memory -/

/-- Every thread, the thread that issues and the stores of data are as they were. -/
structure State.keepsThreads (s u : State) : Prop where
  cur : u.cur = s.cur
  thread : ∀ T h, u.thread T h = s.thread T h
  stores : u.stores = s.stores

namespace State.keepsThreads

theorem trans (h : s.keepsThreads t) (k : t.keepsThreads u) : s.keepsThreads u :=
  ⟨k.cur.trans h.cur, fun T i => (k.thread T i).trans (h.thread T i), k.stores.trans h.stores⟩

theorem modDom (s : State) (T d : Nat) (f : Dom → Dom) : s.keepsThreads (s.modDom T d f) :=
  ⟨rfl, s.thread_modDom T d f, rfl⟩

theorem setSlot (s : State) (T n : Nat) (v : Slot) : s.keepsThreads (s.setSlot T n v) :=
  ⟨rfl, s.thread_setSlot T n v, rfl⟩

theorem posted (s : State) (w : List Event) : s.keepsThreads (s.posted w) := ⟨rfl, fun _ _ => rfl, rfl⟩

theorem me (h : s.keepsThreads u) : u.me = s.me := by rw [State.me_def, h.cur, h.thread, State.me_def]

/-- An instruction that leaves all that alone retires, and its frame is that of its retirement. -/
theorem advance_frame (h : s.keepsThreads u) : s.nextPc u.advance ∧ s.me.sameRegs u.advance.me ∧ s.sameMemory u.advance ∧
    s.me.sameSystem u.advance.me ∧ s.otherThreads u.advance s.cur.1 s.cur.2 := by
  have hadv : u.advance = u.goto (s.me.pc + 8) := by rw [State.advance, h.me]
  obtain ⟨hregs, hpc, hrun, hsys, -⟩ := u.goto_frame (s.me.pc + 8)
  rw [h.me] at hregs hsys
  rw [hadv]
  refine ⟨⟨hpc, hrun⟩, hregs, State.sameMemory_of_stores h.stores, hsys, fun T i hne => ?_⟩
  rw [State.thread_goto u _ (by rwa [h.cur]), h.thread]

end State.keepsThreads

theorem State.releaseSlot_full {T : Nat} (hf : (s.slot T n).full = true) :
    s.releaseSlot T n = (s.setSlot T n { s.slot T n with full := false }).signalRelease T n :=
  if_pos hf

/-- A change of the releases that a domain keeps leaves the tile's slots to the same domains, which hear of theirs. -/
theorem State.tellsRelease_of_wrels {T e : Nat} {f : Dom → List (Nat × Nat)}
    (h : (s.modDom T e fun v => { v with wrels := f v }).tellsRelease t T n) : s.tellsRelease t T n := by
  obtain ⟨out, hflight, hne, hmsg⟩ := h
  refine ⟨out, hflight, fun ⟨d, hd, hp, hb, hs⟩ => hne ⟨d, hd, ?_⟩, hmsg⟩
  rw [State.dom_modDom]
  split
  next heq =>
    obtain ⟨-, rfl⟩ := heq
    exact ⟨hp, hb, hs⟩
  next => exact ⟨hp, hb, hs⟩

/-- A slot that no command is left to read is released: its full bit clears, and the tile tells of it. -/
theorem State.runWrels_released {T d k : Nat} (hw : (s.dom T d).wrels = [(n, k)]) (hq : (s.dom T d).mq = [])
    (hf : (s.slot T n).full = true) : s.keepsThreads (s.runWrels T d) ∧
      (s.runWrels T d).slot T n = { s.slot T n with full := false } ∧ s.tellsRelease (s.runWrels T d) T n := by
  rw [State.runWrels_free hw hq]
  have hkeep := State.keepsThreads.modDom s T d fun v => { v with wrels := [] }
  have htells := State.tellsRelease_of_wrels (s := s) (T := T) (e := d) (f := fun _ => [])
    (t := (s.modDom T d fun v => { v with wrels := [] }).releaseSlot T n) (n := n)
  generalize hu : (s.modDom T d fun v => { v with wrels := [] }) = u at hkeep htells ⊢
  have hslot : u.slot T n = s.slot T n := hu ▸ s.slot_modDom ..
  rw [State.releaseSlot_full (hslot ▸ hf), hslot] at htells ⊢
  obtain ⟨out, hout, hne, hmsg⟩ :=
    (u.setSlot T n { s.slot T n with full := false }).signalRelease_posts T n
  rw [hout] at htells ⊢
  simp only [State.dom_setSlot] at hne
  exact ⟨(hkeep.trans (.setSlot ..)).trans (.posted ..), u.slot_setSlot_self .., htells ⟨out, rfl, hne, hmsg⟩⟩

section

variable (h : s.runs g [] true 0 = true) (hm : s.myDom.slotMask.getLsbD slot.toNat = true)
  (hf : (s.slot s.cur.1 slot.toNat).full = true) (hw : s.myDom.wrels = [])

include h hm hf hw

/-- `wrel` of a full slot that no command reads (R159, R304). -/
theorem wrel_releases (hq : s.myDom.mq = []) : ∃ t, exec (.wrel g slot) s = .next t ∧ s.nextPc t ∧
    t.slot s.cur.1 slot.toNat = { s.slot s.cur.1 slot.toNat with full := false } ∧ s.tellsRelease t s.cur.1 slot.toNat ∧
    s.me.sameRegs t.me ∧ s.sameMemory t ∧ s.me.sameSystem t.me ∧ s.otherThreads t s.cur.1 s.cur.2 := by
  have hdom := State.dom_queueRelease (n := slot.toNat) hw
  have hslot : (s.queueRelease slot.toNat).slot s.cur.1 slot.toNat = s.slot s.cur.1 slot.toNat := s.slot_modDom ..
  obtain ⟨hkeep, hempty, htells⟩ :=
    State.runWrels_released (congrArg Dom.wrels hdom) ((congrArg Dom.mq hdom).trans hq) (hslot ▸ hf)
  obtain ⟨hpc, hregs, hmem, hsys, hothers⟩ := ((State.keepsThreads.modDom ..).trans hkeep).advance_frame
  refine ⟨_, (wrel_spec h hm).trans (by rw [if_pos hf]), hpc, ?_, State.tellsRelease_of_wrels htells, hregs, hmem, hsys, hothers⟩
  rw [State.slot_advance, hempty, hslot]

/-- `wrel` of a full slot that a command queued before it has yet to read (R304). -/
theorem wrel_waits (hc : ∃ c ∈ s.myDom.mq, c.fini = false ∧ c.ticket < s.myDom.mticket ∧ slotRead c.ins = some slot.toNat) :
    ∃ t, exec (.wrel g slot) s = .next t ∧ s.nextPc t ∧ t.slot s.cur.1 slot.toNat = s.slot s.cur.1 slot.toNat ∧
      t.flight = s.flight ∧ (t.dom s.cur.1 s.myDomNo).wrels = [(slot.toNat, s.myDom.mticket)] ∧ s.me.sameRegs t.me ∧
      s.sameMemory t ∧ s.me.sameSystem t.me ∧ s.otherThreads t s.cur.1 s.cur.2 := by
  have hdom := State.dom_queueRelease (n := slot.toNat) hw
  have hheld := State.runWrels_held (congrArg Dom.wrels hdom) ((congrArg Dom.mq hdom).symm ▸ hc)
  have hkeep := (State.keepsThreads.modDom s ..).trans (.modDom (s.queueRelease slot.toNat) s.cur.1 s.myDomNo fun v =>
    { v with wrels := [(slot.toNat, s.myDom.mticket)] })
  obtain ⟨hpc, hregs, hmem, hsys, hothers⟩ := hkeep.advance_frame
  refine ⟨_, (wrel_spec h hm).trans (by rw [if_pos hf, hheld]), hpc, ?_, rfl, ?_, hregs, hmem, hsys, hothers⟩
  · exact (State.slot_advance ..).trans ((State.slot_modDom ..).trans (State.slot_modDom ..))
  · rw [State.dom_advance, State.dom_modDom_self]

end

/-! ### The status of a slot (R305, R371, R387) -/

/-- What the header of a slot says, field by field (R305); the LEN of a slot whose fill is lost reads 0 (R371; log 34). -/
def Slot.shownBy (x : Slot) (v : W64) : Prop :=
  v.getLsbD 63 = x.full ∧ v.extractLsb' 59 4 = x.fmt ∧ v.extractLsb' 43 16 = x.fill ∧ v.extractLsb' 26 17 = x.scaleOff ∧
    v.extractLsb' 8 18 = BitVec.ofNat 18 (if x.lost then 0 else x.len) ∧ v.extractLsb' 0 8 = 0

/-- The fields of the header do not overlap. -/
theorem slotHeader_shows {x : Slot} (hl : x.len < 2 ^ 18) : x.shownBy (slotHeader x) := by
  have hlen : (if x.lost then 0 else x.len) < 2 ^ 18 := by split <;> omega
  have hfmt := x.fmt.isLt
  have hfill := x.fill.isLt
  have hscale := x.scaleOff.isLt
  have htop : (if x.full = true then 2 ^ 63 else 0) = 2 ^ 63 * x.full.toNat := by cases x.full <;> rfl
  have hfull := x.full.toNat_lt
  have hnat : (slotHeader x).toNat = 2 ^ 63 * x.full.toNat + x.fmt.toNat * 2 ^ 59 + x.fill.toNat * 2 ^ 43 +
      x.scaleOff.toNat * 2 ^ 26 + (if x.lost then 0 else x.len) * 2 ^ 8 := by
    rw [slotHeader, BitVec.toNat_ofNat, htop, Nat.mod_eq_of_lt (by omega)]
  unfold Slot.shownBy
  generalize (if x.lost then 0 else x.len) = len at hlen hnat ⊢
  refine ⟨?_, ?_, ?_, ?_, ?_, ?_⟩
  · rw [← BitVec.testBit_toNat, hnat, Nat.testBit_eq_decide_div_mod_eq]
    cases x.full <;> simp only [Bool.toNat_false, Bool.toNat_true, decide_eq_true_eq, decide_eq_false_iff_not] <;> omega
  all_goals
    refine BitVec.eq_of_toNat_eq ?_
    rw [BitVec.extractLsb'_toNat, hnat, Nat.shiftRight_eq_div_pow]
  · omega
  · omega
  · omega
  · rw [BitVec.toNat_ofNat]
    omega
  · change _ = 0
    omega

/-- A slot of the domain that no SLOT_DUE names is not missed. -/
theorem State.slotUse_owned {f : State → State} (hn : s.nextOk = true) (hm : s.myDom.slotMask.getLsbD n = true)
    (hd : (s.slot s.cur.1 n).due = none) : s.slotUse n f = f s := by
  have hmiss : s.matMiss (some n) [] 0 = none := by simp [State.matMiss, hd]
  rw [State.slotUse, State.unowned_slot_none hm, State.unless, hmiss, State.missOr, State.ranged_next hn]
  rfl

theorem Thread.since_of_not_missed {x : Thread} (h : x.missed = false) : x.since = none := by
  unfold Thread.since
  split
  · rw [h]; rfl
  · rfl

section

variable (h : s.runs g [d] true 0 = true) (hm : s.myDom.slotMask.getLsbD slot.toNat = true)
  (hd : (s.slot s.cur.1 slot.toNat).due = none)

include h hm hd

theorem wstat_reads : exec (.wstat g d slot) s = .next (s.wrote d (slotHeader (s.slot s.cur.1 slot.toNat))) := by
  rw [exec_wstat, execWstat, State.issue_clear (State.runs_clear h), State.slotUse_owned (State.runs_next h) hm hd]
  rfl

theorem wstatWait_reads (hx : (s.slot s.cur.1 slot.toNat).full = true ∨ (s.slot s.cur.1 slot.toNat).lost = true)
    (hmiss : s.me.missed = false) :
    exec (.wstatWait g d slot) s = .next (s.wrote d (slotHeader (s.slot s.cur.1 slot.toNat))) := by
  rw [exec_wstatWait, execWstatWait, State.issue_clear (State.runs_clear h), State.slotUse_owned (State.runs_next h) hm hd]
  dsimp only
  rw [if_pos (Bool.or_eq_true_iff.2 hx), Thread.since_of_not_missed hmiss]
  rfl

theorem wstatWait_waits (hf : (s.slot s.cur.1 slot.toNat).full = false) (hl : (s.slot s.cur.1 slot.toNat).lost = false) :
    exec (.wstatWait g d slot) s = .next (s.park (.wstatWait g d slot) (.wslot slot.toNat)) := by
  rw [exec_wstatWait, execWstatWait, State.issue_clear (State.runs_clear h), State.slotUse_owned (State.runs_next h) hm hd]
  dsimp only
  rw [hf, hl]
  rfl

end

/-- Settles O32, instruction by instruction: `mwait` by the thread's commands that are not complete, `wrel` by the commands that
have yet to read the slot, and both forms of `wstat` by the fields of the header. That a slot whose fill is lost reads LEN 0,
and that `wstat.wait` then goes on, is the model's reading of R371 (log 34). -/
theorem matrixWaitsAndSlots : Obligations.MatrixWaitsAndSlots := by
  unfold Obligations.MatrixWaitsAndSlots
  intro s g n slot d h
  extract_lets mine x
  have h0 := State.runs_nil h
  obtain ⟨hparks, hgoes⟩ := mwait_spec (k := n) h0
  refine ⟨hparks, fun hle => ⟨fun hf => ?_, fun pc rest hf => ?_⟩, fun hm i hi => unownedSlot_raises h hm hi,
    fun hm => ⟨fun hf => ?_, fun hf hw hq => wrel_releases h0 hm hf hw hq, fun hf hw hc => wrel_waits h0 hm hf hw hc,
      fun hd hl => ?_⟩⟩
  · rw [hgoes hle, State.matFail_none hf]
  · rw [hgoes hle, State.matFail_some hf]
  · rw [wrel_spec h0 hm, if_neg (by rw [hf]; exact Bool.false_ne_true)]
  · have hshows : x.shownBy (slotHeader x) := slotHeader_shows hl
    exact ⟨⟨_, wstat_reads h hm hd, hshows⟩, fun hx hmiss => ⟨_, wstatWait_reads h hm hd hx hmiss, hshows⟩,
      wstatWait_waits h hm hd⟩

end Sys2Proof.Machine

end

/-! ## Messages at the tiles they reach: posts, completions, bulk data and saddles -/

section

namespace Sys2Proof.Machine

open Bits

variable {s : State} {m : Msg} {T d n : Nat}

/-! ### Answers and refusals -/

theorem State.tileAt_router {p : Node} (h : s.tileAt p = some T) : ∃ x y, p = .router x y ∧ s.logical x y = some T := by
  cases p with
  | router x y => exact ⟨x, y, rfl, h⟩
  | _ => exact nomatch h

/-- A status in ARG[31:24], above what a message carries in the lower bits (R384). -/
theorem status_of_arg {a : Nat} (ha : a < 2 ^ 24) (status : Nat) :
    (BitVec.ofNat 32 (a + status * 2 ^ 24)).extractLsb' 24 8 = BitVec.ofNat 8 status := by
  refine BitVec.eq_of_toNat_eq ?_
  rw [BitVec.extractLsb'_toNat, BitVec.toNat_ofNat, BitVec.toNat_ofNat, Nat.shiftRight_eq_div_pow]
  omega

/-- A reply is the one new event of a state that has sent it and nothing else. -/
theorem State.repliesTo_send {t : State} (hf : t.flight = s.flight) (m : Msg) (status cause : Nat) (ea : W64) (es : List Elem)
    (iss : Issuer) : s.repliesTo (t.send (replyTo m m.dst status cause ea es iss)) m status cause iss ea es :=
  ⟨_, congrArg (· ++ _) hf, rfl, rfl, rfl, rfl, status_of_arg (by omega) status, rfl⟩

/-- The message is answered with a status, by an acknowledgement, and no byte and no tile changes. -/
def State.refusesWith (s t : State) (m : Msg) (status : Nat) : Prop :=
  s.sameMemory t ∧ t.tiles = s.tiles ∧ ∃ k, t.flight = s.flight ++ [.meshRoute m.dst k] ∧ k.typ = 0x09 ∧ k.dst = m.src ∧
    k.arg.extractLsb' 24 8 = BitVec.ofNat 8 status

theorem State.refusesWith_send {k : Msg} {a status : Nat} (ht : k.typ = 0x09) (hs : k.src = m.dst) (hd : k.dst = m.src)
    (ha : a < 2 ^ 24) (harg : k.arg = BitVec.ofNat 32 (a + status * 2 ^ 24)) : s.refusesWith (s.send k) m status :=
  ⟨State.sameMemory_of_stores rfl, rfl, k, congrArg (fun p => s.flight ++ [.meshRoute p k]) hs, ht, hd,
    harg ▸ status_of_arg ha status⟩

/-- A post that is refused is answered with the status, as any request is. -/
theorem State.refusesWith_reply (htyp : m.typ = 0x05) (ea : W64) (iss : Issuer) (status : Nat) :
    s.refusesWith (s.send (replyTo m m.dst status 0 ea [] iss)) m status :=
  State.refusesWith_send (a := m.arg.toNat % 2 ^ 16) (if_pos (Or.inl htyp)) rfl rfl (by omega) rfl

/-! ### The mailbox (R176, R261) -/

/-- With nobody in `await` a message waits in its partition. -/
theorem State.mboxWaiter_none (h : s.noAwait T d) (e : BitVec 256) : s.mboxWaiter T d e = none := by
  unfold State.mboxWaiter
  dsimp only
  rw [List.filterMap_eq_nil_iff.2]
  · rfl
  · intro i hi
    split
    next k c hrun => exact absurd hrun (h i (List.mem_range.1 hi) k c)
    next => rfl

theorem State.enterMbox_room (h : s.noAwait T d) (hl : (s.dom T d).mbox.length < 16) (e : BitVec 256) :
    s.enterMbox T d e = some (s.modDom T d fun v => { v with mbox := v.mbox ++ [e] }) := by
  rw [State.enterMbox, if_neg (Nat.not_le.2 hl), State.mboxWaiter_none h]

theorem State.enterMbox_full (hl : 16 ≤ (s.dom T d).mbox.length) (e : BitVec 256) : s.enterMbox T d e = none := if_pos hl

theorem State.entered_modDom (s : State) (T d : Nat) (e : BitVec 256) :
    s.entered (s.modDom T d fun v => { v with mbox := v.mbox ++ [e] }) T d e :=
  congrArg Dom.mbox (s.dom_modDom_self T d _)

/-- The statuses of a message whose job has no domain on the tile (R363, R384). -/
theorem State.noDomain_eq (s : State) (pid : Nat) :
    s.noDomain pid = if (∃ r ∈ s.removals, r.pid = pid) ∨ s.jobOf pid = none then 2 else 5 := by
  simp [State.noDomain]

/-- The entry of a message in a partition (R177). -/
def State.entryOf (s : State) (m : Msg) (mkind status : Nat) (d0 d1 : W64) : BitVec 256 :=
  mboxEntry mkind status (m.arg.extractLsb' 0 16).toNat (nodeKind m.src) (nodeX m.src) (nodeY m.src) m.sdom.toNat s.time d0 d1

section

variable {d0 d1 ea : W64} {iss : Issuer} (hT : s.tileAt m.dst = some T)

include hT

section

variable (hpay : m.pay = .post d0 d1 ea iss)

include hpay

theorem mailboxPost_fenced (htyp : m.typ = 0x05) (hf : (s.tile T).fenced = true) :
    completes (.mailboxPost m) s fun t => s.refusesWith t m 2 := by
  obtain ⟨x, y, hdst, hl⟩ := State.tileAt_router hT
  refine ⟨_, ?_, State.refusesWith_reply htyp ea iss 2⟩
  rw [exec_mailboxPost, execMailboxPost]
  simp only [hdst, hpay, hl, hf, if_true]

theorem mailboxPost_absent (htyp : m.typ = 0x05) (hf : (s.tile T).fenced = false) (hd : s.domOf T m.pid.toNat = none) :
    completes (.mailboxPost m) s fun t =>
      s.refusesWith t m (if (∃ r ∈ s.removals, r.pid = m.pid.toNat) ∨ s.jobOf m.pid.toNat = none then 2 else 5) := by
  obtain ⟨x, y, hdst, hl⟩ := State.tileAt_router hT
  refine ⟨_, ?_, State.refusesWith_reply htyp ea iss _⟩
  rw [exec_mailboxPost, execMailboxPost, ← State.noDomain_eq]
  simp only [hdst, hpay, hl, hf, hd, Bool.false_eq_true, if_false]

section

variable (hf : (s.tile T).fenced = false) (hd : s.domOf T m.pid.toNat = some d)
  (hperm : (s.dom T d).permMask.getLsbD 1 = true)

include hf hd hperm

theorem mailboxPost_enters (hw : s.noAwait T d) (hroom : (s.dom T d).mbox.length < 16) :
    completes (.mailboxPost m) s fun t =>
      s.entered t T d (s.entryOf m 1 0 d0 d1) ∧ s.repliesTo t m 0 0 iss ea [] ∧ s.sameMemory t := by
  obtain ⟨x, y, hdst, hl⟩ := State.tileAt_router hT
  refine ⟨(s.modDom T d fun v => { v with mbox := v.mbox ++ [s.entryOf m 1 0 d0 d1] }).send (replyTo m m.dst 0 0 ea [] iss), ?_,
    s.entered_modDom T d _, State.repliesTo_send rfl m 0 0 ea [] iss, State.sameMemory_of_stores rfl⟩
  have hp : permits (s.dom T d) [1] = true := by simp [permits, bit, hperm]
  rw [exec_mailboxPost, execMailboxPost]
  simp only [hdst, hpay, hl, hf, hd, hp, State.enterMbox_room hw hroom, Bool.false_eq_true, if_false, Bool.not_true]
  rfl

theorem mailboxPost_full (hfull : 16 ≤ (s.dom T d).mbox.length) :
    completes (.mailboxPost m) s fun t => s.refusesWith t m 7 := by
  obtain ⟨x, y, hdst, hl⟩ := State.tileAt_router hT
  refine ⟨_, ?_, State.refusesWith_send (k := { m with
    typ := 9, src := m.dst, dst := m.src, arg := BitVec.ofNat 32 (m.arg.toNat % 2 ^ 16 + 7 * 2 ^ 24) }) rfl rfl rfl
      (Nat.lt_of_lt_of_le (Nat.mod_lt _ (by decide)) (by decide)) rfl⟩
  have hp : permits (s.dom T d) [1] = true := by simp [permits, bit, hperm]
  rw [exec_mailboxPost, execMailboxPost]
  simp only [hdst, hpay, hl, hf, hd, hp, State.enterMbox_full hfull, Bool.false_eq_true, if_false, Bool.not_true]

end

end

section

variable {mk st : Nat} (hpay : m.pay = .done mk st d0 d1) (hd : s.domOf T m.pid.toNat = some d)

include hpay hd

theorem engineCompletion_enters (hw : s.noAwait T d) (hroom : (s.dom T d).mbox.length < 16) :
    completes (.engineCompletion m) s fun t =>
      s.entered t T d (s.entryOf m mk st d0 d1) ∧ s.sameMemory t ∧ t.flight = s.flight := by
  obtain ⟨x, y, hdst, hl⟩ := State.tileAt_router hT
  refine ⟨_, ?_, s.entered_modDom T d _, State.sameMemory_of_stores rfl, rfl⟩
  rw [exec_engineCompletion, execEngineCompletion]
  simp only [hdst, hpay, hl, hd, State.enterMbox_room hw hroom]
  rfl

theorem engineCompletion_full (hfull : 16 ≤ (s.dom T d).mbox.length) :
    exec (.engineCompletion m) s = .next (s.after 64 (.engineCompletion m)) := by
  obtain ⟨x, y, hdst, hl⟩ := State.tileAt_router hT
  rw [exec_engineCompletion, execEngineCompletion]
  simp only [hdst, hpay, hl, hd, State.enterMbox_full hfull]

end

end

/-! ### Arrivals at a barrier (R180) -/

theorem Barrier.settle_eq (b : Barrier) : b.settle = barrierAfter b := by
  unfold Barrier.settle barrierAfter
  simp only [Bool.and_eq_true, beq_iff_eq]

/-- A barrier for which no thread waits changes alone. -/
theorem State.changeBar_idle (h : ∀ k < 16, ∀ c, (s.thread T k).run ≠ .parked (.bar n) c) (b : Barrier) :
    s.changeBar T n b = s.setBar T n (barrierAfter b) := by
  have hnone : s.barWaiters T n = [] := by
    refine List.filter_eq_nil_iff.2 fun k hk => ?_
    split
    next j c hrun =>
      intro he
      exact h k (List.mem_range.1 hk) c (hrun.trans (by rw [beq_iff_eq.1 he]))
    next => exact Bool.false_ne_true
  unfold State.changeBar
  dsimp only
  rw [hnone, b.settle_eq]
  split
  · rfl
  · split <;> rfl

/-- What bulk data count into their barrier. -/
theorem State.bar_bulkEvent (h : ∀ k < 16, ∀ c, (s.thread T k).run ≠ .parked (.bar (m.arg.extractLsb' 28 4).toNat) c)
    (len T' k : Nat) : (s.bulkEvent T m len).bar T' k =
      if m.arg.getLsbD 27 = true ∧ (T', k) = (T, (m.arg.extractLsb' 28 4).toNat) then
        let x := s.bar T (m.arg.extractLsb' 28 4).toNat
        barrierAfter { x with pending := x.pending - BitVec.ofNat 36 len }
      else s.bar T' k := by
  unfold State.bulkEvent
  by_cases hbit : m.arg.getLsbD 27 = true
  · rw [if_pos (show bit m.arg 27 = true from hbit), State.barArrive, fld, State.changeBar_idle h, State.bar_setBar]
    simp only [hbit, Prod.mk.injEq, true_and]
  · rw [if_neg (show ¬ bit m.arg 27 = true from hbit), if_neg fun hb => hbit hb.1]

theorem State.bulkEvent_stores (h : ∀ k < 16, ∀ c, (s.thread T k).run ≠ .parked (.bar (m.arg.extractLsb' 28 4).toNat) c)
    (len : Nat) : (s.bulkEvent T m len).stores = s.stores ∧ (s.bulkEvent T m len).flight = s.flight := by
  unfold State.bulkEvent
  split
  · rw [State.barArrive, fld, State.changeBar_idle h]
    exact ⟨rfl, rfl⟩
  · exact ⟨rfl, rfl⟩

/-! ### Bulk data (R169, R170) -/

section

variable {b : List Byte} {unit : Nat} {iss : Issuer} {third : Bool} (hT : s.tileAt m.dst = some T)
  (hpay : m.pay = .bulk b unit iss third)

include hT hpay

section

variable (ho : m.ordered = false) (hseq : m.seq ≠ 0xFFFF)

include ho hseq

theorem bulkData_refused {code : Nat} (hcode : s.bulkCode T m.pid.toNat (m.arg.extractLsb' 0 24).toNat b.length iss third = code)
    (h0 : code ≠ 0) : completes (.bulkData m) s fun t => s.refusesWith t m code := by
  obtain ⟨x, y, hdst, hl⟩ := State.tileAt_router hT
  have hseq' : (m.seq == 0xFFFF#16) = false := beq_eq_false_iff_ne.2 hseq
  refine ⟨s.send (bulkAck m code unit iss), ?_,
    State.refusesWith_send rfl rfl rfl (m.seq.isLt.trans (by decide)) (congrArg (BitVec.ofNat 32) (Nat.add_comm ..))⟩
  rw [exec_bulkData, execBulkData]
  simp only [hdst, hpay, hl, ho, hseq', fld, hcode, Bool.not_false, Bool.and_false, Bool.false_eq_true, if_false, ne_eq, h0,
    not_false_eq_true, if_true]

theorem bulkData_taken (hcode : s.bulkCode T m.pid.toNat (m.arg.extractLsb' 0 24).toNat b.length iss third = 0)
    (hfull : m.arg.getLsbD 26 = false) : exec (.bulkData m) s =
      .next (((s.lsStore T (m.arg.extractLsb' 0 24).toNat b).bulkEvent T m b.length).send (bulkAck m 0 unit iss)) := by
  obtain ⟨x, y, hdst, hl⟩ := State.tileAt_router hT
  have hseq' : (m.seq == 0xFFFF#16) = false := beq_eq_false_iff_ne.2 hseq
  rw [exec_bulkData, execBulkData]
  simp only [hdst, hpay, hl, ho, hseq', fld, hcode, bit, hfull, State.deliver, Bool.not_false, Bool.and_false, Bool.false_eq_true,
    if_false, ne_eq, not_true_eq_false]

end

end

theorem State.bulkCode_absent {pid off len : Nat} {iss : Issuer} {third : Bool} (hd : s.domOf T pid = none) :
    s.bulkCode T pid off len iss third = 5 := by rw [State.bulkCode, hd]

/-- A domain that lets everybody in and has no code refuses only what its allotment does not hold (R170). -/
theorem State.bulkCode_open {pid off len : Nat} {iss : Issuer} {third : Bool} (hd : s.domOf T pid = some d)
    (hperm : (s.dom T d).permMask = 0xF) (hcode : (s.dom T d).codeSize = 0) :
    s.bulkCode T pid off len iss third = if (s.dom T d).holds off len = true then 0 else 6 := by
  have hp : permits (s.dom T d) (if third = true then [1, 3] else [1]) = true := by
    cases third <;> simp [permits, bit, hperm]
  have ht : (s.dom T d).touchesCode off len = false := by simp [Dom.touchesCode, hcode]
  rw [State.bulkCode, hd]
  simp [hp, ht, ← Bool.not_eq_true]

theorem State.tiles_lsStore (s : State) (T off : Nat) (b : List Byte) : (s.lsStore T off b).tiles = s.tiles := by
  obtain ⟨_, _, _, _, _, h⟩ := s.onlyStores_lsStore T off b
  rw [h]

/-- Bulk data that the domain's allotment holds are stored, counted and acknowledged. -/
theorem bulkData_stored {b : List Byte} {unit : Nat} {iss : Issuer} {third : Bool} (hT : s.tileAt m.dst = some T)
    (hpay : m.pay = .bulk b unit iss third) (ho : m.ordered = false) (hseq : m.seq ≠ 0xFFFF)
    (hfull : m.arg.getLsbD 26 = false)
    (hcode : s.bulkCode T m.pid.toNat (m.arg.extractLsb' 0 24).toNat b.length iss third = 0)
    (hidle : ∀ k < 16, ∀ c, (s.thread T k).run ≠ .parked (.bar (m.arg.extractLsb' 28 4).toNat) c) :
    completes (.bulkData m) s fun t =>
      s.storedTo t (lsAddr T (m.arg.extractLsb' 0 24).toNat) b.length (fun k => b.getD k 0) ∧
      (∀ T' k, t.bar T' k = if m.arg.getLsbD 27 = true ∧ (T', k) = (T, (m.arg.extractLsb' 28 4).toNat) then
        let x := s.bar T (m.arg.extractLsb' 28 4).toNat
        barrierAfter { x with pending := x.pending - BitVec.ofNat 36 b.length } else s.bar T' k) ∧
      ∃ k, t.flight = s.flight ++ [.meshRoute m.dst k] ∧ k.typ = 0x09 ∧ k.dst = m.src ∧ k.arg = m.seq.setWidth 32 := by
  let u := s.lsStore T (m.arg.extractLsb' 0 24).toNat b
  have hu : u.tiles = s.tiles := s.tiles_lsStore ..
  have hthread (k : Nat) : u.thread T k = s.thread T k := by rw [State.thread, State.tile, hu]; rfl
  have hbar (T' k : Nat) : u.bar T' k = s.bar T' k := by rw [State.bar, State.tile, hu]; rfl
  have hidle' : ∀ k < 16, ∀ c, (u.thread T k).run ≠ .parked (.bar (m.arg.extractLsb' 28 4).toNat) c :=
    fun k hk c => hthread k ▸ hidle k hk c
  obtain ⟨hstores, hflight⟩ := State.bulkEvent_stores hidle' b.length
  refine ⟨_, bulkData_taken hT hpay ho hseq hcode hfull,
    State.storedTo_congr (s.storedTo_lsStore T _ fun _ _ => rfl) hstores, fun T' k => ?_, bulkAck m 0 unit iss, ?_, rfl, rfl, ?_⟩
  · have h := State.bar_bulkEvent hidle' b.length T' k
    rw [hbar, hbar] at h
    exact h
  · exact congrArg (· ++ _) (hflight.trans (s.flight_lsStore ..))
  · exact (congrArg (BitVec.ofNat 32) (by omega)).trans (BitVec.ofNat_toNat 32 m.seq)

section

variable {b : List Byte} {key : Nat}

/-- Bytes for a domain are stored, and counted under the saddle's or the edge's key. -/
def State.countedStore (s : State) (T d off : Nat) (b : List Byte) (key : Nat) : State :=
  (s.lsStore T off b).modDom T d fun v => { v with due := Table.set 0 v.due key (Table.get 0 v.due key + b.length) }

theorem State.storedTo_countedStore (off : Nat) :
    s.storedTo (s.countedStore T d off b key) (lsAddr T off) b.length fun k => b.getD k 0 :=
  State.storedTo_congr (s.storedTo_lsStore T off fun _ _ => rfl) rfl

theorem State.flight_countedStore (off : Nat) : (s.countedStore T d off b key).flight = s.flight :=
  s.flight_lsStore T off b

theorem State.dom_countedStore (off : Nat) : (s.countedStore T d off b key).dom T d =
    { s.dom T d with due := Table.set 0 (s.dom T d).due key (Table.get 0 (s.dom T d).due key + b.length) } := by
  have hdom : (s.lsStore T off b).dom T d = s.dom T d := by rw [State.dom, State.tile, s.tiles_lsStore]; rfl
  rw [State.countedStore, State.dom_modDom_self, hdom]

/-- A saddle, or a part of one, is stored and counted, and the tile looks whether it is ready (R36, R40). -/
theorem saddleMessage_stores {iss : Issuer} {third : Bool} (hT : s.tileAt m.dst = some T)
    (hpay : m.pay = .bulk b key iss third) (hd : s.domOf T m.pid.toNat = some d) (hf : (s.tile T).fenced = false) :
    exec (.saddleMessage m) s =
      .next ((s.countedStore T d (m.arg.extractLsb' 0 24).toNat b key).post (.tileReady T d)) := by
  obtain ⟨x, y, hdst, hl⟩ := State.tileAt_router hT
  rw [exec_saddleMessage, execSaddleMessage]
  simp only [hdst, hpay, hl, hd, hf, Bool.false_eq_true, if_false]
  rfl

end

end Sys2Proof.Machine

end

/-! ## Messages at the tiles they reach: acknowledgements of streams, and configuration -/

section

namespace Sys2Proof.Machine

open Bits

variable {s : State} {m : Msg} {T d n : Nat}

/-! ### Acknowledged streams (R145, R175) -/

/-- A stream of which k more messages have been acknowledged. -/
def TxStream.ackedBy (x : TxStream) (k : Nat) : TxStream := { x with acked := x.acked + k }

/-- How many of a stream's queued messages its window admits (R145). -/
def TxStream.room (x : TxStream) : Nat := min x.queue.length (x.window - (x.next - x.acked))

/-- The stream when those have gone, and the messages with their sequence numbers. -/
def TxStream.pumped (x : TxStream) : TxStream := { x with next := x.next + x.room, queue := x.queue.drop x.room }
def TxStream.sent (x : TxStream) : List Msg :=
  (x.queue.take x.room).zipIdx.map fun y => { y.1 with seq := BitVec.ofNat 16 (x.next + y.2) }

theorem pumpAll_singleton (x : TxStream) : pumpAll [x] = ([x.pumped], x.sent) := rfl

/-- The distance from one sequence number to another that is at most a window ahead (R145). -/
theorem seqDist_eq {last acked k : Nat} (h : (last + 1) % 65536 = (acked + k) % 65536) (hk : k < 65536) :
    seqDist (last + 1) acked = k := by
  unfold seqDist
  omega

theorem ackStreams_singleton {x : TxStream} {last k : Nat} (h : (last + 1) % 65536 = (x.acked + k) % 65536)
    (hk : k ≤ x.next - x.acked) (hw : x.next - x.acked < 65536) :
    ackStreams [x] x.stream x.dst last = [x.ackedBy k] := by
  have hdist := seqDist_eq h (hk.trans_lt hw)
  simp [ackStreams, hdist, hk, TxStream.ackedBy]

/-- Messages are sent in order, each from its source. -/
theorem State.foldl_send (s : State) (l : List Msg) : l.foldl State.send s = s.posted (l.map fun x => .meshRoute x.src x) := by
  refine (s.foldl_posted _ (fun x => [.meshRoute x.src x]) (fun w x => rfl) l).trans ?_
  rw [← List.map_eq_flatMap]

/-- A stream that has nothing queued and nothing unacknowledged, as the statement puts it. -/
theorem drained_pumped (x : TxStream) :
    drained [x.pumped] x.stream = true ↔ x.acked = x.next + x.room ∧ x.queue.length ≤ x.room := by
  simp only [drained, TxStream.pumped, List.all_cons, List.all_nil, Bool.and_true, bne_self_eq_false, Bool.false_or,
    Bool.and_eq_true, List.isEmpty_iff, List.drop_eq_nil_iff, beq_iff_eq]
  exact and_comm.trans (and_congr_left' eq_comm)

/-- Receivers forget streams; what a tile has to send stays. -/
theorem State.txStreams_closeRx (s : State) (src : Node) (tx : List TxStream) (stream T : Nat) :
    ((s.closeRx src tx stream).tile T).txStreams = (s.tile T).txStreams := by
  refine foldl_keeps (fun s : State => (s.tile T).txStreams) _ (fun s x => ?_) _ s
  split
  · split
    · rw [State.tile_modTile]
      split
      next h => rw [h]
      next => rfl
    · rfl
  · rfl

/-- A drained stream of a tile without patterns is released (R175). -/
theorem State.releasePortTx_drained {x : TxStream} (htx : (s.tile T).txStreams = [x]) (hx : Machine.drained [x] x.stream = true)
    (hports : ∀ e ∈ (s.tile T).ports, e.2.cur = none) : ((s.releasePortTx T x.stream).tile T).txStreams = [] := by
  have hspent : x.spent x.stream = true := by
    simpa [Machine.drained, TxStream.spent] using hx
  unfold State.releasePortTx
  dsimp only
  split
  next hany =>
    obtain ⟨e, he, hnames⟩ := List.any_eq_true.1 hany
    rw [hports e he] at hnames
    exact absurd hnames Bool.false_ne_true
  next =>
    rw [State.tile_modTile_self]
    simp only [State.txStreams_closeRx, htx, List.filter_cons, hspent, Bool.not_true, Bool.false_eq_true, if_false,
      List.filter_nil]

/-- A tile's only stream takes what its window admits: the messages leave, and the stream stands behind them. -/
def State.pumpedAt (s : State) (T : Nat) (y : TxStream) : State :=
  (s.modTile T fun t => { t with txStreams := [y.pumped] }).posted (y.sent.map fun z => .meshRoute z.src z)

theorem State.tile_pumpedAt (s : State) (T : Nat) (y : TxStream) :
    (s.pumpedAt T y).tile T = { s.tile T with txStreams := [y.pumped] } :=
  s.tile_modTile_self T fun t => { t with txStreams := [y.pumped] }

/-- At a port whose pattern names the stream everything that the pattern has sent is acknowledged (R145). -/
def State.ackPort (T stream : Nat) (s : State) (e : Nat × SPort) : State :=
  match e.2.cur with
  | some r => if namesStream r.cmd stream then (s.setPort T e.1 { e.2 with cur := some { r with acked := r.sent } }).checkPort T e.1
    else s
  | none => s

/-- A port without a pattern is left alone. -/
theorem State.foldl_ackPort_idle {l : List (Nat × SPort)} (stream : Nat) (h : ∀ e ∈ l, e.2.cur = none) :
    l.foldl (State.ackPort T stream) s = s :=
  List.foldlRecOn (motive := (· = s)) l _ rfl fun u hu e he => by rw [hu, State.ackPort, h e he]

section

variable {x : TxStream} {k : Nat} (hT : s.tileAt m.dst = some T) (htx : (s.tile T).txStreams = [x])
  (hstream : x.stream = (m.arg.extractLsb' 0 8).toNat) (hdst : x.dst = m.src)
  (hlast : ((m.arg.extractLsb' 16 16).toNat + 1) % 65536 = (x.acked + k) % 65536) (hk : k ≤ x.next - x.acked)
  (hw : x.next - x.acked < 65536)

include hT htx hstream hdst hlast hk hw

/-- The acknowledgement of k more messages of a tile's only stream (R145): what its window admits goes out, and a stream that
has drained is looked up in the tile's patterns. -/
theorem orderedStreamAck_pumps : exec (.orderedStreamAck m) s = .next (
    let u := s.pumpedAt T (x.ackedBy k)
    if drained [(x.ackedBy k).pumped] x.stream = true then
      ((u.tile T).ports.foldl (State.ackPort T x.stream) u).releasePortTx T x.stream
    else u) := by
  obtain ⟨a, b, hnode, hl⟩ := State.tileAt_router hT
  have hack := ackStreams_singleton hlast hk hw
  rw [hdst, hstream] at hack
  rw [exec_orderedStreamAck, execOrderedStreamAck, fld, fld, hstream]
  unfold State.streamAck
  simp only [hnode, hl, htx, hack, pumpAll_singleton, State.foldl_send]
  rfl

theorem orderedStreamAck_open (hleft : x.acked + k ≠ x.next + (x.ackedBy k).room ∨ (x.ackedBy k).room < x.queue.length) :
    exec (.orderedStreamAck m) s = .next (s.pumpedAt T (x.ackedBy k)) := by
  have hnot : ¬ drained [(x.ackedBy k).pumped] x.stream = true := fun h => by
    obtain ⟨hacked, hqueue⟩ := (drained_pumped (x.ackedBy k)).1 h
    exact hleft.elim (· hacked) (Nat.not_lt.2 hqueue)
  exact (orderedStreamAck_pumps hT htx hstream hdst hlast hk hw).trans (congrArg _ (if_neg hnot))

theorem orderedStreamAck_drained (hacked : x.acked + k = x.next + (x.ackedBy k).room)
    (hqueue : x.queue.length ≤ (x.ackedBy k).room) : completes (.orderedStreamAck m) s fun t =>
      (∀ e ∈ (s.tile T).ports, e.2.cur = none) → (t.tile T).txStreams = [] := by
  have hdrained := (drained_pumped (x.ackedBy k)).2 ⟨hacked, hqueue⟩
  have htile := s.tile_pumpedAt T (x.ackedBy k)
  refine ⟨_, (orderedStreamAck_pumps hT htx hstream hdst hlast hk hw).trans (congrArg _ (if_pos hdrained)), fun hports => ?_⟩
  have hports' : ∀ e ∈ ((s.pumpedAt T (x.ackedBy k)).tile T).ports, e.2.cur = none := by rwa [htile]
  rw [State.foldl_ackPort_idle x.stream hports']
  exact State.releasePortTx_drained (x := (x.ackedBy k).pumped) (congrArg Tile.txStreams htile) hdrained hports'

end

/-! ### Configuration writes (R315, R316, R363) -/

/-- The removal of a job starts where none is under way. -/
theorem State.startRemoval_first (hr : s.removals = []) (pid : Nat) (region : Option Nat) (status : Nat) :
    ∃ r, (s.startRemoval pid region status).removals = [r] ∧ r.pid = pid ∧ r.region = region ∧ r.status = status := by
  unfold State.startRemoval
  rw [if_neg (by simp [hr])]
  extract_lets regs tiles blocks l s1 s2
  have h1 : s1.removals = [] := (foldl_keeps State.removals
    (fun (s : State) (e : Nat × Region) => s.setRegion e.1 (some { e.2 with phase := 3 })) (fun _ _ => rfl) regs s).trans hr
  have h2 : s2.removals = [⟨pid, region, l, status, blocks⟩] := congrArg (· ++ _) h1
  exact ⟨_, (foldl_keeps State.removals (fun (s : State) n => s.post (.killWrite n (BitVec.ofNat 16 pid))) (fun _ _ => rfl) blocks
    s2).trans h2, rfl, rfl, rfl⟩

section

variable {a b : Nat} {iss : Issuer}

theorem State.tile_send (s : State) (k : Msg) (T : Nat) : (s.send k).tile T = s.tile T := rfl

/-- A tile in another THREAD_MODE, with every register of every thread cleared (R315). -/
def State.remoded (s : State) (a b : Nat) : State := (s.clearThreads a).modTile a fun t => { t with mode := BitVec.ofNat 2 b }

theorem State.tile_remoded (s : State) (a b : Nat) :
    (s.remoded a b).tile a = { s.tile a with threads := [], mode := BitVec.ofNat 2 b } := by
  rw [State.remoded, State.tile_modTile_self, State.clearThreads, State.tile_modTile_self]

theorem State.flight_remoded (s : State) (a b : Nat) : (s.remoded a b).flight = s.flight := rfl
theorem State.stores_remoded (s : State) (a b : Nat) : (s.remoded a b).stores = s.stores := rfl

theorem repart_free (hpay : m.pay = .config 1 a b iss) (hfree : ∀ k < 4, (s.dom a k).present = false) :
    completes (.configurationWrite m) s fun t => (t.tile a).mode = BitVec.ofNat 2 b ∧ (∀ h, t.thread a h = Thread.reset) ∧
      s.sameMemory t ∧ ∃ e, e.data = 0 ∧ s.repliesTo t m 0 0 iss 0 [e] := by
  have hany : ((List.range 4).any fun d => (s.dom a d).present) = false := by
    simpa using hfree
  refine ⟨(s.remoded a b).send (replyTo m m.dst 0 0 0 [statusElem 0] iss), ?_, ?_, fun h => ?_,
    State.sameMemory_of_stores (t := (s.remoded a b).send _) (s.stores_remoded a b),
    statusElem 0, rfl, State.repliesTo_send (s.flight_remoded a b) m 0 0 0 _ iss⟩
  · rw [exec_configurationWrite, execConfigurationWrite]
    simp only [hpay, hany, Bool.false_eq_true, if_false]
    rfl
  · rw [State.tile_send, State.tile_remoded]
  · rw [State.thread, State.tile_send, State.tile_remoded]
    rfl

theorem repart_held (hpay : m.pay = .config 1 a b iss) (hheld : ∃ k < 4, (s.dom a k).present = true) :
    completes (.configurationWrite m) s fun t => t.tiles = s.tiles ∧ ∃ e, e.data = 1 ∧ s.repliesTo t m 0 0 iss 0 [e] := by
  have hany : ((List.range 4).any fun d => (s.dom a d).present) = true := by
    simpa using hheld
  refine ⟨s.send (replyTo m m.dst 0 0 0 [statusElem 1] iss), ?_, rfl, statusElem 1, rfl, State.repliesTo_send rfl m 0 0 0 _ iss⟩
  rw [exec_configurationWrite, execConfigurationWrite]
  simp only [hpay, hany, if_true]

theorem slotw_sets (hpay : m.pay = .config 2 a b iss) (hp : (s.dom a (b % 4)).present = true) (hb : b / 4 ≠ 0) :
    completes (.configurationWrite m) s fun t => t.dom a (b % 4) = { s.dom a (b % 4) with weight := b / 4 } ∧
      ∃ e, e.data = 0 ∧ s.repliesTo t m 0 0 iss 0 [e] := by
  refine ⟨(s.modDom a (b % 4) fun v => { v with weight := b / 4 }).send (replyTo m m.dst 0 0 0 [statusElem 0] iss), ?_,
    s.dom_modDom_self a (b % 4) fun v => { v with weight := b / 4 }, statusElem 0, rfl, State.repliesTo_send rfl m 0 0 0 _ iss⟩
  rw [exec_configurationWrite, execConfigurationWrite]
  simp [hpay, hp, hb]

theorem slotw_refused (hpay : m.pay = .config 2 a b iss) (h : (s.dom a (b % 4)).present = false ∨ b / 4 = 0) :
    completes (.configurationWrite m) s fun t => t.tiles = s.tiles ∧ ∃ e, e.data = 2 ∧ s.repliesTo t m 0 0 iss 0 [e] := by
  refine ⟨s.send (replyTo m m.dst 0 0 0 [statusElem 2] iss), ?_, rfl, statusElem 2, rfl, State.repliesTo_send rfl m 0 0 0 _ iss⟩
  have hbad : (!(s.dom a (b % 4)).present || b / 4 == 0) = true := by
    rcases h with h | h <;> simp [h]
  rw [exec_configurationWrite, execConfigurationWrite]
  simp only [hpay, hbad, if_true]

theorem jkill_starts (hpay : m.pay = .config 3 a b iss) (hr : s.removals = []) :
    completes (.configurationWrite m) s fun t => ∃ r, t.removals = [r] ∧ r.pid = a ∧ r.region = none ∧ r.status = 0x20 := by
  refine ⟨(s.send (replyTo m m.dst 0 0 0 [statusElem 0] iss)).startRemoval a none 0x20, ?_,
    State.startRemoval_first (s := s.send _) hr a none 0x20⟩
  rw [exec_configurationWrite, execConfigurationWrite]
  simp only [hpay]

theorem snap_sets (hpay : m.pay = .config 4 a b iss) :
    exec (.configurationWrite m) s = .next { s with snapTime := BitVec.ofNat 64 a } := by
  rw [exec_configurationWrite, execConfigurationWrite]
  simp only [hpay]

end

/-- Settles O37, message by message: what a post, a completion, bulk data, a saddle, an acknowledgement and a configuration write
do at a tile, each from what the model does with it there. That a message of a job without a domain on the tile is refused with
0x05, and with 0x02 when the job is removed or no more, is the model's choice (log 156). -/
theorem messagesAtTiles : Obligations.MessagesAtTiles := by
  unfold Obligations.MessagesAtTiles
  intro s m T d hT entry off refused
  refine ⟨fun d0 d1 ea iss htyp hpay => ⟨fun hf => mailboxPost_fenced hT hpay htyp hf, fun hf hd => ?_, fun hf hd hperm hw =>
      ⟨fun hroom => ?_, fun hfull => mailboxPost_full hT hpay hf hd hperm hfull⟩⟩,
    fun mk st d0 d1 hpay hd hw => ⟨fun hroom => ?_, fun hfull => engineCompletion_full hT hpay hd hfull⟩,
    fun b unit iss third hpay ho hseq hfull => ⟨fun hd => ?_, fun hd hperm hcode => ⟨fun hlo hhi => ?_, fun hout => ?_⟩⟩,
    fun b key iss third hpay hd hf => ?_, fun x htx hstream hdst => ?_,
    fun a b iss htyp => ⟨fun hpay => ⟨repart_free hpay, repart_held hpay⟩, fun hpay => ⟨slotw_sets hpay, slotw_refused hpay⟩,
      jkill_starts, snap_sets⟩⟩
  · exact mailboxPost_absent hT hpay htyp hf hd
  · exact mailboxPost_enters hT hpay hf hd hperm hw hroom
  · exact engineCompletion_enters hT hpay hd hw hroom
  · exact bulkData_refused hT hpay ho hseq (State.bulkCode_absent hd) (by decide)
  · have hholds : (s.dom T d).holds off b.length = true := by simp [Dom.holds, hlo, hhi]
    intro n x hidle
    exact bulkData_stored hT hpay ho hseq hfull ((State.bulkCode_open hd hperm hcode).trans (if_pos hholds)) hidle
  · have hholds : ¬ (s.dom T d).holds off b.length = true := by
      simp only [Dom.holds, Bool.and_eq_true, decide_eq_true_eq]
      omega
    exact bulkData_refused hT hpay ho hseq ((State.bulkCode_open hd hperm hcode).trans (if_neg hholds)) (by decide)
  · exact ⟨_, saddleMessage_stores hT hpay hd hf, State.storedTo_countedStore (d := d) (key := key) off,
      State.dom_countedStore off, congrArg (· ++ _) (State.flight_countedStore off)⟩
  · intro last k hlast hk hw n
    by_cases hleft : x.acked + k ≠ x.next + n ∨ n < x.queue.length
    · exact ⟨_, orderedStreamAck_open hT htx hstream hdst hlast hk hw hleft,
        fun _ => congrArg Tile.txStreams (s.tile_pumpedAt T (x.ackedBy k)), fun hacked hqueue => absurd hleft (by omega),
        fun _ => congrArg (s.flight ++ ·) List.map_map⟩
    · have hacked : x.acked + k = x.next + n := by omega
      have hqueue : x.queue.length ≤ n := by omega
      obtain ⟨t, ht, htx'⟩ := orderedStreamAck_drained hT htx hstream hdst hlast hk hw hacked hqueue
      exact ⟨t, ht, fun h => absurd h hleft, fun _ _ => htx', fun h => absurd h (by omega)⟩

end Sys2Proof.Machine

end

/-! ## A control message that has arrived -/

section

namespace Sys2Proof.Machine

/-- Tile 0's ready contribution to row 0 of band 0, for the row's west station (R40, R135). -/
def readyContribution : Msg := blockMsg (State.reset.nodeOf 0) (.station 0) 0x11 1 0 (.ctrl (.ready 0 0 0))

/-- At the station the contribution becomes the row's ready reduction (R40, R135). -/
theorem readyContribution_arrives :
    completes (.meshRoute (.station 0) readyContribution) State.reset fun t => t.flight = [.readyReduction 0 0 0 0] :=
  ⟨_, rfl, by decide +kernel⟩

/-- Refutes O38: its first clause has every message that arrives run as `arrival` gives it, and has no premise that the message
is no control message. `arrival` knows a message by its TYPE and its destination alone, and gives a control message the event of
a reserved type; in the model the content of a message of TYPE 0x11 decides, and a ready contribution that arrives becomes the
row's ready reduction (R40, R135). -/
theorem not_messageRouting : ¬ Obligations.MessageRouting := by
  unfold Obligations.MessageRouting
  intro h
  obtain ⟨t, ht, hflight⟩ := readyContribution_arrives
  obtain ⟨harrives, -⟩ := h State.reset (.station 0) readyContribution rfl rfl
  obtain rfl := Host.Outcome.next.inj (ht.symm.trans (harrives rfl fun _ => Node.noConfusion))
  exact absurd hflight (by decide +kernel)

end Sys2Proof.Machine

end
